-- ==== Sys2Proof/Word.lean ====
section
/-! DEFINITION. The word types of the module: bytes, 64-bit register values, and byte strings as command payloads and memory
contents carry them. -/

namespace Sys2Proof

/-- A byte of a payload, of tile memory or of a stack. -/
abbrev Byte := BitVec 8

/-- A register value: every register is 64 bits wide (R7). -/
abbrev W64 := BitVec 64

/-- A byte string, first byte at the lowest offset. -/
abbrev Bytes := List Byte

end Sys2Proof
end

