-- ==== Sys2Proof/Syntax.lean ====
section
/-! DEFINITION. The commands of the block: one constructor of `Instr` for each row of the spec's table of operations and
events, in the table's order, with its operands. A command packet's constructor carries its header (`Hdr`, Table 16-1) and the
parameters its payload holds (Tables 16-3 and 16-5); an event's constructor carries what the outside world supplies with it
(a measured value, a received packet, which unit it concerns). -/

namespace Sys2Proof

/-- The header fields of a command packet (Table 16-1) that its row does not fix. `length` is the payload length the header
states. `prompt` is not a header field: it says of a command that the runtime firmware executes whether the firmware answers
at once (true) or only at a later RUNTIME_REPLY, or never (FW_TIMEOUT). -/
structure Hdr where
  channel : Nat
  tag : Nat
  partition : Nat
  context : Nat
  length : Nat
  deadlineEn : Bool
  deadline : Nat
  relayed : Bool
  prompt : Bool
deriving DecidableEq, Repr

/-- Which register of a management port an address write names (R339). -/
inductive MgmtReg where
  | cfg | addrHi | addrLo
deriving DecidableEq, Repr

/-- Weight-set open payload (Table 16-5, opcode 0x0401). -/
structure WeightOpen where
  tag : Nat
  shards : Nat
  stream : Nat
  slot : Nat
  sramWin : Nat
  sramLen : Nat
  sramBase : Nat
  scaleWin : Nat
  scaleLen : Nat
  scaleBase : Nat
  maskWin : Nat
  maskLen : Nat
  maskBase : Nat
  stackWin : Nat
  stackLen : Nat
  stackBase : Nat
deriving DecidableEq, Repr

/-- Storage read payload (Table 16-5, opcode 0x0402). -/
structure StorageReadReq where
  controller : Nat
  target : Nat
  index : Nat
  nsid : Nat
  lba : Nat
  blocks : Nat
deriving DecidableEq, Repr

/-- Storage connect payload (Table 16-5, opcode 0x0409), and whether the controller declines the PDU digests that the connection requires
(Table 13-5). -/
structure StorageConn where
  controller : Nat
  port : Nat
  tcpPort : Nat
  ioQueues : Nat
  depth : Nat
  address : Nat
  subnqn : Bytes
  declines : Bool := false
deriving DecidableEq, Repr

/-- Stream open payload (Table 16-5, opcode 0x0607). -/
structure StreamOpenReq where
  port : Nat
  direction : Nat
  kind : Nat
  protect : Nat
  keySlot : Nat
  peerUdp : Nat
  peerHandle : Nat
  peerAddr : Nat
deriving DecidableEq, Repr

/-- Training step payload (Table 16-5, opcode 0x0601); `tail` is payload bytes 64 to 127 (share, param_addr, params). -/
structure TrainReq where
  rosterDigest : Bytes
  step : Nat
  seed : Nat
  weightVersion : Nat
  deadlineNs : Nat
  entry : Nat
  share : Nat
  paramAddr : Nat
  params : Bytes
deriving DecidableEq, Repr

/-- Sequence admit payload: the fields of words 0 to 5 and 7 of Table 14-1 that the command names (R303, R357). `pin` is the
two-bit field of the payload, 3 for pin-to-current. -/
structure AdmitReq where
  prio : Nat
  pin : Nat
  adapterEn : Bool
  adapter : Nat
  tag : Nat
  kvIndex : Nat
  limit : Nat
  promptLen : Nat
  deadlineTick : Nat
  ring : Nat
  promptAddr : Nat
  dropLate : Bool
  late : Bool := false
deriving DecidableEq, Repr

/-- A Mladub packet as it arrives at a port (Table 17-4), with what the port found on the way: its frame and UDP checksum
good, an extension or fragment header or a tag in its frame, CE-marked, an authentication tag that verifies, and its send counter (R371, R372, R380);
`of_`: of a packet of a contribution, the step and attempt that the contribution carries (R261). -/
structure MladubPkt where
  ptype : Nat
  ece : Bool
  isProtected : Bool
  eom : Bool
  retrans : Bool
  ackValid : Bool
  dstStream : Nat
  srcStream : Nat
  psn : Nat
  ackPsn : Nat
  message : Nat
  offset : Nat
  payload : Bytes
  stamp : Nat
  udpOk : Bool
  extHeader : Bool
  ce : Bool
  tagOk : Bool
  counter : Nat
  of_ : Option (Nat × Nat) := none
deriving DecidableEq, Repr

/-- The body of an ACK (Table 17-5): the count of CE-marked packets and the ranges received beyond ack_psn; `peer`: the far end of the
job-start hop that it acknowledges instead of a stream (R382). -/
structure AckBody where
  stream : Nat
  ackPsn : Nat
  ceCount : Nat
  ranges : List (Nat × Nat)
  rttNs : Nat
  peer : Option Nat := none
deriving DecidableEq, Repr

/-- A reduction message: a void request or a verdict (Table 17-5, types 0x20 to 0x22). `verdict`: 1 confirmed, 2 voided,
3 abandoned. -/
structure RedMsg where
  rosterDigest : Bytes
  step : Nat
  attempt : Nat
  member : Nat
  verdict : Nat
  cause : Nat
  named : Nat
deriving DecidableEq, Repr

/-- A part of a job-start delivery (R382): the message's broadcast id, generation and tree order, and of the roster followed by
the blob, `total` bytes in all, those from `offset`. `sender` is the address of the bellwether whose delivery it is. -/
structure DeliverPart where
  sender : Nat
  broadcastId : Nat
  generation : Nat
  treeOrder : List Nat
  rosterLen : Nat
  offset : Nat
  total : Nat
  data : Bytes
deriving DecidableEq, Repr

/-- The kinds of IPv6 neighbour traffic a port handles (R371); `probe`: a solicitation from the unspecified address, by which another node
probes for a duplicate. -/
inductive NdKind where
  | solicitation (target : Nat) (probe : Bool := false)
  | advertisement (target : Nat)
  | routerAdvertisement (router : Nat)
  | echoRequest (id : Nat) (data : Bytes)
  | packetTooBig
deriving DecidableEq, Repr

/-- Kyoris capability TLV (Table 17-3). -/
structure CapTlv where
  version : Nat
  ptpOffered : Bool
  ecnMarking : Bool
  ptpDomain : Nat
deriving DecidableEq, Repr

/-- A PTP source: time port 0 (A) or 1 (B), or a fabric port. -/
inductive PtpSrc where
  | timePort (q : Nat)
  | fabric (p : Nat)
deriving DecidableEq, Repr

/-- A Sync as the time unit takes it, with what its Follow_Up, its Announce and the delay exchange tell of its master (R30, R31): the
source, the arrival by the local counter less the master's timestamp, the mean path delay, the master's rank by the best master clock
algorithm (lower is better), its PTP domain, the sync interval as a power of two in seconds, the address it was sent to, and the UDP
ports that it and its general messages (Announce, Follow_Up) came to, none under IEEE 802.3. -/
structure PtpMsg where
  src : PtpSrc
  rawNs : Int
  pathDelayNs : Nat
  rank : Nat
  domain : Nat
  interval : Int
  dest : Nat
  udpPort : Option Nat
  generalPort : Option Nat
deriving DecidableEq, Repr

/-- Sensor kinds, numbered as the detail of fault 0x3208 numbers them (R403). -/
inductive SensorKind where
  | junction | entryVoltage | entryCurrent | standbyVoltage | standbyCurrent | coolantTemp | coolantDp | stackTemp
  | portDieTemp | controlDieTemp
deriving DecidableEq, Repr

/-- How a code check of a memory word or burst came out (R101, R224). -/
inductive EccOutcome where
  | clean | corrected | uncorrectable
deriving DecidableEq, Repr

/-- What the code check of tile SRAM found while an operation read it, and the line it was in (R101). -/
structure SramEcc where
  outcome : EccOutcome
  line : Nat
deriving DecidableEq, Repr

/-- Who makes a stack request (R223, R224): a tile, a port engine or the command engine, with the context it acts for. -/
inductive Requester where
  | tile (t : Nat) | portEngine (ctx : Nat) | commandEngine
deriving DecidableEq, Repr

/-- What a completed array or mule operation measured of its own timing; the ARY_, MVP_ and TIL_ARB_DENY counters add it
(Tables 5-12 and 6-8). -/
structure Stalls where
  rowDry : Nat
  colDry : Nat
  drainFull : Nat
  widened : Nat
  active : Nat
  lag : Nat
  wait1 : Nat
  wait2 : Nat
  wait3 : Nat
deriving DecidableEq, Repr

/-- What a power-up stage found when it ended (R430 to R435): whether it is P7, which runs beside others; fields whose rails failed (P4),
physical tiles failing BIST with a dead router or another failure (P6), stacks present and trained with their rate code (P6), the
configuration image present in boot flash (P7), and whether EMERGENCY_OFF_N is low (R391, R431). -/
structure StageResult where
  fieldsFailed : List Nat
  tileFails : List Nat
  routerFails : List Nat
  stackRates : List (Nat × Nat)
  configImage : Option Bytes
  durationMs : Nat
  emergencyLow : Bool := false
  p7 : Bool := false
deriving DecidableEq, Repr

/-- The two interfaces of the service connector (R487). -/
inductive SvcIface where
  | uart | smbus
deriving DecidableEq, Repr

/-- TAP instructions (R486). -/
inductive TapInstr where
  | bypass | idcode | sample | extest | other (level : Nat)
deriving DecidableEq, Repr

/-- One constructor per row of the spec's table, in its order. -/
inductive Instr where
  | deviceIdentity (h : Hdr)
  | echo (h : Hdr) (data : Bytes)
  | configurationRead (h : Hdr) (addrs : List Nat)
  | configurationWrite (h : Hdr) (head : Nat) (entries : List (Nat × Nat))
  | tilNumStatusClearCount (h : Hdr) (tile value : Nat)
  | tilSramEccClearCount (h : Hdr) (tile value : Nat)
  | tilCounterCtrlClearAll (h : Hdr) (tile value : Nat)
  | aryQueueSelWrite (h : Hdr) (tile feeder queue : Nat)
  | bwdCtrlClearTags (h : Hdr) (tile : Nat)
  | stkEccClearCount (h : Hdr) (stack : Nat)
  | tilRowMapWrite (h : Hdr) (field row stagedF stagedB : Nat)
  | calBistCtrlStart (h : Hdr) (ptile : Nat)
  | bistComplete (ptile failUnits : Nat)
  | portEnable (h : Hdr) (port value : Nat)
  | portDisable (h : Hdr) (port value : Nat)
  | mgmtAddressWrite (h : Hdr) (m : Nat) (which : MgmtReg) (value : Nat)
  | partitionBuild (h : Hdr) (x0 y0 w ht prio stackMask slabBase slabCount creditPool : Nat)
  | partitionDissolve (h : Hdr)
  | partitionRelocate (h : Hdr) (x0 y0 : Nat)
  | relocationComplete (p : Nat)
  | contextCreate (h : Hdr) (slot role shareBase shareLines exclusive baseSeed creditFloor evictAddr latencyTarget reportEn : Nat)
  | contextDestroy (h : Hdr)
  | sliceTableSet (h : Hdr) (n : Nat) (entries : List (Nat × Nat))
  | contextPreEmpt (h : Hdr) (ctx ticks : Nat)
  | freeAreaQuery (h : Hdr)
  | slowdownRead (h : Hdr) (count : Nat)
  | programOpen (h : Hdr) (len : Nat) (digest : Bytes)
  | programData (h : Hdr) (offset : Nat) (data : Bytes)
  | programFetch (h : Hdr) (addr len : Nat)
  | programCommit (h : Hdr)
  | weightSetOpen (h : Hdr) (req : WeightOpen)
  | storageRead (h : Hdr) (req : StorageReadReq)
  | storageReadData (controller readId : Nat) (data : Bytes)
  | storageReadTimeout (controller readId : Nat)
  | storageConnectionLost (controller : Nat)
  | weightSetCommit (h : Hdr) (slot : Nat)
  | buildTimeout (ctx slot : Nat)
  | weightSetSwitch (h : Hdr) (slot : Nat)
  | weightSetRelease (h : Hdr) (slot force : Nat)
  | weightSetDigest (h : Hdr) (slot shard : Nat)
  | adapterLoad (h : Hdr) (entry rank scale tag shards stream : Nat)
  | adapterDrop (h : Hdr) (entry : Nat)
  | storageConnect (h : Hdr) (req : StorageConn)
  | storageDisconnect (h : Hdr) (controller : Nat)
  | shardArrival (stream port : Nat)
  | sequenceAdmit (h : Hdr) (req : AdmitReq)
  | sequenceCancel (h : Hdr) (slot : Nat)
  | sequenceQuery (h : Hdr) (slot : Nat)
  | sequenceDeadlineExpiry (slot : Nat)
  | servingConfigure (h : Hdr) (values : List Nat)
  | ringConfigure (h : Hdr) (ring k base : Nat)
  | drovePreparation (ctx : Nat)
  | trainingStep (h : Hdr) (req : TrainReq)
  | inputLogCopyComplete (ctx : Nat)
  | rosterTree (h : Hdr) (descriptor : Bytes)
  | jobStartStatus (h : Hdr) (rosterDigest : Bytes)
  | inputLogRead (h : Hdr) (step source offset : Nat)
  | inputLogConfigure (h : Hdr) (base depth entryUnits inputAddr inWin keep : Nat)
  | inputLogLoad (h : Hdr) (offset total : Nat) (data : Bytes)
  | jobStartArm (h : Hdr) (bellwether areaBase areaUnits commitTimeoutS : Nat)
  | jobStartBroadcast (h : Hdr) (rosterAddr members blobAddr blobLen : Nat)
  | streamOpen (h : Hdr) (req : StreamOpenReq)
  | streamClose (h : Hdr) (handle : Nat)
  | mirrorConfigure (h : Hdr) (handle : Nat)
  | mirrorAccept (h : Hdr) (handle base depth entryUnits : Nat)
  | tickSetDirect (h : Hdr) (mode epoch periodUs : Nat)
  | tickSetEffective (h : Hdr) (k periodUs : Nat)
  | timeStep (h : Hdr) (offsetNs : Int)
  | timeStatus (h : Hdr)
  | counterSnapshot (h : Hdr) (space first count offset : Nat)
  | sensorRead (h : Hdr)
  | faultLogRead (h : Hdr) (first count : Nat)
  | measurementRead (h : Hdr)
  | measurementExtend (h : Hdr) (slot : Nat) (value : Bytes)
  | certificateRead (h : Hdr) (which offset : Nat)
  | attestationQuote (h : Hdr) (nonce : Bytes) (ctx session : Nat)
  | quoteSigned
  | quoteRead (h : Hdr) (id offset : Nat)
  | sessionEstablishKey (h : Hdr)
  | sessionEstablishCiphertext (h : Hdr) (session bind : Nat) (ciphertext : Bytes)
  | sessionTimeout (session : Nat)
  | streamKeySet (h : Hdr) (session slot salt direction : Nat)
  | debugUnlockChallenge (h : Hdr) (level : Nat)
  | debugUnlockResponse (h : Hdr) (offset total : Nat) (data : Bytes)
  | firmwareUpdateInstall (h : Hdr) (target addr len : Nat)
  | firmwareUpdateStage (h : Hdr) (addr offset total : Nat) (data : Bytes)
  | firmwareUpdateFloor (h : Hdr) (target : Nat) (fuseOk : Bool)
  | keyEnrolment (h : Hdr) (offset total : Nat) (data : Bytes) (fuseOk : Bool)
  | traceEnable (h : Hdr) (base k : Nat)
  | traceDisable (h : Hdr)
  | powerCapSet (h : Hdr) (capW : Nat)
  | thermalStatus (h : Hdr)
  | calibrationRead (h : Hdr) (kind : Nat)
  | calibrationWrite (h : Hdr) (record : Bytes)
  | calibrationCommit (h : Hdr)
  | calibrationRestore (h : Hdr) (offset total : Nat) (data : Bytes)
  | resultRead (h : Hdr) (source ring start count : Nat)
  | resultRelease (h : Hdr) (source ring upto : Nat)
  | retentionSet (h : Hdr) (ms : Nat)
  | resultRetentionExpiry (ctx source ring : Nat)
  | runtimeReply (channel tag : Nat)
  | fwTimeout (channel tag : Nat)
  | commandDeadlineExpiry (channel tag : Nat)
  | returnTimeout (channel : Nat)
  | relayConnection (m : Nat) (clientKeyHash : Bytes)
  | tickBoundary
  | ungatingStart (region : Nat)
  | sliceExpiry (p : Nat)
  | tickSlipLimit (p : Nat)
  | latencyBreach (ctx : Nat)
  | evictionComplete (p : Nat)
  | fabricDrainTimeout (ctx : Nat)
  | computeWordIssue (tile : Nat) (ecc : EccOutcome) (sram : SramEcc)
  | productStart (tile : Nat) (ecc : SramEcc)
  | productComplete (tile : Nat) (stalls : Stalls)
  | elementWiseStart (tile : Nat) (ecc : SramEcc) (stalls : Stalls)
  | rowEngineOperation (tile : Nat) (ecc : SramEcc)
  | vectorOperation (tile slot : Nat) (ecc : SramEcc)
  | wideningAdd (tile slot : Nat) (ecc : SramEcc)
  | roundWithLedger (tile slot : Nat) (ecc : SramEcc)
  | checksumResidues (tile slot : Nat) (ecc : SramEcc)
  | pruningUnit (tile slot : Nat) (ecc : SramEcc)
  | mulePassStart (tile : Nat) (ecc : SramEcc)
  | mulePanelComplete (tile : Nat)
  | mulePassComplete (tile : Nat) (stalls : Stalls)
  | muleLoadComplete (tile : Nat) (ecc : SramEcc)
  | rendezvousArrival (tile : Nat)
  | rendezvousRelease (ctx rdv : Nat)
  | rendezvousTimeout (tile : Nat)
  | semaphoreWaitTimeout (tile : Nat) (access : Bool)
  | accessWordIssue (tile : Nat) (ecc : EccOutcome)
  | accessWordComplete (tile : Nat) (ecc : SramEcc)
  | tileStepEnd (tile : Nat)
  | contextStepEnd (ctx : Nat)
  | downlinkLineReceive (tile : Nat) (crcOk : Bool)
  | downlinkRequestTimeout (tile : Nat)
  | meshLineReceive (tile dir : Nat) (parityOk : Bool)
  | expressEdgeDrop (tile lane : Nat)
  | stackRequest (stack line : Nat) (write : Option Bytes) (by_ : Requester) (ecc : EccOutcome)
  | stackScrubUnit (stack : Nat) (ecc : EccOutcome) (badLine : Nat)
  | stackLost (stack : Nat)
  | weightScrubShard (readError1 readError2 : Bool)
  | heartbeatTimeout (ptile : Nat) (tileMissing routerMissing : Bool)
  | crossingTimeout (crossing unit_ : Nat)
  | crossingWake (crossing unit_ : Nat)
  | wakeTimeout (crossing unit_ : Nat)
  | crossingRestart (crossing unit_ : Nat)
  | ptpMessageReceived (msg : PtpMsg)
  | syncLoss
  | holdoverExpiry
  | ppsEdge (errorNs : Nat)
  | timePortLinkUp (q lengthDm : Nat)
  | cableMeasurement (port : Nat) (lengthDm : Option Nat) (optical : Bool) (powerClassW : Nat)
  | linkTrained (port : Nat)
  | alignmentLoss (port : Nat)
  | lldpTransmit (port : Nat)
  | lldpduReceived (port chassis : Nat) (portId : Bytes) (ttl : Nat) (tlv : Option CapTlv)
  | lldpTtlExpiry (port : Nat)
  | neighbourDiscovery (port : Nat) (kind : NdKind)
  | dataReceived (port : Nat) (pkt : MladubPkt)
  | ackReceived (ack : AckBody)
  | ackDelayExpiry (stream : Nat)
  | retransmissionTimeout (stream psn : Nat) (peer : Option Nat)
  | streamTimeout (stream : Nat)
  | congestionPeriod (stream : Nat)
  | controlMessageReceived (peer id ctype : Nat) (body : RedMsg)
  | ctrlAck (peer id : Nat)
  | ctrlRetryExpiry (id : Nat)
  | jobDeliver (peer psn : Nat) (part : DeliverPart)
  | jobAck (peer id broadcastId generation member : Nat) (digest : Bytes)
  | ackLevelDeadline (broadcastId : Nat)
  | jobCommit (sender id broadcastId : Nat) (rosterDigest : Bytes)
  | jobCommitAck (peer id broadcastId member : Nat)
  | commitTimeout (ctx : Nat)
  | mirror (stream step : Nat) (entry : Bytes)
  | mirrorAck (peer id : Nat) (rosterDigest : Bytes) (step : Nat) (digest : Bytes)
  | mirrorBehind (ctx : Nat)
  | contributionReceived (ctx child step attempt : Nat)
  | hopDeadlineExpiry (ctx : Nat)
  | voidRequest (peer id : Nat) (msg : RedMsg)
  | rootDeadlineExpiry (ctx : Nat)
  | verdict (peer id : Nat) (msg : RedMsg)
  | verdictQuery (peer id : Nat) (msg : RedMsg)
  | verdictTimeout (ctx : Nat)
  | inputFilterUpdate
  | sensorSample (kind : SensorKind) (index : Nat) (value : Int)
  | entryImbalance (entry : Nat)
  | supplyTrip (cause entry : Nat)
  | emergencyOff
  | moduleThermalTrip (condition index : Nat)
  | regionEmergency (region : Nat)
  | limiterRise
  | limiterFall
  | droopClockStretching (tile cycles : Nat)
  | fieldConverterFailure (field : Nat)
  | inputApplied
  | prechargeComplete (entry : Nat)
  | standbyPowerArrival
  | powerOn (iface : SvcIface) (tag : Nat)
  | powerUpPreconditions
  | powerUpStageTimeout (p7 : Bool)
  | powerUpStageComplete (result : StageResult)
  | powerGood
  | powerOff (iface : SvcIface) (tag : Nat)
  | moduleResetAssert
  | moduleResetRelease
  | serviceStatus (iface : SvcIface) (tag : Nat)
  | serviceFaultLogRead (iface : SvcIface) (tag first count : Nat)
  | trustedRelay (tag packetTag : Nat) (mode target addr offset total : Nat) (data : Bytes)
  | serviceFrameTimeout (iface : SvcIface)
  | jtagInstruction (instr : TapInstr)
  | standbyPowerLoss
  | opcodeUnassigned (packet : Bytes) (service : Option SvcIface)
  | linkLowPowerEntry
  | linkAcceptsAgain (channel : Nat)
  | runtimeRestart (up : Bool)
  | relayConnectionEnd (m channel : Nat) (packet : Option Bytes)
deriving DecidableEq, Repr

end Sys2Proof
end

