-- ==== Sys2Proof/Decode.lean ====
section
/-! DEFINITION. The reading of commands from words. The table of commands gives no row any bits: a command is a packet, an access
or an event, not an instruction word, so no word spells one. -/

namespace Sys2Proof

/-- The command that a word of the table's bits spells: none, since the table gives no row bits. -/
def decodeTableWord (_nbits _w : Nat) : Option Instr := none

end Sys2Proof
end

