-- ==== Sys2Proof/Config.lean ====
section
/-! DEFINITION. What the spec leaves open, as constants without a body: nothing can be proved of their values. -/

namespace Sys2Proof.Config

/-- The free values, by the counter of the state that a step reads and advances. -/
opaque freeValue : Nat → BitVec 4096

/-- The module's serial number, 16 ASCII bytes (Table 16-4). -/
opaque serialNumber : BitVec 128

/-- The low byte of the 0x03xx status with which a partition build's stack setting is refused (R222 names only the group). -/
opaque stackRefusal : BitVec 8

/-- The status, less 2, that ends a pre-empt command replaced by a later one (R323 names none). -/
opaque replacedPreempt : BitVec 15

/-- The smoothed round-trip time from its last value and a sample, and its variation (R378 gives no formula for either). -/
opaque smoothRtt : Nat → Nat → Nat
opaque rttVariation : Nat → Nat → Nat → Nat

/-- The low byte of the 0x04xx status with which a command fails that reads a poisoned line (R224 names only the group). -/
opaque readError : BitVec 8

/-- Whether an SLH-DSA-SHA2-192s signature over a message verifies under a public key (FIPS 205): key, message, signature. -/
opaque verifySignature : Bytes → Bytes → Bytes → Bool

/-- The result of an elementary function of the vector engine or the row engine where the spec states none (an operand outside the
function's domain, an infinite operand, an output format without an error bound): operation code of Table 9-4, output format, and the
operand and result each as a kind (0 finite, 1 infinite, 2 NaN), a sign and a magnitude. -/
opaque elementary : Nat → Nat → Nat × Bool × Rat → Nat × Bool × Rat

/-- How many units in the last place an elementary function of the vector engine lies from its rounded value, by operation code, output
format and operand: R187 bounds the error and leaves the value open. -/
opaque elementaryError : Nat → Nat → Nat × Bool × Rat → Int

/-- Whether a mule pass reads its activations as H16 rather than G16, by its weight format (the pass descriptor names none). -/
opaque muleActivation : Nat → Bool

/-- AES-256-GCM: key, nonce, additional data, plaintext; the ciphertext and the 16-byte tag (the algorithm stands outside the spec). -/
opaque aesGcm : Bytes → Bytes → Bytes → Bytes → Bytes × Bytes

/-- The plaintext of an AES-256-GCM ciphertext: key, nonce, ciphertext. -/
opaque aesGcmOpen : Bytes → Bytes → Bytes → Bytes

/-- The low byte of the 0x02xx status of a multi-member training step refused while time is free-running (R49 names only the group). -/
opaque freeRunRefusal : BitVec 8

/-- A storage namespace, by controller and namespace: its logical blocks, and whether a block has 4,096 bytes (a property of the
storage outside the module). -/
opaque namespaceSize : Nat → Nat → Nat × Bool

/-- Whether a firmware image is signed by a key whose SHA-256 is the Kyoris root hash, and the security version it carries (the image
format stands outside the spec). -/
opaque firmwareSigned : Bytes → Bytes → Bool
opaque firmwareVersion : Bytes → BitVec 16

/-- Whether an owner enrolment record is signed by the Kyoris key: root hash, message, signature. -/
opaque kyorisSigned : Bytes → Bytes → Bytes → Bool

/-- Whether the configuration image carries a signature by a key (R420; the image format stands outside the spec). -/
opaque configSigned : Bytes → Bytes → Bool

/-- The images that the firmware slots held as the module was delivered: target 0 trusted or 1 runtime, slot 0 A or 1 B. -/
opaque factoryImage : Nat → Nat → Bytes

/-- The fuse device_secret (Table 19-2): written at Kyoris test from the block's own random source, and never readable. -/
opaque deviceSecret : BitVec 256

/-- SLH-DSA-SHA2-128f (FIPS 205): the public key of SK.seed, SK.prf and PK.seed, and the signature of a message under them. -/
opaque slhPublic : Bytes → Bytes → Bytes → Bytes
opaque slhSign : Bytes → Bytes → Bytes → Bytes → Bytes

/-- The identity certificate, made at Kyoris test and held in boot flash, and the certificate that the identity key makes for a public key
(Table 19-3; the spec gives neither's format). -/
opaque identityCertificate : Bytes
opaque certify : Bytes → Bytes → Bytes

/-- ML-KEM-768 (FIPS 203): the encapsulation key of a seed, and the secret it shares with a ciphertext. -/
opaque kemKey : Nat → Bytes
opaque kemDecapsulate : Nat → Bytes → Bytes

/-- The relay table of a configuration image: the hashes of client keys and the channel each is bound to (R340 names the
table and no layout for the image). -/
opaque relayTable : Bytes → List (Bytes × Nat)

/-- The low byte of the 0x07xx status of a configuration command that names an unserved position (R62 names only the group). -/
opaque unservedStatus : BitVec 8

/-- The low byte of the 0x05xx status of a connect to a storage controller that declines PDU digests (Table 13-5 leaves it unconnected and
names no status). -/
opaque declinedStatus : BitVec 8

/-- The low byte of the 0x07xx status of a command that waited on a crossing that stopped (R234 names an error and no number). -/
opaque crossingError : BitVec 8

/-- The UDP source port of the Mladub packets that no stream sends: R372 adds the sending stream's handle to 0xC000, and the handle of a control
message, 0xFFFE, takes the sum past 16 bits. -/
opaque ctrlSourcePort : BitVec 16

/-- Where the trips of R390 stand within the tolerances of Table 18-1: the undervoltage, the overvoltage and the over-current threshold, and
the debounce of the first two. -/
opaque underTrip : Nat
opaque overTrip : Nat
opaque currentTrip : Nat
opaque underDebounce : Nat
opaque overDebounce : Nat

end Sys2Proof.Config
end

