-- ==== Sys2Proof/Machine/Regs.lean ====
section
/-! DEFINITION. The register maps of the spec: the address of every register (R7, R9), the place of every field (R11), and the
table of fields with their access codes (Table 0-5), reset values and stated ranges, one entry per register, in the order of
the spec's chapters. -/

namespace Sys2Proof.Machine

/-- A field of a register: the register's configuration address, the field's lowest bit and its width. -/
structure RF where
  addr : Nat
  lo : Nat
  width : Nat
deriving DecidableEq, Repr

/-- The access codes of Table 0-5. -/
inductive Acc where
  | ro | rw | w1c | wo
deriving DecidableEq, Repr

/-- A field in the register table: lowest bit, width, access, reset value and, where its Meaning states one, its range. -/
structure FieldSpec where
  lo : Nat
  width : Nat
  acc : Acc
  reset : Nat
  range : Option (Nat × Nat)
deriving DecidableEq, Repr

/-- A register (or an array of registers, by stride and count of each dimension) of one address space. -/
structure RegSpec where
  base : Nat
  dims : List (Nat × Nat)
  fields : List FieldSpec
deriving DecidableEq, Repr

/-- TIM_CTRL (Table 2-6). -/
def TIM_CTRL : Nat := 0x1000
def TIM_CTRL.holdover_limit : RF := ⟨TIM_CTRL, 20, 4⟩
def TIM_CTRL.loss_intervals : RF := ⟨TIM_CTRL, 16, 4⟩
def TIM_CTRL.ptp_domain : RF := ⟨TIM_CTRL, 8, 8⟩
def TIM_CTRL.assist_en : RF := ⟨TIM_CTRL, 7, 1⟩
def TIM_CTRL.fabric_fallback_en : RF := ⟨TIM_CTRL, 6, 1⟩
def TIM_CTRL.transport : RF := ⟨TIM_CTRL, 4, 2⟩
def TIM_CTRL.preferred_port : RF := ⟨TIM_CTRL, 2, 2⟩
/-- TIM_STATUS (Table 2-7). -/
def TIM_STATUS : Nat := 0x1008
def TIM_STATUS.step_needed : RF := ⟨TIM_STATUS, 15, 1⟩
def TIM_STATUS.alignment_degraded : RF := ⟨TIM_STATUS, 14, 1⟩
def TIM_STATUS.holdover_expired : RF := ⟨TIM_STATUS, 13, 1⟩
def TIM_STATUS.lock_lost : RF := ⟨TIM_STATUS, 12, 1⟩
def TIM_STATUS.source_changed : RF := ⟨TIM_STATUS, 11, 1⟩
def TIM_STATUS.source : RF := ⟨TIM_STATUS, 8, 3⟩
def TIM_STATUS.state : RF := ⟨TIM_STATUS, 0, 3⟩
/-- TIM_HALL_NOW (Table 2-8). -/
def TIM_HALL_NOW : Nat := 0x1010
def TIM_HALL_NOW.hall_ns : RF := ⟨TIM_HALL_NOW, 0, 64⟩
/-- TIM_OFFSET (Table 2-8). -/
def TIM_OFFSET : Nat := 0x1018
def TIM_OFFSET.path_delay_ns : RF := ⟨TIM_OFFSET, 32, 32⟩
def TIM_OFFSET.offset_ns : RF := ⟨TIM_OFFSET, 0, 32⟩
/-- TIM_CABLE (Table 2-8). -/
def TIM_CABLE : Nat := 0x1020
def TIM_CABLE.port_b_len : RF := ⟨TIM_CABLE, 16, 16⟩
def TIM_CABLE.port_a_len : RF := ⟨TIM_CABLE, 0, 16⟩
/-- TIM_ASYM (Table 2-8). -/
def TIM_ASYM : Nat := 0x1028
def TIM_ASYM.port_b_asym_ns : RF := ⟨TIM_ASYM, 16, 16⟩
def TIM_ASYM.port_a_asym_ns : RF := ⟨TIM_ASYM, 0, 16⟩
/-- TIM_EPOCH (Table 2-8). -/
def TIM_EPOCH : Nat := 0x1030
def TIM_EPOCH.epoch_ns : RF := ⟨TIM_EPOCH, 0, 64⟩
/-- TIM_TICK_CFG (Table 2-8). -/
def TIM_TICK_CFG : Nat := 0x1038
def TIM_TICK_CFG.period_us : RF := ⟨TIM_TICK_CFG, 0, 17⟩
/-- TIM_TICK_BASE (Table 2-8). -/
def TIM_TICK_BASE : Nat := 0x1040
def TIM_TICK_BASE.base : RF := ⟨TIM_TICK_BASE, 0, 64⟩
/-- TIM_TICK_NOW (Table 2-8). -/
def TIM_TICK_NOW : Nat := 0x1048
def TIM_TICK_NOW.tick : RF := ⟨TIM_TICK_NOW, 0, 64⟩
/-- TIM_BOUNDARY (Table 2-8). -/
def TIM_BOUNDARY : Nat := 0x1050
def TIM_BOUNDARY.skip_limit : RF := ⟨TIM_BOUNDARY, 16, 8⟩
def TIM_BOUNDARY.guard_us : RF := ⟨TIM_BOUNDARY, 0, 16⟩
/-- TIM_PORTA_ADDR_HI (Table 2-8). -/
def TIM_PORTA_ADDR_HI : Nat := 0x1058
def TIM_PORTA_ADDR_HI.addr_hi : RF := ⟨TIM_PORTA_ADDR_HI, 0, 64⟩
/-- TIM_PORTA_ADDR_LO (Table 2-8). -/
def TIM_PORTA_ADDR_LO : Nat := 0x1060
def TIM_PORTA_ADDR_LO.addr_lo : RF := ⟨TIM_PORTA_ADDR_LO, 0, 64⟩
/-- TIM_PORTB_ADDR_HI (Table 2-8). -/
def TIM_PORTB_ADDR_HI : Nat := 0x1068
def TIM_PORTB_ADDR_HI.addr_hi : RF := ⟨TIM_PORTB_ADDR_HI, 0, 64⟩
/-- TIM_PORTB_ADDR_LO (Table 2-8). -/
def TIM_PORTB_ADDR_LO : Nat := 0x1070
def TIM_PORTB_ADDR_LO.addr_lo : RF := ⟨TIM_PORTB_ADDR_LO, 0, 64⟩
/-- TIM_PORT_MAC (Table 2-8). -/
def TIM_PORT_MAC (q : Nat) : Nat := 0x1078 + q * 0x8
def TIM_PORT_MAC.mac (q : Nat) : RF := ⟨(TIM_PORT_MAC q), 0, 48⟩
/-- TIM_PORT_PREFIX (Table 2-8). -/
def TIM_PORT_PREFIX : Nat := 0x1088
def TIM_PORT_PREFIX.prefix_b : RF := ⟨TIM_PORT_PREFIX, 8, 8⟩
def TIM_PORT_PREFIX.prefix_a : RF := ⟨TIM_PORT_PREFIX, 0, 8⟩
/-- TIM_SOURCES (Table 2-8). -/
def TIM_SOURCES : Nat := 0x1090
def TIM_SOURCES.fabric_port : RF := ⟨TIM_SOURCES, 9, 6⟩
def TIM_SOURCES.fabric_valid : RF := ⟨TIM_SOURCES, 8, 1⟩
def TIM_SOURCES.fabric_ready : RF := ⟨TIM_SOURCES, 2, 1⟩
def TIM_SOURCES.port_b_ready : RF := ⟨TIM_SOURCES, 1, 1⟩
def TIM_SOURCES.port_a_ready : RF := ⟨TIM_SOURCES, 0, 1⟩
/-- TIL_ROW_MAP (Table 3-3). -/
def TIL_ROW_MAP (f r : Nat) : Nat := 0x30000002000 + f * 0x8000000 + r * 0x8
def TIL_ROW_MAP.apply_pending (f r : Nat) : RF := ⟨(TIL_ROW_MAP f r), 24, 1⟩
def TIL_ROW_MAP.staged_b_skip (f r : Nat) : RF := ⟨(TIL_ROW_MAP f r), 20, 4⟩
def TIL_ROW_MAP.active_b_skip (f r : Nat) : RF := ⟨(TIL_ROW_MAP f r), 16, 4⟩
def TIL_ROW_MAP.fuse_b_skip (f r : Nat) : RF := ⟨(TIL_ROW_MAP f r), 12, 4⟩
def TIL_ROW_MAP.staged_f_skip (f r : Nat) : RF := ⟨(TIL_ROW_MAP f r), 8, 3⟩
def TIL_ROW_MAP.active_f_skip (f r : Nat) : RF := ⟨(TIL_ROW_MAP f r), 4, 3⟩
def TIL_ROW_MAP.fuse_f_skip (f r : Nat) : RF := ⟨(TIL_ROW_MAP f r), 0, 3⟩
/-- TIL_ROW_HEALTH (Table 3-4). -/
def TIL_ROW_HEALTH (f r : Nat) : Nat := 0x30000002040 + f * 0x8000000 + r * 0x8
def TIL_ROW_HEALTH.unserved (f r : Nat) : RF := ⟨(TIL_ROW_HEALTH f r), 48, 12⟩
def TIL_ROW_HEALTH.router_bad (f r : Nat) : RF := ⟨(TIL_ROW_HEALTH f r), 32, 14⟩
def TIL_ROW_HEALTH.tile_bad (f r : Nat) : RF := ⟨(TIL_ROW_HEALTH f r), 16, 14⟩
def TIL_ROW_HEALTH.fuse_bad (f r : Nat) : RF := ⟨(TIL_ROW_HEALTH f r), 0, 14⟩
/-- TIL_WAFER_SPARES (Table 3-5). -/
def TIL_WAFER_SPARES : Nat := 0x2100
def TIL_WAFER_SPARES.pending_rows : RF := ⟨TIL_WAFER_SPARES, 48, 12⟩
def TIL_WAFER_SPARES.unserved_count : RF := ⟨TIL_WAFER_SPARES, 32, 12⟩
def TIL_WAFER_SPARES.field_failed : RF := ⟨TIL_WAFER_SPARES, 13, 13⟩
def TIL_WAFER_SPARES.fuse_failed : RF := ⟨TIL_WAFER_SPARES, 0, 10⟩
/-- ARY_FUSE_SPARE (Table 3-7). -/
def ARY_FUSE_SPARE (t : Nat) : Nat := 0x20000000800 + t * 0x8000000
def ARY_FUSE_SPARE.col_skip3 (t : Nat) : RF := ⟨(ARY_FUSE_SPARE t), 50, 10⟩
def ARY_FUSE_SPARE.col_skip2 (t : Nat) : RF := ⟨(ARY_FUSE_SPARE t), 40, 10⟩
def ARY_FUSE_SPARE.col_skip1 (t : Nat) : RF := ⟨(ARY_FUSE_SPARE t), 30, 10⟩
def ARY_FUSE_SPARE.col_skip0 (t : Nat) : RF := ⟨(ARY_FUSE_SPARE t), 20, 10⟩
def ARY_FUSE_SPARE.row_skip1 (t : Nat) : RF := ⟨(ARY_FUSE_SPARE t), 8, 8⟩
def ARY_FUSE_SPARE.row_skip0 (t : Nat) : RF := ⟨(ARY_FUSE_SPARE t), 0, 8⟩
/-- TIL_NUM_STATUS (Table 4-8). -/
def TIL_NUM_STATUS (t : Nat) : Nat := 0x10000000400 + t * 0x8000000
def TIL_NUM_STATUS.sat_count (t : Nat) : RF := ⟨(TIL_NUM_STATUS t), 32, 32⟩
def TIL_NUM_STATUS.clear_count (t : Nat) : RF := ⟨(TIL_NUM_STATUS t), 8, 1⟩
def TIL_NUM_STATUS.b16_invalid (t : Nat) : RF := ⟨(TIL_NUM_STATUS t), 7, 1⟩
def TIL_NUM_STATUS.a40_overflow (t : Nat) : RF := ⟨(TIL_NUM_STATUS t), 6, 1⟩
def TIL_NUM_STATUS.nan_out (t : Nat) : RF := ⟨(TIL_NUM_STATUS t), 5, 1⟩
def TIL_NUM_STATUS.nan_in (t : Nat) : RF := ⟨(TIL_NUM_STATUS t), 4, 1⟩
def TIL_NUM_STATUS.overflow_inf (t : Nat) : RF := ⟨(TIL_NUM_STATUS t), 3, 1⟩
def TIL_NUM_STATUS.num_saturated (t : Nat) : RF := ⟨(TIL_NUM_STATUS t), 2, 1⟩
def TIL_NUM_STATUS.sr_used (t : Nat) : RF := ⟨(TIL_NUM_STATUS t), 1, 1⟩
def TIL_NUM_STATUS.underflow (t : Nat) : RF := ⟨(TIL_NUM_STATUS t), 0, 1⟩
/-- TIL_ID (Table 5-7). -/
def TIL_ID (t : Nat) : Nat := 0x10000000000 + t * 0x8000000
def TIL_ID.physical_index (t : Nat) : RF := ⟨(TIL_ID t), 33, 13⟩
def TIL_ID.flavour (t : Nat) : RF := ⟨(TIL_ID t), 32, 1⟩
def TIL_ID.field_index (t : Nat) : RF := ⟨(TIL_ID t), 12, 6⟩
def TIL_ID.logical_index (t : Nat) : RF := ⟨(TIL_ID t), 0, 12⟩
/-- TIL_STATE (Table 5-8). -/
def TIL_STATE (t : Nat) : Nat := 0x10000000008 + t * 0x8000000
def TIL_STATE.context (t : Nat) : RF := ⟨(TIL_STATE t), 17, 7⟩
def TIL_STATE.partition (t : Nat) : RF := ⟨(TIL_STATE t), 12, 5⟩
def TIL_STATE.thermal_hold (t : Nat) : RF := ⟨(TIL_STATE t), 5, 1⟩
def TIL_STATE.retention (t : Nat) : RF := ⟨(TIL_STATE t), 4, 1⟩
def TIL_STATE.run_state (t : Nat) : RF := ⟨(TIL_STATE t), 0, 4⟩
/-- TIL_SRAM_ECC (Table 5-10). -/
def TIL_SRAM_ECC (t : Nat) : Nat := 0x10000000010 + t * 0x8000000
def TIL_SRAM_ECC.corrected_count (t : Nat) : RF := ⟨(TIL_SRAM_ECC t), 48, 16⟩
def TIL_SRAM_ECC.clear_count (t : Nat) : RF := ⟨(TIL_SRAM_ECC t), 32, 1⟩
def TIL_SRAM_ECC.last_row (t : Nat) : RF := ⟨(TIL_SRAM_ECC t), 16, 11⟩
def TIL_SRAM_ECC.last_bank (t : Nat) : RF := ⟨(TIL_SRAM_ECC t), 8, 6⟩
def TIL_SRAM_ECC.uncorrected (t : Nat) : RF := ⟨(TIL_SRAM_ECC t), 1, 1⟩
def TIL_SRAM_ECC.corrected (t : Nat) : RF := ⟨(TIL_SRAM_ECC t), 0, 1⟩
/-- TIL_ARB_CFG (Table 5-11). -/
def TIL_ARB_CFG (t : Nat) : Nat := 0x10000000018 + t * 0x8000000
def TIL_ARB_CFG.guard (t : Nat) : RF := ⟨(TIL_ARB_CFG t), 0, 7⟩
/-- TIL_COUNTER_CTRL (Table 5-11). -/
def TIL_COUNTER_CTRL (t : Nat) : Nat := 0x10000000020 + t * 0x8000000
def TIL_COUNTER_CTRL.freeze (t : Nat) : RF := ⟨(TIL_COUNTER_CTRL t), 1, 1⟩
def TIL_COUNTER_CTRL.clear_all (t : Nat) : RF := ⟨(TIL_COUNTER_CTRL t), 0, 1⟩
/-- TIL_ARB_DENY (Table 5-12). -/
def TIL_ARB_DENY (t r : Nat) : Nat := 0x10000000040 + t * 0x8000000 + r * 0x8
def TIL_ARB_DENY.deny_cycles (t r : Nat) : RF := ⟨(TIL_ARB_DENY t r), 0, 64⟩
/-- ARY_ROW_DRY (Table 5-12). -/
def ARY_ROW_DRY (t : Nat) : Nat := 0x10000000c08 + t * 0x8000000
def ARY_ROW_DRY.row_dry_cycles (t : Nat) : RF := ⟨(ARY_ROW_DRY t), 0, 64⟩
/-- ARY_COL_DRY (Table 5-12). -/
def ARY_COL_DRY (t : Nat) : Nat := 0x10000000c10 + t * 0x8000000
def ARY_COL_DRY.col_dry_cycles (t : Nat) : RF := ⟨(ARY_COL_DRY t), 0, 64⟩
/-- ARY_DRAIN_FULL (Table 5-12). -/
def ARY_DRAIN_FULL (t : Nat) : Nat := 0x10000000c18 + t * 0x8000000
def ARY_DRAIN_FULL.drain_full_cycles (t : Nat) : RF := ⟨(ARY_DRAIN_FULL t), 0, 64⟩
/-- ARY_WIDENED (Table 5-12). -/
def ARY_WIDENED (t : Nat) : Nat := 0x10000000c20 + t * 0x8000000
def ARY_WIDENED.widened_cycles (t : Nat) : RF := ⟨(ARY_WIDENED t), 0, 64⟩
/-- ARY_MAC (Table 5-12). -/
def ARY_MAC (t : Nat) : Nat := 0x10000000c28 + t * 0x8000000
def ARY_MAC.mac_cycles (t : Nat) : RF := ⟨(ARY_MAC t), 0, 64⟩
/-- ARY_EW (Table 5-12). -/
def ARY_EW (t : Nat) : Nat := 0x10000000c30 + t * 0x8000000
def ARY_EW.ew_cycles (t : Nat) : RF := ⟨(ARY_EW t), 0, 64⟩
/-- ARY_STATUS (Table 5-13). -/
def ARY_STATUS (t : Nat) : Nat := 0x10000000c00 + t * 0x8000000
def ARY_STATUS.array_slip (t : Nat) : RF := ⟨(ARY_STATUS t), 32, 32⟩
def ARY_STATUS.spread (t : Nat) : RF := ⟨(ARY_STATUS t), 24, 3⟩
def ARY_STATUS.acc_sel (t : Nat) : RF := ⟨(ARY_STATUS t), 20, 1⟩
def ARY_STATUS.drain_busy (t : Nat) : RF := ⟨(ARY_STATUS t), 19, 1⟩
def ARY_STATUS.ew_mode (t : Nat) : RF := ⟨(ARY_STATUS t), 18, 1⟩
def ARY_STATUS.rate (t : Nat) : RF := ⟨(ARY_STATUS t), 16, 2⟩
def ARY_STATUS.dry_col_groups (t : Nat) : RF := ⟨(ARY_STATUS t), 8, 8⟩
def ARY_STATUS.dry_row_groups (t : Nat) : RF := ⟨(ARY_STATUS t), 0, 2⟩
/-- ARY_QUEUE_SEL (Table 5-14). -/
def ARY_QUEUE_SEL (t : Nat) : Nat := 0x10000000c40 + t * 0x8000000
def ARY_QUEUE_SEL.feeder (t : Nat) : RF := ⟨(ARY_QUEUE_SEL t), 10, 1⟩
def ARY_QUEUE_SEL.queue (t : Nat) : RF := ⟨(ARY_QUEUE_SEL t), 0, 10⟩
/-- ARY_QUEUE_DATA (Table 5-14). -/
def ARY_QUEUE_DATA (t : Nat) : Nat := 0x10000000c48 + t * 0x8000000
def ARY_QUEUE_DATA.head_beat (t : Nat) : RF := ⟨(ARY_QUEUE_DATA t), 32, 32⟩
def ARY_QUEUE_DATA.level (t : Nat) : RF := ⟨(ARY_QUEUE_DATA t), 16, 6⟩
def ARY_QUEUE_DATA.low_water (t : Nat) : RF := ⟨(ARY_QUEUE_DATA t), 8, 6⟩
def ARY_QUEUE_DATA.dry (t : Nat) : RF := ⟨(ARY_QUEUE_DATA t), 3, 1⟩
def ARY_QUEUE_DATA.lag (t : Nat) : RF := ⟨(ARY_QUEUE_DATA t), 0, 3⟩
/-- MVP_STATUS (Table 6-7). -/
def MVP_STATUS (t : Nat) : Nat := 0x10000000e00 + t * 0x8000000
def MVP_STATUS.panel (t : Nat) : RF := ⟨(MVP_STATUS t), 32, 16⟩
def MVP_STATUS.beat (t : Nat) : RF := ⟨(MVP_STATUS t), 24, 7⟩
def MVP_STATUS.desc (t : Nat) : RF := ⟨(MVP_STATUS t), 16, 4⟩
def MVP_STATUS.set_loading (t : Nat) : RF := ⟨(MVP_STATUS t), 10, 2⟩
def MVP_STATUS.set_ready (t : Nat) : RF := ⟨(MVP_STATUS t), 8, 2⟩
def MVP_STATUS.desc_error (t : Nat) : RF := ⟨(MVP_STATUS t), 7, 1⟩
def MVP_STATUS.phase (t : Nat) : RF := ⟨(MVP_STATUS t), 4, 3⟩
def MVP_STATUS.set_sel (t : Nat) : RF := ⟨(MVP_STATUS t), 3, 1⟩
def MVP_STATUS.queued (t : Nat) : RF := ⟨(MVP_STATUS t), 2, 1⟩
def MVP_STATUS.active (t : Nat) : RF := ⟨(MVP_STATUS t), 0, 1⟩
/-- MVP_BEATS (Table 6-8). -/
def MVP_BEATS (t : Nat) : Nat := 0x10000000e10 + t * 0x8000000
def MVP_BEATS.beat_cycles (t : Nat) : RF := ⟨(MVP_BEATS t), 0, 64⟩
/-- MVP_BANK_WAIT (Table 6-8). -/
def MVP_BANK_WAIT (t : Nat) : Nat := 0x10000000e18 + t * 0x8000000
def MVP_BANK_WAIT.bank_wait_cycles (t : Nat) : RF := ⟨(MVP_BANK_WAIT t), 0, 64⟩
/-- MVP_SET_WAIT (Table 6-8). -/
def MVP_SET_WAIT (t : Nat) : Nat := 0x10000000e20 + t * 0x8000000
def MVP_SET_WAIT.set_wait_cycles (t : Nat) : RF := ⟨(MVP_SET_WAIT t), 0, 64⟩
/-- MVP_OUT_FULL (Table 6-8). -/
def MVP_OUT_FULL (t : Nat) : Nat := 0x10000000e28 + t * 0x8000000
def MVP_OUT_FULL.out_full_cycles (t : Nat) : RF := ⟨(MVP_OUT_FULL t), 0, 64⟩
/-- MVP_ADAPTER (Table 6-8). -/
def MVP_ADAPTER (t : Nat) : Nat := 0x10000000e30 + t * 0x8000000
def MVP_ADAPTER.adapter_cycles (t : Nat) : RF := ⟨(MVP_ADAPTER t), 0, 64⟩
/-- MVP_PASSES (Table 6-8). -/
def MVP_PASSES (t : Nat) : Nat := 0x10000000e38 + t * 0x8000000
def MVP_PASSES.passes (t : Nat) : RF := ⟨(MVP_PASSES t), 0, 64⟩
/-- SPR_CTRL (Table 7-9). -/
def SPR_CTRL (t : Nat) : Nat := 0x10000001000 + t * 0x8000000
def SPR_CTRL.strict (t : Nat) : RF := ⟨(SPR_CTRL t), 0, 1⟩
/-- SPR_STATUS (Table 7-10). -/
def SPR_STATUS (t : Nat) : Nat := 0x10000001008 + t * 0x8000000
def SPR_STATUS.last_group (t : Nat) : RF := ⟨(SPR_STATUS t), 32, 16⟩
def SPR_STATUS.mode (t : Nat) : RF := ⟨(SPR_STATUS t), 8, 2⟩
def SPR_STATUS.prune_active (t : Nat) : RF := ⟨(SPR_STATUS t), 4, 1⟩
def SPR_STATUS.ext_error (t : Nat) : RF := ⟨(SPR_STATUS t), 3, 1⟩
def SPR_STATUS.order_error (t : Nat) : RF := ⟨(SPR_STATUS t), 2, 1⟩
def SPR_STATUS.index_error (t : Nat) : RF := ⟨(SPR_STATUS t), 1, 1⟩
def SPR_STATUS.density_violation (t : Nat) : RF := ⟨(SPR_STATUS t), 0, 1⟩
/-- SPR_ESC_GROUPS (Table 7-11). -/
def SPR_ESC_GROUPS (t : Nat) : Nat := 0x10000001010 + t * 0x8000000
def SPR_ESC_GROUPS.escape_groups (t : Nat) : RF := ⟨(SPR_ESC_GROUPS t), 0, 64⟩
/-- SPR_ESC_BEATS (Table 7-11). -/
def SPR_ESC_BEATS (t : Nat) : Nat := 0x10000001018 + t * 0x8000000
def SPR_ESC_BEATS.escape_beats (t : Nat) : RF := ⟨(SPR_ESC_BEATS t), 0, 64⟩
/-- SPR_SPARSE_BEATS (Table 7-11). -/
def SPR_SPARSE_BEATS (t : Nat) : Nat := 0x10000001020 + t * 0x8000000
def SPR_SPARSE_BEATS.sparse_beats (t : Nat) : RF := ⟨(SPR_SPARSE_BEATS t), 0, 64⟩
/-- SPR_ISSUED (Table 7-11). -/
def SPR_ISSUED (t : Nat) : Nat := 0x10000001028 + t * 0x8000000
def SPR_ISSUED.issued_beats (t : Nat) : RF := ⟨(SPR_ISSUED t), 0, 64⟩
/-- SPR_SKIPPED (Table 7-11). -/
def SPR_SKIPPED (t : Nat) : Nat := 0x10000001030 + t * 0x8000000
def SPR_SKIPPED.skipped_positions (t : Nat) : RF := ⟨(SPR_SKIPPED t), 0, 64⟩
/-- SPR_BUBBLE (Table 7-11). -/
def SPR_BUBBLE (t : Nat) : Nat := 0x10000001038 + t * 0x8000000
def SPR_BUBBLE.bubble_beats (t : Nat) : RF := ⟨(SPR_BUBBLE t), 0, 64⟩
/-- SPR_SPLITS (Table 7-11). -/
def SPR_SPLITS (t : Nat) : Nat := 0x10000001040 + t * 0x8000000
def SPR_SPLITS.window_splits (t : Nat) : RF := ⟨(SPR_SPLITS t), 0, 64⟩
/-- SPR_PRUNE (Table 7-11). -/
def SPR_PRUNE (t : Nat) : Nat := 0x10000001048 + t * 0x8000000
def SPR_PRUNE.prune_blocks (t : Nat) : RF := ⟨(SPR_PRUNE t), 0, 64⟩
/-- BWD_CTRL (Table 8-10). -/
def BWD_CTRL (t : Nat) : Nat := 0x10000001400 + t * 0x8000000
def BWD_CTRL.stat_limit (t : Nat) : RF := ⟨(BWD_CTRL t), 32, 16⟩
def BWD_CTRL.stat_base (t : Nat) : RF := ⟨(BWD_CTRL t), 16, 16⟩
def BWD_CTRL.clear_tags (t : Nat) : RF := ⟨(BWD_CTRL t), 0, 1⟩
/-- BWD_STATUS (Table 8-11). -/
def BWD_STATUS (t : Nat) : Nat := 0x10000001408 + t * 0x8000000
def BWD_STATUS.last_record (t : Nat) : RF := ⟨(BWD_STATUS t), 32, 16⟩
def BWD_STATUS.tmode (t : Nat) : RF := ⟨(BWD_STATUS t), 8, 2⟩
def BWD_STATUS.row_bwd_active (t : Nat) : RF := ⟨(BWD_STATUS t), 4, 1⟩
def BWD_STATUS.freeze_active (t : Nat) : RF := ⟨(BWD_STATUS t), 3, 1⟩
def BWD_STATUS.freeze_error (t : Nat) : RF := ⟨(BWD_STATUS t), 2, 1⟩
def BWD_STATUS.stat_range (t : Nat) : RF := ⟨(BWD_STATUS t), 1, 1⟩
def BWD_STATUS.tag_mismatch (t : Nat) : RF := ⟨(BWD_STATUS t), 0, 1⟩
/-- BWD_TRANS_LINES (Table 8-12). -/
def BWD_TRANS_LINES (t : Nat) : Nat := 0x10000001410 + t * 0x8000000
def BWD_TRANS_LINES.transpose_lines (t : Nat) : RF := ⟨(BWD_TRANS_LINES t), 0, 64⟩
/-- BWD_TRANS_WAIT (Table 8-12). -/
def BWD_TRANS_WAIT (t : Nat) : Nat := 0x10000001418 + t * 0x8000000
def BWD_TRANS_WAIT.transpose_wait_cycles (t : Nat) : RF := ⟨(BWD_TRANS_WAIT t), 0, 64⟩
/-- BWD_STAT_WR (Table 8-12). -/
def BWD_STAT_WR (t : Nat) : Nat := 0x10000001420 + t * 0x8000000
def BWD_STAT_WR.stat_writes (t : Nat) : RF := ⟨(BWD_STAT_WR t), 0, 64⟩
/-- BWD_STAT_RD (Table 8-12). -/
def BWD_STAT_RD (t : Nat) : Nat := 0x10000001428 + t * 0x8000000
def BWD_STAT_RD.stat_reads (t : Nat) : RF := ⟨(BWD_STAT_RD t), 0, 64⟩
/-- BWD_FROZEN_TILES (Table 8-12). -/
def BWD_FROZEN_TILES (t : Nat) : Nat := 0x10000001430 + t * 0x8000000
def BWD_FROZEN_TILES.frozen_tiles (t : Nat) : RF := ⟨(BWD_FROZEN_TILES t), 0, 64⟩
/-- BWD_FROZEN_SECTORS (Table 8-12). -/
def BWD_FROZEN_SECTORS (t : Nat) : Nat := 0x10000001438 + t * 0x8000000
def BWD_FROZEN_SECTORS.frozen_sectors (t : Nat) : RF := ⟨(BWD_FROZEN_SECTORS t), 0, 64⟩
/-- INS_STATUS (Table 9-13). -/
def INS_STATUS (t : Nat) : Nat := 0x10000001800 + t * 0x8000000
def INS_STATUS.rdv_id (t : Nat) : RF := ⟨(INS_STATUS t), 40, 8⟩
def INS_STATUS.stream (t : Nat) : RF := ⟨(INS_STATUS t), 36, 4⟩
def INS_STATUS.pc (t : Nat) : RF := ⟨(INS_STATUS t), 20, 13⟩
def INS_STATUS.access_pc (t : Nat) : RF := ⟨(INS_STATUS t), 7, 13⟩
def INS_STATUS.ra_ended (t : Nat) : RF := ⟨(INS_STATUS t), 3, 1⟩
def INS_STATUS.sem_overflow (t : Nat) : RF := ⟨(INS_STATUS t), 2, 1⟩
def INS_STATUS.timeout (t : Nat) : RF := ⟨(INS_STATUS t), 1, 1⟩
def INS_STATUS.overrun (t : Nat) : RF := ⟨(INS_STATUS t), 0, 1⟩
/-- INS_SLIP (Table 9-14). -/
def INS_SLIP (t : Nat) : Nat := 0x10000001808 + t * 0x8000000
def INS_SLIP.slip (t : Nat) : RF := ⟨(INS_SLIP t), 32, 32⟩
def INS_SLIP.last_excess (t : Nat) : RF := ⟨(INS_SLIP t), 0, 32⟩
/-- INS_SCHED (Table 9-14). -/
def INS_SCHED (t : Nat) : Nat := 0x10000001810 + t * 0x8000000
def INS_SCHED.sched_cycle (t : Nat) : RF := ⟨(INS_SCHED t), 32, 32⟩
def INS_SCHED.step_cycle (t : Nat) : RF := ⟨(INS_SCHED t), 0, 32⟩
/-- INS_LOOP (Table 9-14). -/
def INS_LOOP (t : Nat) : Nat := 0x10000001818 + t * 0x8000000
def INS_LOOP.loop3 (t : Nat) : RF := ⟨(INS_LOOP t), 48, 16⟩
def INS_LOOP.loop2 (t : Nat) : RF := ⟨(INS_LOOP t), 32, 16⟩
def INS_LOOP.loop1 (t : Nat) : RF := ⟨(INS_LOOP t), 16, 16⟩
def INS_LOOP.loop0 (t : Nat) : RF := ⟨(INS_LOOP t), 0, 16⟩
/-- INS_RA (Table 9-14). -/
def INS_RA (t : Nat) : Nat := 0x10000001820 + t * 0x8000000
def INS_RA.window (t : Nat) : RF := ⟨(INS_RA t), 47, 17⟩
def INS_RA.outstanding (t : Nat) : RF := ⟨(INS_RA t), 24, 16⟩
def INS_RA.lead (t : Nat) : RF := ⟨(INS_RA t), 0, 17⟩
/-- INS_SEM (Table 9-14). -/
def INS_SEM (t q : Nat) : Nat := 0x10000001840 + t * 0x8000000 + q * 0x8
def INS_SEM.sem0 (t q : Nat) : RF := ⟨(INS_SEM t q), 0, 8⟩
def INS_SEM.sem1 (t q : Nat) : RF := ⟨(INS_SEM t q), 8, 8⟩
def INS_SEM.sem2 (t q : Nat) : RF := ⟨(INS_SEM t q), 16, 8⟩
def INS_SEM.sem3 (t q : Nat) : RF := ⟨(INS_SEM t q), 24, 8⟩
def INS_SEM.sem4 (t q : Nat) : RF := ⟨(INS_SEM t q), 32, 8⟩
def INS_SEM.sem5 (t q : Nat) : RF := ⟨(INS_SEM t q), 40, 8⟩
def INS_SEM.sem6 (t q : Nat) : RF := ⟨(INS_SEM t q), 48, 8⟩
def INS_SEM.sem7 (t q : Nat) : RF := ⟨(INS_SEM t q), 56, 8⟩
/-- INS_OVERRUNS (Table 9-15). -/
def INS_OVERRUNS (t : Nat) : Nat := 0x10000001880 + t * 0x8000000
def INS_OVERRUNS.overruns (t : Nat) : RF := ⟨(INS_OVERRUNS t), 0, 64⟩
/-- INS_RDV_WAIT (Table 9-15). -/
def INS_RDV_WAIT (t : Nat) : Nat := 0x10000001888 + t * 0x8000000
def INS_RDV_WAIT.rdv_wait_cycles (t : Nat) : RF := ⟨(INS_RDV_WAIT t), 0, 64⟩
/-- INS_SEM_WAIT (Table 9-15). -/
def INS_SEM_WAIT (t : Nat) : Nat := 0x10000001890 + t * 0x8000000
def INS_SEM_WAIT.sem_wait_cycles (t : Nat) : RF := ⟨(INS_SEM_WAIT t), 0, 64⟩
/-- INS_BUSY_HOLD (Table 9-15). -/
def INS_BUSY_HOLD (t : Nat) : Nat := 0x10000001898 + t * 0x8000000
def INS_BUSY_HOLD.busy_hold_cycles (t : Nat) : RF := ⟨(INS_BUSY_HOLD t), 0, 64⟩
/-- INS_RA_HOLD (Table 9-15). -/
def INS_RA_HOLD (t : Nat) : Nat := 0x100000018a0 + t * 0x8000000
def INS_RA_HOLD.ra_hold_cycles (t : Nat) : RF := ⟨(INS_RA_HOLD t), 0, 64⟩
/-- INS_CFG (Table 9-16). -/
def INS_CFG : Nat := 0x1800
def INS_CFG.rdv_timeout : RF := ⟨INS_CFG, 8, 8⟩
def INS_CFG.sem_timeout : RF := ⟨INS_CFG, 0, 8⟩
/-- NET_RT_STATUS (Table 10-6). -/
def NET_RT_STATUS (t : Nat) : Nat := 0x10000002000 + t * 0x8000000
def NET_RT_STATUS.dl_error (t : Nat) : RF := ⟨(NET_RT_STATUS t), 41, 1⟩
def NET_RT_STATUS.dl_timeout (t : Nat) : RF := ⟨(NET_RT_STATUS t), 40, 1⟩
def NET_RT_STATUS.edge_drop (t : Nat) : RF := ⟨(NET_RT_STATUS t), 39, 1⟩
def NET_RT_STATUS.link_parity (t : Nat) : RF := ⟨(NET_RT_STATUS t), 38, 1⟩
def NET_RT_STATUS.parity_dir (t : Nat) : RF := ⟨(NET_RT_STATUS t), 35, 3⟩
def NET_RT_STATUS.rt_n (t : Nat) : RF := ⟨(NET_RT_STATUS t), 29, 3⟩
def NET_RT_STATUS.rt_e (t : Nat) : RF := ⟨(NET_RT_STATUS t), 26, 3⟩
def NET_RT_STATUS.rt_s (t : Nat) : RF := ⟨(NET_RT_STATUS t), 23, 3⟩
def NET_RT_STATUS.rt_w (t : Nat) : RF := ⟨(NET_RT_STATUS t), 20, 3⟩
def NET_RT_STATUS.rt_t (t : Nat) : RF := ⟨(NET_RT_STATUS t), 17, 3⟩
def NET_RT_STATUS.loc_dst (t : Nat) : RF := ⟨(NET_RT_STATUS t), 15, 2⟩
def NET_RT_STATUS.ex_inject (t : Nat) : RF := ⟨(NET_RT_STATUS t), 12, 3⟩
def NET_RT_STATUS.ex_extract (t : Nat) : RF := ⟨(NET_RT_STATUS t), 9, 3⟩
def NET_RT_STATUS.ex_src (t : Nat) : RF := ⟨(NET_RT_STATUS t), 7, 2⟩
def NET_RT_STATUS.ex_dst (t : Nat) : RF := ⟨(NET_RT_STATUS t), 5, 2⟩
/-- NET_MESH_WAIT (Table 10-7). -/
def NET_MESH_WAIT (t d : Nat) : Nat := 0x10000002010 + t * 0x8000000 + d * 0x8
def NET_MESH_WAIT.mesh_wait_cycles (t d : Nat) : RF := ⟨(NET_MESH_WAIT t d), 0, 64⟩
/-- NET_EXP_WAIT (Table 10-7). -/
def NET_EXP_WAIT (t : Nat) : Nat := 0x10000002030 + t * 0x8000000
def NET_EXP_WAIT.exp_wait_cycles (t : Nat) : RF := ⟨(NET_EXP_WAIT t), 0, 64⟩
/-- NET_SEAM_WAIT (Table 10-7). -/
def NET_SEAM_WAIT (t : Nat) : Nat := 0x10000002038 + t * 0x8000000
def NET_SEAM_WAIT.seam_wait_cycles (t : Nat) : RF := ⟨(NET_SEAM_WAIT t), 0, 64⟩
/-- NET_DL_WAIT (Table 10-7). -/
def NET_DL_WAIT (t : Nat) : Nat := 0x10000002040 + t * 0x8000000
def NET_DL_WAIT.dl_wait_cycles (t : Nat) : RF := ⟨(NET_DL_WAIT t), 0, 64⟩
/-- NET_DL_IN (Table 10-7). -/
def NET_DL_IN (t : Nat) : Nat := 0x10000002048 + t * 0x8000000
def NET_DL_IN.dl_lines_in (t : Nat) : RF := ⟨(NET_DL_IN t), 0, 64⟩
/-- NET_DL_OUT (Table 10-7). -/
def NET_DL_OUT (t : Nat) : Nat := 0x10000002050 + t * 0x8000000
def NET_DL_OUT.dl_lines_out (t : Nat) : RF := ⟨(NET_DL_OUT t), 0, 64⟩
/-- NET_DL_RETRY (Table 10-7). -/
def NET_DL_RETRY (t : Nat) : Nat := 0x10000002058 + t * 0x8000000
def NET_DL_RETRY.dl_retries (t : Nat) : RF := ⟨(NET_DL_RETRY t), 0, 64⟩
/-- NET_UL_WAIT (Table 10-7). -/
def NET_UL_WAIT (f d : Nat) : Nat := 0x30000003000 + f * 0x8000000 + d * 0x8
def NET_UL_WAIT.ul_wait (f d : Nat) : RF := ⟨(NET_UL_WAIT f d), 0, 64⟩
/-- NET_UL_LINES (Table 10-7). -/
def NET_UL_LINES (f : Nat) : Nat := 0x30000003028 + f * 0x8000000
def NET_UL_LINES.ul_lines (f : Nat) : RF := ⟨(NET_UL_LINES f), 0, 64⟩
/-- NET_CFG (Table 10-8). -/
def NET_CFG : Nat := 0x3200
def NET_CFG.ul_timeout : RF := ⟨NET_CFG, 0, 16⟩
/-- STK_STATUS (Table 10-9). -/
def STK_STATUS (k : Nat) : Nat := 0x40000000000 + k * 0x8000000
def STK_STATUS.temp_c (k : Nat) : RF := ⟨(STK_STATUS k), 40, 8⟩
def STK_STATUS.rate (k : Nat) : RF := ⟨(STK_STATUS k), 32, 2⟩
def STK_STATUS.lost (k : Nat) : RF := ⟨(STK_STATUS k), 3, 1⟩
def STK_STATUS.poisoned (k : Nat) : RF := ⟨(STK_STATUS k), 2, 1⟩
def STK_STATUS.uncorrected (k : Nat) : RF := ⟨(STK_STATUS k), 1, 1⟩
def STK_STATUS.corrected (k : Nat) : RF := ⟨(STK_STATUS k), 0, 1⟩
/-- STK_ECC (Table 10-10). -/
def STK_ECC (k : Nat) : Nat := 0x40000000008 + k * 0x8000000
def STK_ECC.corrected_count (k : Nat) : RF := ⟨(STK_ECC k), 48, 16⟩
def STK_ECC.uncorrected_count (k : Nat) : RF := ⟨(STK_ECC k), 40, 8⟩
def STK_ECC.clear_count (k : Nat) : RF := ⟨(STK_ECC k), 32, 1⟩
def STK_ECC.last_unit (k : Nat) : RF := ⟨(STK_ECC k), 0, 25⟩
/-- STK_SCRUB (Table 10-10). -/
def STK_SCRUB (k : Nat) : Nat := 0x40000000010 + k * 0x8000000
def STK_SCRUB.progress (k : Nat) : RF := ⟨(STK_SCRUB k), 32, 25⟩
def STK_SCRUB.scrub_en (k : Nat) : RF := ⟨(STK_SCRUB k), 8, 1⟩
def STK_SCRUB.period (k : Nat) : RF := ⟨(STK_SCRUB k), 0, 8⟩
/-- STK_RD_LINES (Table 10-11). -/
def STK_RD_LINES (k : Nat) : Nat := 0x40000000020 + k * 0x8000000
def STK_RD_LINES.read_lines (k : Nat) : RF := ⟨(STK_RD_LINES k), 0, 64⟩
/-- STK_WR_LINES (Table 10-11). -/
def STK_WR_LINES (k : Nat) : Nat := 0x40000000028 + k * 0x8000000
def STK_WR_LINES.write_lines (k : Nat) : RF := ⟨(STK_WR_LINES k), 0, 64⟩
/-- STK_BUSY (Table 10-11). -/
def STK_BUSY (k : Nat) : Nat := 0x40000000030 + k * 0x8000000
def STK_BUSY.busy_cycles (k : Nat) : RF := ⟨(STK_BUSY k), 0, 64⟩
/-- STK_CONTEND (Table 10-11). -/
def STK_CONTEND (k : Nat) : Nat := 0x40000000038 + k * 0x8000000
def STK_CONTEND.contend_cycles (k : Nat) : RF := ⟨(STK_CONTEND k), 0, 64⟩
/-- STK_PART_MAP (Table 10-12). -/
def STK_PART_MAP (p : Nat) : Nat := 0x3000 + p * 0x8
def STK_PART_MAP.slab_count (p : Nat) : RF := ⟨(STK_PART_MAP p), 32, 9⟩
def STK_PART_MAP.slab_base (p : Nat) : RF := ⟨(STK_PART_MAP p), 16, 9⟩
def STK_PART_MAP.stack_mask (p : Nat) : RF := ⟨(STK_PART_MAP p), 0, 12⟩
/-- STK_PRESENT (Table 10-12). -/
def STK_PRESENT : Nat := 0x3100
def STK_PRESENT.failed : RF := ⟨STK_PRESENT, 32, 12⟩
def STK_PRESENT.present : RF := ⟨STK_PRESENT, 0, 12⟩
/-- CDC_STOPPED (Table 11-4). -/
def CDC_STOPPED : Nat := 0x3800
def CDC_STOPPED.wake_failed : RF := ⟨CDC_STOPPED, 48, 12⟩
def CDC_STOPPED.timed_out : RF := ⟨CDC_STOPPED, 32, 12⟩
def CDC_STOPPED.waking : RF := ⟨CDC_STOPPED, 16, 12⟩
def CDC_STOPPED.stopped : RF := ⟨CDC_STOPPED, 0, 12⟩
/-- CDC_CFG (Table 11-5). -/
def CDC_CFG : Nat := 0x3808
def CDC_CFG.wake_timeout : RF := ⟨CDC_CFG, 0, 16⟩
/-- CDC_LAST (Table 11-6). -/
def CDC_LAST : Nat := 0x3810
def CDC_LAST.physical_index : RF := ⟨CDC_LAST, 51, 13⟩
def CDC_LAST.crossing : RF := ⟨CDC_LAST, 47, 4⟩
def CDC_LAST.hall_low : RF := ⟨CDC_LAST, 0, 47⟩
/-- CDC_WAKES (Table 11-6). -/
def CDC_WAKES : Nat := 0x3818
def CDC_WAKES.wakes : RF := ⟨CDC_WAKES, 0, 64⟩
/-- RED_TILE_STATUS (Table 12-7). -/
def RED_TILE_STATUS (t : Nat) : Nat := 0x10000001c00 + t * 0x8000000
def RED_TILE_STATUS.last_block (t : Nat) : RF := ⟨(RED_TILE_STATUS t), 32, 16⟩
def RED_TILE_STATUS.inputs1 (t : Nat) : RF := ⟨(RED_TILE_STATUS t), 21, 5⟩
def RED_TILE_STATUS.inputs0 (t : Nat) : RF := ⟨(RED_TILE_STATUS t), 16, 5⟩
def RED_TILE_STATUS.too_many (t : Nat) : RF := ⟨(RED_TILE_STATUS t), 5, 1⟩
def RED_TILE_STATUS.carry_zeroed (t : Nat) : RF := ⟨(RED_TILE_STATUS t), 4, 1⟩
def RED_TILE_STATUS.nonfinite (t : Nat) : RF := ⟨(RED_TILE_STATUS t), 3, 1⟩
def RED_TILE_STATUS.root_fail (t : Nat) : RF := ⟨(RED_TILE_STATUS t), 2, 1⟩
def RED_TILE_STATUS.equality_fail (t : Nat) : RF := ⟨(RED_TILE_STATUS t), 1, 1⟩
def RED_TILE_STATUS.payload_fail (t : Nat) : RF := ⟨(RED_TILE_STATUS t), 0, 1⟩
/-- RED_REGRID (Table 12-8). -/
def RED_REGRID (t : Nat) : Nat := 0x10000001c08 + t * 0x8000000
def RED_REGRID.regrid_roundings (t : Nat) : RF := ⟨(RED_REGRID t), 0, 64⟩
/-- RED_STATUS (Table 12-9). -/
def RED_STATUS (c : Nat) : Nat := 0x4000 + c * 0x40
def RED_STATUS.attempt (c : Nat) : RF := ⟨(RED_STATUS c), 48, 2⟩
def RED_STATUS.consecutive_voids (c : Nat) : RF := ⟨(RED_STATUS c), 40, 2⟩
def RED_STATUS.offender (c : Nat) : RF := ⟨(RED_STATUS c), 16, 16⟩
def RED_STATUS.reason (c : Nat) : RF := ⟨(RED_STATUS c), 12, 4⟩
def RED_STATUS.verdict (c : Nat) : RF := ⟨(RED_STATUS c), 6, 2⟩
def RED_STATUS.verdict_wait (c : Nat) : RF := ⟨(RED_STATUS c), 3, 1⟩
def RED_STATUS.abandoned (c : Nat) : RF := ⟨(RED_STATUS c), 2, 1⟩
def RED_STATUS.verdict_lost (c : Nat) : RF := ⟨(RED_STATUS c), 1, 1⟩
def RED_STATUS.carry_cur (c : Nat) : RF := ⟨(RED_STATUS c), 0, 1⟩
/-- RED_STEP (Table 12-10). -/
def RED_STEP (c : Nat) : Nat := 0x4008 + c * 0x40
def RED_STEP.step (c : Nat) : RF := ⟨(RED_STEP c), 0, 64⟩
/-- RED_DEADLINE (Table 12-10). -/
def RED_DEADLINE (c : Nat) : Nat := 0x4010 + c * 0x40
def RED_DEADLINE.deadline_ns (c : Nat) : RF := ⟨(RED_DEADLINE c), 0, 64⟩
/-- RED_COUNTS (Table 12-10). -/
def RED_COUNTS (c : Nat) : Nat := 0x4018 + c * 0x40
def RED_COUNTS.confirms (c : Nat) : RF := ⟨(RED_COUNTS c), 32, 32⟩
def RED_COUNTS.voids (c : Nat) : RF := ⟨(RED_COUNTS c), 16, 16⟩
def RED_COUNTS.stale_discards (c : Nat) : RF := ⟨(RED_COUNTS c), 0, 16⟩
/-- WGT_STATUS (Table 13-9). -/
def WGT_STATUS (c : Nat) : Nat := 0x6000 + c * 0x80
def WGT_STATUS.pinned1 (c : Nat) : RF := ⟨(WGT_STATUS c), 48, 16⟩
def WGT_STATUS.pinned0 (c : Nat) : RF := ⟨(WGT_STATUS c), 32, 16⟩
def WGT_STATUS.switch_pending (c : Nat) : RF := ⟨(WGT_STATUS c), 15, 1⟩
def WGT_STATUS.pending_slot (c : Nat) : RF := ⟨(WGT_STATUS c), 14, 1⟩
def WGT_STATUS.current (c : Nat) : RF := ⟨(WGT_STATUS c), 13, 1⟩
def WGT_STATUS.forced (c : Nat) : RF := ⟨(WGT_STATUS c), 10, 1⟩
def WGT_STATUS.conflict (c : Nat) : RF := ⟨(WGT_STATUS c), 9, 1⟩
def WGT_STATUS.digest_fail (c : Nat) : RF := ⟨(WGT_STATUS c), 8, 1⟩
def WGT_STATUS.state1 (c : Nat) : RF := ⟨(WGT_STATUS c), 4, 4⟩
def WGT_STATUS.state0 (c : Nat) : RF := ⟨(WGT_STATUS c), 0, 4⟩
/-- WGT_PROGRESS (Table 13-10). -/
def WGT_PROGRESS (c k : Nat) : Nat := 0x6008 + c * 0x80 + k * 0x8
def WGT_PROGRESS.landed (c k : Nat) : RF := ⟨(WGT_PROGRESS c k), 32, 19⟩
def WGT_PROGRESS.shards (c k : Nat) : RF := ⟨(WGT_PROGRESS c k), 0, 19⟩
/-- WGT_TAG (Table 13-10). -/
def WGT_TAG (c k : Nat) : Nat := 0x6018 + c * 0x80 + k * 0x8
def WGT_TAG.tag (c k : Nat) : RF := ⟨(WGT_TAG c k), 0, 64⟩
/-- WGT_SWITCH_TICK (Table 13-10). -/
def WGT_SWITCH_TICK (c : Nat) : Nat := 0x6028 + c * 0x80
def WGT_SWITCH_TICK.tick (c : Nat) : RF := ⟨(WGT_SWITCH_TICK c), 0, 64⟩
/-- WGT_COUNTS (Table 13-10). -/
def WGT_COUNTS (c : Nat) : Nat := 0x6030 + c * 0x80
def WGT_COUNTS.stale_shards (c : Nat) : RF := ⟨(WGT_COUNTS c), 32, 32⟩
def WGT_COUNTS.dup_shards (c : Nat) : RF := ⟨(WGT_COUNTS c), 16, 16⟩
def WGT_COUNTS.retries (c : Nat) : RF := ⟨(WGT_COUNTS c), 0, 16⟩
/-- WGT_SRAM_WIN (Table 13-10). -/
def WGT_SRAM_WIN (c : Nat) : Nat := 0x6038 + c * 0x80
def WGT_SRAM_WIN.win_lines (c : Nat) : RF := ⟨(WGT_SRAM_WIN c), 17, 17⟩
def WGT_SRAM_WIN.win_line (c : Nat) : RF := ⟨(WGT_SRAM_WIN c), 0, 17⟩
/-- WGT_SRAM_BASE (Table 13-10). -/
def WGT_SRAM_BASE (c : Nat) : Nat := 0x6040 + c * 0x80
def WGT_SRAM_BASE.base1 (c : Nat) : RF := ⟨(WGT_SRAM_BASE c), 17, 17⟩
def WGT_SRAM_BASE.base0 (c : Nat) : RF := ⟨(WGT_SRAM_BASE c), 0, 17⟩
/-- WGT_SCALE_WIN (Table 13-10). -/
def WGT_SCALE_WIN (c : Nat) : Nat := 0x6048 + c * 0x80
def WGT_SCALE_WIN.base1 (c : Nat) : RF := ⟨(WGT_SCALE_WIN c), 42, 14⟩
def WGT_SCALE_WIN.base0 (c : Nat) : RF := ⟨(WGT_SCALE_WIN c), 28, 14⟩
def WGT_SCALE_WIN.len (c : Nat) : RF := ⟨(WGT_SCALE_WIN c), 14, 14⟩
def WGT_SCALE_WIN.win (c : Nat) : RF := ⟨(WGT_SCALE_WIN c), 0, 14⟩
/-- WGT_MASK_WIN (Table 13-10). -/
def WGT_MASK_WIN (c : Nat) : Nat := 0x6050 + c * 0x80
def WGT_MASK_WIN.base1 (c : Nat) : RF := ⟨(WGT_MASK_WIN c), 42, 14⟩
def WGT_MASK_WIN.base0 (c : Nat) : RF := ⟨(WGT_MASK_WIN c), 28, 14⟩
def WGT_MASK_WIN.len (c : Nat) : RF := ⟨(WGT_MASK_WIN c), 14, 14⟩
def WGT_MASK_WIN.win (c : Nat) : RF := ⟨(WGT_MASK_WIN c), 0, 14⟩
/-- WGT_STACK_WIN (Table 13-10). -/
def WGT_STACK_WIN (c : Nat) : Nat := 0x6058 + c * 0x80
def WGT_STACK_WIN.win (c : Nat) : RF := ⟨(WGT_STACK_WIN c), 0, 64⟩
/-- WGT_STACK_LEN (Table 13-10). -/
def WGT_STACK_LEN (c : Nat) : Nat := 0x6060 + c * 0x80
def WGT_STACK_LEN.len (c : Nat) : RF := ⟨(WGT_STACK_LEN c), 0, 64⟩
/-- WGT_STACK_SET (Table 13-10). -/
def WGT_STACK_SET (c k : Nat) : Nat := 0x6068 + c * 0x80 + k * 0x8
def WGT_STACK_SET.base (c k : Nat) : RF := ⟨(WGT_STACK_SET c k), 0, 64⟩
/-- WGT_CFG (Table 13-11). -/
def WGT_CFG : Nat := 0xa000
def WGT_CFG.build_timeout : RF := ⟨WGT_CFG, 32, 12⟩
def WGT_CFG.storage_timeout : RF := ⟨WGT_CFG, 16, 16⟩
def WGT_CFG.digest_retries : RF := ⟨WGT_CFG, 8, 3⟩
def WGT_CFG.scrub_en : RF := ⟨WGT_CFG, 5, 1⟩
def WGT_CFG.scrub_exp : RF := ⟨WGT_CFG, 0, 5⟩
/-- WGT_SCRUB (Table 13-11). -/
def WGT_SCRUB : Nat := 0xa008
def WGT_SCRUB.rounds : RF := ⟨WGT_SCRUB, 48, 16⟩
def WGT_SCRUB.context : RF := ⟨WGT_SCRUB, 19, 7⟩
def WGT_SCRUB.slot : RF := ⟨WGT_SCRUB, 18, 1⟩
def WGT_SCRUB.shard : RF := ⟨WGT_SCRUB, 0, 18⟩
/-- WGT_SCRUB_COUNTS (Table 13-11). -/
def WGT_SCRUB_COUNTS : Nat := 0xa010
def WGT_SCRUB_COUNTS.checked : RF := ⟨WGT_SCRUB_COUNTS, 32, 32⟩
def WGT_SCRUB_COUNTS.skipped : RF := ⟨WGT_SCRUB_COUNTS, 16, 16⟩
def WGT_SCRUB_COUNTS.mismatches : RF := ⟨WGT_SCRUB_COUNTS, 0, 16⟩
/-- WGT_INGEST (Table 13-11). -/
def WGT_INGEST (k : Nat) : Nat := 0xa080 + k * 0x8
def WGT_INGEST.shards_in (k : Nat) : RF := ⟨(WGT_INGEST k), 0, 64⟩
/-- WGT_ADAPTERS (Table 13-11). -/
def WGT_ADAPTERS : Nat := 0xa100
def WGT_ADAPTERS.used : RF := ⟨WGT_ADAPTERS, 0, 13⟩
/-- WGT_STORAGE (Table 13-11). -/
def WGT_STORAGE : Nat := 0xa108
def WGT_STORAGE.reissues : RF := ⟨WGT_STORAGE, 48, 16⟩
def WGT_STORAGE.timeouts : RF := ⟨WGT_STORAGE, 32, 16⟩
def WGT_STORAGE.connected : RF := ⟨WGT_STORAGE, 0, 4⟩
/-- SEQ_CFG (Table 14-7). -/
def SEQ_CFG (c : Nat) : Nat := 0xb000 + c * 0x80
def SEQ_CFG.quota (c : Nat) : RF := ⟨(SEQ_CFG c), 49, 15⟩
def SEQ_CFG.max_drove (c : Nat) : RF := ⟨(SEQ_CFG c), 36, 13⟩
def SEQ_CFG.prefill_chunk (c : Nat) : RF := ⟨(SEQ_CFG c), 20, 16⟩
def SEQ_CFG.adapter_cache (c : Nat) : RF := ⟨(SEQ_CFG c), 12, 8⟩
def SEQ_CFG.serving (c : Nat) : RF := ⟨(SEQ_CFG c), 0, 1⟩
/-- SEQ_STATUS (Table 14-7). -/
def SEQ_STATUS (c : Nat) : Nat := 0xb008 + c * 0x80
def SEQ_STATUS.in_use (c : Nat) : RF := ⟨(SEQ_STATUS c), 49, 15⟩
def SEQ_STATUS.lanes (c : Nat) : RF := ⟨(SEQ_STATUS c), 36, 13⟩
def SEQ_STATUS.waiting (c : Nat) : RF := ⟨(SEQ_STATUS c), 21, 15⟩
def SEQ_STATUS.stalled (c : Nat) : RF := ⟨(SEQ_STATUS c), 6, 15⟩
def SEQ_STATUS.prompt_error (c : Nat) : RF := ⟨(SEQ_STATUS c), 1, 1⟩
def SEQ_STATUS.output_error (c : Nat) : RF := ⟨(SEQ_STATUS c), 0, 1⟩
/-- SEQ_KV_POOL (Table 14-7). -/
def SEQ_KV_POOL (c : Nat) : Nat := 0xb010 + c * 0x80
def SEQ_KV_POOL.kv_pool (c : Nat) : RF := ⟨(SEQ_KV_POOL c), 0, 40⟩
/-- SEQ_KV_LANE (Table 14-7). -/
def SEQ_KV_LANE (c : Nat) : Nat := 0xb018 + c * 0x80
def SEQ_KV_LANE.kv_regions (c : Nat) : RF := ⟨(SEQ_KV_LANE c), 48, 15⟩
def SEQ_KV_LANE.kv_lane (c : Nat) : RF := ⟨(SEQ_KV_LANE c), 0, 40⟩
/-- SEQ_KV_POS (Table 14-7). -/
def SEQ_KV_POS (c : Nat) : Nat := 0xb020 + c * 0x80
def SEQ_KV_POS.kv_pos (c : Nat) : RF := ⟨(SEQ_KV_POS c), 0, 32⟩
/-- SEQ_HIST_WIN (Table 14-7). -/
def SEQ_HIST_WIN (c : Nat) : Nat := 0xb028 + c * 0x80
def SEQ_HIST_WIN.hist_win (c : Nat) : RF := ⟨(SEQ_HIST_WIN c), 0, 40⟩
/-- SEQ_APP_WIN (Table 14-7). -/
def SEQ_APP_WIN (c : Nat) : Nat := 0xb030 + c * 0x80
def SEQ_APP_WIN.app_win (c : Nat) : RF := ⟨(SEQ_APP_WIN c), 0, 40⟩
/-- SEQ_DROVE_ADDR (Table 14-7). -/
def SEQ_DROVE_ADDR (c : Nat) : Nat := 0xb038 + c * 0x80
def SEQ_DROVE_ADDR.drove_addr (c : Nat) : RF := ⟨(SEQ_DROVE_ADDR c), 0, 40⟩
/-- SEQ_IN_ADDR (Table 14-7). -/
def SEQ_IN_ADDR (c : Nat) : Nat := 0xb040 + c * 0x80
def SEQ_IN_ADDR.in_addr (c : Nat) : RF := ⟨(SEQ_IN_ADDR c), 0, 40⟩
/-- SEQ_OUT_ADDR (Table 14-7). -/
def SEQ_OUT_ADDR (c : Nat) : Nat := 0xb048 + c * 0x80
def SEQ_OUT_ADDR.out_addr (c : Nat) : RF := ⟨(SEQ_OUT_ADDR c), 0, 40⟩
/-- SEQ_LANE_DESC (Table 14-7). -/
def SEQ_LANE_DESC (c : Nat) : Nat := 0xb050 + c * 0x80
def SEQ_LANE_DESC.lane_desc_line (c : Nat) : RF := ⟨(SEQ_LANE_DESC c), 0, 17⟩
/-- SEQ_COUNTS (Table 14-7). -/
def SEQ_COUNTS (c : Nat) : Nat := 0xb058 + c * 0x80
def SEQ_COUNTS.admitted (c : Nat) : RF := ⟨(SEQ_COUNTS c), 32, 32⟩
def SEQ_COUNTS.retired (c : Nat) : RF := ⟨(SEQ_COUNTS c), 0, 32⟩
/-- SEQ_COUNTS2 (Table 14-7). -/
def SEQ_COUNTS2 (c : Nat) : Nat := 0xb060 + c * 0x80
def SEQ_COUNTS2.kv_outside (c : Nat) : RF := ⟨(SEQ_COUNTS2 c), 32, 32⟩
def SEQ_COUNTS2.setup_slips (c : Nat) : RF := ⟨(SEQ_COUNTS2 c), 16, 16⟩
def SEQ_COUNTS2.refused (c : Nat) : RF := ⟨(SEQ_COUNTS2 c), 0, 16⟩
/-- SEQ_ADAPT (Table 14-7). -/
def SEQ_ADAPT (c : Nat) : Nat := 0xb068 + c * 0x80
def SEQ_ADAPT.adapter_layers (c : Nat) : RF := ⟨(SEQ_ADAPT c), 34, 5⟩
def SEQ_ADAPT.entry_lines (c : Nat) : RF := ⟨(SEQ_ADAPT c), 17, 17⟩
def SEQ_ADAPT.adapt_line (c : Nat) : RF := ⟨(SEQ_ADAPT c), 0, 17⟩
/-- SEQ_TABLE (Table 14-8). -/
def SEQ_TABLE : Nat := 0xf000
def SEQ_TABLE.quota_sum : RF := ⟨SEQ_TABLE, 16, 15⟩
def SEQ_TABLE.free : RF := ⟨SEQ_TABLE, 0, 15⟩
/-- PAR_CFG (Table 15-8). -/
def PAR_CFG : Nat := 0x11000
def PAR_CFG.free_credits : RF := ⟨PAR_CFG, 32, 16⟩
def PAR_CFG.credits_total : RF := ⟨PAR_CFG, 16, 16⟩
def PAR_CFG.drain_us : RF := ⟨PAR_CFG, 0, 16⟩
/-- PAR_FREE (Table 15-8). -/
def PAR_FREE : Nat := 0x11008
def PAR_FREE.free_gated : RF := ⟨PAR_FREE, 32, 12⟩
def PAR_FREE.free : RF := ⟨PAR_FREE, 20, 12⟩
def PAR_FREE.partitions : RF := ⟨PAR_FREE, 12, 8⟩
def PAR_FREE.unserved : RF := ⟨PAR_FREE, 0, 12⟩
/-- PAR_PART_CFG (Table 15-9). -/
def PAR_PART_CFG (p : Nat) : Nat := 0x10000 + p * 0x40
def PAR_PART_CFG.state (p : Nat) : RF := ⟨(PAR_PART_CFG p), 62, 2⟩
def PAR_PART_CFG.priority (p : Nat) : RF := ⟨(PAR_PART_CFG p), 59, 3⟩
def PAR_PART_CFG.x0 (p : Nat) : RF := ⟨(PAR_PART_CFG p), 46, 7⟩
def PAR_PART_CFG.y0 (p : Nat) : RF := ⟨(PAR_PART_CFG p), 40, 6⟩
def PAR_PART_CFG.width (p : Nat) : RF := ⟨(PAR_PART_CFG p), 33, 7⟩
def PAR_PART_CFG.height (p : Nat) : RF := ⟨(PAR_PART_CFG p), 27, 6⟩
def PAR_PART_CFG.contexts (p : Nat) : RF := ⟨(PAR_PART_CFG p), 23, 4⟩
/-- PAR_PART_CREDITS (Table 15-9). -/
def PAR_PART_CREDITS (p : Nat) : Nat := 0x10008 + p * 0x40
def PAR_PART_CREDITS.pool (p : Nat) : RF := ⟨(PAR_PART_CREDITS p), 48, 16⟩
def PAR_PART_CREDITS.in_use (p : Nat) : RF := ⟨(PAR_PART_CREDITS p), 32, 16⟩
def PAR_PART_CREDITS.floor_sum (p : Nat) : RF := ⟨(PAR_PART_CREDITS p), 16, 16⟩
def PAR_PART_CREDITS.draining (p : Nat) : RF := ⟨(PAR_PART_CREDITS p), 0, 16⟩
/-- PAR_PART_SLICE (Table 15-9). -/
def PAR_PART_SLICE (p k : Nat) : Nat := 0x10010 + p * 0x40 + k * 0x8
def PAR_PART_SLICE.valid0 (p k : Nat) : RF := ⟨(PAR_PART_SLICE p k), 15, 1⟩
def PAR_PART_SLICE.valid1 (p k : Nat) : RF := ⟨(PAR_PART_SLICE p k), 31, 1⟩
def PAR_PART_SLICE.valid2 (p k : Nat) : RF := ⟨(PAR_PART_SLICE p k), 47, 1⟩
def PAR_PART_SLICE.valid3 (p k : Nat) : RF := ⟨(PAR_PART_SLICE p k), 63, 1⟩
def PAR_PART_SLICE.slot0 (p k : Nat) : RF := ⟨(PAR_PART_SLICE p k), 12, 3⟩
def PAR_PART_SLICE.slot1 (p k : Nat) : RF := ⟨(PAR_PART_SLICE p k), 28, 3⟩
def PAR_PART_SLICE.slot2 (p k : Nat) : RF := ⟨(PAR_PART_SLICE p k), 44, 3⟩
def PAR_PART_SLICE.slot3 (p k : Nat) : RF := ⟨(PAR_PART_SLICE p k), 60, 3⟩
def PAR_PART_SLICE.ticks0 (p k : Nat) : RF := ⟨(PAR_PART_SLICE p k), 0, 12⟩
def PAR_PART_SLICE.ticks1 (p k : Nat) : RF := ⟨(PAR_PART_SLICE p k), 16, 12⟩
def PAR_PART_SLICE.ticks2 (p k : Nat) : RF := ⟨(PAR_PART_SLICE p k), 32, 12⟩
def PAR_PART_SLICE.ticks3 (p k : Nat) : RF := ⟨(PAR_PART_SLICE p k), 48, 12⟩
/-- PAR_PART_STATUS (Table 15-9). -/
def PAR_PART_STATUS (p : Nat) : Nat := 0x10020 + p * 0x40
def PAR_PART_STATUS.ticks_left (p : Nat) : RF := ⟨(PAR_PART_STATUS p), 48, 16⟩
def PAR_PART_STATUS.entry (p : Nat) : RF := ⟨(PAR_PART_STATUS p), 45, 3⟩
def PAR_PART_STATUS.running (p : Nat) : RF := ⟨(PAR_PART_STATUS p), 38, 7⟩
def PAR_PART_STATUS.running_valid (p : Nat) : RF := ⟨(PAR_PART_STATUS p), 37, 1⟩
def PAR_PART_STATUS.evicting (p : Nat) : RF := ⟨(PAR_PART_STATUS p), 36, 1⟩
def PAR_PART_STATUS.breaches (p : Nat) : RF := ⟨(PAR_PART_STATUS p), 0, 32⟩
/-- PAR_CTX_CFG (Table 15-10). -/
def PAR_CTX_CFG (c : Nat) : Nat := 0x12000 + c * 0x80
def PAR_CTX_CFG.state (c : Nat) : RF := ⟨(PAR_CTX_CFG c), 61, 3⟩
def PAR_CTX_CFG.partition (c : Nat) : RF := ⟨(PAR_CTX_CFG c), 56, 5⟩
def PAR_CTX_CFG.slot (c : Nat) : RF := ⟨(PAR_CTX_CFG c), 53, 3⟩
def PAR_CTX_CFG.role (c : Nat) : RF := ⟨(PAR_CTX_CFG c), 51, 2⟩
def PAR_CTX_CFG.exclusive (c : Nat) : RF := ⟨(PAR_CTX_CFG c), 50, 1⟩
def PAR_CTX_CFG.report_en (c : Nat) : RF := ⟨(PAR_CTX_CFG c), 49, 1⟩
def PAR_CTX_CFG.share_base (c : Nat) : RF := ⟨(PAR_CTX_CFG c), 31, 17⟩
def PAR_CTX_CFG.share_lines (c : Nat) : RF := ⟨(PAR_CTX_CFG c), 14, 17⟩
def PAR_CTX_CFG.latency_target (c : Nat) : RF := ⟨(PAR_CTX_CFG c), 8, 6⟩
/-- PAR_CTX_CREDIT (Table 15-10). -/
def PAR_CTX_CREDIT (c : Nat) : Nat := 0x12008 + c * 0x80
def PAR_CTX_CREDIT.floor (c : Nat) : RF := ⟨(PAR_CTX_CREDIT c), 48, 16⟩
def PAR_CTX_CREDIT.held (c : Nat) : RF := ⟨(PAR_CTX_CREDIT c), 32, 16⟩
def PAR_CTX_CREDIT.draining (c : Nat) : RF := ⟨(PAR_CTX_CREDIT c), 16, 16⟩
/-- PAR_CTX_SEED (Table 15-10). -/
def PAR_CTX_SEED (c : Nat) : Nat := 0x12010 + c * 0x80
def PAR_CTX_SEED.base_seed (c : Nat) : RF := ⟨(PAR_CTX_SEED c), 0, 64⟩
/-- PAR_CTX_EVICT (Table 15-10). -/
def PAR_CTX_EVICT (c : Nat) : Nat := 0x12018 + c * 0x80
def PAR_CTX_EVICT.evict_addr (c : Nat) : RF := ⟨(PAR_CTX_EVICT c), 0, 40⟩
/-- PAR_CTX_STATUS (Table 15-10). -/
def PAR_CTX_STATUS (c : Nat) : Nat := 0x12020 + c * 0x80
def PAR_CTX_STATUS.switches (c : Nat) : RF := ⟨(PAR_CTX_STATUS c), 40, 24⟩
def PAR_CTX_STATUS.evictions (c : Nat) : RF := ⟨(PAR_CTX_STATUS c), 24, 16⟩
def PAR_CTX_STATUS.hold_ticks (c : Nat) : RF := ⟨(PAR_CTX_STATUS c), 8, 16⟩
def PAR_CTX_STATUS.drain_cancelled (c : Nat) : RF := ⟨(PAR_CTX_STATUS c), 1, 1⟩
def PAR_CTX_STATUS.breach (c : Nat) : RF := ⟨(PAR_CTX_STATUS c), 0, 1⟩
/-- CMD_MGMT_CFG (Table 16-12). -/
def CMD_MGMT_CFG (m : Nat) : Nat := 0x16400 + m * 0x40
def CMD_MGMT_CFG.prefix_len (m : Nat) : RF := ⟨(CMD_MGMT_CFG m), 32, 8⟩
def CMD_MGMT_CFG.tcp_port (m : Nat) : RF := ⟨(CMD_MGMT_CFG m), 16, 16⟩
/-- CMD_MGMT_STATUS (Table 16-12). -/
def CMD_MGMT_STATUS (m : Nat) : Nat := 0x16408 + m * 0x40
def CMD_MGMT_STATUS.held (m : Nat) : RF := ⟨(CMD_MGMT_STATUS m), 8, 8⟩
def CMD_MGMT_STATUS.link_up (m : Nat) : RF := ⟨(CMD_MGMT_STATUS m), 0, 1⟩
/-- CMD_MGMT_MAC (Table 16-12). -/
def CMD_MGMT_MAC (m : Nat) : Nat := 0x16410 + m * 0x40
def CMD_MGMT_MAC.mac (m : Nat) : RF := ⟨(CMD_MGMT_MAC m), 0, 48⟩
/-- CMD_MGMT_ADDR_HI (Table 16-12). -/
def CMD_MGMT_ADDR_HI (m : Nat) : Nat := 0x16418 + m * 0x40
def CMD_MGMT_ADDR_HI.addr_hi (m : Nat) : RF := ⟨(CMD_MGMT_ADDR_HI m), 0, 64⟩
/-- CMD_MGMT_ADDR_LO (Table 16-12). -/
def CMD_MGMT_ADDR_LO (m : Nat) : Nat := 0x16420 + m * 0x40
def CMD_MGMT_ADDR_LO.addr_lo (m : Nat) : RF := ⟨(CMD_MGMT_ADDR_LO m), 0, 64⟩
/-- CMD_MGMT_COUNTS (Table 16-12). -/
def CMD_MGMT_COUNTS (m : Nat) : Nat := 0x16428 + m * 0x40
def CMD_MGMT_COUNTS.relayed (m : Nat) : RF := ⟨(CMD_MGMT_COUNTS m), 32, 32⟩
def CMD_MGMT_COUNTS.refused (m : Nat) : RF := ⟨(CMD_MGMT_COUNTS m), 0, 32⟩
/-- CMD_CFG (Table 16-9). -/
def CMD_CFG : Nat := 0x16000
def CMD_CFG.fw_timeout : RF := ⟨CMD_CFG, 16, 16⟩
def CMD_CFG.return_timeout : RF := ⟨CMD_CFG, 0, 16⟩
/-- CMD_STATUS (Table 16-9). -/
def CMD_STATUS : Nat := 0x16008
def CMD_STATUS.overrun : RF := ⟨CMD_STATUS, 10, 1⟩
def CMD_STATUS.crc_error : RF := ⟨CMD_STATUS, 9, 1⟩
def CMD_STATUS.runtime_up : RF := ⟨CMD_STATUS, 8, 1⟩
def CMD_STATUS.stalled : RF := ⟨CMD_STATUS, 0, 8⟩
/-- CMD_CHAN_CFG (Table 16-10). -/
def CMD_CHAN_CFG (ch : Nat) : Nat := 0x16100 + ch * 0x20
def CMD_CHAN_CFG.partition_mask (ch : Nat) : RF := ⟨(CMD_CHAN_CFG ch), 32, 32⟩
def CMD_CHAN_CFG.min_class (ch : Nat) : RF := ⟨(CMD_CHAN_CFG ch), 26, 3⟩
def CMD_CHAN_CFG.event_mask (ch : Nat) : RF := ⟨(CMD_CHAN_CFG ch), 18, 8⟩
def CMD_CHAN_CFG.group_mask (ch : Nat) : RF := ⟨(CMD_CHAN_CFG ch), 0, 13⟩
/-- CMD_CHAN_STATUS (Table 16-10). -/
def CMD_CHAN_STATUS (ch : Nat) : Nat := 0x16108 + ch * 0x20
def CMD_CHAN_STATUS.queued (ch : Nat) : RF := ⟨(CMD_CHAN_STATUS ch), 16, 11⟩
def CMD_CHAN_STATUS.outstanding (ch : Nat) : RF := ⟨(CMD_CHAN_STATUS ch), 0, 7⟩
/-- CMD_CHAN_COUNTS (Table 16-10). -/
def CMD_CHAN_COUNTS (ch : Nat) : Nat := 0x16110 + ch * 0x20
def CMD_CHAN_COUNTS.accepted (ch : Nat) : RF := ⟨(CMD_CHAN_COUNTS ch), 32, 32⟩
def CMD_CHAN_COUNTS.refused (ch : Nat) : RF := ⟨(CMD_CHAN_COUNTS ch), 16, 16⟩
def CMD_CHAN_COUNTS.crc_discards (ch : Nat) : RF := ⟨(CMD_CHAN_COUNTS ch), 0, 16⟩
/-- CMD_CHAN_EVENTS (Table 16-10). -/
def CMD_CHAN_EVENTS (ch : Nat) : Nat := 0x16118 + ch * 0x20
def CMD_CHAN_EVENTS.events_sent (ch : Nat) : RF := ⟨(CMD_CHAN_EVENTS ch), 32, 32⟩
def CMD_CHAN_EVENTS.events_lost (ch : Nat) : RF := ⟨(CMD_CHAN_EVENTS ch), 0, 32⟩
/-- CMD_RESULT_CFG (Table 16-11). -/
def CMD_RESULT_CFG (c : Nat) : Nat := 0x17000 + c * 0x20
def CMD_RESULT_CFG.retention_ms (c : Nat) : RF := ⟨(CMD_RESULT_CFG c), 0, 32⟩
/-- CMD_RESULT_STATUS (Table 16-11). -/
def CMD_RESULT_STATUS (c : Nat) : Nat := 0x17008 + c * 0x20
def CMD_RESULT_STATUS.expired (c : Nat) : RF := ⟨(CMD_RESULT_STATUS c), 32, 32⟩
def CMD_RESULT_STATUS.trace_dropped (c : Nat) : RF := ⟨(CMD_RESULT_STATUS c), 0, 32⟩
/-- PRT_CFG (Table 17-8). -/
def PRT_CFG (p : Nat) : Nat := 0x50000000000 + p * 0x8000000
def PRT_CFG.prefix_len (p : Nat) : RF := ⟨(PRT_CFG p), 32, 8⟩
def PRT_CFG.mtu (p : Nat) : RF := ⟨(PRT_CFG p), 18, 14⟩
def PRT_CFG.lldp_tx_s (p : Nat) : RF := ⟨(PRT_CFG p), 6, 12⟩
def PRT_CFG.lldp_en (p : Nat) : RF := ⟨(PRT_CFG p), 1, 1⟩
def PRT_CFG.enable (p : Nat) : RF := ⟨(PRT_CFG p), 0, 1⟩
/-- PRT_STATUS (Table 17-8). -/
def PRT_STATUS (p : Nat) : Nat := 0x50000000008 + p * 0x8000000
def PRT_STATUS.partner_domain (p : Nat) : RF := ⟨(PRT_STATUS p), 16, 8⟩
def PRT_STATUS.partner_ecn (p : Nat) : RF := ⟨(PRT_STATUS p), 10, 1⟩
def PRT_STATUS.partner_ptp (p : Nat) : RF := ⟨(PRT_STATUS p), 9, 1⟩
def PRT_STATUS.lldp_valid (p : Nat) : RF := ⟨(PRT_STATUS p), 8, 1⟩
def PRT_STATUS.mirror_behind (p : Nat) : RF := ⟨(PRT_STATUS p), 7, 1⟩
def PRT_STATUS.link_lost (p : Nat) : RF := ⟨(PRT_STATUS p), 6, 1⟩
def PRT_STATUS.long_cable (p : Nat) : RF := ⟨(PRT_STATUS p), 5, 1⟩
def PRT_STATUS.medium (p : Nat) : RF := ⟨(PRT_STATUS p), 3, 2⟩
def PRT_STATUS.link_state (p : Nat) : RF := ⟨(PRT_STATUS p), 0, 3⟩
/-- PRT_CABLE (Table 17-9). -/
def PRT_CABLE (p : Nat) : Nat := 0x50000000010 + p * 0x8000000
def PRT_CABLE.measured (p : Nat) : RF := ⟨(PRT_CABLE p), 16, 1⟩
def PRT_CABLE.length_dm (p : Nat) : RF := ⟨(PRT_CABLE p), 0, 16⟩
/-- PRT_MAC (Table 17-9). -/
def PRT_MAC (p : Nat) : Nat := 0x50000000018 + p * 0x8000000
def PRT_MAC.mac (p : Nat) : RF := ⟨(PRT_MAC p), 0, 48⟩
/-- PRT_ADDR_HI (Table 17-9). -/
def PRT_ADDR_HI (p : Nat) : Nat := 0x50000000020 + p * 0x8000000
def PRT_ADDR_HI.addr_hi (p : Nat) : RF := ⟨(PRT_ADDR_HI p), 0, 64⟩
/-- PRT_ADDR_LO (Table 17-9). -/
def PRT_ADDR_LO (p : Nat) : Nat := 0x50000000028 + p * 0x8000000
def PRT_ADDR_LO.addr_lo (p : Nat) : RF := ⟨(PRT_ADDR_LO p), 0, 64⟩
/-- PRT_PARTNER (Table 17-9). -/
def PRT_PARTNER (p : Nat) : Nat := 0x50000000030 + p * 0x8000000
def PRT_PARTNER.ttl_left (p : Nat) : RF := ⟨(PRT_PARTNER p), 48, 16⟩
def PRT_PARTNER.partner_mac (p : Nat) : RF := ⟨(PRT_PARTNER p), 0, 48⟩
/-- PRT_FRAMES (Table 17-9). -/
def PRT_FRAMES (p : Nat) : Nat := 0x50000000100 + p * 0x8000000
def PRT_FRAMES.frames_tx (p : Nat) : RF := ⟨(PRT_FRAMES p), 32, 32⟩
def PRT_FRAMES.frames_rx (p : Nat) : RF := ⟨(PRT_FRAMES p), 0, 32⟩
/-- PRT_FEC (Table 17-9). -/
def PRT_FEC (p : Nat) : Nat := 0x50000000108 + p * 0x8000000
def PRT_FEC.fec_corrected (p : Nat) : RF := ⟨(PRT_FEC p), 32, 32⟩
def PRT_FEC.fec_uncorrected (p : Nat) : RF := ⟨(PRT_FEC p), 0, 32⟩
/-- PRT_DISCARDS (Table 17-9). -/
def PRT_DISCARDS (p : Nat) : Nat := 0x50000000110 + p * 0x8000000
def PRT_DISCARDS.pause_discards (p : Nat) : RF := ⟨(PRT_DISCARDS p), 48, 16⟩
def PRT_DISCARDS.ext_discards (p : Nat) : RF := ⟨(PRT_DISCARDS p), 32, 16⟩
def PRT_DISCARDS.udp_discards (p : Nat) : RF := ⟨(PRT_DISCARDS p), 16, 16⟩
def PRT_DISCARDS.bad_type (p : Nat) : RF := ⟨(PRT_DISCARDS p), 0, 16⟩
/-- PRT_MLADUB (Table 17-9). -/
def PRT_MLADUB (p : Nat) : Nat := 0x50000000118 + p * 0x8000000
def PRT_MLADUB.retransmits (p : Nat) : RF := ⟨(PRT_MLADUB p), 48, 16⟩
def PRT_MLADUB.dup_rx (p : Nat) : RF := ⟨(PRT_MLADUB p), 32, 16⟩
def PRT_MLADUB.rx_no_buffer (p : Nat) : RF := ⟨(PRT_MLADUB p), 16, 16⟩
def PRT_MLADUB.auth_fail (p : Nat) : RF := ⟨(PRT_MLADUB p), 0, 16⟩
/-- PRT_ECN (Table 17-9). -/
def PRT_ECN (p : Nat) : Nat := 0x50000000120 + p * 0x8000000
def PRT_ECN.ce_rx (p : Nat) : RF := ⟨(PRT_ECN p), 0, 64⟩
/-- PRT_GLOBAL (Table 17-10). -/
def PRT_GLOBAL : Nat := 0x18000
def PRT_GLOBAL.udp_port : RF := ⟨PRT_GLOBAL, 48, 16⟩
def PRT_GLOBAL.dscp_data : RF := ⟨PRT_GLOBAL, 42, 6⟩
def PRT_GLOBAL.dscp_ctrl : RF := ⟨PRT_GLOBAL, 36, 6⟩
def PRT_GLOBAL.rto_min_us : RF := ⟨PRT_GLOBAL, 22, 14⟩
def PRT_GLOBAL.ack_delay_us : RF := ⟨PRT_GLOBAL, 16, 6⟩
def PRT_GLOBAL.stream_timeout_ms : RF := ⟨PRT_GLOBAL, 0, 16⟩
/-- PRT_JOB (Table 17-10). -/
def PRT_JOB : Nat := 0x18008
def PRT_JOB.ctrl_retry_us : RF := ⟨PRT_JOB, 16, 16⟩
def PRT_JOB.ack_level_ms : RF := ⟨PRT_JOB, 0, 16⟩
/-- PRT_CC (Table 17-10). -/
def PRT_CC : Nat := 0x18010
def PRT_CC.period_us : RF := ⟨PRT_CC, 16, 16⟩
def PRT_CC.rai : RF := ⟨PRT_CC, 8, 8⟩
def PRT_CC.min_rate : RF := ⟨PRT_CC, 0, 8⟩
/-- PRT_ID (Table 17-10). -/
def PRT_ID : Nat := 0x18018
def PRT_ID.oui : RF := ⟨PRT_ID, 0, 24⟩
/-- PRT_STREAMS (Table 17-10). -/
def PRT_STREAMS : Nat := 0x18020
def PRT_STREAMS.opened : RF := ⟨PRT_STREAMS, 0, 13⟩
/-- PWR_CFG (Table 18-11). -/
def PWR_CFG : Nat := 0x19000
def PWR_CFG.cap_w : RF := ⟨PWR_CFG, 32, 16⟩
def PWR_CFG.idle_gate : RF := ⟨PWR_CFG, 16, 1⟩
def PWR_CFG.raise_steps : RF := ⟨PWR_CFG, 8, 4⟩
def PWR_CFG.margin_pct : RF := ⟨PWR_CFG, 0, 4⟩
/-- PWR_STATUS (Table 18-12). -/
def PWR_STATUS : Nat := 0x19008
def PWR_STATUS.input_w : RF := ⟨PWR_STATUS, 48, 16⟩
def PWR_STATUS.predicted_w : RF := ⟨PWR_STATUS, 32, 16⟩
def PWR_STATUS.limiter_level : RF := ⟨PWR_STATUS, 25, 3⟩
def PWR_STATUS.cal_envelope : RF := ⟨PWR_STATUS, 7, 1⟩
def PWR_STATUS.limiter_acted : RF := ⟨PWR_STATUS, 2, 1⟩
def PWR_STATUS.imbalance : RF := ⟨PWR_STATUS, 1, 1⟩
def PWR_STATUS.input_warn : RF := ⟨PWR_STATUS, 0, 1⟩
/-- PWR_ENTRY (Table 18-13). -/
def PWR_ENTRY (q : Nat) : Nat := 0x19010 + q * 0x8
def PWR_ENTRY.current_ma (q : Nat) : RF := ⟨(PWR_ENTRY q), 32, 32⟩
def PWR_ENTRY.voltage_mv (q : Nat) : RF := ⟨(PWR_ENTRY q), 0, 32⟩
/-- PWR_STANDBY (Table 18-13). -/
def PWR_STANDBY : Nat := 0x19030
def PWR_STANDBY.current_ma : RF := ⟨PWR_STANDBY, 32, 32⟩
def PWR_STANDBY.voltage_mv : RF := ⟨PWR_STANDBY, 0, 32⟩
/-- PWR_COUNTS (Table 18-13). -/
def PWR_COUNTS : Nat := 0x19038
def PWR_COUNTS.limiter_steps : RF := ⟨PWR_COUNTS, 32, 32⟩
def PWR_COUNTS.clock_changes : RF := ⟨PWR_COUNTS, 0, 32⟩
/-- PWR_PART_CLK (Table 18-13). -/
def PWR_PART_CLK (p : Nat) : Nat := 0x19100 + p * 0x8
def PWR_PART_CLK.below_min (p : Nat) : RF := ⟨(PWR_PART_CLK p), 27, 1⟩
def PWR_PART_CLK.min_clock_mhz (p : Nat) : RF := ⟨(PWR_PART_CLK p), 16, 11⟩
def PWR_PART_CLK.clock_mhz (p : Nat) : RF := ⟨(PWR_PART_CLK p), 0, 11⟩
/-- PWR_DROOP (Table 18-13). -/
def PWR_DROOP (t : Nat) : Nat := 0x10000002400 + t * 0x8000000
def PWR_DROOP.droop_cycles (t : Nat) : RF := ⟨(PWR_DROOP t), 0, 64⟩
/-- PWR_LIMIT (Table 18-13). -/
def PWR_LIMIT (t : Nat) : Nat := 0x10000002408 + t * 0x8000000
def PWR_LIMIT.limit_cycles (t : Nat) : RF := ⟨(PWR_LIMIT t), 0, 64⟩
/-- THM_CFG (Table 18-14). -/
def THM_CFG : Nat := 0x1a000
def THM_CFG.gate_c : RF := ⟨THM_CFG, 16, 8⟩
def THM_CFG.hyst_c : RF := ⟨THM_CFG, 8, 8⟩
def THM_CFG.max_gate : RF := ⟨THM_CFG, 0, 8⟩
/-- THM_STATUS (Table 18-14). -/
def THM_STATUS : Nat := 0x1a008
def THM_STATUS.hottest_c : RF := ⟨THM_STATUS, 40, 8⟩
def THM_STATUS.hottest_region : RF := ⟨THM_STATUS, 31, 9⟩
def THM_STATUS.gated_count : RF := ⟨THM_STATUS, 22, 9⟩
def THM_STATUS.emerg_count : RF := ⟨THM_STATUS, 13, 9⟩
def THM_STATUS.sensor_fault : RF := ⟨THM_STATUS, 5, 1⟩
def THM_STATUS.inlet_high : RF := ⟨THM_STATUS, 4, 1⟩
def THM_STATUS.flow_low : RF := ⟨THM_STATUS, 3, 1⟩
def THM_STATUS.die_hot : RF := ⟨THM_STATUS, 2, 1⟩
def THM_STATUS.emergency : RF := ⟨THM_STATUS, 1, 1⟩
def THM_STATUS.any_gated : RF := ⟨THM_STATUS, 0, 1⟩
/-- THM_COOLANT (Table 18-14). -/
def THM_COOLANT : Nat := 0x1a010
def THM_COOLANT.bottom_dp : RF := ⟨THM_COOLANT, 48, 16⟩
def THM_COOLANT.top_dp : RF := ⟨THM_COOLANT, 32, 16⟩
def THM_COOLANT.top_inlet_c : RF := ⟨THM_COOLANT, 24, 8⟩
def THM_COOLANT.top_outlet_c : RF := ⟨THM_COOLANT, 16, 8⟩
def THM_COOLANT.bottom_inlet_c : RF := ⟨THM_COOLANT, 8, 8⟩
def THM_COOLANT.bottom_outlet_c : RF := ⟨THM_COOLANT, 0, 8⟩
/-- THM_DIES (Table 18-14). -/
def THM_DIES : Nat := 0x1a018
def THM_DIES.port_die : RF := ⟨THM_DIES, 24, 4⟩
def THM_DIES.port_die_c : RF := ⟨THM_DIES, 16, 8⟩
def THM_DIES.control_die_c : RF := ⟨THM_DIES, 0, 8⟩
/-- THM_REGION (Table 18-14). -/
def THM_REGION (f r : Nat) : Nat := 0x30000004000 + f * 0x8000000 + r * 0x8
def THM_REGION.temp_c (f r : Nat) : RF := ⟨(THM_REGION f r), 24, 8⟩
def THM_REGION.valid_sensors (f r : Nat) : RF := ⟨(THM_REGION f r), 20, 4⟩
def THM_REGION.sensor_fault (f r : Nat) : RF := ⟨(THM_REGION f r), 3, 1⟩
def THM_REGION.emergency (f r : Nat) : RF := ⟨(THM_REGION f r), 2, 1⟩
def THM_REGION.gate_state (f r : Nat) : RF := ⟨(THM_REGION f r), 0, 2⟩
/-- THM_REGION_COUNTS (Table 18-14). -/
def THM_REGION_COUNTS (f r : Nat) : Nat := 0x30000004040 + f * 0x8000000 + r * 0x8
def THM_REGION_COUNTS.gated_ticks (f r : Nat) : RF := ⟨(THM_REGION_COUNTS f r), 32, 32⟩
def THM_REGION_COUNTS.gate_events (f r : Nat) : RF := ⟨(THM_REGION_COUNTS f r), 16, 16⟩
def THM_REGION_COUNTS.emergencies (f r : Nat) : RF := ⟨(THM_REGION_COUNTS f r), 0, 16⟩
/-- SEC_STATUS (Table 19-7). -/
def SEC_STATUS : Nat := 0xf0000000000
def SEC_STATUS.attested : RF := ⟨SEC_STATUS, 16, 8⟩
def SEC_STATUS.sessions : RF := ⟨SEC_STATUS, 9, 7⟩
def SEC_STATUS.debug_disable : RF := ⟨SEC_STATUS, 8, 1⟩
def SEC_STATUS.owner_set : RF := ⟨SEC_STATUS, 7, 1⟩
def SEC_STATUS.runtime_slot : RF := ⟨SEC_STATUS, 6, 1⟩
def SEC_STATUS.tfw_slot : RF := ⟨SEC_STATUS, 5, 1⟩
def SEC_STATUS.debug_level : RF := ⟨SEC_STATUS, 3, 2⟩
def SEC_STATUS.boot_state : RF := ⟨SEC_STATUS, 0, 3⟩
/-- SEC_VERSION (Table 19-8). -/
def SEC_VERSION : Nat := 0xf0000000008
def SEC_VERSION.tfw_version : RF := ⟨SEC_VERSION, 48, 16⟩
def SEC_VERSION.rfw_version : RF := ⟨SEC_VERSION, 32, 16⟩
def SEC_VERSION.tfw_floor : RF := ⟨SEC_VERSION, 16, 16⟩
def SEC_VERSION.rfw_floor : RF := ⟨SEC_VERSION, 0, 16⟩
/-- SEC_FUSE_HASH (Table 19-8). -/
def SEC_FUSE_HASH (w : Nat) : Nat := 0xf0000000010 + w * 0x8
def SEC_FUSE_HASH.hash (w : Nat) : RF := ⟨(SEC_FUSE_HASH w), 0, 64⟩
/-- SEC_MEAS (Table 19-8). -/
def SEC_MEAS (s w : Nat) : Nat := 0xf0000000100 + s * 0x20 + w * 0x8
def SEC_MEAS.meas (s w : Nat) : RF := ⟨(SEC_MEAS s w), 0, 64⟩
/-- SEC_ENROL (Table 19-8). -/
def SEC_ENROL : Nat := 0xf0000000300
def SEC_ENROL.enrolled : RF := ⟨SEC_ENROL, 32, 32⟩
def SEC_ENROL.counter_low : RF := ⟨SEC_ENROL, 0, 32⟩
/-- SEC_COUNTS (Table 19-8). -/
def SEC_COUNTS : Nat := 0xf0000000308
def SEC_COUNTS.quotes : RF := ⟨SEC_COUNTS, 48, 16⟩
def SEC_COUNTS.sig_failures : RF := ⟨SEC_COUNTS, 32, 16⟩
def SEC_COUNTS.unlocks : RF := ⟨SEC_COUNTS, 16, 16⟩
def SEC_COUNTS.refusals : RF := ⟨SEC_COUNTS, 0, 16⟩
/-- SEC_CTX (Table 19-8). -/
def SEC_CTX (c : Nat) : Nat := 0xf0000001000 + c * 0x8
def SEC_CTX.attested (c : Nat) : RF := ⟨(SEC_CTX c), 7, 1⟩
def SEC_CTX.session_valid (c : Nat) : RF := ⟨(SEC_CTX c), 6, 1⟩
def SEC_CTX.session (c : Nat) : RF := ⟨(SEC_CTX c), 0, 6⟩
/-- CAL_STATUS (Table 20-8). -/
def CAL_STATUS : Nat := 0x1b000
def CAL_STATUS.write_counter : RF := ⟨CAL_STATUS, 32, 32⟩
def CAL_STATUS.records : RF := ⟨CAL_STATUS, 16, 16⟩
def CAL_STATUS.learning : RF := ⟨CAL_STATUS, 4, 1⟩
def CAL_STATUS.corrupt : RF := ⟨CAL_STATUS, 3, 1⟩
def CAL_STATUS.restored : RF := ⟨CAL_STATUS, 2, 1⟩
def CAL_STATUS.modified : RF := ⟨CAL_STATUS, 1, 1⟩
def CAL_STATUS.set_valid : RF := ⟨CAL_STATUS, 0, 1⟩
/-- CAL_ENV (Table 20-8). -/
def CAL_ENV : Nat := 0x1b008
def CAL_ENV.outside : RF := ⟨CAL_ENV, 1, 7⟩
/-- CAL_LEARN0 (Table 20-8). -/
def CAL_LEARN0 : Nat := 0x1b010
def CAL_LEARN0.coef_s : RF := ⟨CAL_LEARN0, 32, 32⟩
def CAL_LEARN0.coef_a : RF := ⟨CAL_LEARN0, 0, 32⟩
/-- CAL_LEARN1 (Table 20-8). -/
def CAL_LEARN1 : Nat := 0x1b018
def CAL_LEARN1.updates : RF := ⟨CAL_LEARN1, 32, 32⟩
def CAL_LEARN1.coef_l : RF := ⟨CAL_LEARN1, 0, 32⟩
/-- CAL_BRINGUP (Table 20-8). -/
def CAL_BRINGUP : Nat := 0x1b020
def CAL_BRINGUP.duration_ms : RF := ⟨CAL_BRINGUP, 32, 32⟩
def CAL_BRINGUP.bist_failed : RF := ⟨CAL_BRINGUP, 19, 13⟩
def CAL_BRINGUP.fields_off : RF := ⟨CAL_BRINGUP, 13, 6⟩
def CAL_BRINGUP.abort_stage : RF := ⟨CAL_BRINGUP, 4, 4⟩
def CAL_BRINGUP.stage : RF := ⟨CAL_BRINGUP, 0, 4⟩
/-- CAL_BIST_CTRL (Table 20-8). -/
def CAL_BIST_CTRL (t : Nat) : Nat := 0x20000000900 + t * 0x8000000
def CAL_BIST_CTRL.fail_unit (t : Nat) : RF := ⟨(CAL_BIST_CTRL t), 8, 8⟩
def CAL_BIST_CTRL.pass (t : Nat) : RF := ⟨(CAL_BIST_CTRL t), 2, 1⟩
def CAL_BIST_CTRL.running (t : Nat) : RF := ⟨(CAL_BIST_CTRL t), 1, 1⟩
def CAL_BIST_CTRL.start (t : Nat) : RF := ⟨(CAL_BIST_CTRL t), 0, 1⟩
/-- FLT_CFG (Table 21-8). -/
def FLT_CFG : Nat := 0x1c000
def FLT_CFG.wd_us : RF := ⟨FLT_CFG, 16, 16⟩
def FLT_CFG.log_min_class : RF := ⟨FLT_CFG, 0, 3⟩
/-- FLT_LOG_INDEX (Table 21-9). -/
def FLT_LOG_INDEX : Nat := 0x1c008
def FLT_LOG_INDEX.next_index : RF := ⟨FLT_LOG_INDEX, 0, 64⟩
/-- FLT_LOG_STATUS (Table 21-9). -/
def FLT_LOG_STATUS : Nat := 0x1c010
def FLT_LOG_STATUS.overwritten : RF := ⟨FLT_LOG_STATUS, 32, 32⟩
def FLT_LOG_STATUS.held : RF := ⟨FLT_LOG_STATUS, 0, 13⟩
/-- FLT_LAST (Table 21-9). -/
def FLT_LAST : Nat := 0x1c018
def FLT_LAST.code : RF := ⟨FLT_LAST, 48, 16⟩
def FLT_LAST.cls : RF := ⟨FLT_LAST, 45, 3⟩
def FLT_LAST.context : RF := ⟨FLT_LAST, 38, 7⟩
def FLT_LAST.context_valid : RF := ⟨FLT_LAST, 37, 1⟩
def FLT_LAST.partition : RF := ⟨FLT_LAST, 32, 5⟩
def FLT_LAST.tick_low : RF := ⟨FLT_LAST, 0, 32⟩
/-- FLT_COUNTS (Table 21-9). -/
def FLT_COUNTS (k : Nat) : Nat := 0x1c020 + k * 0x8
def FLT_COUNTS.odd_class (k : Nat) : RF := ⟨(FLT_COUNTS k), 32, 32⟩
def FLT_COUNTS.even_class (k : Nat) : RF := ⟨(FLT_COUNTS k), 0, 32⟩
/-- FLT_STATE (Table 21-9). -/
def FLT_STATE : Nat := 0x1c038
def FLT_STATE.fields_lost : RF := ⟨FLT_STATE, 8, 49⟩
def FLT_STATE.module_faulted : RF := ⟨FLT_STATE, 1, 1⟩
/-- FLT_CTX_STATUS (Table 21-10). -/
def FLT_CTX_STATUS (c : Nat) : Nat := 0x1d000 + c * 0x40
def FLT_CTX_STATUS.cause_code (c : Nat) : RF := ⟨(FLT_CTX_STATUS c), 48, 16⟩
def FLT_CTX_STATUS.cause_class (c : Nat) : RF := ⟨(FLT_CTX_STATUS c), 45, 3⟩
def FLT_CTX_STATUS.faults (c : Nat) : RF := ⟨(FLT_CTX_STATUS c), 16, 16⟩
def FLT_CTX_STATUS.blocked (c : Nat) : RF := ⟨(FLT_CTX_STATUS c), 1, 1⟩
def FLT_CTX_STATUS.torn_down (c : Nat) : RF := ⟨(FLT_CTX_STATUS c), 0, 1⟩
/-- FLT_CTX_ILOG_BASE (Table 21-10). -/
def FLT_CTX_ILOG_BASE (c : Nat) : Nat := 0x1d008 + c * 0x40
def FLT_CTX_ILOG_BASE.base (c : Nat) : RF := ⟨(FLT_CTX_ILOG_BASE c), 0, 40⟩
/-- FLT_CTX_ILOG_CFG (Table 21-10). -/
def FLT_CTX_ILOG_CFG (c : Nat) : Nat := 0x1d010 + c * 0x40
def FLT_CTX_ILOG_CFG.depth (c : Nat) : RF := ⟨(FLT_CTX_ILOG_CFG c), 48, 7⟩
def FLT_CTX_ILOG_CFG.entry_units (c : Nat) : RF := ⟨(FLT_CTX_ILOG_CFG c), 0, 40⟩
/-- FLT_CTX_ILOG_WIN (Table 21-10). -/
def FLT_CTX_ILOG_WIN (c : Nat) : Nat := 0x1d018 + c * 0x40
def FLT_CTX_ILOG_WIN.in_win (c : Nat) : RF := ⟨(FLT_CTX_ILOG_WIN c), 0, 40⟩
/-- FLT_CTX_ILOG_STEP (Table 21-10). -/
def FLT_CTX_ILOG_STEP (c : Nat) : Nat := 0x1d020 + c * 0x40
def FLT_CTX_ILOG_STEP.copied_step (c : Nat) : RF := ⟨(FLT_CTX_ILOG_STEP c), 0, 64⟩
/-- FLT_CTX_FINISH (Table 21-10). -/
def FLT_CTX_FINISH (c : Nat) : Nat := 0x1d028 + c * 0x40
def FLT_CTX_FINISH.finish_offset_ns (c : Nat) : RF := ⟨(FLT_CTX_FINISH c), 32, 32⟩
def FLT_CTX_FINISH.attempt (c : Nat) : RF := ⟨(FLT_CTX_FINISH c), 0, 2⟩
/-- FLT_CTX_FINISH_MAX (Table 21-10). -/
def FLT_CTX_FINISH_MAX (c : Nat) : Nat := 0x1d030 + c * 0x40
def FLT_CTX_FINISH_MAX.max_finish_ns (c : Nat) : RF := ⟨(FLT_CTX_FINISH_MAX c), 32, 32⟩
def FLT_CTX_FINISH_MAX.late_steps (c : Nat) : RF := ⟨(FLT_CTX_FINISH_MAX c), 0, 32⟩

/-- Registers of space 0x0, part 0. -/
def regsWafer0 : List RegSpec := [
  ⟨0x1000, [], [⟨20, 4, .rw, 10, some (1, 10)⟩, ⟨16, 4, .rw, 4, some (2, 15)⟩, ⟨8, 8, .rw, 0, none⟩, ⟨7, 1, .rw, 0, none⟩, ⟨6, 1, .rw, 1, none⟩, ⟨4, 2, .rw, 1, some (0, 1)⟩, ⟨2, 2, .rw, 2, some (0, 2)⟩]⟩,
  ⟨0x1008, [], [⟨15, 1, .ro, 0, none⟩, ⟨14, 1, .ro, 1, none⟩, ⟨13, 1, .w1c, 0, none⟩, ⟨12, 1, .w1c, 0, none⟩, ⟨11, 1, .w1c, 0, none⟩, ⟨8, 3, .ro, 0, none⟩, ⟨0, 3, .ro, 3, none⟩]⟩,
  ⟨0x1010, [], [⟨0, 64, .ro, 0, none⟩]⟩,
  ⟨0x1018, [], [⟨32, 32, .ro, 0, none⟩, ⟨0, 32, .ro, 0, none⟩]⟩,
  ⟨0x1020, [], [⟨16, 16, .ro, 0, none⟩, ⟨0, 16, .ro, 0, none⟩]⟩,
  ⟨0x1028, [], [⟨16, 16, .rw, 0, none⟩, ⟨0, 16, .rw, 0, none⟩]⟩,
  ⟨0x1030, [], [⟨0, 64, .ro, 0, none⟩]⟩,
  ⟨0x1038, [], [⟨0, 17, .ro, 1000, none⟩]⟩,
  ⟨0x1040, [], [⟨0, 64, .ro, 0, none⟩]⟩,
  ⟨0x1048, [], [⟨0, 64, .ro, 0, none⟩]⟩,
  ⟨0x1050, [], [⟨16, 8, .rw, 8, some (1, 255)⟩, ⟨0, 16, .rw, 5, some (2, 20)⟩]⟩,
  ⟨0x1058, [], [⟨0, 64, .rw, 0, none⟩]⟩,
  ⟨0x1060, [], [⟨0, 64, .rw, 0, none⟩]⟩,
  ⟨0x1068, [], [⟨0, 64, .rw, 0, none⟩]⟩,
  ⟨0x1070, [], [⟨0, 64, .rw, 0, none⟩]⟩,
  ⟨0x1078, [(8, 2)], [⟨0, 48, .ro, 0, none⟩]⟩]

/-- Registers of space 0x0, part 1. -/
def regsWafer1 : List RegSpec := [
  ⟨0x1088, [], [⟨8, 8, .rw, 64, some (1, 128)⟩, ⟨0, 8, .rw, 64, some (1, 128)⟩]⟩,
  ⟨0x1090, [], [⟨9, 6, .ro, 0, none⟩, ⟨8, 1, .ro, 0, none⟩, ⟨2, 1, .ro, 0, none⟩, ⟨1, 1, .ro, 0, none⟩, ⟨0, 1, .ro, 0, none⟩]⟩,
  ⟨0x2100, [], [⟨48, 12, .ro, 0, none⟩, ⟨32, 12, .ro, 0, none⟩, ⟨13, 13, .ro, 0, none⟩, ⟨0, 10, .ro, 0, none⟩]⟩,
  ⟨0x1800, [], [⟨8, 8, .rw, 4, some (1, 255)⟩, ⟨0, 8, .rw, 4, some (1, 255)⟩]⟩,
  ⟨0x3200, [], [⟨0, 16, .rw, 100, some (10, 10000)⟩]⟩,
  ⟨0x3000, [(8, 32)], [⟨32, 9, .ro, 0, none⟩, ⟨16, 9, .ro, 0, none⟩, ⟨0, 12, .ro, 0, none⟩]⟩,
  ⟨0x3100, [], [⟨32, 12, .ro, 0, none⟩, ⟨0, 12, .ro, 0, none⟩]⟩,
  ⟨0x3800, [], [⟨48, 12, .w1c, 0, none⟩, ⟨32, 12, .w1c, 0, none⟩, ⟨16, 12, .ro, 0, none⟩, ⟨0, 12, .ro, 0, none⟩]⟩,
  ⟨0x3808, [], [⟨0, 16, .rw, 50, some (20, 1000)⟩]⟩,
  ⟨0x3810, [], [⟨51, 13, .ro, 0, none⟩, ⟨47, 4, .ro, 0, none⟩, ⟨0, 47, .ro, 0, none⟩]⟩,
  ⟨0x3818, [], [⟨0, 64, .ro, 0, none⟩]⟩,
  ⟨0x4000, [(64, 128)], [⟨48, 2, .ro, 0, none⟩, ⟨40, 2, .ro, 0, none⟩, ⟨16, 16, .ro, 0, none⟩, ⟨12, 4, .ro, 0, none⟩, ⟨6, 2, .ro, 0, none⟩, ⟨3, 1, .ro, 0, none⟩, ⟨2, 1, .w1c, 0, none⟩, ⟨1, 1, .w1c, 0, none⟩, ⟨0, 1, .ro, 0, none⟩]⟩,
  ⟨0x4008, [(64, 128)], [⟨0, 64, .ro, 0, none⟩]⟩,
  ⟨0x4010, [(64, 128)], [⟨0, 64, .ro, 0, none⟩]⟩,
  ⟨0x4018, [(64, 128)], [⟨32, 32, .ro, 0, none⟩, ⟨16, 16, .ro, 0, none⟩, ⟨0, 16, .ro, 0, none⟩]⟩,
  ⟨0x6000, [(128, 128)], [⟨48, 16, .ro, 0, none⟩, ⟨32, 16, .ro, 0, none⟩, ⟨15, 1, .ro, 0, none⟩, ⟨14, 1, .ro, 0, none⟩, ⟨13, 1, .ro, 0, none⟩, ⟨10, 1, .w1c, 0, none⟩, ⟨9, 1, .w1c, 0, none⟩, ⟨8, 1, .w1c, 0, none⟩, ⟨4, 4, .ro, 0, none⟩, ⟨0, 4, .ro, 0, none⟩]⟩]

/-- Registers of space 0x0, part 2. -/
def regsWafer2 : List RegSpec := [
  ⟨0x6008, [(128, 128), (8, 2)], [⟨32, 19, .ro, 0, none⟩, ⟨0, 19, .ro, 0, none⟩]⟩,
  ⟨0x6018, [(128, 128), (8, 2)], [⟨0, 64, .ro, 0, none⟩]⟩,
  ⟨0x6028, [(128, 128)], [⟨0, 64, .ro, 0, none⟩]⟩,
  ⟨0x6030, [(128, 128)], [⟨32, 32, .ro, 0, none⟩, ⟨16, 16, .ro, 0, none⟩, ⟨0, 16, .ro, 0, none⟩]⟩,
  ⟨0x6038, [(128, 128)], [⟨17, 17, .ro, 0, none⟩, ⟨0, 17, .ro, 0, none⟩]⟩,
  ⟨0x6040, [(128, 128)], [⟨17, 17, .ro, 0, none⟩, ⟨0, 17, .ro, 0, none⟩]⟩,
  ⟨0x6048, [(128, 128)], [⟨42, 14, .ro, 0, none⟩, ⟨28, 14, .ro, 0, none⟩, ⟨14, 14, .ro, 0, none⟩, ⟨0, 14, .ro, 0, none⟩]⟩,
  ⟨0x6050, [(128, 128)], [⟨42, 14, .ro, 0, none⟩, ⟨28, 14, .ro, 0, none⟩, ⟨14, 14, .ro, 0, none⟩, ⟨0, 14, .ro, 0, none⟩]⟩,
  ⟨0x6058, [(128, 128)], [⟨0, 64, .ro, 0, none⟩]⟩,
  ⟨0x6060, [(128, 128)], [⟨0, 64, .ro, 0, none⟩]⟩,
  ⟨0x6068, [(128, 128), (8, 2)], [⟨0, 64, .ro, 0, none⟩]⟩,
  ⟨0xa000, [], [⟨32, 12, .rw, 60, some (1, 3600)⟩, ⟨16, 16, .rw, 5000, some (100, 60000)⟩, ⟨8, 3, .rw, 2, some (0, 7)⟩, ⟨5, 1, .rw, 1, none⟩, ⟨0, 5, .rw, 6, some (0, 20)⟩]⟩,
  ⟨0xa008, [], [⟨48, 16, .ro, 0, none⟩, ⟨19, 7, .ro, 0, none⟩, ⟨18, 1, .ro, 0, none⟩, ⟨0, 18, .ro, 0, none⟩]⟩,
  ⟨0xa010, [], [⟨32, 32, .ro, 0, none⟩, ⟨16, 16, .ro, 0, none⟩, ⟨0, 16, .ro, 0, none⟩]⟩,
  ⟨0xa080, [(8, 16)], [⟨0, 64, .ro, 0, none⟩]⟩,
  ⟨0xa100, [], [⟨0, 13, .ro, 0, none⟩]⟩]

/-- Registers of space 0x0, part 3. -/
def regsWafer3 : List RegSpec := [
  ⟨0xa108, [], [⟨48, 16, .ro, 0, none⟩, ⟨32, 16, .ro, 0, none⟩, ⟨0, 4, .ro, 0, none⟩]⟩,
  ⟨0xb000, [(128, 128)], [⟨49, 15, .ro, 0, none⟩, ⟨36, 13, .ro, 0, none⟩, ⟨20, 16, .ro, 0, none⟩, ⟨12, 8, .ro, 0, none⟩, ⟨0, 1, .ro, 0, none⟩]⟩,
  ⟨0xb008, [(128, 128)], [⟨49, 15, .ro, 0, none⟩, ⟨36, 13, .ro, 0, none⟩, ⟨21, 15, .ro, 0, none⟩, ⟨6, 15, .ro, 0, none⟩, ⟨1, 1, .w1c, 0, none⟩, ⟨0, 1, .w1c, 0, none⟩]⟩,
  ⟨0xb010, [(128, 128)], [⟨0, 40, .ro, 0, none⟩]⟩,
  ⟨0xb018, [(128, 128)], [⟨48, 15, .ro, 0, none⟩, ⟨0, 40, .ro, 0, none⟩]⟩,
  ⟨0xb020, [(128, 128)], [⟨0, 32, .ro, 0, none⟩]⟩,
  ⟨0xb028, [(128, 128)], [⟨0, 40, .ro, 0, none⟩]⟩,
  ⟨0xb030, [(128, 128)], [⟨0, 40, .ro, 0, none⟩]⟩,
  ⟨0xb038, [(128, 128)], [⟨0, 40, .ro, 0, none⟩]⟩,
  ⟨0xb040, [(128, 128)], [⟨0, 40, .ro, 0, none⟩]⟩,
  ⟨0xb048, [(128, 128)], [⟨0, 40, .ro, 0, none⟩]⟩,
  ⟨0xb050, [(128, 128)], [⟨0, 17, .ro, 0, none⟩]⟩,
  ⟨0xb058, [(128, 128)], [⟨32, 32, .ro, 0, none⟩, ⟨0, 32, .ro, 0, none⟩]⟩,
  ⟨0xb060, [(128, 128)], [⟨32, 32, .ro, 0, none⟩, ⟨16, 16, .ro, 0, none⟩, ⟨0, 16, .ro, 0, none⟩]⟩,
  ⟨0xb068, [(128, 128)], [⟨34, 5, .ro, 0, none⟩, ⟨17, 17, .ro, 0, none⟩, ⟨0, 17, .ro, 0, none⟩]⟩,
  ⟨0xf000, [], [⟨16, 15, .ro, 0, none⟩, ⟨0, 15, .ro, 16384, none⟩]⟩]

/-- Registers of space 0x0, part 4. -/
def regsWafer4 : List RegSpec := [
  ⟨0x11000, [], [⟨32, 16, .ro, 32768, none⟩, ⟨16, 16, .ro, 32768, none⟩, ⟨0, 16, .rw, 64, some (16, 1000)⟩]⟩,
  ⟨0x11008, [], [⟨32, 12, .ro, 0, none⟩, ⟨20, 12, .ro, 3528, none⟩, ⟨12, 8, .ro, 0, none⟩, ⟨0, 12, .ro, 0, none⟩]⟩,
  ⟨0x10000, [(64, 32)], [⟨62, 2, .ro, 0, none⟩, ⟨59, 3, .ro, 0, none⟩, ⟨46, 7, .ro, 0, none⟩, ⟨40, 6, .ro, 0, none⟩, ⟨33, 7, .ro, 0, none⟩, ⟨27, 6, .ro, 0, none⟩, ⟨23, 4, .ro, 0, none⟩]⟩,
  ⟨0x10008, [(64, 32)], [⟨48, 16, .ro, 0, none⟩, ⟨32, 16, .ro, 0, none⟩, ⟨16, 16, .ro, 0, none⟩, ⟨0, 16, .ro, 0, none⟩]⟩,
  ⟨0x10010, [(64, 32), (8, 2)], [⟨15, 1, .ro, 0, none⟩, ⟨31, 1, .ro, 0, none⟩, ⟨47, 1, .ro, 0, none⟩, ⟨63, 1, .ro, 0, none⟩, ⟨12, 3, .ro, 0, none⟩, ⟨28, 3, .ro, 0, none⟩, ⟨44, 3, .ro, 0, none⟩, ⟨60, 3, .ro, 0, none⟩, ⟨0, 12, .ro, 0, none⟩, ⟨16, 12, .ro, 0, none⟩, ⟨32, 12, .ro, 0, none⟩, ⟨48, 12, .ro, 0, none⟩]⟩,
  ⟨0x10020, [(64, 32)], [⟨48, 16, .ro, 0, none⟩, ⟨45, 3, .ro, 0, none⟩, ⟨38, 7, .ro, 0, none⟩, ⟨37, 1, .ro, 0, none⟩, ⟨36, 1, .ro, 0, none⟩, ⟨0, 32, .ro, 0, none⟩]⟩,
  ⟨0x12000, [(128, 128)], [⟨61, 3, .ro, 0, none⟩, ⟨56, 5, .ro, 0, none⟩, ⟨53, 3, .ro, 0, none⟩, ⟨51, 2, .ro, 0, none⟩, ⟨50, 1, .ro, 0, none⟩, ⟨49, 1, .ro, 0, none⟩, ⟨31, 17, .ro, 0, none⟩, ⟨14, 17, .ro, 0, none⟩, ⟨8, 6, .ro, 0, none⟩]⟩,
  ⟨0x12008, [(128, 128)], [⟨48, 16, .ro, 0, none⟩, ⟨32, 16, .ro, 0, none⟩, ⟨16, 16, .ro, 0, none⟩]⟩,
  ⟨0x12010, [(128, 128)], [⟨0, 64, .ro, 0, none⟩]⟩,
  ⟨0x12018, [(128, 128)], [⟨0, 40, .ro, 0, none⟩]⟩,
  ⟨0x12020, [(128, 128)], [⟨40, 24, .ro, 0, none⟩, ⟨24, 16, .ro, 0, none⟩, ⟨8, 16, .ro, 0, none⟩, ⟨1, 1, .w1c, 0, none⟩, ⟨0, 1, .w1c, 0, none⟩]⟩,
  ⟨0x16400, [(64, 2)], [⟨32, 8, .rw, 64, some (1, 128)⟩, ⟨16, 16, .rw, 51107, some (1024, 65535)⟩]⟩,
  ⟨0x16408, [(64, 2)], [⟨8, 8, .ro, 0, none⟩, ⟨0, 1, .ro, 0, none⟩]⟩,
  ⟨0x16410, [(64, 2)], [⟨0, 48, .ro, 0, none⟩]⟩,
  ⟨0x16418, [(64, 2)], [⟨0, 64, .rw, 0, none⟩]⟩,
  ⟨0x16420, [(64, 2)], [⟨0, 64, .rw, 0, none⟩]⟩]

/-- Registers of space 0x0, part 5. -/
def regsWafer5 : List RegSpec := [
  ⟨0x16428, [(64, 2)], [⟨32, 32, .ro, 0, none⟩, ⟨0, 32, .ro, 0, none⟩]⟩,
  ⟨0x16000, [], [⟨16, 16, .rw, 1000, some (10, 60000)⟩, ⟨0, 16, .rw, 100, some (1, 10000)⟩]⟩,
  ⟨0x16008, [], [⟨10, 1, .w1c, 0, none⟩, ⟨9, 1, .w1c, 0, none⟩, ⟨8, 1, .ro, 0, none⟩, ⟨0, 8, .ro, 0, none⟩]⟩,
  ⟨0x16100, [(32, 8)], [⟨32, 32, .rw, 4294967295, none⟩, ⟨26, 3, .rw, 0, some (0, 5)⟩, ⟨18, 8, .rw, 255, none⟩, ⟨0, 13, .rw, 8191, none⟩]⟩,
  ⟨0x16108, [(32, 8)], [⟨16, 11, .ro, 0, none⟩, ⟨0, 7, .ro, 0, none⟩]⟩,
  ⟨0x16110, [(32, 8)], [⟨32, 32, .ro, 0, none⟩, ⟨16, 16, .ro, 0, none⟩, ⟨0, 16, .ro, 0, none⟩]⟩,
  ⟨0x16118, [(32, 8)], [⟨32, 32, .ro, 0, none⟩, ⟨0, 32, .ro, 0, none⟩]⟩,
  ⟨0x17000, [(32, 128)], [⟨0, 32, .ro, 60000, none⟩]⟩,
  ⟨0x17008, [(32, 128)], [⟨32, 32, .ro, 0, none⟩, ⟨0, 32, .ro, 0, none⟩]⟩,
  ⟨0x18000, [], [⟨48, 16, .rw, 51106, some (1024, 65535)⟩, ⟨42, 6, .rw, 10, none⟩, ⟨36, 6, .rw, 46, none⟩, ⟨22, 14, .rw, 50, some (10, 10000)⟩, ⟨16, 6, .rw, 10, some (1, 63)⟩, ⟨0, 16, .rw, 100, some (1, 10000)⟩]⟩,
  ⟨0x18008, [], [⟨16, 16, .rw, 2000, some (100, 60000)⟩, ⟨0, 16, .rw, 50, some (5, 1000)⟩]⟩,
  ⟨0x18010, [], [⟨16, 16, .rw, 55, some (5, 1000)⟩, ⟨8, 8, .rw, 5, some (1, 255)⟩, ⟨0, 8, .rw, 1, some (1, 255)⟩]⟩,
  ⟨0x18018, [], [⟨0, 24, .ro, 0, none⟩]⟩,
  ⟨0x18020, [], [⟨0, 13, .ro, 0, none⟩]⟩,
  ⟨0x19000, [], [⟨32, 16, .ro, 48000, none⟩, ⟨16, 1, .rw, 1, none⟩, ⟨8, 4, .rw, 1, some (1, 10)⟩, ⟨0, 4, .rw, 2, some (0, 10)⟩]⟩,
  ⟨0x19008, [], [⟨48, 16, .ro, 0, none⟩, ⟨32, 16, .ro, 0, none⟩, ⟨25, 3, .ro, 0, none⟩, ⟨7, 1, .ro, 0, none⟩, ⟨2, 1, .w1c, 0, none⟩, ⟨1, 1, .w1c, 0, none⟩, ⟨0, 1, .w1c, 0, none⟩]⟩]

/-- Registers of space 0x0, part 6. -/
def regsWafer6 : List RegSpec := [
  ⟨0x19010, [(8, 4)], [⟨32, 32, .ro, 0, none⟩, ⟨0, 32, .ro, 0, none⟩]⟩,
  ⟨0x19030, [], [⟨32, 32, .ro, 0, none⟩, ⟨0, 32, .ro, 0, none⟩]⟩,
  ⟨0x19038, [], [⟨32, 32, .ro, 0, none⟩, ⟨0, 32, .ro, 0, none⟩]⟩,
  ⟨0x19100, [(8, 32)], [⟨27, 1, .ro, 0, none⟩, ⟨16, 11, .ro, 1200, none⟩, ⟨0, 11, .ro, 1200, none⟩]⟩,
  ⟨0x1a000, [], [⟨16, 8, .rw, 95, some (80, 100)⟩, ⟨8, 8, .rw, 5, some (2, 20)⟩, ⟨0, 8, .rw, 8, some (1, 255)⟩]⟩,
  ⟨0x1a008, [], [⟨40, 8, .ro, 0, none⟩, ⟨31, 9, .ro, 0, none⟩, ⟨22, 9, .ro, 0, none⟩, ⟨13, 9, .ro, 0, none⟩, ⟨5, 1, .w1c, 0, none⟩, ⟨4, 1, .w1c, 0, none⟩, ⟨3, 1, .w1c, 0, none⟩, ⟨2, 1, .w1c, 0, none⟩, ⟨1, 1, .w1c, 0, none⟩, ⟨0, 1, .ro, 0, none⟩]⟩,
  ⟨0x1a010, [], [⟨48, 16, .ro, 0, none⟩, ⟨32, 16, .ro, 0, none⟩, ⟨24, 8, .ro, 0, none⟩, ⟨16, 8, .ro, 0, none⟩, ⟨8, 8, .ro, 0, none⟩, ⟨0, 8, .ro, 0, none⟩]⟩,
  ⟨0x1a018, [], [⟨24, 4, .ro, 0, none⟩, ⟨16, 8, .ro, 0, none⟩, ⟨0, 8, .ro, 0, none⟩]⟩,
  ⟨0x1b000, [], [⟨32, 32, .ro, 0, none⟩, ⟨16, 16, .ro, 0, none⟩, ⟨4, 1, .ro, 0, none⟩, ⟨3, 1, .w1c, 0, none⟩, ⟨2, 1, .ro, 0, none⟩, ⟨1, 1, .ro, 0, none⟩, ⟨0, 1, .ro, 0, none⟩]⟩,
  ⟨0x1b008, [], [⟨1, 7, .ro, 0, none⟩]⟩,
  ⟨0x1b010, [], [⟨32, 32, .ro, 0, none⟩, ⟨0, 32, .ro, 0, none⟩]⟩,
  ⟨0x1b018, [], [⟨32, 32, .ro, 0, none⟩, ⟨0, 32, .ro, 0, none⟩]⟩,
  ⟨0x1b020, [], [⟨32, 32, .ro, 0, none⟩, ⟨19, 13, .ro, 0, none⟩, ⟨13, 6, .ro, 0, none⟩, ⟨4, 4, .ro, 15, none⟩, ⟨0, 4, .ro, 0, none⟩]⟩,
  ⟨0x1c000, [], [⟨16, 16, .rw, 100, some (10, 10000)⟩, ⟨0, 3, .rw, 1, some (0, 2)⟩]⟩,
  ⟨0x1c008, [], [⟨0, 64, .ro, 0, none⟩]⟩,
  ⟨0x1c010, [], [⟨32, 32, .ro, 0, none⟩, ⟨0, 13, .ro, 0, none⟩]⟩]

/-- Registers of space 0x0, part 7. -/
def regsWafer7 : List RegSpec := [
  ⟨0x1c018, [], [⟨48, 16, .ro, 0, none⟩, ⟨45, 3, .ro, 0, none⟩, ⟨38, 7, .ro, 0, none⟩, ⟨37, 1, .ro, 0, none⟩, ⟨32, 5, .ro, 0, none⟩, ⟨0, 32, .ro, 0, none⟩]⟩,
  ⟨0x1c020, [(8, 3)], [⟨32, 32, .ro, 0, none⟩, ⟨0, 32, .ro, 0, none⟩]⟩,
  ⟨0x1c038, [], [⟨8, 49, .ro, 0, none⟩, ⟨1, 1, .ro, 0, none⟩]⟩,
  ⟨0x1d000, [(64, 128)], [⟨48, 16, .ro, 0, none⟩, ⟨45, 3, .ro, 0, none⟩, ⟨16, 16, .ro, 0, none⟩, ⟨1, 1, .ro, 0, none⟩, ⟨0, 1, .w1c, 0, none⟩]⟩,
  ⟨0x1d008, [(64, 128)], [⟨0, 40, .ro, 0, none⟩]⟩,
  ⟨0x1d010, [(64, 128)], [⟨48, 7, .ro, 0, none⟩, ⟨0, 40, .ro, 0, none⟩]⟩,
  ⟨0x1d018, [(64, 128)], [⟨0, 40, .ro, 0, none⟩]⟩,
  ⟨0x1d020, [(64, 128)], [⟨0, 64, .ro, 0, none⟩]⟩,
  ⟨0x1d028, [(64, 128)], [⟨32, 32, .ro, 0, none⟩, ⟨0, 2, .ro, 0, none⟩]⟩,
  ⟨0x1d030, [(64, 128)], [⟨32, 32, .ro, 0, none⟩, ⟨0, 32, .ro, 0, none⟩]⟩]

/-- Every register of space 0x0. -/
def regsWafer : List RegSpec := regsWafer0 ++ regsWafer1 ++ regsWafer2 ++ regsWafer3 ++ regsWafer4 ++ regsWafer5 ++ regsWafer6 ++ regsWafer7

/-- Registers of space 0x3, part 0. -/
def regsField0 : List RegSpec := [
  ⟨0x2000, [(8, 6)], [⟨24, 1, .ro, 0, none⟩, ⟨20, 4, .rw, 0, some (0, 8)⟩, ⟨16, 4, .ro, 0, none⟩, ⟨12, 4, .ro, 0, none⟩, ⟨8, 3, .rw, 0, some (0, 4)⟩, ⟨4, 3, .ro, 0, none⟩, ⟨0, 3, .ro, 0, none⟩]⟩,
  ⟨0x2040, [(8, 6)], [⟨48, 12, .ro, 0, none⟩, ⟨32, 14, .w1c, 0, none⟩, ⟨16, 14, .w1c, 0, none⟩, ⟨0, 14, .ro, 0, none⟩]⟩,
  ⟨0x3000, [(8, 5)], [⟨0, 64, .ro, 0, none⟩]⟩,
  ⟨0x3028, [], [⟨0, 64, .ro, 0, none⟩]⟩,
  ⟨0x4000, [(8, 6)], [⟨24, 8, .ro, 0, none⟩, ⟨20, 4, .ro, 0, none⟩, ⟨3, 1, .w1c, 0, none⟩, ⟨2, 1, .w1c, 0, none⟩, ⟨0, 2, .ro, 0, none⟩]⟩,
  ⟨0x4040, [(8, 6)], [⟨32, 32, .ro, 0, none⟩, ⟨16, 16, .ro, 0, none⟩, ⟨0, 16, .ro, 0, none⟩]⟩]

/-- Every register of space 0x3. -/
def regsField : List RegSpec := regsField0

/-- Registers of space 0x2, part 0. -/
def regsPhys0 : List RegSpec := [
  ⟨0x800, [], [⟨50, 10, .ro, 0, none⟩, ⟨40, 10, .ro, 0, none⟩, ⟨30, 10, .ro, 0, none⟩, ⟨20, 10, .ro, 0, none⟩, ⟨8, 8, .ro, 0, none⟩, ⟨0, 8, .ro, 0, none⟩]⟩,
  ⟨0x900, [], [⟨8, 8, .ro, 0, none⟩, ⟨2, 1, .ro, 0, none⟩, ⟨1, 1, .ro, 0, none⟩, ⟨0, 1, .wo, 0, none⟩]⟩]

/-- Every register of space 0x2. -/
def regsPhys : List RegSpec := regsPhys0

/-- Registers of space 0x1, part 0. -/
def regsTile0 : List RegSpec := [
  ⟨0x400, [], [⟨32, 32, .ro, 0, none⟩, ⟨8, 1, .wo, 0, none⟩, ⟨7, 1, .w1c, 0, none⟩, ⟨6, 1, .w1c, 0, none⟩, ⟨5, 1, .w1c, 0, none⟩, ⟨4, 1, .w1c, 0, none⟩, ⟨3, 1, .w1c, 0, none⟩, ⟨2, 1, .w1c, 0, none⟩, ⟨1, 1, .w1c, 0, none⟩, ⟨0, 1, .w1c, 0, none⟩]⟩,
  ⟨0x0, [], [⟨33, 13, .ro, 0, none⟩, ⟨32, 1, .ro, 0, none⟩, ⟨12, 6, .ro, 0, none⟩, ⟨0, 12, .ro, 0, none⟩]⟩,
  ⟨0x8, [], [⟨17, 7, .ro, 0, none⟩, ⟨12, 5, .ro, 0, none⟩, ⟨5, 1, .ro, 0, none⟩, ⟨4, 1, .ro, 0, none⟩, ⟨0, 4, .ro, 0, none⟩]⟩,
  ⟨0x10, [], [⟨48, 16, .ro, 0, none⟩, ⟨32, 1, .wo, 0, none⟩, ⟨16, 11, .ro, 0, none⟩, ⟨8, 6, .ro, 0, none⟩, ⟨1, 1, .w1c, 0, none⟩, ⟨0, 1, .w1c, 0, none⟩]⟩,
  ⟨0x18, [], [⟨0, 7, .rw, 16, some (4, 64)⟩]⟩,
  ⟨0x20, [], [⟨1, 1, .rw, 0, none⟩, ⟨0, 1, .wo, 0, none⟩]⟩,
  ⟨0x40, [(8, 9)], [⟨0, 64, .ro, 0, none⟩]⟩,
  ⟨0xc08, [], [⟨0, 64, .ro, 0, none⟩]⟩,
  ⟨0xc10, [], [⟨0, 64, .ro, 0, none⟩]⟩,
  ⟨0xc18, [], [⟨0, 64, .ro, 0, none⟩]⟩,
  ⟨0xc20, [], [⟨0, 64, .ro, 0, none⟩]⟩,
  ⟨0xc28, [], [⟨0, 64, .ro, 0, none⟩]⟩,
  ⟨0xc30, [], [⟨0, 64, .ro, 0, none⟩]⟩,
  ⟨0xc00, [], [⟨32, 32, .ro, 0, none⟩, ⟨24, 3, .ro, 0, none⟩, ⟨20, 1, .ro, 0, none⟩, ⟨19, 1, .ro, 0, none⟩, ⟨18, 1, .ro, 0, none⟩, ⟨16, 2, .ro, 0, none⟩, ⟨8, 8, .ro, 0, none⟩, ⟨0, 2, .ro, 0, none⟩]⟩,
  ⟨0xc40, [], [⟨10, 1, .rw, 0, none⟩, ⟨0, 10, .rw, 0, none⟩]⟩,
  ⟨0xc48, [], [⟨32, 32, .ro, 0, none⟩, ⟨16, 6, .ro, 0, none⟩, ⟨8, 6, .ro, 0, none⟩, ⟨3, 1, .ro, 0, none⟩, ⟨0, 3, .ro, 0, none⟩]⟩]

/-- Registers of space 0x1, part 1. -/
def regsTile1 : List RegSpec := [
  ⟨0xe00, [], [⟨32, 16, .ro, 0, none⟩, ⟨24, 7, .ro, 0, none⟩, ⟨16, 4, .ro, 0, none⟩, ⟨10, 2, .ro, 0, none⟩, ⟨8, 2, .ro, 0, none⟩, ⟨7, 1, .w1c, 0, none⟩, ⟨4, 3, .ro, 0, none⟩, ⟨3, 1, .ro, 0, none⟩, ⟨2, 1, .ro, 0, none⟩, ⟨0, 1, .ro, 0, none⟩]⟩,
  ⟨0xe10, [], [⟨0, 64, .ro, 0, none⟩]⟩,
  ⟨0xe18, [], [⟨0, 64, .ro, 0, none⟩]⟩,
  ⟨0xe20, [], [⟨0, 64, .ro, 0, none⟩]⟩,
  ⟨0xe28, [], [⟨0, 64, .ro, 0, none⟩]⟩,
  ⟨0xe30, [], [⟨0, 64, .ro, 0, none⟩]⟩,
  ⟨0xe38, [], [⟨0, 64, .ro, 0, none⟩]⟩,
  ⟨0x1000, [], [⟨0, 1, .rw, 0, none⟩]⟩,
  ⟨0x1008, [], [⟨32, 16, .ro, 0, none⟩, ⟨8, 2, .ro, 0, none⟩, ⟨4, 1, .ro, 0, none⟩, ⟨3, 1, .w1c, 0, none⟩, ⟨2, 1, .w1c, 0, none⟩, ⟨1, 1, .w1c, 0, none⟩, ⟨0, 1, .w1c, 0, none⟩]⟩,
  ⟨0x1010, [], [⟨0, 64, .ro, 0, none⟩]⟩,
  ⟨0x1018, [], [⟨0, 64, .ro, 0, none⟩]⟩,
  ⟨0x1020, [], [⟨0, 64, .ro, 0, none⟩]⟩,
  ⟨0x1028, [], [⟨0, 64, .ro, 0, none⟩]⟩,
  ⟨0x1030, [], [⟨0, 64, .ro, 0, none⟩]⟩,
  ⟨0x1038, [], [⟨0, 64, .ro, 0, none⟩]⟩,
  ⟨0x1040, [], [⟨0, 64, .ro, 0, none⟩]⟩]

/-- Registers of space 0x1, part 2. -/
def regsTile2 : List RegSpec := [
  ⟨0x1048, [], [⟨0, 64, .ro, 0, none⟩]⟩,
  ⟨0x1400, [], [⟨32, 16, .ro, 32768, none⟩, ⟨16, 16, .ro, 0, none⟩, ⟨0, 1, .wo, 0, none⟩]⟩,
  ⟨0x1408, [], [⟨32, 16, .ro, 0, none⟩, ⟨8, 2, .ro, 0, none⟩, ⟨4, 1, .ro, 0, none⟩, ⟨3, 1, .ro, 0, none⟩, ⟨2, 1, .w1c, 0, none⟩, ⟨1, 1, .w1c, 0, none⟩, ⟨0, 1, .w1c, 0, none⟩]⟩,
  ⟨0x1410, [], [⟨0, 64, .ro, 0, none⟩]⟩,
  ⟨0x1418, [], [⟨0, 64, .ro, 0, none⟩]⟩,
  ⟨0x1420, [], [⟨0, 64, .ro, 0, none⟩]⟩,
  ⟨0x1428, [], [⟨0, 64, .ro, 0, none⟩]⟩,
  ⟨0x1430, [], [⟨0, 64, .ro, 0, none⟩]⟩,
  ⟨0x1438, [], [⟨0, 64, .ro, 0, none⟩]⟩,
  ⟨0x1800, [], [⟨40, 8, .ro, 0, none⟩, ⟨36, 4, .ro, 0, none⟩, ⟨20, 13, .ro, 0, none⟩, ⟨7, 13, .ro, 0, none⟩, ⟨3, 1, .ro, 0, none⟩, ⟨2, 1, .w1c, 0, none⟩, ⟨1, 1, .w1c, 0, none⟩, ⟨0, 1, .w1c, 0, none⟩]⟩,
  ⟨0x1808, [], [⟨32, 32, .ro, 0, none⟩, ⟨0, 32, .ro, 0, none⟩]⟩,
  ⟨0x1810, [], [⟨32, 32, .ro, 0, none⟩, ⟨0, 32, .ro, 0, none⟩]⟩,
  ⟨0x1818, [], [⟨48, 16, .ro, 0, none⟩, ⟨32, 16, .ro, 0, none⟩, ⟨16, 16, .ro, 0, none⟩, ⟨0, 16, .ro, 0, none⟩]⟩,
  ⟨0x1820, [], [⟨47, 17, .ro, 65536, none⟩, ⟨24, 16, .ro, 0, none⟩, ⟨0, 17, .ro, 0, none⟩]⟩,
  ⟨0x1840, [(8, 4)], [⟨0, 8, .ro, 0, none⟩, ⟨8, 8, .ro, 0, none⟩, ⟨16, 8, .ro, 0, none⟩, ⟨24, 8, .ro, 0, none⟩, ⟨32, 8, .ro, 0, none⟩, ⟨40, 8, .ro, 0, none⟩, ⟨48, 8, .ro, 0, none⟩, ⟨56, 8, .ro, 0, none⟩]⟩,
  ⟨0x1880, [], [⟨0, 64, .ro, 0, none⟩]⟩]

/-- Registers of space 0x1, part 3. -/
def regsTile3 : List RegSpec := [
  ⟨0x1888, [], [⟨0, 64, .ro, 0, none⟩]⟩,
  ⟨0x1890, [], [⟨0, 64, .ro, 0, none⟩]⟩,
  ⟨0x1898, [], [⟨0, 64, .ro, 0, none⟩]⟩,
  ⟨0x18a0, [], [⟨0, 64, .ro, 0, none⟩]⟩,
  ⟨0x2000, [], [⟨41, 1, .w1c, 0, none⟩, ⟨40, 1, .w1c, 0, none⟩, ⟨39, 1, .w1c, 0, none⟩, ⟨38, 1, .w1c, 0, none⟩, ⟨35, 3, .ro, 0, none⟩, ⟨29, 3, .ro, 0, none⟩, ⟨26, 3, .ro, 0, none⟩, ⟨23, 3, .ro, 0, none⟩, ⟨20, 3, .ro, 0, none⟩, ⟨17, 3, .ro, 0, none⟩, ⟨15, 2, .ro, 0, none⟩, ⟨12, 3, .ro, 0, none⟩, ⟨9, 3, .ro, 0, none⟩, ⟨7, 2, .ro, 0, none⟩, ⟨5, 2, .ro, 0, none⟩]⟩,
  ⟨0x2010, [(8, 4)], [⟨0, 64, .ro, 0, none⟩]⟩,
  ⟨0x2030, [], [⟨0, 64, .ro, 0, none⟩]⟩,
  ⟨0x2038, [], [⟨0, 64, .ro, 0, none⟩]⟩,
  ⟨0x2040, [], [⟨0, 64, .ro, 0, none⟩]⟩,
  ⟨0x2048, [], [⟨0, 64, .ro, 0, none⟩]⟩,
  ⟨0x2050, [], [⟨0, 64, .ro, 0, none⟩]⟩,
  ⟨0x2058, [], [⟨0, 64, .ro, 0, none⟩]⟩,
  ⟨0x1c00, [], [⟨32, 16, .ro, 0, none⟩, ⟨21, 5, .ro, 0, none⟩, ⟨16, 5, .ro, 0, none⟩, ⟨5, 1, .w1c, 0, none⟩, ⟨4, 1, .w1c, 0, none⟩, ⟨3, 1, .w1c, 0, none⟩, ⟨2, 1, .w1c, 0, none⟩, ⟨1, 1, .w1c, 0, none⟩, ⟨0, 1, .w1c, 0, none⟩]⟩,
  ⟨0x1c08, [], [⟨0, 64, .ro, 0, none⟩]⟩,
  ⟨0x2400, [], [⟨0, 64, .ro, 0, none⟩]⟩,
  ⟨0x2408, [], [⟨0, 64, .ro, 0, none⟩]⟩]

/-- Every register of space 0x1. -/
def regsTile : List RegSpec := regsTile0 ++ regsTile1 ++ regsTile2 ++ regsTile3

/-- Registers of space 0x4, part 0. -/
def regsStack0 : List RegSpec := [
  ⟨0x0, [], [⟨40, 8, .ro, 0, none⟩, ⟨32, 2, .ro, 0, none⟩, ⟨3, 1, .ro, 0, none⟩, ⟨2, 1, .w1c, 0, none⟩, ⟨1, 1, .w1c, 0, none⟩, ⟨0, 1, .w1c, 0, none⟩]⟩,
  ⟨0x8, [], [⟨48, 16, .ro, 0, none⟩, ⟨40, 8, .ro, 0, none⟩, ⟨32, 1, .wo, 0, none⟩, ⟨0, 25, .ro, 0, none⟩]⟩,
  ⟨0x10, [], [⟨32, 25, .ro, 0, none⟩, ⟨8, 1, .rw, 1, none⟩, ⟨0, 8, .rw, 24, some (1, 168)⟩]⟩,
  ⟨0x20, [], [⟨0, 64, .ro, 0, none⟩]⟩,
  ⟨0x28, [], [⟨0, 64, .ro, 0, none⟩]⟩,
  ⟨0x30, [], [⟨0, 64, .ro, 0, none⟩]⟩,
  ⟨0x38, [], [⟨0, 64, .ro, 0, none⟩]⟩]

/-- Every register of space 0x4. -/
def regsStack : List RegSpec := regsStack0

/-- Registers of space 0x5, part 0. -/
def regsPort0 : List RegSpec := [
  ⟨0x0, [], [⟨32, 8, .rw, 64, some (1, 128)⟩, ⟨18, 14, .rw, 9000, some (1500, 9000)⟩, ⟨6, 12, .rw, 30, some (1, 3600)⟩, ⟨1, 1, .rw, 1, none⟩, ⟨0, 1, .rw, 0, none⟩]⟩,
  ⟨0x8, [], [⟨16, 8, .ro, 0, none⟩, ⟨10, 1, .ro, 0, none⟩, ⟨9, 1, .ro, 0, none⟩, ⟨8, 1, .ro, 0, none⟩, ⟨7, 1, .w1c, 0, none⟩, ⟨6, 1, .w1c, 0, none⟩, ⟨5, 1, .w1c, 0, none⟩, ⟨3, 2, .ro, 0, none⟩, ⟨0, 3, .ro, 0, none⟩]⟩,
  ⟨0x10, [], [⟨16, 1, .ro, 0, none⟩, ⟨0, 16, .ro, 0, none⟩]⟩,
  ⟨0x18, [], [⟨0, 48, .ro, 0, none⟩]⟩,
  ⟨0x20, [], [⟨0, 64, .rw, 0, none⟩]⟩,
  ⟨0x28, [], [⟨0, 64, .rw, 0, none⟩]⟩,
  ⟨0x30, [], [⟨48, 16, .ro, 0, none⟩, ⟨0, 48, .ro, 0, none⟩]⟩,
  ⟨0x100, [], [⟨32, 32, .ro, 0, none⟩, ⟨0, 32, .ro, 0, none⟩]⟩,
  ⟨0x108, [], [⟨32, 32, .ro, 0, none⟩, ⟨0, 32, .ro, 0, none⟩]⟩,
  ⟨0x110, [], [⟨48, 16, .ro, 0, none⟩, ⟨32, 16, .ro, 0, none⟩, ⟨16, 16, .ro, 0, none⟩, ⟨0, 16, .ro, 0, none⟩]⟩,
  ⟨0x118, [], [⟨48, 16, .ro, 0, none⟩, ⟨32, 16, .ro, 0, none⟩, ⟨16, 16, .ro, 0, none⟩, ⟨0, 16, .ro, 0, none⟩]⟩,
  ⟨0x120, [], [⟨0, 64, .ro, 0, none⟩]⟩]

/-- Every register of space 0x5. -/
def regsPort : List RegSpec := regsPort0

/-- Registers of space 0xf, part 0. -/
def regsRot0 : List RegSpec := [
  ⟨0x0, [], [⟨16, 8, .ro, 0, none⟩, ⟨9, 7, .ro, 0, none⟩, ⟨8, 1, .ro, 0, none⟩, ⟨7, 1, .ro, 0, none⟩, ⟨6, 1, .ro, 0, none⟩, ⟨5, 1, .ro, 0, none⟩, ⟨3, 2, .ro, 0, none⟩, ⟨0, 3, .ro, 0, none⟩]⟩,
  ⟨0x8, [], [⟨48, 16, .ro, 0, none⟩, ⟨32, 16, .ro, 0, none⟩, ⟨16, 16, .ro, 0, none⟩, ⟨0, 16, .ro, 0, none⟩]⟩,
  ⟨0x10, [(8, 8)], [⟨0, 64, .ro, 0, none⟩]⟩,
  ⟨0x100, [(32, 16), (8, 4)], [⟨0, 64, .ro, 0, none⟩]⟩,
  ⟨0x300, [], [⟨32, 32, .ro, 0, none⟩, ⟨0, 32, .ro, 0, none⟩]⟩,
  ⟨0x308, [], [⟨48, 16, .ro, 0, none⟩, ⟨32, 16, .ro, 0, none⟩, ⟨16, 16, .ro, 0, none⟩, ⟨0, 16, .ro, 0, none⟩]⟩,
  ⟨0x1000, [(8, 128)], [⟨7, 1, .ro, 0, none⟩, ⟨6, 1, .ro, 0, none⟩, ⟨0, 6, .ro, 0, none⟩]⟩]

/-- Every register of space 0xf. -/
def regsRot : List RegSpec := regsRot0

end Sys2Proof.Machine
end

