-- ==== Sys2Proof/Machine/State.lean ====
section
/-! DEFINITION. The state of the module: the register file, the memories, the command channels, the partitions and contexts,
and the units, as plain data; the reasons a step stops; and the state after reset.

Sparse tables are lists of (key, value) pairs in one canonical form: keys strictly rising, no entry equal to what an unlisted
key holds. `Sparse.get` and `Sparse.put` read and write them. -/

namespace Sys2Proof.Machine

/-- The entry of key `k`, `d` where the table lists none. -/
def Sparse.get {α : Type} (d : α) : List (Nat × α) → Nat → α
  | [], _ => d
  | (j, v) :: t, k => if j = k then v else Sparse.get d t k

/-- The table with the entry of key `k` set to `v`; an entry equal to `d`, what an unlisted key holds, is not listed. -/
def Sparse.put {α : Type} [DecidableEq α] (d : α) : List (Nat × α) → Nat → α → List (Nat × α)
  | [], k, v => if v = d then [] else [(k, v)]
  | (j, w) :: t, k, v =>
    if k < j then (if v = d then (j, w) :: t else (k, v) :: (j, w) :: t)
    else if k = j then (if v = d then t else (k, v) :: t)
    else (j, w) :: Sparse.put d t k v

/-- The table without the keys that `p` picks. -/
def Sparse.drop {α : Type} (p : Nat → Bool) (l : List (Nat × α)) : List (Nat × α) := l.filter fun e => !p e.1

/-- The canonical form of a table whose unlisted key `k` holds `d k`. -/
def Sparse.wf {α : Type} [DecidableEq α] (d : Nat → α) : List (Nat × α) → Bool
  | [] => true
  | [(j, v)] => decide (v ≠ d j)
  | (j, v) :: (k, w) :: t => decide (v ≠ d j) && decide (j < k) && Sparse.wf d ((k, w) :: t)

/-- A packet waiting for the link: a reply or an event (Table 16-1). `cls` is the class of a fault event or of a time event (R37), 0
otherwise. -/
structure Packet where
  event : Bool
  opcode : Nat
  tag : Nat
  partition : Nat
  context : Nat
  status : Nat
  credits : Nat
  pending : Bool
  duplicate : Bool
  timeUnlocked : Bool
  hall : Nat
  cls : Nat
  payload : Bytes
deriving DecidableEq, Repr

/-- A command that has had no final reply (R346); `credited`: its credit has been returned. -/
structure Outst where
  op : Nat
  tag : Nat
  partition : Nat
  context : Nat
  credited : Bool
  deadline : Option Nat
deriving DecidableEq, Repr

/-- A command channel (R341, R346, R362, R363): packets awaiting the link, the next event sequence number, credits owed for
discarded packets, events lost since the last event 0x0007, the commands outstanding, and the replies that found every ordinary place of
the queue taken and wait for one (log 64). -/
structure Chan where
  queue : List Packet := []
  eventSeq : Nat := 0
  owed : Nat := 0
  lost : Nat := 0
  outst : List Outst := []
  late : List Packet := []
deriving DecidableEq, Repr

/-- A command that waits for a boundary action: `wait` boundaries pass before the one it takes effect at (R43). -/
structure Staged where
  wait : Nat
  op : Nat
  hdr : Hdr
  cmd : Instr
deriving DecidableEq, Repr

/-- A command passed to the runtime firmware at hall time `since`, not yet answered (R348), with the tick of the boundary that its
acceptance gives it (R43). -/
structure RtCmd where
  since : Nat
  due : Nat
  op : Nat
  hdr : Hdr
  cmd : Instr
deriving DecidableEq, Repr

/-- The step a context is in (R184): its entry, the tick and hall time of the boundary it began at, for a training step the
attempt and step number, what the slowdown record tells of it (Table 15-5), the seed S (R90), and for a serving step the
weight set of the present run with those of the runs to come (R291) and which lanes are the present run's (`Lane.run`). -/
structure StepRun where
  entry : Nat
  tick : Nat
  start : Nat
  attempt : Nat
  training : Bool
  stepNo : Nat
  saved : Bool
  held : Bool
  switches : Nat
  seed : Nat
  set : Option Nat
  more : List Nat
  run : Nat := 1
deriving DecidableEq, Repr

/-- A program image that is open and not yet committed (R203): its length, its digest and its bytes by offset. -/
structure OpenImage where
  len : Nat
  digest : Bytes
  bytes : List Host.Cell
deriving DecidableEq, Repr

/-- One slice of a committed program: the directory entry of Table 9-11. -/
structure Slice where
  words : Nat
  descriptors : Nat
  accessWords : Nat
  staging : Nat
  entryPc : List Nat
  entryAc : List Nat
deriving DecidableEq, Repr

/-- A committed program: the image header's fields (Table 9-10), the slices by rectangle position, and its measurement. -/
structure Program where
  width : Nat
  height : Nat
  minClock : Nat
  window : Nat
  entries : Nat
  schedule : List Nat
  rendezvous : List Nat
  measurement : Bytes
  slices : List (Nat × Slice)
deriving DecidableEq, Repr

/-- A lane of a drove (R306, Table 14-5): sequence slot, run, prefill, last chunk, adapter rank, position at the start of the step,
positions added, and the base of its KV region. -/
structure Lane where
  slot : Nat
  run : Nat
  prefill : Bool
  last : Bool
  rank : Nat
  position : Nat
  count : Nat
  kvBase : Nat
deriving DecidableEq, Repr

/-- A mask set of the context (R146), double-buffered in the partition's stack space: the weight set it belongs to (none while no set is in
use), its address in 256-byte units as the program names it, the bytes of one
buffer, the buffer in force and whether it holds patterns, and whether the present attempt has scored into the other. -/
structure MaskSet where
  slot : Option Nat
  addr : Nat
  size : Nat
  cur : Nat
  held : Bool
  scored : Bool
deriving DecidableEq, Repr

/-- A verdict that the root has given and keeps (R259). -/
structure Verdict where
  step : Nat
  attempt : Nat
  verdict : Nat
  cause : Nat
  named : Nat
deriving DecidableEq, Repr

/-- A shard that has landed in a build (R272, R294): its place in the set, its digest field, its resident digest, its kind with the
descriptor's reduction and output lengths, and the memories its resident bytes stand in, as runs (memory: 0 SRAM, 1 scale store, 2 mask
store, 3 stack; rectangle position; first byte; bytes) in the order of R276, once for each destination. -/
structure Shard where
  tensor : Nat
  index : Nat
  digest : Bytes
  resident : Bytes
  runs : List (List (Nat × Nat × Nat × Nat))
  kind : Nat := 0
  kLen : Nat := 0
  nLen : Nat := 0
deriving DecidableEq, Repr

/-- The requests made for a shard again in one arrival of it (R271): its place in the set, where it comes from (a stream's handle, or the
storage read), and how many. -/
structure Retry where
  tensor : Nat
  index : Nat
  source : Nat
  n : Nat
deriving DecidableEq, Repr

/-- A training step from its start to its verdict (R258 to R264): the command, the attempt with the tick and hall time it began at, whether
its step has ended and whether it is voided, the children whose contribution is complete, when the root was asked for the verdict, the
weight-set slot of attempt 0 (R472), the shards streamed in the attempt with the repeat requests made, and the blocks with their records
that have passed the root check. -/
structure Train where
  hdr : Hdr
  req : TrainReq
  attempt : Nat
  tick : Nat
  start : Nat
  ended : Bool
  voided : Bool
  got : List Nat
  queried : Option Nat
  set : Option Nat
  landed : List Shard
  retries : List Retry
  reduced : List Bytes := []
deriving DecidableEq, Repr

/-- An input-log entry sent to the partner and not yet acknowledged (R385): its step and digest, whether it has been sent again,
and the reduction deadline of its step. -/
structure MirrorOut where
  step : Nat
  digest : Bytes
  again : Bool
  deadline : Nat
deriving DecidableEq, Repr

/-- A drove prepared for a boundary (R306, R307): its lanes in order, the counts of its four runs, the boundary's tick, and the slots that
stall. -/
structure Drove where
  tick : Nat
  lanes : List Lane
  counts : List Nat
  stalled : List Nat := []
deriving DecidableEq, Repr

/-- What a context holds beside its registers: the step it is in, its committed program and open image, the state it held before
THERMAL_HOLD (R330), its last slowdown records, newest first (R332), the roster digest of its committed delivery (R384), its mirror stream,
the stream it accepted a mirror on and the mirror ring it accepted (base, depth, entry units; R385), and the consecutive ticks its step has
slipped with whether that has been reported as a breach (R333), the rendezvous arrivals not yet released (id, tile, slip, cycle; R192), and
the mask sets of its pruned tensors (R146), its roster node descriptor (Table 12-2), the lanes of its current drove and the drove prepared
for the next boundary, the admissions to come whose prompts could not be read (channel and tag; R312), the adapter cache (adapter by entry, R308), the generator states of the ingest lanes of its streamed shards (R91),
the training step, the verdicts the root keeps, the steps whose input copy is in progress and those reported late (R458), the input
region and the ring slots that hold an entry, with whether a step may start from it (R455, R463), the mirrored entry awaiting its
acknowledgement, whether it has run for a tick (R394), and the mesh and express lines that a switch could not deliver (R324). -/
structure CtxS where
  step : Option StepRun := none
  program : Option Program := none
  image : Option OpenImage := none
  heldFrom : Nat := 0
  slowdown : List Bytes := []
  rosterDigest : Option Bytes := none
  mirror : Option Nat := none
  mirrorFrom : Option Nat := none
  mirrorRing : Option (Nat × Nat × Nat) := none
  slip : Nat := 0
  breached : Bool := false
  arrivals : List (Nat × Nat × Nat × Nat) := []
  masks : List MaskSet := []
  node : Option Bytes := none
  lanes : List Lane := []
  drove : Option Drove := none
  promptFails : List (Nat × Nat) := []
  cache : List (Nat × Nat) := []
  train : Option Train := none
  verdicts : List Verdict := []
  rng : List (Nat × W64) := []
  copies : List Nat := []
  lateSteps : List Nat := []
  ilogInput : Nat := 0
  ilogHeld : List (Nat × Bool) := []
  mirrorOut : Option MirrorOut := none
  ran : Bool := false
  meshHeld : List (Nat × List Bytes) := []
  laneHeld : List (Nat × List (Nat × Bytes)) := []
deriving DecidableEq, Repr

/-- What a partition holds beside its registers: a pre-emption in force (context, ticks left) and the slice entry it interrupted with the
ticks that entry had left, and the context it interrupted (R323), the context an eviction brings in (R326), the rectangle a relocation
copies to (R331) with whether the copy has ended, the next context the governor last saw (R396), and the consecutive ticks it has slipped
(R47). -/
structure PartS where
  preempt : Option (Nat × Nat) := none
  interrupted : Option (Nat × Nat) := none
  before : Option Nat := none
  incoming : Option Nat := none
  target : Option (Nat × Nat) := none
  copied : Bool := false
  nextCtx : Option Nat := none
  slips : Nat := 0
deriving DecidableEq, Repr

/-- An access word in flight on a tile (R196 to R200): its 128 bits, whether it is to complete without data, and whether its data
have moved, or will not, and its credits returned before it completes in its order (R200, R260, R328, R378); `of_`: the training step and the
attempt that issued it. -/
structure AccessFlight where
  word : Nat
  dead : Bool
  done : Bool
  of_ : Option (Nat × Nat) := none
deriving DecidableEq, Repr

/-- An operation that a compute word started and its unit has not completed: the word, the operation's own descriptor with its
advancing fields resolved (Table 9-3), the drain descriptor, whether the unit has begun it, and how far it has come: beats, groups or
windows of a product, rows of an element-wise operation or of the row engine, blocks of the pruning unit (R113, R147, R175); the step's cycle
at which its word issued, and the cycles by which a product began late (R185). -/
structure TileOp where
  word : Nat
  desc : Nat
  drain : Nat
  started : Bool
  pos : Nat := 0
  at_ : Nat := 0
  slip : Nat := 0
deriving DecidableEq, Repr

/-- A product whose last beat has issued and whose last result has not been drained: whether its feeders transpose, and the cycles by which
it began late, while it is the latest product (R110, R160). -/
structure Tail where
  trA : Bool
  trB : Bool
  slip : Option Nat
deriving DecidableEq, Repr

/-- A value of a number format: a NaN, an infinity, or a finite value with the sign it carries (for zero). -/
inductive Num where
  | nan
  | inf (neg : Bool)
  | fin (neg : Bool) (mag : Rat)
deriving DecidableEq, Repr

/-- A widening accumulator set (R239 to R245): its class (1 W, 2 N), the inputs added, the sectors of its first input, its
elements with their exact residuals, the grid of each group, and the sums for its record. -/
structure AccSet where
  cls : Nat := 0
  inputs : Nat := 0
  sectors : Nat := 0
  elems : List Num := []
  resid : List Rat := []
  emax : List (Option Int) := []
  origin : Nat := 0
  ledger : Nat := 0
  ledgerMag : Rat := 0
  nonfinite : Bool := false
  saturated : Bool := false
deriving DecidableEq, Repr

/-- A mule pass active or queued: descriptor entry, activation set, the next panel, whether it has begun, and its number in the order
of the starts. -/
structure MulePass where
  entry : Nat
  set : Nat
  panel : Nat
  begun : Bool
  id : Nat
deriving DecidableEq, Repr

/-- The mule of an F-tile for one context (R121 to R132): the 16 descriptors and extension entries, the elements of the eight
vectors (key 8,192 (4 set + vector) + element), the adapter descriptors, the loads outstanding (the words that named them, each with the
starts issued before it), the starts issued, the active pass, the queued start, the escape-run beats the active pass has met, h_v of its
vectors in G16 once its down phase has run (R131), and the results in the vector engine's input queue. -/
structure Mule where
  desc : List (Nat × Nat) := []
  ext : List (Nat × Nat) := []
  vecs : List (Nat × Nat) := []
  adapters : List (Nat × Nat) := []
  loads : List (Nat × Nat) := []
  starts : Nat := 0
  active : Option MulePass := none
  queued : Option MulePass := none
  escapes : Nat := 0
  hv : Option (List (List Nat)) := none
  vecIn : Bytes := []
deriving DecidableEq, Repr

/-- The engine state of a context in one tile, beside the tile's registers. `saved`: the register values kept while another context runs
(offset and value). The compute stream: the word whose settings are in force with its transfer descriptors resolved, each open loop's
counter, start and count, innermost first, and lines received on the tile and express outputs under the settings. Waits: the tick since
which the compute and the access stream have waited on a semaphore, the tick at which the tile arrived at its rendezvous, and whether that
has been released while its word is held for a busy unit (R182, R192). Operations started and not completed; the products whose last beat
has issued and whose results are still draining (R182); the two A40 accumulators of each cell (bits of the value, cell (i, j) at 512 i + j;
an empty list holds zeros); the freeze descriptor of the running product and the bitmap bits of its current output tile (R171); the mule,
the lines in the feeders' queues, read from SRAM or brought by the network, which stand there until their operation ends, the lines that
have reached the mule from the network, the lines waiting to leave from SRAM, the drain, the mule (each with the output it goes to: 0 to 3
mesh, 4 to 7 express) and the express port, the accumulator set of the block whose results went last to the network with whether in row
order (R113), the widening accumulators, and the stochastic rounding lanes (key 1,024 unit + lane). The access stream: words in flight, words to issue again, landing
words that signal a semaphore and are not yet released (semaphore, bytes, signalled), and the `at` of the word issued last. What the
slowdown record tells: the cycles in which the compute stream was held while a line waited for the express lanes, a request for the stacks,
a fabric word for its port (R332). -/
structure Eng where
  saved : List (Nat × W64) := []
  word : Nat := 0
  mdesc : Nat := 0
  xdesc : Nat := 0
  loops : List (Nat × Nat × Nat) := []
  ended : Bool := false
  recvN : Nat := 0
  xrecvN : Nat := 0
  semWait : Option Nat := none
  accWait : Option Nat := none
  rdvWait : Option Nat := none
  released : Bool := false
  fa : Option TileOp := none
  fb : Option TileOp := none
  ary : Option TileOp := none
  vec0 : Option TileOp := none
  vec1 : Option TileOp := none
  row : Option TileOp := none
  tails : List Tail := []
  cells0 : List Nat := []
  cells1 : List Nat := []
  freeze : Nat × Nat := (0, 0)
  mule : Mule := {}
  netA : List Bytes := []
  netB : List Bytes := []
  netM : List Bytes := []
  outSram : List Bytes := []
  outDrain : List Bytes := []
  block : Option (Nat × Bool) := none
  outMule : List (Nat × Bytes) := []
  outX : List Bytes := []
  acc0 : AccSet := {}
  acc1 : AccSet := {}
  rng : List (Nat × W64) := []
  flight : List AccessFlight := []
  reissue : List Nat := []
  staged : List (Nat × Nat × Bool) := []
  lastAt : Nat := 0
  holdX : Nat := 0
  holdS : Nat := 0
  holdP : Nat := 0
deriving DecidableEq, Repr

/-- The on-wafer networks beside their registers: lines in the input buffer of each mesh link (key 4 tile + direction), and lines that an
express lane holds between a tile and the next (key 4 tile + direction of travel) with the tile that injected each; down-link lines resent in
a row, by tile; arrivals for gated tiles that wait in their field nodes, with their checks (R218); and whether the networks of a partition are
being emptied for a switch (R324; the model's own field); bytes on their way to gated tiles (logical tile, offset, bytes; R218); and the
counters of waits at which something has waited since they were last read (by address; the model's own field, log 44). -/
structure NetS where
  mesh : List (Nat × List Bytes) := []
  express : List (Nat × List (Nat × Bytes)) := []
  resends : List (Nat × Nat) := []
  waiting : List (Nat × Bool) := []
  emptying : Bool := false
  parked : List (Nat × Nat × Bytes) := []
  stirred : List Nat := []
deriving DecidableEq, Repr

/-- A result ring (R311, R358, R359): log2 of its records, base in 256-byte units, record bytes, write and release index, read
mark by record, records reserved, the hall time at which each record held was written (by index), whether trace is enabled, and the
write index of the last event about it. -/
structure Ring where
  ctx : Nat
  source : Nat
  ring : Nat
  k : Nat
  base : Nat
  size : Nat
  write : Nat := 0
  release : Nat := 0
  reads : List Nat := []
  reserved : Nat := 0
  times : List (Nat × Nat) := []
  enabled : Bool := true
  told : Nat := 0
deriving DecidableEq, Repr

/-- A source of hall time as the time unit follows it (R32, R34): its last 16 offsets, newest first, the valid syncs in a row,
the offsets in a row within its lock accuracy, the rank of its master (lower is better), and the hall time of its last sync with its
sync interval in ns. -/
structure TimeSource where
  src : PtpSrc
  offsets : List Int
  syncs : Nat
  good : Nat
  rank : Nat
  lastAt : Nat
  interval : Nat
deriving DecidableEq, Repr

/-- What a time port has to send (R33): a Delay_Req, to an address from an address (MAC addresses under IEEE 802.3), the answer to
a neighbour solicitation, or a solicitation of its own (source 0: the unspecified address, of a probe for a duplicate). -/
inductive TimeMsg where
  | delayReq (dest source : Nat)
  | advertisement (target : Nat)
  | solicitation (target source : Nat)
deriving DecidableEq, Repr

/-- The time unit beside its registers: the messages the time ports have to send, the sources heard, whether each time port's link is up,
the offset still to be slewed out (R35), when LOCKED was last left, whether ACQUIRE was entered from FREE_RUN (R38), the next tick that
has a boundary (R36, R39, R41), the fabric port taken as the fabric source with whether it has been lock-ready since, and the fabric ports
that were left because they stopped being lock-ready and are not again (R32). -/
structure TimeS where
  tx : List (Nat × TimeMsg) := []
  sources : List TimeSource := []
  linkA : Bool := false
  linkB : Bool := false
  slew : Int := 0
  lockedLeft : Option Nat := none
  fromFree : Bool := true
  nextTick : Nat := 1
  fabric : Option (Nat × Bool) := none
  left : List Nat := []
deriving DecidableEq, Repr

/-- The command engine beside its registers: the channels, the commands waiting for a boundary in order of acceptance, the
commands the runtime firmware holds, and the packets that went out over the link last, as bytes (R342). -/
structure CmdS where
  chans : List (Nat × Chan) := []
  staged : List Staged := []
  runtime : List RtCmd := []
  sent : List Bytes := []
deriving DecidableEq, Repr

/-- A DATA packet sent and not acknowledged (R378); `kept`: its port has been down since it was to be sent; `unpaid`: the context had no
credit for it, and it waits for one (R327); `of_`: the step and attempt of the contribution it belongs to (R261). -/
structure TxPkt where
  psn : Nat
  message : Nat
  offset : Nat
  payload : Bytes
  eom : Bool
  sentAt : Nat
  resends : Nat
  fast : Bool
  kept : Bool := false
  unpaid : Bool := false
  of_ : Option (Nat × Nat) := none
deriving DecidableEq, Repr

/-- A packet held beyond a gap (R377): its payload, whether it ends a message, and the contribution it belongs to (R261). -/
structure HeldPkt where
  psn : Nat
  payload : Bytes
  eom : Bool
  of_ : Option (Nat × Nat)
deriving DecidableEq, Repr

/-- A Mladub stream entry (R375 to R380). For sending: the next psn and message, unacknowledged packets, the measured round trip, the rate
in 0.1 GB/s with its congestion state, and the send counter. For receiving: the next psn in order, packets held beyond it, of a weight stream the messages complete and the bytes of the one that arrives (R269), the hall time of the
last packet's arrival (R377), bytes not yet consumed (with the scale and mask bytes of streamed shards: the bytes ahead of each, its memory,
its address; R281), packets and the time since the last ACK, CE marks, and the counters accepted. -/
structure Stream where
  handle : Nat
  ctx : Nat
  port : Nat
  direction : Nat
  kind : Nat
  prot : Bool
  keySlot : Nat
  peerUdp : Nat
  peerHandle : Nat
  peerAddr : Nat
  nextPsn : Nat := 0
  nextMsg : Nat := 0
  unacked : List TxPkt := []
  srtt : Nat := 0
  rttvar : Nat := 0
  rate : Rat := 2000
  alpha : Rat := 1
  preCut : Rat := 2000
  periods : Nat := 5
  lastCut : Option Nat := none
  ece : Bool := false
  counter : Nat := 0
  expected : Nat := 0
  held : List HeldPkt := []
  msgs : List Bytes := []
  part : Bytes := []
  arrived : Nat := 0
  ready : Bytes := []
  sides : List (Nat × Nat × Nat × Bytes) := []
  sinceAck : Nat := 0
  oldest : Nat := 0
  ceCount : Nat := 0
  highest : Nat := 0
  accepted : List Nat := []
  rejects : Nat := 0
  progress : Nat := 0
deriving DecidableEq, Repr

/-- A message a port has to send: Mladub packets, requests to send a shard again (by stream, tensor and index; R271), control messages,
job-start deliveries, LLDP, neighbour discovery, and Delay_Req messages (R32). -/
inductive FabMsg where
  | deliver (peer psn : Nat) (part : DeliverPart)
  | data (stream psn message offset : Nat) (payload : Bytes) (eom retrans : Bool) (counter : Nat) (of_ : Option (Nat × Nat))
  | shardAgain (stream tensor index : Nat)
  | ack (stream ackPsn ceCount : Nat) (ranges : List (Nat × Nat))
  | ctrlAck (peer id : Nat)
  | ctrl (peer id ctype : Nat) (body : Bytes)
  | lldp (chassis : Nat) (portId : Bytes) (ttl : Nat) (name : Nat) (address : Nat) (tlv : CapTlv)
  | advertisement (target : Nat)
  | solicitation (target source : Nat)
  | deliverAck (peer psn : Nat) (ranges : List (Nat × Nat))
  | echoReply (id : Nat) (data : Bytes)
  | delayReq
deriving DecidableEq, Repr

/-- What the IPv6 and UDP headers of a Mladub packet sent carry (R371, R372): the addresses and UDP ports it goes from and to, its DSCP and
ECN fields, and its hop limit. -/
structure UdpHdr where
  sender : Nat
  receiver : Nat
  source : Nat
  dest : Nat
  dscp : Nat
  ecn : Nat
  hopLimit : Nat
deriving DecidableEq, Repr

/-- A control message sent and not yet answered (R374); `acked`: a JOB_COMMIT that CTRL_ACK has answered, which is repeated no more while its
JOB_COMMIT_ACK is awaited (R384). -/
structure CtrlOut where
  id : Nat
  peer : Nat
  ctype : Nat
  body : Bytes
  sentAt : Nat
  repeats : Nat
  acked : Bool := false
deriving DecidableEq, Repr

/-- A part of a job-start delivery sent and not acknowledged: when it was sent last, how often again, and whether that was because later
parts overtook it. -/
structure HopPkt where
  psn : Nat
  part : DeliverPart
  sentAt : Nat
  resends : Nat := 0
  fast : Bool := false
deriving DecidableEq, Repr

/-- The job-start hop to and from a peer, sequenced and retransmitted as a stream is (R382, R378): the next psn to send, the parts not
acknowledged, the measured round trip, the next psn to receive, and the parts received beyond it. -/
structure Hop where
  peer : Nat
  next : Nat := 0
  unacked : List HopPkt := []
  srtt : Nat := 0
  rttvar : Nat := 0
  expected : Nat := 0
  held : List (Nat × DeliverPart) := []
deriving DecidableEq, Repr

/-- An address of a port that is probed for a duplicate (R371): the port, the address, when the probe went out, and whether another
node holds it. -/
structure Probe where
  port : Nat
  addr : Nat
  since : Nat
  taken : Bool
deriving DecidableEq, Repr

/-- A member's side of a job-start broadcast (R381, R382, R384): the arm, and the delivery held. -/
structure JobMember where
  ctx : Nat
  bellwether : Nat
  areaBase : Nat
  areaUnits : Nat
  timeoutS : Nat
  broadcast : Option Nat := none
  generation : Nat := 0
  order : List Nat := []
  rosterLen : Nat := 0
  data : Bytes := []
  total : Nat := 0
  ackedAt : Option Nat := none
  committed : Bool := false
  discarded : Bool := false
deriving DecidableEq, Repr

/-- The bellwether's side of a broadcast (R382 to R384): state 1 delivering, 2 committing, 3 committed, 4 failed. `orders`: the tree
order of each generation, newest first; `due`: the members still to acknowledge with the deadline of each; `suspects`: those sent
their delivery directly, with theirs; `answered`: the command has completed. -/
structure JobLead where
  hdr : Hdr
  broadcast : Nat
  state : Nat
  orders : List (List Nat)
  members : Nat
  roster : Bytes
  blobAddr : Nat
  blobLen : Nat
  digest : Bytes
  rosterDigest : Bytes
  due : List (Nat × Nat) := []
  suspects : List (Nat × Nat) := []
  acked : List Nat := []
  mismatch : List Nat := []
  failed : List Nat := []
  committed : List Nat := []
  answered : Bool := false
deriving DecidableEq, Repr

/-- The fabric ports beside their registers: streams, messages sent by port (each Mladub packet with its headers), messages that wait for
an address of their port or for their next hop (R371), control messages outstanding and seen, the ports whose cable
end is held in low-power mode (R481), by port the default routers learned, the neighbours asked for with whether each has answered, the
addresses probed and the echo replies counted per second (R371; fabric ports 0 to 63, time ports 64 and 65, management ports 66 and 67), the
job-start hops (R382), the partners' Port IDs and TTLs with the hall times at which they came (R370), and the job-start broadcasts. -/
structure FabS where
  streams : List Stream := []
  tx : List (Nat × FabMsg × Option UdpHdr) := []
  wait : List (Nat × FabMsg) := []
  nextId : Nat := 0
  ctrlOut : List CtrlOut := []
  ctrlSeen : List (Nat × Nat) := []
  lowPower : List Nat := []
  routers : List (Nat × Nat) := []
  neighbours : List (Nat × Nat × Bool) := []
  probes : List Probe := []
  hops : List Hop := []
  echoes : List (Nat × Nat × Nat) := []
  partners : List (Nat × Bytes × Nat × Nat) := []
  members : List JobMember := []
  leads : List JobLead := []
  nextBroadcast : Nat := 0
deriving DecidableEq, Repr

/-- An entry of the key table (R418): class 0 program, 1 configuration, 2 debug. -/
structure KeyEntry where
  entry : Nat
  cls : Nat
  key : Bytes
  revoked : Bool
deriving DecidableEq, Repr

/-- An inbound object of several parts under assembly (R419). -/
structure Assembly where
  channel : Nat
  op : Nat
  context : Nat
  total : Nat
  data : Bytes
  last : Nat
deriving DecidableEq, Repr

/-- A session (R423): the seed of its key pair, its encapsulation key, the session secret once phase 1 has arrived, and whether it
is the one that binds its context (R425). -/
structure Session where
  id : Nat
  ctx : Nat
  openedAt : Nat
  keySeed : Nat
  ek : Bytes
  secret : Option Bytes := none
  bound : Bool := false
deriving DecidableEq, Repr

/-- A port-die key slot (R424). -/
structure KeySlot where
  slot : Nat
  session : Nat
  ctx : Nat
  salt : Nat
  direction : Nat
  key : Bytes
deriving DecidableEq, Repr

/-- A quote request waiting for its signature, with bytes 0 to 735 of the quote (R422). -/
structure QuoteReq where
  hdr : Hdr
  body : Bytes
deriving DecidableEq, Repr

/-- A firmware slot in boot flash: its image, which holds its security version, and whether it is marked preferred (R426). -/
structure FwSlot where
  image : Bytes := []
  preferred : Bool := false
deriving DecidableEq, Repr

/-- The root of trust beside its registers. `results`: the reply counter of each attested context (R425); `fuseBad`: a fuse write did not read
back, and no fuse is written again (Table 19-6); the attestation certificate made at this boot (R420); and the quote requests accepted and still held
by the runtime firmware, with their bodies of the instant of acceptance (R422). -/
structure SecS where
  keys : List KeyEntry := []
  counter : Nat := 0
  parts : List Assembly := []
  sessions : List Session := []
  slots : List KeySlot := []
  waiting : List QuoteReq := []
  quotes : List (Nat × Bytes) := []
  nextQuote : Nat := 0
  challenge : Option (Nat × Bytes × Nat) := none
  staging : List Host.Cell := []
  fw : List (Nat × FwSlot) := []
  results : List (Nat × Nat) := []
  fuseBad : Bool := false
  attestCert : Bytes := []
  early : List QuoteReq := []
deriving DecidableEq, Repr

/-- A build (R272): a weight-set slot (target 0 or 1) or an adapter entry (target 2 + entry) of a context, from its open to its release: the
tag, the shards wanted and landed, the stream, the status a failed shard gives the commit, the hall time of the last landing, the repeat
requests made, the command that waits for completion, the set digest, an adapter's rank and scale, and the generator states of the ingest
lanes. -/
structure Build where
  ctx : Nat
  target : Nat
  tag : Nat
  wanted : Nat
  stream : Nat
  landed : List Shard := []
  failure : Option Nat := none
  last : Nat := 0
  retries : List Retry := []
  waiting : Option (Nat × Hdr) := none
  digest : Bytes := []
  rank : Nat := 0
  scale : Nat := 0
  rng : List (Nat × W64) := []
deriving DecidableEq, Repr

/-- One NVMe/TCP Read of a storage read: its number, its first block and blocks within the range, when it was last issued, whether
it was issued again, the I/O queue it is outstanding on, none while it waits for a place (Table 13-5), the one it went unanswered on
(R284), and whether it left the module: one issued over a stopped crossing 2 did not (R235). -/
structure NvmeRead where
  id : Nat
  first : Nat
  blocks : Nat
  since : Nat
  again : Bool
  queue : Option Nat := none
  old : Option Nat := none
  sent : Bool := false
deriving DecidableEq, Repr

/-- A storage read in progress (R284), or a shard of one read again (R271): its number, the command, its range, its Reads not answered, the
data answered by first block, and the bytes of the file not yet given to the ingest engine with the first block after them; `stray`: no
descriptor stood where one must begin, so the rest of the range holds no shard. -/
structure StorageJob where
  id : Nat
  hdr : Hdr
  req : StorageReadReq
  reads : List NvmeRead
  data : List (Nat × Bytes) := []
  file : Bytes := []
  next : Nat := 0
  stray : Bool := false
deriving DecidableEq, Repr

/-- A storage controller (R283): its connection while it has one, its reads, and the disconnect command that waits for them. -/
structure Controller where
  id : Nat
  conn : Option StorageConn := none
  jobs : List StorageJob := []
  leaving : Option Hdr := none
deriving DecidableEq, Repr

/-- The weight unit beside its registers: the builds, the storage controllers, the number of the next Read, and the place of the
scrubber: context, slot, tensor and shard of the last shard taken, with the tick the next scrub is due at. -/
structure WgtS where
  builds : List Build := []
  ctrls : List Controller := []
  nextRead : Nat := 0
  scrub : Option (Nat × Nat × Nat × Nat) := none
  scrubDue : Nat := 0
deriving DecidableEq, Repr

/-- A sequence slot (Table 14-1), with what R304 notes of it for action 7: `cancel`, `ended`, `limit reached` and `prompt error`; `by_`: the
channel and the tag of the command that admitted it. -/
structure Seq where
  state : Nat := 0
  ctx : Nat := 0
  prio : Nat := 0
  pin : Nat := 0
  adapterEn : Bool := false
  adapter : Nat := 0
  position : Nat := 0
  tag : Nat := 0
  kvIndex : Nat := 0
  kvBase : Nat := 0
  limit : Nat := 0
  promptLen : Nat := 0
  deadlineTick : Nat := 0
  ring : Nat := 0
  promptAddr : Nat := 0
  admitTick : Nat := 0
  latency : Nat := 0
  late : Bool := false
  dropLate : Bool := false
  cancel : Bool := false
  ended : Bool := false
  promptError : Bool := false
  lastToken : Nat := 0
  by_ : Nat × Nat := (0, 0)
deriving DecidableEq, Repr

/-- A sensor (R403): its last five samples, newest first, none for one outside the valid range; whether it is faulted; whether the
excursion it is in has raised its warning (R409). -/
structure Sensor where
  samples : List (Option Int) := []
  faulted : Bool := false
  warned : Bool := false
deriving DecidableEq, Repr

/-- The power and thermal units beside their registers: the sensors, the last ten input voltages (mV) and powers (µW) with the hall time of
the last (R403), whether a voltage excursion is in progress and for how many filtered values it has lain within the range (R389), whether
the limiter stood above 0 in the ending tick (R395), the scaling factors x_a, x_s and x_l of the present tick (R440) with the port traffic
that the rim's power scales with (Table 18-3), the region values read at the last boundary in m°C (R405), the regions whose ungating has
begun (R407), and the entries whose imbalance excursion has raised its fault (R389); the faults of the service controller that wait in
crossing 8 (code, class and record; R231); once the limiter has stood above level 0, the tiles whose PWR_LIMIT has been read
since it last did (the model's own field, log 44); and for how many microseconds each cause of a supply trip has held: undervoltage,
overvoltage and the over-current of each entry (R390). -/
structure PwrS where
  sensors : List (Nat × Sensor) := []
  volts : List Nat := []
  micros : List Int := []
  filterAt : Nat := 0
  excursion : Bool := false
  within : Nat := 0
  limited : Bool := false
  factors : Rat × Rat × Rat := (0, 0, 0)
  traffic : Rat := 0
  readings : List (Nat × Nat) := []
  ungating : List Nat := []
  imbalanced : List Nat := []
  reports : List (Nat × Nat × Bytes) := []
  limitSeen : Option (List Nat) := none
  beyond : List Nat := [0, 0, 0, 0, 0, 0]
deriving DecidableEq, Repr

/-- Governor coefficients under learning (R440): a, s and l in W, and the least and largest load (%), hottest region (°C) and input
voltage (0.1 V) seen meanwhile (R442). -/
structure Learn where
  a : Rat
  s : Rat
  l : Rat
  load : Nat × Nat
  tj : Nat × Nat
  vin : Nat × Nat
deriving DecidableEq, Repr

/-- The calibration set (R438): its records, each a header and its data (Table 20-3), its write counter, the learned coefficients while the
governor learns, whether its header and serial are valid, and whether the operator has written TIM_ASYM since the set last gave it (R31). -/
structure CalS where
  records : List Bytes := []
  counter : Nat := 0
  learn : Option Learn := none
  valid : Bool := false
  asymWritten : Bool := false
deriving DecidableEq, Repr

/-- The service controller and the pins that no register shows: POWER_GOOD; whether P7 has ended (R430); whether the rails have been removed
at the present instant (R488; the model's own field, log 38); the UCIe link's low-power state (R338); the 12 V standby input;
MODULE_RESET_N held low; EMERGENCY_OFF_N low (R391); the 48 V entries whose precharge has not ended, and whether the input has been applied
(R477); the reply that waits on each service interface, UART 0 and SMBus 1 (R487); the TAP instruction selected (R486); and the hall time of
the power-on request. -/
structure PinS where
  powerGood : Bool := false
  p7 : Bool := false
  removing : Bool := false
  uciIdle : Bool := false
  standby : Bool := false
  resetLow : Bool := false
  emergencyLow : Bool := false
  precharging : List Nat := []
  applied : Bool := false
  replies : List (Nat × Bytes) := []
  tap : TapInstr := .idcode
  requested : Nat := 0
deriving DecidableEq, Repr

/-- A clock domain crossing of one unit (R231 to R237): by how much the sending side's event counter is ahead of the receiving side's last
sample, modulo 2^32; stopped; the hall time at which a wake not yet acknowledged was raised; and what waits in it, in order. The unit is a
physical tile (0), a stack (1), a port die (2, 6), a logical tile (5), a time port (7), and 0 for the others. A crossing that is not listed
runs, and nothing waits in it: both counters show the same, and no register shows what. -/
structure Crossing where
  id : Nat
  unit_ : Nat
  ahead : Nat := 0
  stopped : Bool := false
  wake : Option Nat := none
  held : List Instr := []
deriving DecidableEq, Repr

/-- The crossings at which something waits, whether the command now in effect is one that a crossing delivers (the model's own field), and
whether a wake of crossing 11 has restarted the debug logic (R236). -/
structure CdcS where
  crossings : List Crossing := []
  through : Bool := false
  debugRuns : Bool := false
deriving DecidableEq, Repr

/-- The reasons a command stops the machine: none is raised by this model, every effect the spec gives being a next state
(safe: the type is here for the interface). -/
inductive Fault where
  /-- Raised by nothing. -/
  | none
deriving DecidableEq, Repr

/-- The reasons a command is refused. -/
inductive Refusal where
  /-- An arm of `exec` whose meaning is not modelled; safe. -/
  | notModelled (mnemonic : String)
deriving DecidableEq, Repr

/-- The state of the module. `fresh` counts the free values drawn (the model's own field); `pending` is the queue of commands
waiting, first in first out; every other field is the spec's. -/
structure State where
  regs : List (Nat × W64) := []
  mem : List Host.Cell := []
  poisoned : List Nat := []
  hall : Nat := 0
  time : TimeS := {}
  pins : PinS := {}
  pwr : PwrS := {}
  cal : CalS := {}
  cmd : CmdS := {}
  fab : FabS := {}
  sec : SecS := {}
  wgt : WgtS := {}
  seqs : List (Nat × Seq) := []
  ctxs : List (Nat × CtxS) := []
  parts : List (Nat × PartS) := []
  eng : List (Nat × Eng) := []
  net : NetS := {}
  rings : List Ring := []
  lateClears : List (Nat × Nat × Nat) := []
  relayTable : List (Bytes × Nat) := []
  faultLog : List Bytes := []
  cdc : CdcS := {}
  fresh : Nat := 0
  pending : List Instr := []
deriving DecidableEq, Repr

/-- The module after reset (R40, and the Reset columns of the register tables): every register at its reset value, memories
with nothing listed, no command waiting. -/
def State.reset : State := {}

end Sys2Proof.Machine
end

