-- ==== Sys2Proof/Machine/Ops.lean ====
section
/-! DEFINITION. The named operations over the state: registers and their fields, memory, the geometry of the wafer, partitions
and contexts, packets, events, faults and teardown. -/

namespace Sys2Proof.Machine

/-! ### Bytes -/

/-- `k` bytes of `n`, least significant first (R6). -/
def leB (k n : Nat) : Bytes := (List.range k).map fun i => BitVec.ofNat 8 (n / 256 ^ i)

/-- The number a byte string spells, least significant first (R6). -/
def ofLe (b : Bytes) : Nat := b.foldr (fun x acc => x.toNat + 256 * acc) 0

/-- Bytes `i` to `i + n - 1` of a byte string. -/
def slice (b : Bytes) (i n : Nat) : Bytes := (b.drop i).take n

/-- The number in bytes `i` to `i + n - 1`. -/
def leAt (b : Bytes) (i n : Nat) : Nat := ofLe (slice b i n)

/-- A byte string padded with zero bytes, or cut, to `n` bytes. -/
def padTo (n : Nat) (b : Bytes) : Bytes := (b ++ List.replicate (n - b.length) 0).take n

/-- `n` in two's complement in `k` bits. -/
def twos (k : Nat) (n : Int) : Nat := (n % (2 ^ k : Nat)).toNat

/-- The integer that `k` bits in two's complement spell. -/
def sgn (k n : Nat) : Int := if n < 2 ^ (k - 1) then (n : Int) else (n : Int) - (2 ^ k : Nat)

/-- A Boolean as a bit. -/
def bit (b : Bool) : Nat := if b then 1 else 0

/-! ### Registers -/

/-- Whether `rel`, an offset from the base of a register array, is the offset of an element. -/
def dimsHit : List (Nat × Nat) → Nat → Bool
  | [], rel => rel == 0
  | (stride, count) :: t, rel => decide (rel / stride < count) && dimsHit t (rel % stride)

/-- The registers of an address space (Table 0-4). -/
def spaceRegs : Nat → List RegSpec
  | 0 => regsWafer | 1 => regsTile | 2 => regsPhys | 3 => regsField | 4 => regsStack | 5 => regsPort | 15 => regsRot
  | _ => []

/-- The number of valid indexes of an address space (Table 0-4); 0: unassigned. -/
def spaceCount : Nat → Nat
  | 0 => 1 | 1 => 3528 | 2 => 4116 | 3 => 49 | 4 => 12 | 5 => 64 | 6 => 1 | 7 => 1 | 15 => 1 | _ => 0

/-- The fields of a configuration address (Table 0-3). -/
def addrSpace (a : Nat) : Nat := a / 2 ^ 40
def addrIndex (a : Nat) : Nat := a / 2 ^ 27 % 2 ^ 13
def addrOffset (a : Nat) : Nat := a % 2 ^ 27

/-- The register that stands at an offset of a space. -/
def regAtOffset (space off : Nat) : Option RegSpec :=
  (spaceRegs space).find? fun r => decide (r.base ≤ off) && dimsHit r.dims (off - r.base)

/-- The reset value of a register: its fields' reset values. The skip map loads its fuse values, F column 4 and B column 8
in every row, and the array spares rows 128, 129 and columns 512 to 515 (DESIGN CHOICE, log 4). -/
def regReset (a : Nat) : Nat :=
  let off := addrOffset a
  if addrSpace a = 3 ∧ 0x2000 ≤ off ∧ off < 0x2030 then 0x888444
  else if addrSpace a = 2 ∧ off = 0x800 then
    128 + 129 * 2 ^ 8 + 512 * 2 ^ 20 + 513 * 2 ^ 30 + 514 * 2 ^ 40 + 515 * 2 ^ 50
  else match regAtOffset (addrSpace a) off with
    | some r => r.fields.foldl (fun v f => v + f.reset % 2 ^ f.width * 2 ^ f.lo) 0
    | none => 0

/-- The value of a register as it is held. -/
def State.reg (s : State) (a : Nat) : Nat := (Sparse.get (BitVec.ofNat 64 (regReset a)) s.regs a).toNat

/-- A register set to a value. -/
def State.setReg (s : State) (a v : Nat) : State :=
  { s with regs := Sparse.put (BitVec.ofNat 64 (regReset a)) s.regs a (BitVec.ofNat 64 v) }

/-- A field of a value. -/
def bits (v lo width : Nat) : Nat := v / 2 ^ lo % 2 ^ width

/-- A value with one field replaced. -/
def setBits (v lo width x : Nat) : Nat := v - bits v lo width * 2 ^ lo + x % 2 ^ width * 2 ^ lo

/-- The value of a register field. -/
def State.rd (s : State) (f : RF) : Nat := bits (s.reg f.addr) f.lo f.width

/-- A register field set to a value. -/
def State.wr (s : State) (f : RF) (x : Nat) : State := s.setReg f.addr (setBits (s.reg f.addr) f.lo f.width x)

/-- A counter raised by `n`, stopping at its largest value. -/
def State.inc (s : State) (f : RF) (n : Nat) : State := s.wr f (min (s.rd f + n) (2 ^ f.width - 1))

/-- A field lowered by `n`, not below 0. -/
def State.dec (s : State) (f : RF) (n : Nat) : State := s.wr f (s.rd f - n)

/-- Whether a one-bit field is set. -/
def State.on (s : State) (f : RF) : Bool := s.rd f != 0

/-- Bit `i` of a field set or cleared. -/
def State.wrBit (s : State) (f : RF) (i : Nat) (v : Bool) : State := s.wr f (setBits (s.rd f) i 1 (bit v))

/-- Bit `i` of a field. -/
def State.rdBit (s : State) (f : RF) (i : Nat) : Bool := bits (s.rd f) i 1 == 1

/-! ### Memory

One address map holds every byte memory of the module: stack `k` from `128,000,000,000 k`; the memories of physical tile `t`
from `2^41 + 2^25 t`: tile SRAM at 0, compute instruction memory at `0x1400000`, access instruction memory at `0x1480000`, the
mule scale store at `0x14a0000`, the mask store at `0x1520000`, the statistics records at `0x1720000` and their tags, one byte
each, at `0x1760000`. -/

def sramOff : Nat := 0
def cimemOff : Nat := 0x1400000
def aimemOff : Nat := 0x1480000
def scaleOff : Nat := 0x14a0000
def maskOff : Nat := 0x1520000
def statOff : Nat := 0x1720000
def tagOff : Nat := 0x1760000

/-- Bytes of one stack (R219). -/
def stackBytes : Nat := 128000000000

/-- The address of a byte of a stack. -/
def stackAddr (k b : Nat) : Nat := stackBytes * k + b

/-- The address of byte `off` of the memories of physical tile `t`. -/
def tileAddr (t off : Nat) : Nat := 2 ^ 41 + 2 ^ 25 * t + off

/-- The byte at an address; a byte nothing has written reads 0 (DESIGN CHOICE, log 3). -/
def State.rdB (s : State) (a : Nat) : Byte := Sparse.get 0 s.mem a

/-- A byte stored at an address. -/
def State.wrB (s : State) (a : Nat) (v : Byte) : State := { s with mem := Sparse.put 0 s.mem a v }

/-- `n` bytes from an address. -/
def State.rdBytes (s : State) (a n : Nat) : Bytes := (List.range n).map fun i => s.rdB (a + i)

/-- A byte string stored from an address. -/
def State.wrBytes (s : State) (a : Nat) : Bytes → State
  | [] => s
  | v :: t => (s.wrB a v).wrBytes (a + 1) t

/-- The number in `n` bytes from an address. -/
def State.rdLe (s : State) (a n : Nat) : Nat := ofLe (s.rdBytes a n)

/-- Every byte whose address `p` picks cleared to zero. -/
def State.clearMem (s : State) (p : Nat → Bool) : State := { s with mem := Sparse.drop p s.mem }

/-! ### Free values -/

/-- A free value of `w` bits (an opaque constant applied to a counter that the step advances): whatever the spec leaves open. -/
def State.free (s : State) (w : Nat) : Nat × State := ((Config.freeValue s.fresh).toNat % 2 ^ w, { s with fresh := s.fresh + 1 })

/-! ### Tables of the units -/

def State.chan (s : State) (ch : Nat) : Chan := Sparse.get {} s.cmd.chans ch
def State.setChan (s : State) (ch : Nat) (v : Chan) : State :=
  { s with cmd := { s.cmd with chans := Sparse.put {} s.cmd.chans ch v } }
def State.ctx (s : State) (c : Nat) : CtxS := Sparse.get {} s.ctxs c
def State.setCtx (s : State) (c : Nat) (v : CtxS) : State := { s with ctxs := Sparse.put {} s.ctxs c v }
def State.modCtx (s : State) (c : Nat) (f : CtxS → CtxS) : State := s.setCtx c (f (s.ctx c))
def State.part (s : State) (p : Nat) : PartS := Sparse.get {} s.parts p
def State.setPart (s : State) (p : Nat) (v : PartS) : State := { s with parts := Sparse.put {} s.parts p v }
def State.modPart (s : State) (p : Nat) (f : PartS → PartS) : State := s.setPart p (f (s.part p))

/-- The engine state of context `c` in logical tile `t`. -/
def engKey (c t : Nat) : Nat := c * 4096 + t
def State.engOf (s : State) (c t : Nat) : Eng := Sparse.get {} s.eng (engKey c t)
def State.setEng (s : State) (c t : Nat) (v : Eng) : State := { s with eng := Sparse.put {} s.eng (engKey c t) v }
def State.modEng (s : State) (c t : Nat) (f : Eng → Eng) : State := s.setEng c t (f (s.engOf c t))

/-! ### Time -/

/-- The current tick number. -/
def State.tick (s : State) : Nat := s.rd TIM_TICK_NOW.tick

/-- The tick period in ns. -/
def State.periodNs (s : State) : Nat := s.rd TIM_TICK_CFG.period_us * 1000

/-- The hall time at which tick `n` starts (R39). -/
def State.tickStart (s : State) (n : Nat) : Nat :=
  (s.rd TIM_EPOCH.epoch_ns + ((n : Int) - s.rd TIM_TICK_BASE.base) * s.periodNs).toNat

/-- The first tick that starts after the present hall time and is later than the current tick (R36, R41). -/
def State.firstTick (s : State) : Nat :=
  let n := (s.rd TIM_TICK_BASE.base : Int) + ((s.hall : Int) - s.rd TIM_EPOCH.epoch_ns) / s.periodNs + 1
  max n.toNat (s.tick + 1)

/-- The module carries its own count, not locked hall time (R38). -/
def State.timeUnlocked (s : State) : Bool :=
  s.rd TIM_STATUS.state == 3 || (s.rd TIM_STATUS.state == 0 && s.time.fromFree)

/-- The module's rails are on and bring-up has completed, so that it takes commands and does its work (R435). -/
def State.up (s : State) : Bool := s.rd CAL_BRINGUP.stage == 8

/-! ### Geometry -/

/-- Column and row of a logical tile. -/
def tileX (t : Nat) : Nat := t % 84
def tileY (t : Nat) : Nat := t / 84
def tileAt (x y : Nat) : Nat := y * 84 + x

/-- The field of a logical tile, its physical row, and its column in the field. -/
def tileField (t : Nat) : Nat := tileY t / 6 * 7 + tileX t / 12
def tileRow (t : Nat) : Nat := tileY t % 6
def tileCol (t : Nat) : Nat := tileX t % 12

/-- An F-tile: columns 0 to 3 of a field. -/
def isF (t : Nat) : Bool := decide (tileCol t < 4)

/-- The physical column that logical column `c` of a row has under skips `f` and `b` (R55). -/
def physCol (f b c : Nat) : Nat := if c < 4 then (if c < f then c else c + 1) else (if c + 1 < 5 + b then c + 1 else c + 2)

/-- The physical index of field `fd`, row `r`, physical column `pc`. -/
def physIdx (fd r pc : Nat) : Nat := fd * 84 + r * 14 + pc

/-- The physical tile that serves a logical tile, by the active skips. -/
def State.phys (s : State) (t : Nat) : Nat :=
  let fd := tileField t
  let r := tileRow t
  physIdx fd r (physCol (s.rd (TIL_ROW_MAP.active_f_skip fd r)) (s.rd (TIL_ROW_MAP.active_b_skip fd r)) (tileCol t))

/-- The logical tile that a physical tile serves; none for a skipped tile. -/
def State.logical (s : State) (pt : Nat) : Option Nat :=
  let fd := pt / 84
  let r := pt % 84 / 14
  let f := s.rd (TIL_ROW_MAP.active_f_skip fd r)
  let b := s.rd (TIL_ROW_MAP.active_b_skip fd r)
  ((List.range 12).find? fun c => physCol f b c == pt % 14).map fun c =>
    tileAt (fd % 7 * 12 + c) (fd / 7 * 6 + r)

/-- The bad bits of a row: fuse_bad, tile_bad and router_bad together (R57). -/
def State.rowBad (s : State) (fd r : Nat) : Nat :=
  s.rd (TIL_ROW_HEALTH.fuse_bad fd r) ||| s.rd (TIL_ROW_HEALTH.tile_bad fd r) ||| s.rd (TIL_ROW_HEALTH.router_bad fd r)

/-- The row's mesh is broken: a tile with router_bad is not the active skipped tile of its group (R57). -/
def State.rowCut (s : State) (fd r : Nat) : Bool :=
  (List.range 14).any fun pc => bits (s.rd (TIL_ROW_HEALTH.router_bad fd r)) pc 1 == 1 &&
    pc != s.rd (TIL_ROW_MAP.active_f_skip fd r) && pc != 5 + s.rd (TIL_ROW_MAP.active_b_skip fd r)

/-- A logical position is unserved (R57, R446). -/
def State.unserved (s : State) (t : Nat) : Bool :=
  let fd := tileField t
  let r := tileRow t
  bits (s.rowBad fd r) (s.phys t % 14) 1 == 1 || s.rowCut fd r || s.rdBit FLT_STATE.fields_lost fd

/-- A gating region is gated (R406, R408): thermally, in an emergency, or idle. -/
def State.gated (s : State) (fd r : Nat) : Bool := s.rd (THM_REGION.gate_state fd r) != 0

/-! ### Partitions and contexts -/

/-- Context states (Table 15-2). -/
def stFree : Nat := 0
def stResident : Nat := 1
def stRunning : Nat := 2
def stEvicted : Nat := 3
def stHold : Nat := 4
def stReload : Nat := 5
def stTeardown : Nat := 6

def State.cst (s : State) (c : Nat) : Nat := s.rd (PAR_CTX_CFG.state c)
def State.cpart (s : State) (c : Nat) : Nat := s.rd (PAR_CTX_CFG.partition c)

/-- The contexts of a partition that are not FREE, in ascending order. -/
def State.partCtxs (s : State) (p : Nat) : List Nat :=
  (List.range 128).filter fun c => s.cst c != 0 && s.cpart c == p

/-- Some context of any partition is active (R36). -/
def State.anyActive (s : State) : Bool := (List.range 128).any fun c => s.cst c != 0

/-- The context a partition runs. -/
def State.running (s : State) (p : Nat) : Option Nat :=
  if s.on (PAR_PART_STATUS.running_valid p) then some (s.rd (PAR_PART_STATUS.running p)) else none

/-- A partition is built or relocating. -/
def State.built (s : State) (p : Nat) : Bool := s.rd (PAR_PART_CFG.state p) ≥ 2

/-- A position lies in the rectangle at `x0`, `y0`. -/
def inRect (x0 y0 w h t : Nat) : Bool :=
  decide (x0 ≤ tileX t) && decide (tileX t < x0 + w) && decide (y0 ≤ tileY t) && decide (tileY t < y0 + h)

/-- A logical tile lies in a built partition's rectangle. -/
def State.covers (s : State) (p t : Nat) : Bool :=
  s.built p && inRect (s.rd (PAR_PART_CFG.x0 p)) (s.rd (PAR_PART_CFG.y0 p)) (s.rd (PAR_PART_CFG.width p))
    (s.rd (PAR_PART_CFG.height p)) t

/-- The partition that covers a logical tile. -/
def State.partOf (s : State) (t : Nat) : Option Nat := (List.range 32).find? fun p => s.covers p t

/-- The context running on a logical tile. -/
def State.ctxOn (s : State) (t : Nat) : Option Nat := (s.partOf t).bind s.running

/-- The tiles of a rectangle, row by row. -/
def rectTiles (x0 y0 w h : Nat) : List Nat :=
  (List.range h).flatMap fun v => (List.range w).map fun u => tileAt (x0 + u) (y0 + v)

/-- The tiles of a partition, in the order of the program directory. -/
def State.partTiles (s : State) (p : Nat) : List Nat :=
  rectTiles (s.rd (PAR_PART_CFG.x0 p)) (s.rd (PAR_PART_CFG.y0 p)) (s.rd (PAR_PART_CFG.width p)) (s.rd (PAR_PART_CFG.height p))

/-- The rectangle position of a tile of partition `p` in the program directory (R201). -/
def State.dirPos (s : State) (p t : Nat) : Nat :=
  (tileY t - s.rd (PAR_PART_CFG.y0 p)) * s.rd (PAR_PART_CFG.width p) + (tileX t - s.rd (PAR_PART_CFG.x0 p))

/-- The slice of a context's program for a tile; none for an empty slice. -/
def State.sliceOf (s : State) (c t : Nat) : Option Slice :=
  (s.ctx c).program.bind fun g => (g.slices.find? fun e => e.1 == s.dirPos (s.cpart c) t).map (·.2)

/-- A context has work in a tile when its slice for that tile is non-empty (R321). -/
def State.hasWork (s : State) (c t : Nat) : Bool := (s.sliceOf c t).isSome

/-- A context has work in a gating region. -/
def State.workIn (s : State) (c fd r : Nat) : Bool :=
  (s.partTiles (s.cpart c)).any fun t => tileField t == fd && tileRow t == r && s.hasWork c t

/-- The portion of a memory of `e` entries that a context's share has (R319): first entry and end. -/
def State.portion (s : State) (c e : Nat) : Nat × Nat :=
  let b := s.rd (PAR_CTX_CFG.share_base c)
  let n := s.rd (PAR_CTX_CFG.share_lines c)
  (e * b / 81920, e * (b + n) / 81920)

/-- A step of the partition's running context is in progress, so that boundary actions due for it wait (R46). -/
def State.stepping (s : State) (p : Nat) : Bool :=
  match s.running p with | some c => (s.ctx c).step.isSome | none => false

/-! ### Packets (R341, R346, R362, R363) -/

/-- The packets of a queue that hold ordinary places, and those that hold places reserved for class 2 and above (R363). -/
def ordinaryPlaces (q : List Packet) : Nat := (q.filter fun p => decide (p.cls < 2)).length
def reservedPlaces (q : List Packet) : Nat := (q.filter fun p => decide (2 ≤ p.cls)).length

/-- A channel with a reply packet put on its queue; where every ordinary place is taken the reply waits for one, since R363 lets only events
be lost (DESIGN CHOICE, log 64). -/
def Chan.push (c : Chan) (p : Packet) : Chan :=
  if c.late.isEmpty && decide (ordinaryPlaces c.queue < 960) then { c with queue := c.queue ++ [p] } else { c with late := c.late ++ [p] }

/-- A channel whose waiting replies have taken the ordinary places now free. -/
def Chan.refill (c : Chan) : Chan :=
  let n := 960 - ordinaryPlaces c.queue
  { c with queue := c.queue ++ c.late.take n, late := c.late.drop n }

/-- A reply packet put on its channel, whose other entries are those of `c`; it returns `own` credits and every credit owed on the channel
(R341). -/
def State.putReply (s : State) (c : Chan) (h : Hdr) (op status own : Nat) (payload : Bytes) (dup : Bool) : State :=
  (s.dec (CMD_CHAN_STATUS.outstanding h.channel) (c.owed + own)).setChan h.channel
    (({ c with owed := 0 } : Chan).push
      ⟨false, op, h.tag, h.partition, h.context, status, c.owed + own, status == 1, dup, s.timeUnlocked, s.hall, 0, payload⟩)

/-- A reply packet put on the channel's queue. -/
def State.sendReply (s : State) (h : Hdr) (op status own : Nat) (payload : Bytes) (dup : Bool) : State :=
  s.putReply (s.chan h.channel) h op status own payload dup

/-- A reply to an accepted command (R346): the first returns its credit, one of status 0x0001 only where it is the first, and one whose
status is not 0x0001 ends the command. A reply to a command that is no longer outstanding is discarded. -/
def State.reply (s : State) (h : Hdr) (op status : Nat) (payload : Bytes := []) (dup : Bool := false) : State :=
  let c := s.chan h.channel
  match c.outst.find? fun o => o.tag == h.tag && o.op == op with
  | none => s
  | some o =>
    if status = 1 ∧ o.credited then s
    else
    let outst := if status = 1 then c.outst.map fun q => if q.tag == h.tag then { q with credited := true } else q
                 else c.outst.filter fun q => q.tag != h.tag
    s.putReply { c with outst := outst } h op status (bit (!o.credited)) payload dup

/-- An event sent on one channel: queued with the next sequence number, or lost when it finds no place (R363). -/
def State.eventOn (s : State) (ch code cls part ctx : Nat) (payload : Bytes) : State :=
  let c := s.chan ch
  let room := if 2 ≤ cls then decide (reservedPlaces c.queue < 64) else decide (ordinaryPlaces c.queue < 960)
  if room then
    (s.inc (CMD_CHAN_EVENTS.events_sent ch) 1).setChan ch { c with
      eventSeq := (c.eventSeq + 1) % 2 ^ 32, owed := 0,
      queue := c.queue ++ [⟨true, code, c.eventSeq, part, ctx, 0, c.owed, false, false, s.timeUnlocked, s.hall, cls, payload⟩] }
      |>.dec (CMD_CHAN_STATUS.outstanding ch) c.owed
  else (s.inc (CMD_CHAN_EVENTS.events_lost ch) 1).setChan ch { c with lost := c.lost + 1 }

/-- A channel takes an event: its event_mask admits the code and, for a fault, its min_class is at or below the class; class 2
and above is always sent on channel 0 (R363). -/
def State.takesEvent (s : State) (ch code : Nat) (cls : Option Nat) : Bool :=
  let masked := s.rdBit (CMD_CHAN_CFG.event_mask ch) (code - 1)
  match cls with
  | none => masked
  | some k => (masked && decide (s.rd (CMD_CHAN_CFG.min_class ch) ≤ k)) || (ch == 0 && decide (2 ≤ k))

/-- An event of class `pcls` sent on every channel that takes it; `cls` is the class that a fault event is admitted by. -/
def State.eventAs (s : State) (code : Nat) (cls : Option Nat) (pcls part ctx : Nat) (payload : Bytes) : State :=
  (List.range 8).foldl (fun s ch => if s.takesEvent ch code cls then s.eventOn ch code pcls part ctx payload else s) s

/-- An event sent on every channel that takes it. -/
def State.event (s : State) (code : Nat) (cls : Option Nat) (part ctx : Nat) (payload : Bytes) : State :=
  s.eventAs code cls (if code = 3 then cls.getD 0 else 0) part ctx payload

/-- A command completed by a rule other than its own (R362): its final reply, and the completion notice 0x0006 of its opcode, tag and
status. -/
def State.completeBy (s : State) (h : Hdr) (op status : Nat) : State :=
  (s.reply h op status).event 6 none h.partition h.context (leB 8 op ++ leB 8 h.tag ++ leB 8 status)

/-- A notice event 0x0008 (Table 16-7). -/
def State.notice (s : State) (part ctx cause subject amount : Nat) : State :=
  s.event 8 none part ctx (leB 8 cause ++ leB 8 subject ++ leB 8 amount)

/-! ### Faults and teardown (R445 to R452) -/

/-- A record put on the fault log (R449). -/
def State.logFault (s : State) (rcd : Bytes) : State :=
  let s := s.wr FLT_LOG_INDEX.next_index (s.rd FLT_LOG_INDEX.next_index + 1)
  if s.faultLog.length < 4096 then
    { s.wr FLT_LOG_STATUS.held (s.faultLog.length + 1) with faultLog := s.faultLog ++ [rcd] }
  else { s.inc FLT_LOG_STATUS.overwritten 1 with faultLog := s.faultLog.drop 1 ++ [rcd] }

/-- The faults whose detail the spec lays out (Table 15-7, R390, R403, R409, R431, R433, R453), and those whose event it says names
something more than the unit (R194, R225, R251, R266, R386, R429: the name stands in the first bytes of the detail, DESIGN CHOICE, log 51);
of every other fault's it says nothing. -/
def detailStated (code : Nat) : Bool :=
  code == 0x2901 || code == 0x2A11 || code == 0x2C01 || code == 0x2C04 || code == 0x2F01 || code == 0x3106 || code == 0x3305 || code == 0x3202 || code == 0x3206 || code == 0x3207 || code == 0x3208 || code == 0x3401 || code == 0x3502

/-- The fault record of R364; a detail that neither the spec nor the caller lays out is free. -/
def State.faultRecord (s : State) (code cls space index : Nat) (detail : Bytes) : Bytes × State :=
  let r := if detailStated code || !detail.isEmpty then (padTo 16 detail, s) else let x := s.free 128; (leB 16 x.1, x.2)
  (leB 2 code ++ leB 1 cls ++ leB 1 space ++ leB 4 index ++ leB 8 s.tick ++ r.1, r.2)

/-- A control message that a member sends of its own: a void request or a verdict query, under the roster digest of its node descriptor. -/
def CtrlOut.asks (m : CtrlOut) (node : Option Bytes) : Bool :=
  (m.ctype == 0x20 || m.ctype == 0x22) && (match node with | some n => n.take 32 == m.body.take 32 | none => false)

/-- The units abandon their work for a context, and its stack words complete without landing data; its streams close, so their words complete
without data and their credits return (R451, R327). It asks for no void and no verdict any more (R452). -/
def State.abandon (s : State) (c : Nat) : State :=
  let p := s.cpart c
  let held := s.rd (PAR_CTX_CREDIT.held c)
  let drain := s.rd (PAR_CTX_CREDIT.draining c)
  let s := (s.dec (PAR_PART_CREDITS.in_use p) held).dec (PAR_PART_CREDITS.draining p) drain
  let s := (s.wr (PAR_CTX_CREDIT.held c) 0).wr (PAR_CTX_CREDIT.draining c) 0
  let mine := s.fab.streams.filter fun x => x.ctx == c
  let s := { s.dec PRT_STREAMS.opened mine.length with
    fab := { s.fab with
      streams := s.fab.streams.filter fun x => x.ctx != c, ctrlOut := s.fab.ctrlOut.filter fun m => !m.asks (s.ctx c).node },
    eng := s.eng.filter fun e => e.1 / 4096 != c }
  s.modCtx c fun k => { k with step := none, slip := 0, train := none, drove := none }

/-- The mesh and express lines of a partition are gone. -/
def State.dropLines (s : State) (p : Nat) : State :=
  { s with net := { s.net with
    mesh := s.net.mesh.filter fun e => s.partOf (e.1 / 4) != some p,
    express := s.net.express.filter fun e => s.partOf (e.1 / 4) != some p } }

/-- A tile's stream is stopped by a fault, and its units run nothing (R451; Tables 5-13, 6-7, 7-10 and 8-11). -/
def State.stopTile (s : State) (t : Nat) : State :=
  [ARY_STATUS.rate t, ARY_STATUS.ew_mode t, ARY_STATUS.drain_busy t, MVP_STATUS.active t, MVP_STATUS.queued t, MVP_STATUS.phase t,
    MVP_STATUS.set_loading t, SPR_STATUS.prune_active t, BWD_STATUS.row_bwd_active t, BWD_STATUS.freeze_active t, INS_RA.outstanding t].foldl
    (fun s f => s.wr f 0) (s.wr (INS_STATUS.stream t) 7)

/-- A fault of class 2 or above takes in a context (R451): it enters TEARDOWN, its work stops, and the partition runs nothing
until the next boundary. The first fault is kept as the cause; a context already FREE or in TEARDOWN is left alone (R452). -/
def State.tearDown (s : State) (c code cls : Nat) : State :=
  if s.cst c = stFree ∨ s.cst c = stTeardown then s
  else
    let p := s.cpart c
    let s := ((s.wr (PAR_CTX_CFG.state c) stTeardown).wr (FLT_CTX_STATUS.cause_code c) code).wr (FLT_CTX_STATUS.cause_class c) cls
    let s := if s.running p = some c then
        (s.partTiles p).foldl (fun s t => if s.hasWork c t then s.stopTile t else s)
          ((s.wr (PAR_PART_STATUS.running_valid p) 0).dropLines p)
      else s
    let s := if (s.part p).incoming = some c then
        (s.wr (PAR_PART_STATUS.evicting p) 0).modPart p fun q => { q with incoming := none }
      else s
    s.abandon c

/-- A fault's record goes on the log, where FLT_CFG admits its class, or it is of class 2 or above (R449). -/
def State.logClass (s : State) (cls : Nat) (rcd : Bytes) : State :=
  if s.rd FLT_CFG.log_min_class ≤ cls ∨ 2 ≤ cls then s.logFault rcd else s

/-- A fault recorded is counted and sent as an event, and for a class 2 or 3 fault the contexts of its scope are torn down (Table 21-1). -/
def State.reportFault (s : State) (code cls : Nat) (ctx part : Option Nat) (rcd : Bytes) : State :=
  let p := part.getD (match ctx with | some c => s.cpart c | none => 0)
  let s := s.setReg FLT_LAST (code * 2 ^ 48 + cls * 2 ^ 45 + ctx.getD 0 * 2 ^ 38 + bit ctx.isSome * 2 ^ 37 + p * 2 ^ 32 + s.tick % 2 ^ 32)
  let s := if cls % 2 = 0 then s.inc (FLT_COUNTS.even_class (cls / 2)) 1 else s.inc (FLT_COUNTS.odd_class (cls / 2)) 1
  let s := match ctx with | some c => s.inc (FLT_CTX_STATUS.faults c) 1 | none => s
  let s := s.event 3 (some cls) p (ctx.getD 0) rcd
  if cls = 2 then (match ctx with | some c => s.tearDown c code cls | none => s)
  else if cls = 3 then (match part with | some q => (s.partCtxs q).foldl (fun s c => s.tearDown c code cls) s | none => s)
  else s

/-- A fault raised: logged and reported. `space` and `index` name the detecting unit; `ctx` and `part` what it concerns. -/
def State.fault (s : State) (code cls space index : Nat) (ctx part : Option Nat) (detail : Bytes) : State :=
  let r := s.faultRecord code cls space index detail
  (r.2.logClass cls r.1).reportFault code cls ctx part r.1

/-- A fault of a tile against the context running there. -/
def State.tileFault (s : State) (t code cls : Nat) : State :=
  s.fault code cls 1 t (s.ctxOn t) (s.partOf t) []

/-- The consequence of a class 4 fault: the positions of the fields are unserved until module reset, and every context of every
partition that covers one is torn down (R445, R446). -/
def State.loseFields (s : State) (fields : List Nat) (code : Nat) : State :=
  let s := fields.foldl (fun s f => s.wrBit FLT_STATE.fields_lost f true) s
  (List.range 32).foldl (fun s p =>
    if s.built p && (s.partTiles p).any (fun t => fields.contains (tileField t))
    then (s.partCtxs p).foldl (fun s c => s.tearDown c code 4) s else s) s

/-- The consequence of a class 5 fault that leaves the rails on (R447): POWER_GOOD goes low, module_faulted is set, and every
context is torn down. -/
def State.moduleFault (s : State) (code : Nat) : State :=
  let s := s.wr FLT_STATE.module_faulted 1
  (List.range 128).foldl (fun s c => s.tearDown c code 5) { s with pins := { s.pins with powerGood := false } }

/-- The breach payload of Table 15-7. -/
def breachPayload (tick lost cause resource part amount : Nat) : Bytes :=
  leB 8 tick ++ leB 1 lost ++ leB 1 cause ++ leB 1 resource ++ leB 1 part ++ leB 4 amount

/-- Fault 0x2F01, class 1, against a context that loses a guarantee (R333). -/
def State.breach (s : State) (c lost cause resource amount : Nat) : State :=
  let p := s.cpart c
  let s := (s.wr (PAR_CTX_STATUS.breach c) 1).inc (PAR_PART_STATUS.breaches p) 1
  s.fault 0x2F01 1 0 0 (some c) (some p) (breachPayload s.tick lost cause resource p amount)

/-- A physical tile marked bad (R58, R453): the bits are set and fault 0x3502 names the tile, with the code of the mechanism
that found the failure. -/
def State.markBad (s : State) (pt mech : Nat) (tile router : Bool) : State :=
  let fd := pt / 84
  let r := pt % 84 / 14
  let s := if tile then s.wrBit (TIL_ROW_HEALTH.tile_bad fd r) (pt % 14) true else s
  let s := if router then s.wrBit (TIL_ROW_HEALTH.router_bad fd r) (pt % 14) true else s
  let which := if tile && router then 2 else if router then 1 else 0
  s.fault 0x3502 1 2 pt none none (leB 2 mech ++ leB 2 which)

end Sys2Proof.Machine
end

