-- ==== Sys2Proof/Machine/Cross.lean ====
section
/-! DEFINITION. What waits in a clock domain crossing (R231, R232, R234 to R237): events counted and not acted on, transfers held while a
clock wakes, and the crossing's bits of CDC_STOPPED. -/

namespace Sys2Proof.Machine

/-- A crossing of one unit. -/
def State.crossing (s : State) (c u : Nat) : Crossing :=
  (s.cdc.crossings.find? fun x => x.id == c && x.unit_ == u).getD { id := c, unit_ := u }

/-- CDC_STOPPED.stopped and waking, which cover every unit of a crossing (Table 11-4). -/
def State.showCrossing (s : State) (c : Nat) : State :=
  let mine := s.cdc.crossings.filter fun x => x.id == c
  (s.wrBit CDC_STOPPED.stopped c (mine.any (·.stopped))).wrBit CDC_STOPPED.waking c (mine.any (·.wake.isSome))

/-- A crossing's new condition; one at which nothing waits is not listed. -/
def State.setCrossing (s : State) (x : Crossing) : State :=
  let l := s.cdc.crossings.filter fun y => !(y.id == x.id && y.unit_ == x.unit_)
  let l := if x = { id := x.id, unit_ := x.unit_ } then l else l ++ [x]
  { s with cdc := { s.cdc with crossings := l } }.showCrossing x.id

/-- A transfer goes through at once: the crossing runs and nothing waits before it (R232), or it is the transfer that the crossing
delivers now. -/
def State.passes (s : State) (c u : Nat) : Bool :=
  let x := s.crossing c u
  s.cdc.through || (!x.stopped && x.wake.isNone && x.held.isEmpty)


/-- The events that a crossing counts (R231); anything else that waits in it is data. -/
def isEvent : Instr → Bool
  | .ackReceived .. => true
  | .linkTrained .. => true
  | .alignmentLoss .. => true
  | _ => false

/-- What does not go through: a stopped crossing fails a transfer at once (R235) and goes on counting events (R231); behind a wake, or
behind what waits already, it waits. -/
def State.keep (s : State) (c u : Nat) (i : Instr) : State :=
  let x := s.crossing c u
  if x.stopped && !isEvent i then s
  else s.setCrossing { x with ahead := (x.ahead + bit (isEvent i)) % 2 ^ 32, held := x.held ++ [i] }

/-- The crossing that a firmware command takes beyond the control die (Table 11-2): a security command goes to the root-of-trust block
(10), and a sensor read and a thermal status are answered from the service controller (9). -/
def fwCrossing (op : Nat) : Option Nat := if op / 256 = 9 then some 10 else if op = 0x0802 ∨ op = 0x0B02 then some 9 else none

/-- A wake level is raised; one that is already pending adds nothing (R236, R237). -/
def State.raiseWake (s : State) (c u : Nat) : State :=
  let x := s.crossing c u
  if x.wake.isSome then s else (s.setCrossing { x with wake := some s.hall }).inc CDC_WAKES.wakes 1

/-! ### Command intake (crossings 3 and 4) -/

/-- The receiving clock of a crossing is stopped, so far as the state shows it: the UCIe adapter's in the link's low-power state (R338), the
control die's cores' while the runtime does not run, the root-of-trust block's while it is idle, with no quote to sign and no security
command before it (Table 11-1), and that of the debug logic until a wake of crossing 11 has restarted it while debug is unlocked (R236). -/
def State.clockStopped (s : State) (c : Nat) : Bool :=
  if c = 3 ∨ c = 4 then s.pins.uciIdle
  else if c = 9 then !s.on CMD_STATUS.runtime_up
  else if c = 11 then s.rd SEC_STATUS.debug_level != 0 && !s.cdc.debugRuns
  else c == 10 && s.sec.waiting.isEmpty && !s.cmd.runtime.any fun r => fwCrossing r.op == some 10

/-- The link carries packets: its adapter's clock runs, and no wake is pending. -/
def State.linkAwake (s : State) : Bool :=
  !s.pins.uciIdle && (s.crossing 3 0).wake.isNone && (s.crossing 4 0).wake.isNone

/-- A packet arriving now waits: the link sleeps or wakes, or packets wait before it. -/
def State.linkHolds (s : State) : Bool := !s.cdc.through && !(s.linkAwake && (s.crossing 3 0).held.isEmpty)

/-- The wakes of both crossings of command intake, where the link is in its low-power state (R338). -/
def State.wakeLink (s : State) : State := if s.pins.uciIdle then (s.raiseWake 3 0).raiseWake 4 0 else s

/-- A packet that waits; in the link's low-power state it raises the wakes, so that no command is refused because the link was idle. -/
def State.holdPacket (s : State) (i : Instr) : State := s.wakeLink.keep 3 0 i

/-! ### Delivery -/

/-- What waits in a crossing can go through now. -/
def State.delivers (s : State) (x : Crossing) : Bool :=
  !x.held.isEmpty && !x.stopped && x.wake.isNone && (x.id != 3 || (s.linkAwake && !(s.crossing 4 0).stopped))

/-- The first in line of a crossing that delivers. -/
def State.nextHeld (s : State) : Option (Crossing × Instr) :=
  match s.cdc.crossings.find? s.delivers with
  | some x => match x.held with | i :: _ => some (x, i) | [] => none
  | none => none

/-- It leaves the crossing; an event is counted at the receiving side. -/
def State.release (s : State) (x : Crossing) : State :=
  let t := s.setCrossing { x with held := x.held.drop 1, ahead := x.ahead - bit ((x.held.take 1).any isEvent) }
  { t with cdc := { t.cdc with through := true } }

/-- It has gone through. -/
def State.delivered (s : State) : State := { s with cdc := { s.cdc with through := false } }

end Sys2Proof.Machine
end

