-- ==== Sys2Proof/Machine/Crypto.lean ====
section
/-! DEFINITION. The digests and checks the module computes: SHA-256 (FIPS 180-4), HMAC and HKDF over it (RFC 2104, RFC 5869),
and CRC-32C with the parameters of R249. -/

namespace Sys2Proof.Machine

/-- A 32-bit word of SHA-256. -/
abbrev W32 := BitVec 32

/-- The numbers below 312 that no smaller prime divides: the first 64 primes, from which FIPS 180-4 draws its constants. -/
def shaPrimes : List Nat :=
  (List.range 312).filter fun n => decide (2 ≤ n) && [2, 3, 5, 7, 11, 13, 17].all fun d => n == d || n % d != 0

/-- The largest number below `2 ^ bits` more than `r` whose `e`th power is at most `n`, from the highest bit down. -/
def rootFrom (e n : Nat) : Nat → Nat → Nat
  | 0, r => r
  | b + 1, r => rootFrom e n b (if (r + 2 ^ b) ^ e ≤ n then r + 2 ^ b else r)

/-- The first 32 bits of the fractional part of the `e`th root of `p`. -/
def rootBits (e p : Nat) : W32 := BitVec.ofNat 32 (rootFrom e (p * 2 ^ (32 * e)) 37 0)

/-- The round constants of SHA-256: from the cube roots of the first 64 primes. -/
def shaK : List W32 := shaPrimes.map (rootBits 3)

/-- The initial hash value of SHA-256: from the square roots of the first eight. -/
def shaInit : List W32 := (shaPrimes.take 8).map (rootBits 2)

/-- A big-endian 32-bit word from four bytes. -/
def be32 : Bytes → W32
  | a :: b :: c :: d :: _ => (a ++ b ++ c ++ d : BitVec 32)
  | _ => 0

/-- The four bytes of a word, most significant first. -/
def bytes32 (w : W32) : Bytes :=
  [(w >>> 24).setWidth 8, (w >>> 16).setWidth 8, (w >>> 8).setWidth 8, w.setWidth 8]

/-- The message schedule, newest word first, from the 16 words of a block: one word more for each round. -/
def shaExtend : Nat → List W32 → List W32
  | 0, w => w
  | n + 1, w =>
    let g (i : Nat) := w.getD i 0
    let a := g 14
    let b := g 1
    let s0 := a.rotateRight 7 ^^^ a.rotateRight 18 ^^^ a >>> 3
    let s1 := b.rotateRight 17 ^^^ b.rotateRight 19 ^^^ b >>> 10
    shaExtend n ((g 15 + s0 + g 6 + s1) :: w)

/-- One round of the compression function on the working variables a to h. -/
def shaRound (v : List W32) (kw : W32 × W32) : List W32 :=
  match v with
  | [a, b, c, d, e, f, g, h] =>
    let s1 := e.rotateRight 6 ^^^ e.rotateRight 11 ^^^ e.rotateRight 25
    let t1 := h + s1 + ((e &&& f) ^^^ (~~~e &&& g)) + kw.1 + kw.2
    let s0 := a.rotateRight 2 ^^^ a.rotateRight 13 ^^^ a.rotateRight 22
    let t2 := s0 + ((a &&& b) ^^^ (a &&& c) ^^^ (b &&& c))
    [t1 + t2, a, b, c, d + t1, e, f, g]
  | _ => v

/-- One 64-byte block compressed into the hash value. -/
def shaBlock (hv : List W32) (block : Bytes) : List W32 :=
  let w := (List.range 16).map fun i => be32 (block.drop (4 * i))
  let sched := (shaExtend 48 w.reverse).reverse
  ((shaK.zip sched).foldl shaRound hv).zipWith (· + ·) hv

/-- The blocks of a padded message of `n` blocks. -/
def shaBlocks : Nat → List W32 → Bytes → List W32
  | 0, hv, _ => hv
  | n + 1, hv, m => shaBlocks n (shaBlock hv (m.take 64)) (m.drop 64)

/-- SHA-256 of a byte string. -/
def sha256 (m : Bytes) : Bytes :=
  let pad := (119 - m.length % 64) % 64
  let len : BitVec 64 := BitVec.ofNat 64 (8 * m.length)
  let lenB : Bytes := (List.range 8).map fun i => (len >>> (56 - 8 * i)).setWidth 8
  let p := m ++ [(0x80 : Byte)] ++ List.replicate pad 0 ++ lenB
  (shaBlocks (p.length / 64) shaInit p).flatMap bytes32

/-- HMAC-SHA-256. -/
def hmac (key msg : Bytes) : Bytes :=
  let k := (if 64 < key.length then sha256 key else key)
  let k := k ++ List.replicate (64 - k.length) 0
  sha256 (k.map (· ^^^ 0x5c) ++ sha256 (k.map (· ^^^ 0x36) ++ msg))

/-- HKDF-SHA-256 with an output of 32 bytes. -/
def hkdf (ikm salt info : Bytes) : Bytes :=
  let prk := hmac salt ikm
  hmac prk (info ++ [1])

/-- HKDF-SHA-256 with empty info and an output of 48 bytes: its second block follows the first in what is hashed (RFC 5869). -/
def hkdf48 (ikm salt : Bytes) : Bytes :=
  let prk := hmac salt ikm
  let t := hmac prk [1]
  t ++ (hmac prk (t ++ [2])).take 16

/-- One byte of a CRC-32C, reflected. -/
def crcByte (crc : W32) (b : Byte) : W32 :=
  (List.range 8).foldl (fun c _ => if c.getLsbD 0 then (c >>> 1) ^^^ 0x82f63b78 else c >>> 1) (crc ^^^ b.setWidth 32)

/-- CRC-32C (R249). -/
def crc32c (m : Bytes) : W32 := m.foldl crcByte 0xffffffff ^^^ 0xffffffff

/-- ASCII bytes of a string. -/
def ascii (s : String) : Bytes := s.toList.map fun c => BitVec.ofNat 8 c.toNat

end Sys2Proof.Machine
end

