-- ==== Sys2Proof/Machine/Cmd.lean ====
section
/-! DEFINITION. The command interface: intake of a command packet (Table 16-2), the two executors, the boundary queue, the link
and the relay connections, and the commands that no other unit has a part in. -/

namespace Sys2Proof.Machine

/-- What a command acts on, for checks 6 and 7 of Table 16-2. -/
inductive Scope where
  | none | partition | context
deriving DecidableEq, Repr

/-- The outcome of every meaning: a next state. -/
abbrev Result := Host.Outcome State Fault Refusal

/-- The commands that R447 admits while the module is faulted. -/
def faultedOk (op : Nat) : Bool := op == 0x0001 || op == 0x0101 || op == 0x0703 || op == 0x0803

/-- The commands that the runtime firmware executes (F in Table 16-3). -/
def fwOps : List Nat := [0x0201, 0x0202, 0x0203, 0x0204, 0x0205, 0x0301, 0x0304, 0x0401, 0x0402, 0x0405, 0x0406, 0x0407, 0x0408, 0x0409, 0x040A,
  0x0504, 0x0505, 0x0602, 0x0603, 0x0604, 0x0605, 0x0606, 0x0607, 0x0609, 0x060A, 0x060B, 0x060C, 0x0802, 0x0901, 0x0902, 0x0903, 0x0904,
  0x0905, 0x0906, 0x0907, 0x0A01, 0x0B01, 0x0B02, 0x0B03, 0x0B04, 0x0B05, 0x0B06]

/-- A faulted module refuses a command (R447). Of a module whose runtime firmware was not accepted, faulted as it is, R420 says that F commands
complete with 0x0301: there they pass (DEDUCED, log 71). -/
def State.refusesFaulted (s : State) (op : Nat) : Bool :=
  s.on FLT_STATE.module_faulted && !faultedOk op && !(s.rd SEC_STATUS.boot_state == 4 && fwOps.contains op)

/-- Checks 4 to 9 of Table 16-2, R447's refusal after check 4: the status of the first that fails, 0 when all pass. -/
def State.intake (s : State) (h : Hdr) (op : Nat) (lenOk : Bool) (sc : Scope) : Nat :=
  if h.length % 8 ≠ 0 ∨ 4096 < h.length ∨ !lenOk then 0x0102
  else if s.refusesFaulted op then 0x0703
  else if !s.rdBit (CMD_CHAN_CFG.group_mask h.channel) (op / 256) then 0x0602
  else if sc ≠ .none ∧ !s.rdBit (CMD_CHAN_CFG.partition_mask h.channel) h.partition then 0x0601
  else if sc = .context ∧ (s.cst h.context = stFree ∨ s.cst h.context = stTeardown ∨ s.cpart h.context ≠ h.partition) then 0x0105
  else if (s.chan h.channel).outst.any fun o => o.tag == h.tag then 0x0106
  else if h.deadlineEn && decide (h.deadline < s.hall) then 0x0501
  else 0

/-- The header fields of Table 16-1 that a module's packet carries: version, flags, opcode, tag, channel with partition and context, payload
length, status, credits, deadline (zero: it is a command's field) and hall time. -/
def Packet.header (p : Packet) (ch : Nat) : Bytes :=
  leB 1 1 ++ leB 1 (64 * bit p.timeUnlocked + 8 * bit p.duplicate + 4 * bit p.pending + 2 * bit p.event + bit (!p.event)) ++
    leB 2 p.opcode ++ leB 4 p.tag ++ leB 2 (ch * 2 ^ 12 + p.partition * 2 ^ 7 + p.context) ++ leB 2 p.payload.length ++
    leB 2 p.status ++ leB 2 p.credits ++ leB 8 0 ++ leB 8 p.hall

/-- A packet as the link carries it (R342): header, payload, and the CRC-32C of both. -/
def Packet.bytes (p : Packet) (ch : Nat) : Bytes :=
  let m := p.header ch ++ p.payload
  m ++ leB 4 (crc32c m).toNat

/-- The header of a command packet (Table 16-1). -/
def packetHdr (p : Bytes) : Hdr :=
  { channel := bits (leAt p 8 2) 12 3, tag := leAt p 4 4, partition := bits (leAt p 8 2) 7 5, context := bits (leAt p 8 2) 0 7,
    length := leAt p 10 2, deadlineEn := bits (leAt p 1 1) 4 1 == 1, deadline := leAt p 16 8, relayed := bits (leAt p 1 1) 5 1 == 1,
    prompt := true }

/-- Check 1 of Table 16-2: the trailer is the CRC-32C of what stands before it. -/
def packetCrcOk (p : Bytes) : Bool := (crc32c (p.take (p.length - 4))).toNat == leAt p (p.length - 4) 4

/-- Check 3 of Table 16-2: the opcodes of Table 16-3 with those that chapters 17, 20 and 21 add, by group from number 1 on (group 0 too). -/
def opcodeAssigned (op : Nat) : Bool :=
  match ([2, 2, 9, 4, 10, 5, 12, 3, 3, 7, 2, 6, 3] : List Nat)[op / 256]? with
  | some n => decide (1 ≤ op % 256) && decide (op % 256 ≤ n)
  | none => false

/-- Some management port holds channel `ch`. -/
def State.channelHeld (s : State) (ch : Nat) : Bool := (List.range 2).any fun m => s.rdBit (CMD_MGMT_STATUS.held m) ch

/-- A packet that a client sends over a management port does not come through: no connection holds its channel, and channel 0 is never
relayed (R340). One that has reached a crossing has come through. -/
def State.unrelayed (s : State) (h : Hdr) : Bool :=
  h.relayed && !s.cdc.through && !(decide (1 ≤ h.channel) && s.channelHeld h.channel)

/-- A packet arrives on its channel: it is counted as relayed when a connection holds its channel (R340). -/
def State.arrive (s : State) (h : Hdr) : State :=
  if h.relayed then
    (List.range 2).foldl (fun s m =>
      if s.rdBit (CMD_MGMT_STATUS.held m) h.channel then s.inc (CMD_MGMT_COUNTS.relayed m) 1 else s) s
  else s

/-- The sender holds no credit: all 64 of the channel's are held by packets received and not counted back (R341). -/
def State.overrun (s : State) (h : Hdr) : Bool := decide (64 ≤ s.rd (CMD_CHAN_STATUS.outstanding h.channel))

/-- A packet takes a credit. -/
def State.takeCredit (s : State) (h : Hdr) : State :=
  s.wr (CMD_CHAN_STATUS.outstanding h.channel) (s.rd (CMD_CHAN_STATUS.outstanding h.channel) + 1)

/-- A command refused at intake: counted, and answered with its one final reply (R343, R346). -/
def State.refuse (s : State) (h : Hdr) (op status : Nat) : State :=
  (s.inc (CMD_CHAN_COUNTS.refused h.channel) 1).sendReply h op status 1 [] false

/-- A command accepted: counted, and outstanding until its final reply. -/
def State.accept (s : State) (h : Hdr) (op : Nat) : State :=
  let s := s.inc (CMD_CHAN_COUNTS.accepted h.channel) 1
  let c := s.chan h.channel
  s.setChan h.channel { c with outst := c.outst ++
    [(⟨op, h.tag, h.partition, h.context, false, if h.deadlineEn then some h.deadline else none⟩ : Outst)] }

/-- A module that a class 5 fault has kept from POWER_GOOD has its link from the end of P7 (R430, R447; log 71). -/
def State.faultedUp (s : State) : Bool := s.on FLT_STATE.module_faulted && s.pins.p7

/-- The module takes packets: it is up, and neither crossing of command intake is stopped (R234, R235). -/
def State.linkUp (s : State) : Bool := (s.up || s.faultedUp) && !s.rdBit CDC_STOPPED.stopped 3 && !s.rdBit CDC_STOPPED.stopped 4

/-- A command that the command engine executes: intake, its own parameter checks (`param`, 0 when they pass), then its effect.
While the module is not up no packet reaches it, and one that comes while the link sleeps waits (R338). -/
def State.command (s : State) (cmd : Instr) (h : Hdr) (op : Nat) (lenOk : Bool) (sc : Scope) (param : State → Nat) (effect : State → State) :
    State :=
  if !s.linkUp || s.unrelayed h then s
  else if s.linkHolds then s.holdPacket cmd
  else
    let s := s.arrive h
    if s.overrun h then s.wr CMD_STATUS.overrun 1
    else
      let s := s.takeCredit h
      let st := s.intake h op lenOk sc
      if st ≠ 0 then s.refuse h op st
      else
        let st := param s
        if st ≠ 0 then s.refuse h op st else effect (s.accept h op)

/-- The boundaries that pass before the one a command accepted now takes effect at (R43): none when it is accepted more than
the staging guard before the next boundary, else one. -/
def State.guardWait (s : State) : Nat :=
  if s.hall + s.rd TIM_BOUNDARY.guard_us * 1000 < s.tickStart s.time.nextTick then 0 else 1

/-- What the runtime firmware does with a command: its opcode, whether the length is in range, what it acts on, its own parameter
checks, its effect, and what a refusal with a status of its own leaves beside the reply (a count, an assembly discarded). -/
structure Fw where
  op : Nat
  lenOk : Bool
  scope : Scope
  check : State → Nat
  act : State → State
  onRefusal : Nat → State → State := fun _ s => s

/-- The firmware reaches what carries a command out: one that takes a crossing waits while that wakes, and does not come through while it is
stopped (R235, R236, R415). -/
def State.reaches (s : State) (op : Nat) : Bool :=
  match fwCrossing op with
  | some c => !(s.crossing c 0).stopped && (s.crossing c 0).wake.isNone
  | none => true

/-- A command held by the firmware stands before this one at the same crossing (R232). -/
def State.waitsBehind (s : State) (op : Nat) : Bool :=
  match fwCrossing op with
  | some c => s.cmd.runtime.any fun r => fwCrossing r.op == some c
  | none => false

/-- A command that takes the crossing to an idle root-of-trust block wakes it (R236): at once where the firmware answers promptly, so that the
wake is acknowledged before anything else happens; else it waits for the wake. -/
def State.wakeFor (s : State) (op : Nat) (now : Bool) : State :=
  if fwCrossing op = some 10 ∧ s.clockStopped 10 = true then (if now then s.inc CDC_WAKES.wakes 1 else s.raiseWake 10 0) else s

/-- Two parts of one image being staged, which are one update. -/
def sameStage : Instr → Instr → Bool
  | .firmwareUpdateStage h .., .firmwareUpdateStage g .. => h.channel == g.channel && h.context == g.context
  | _, _ => false

/-- An update command while another update is in progress: one accepted and not yet completed (R426; log 45). -/
def State.installing (s : State) (op : Nat) (cmd : Instr) : Bool :=
  op == 0x0906 && s.cmd.runtime.any fun r => r.op == 0x0906 && !sameStage r.cmd cmd

/-- A command that the runtime firmware executes: it completes with 0x0301 while the firmware is not running (R348); else it is carried
out at once where the firmware answers promptly, and held until it replies where it does not, which its first reply says (R346). -/
def State.fwCommand (s : State) (h : Hdr) (f : Fw) (cmd : Instr) : State :=
  if !s.linkUp || s.unrelayed h then s
  else if s.linkHolds then s.holdPacket cmd
  else
    let s := s.arrive h
    if s.overrun h then s.wr CMD_STATUS.overrun 1
    else
      let s := s.takeCredit h
      let st := s.intake h f.op f.lenOk f.scope
      if st ≠ 0 then s.refuse h f.op st
      else if !s.on CMD_STATUS.runtime_up then (s.accept h f.op).reply h f.op 0x0301
      else
        let st := f.check s
        if s.installing f.op cmd then s.refuse h f.op 0x0290
        else if st ≠ 0 then (f.onRefusal st s).refuse h f.op st
        else if h.prompt && s.reaches f.op && !s.waitsBehind f.op then f.act ((s.wakeFor f.op true).accept h f.op)
        else
          let s := ((s.wakeFor f.op false).accept h f.op).reply h f.op 1
          { s with cmd := { s.cmd with runtime := s.cmd.runtime ++ [(⟨s.hall, s.time.nextTick + s.guardWait, f.op, h, cmd⟩ : RtCmd)] } }

/-- A command put on the boundary queue, with its pending reply (R346). -/
def State.stage (s : State) (h : Hdr) (op : Nat) (cmd : Instr) : State :=
  let s := { s with cmd := { s.cmd with staged := s.cmd.staged ++ [(⟨s.guardWait, op, h, cmd⟩ : Staged)] } }
  s.reply h op 1

/-- DEVICE_IDENTITY: the payload of Table 16-4 (R350). -/
def State.identity (s : State) : Bytes :=
  let served := ((List.range 3528).filter fun t => !s.unserved t).length
  padTo 16 [0x4b, 0x47, 0x57, 0x37, 0x2d, 0x41, 0x34, 0x38] ++ leB 2 0x00B0 ++ [0x41] ++ leB 5 0 ++
    leB 4 (s.rd SEC_VERSION.tfw_version) ++ leB 4 (if s.on CMD_STATUS.runtime_up then s.rd SEC_VERSION.rfw_version else 0) ++
    leB 16 (Config.serialNumber.toNat) ++ leB 2 served ++ leB 2 (s.rd STK_PRESENT.present) ++ leB 12 0

def execDeviceIdentity (h : Hdr) (s : State) : Result :=
  .next (s.command (.deviceIdentity h) h 0x0001 (h.length == 0) .none (fun _ => 0) fun s => s.reply h 0x0001 0 s.identity)

/-- ECHO: the bytes of its payload unchanged (R349). -/
def execEcho (h : Hdr) (data : Bytes) (s : State) : Result :=
  .next (s.command (.echo h data) h 0x0002 (h.length == data.length) .none (fun _ => 0) fun s => s.reply h 0x0002 0 data)

/-- OPCODE_UNASSIGNED: a packet that fails check 1, 2 or 3 of Table 16-2. One whose trailer CRC fails is discarded, and its
credit is owed to the next packet on the channel. One that fails none of them is the command of another row
(`packetCommand`, Packet.lean), and nothing comes of it here. -/
def State.badPacket (s : State) (packet : Bytes) : State :=
  let h := packetHdr packet
  let st := if leAt packet 0 1 ≠ 1 then 0x0101 else if opcodeAssigned (leAt packet 2 2) then 0 else 0x0103
  if !s.linkUp || s.unrelayed h || (packetCrcOk packet && st == 0) then s
  else if s.linkHolds then s.holdPacket (.opcodeUnassigned packet none)
  else
    let s := s.arrive h
    if s.overrun h then s.wr CMD_STATUS.overrun 1
    else
      let s := s.takeCredit h
      if !packetCrcOk packet then
        let c := s.chan h.channel
        ((s.inc (CMD_CHAN_COUNTS.crc_discards h.channel) 1).wr CMD_STATUS.crc_error 1).setChan h.channel
          { c with owed := c.owed + 1 }
      else s.refuse h (leAt packet 2 2) st

/-! ### Packets that a crossing holds -/

/-- SEC_COUNTS of a status (Table 19-8): 0x0640 and 0x0641 to 0x0645 are counted. -/
def secCount (st : Nat) (s : State) : State :=
  if st = 0x0640 then s.inc SEC_COUNTS.sig_failures 1
  else if 0x0641 ≤ st ∧ st ≤ 0x0645 then s.inc SEC_COUNTS.refusals 1 else s

/-- The opcode (Table 16-3) and the header of a command that a packet carries. -/
def packetOf : Instr → Option (Nat × Hdr)
  | .deviceIdentity h => some (0x0001, h)
  | .echo h .. => some (0x0002, h)
  | .configurationRead h .. => some (0x0101, h)
  | .configurationWrite h .. => some (0x0102, h)
  | .tilNumStatusClearCount h .. => some (0x0102, h)
  | .tilSramEccClearCount h .. => some (0x0102, h)
  | .tilCounterCtrlClearAll h .. => some (0x0102, h)
  | .aryQueueSelWrite h .. => some (0x0102, h)
  | .bwdCtrlClearTags h .. => some (0x0102, h)
  | .stkEccClearCount h .. => some (0x0102, h)
  | .tilRowMapWrite h .. => some (0x0102, h)
  | .calBistCtrlStart h .. => some (0x0102, h)
  | .portEnable h .. => some (0x0102, h)
  | .portDisable h .. => some (0x0102, h)
  | .mgmtAddressWrite h .. => some (0x0102, h)
  | .partitionBuild h .. => some (0x0201, h)
  | .partitionDissolve h => some (0x0202, h)
  | .partitionRelocate h .. => some (0x0203, h)
  | .contextCreate h .. => some (0x0204, h)
  | .contextDestroy h => some (0x0205, h)
  | .sliceTableSet h .. => some (0x0206, h)
  | .contextPreEmpt h .. => some (0x0207, h)
  | .freeAreaQuery h => some (0x0208, h)
  | .slowdownRead h .. => some (0x0209, h)
  | .programOpen h .. => some (0x0301, h)
  | .programData h .. => some (0x0302, h)
  | .programFetch h .. => some (0x0303, h)
  | .programCommit h => some (0x0304, h)
  | .weightSetOpen h .. => some (0x0401, h)
  | .storageRead h .. => some (0x0402, h)
  | .weightSetCommit h .. => some (0x0403, h)
  | .weightSetSwitch h .. => some (0x0404, h)
  | .weightSetRelease h .. => some (0x0405, h)
  | .weightSetDigest h .. => some (0x0406, h)
  | .adapterLoad h .. => some (0x0407, h)
  | .adapterDrop h .. => some (0x0408, h)
  | .storageConnect h .. => some (0x0409, h)
  | .storageDisconnect h .. => some (0x040A, h)
  | .sequenceAdmit h .. => some (0x0501, h)
  | .sequenceCancel h .. => some (0x0502, h)
  | .sequenceQuery h .. => some (0x0503, h)
  | .servingConfigure h .. => some (0x0504, h)
  | .ringConfigure h .. => some (0x0505, h)
  | .trainingStep h .. => some (0x0601, h)
  | .rosterTree h .. => some (0x0603, h)
  | .jobStartStatus h .. => some (0x0602, h)
  | .inputLogRead h .. => some (0x0604, h)
  | .inputLogConfigure h .. => some (0x060B, h)
  | .inputLogLoad h .. => some (0x060C, h)
  | .jobStartArm h .. => some (0x0605, h)
  | .jobStartBroadcast h .. => some (0x0606, h)
  | .streamOpen h .. => some (0x0607, h)
  | .streamClose h .. => some (0x0608, h)
  | .mirrorConfigure h .. => some (0x0609, h)
  | .mirrorAccept h .. => some (0x060A, h)
  | .tickSetDirect h .. => some (0x0701, h)
  | .tickSetEffective h .. => some (0x0701, h)
  | .timeStep h .. => some (0x0702, h)
  | .timeStatus h => some (0x0703, h)
  | .counterSnapshot h .. => some (0x0801, h)
  | .sensorRead h => some (0x0802, h)
  | .faultLogRead h .. => some (0x0803, h)
  | .measurementRead h => some (0x0901, h)
  | .measurementExtend h .. => some (0x0901, h)
  | .certificateRead h .. => some (0x0901, h)
  | .attestationQuote h .. => some (0x0902, h)
  | .quoteRead h .. => some (0x0902, h)
  | .sessionEstablishKey h => some (0x0903, h)
  | .sessionEstablishCiphertext h .. => some (0x0903, h)
  | .streamKeySet h .. => some (0x0904, h)
  | .debugUnlockChallenge h .. => some (0x0905, h)
  | .debugUnlockResponse h .. => some (0x0905, h)
  | .firmwareUpdateInstall h .. => some (0x0906, h)
  | .firmwareUpdateStage h .. => some (0x0906, h)
  | .firmwareUpdateFloor h .. => some (0x0906, h)
  | .keyEnrolment h .. => some (0x0907, h)
  | .traceEnable h .. => some (0x0A01, h)
  | .traceDisable h => some (0x0A02, h)
  | .powerCapSet h .. => some (0x0B01, h)
  | .thermalStatus h => some (0x0B02, h)
  | .calibrationRead h .. => some (0x0B03, h)
  | .calibrationWrite h .. => some (0x0B04, h)
  | .calibrationCommit h => some (0x0B05, h)
  | .calibrationRestore h .. => some (0x0B06, h)
  | .resultRead h .. => some (0x0C01, h)
  | .resultRelease h .. => some (0x0C02, h)
  | .retentionSet h .. => some (0x0C03, h)
  | .opcodeUnassigned p none => some (leAt p 2 2, packetHdr p)
  | _ => none

/-- A packet that waited in a crossing of command intake that stops: it is answered with an error (R234), of the 0x07xx group, of which the spec
names no number (a free value, log 55). -/
def State.failPacket (s : State) (i : Instr) : State :=
  match packetOf i with
  | none => s
  | some (op, h) =>
    let s := s.arrive h
    if s.overrun h then s.wr CMD_STATUS.overrun 1 else (s.takeCredit h).refuse h op (0x0700 + Config.crossingError.toNat)

/-- A command that its deadline ends: hall time has passed it, and the command completes with 0x0502. -/
def State.expire (s : State) (h : Hdr) (op : Nat) : State :=
  ({ s with hall := max s.hall (h.deadline + 1) }).reply h op 0x0502

/-- The events-lost event follows as soon as a place frees (R363). -/
def State.tellLost (s : State) (ch : Nat) : State :=
  let c := s.chan ch
  if c.lost = 0 then s
  else if s.takesEvent ch 7 none && decide (ordinaryPlaces c.queue < 960) then
    (s.setChan ch { c with lost := 0 }).eventOn ch 7 0 0 0 (leB 8 c.lost)
  else s

/-- The packets of a channel leave over the link, those that waited for a place take one, and an events-lost event follows. -/
def State.drain (s : State) (ch : Nat) : State :=
  let c := s.chan ch
  (({ s with cmd := { s.cmd with sent := s.cmd.sent ++ c.queue.map fun (p : Packet) => p.bytes ch } }).setChan ch ({ c with queue := [] } : Chan).refill).tellLost ch

/-- One nanosecond of hall time passes with no command waiting: the packets of every channel that is not stalled leave over the link, unless
a crossing of the link is stopped or the link sleeps, when they raise its wakes (R236); the service replies leave (DESIGN CHOICE, log 10).
-/
def State.idle (s : State) : State :=
  let s := if (List.range 8).any fun ch => !s.rdBit CMD_STATUS.stalled ch && !(s.chan ch).queue.isEmpty then s.wakeLink else s
  let s := { s with cmd := { s.cmd with sent := [] } }
  let cut := s.rdBit CDC_STOPPED.stopped 3 || s.rdBit CDC_STOPPED.stopped 4 || !s.linkAwake
  let s := (List.range 8).foldl (fun s ch =>
    if cut || s.rdBit CMD_STATUS.stalled ch || (s.chan ch).queue.isEmpty then s else s.drain ch) s
  { s with hall := s.hall + 1, pins := { s.pins with replies := [], removing := false } }

/-- RETURN_TIMEOUT (R363): the link has refused the channel's packets beyond return_timeout: the channel is stalled, and its
queued events below class 2 are discarded and counted as lost, which the event 0x0007 tells in a place they leave. The credits that they
would have returned are owed again (R341). -/
def State.returnTimeout (s : State) (ch : Nat) : State :=
  let c := s.chan ch
  if !s.up || c.queue.isEmpty || s.rdBit CMD_STATUS.stalled ch then s
  else
    let gone := c.queue.filter fun p => p.event && decide (p.cls < 2)
    let back := (gone.map (·.credits)).sum
    let s := { s with hall := s.hall + s.rd CMD_CFG.return_timeout * 1000000 }
    let s := ((s.wrBit CMD_STATUS.stalled ch true).inc (CMD_CHAN_EVENTS.events_lost ch) gone.length).inc (CMD_CHAN_STATUS.outstanding ch) back
    (s.setChan ch ({ c with queue := c.queue.filter fun p => !(p.event && decide (p.cls < 2)), lost := c.lost + gone.length, owed := c.owed + back } :
      Chan).refill).tellLost ch

def execReturnTimeout (channel : Nat) (s : State) : Result := .next (s.returnTimeout channel)

/-- LINK_ACCEPTS_AGAIN (R363): stalled clears and the channel's packets go out, the events-lost event among them. -/
def State.linkAccepts (s : State) (ch : Nat) : State :=
  if s.rdBit CMD_STATUS.stalled ch then ((s.wrBit CMD_STATUS.stalled ch false).tellLost ch).drain ch else s

def execLinkAcceptsAgain (channel : Nat) (s : State) : Result := .next (s.linkAccepts channel)

/-- LINK_LOW_POWER_ENTRY (R338): the UCIe link enters its low-power state and the adapter clock stops. -/
def execLinkLowPowerEntry (s : State) : Result :=
  .next (if s.up then { s with pins := { s.pins with uciIdle := true } } else s)

/-- RELAY_CONNECTION (R340): a client whose key the configuration image's relay table binds to a channel that no connection
holds takes the channel; any other is refused. While the runtime is not running no connection is accepted (R339). -/
def State.relayConnect (s : State) (m : Nat) (key : Bytes) : State :=
  if !s.up || !s.on CMD_STATUS.runtime_up || !s.on (CMD_MGMT_STATUS.link_up m) then s
  else match s.relayTable.find? fun e => e.1 == key with
    | some (_, ch) =>
      if 1 ≤ ch ∧ ch ≤ 7 ∧ !s.channelHeld ch then s.wrBit (CMD_MGMT_STATUS.held m) ch true
      else s.inc (CMD_MGMT_COUNTS.refused m) 1
    | none => s.inc (CMD_MGMT_COUNTS.refused m) 1

def execRelayConnection (m : Nat) (clientKeyHash : Bytes) (s : State) : Result := .next (s.relayConnect m clientKeyHash)

/-- The runtime's check of a packet on a relay connection (R340): its length field agrees with its size, and its channel field names the
channel the connection is bound to. -/
def relayOk (channel : Nat) (packet : Bytes) : Bool :=
  packet.length == 36 + leAt packet 10 2 && bits (leAt packet 8 2) 12 3 == channel

/-- RELAY_CONNECTION_END (R340): the channel is no longer held: the client ended its connection, or the runtime did on a packet that failed
its check, which is counted. On one that passes it does not. -/
def State.relayEnd (s : State) (m channel : Nat) (packet : Option Bytes) : State :=
  if !s.rdBit (CMD_MGMT_STATUS.held m) channel then s
  else match packet with
    | none => s.wrBit (CMD_MGMT_STATUS.held m) channel false
    | some p =>
      if relayOk channel p then s else (s.wrBit (CMD_MGMT_STATUS.held m) channel false).inc (CMD_MGMT_COUNTS.refused m) 1

def execRelayConnectionEnd (m channel : Nat) (packet : Option Bytes) (s : State) : Result := .next (s.relayEnd m channel packet)

end Sys2Proof.Machine
end

