-- ==== Sys2Proof/Machine/Underlay.lean ====
section
/-! DEFINITION. The underlay network (R214): its nodes, the way of a packet, the lines that a field node forwards, and the counters of waits that
time alone moves. -/

namespace Sys2Proof.Machine

/-- A tile counter raised by `n` unless the counters are frozen (R115). -/
def State.count (s : State) (t : Nat) (f : RF) (n : Nat) : State :=
  if s.on (TIL_COUNTER_CTRL.freeze t) then s else s.inc f n

/-- Something has waited where the counter at address `a` counts, so that it shows an open amount more when it is next read (log 44). -/
def State.stir (s : State) (a : Nat) : State :=
  { s with net := { s.net with stirred := if s.net.stirred.contains a then s.net.stirred else a :: s.net.stirred } }

/-- Requester `r` of Table 5-2 reaches for the banks of a tile, which may refuse it (R100). -/
def State.contends (s : State) (t r : Nat) : State := s.stir (TIL_ARB_DENY.deny_cycles t r).addr

/-- Field nodes by their coordinates; those of the rim attachments (Table 10-2). -/
def fieldNode (fd : Nat) : Nat × Nat := (fd % 7, fd / 7)
def stackNode (k : Nat) : Nat × Nat := (if k < 6 then 0 else 6, k % 6 + (if k % 6 < 3 then 0 else 1))
def portNode (die : Nat) : Nat × Nat := if die < 8 then (7 * die / 8, 0) else (7 * (die - 8) / 8, 6)
def bridgeNode : Nat × Nat := (0, 3)

/-- The node of the field that a tile lies in. -/
def tileNode (t : Nat) : Nat × Nat := fieldNode (tileField t)

/-- The coordinates from `a` to `b`, `a` first. -/
def coords (a b : Nat) : List Nat :=
  if a ≤ b then (List.range (b - a + 1)).map (a + ·) else (List.range (a - b + 1)).map (a - ·)

/-- The field nodes on a packet's way: first along fx, then along fy. -/
def underlayPath (a b : Nat × Nat) : List (Nat × Nat) := (coords a.1 b.1).map (·, a.2) ++ ((coords a.2 b.2).drop 1).map (b.1, ·)

/-- The number of the field of a node. -/
def nodeField (q : Nat × Nat) : Nat := 7 * q.2 + q.1

/-- The output of a node towards the next on the way (0 north, 1 east, 2 south, 3 west). -/
def towards (q r : Nat × Nat) : Nat := if r.2 < q.2 then 0 else if q.1 < r.1 then 1 else if q.2 < r.2 then 2 else 3

/-- Lines forwarded by every field node on their way, any of which may let them wait at its output; `toTile`: they leave the last node over
a down-link. -/
def State.underlay (s : State) (a b : Nat × Nat) (n : Nat) (toTile : Bool := false) : State :=
  let path := underlayPath a b
  let s := path.foldl (fun s q => s.inc (NET_UL_LINES.ul_lines (nodeField q)) n) s
  let s := (path.zip (path.drop 1)).foldl (fun s h => s.stir (NET_UL_WAIT.ul_wait (nodeField h.1) (towards h.1 h.2)).addr) s
  if toTile then s.stir (NET_UL_WAIT.ul_wait (nodeField b) 4).addr else s

end Sys2Proof.Machine
end

