-- ==== Sys2Proof/Machine/Share.lean ====
section
/-! DEFINITION. Shares and stack space: the portions of each tile memory a context holds (R318 to R320), their clearing and
their move between tiles and stacks (R326, R331), the partition's stack space (R221, R222), and the engine state that a switch
saves and restores (R200, R205, R324). -/

namespace Sys2Proof.Machine

/-- The lines of a run of bytes: the first, and how many. -/
def linesOf (a n : Nat) : Nat × Nat := (a / 256, if n = 0 then 0 else (a + n - 1) / 256 - a / 256 + 1)

/-- The physical tile of a byte of tile memory, and the byte's offset in it. -/
def tileOfAddr (a : Nat) : Option (Nat × Nat) :=
  if a < 2 ^ 41 then none else some ((a - 2 ^ 41) / 2 ^ 25, (a - 2 ^ 41) % 2 ^ 25)

/-- The parts of a tile memory map that a share `base`, `lines` takes: start, end (Table 15-1; the tags beside the records). -/
def shareParts (base lines : Nat) : List (Nat × Nat) :=
  let por (e : Nat) := (e * base / 81920, e * (base + lines) / 81920)
  let mk (off size : Nat) (q : Nat × Nat) := (off + size * q.1, off + size * q.2)
  [(256 * base, 256 * (base + lines)), mk cimemOff 64 (por 8192), mk aimemOff 16 (por 8192), mk scaleOff 64 (por 8192),
   mk maskOff 256 (por 8192), mk statOff 8 (por 32768), mk tagOff 1 (por 32768)]

/-- The place of a tile memory offset in the image of a share: the parts one after another (DESIGN CHOICE, log 9). -/
def shareIndex : List (Nat × Nat) → Nat → Option Nat
  | [], _ => none
  | (a, b) :: t, off => if a ≤ off ∧ off < b then some (off - a) else (shareIndex t off).map (· + (b - a))

/-- The tile memory offset at a place of a share's image. -/
def shareOffset : List (Nat × Nat) → Nat → Option Nat
  | [], _ => none
  | (a, b) :: t, i => if i < b - a then some (a + i) else shareOffset t (i - (b - a))

/-- Clears a share in a list of physical tiles. -/
def State.clearShareIn (s : State) (pts : List Nat) (base lines : Nat) : State :=
  let parts := shareParts base lines
  s.clearMem fun a => match tileOfAddr a with
    | some (pt, off) => pts.contains pt && (shareIndex parts off).isSome
    | none => false

/-- The tile registers that are engine state, by offset: saved and restored with a context (R95, R134, R154, R177, R205, R227,
R267). -/
def savedOffsets : List Nat := [0x400, 0xe00, 0x1000, 0x1008, 0x1408, 0x1800, 0x1808, 0x1810, 0x1818, 0x1820, 0x1840, 0x1848, 0x1850, 0x1858,
  0x1c00, 0x2000]

/-- The address of a tile register. -/
def tileReg (t off : Nat) : Nat := 2 ^ 40 + t * 2 ^ 27 + off

/-- The RW fields of a register stand, and the others take their reset values (R12). -/
def State.keepRw (s : State) (a : Nat) : Nat :=
  match regAtOffset (addrSpace a) (addrOffset a) with
  | some r => r.fields.foldl (fun v f => match f.acc with | .rw => setBits v f.lo f.width (bits (s.reg a) f.lo f.width) | _ => v) (regReset a)
  | none => regReset a

/-- The engine state that a tile's registers hold is cleared: what a switch saves, and the views of the array, the queues and the
run-ahead engine. Of NET_RT_STATUS only the settings are engine state (R227); an RW field, such as SPR_CTRL.strict, stands (R12). -/
def State.clearEngineRegs (s : State) (t : Nat) : State :=
  (savedOffsets ++ [0xc00, 0xc48]).foldl (fun s o =>
    let a := tileReg t o
    s.setReg a (if o = 0x2000 then setBits (regReset a) 35 7 (bits (s.reg a) 35 7) else s.keepRw a)) s

/-! ### Fabric words and their credits (Table 9-8, R327) -/

def awOp (w : Nat) : Nat := bits w 124 4
def awLen (w : Nat) : Nat := bits w 81 16

/-- Credits that a fabric word takes at issue: a receive word's length (R378). -/
def awCredits (w : Nat) : Nat := if awOp w = 6 then (256 * awLen w + 4095) / 4096 else 0

/-- A fabric word that is still outstanding at the port engines. -/
def AccessFlight.outside (f : AccessFlight) : Bool := (awOp f.word == 6 || awOp f.word == 7) && !f.done && !f.dead

/-- The credits of a switched-out context's draining words, as its registers and its partition's show them (R327, R328). -/
def State.showDraining (s : State) (c : Nat) : State :=
  let p := s.cpart c
  let n := if s.running p = some c then 0 else (s.partTiles p).foldl (fun n t =>
    ((s.engOf c t).flight.filter AccessFlight.outside).foldl (fun n f => n + awCredits f.word) n) 0
  let old := s.rd (PAR_CTX_CREDIT.draining c)
  (s.wr (PAR_CTX_CREDIT.draining c) n).wr (PAR_PART_CREDITS.draining p) (s.rd (PAR_PART_CREDITS.draining p) - old + n)

/-- Credits of a context taken or returned (R327). -/
def State.takeCredits (s : State) (c n : Nat) : State :=
  (s.wr (PAR_CTX_CREDIT.held c) (s.rd (PAR_CTX_CREDIT.held c) + n)).wr (PAR_PART_CREDITS.in_use (s.cpart c))
    (s.rd (PAR_PART_CREDITS.in_use (s.cpart c)) + n)
def State.giveCredits (s : State) (c n : Nat) : State :=
  (s.dec (PAR_CTX_CREDIT.held c) n).dec (PAR_PART_CREDITS.in_use (s.cpart c)) n

/-- The credits that words in flight hold: those of a word whose data have moved came back then. -/
def flightCredits (l : List AccessFlight) : Nat := ((l.filter fun f => !f.done).map fun f => awCredits f.word).sum

/-- The credits of a context's words in flight on tiles, which are cancelled, return to its pool. -/
def State.cancelWords (s : State) (c : Nat) (tiles : List Nat) : State :=
  let n := (tiles.map fun t => flightCredits (s.engOf c t).flight).sum
  let s := tiles.foldl (fun s t => s.modEng c t fun e => { e with flight := [] }) s
  if n = 0 then s else (s.giveCredits c n).showDraining c

/-- A share is held in tile memory (R320). -/
def State.inTiles (s : State) (c : Nat) : Bool :=
  s.cst c == stResident || s.cst c == stRunning ||
    (s.cst c == stHold && ((s.ctx c).heldFrom == stResident || (s.ctx c).heldFrom == stRunning))

/-- A context's engine state stands in the tiles: its share does, or was lost there (RELOAD), or it was so before THERMAL_HOLD. -/
def State.inEngines (s : State) (c : Nat) : Bool :=
  s.inTiles c || s.cst c == stReload || (s.cst c == stHold && (s.ctx c).heldFrom == stReload)

/-- Clears what R61 names in a list of logical tiles and their physical tiles: SRAM, instruction memories, statistics side
memory, accumulators and engine state. The engine state of a context whose share lies in the stacks lies there with it (R318, R454). -/
def State.clearTiles (s : State) (tiles pts : List Nat) : State :=
  let s := s.clearMem fun a => match tileOfAddr a with
    | some (pt, off) => pts.contains pt && (decide (off < scaleOff) || decide (statOff ≤ off))
    | none => false
  let s := { s with net := { s.net with parked := s.net.parked.filter fun e => !tiles.contains e.1 } }
  let s := ((List.range 128).filter s.inEngines).foldl (fun s c => s.cancelWords c (tiles.filter fun t => s.covers (s.cpart c) t)) s
  tiles.foldl State.clearEngineRegs { s with eng := Sparse.drop (fun k => tiles.contains (k % 4096) && s.inEngines (k / 4096)) s.eng }

/-- Two ranges of lines overlap. -/
def overlap (a n b m : Nat) : Bool := decide (a < b + m) && decide (b < a + n)

/-- The shares of two contexts overlap. -/
def State.sharesOverlap (s : State) (c d : Nat) : Bool :=
  overlap (s.rd (PAR_CTX_CFG.share_base c)) (s.rd (PAR_CTX_CFG.share_lines c))
    (s.rd (PAR_CTX_CFG.share_base d)) (s.rd (PAR_CTX_CFG.share_lines d))

/-- Clears a context's share in every tile of its partition; in tiles of a gated region clearing waits for ungating (R320,
R407). -/
def State.clearShare (s : State) (c : Nat) : State :=
  let base := s.rd (PAR_CTX_CFG.share_base c)
  let lines := s.rd (PAR_CTX_CFG.share_lines c)
  let tiles := s.partTiles (s.cpart c)
  let late := tiles.filter fun t => s.gated (tileField t) (tileRow t)
  let now := tiles.filter fun t => !s.gated (tileField t) (tileRow t)
  let s := s.clearShareIn (now.map s.phys) base lines
  let s := { s with net := { s.net with parked := s.net.parked.filter fun e =>
    !(tiles.contains e.1 && (shareIndex (shareParts base lines) e.2.1).isSome) } }
  let s := s.cancelWords c tiles
  { s with eng := Sparse.drop (fun k => k / 4096 == c) s.eng,
           lateClears := s.lateClears ++ late.map fun t => (s.phys t, base, lines) }

/-! ### Stack space (R221, R222) -/

/-- The stacks of a mask, in ascending order. -/
def maskStacks (m : Nat) : List Nat := (List.range 12).filter fun k => bits m k 1 == 1

/-- The size of a partition's stack space in bytes. -/
def State.stackSpace (s : State) (p : Nat) : Nat :=
  (maskStacks (s.rd (STK_PART_MAP.stack_mask p))).length * s.rd (STK_PART_MAP.slab_count p) * 256000000

/-- The stack and byte that a partition address reaches; none at or beyond the size of the space. -/
def State.stackPlace (s : State) (p a : Nat) : Option (Nat × Nat) :=
  if s.stackSpace p ≤ a then none
  else
    let m := maskStacks (s.rd (STK_PART_MAP.stack_mask p))
    let u := a / 4096
    (m[u % m.length]?).map fun k => (k, (62500 * s.rd (STK_PART_MAP.slab_base p) + u / m.length) * 4096 + a % 4096)

/-- The memory address of a byte of a partition's stack space; beyond the space, an address no memory has. -/
def State.partAddr (s : State) (p a : Nat) : Nat :=
  match s.stackPlace p a with | some (k, b) => stackAddr k b | none => 2 ^ 60 + a

/-- The partition address that a stack byte has in a partition's space, the inverse of `stackPlace`. -/
def State.partOffset (s : State) (p a : Nat) : Option Nat :=
  let m := maskStacks (s.rd (STK_PART_MAP.stack_mask p))
  let base := 62500 * s.rd (STK_PART_MAP.slab_base p)
  let q := a % stackBytes / 4096
  if a < 12 * stackBytes ∧ base ≤ q ∧ q < base + 62500 * s.rd (STK_PART_MAP.slab_count p) then
    (m.idxOf? (a / stackBytes)).map fun i => ((q - base) * m.length + i) * 4096 + a % 4096
  else none

/-- Bytes of a partition's stack space. -/
def State.rdPart (s : State) (p a n : Nat) : Bytes := (List.range n).map fun i => s.rdB (s.partAddr p (a + i))

/-- A write of `n` bytes clears the poison of the lines it writes whole (R224). -/
def State.unpoison (s : State) (p a n : Nat) : State :=
  { s with poisoned := s.poisoned.filter fun k => match s.partOffset p (256 * k) with
    | some o => !(decide (a ≤ o) && decide (o + 256 ≤ a + n))
    | none => true }

/-- The lines below line `l` of a partition's stack space that stand in the `i`-th of its `m` stacks, in units of 16 lines (R221). -/
def linesBelow (m i l : Nat) : Nat := 16 * ((l / 16 + m - 1 - i) / m) + (if l / 16 % m = i then l % 16 else 0)

/-- The lines that a range of a partition's stack space touches, by stack. -/
def State.linesIn (s : State) (p a n : Nat) : List (Nat × Nat) :=
  let m := maskStacks (s.rd (STK_PART_MAP.stack_mask p))
  let hi := Min.min (a + n) (s.stackSpace p)
  if n = 0 ∨ hi ≤ a then []
  else ((List.range m.length).zip m).filterMap fun k =>
    let lines := linesBelow m.length k.1 ((hi + 255) / 256) - linesBelow m.length k.1 (a / 256)
    if lines = 0 then none else some (k.2, lines)

/-- Partition `q` may have requests queued at stack `k`: it has slabs there, and a stack word of a tile, an eviction, a relocation or an input
copy of it is under way. -/
def State.queuesAt (s : State) (k q : Nat) : Bool :=
  s.built q && s.rdBit (STK_PART_MAP.stack_mask q) k && s.on (STK_PART_MAP.slab_count q) &&
    (s.on (PAR_PART_STATUS.evicting q) || (s.part q).target.isSome ||
      (s.eng.any fun e => s.cpart (e.1 / 4096) == q && s.inTiles (e.1 / 4096) && e.2.flight.any fun f =>
        !f.dead && !f.done && bits f.word 124 4 != 0 && decide (bits f.word 124 4 < 6)) ||
      (s.partCtxs q).any fun c => !(s.ctx c).copies.isEmpty)

/-- Lines counted by a stack; while they are queued its controller is busy, and while requests of another partition than `p`, whose the lines
are, are queued there, one waits while the other is served (R216, R227). -/
def State.stackCount (s : State) (k n : Nat) (write : Bool) (p : Option Nat) : State :=
  let s := (s.inc (if write then STK_WR_LINES.write_lines k else STK_RD_LINES.read_lines k) n).stir (STK_BUSY.busy_cycles k).addr
  if (List.range 32).any fun q => p != some q && s.queuesAt k q then s.stir (STK_CONTEND.contend_cycles k).addr else s

/-- The lines that a range of a partition's stack space touches are counted by their stacks (R227). -/
def State.countLines (s : State) (p a n : Nat) (write : Bool) : State :=
  (s.linesIn p a n).foldl (fun s k => s.stackCount k.1 k.2 write (some p)) s

/-- They travel between their stacks and a node of the underlay network (R214). -/
def State.linesVia (s : State) (p a n : Nat) (write : Bool) (node : Nat × Nat) (tile : Bool := false) : State :=
  (s.linesIn p a n).foldl (fun s k =>
    if write then s.underlay node (stackNode k.1) k.2 else s.underlay (stackNode k.1) node k.2 tile) s

/-- Lines that the command engine reads, over the UCIe bridge (R214). The engines whose place the spec does not state take the same way
(DESIGN CHOICE, log 57). -/
def State.readLines (s : State) (p a n : Nat) : State := (s.countLines p a n false).linesVia p a n false bridgeNode

/-- The bytes of a write, one after another. -/
def State.putPart (s : State) (p a : Nat) : Bytes → State
  | [] => s
  | v :: t => (s.wrB (s.partAddr p a) v).putPart p (a + 1) t

/-- A write that comes from a node of the underlay network: the command engine's, over the UCIe bridge, where no other is named. -/
def State.wrPart (s : State) (p a : Nat) (b : Bytes) (node : Nat × Nat := bridgeNode) : State :=
  (((s.putPart p a b).unpoison p a b.length).countLines p a b.length true).linesVia p a b.length true node

/-- A range of a partition's stack space cleared to zero bytes. -/
def State.clearPart (s : State) (p a n : Nat) : State :=
  (s.clearMem fun x => match s.partOffset p x with
    | some o => decide (a ≤ o) && decide (o < a + n)
    | none => false).unpoison p a n

/-- The command engine writes it with zero bytes. -/
def State.zeroPart (s : State) (p a n : Nat) : State :=
  ((s.clearPart p a n).countLines p a n true).linesVia p a n true bridgeNode

/-- The first poisoned line that a range of a partition's stack space touches (R224). -/
def State.poisonIn (s : State) (p a n : Nat) : Option Nat :=
  if n = 0 then none
  else s.poisoned.find? fun k => match s.partOffset p (256 * k) with
    | some o => decide (a < o + 256) && decide (o < a + n)
    | none => false
def State.partPoisoned (s : State) (p a n : Nat) : Bool := (s.poisonIn p a n).isSome

/-- A stack read for a context meets a poisoned line: the line is delivered to no requester, and fault 0x2A10 is raised against the context
(R224). -/
def State.poisonFault (s : State) (c a n : Nat) : State :=
  match s.poisonIn (s.cpart c) a n with
  | some k => s.fault 0x2A10 2 4 (k / 500000000) (some c) (some (s.cpart c)) []
  | none => s

/-- The status 0x04xx of a command whose stack read met a poisoned line (R224). -/
def readErrorStatus : Nat := 0x0400 + Config.readError.toNat

/-- The stacks present and not excluded (R220). -/
def State.defaultStacks (s : State) : Nat := s.rd STK_PRESENT.present &&& (4095 - s.rd STK_PRESENT.failed)

/-- A stack setting that R222 refuses: an excluded stack, slabs past the last, or slabs of another partition on a shared
stack. -/
def State.badStacks (s : State) (p mask base count : Nat) : Bool :=
  let m := if mask = 0 then s.defaultStacks else mask
  decide (4096 ≤ m) || (m &&& s.defaultStacks) != m || decide (500 < base + count) ||
    (count != 0 && (List.range 32).any fun q =>
      q != p && s.built q && s.on (STK_PART_MAP.slab_count q) && (s.rd (STK_PART_MAP.stack_mask q) &&& m) != 0 &&
        overlap base count (s.rd (STK_PART_MAP.slab_base q)) (s.rd (STK_PART_MAP.slab_count q)))

/-! ### Moving shares (R326, R331) -/

/-- The bytes of a context's eviction area, and its first byte. -/
def State.evictBytes (s : State) (c : Nat) : Nat :=
  let p := s.cpart c
  s.rd (PAR_CTX_CFG.share_lines c) * 300 * s.rd (PAR_PART_CFG.width p) * s.rd (PAR_PART_CFG.height p)
def State.evictBase (s : State) (c : Nat) : Nat := s.rd (PAR_CTX_EVICT.evict_addr c) * 256

/-- The parts of tile memory that a context's share takes. -/
def State.ctxParts (s : State) (c : Nat) : List (Nat × Nat) :=
  shareParts (s.rd (PAR_CTX_CFG.share_base c)) (s.rd (PAR_CTX_CFG.share_lines c))

/-- The physical tiles of a partition with their rectangle positions. -/
def State.places (s : State) (p : Nat) : List (Nat × Nat) := (s.partTiles p).map fun t => (s.phys t, s.dirPos p t)

/-- The lines of one tile's part of an eviction area pass its down-link and the underlay network on their way to the stacks, or back
(R214, R227). -/
def State.shareTraffic (s : State) (c t : Nat) (out : Bool) : State :=
  let p := s.cpart c
  let n := s.rd (PAR_CTX_CFG.share_lines c) * 300
  let a := s.evictBase c + s.dirPos p t * n
  let s := s.linesVia p a n out (tileNode t) (!out)
  s.count t (if out then NET_DL_OUT.dl_lines_out t else NET_DL_IN.dl_lines_in t) ((n + 255) / 256)

/-- Writes a context's share to its eviction area and marks it EVICTED. -/
def State.writeOut (s : State) (c : Nat) : State :=
  let p := s.cpart c
  let area := s.evictBase c
  let lines := s.rd (PAR_CTX_CFG.share_lines c)
  let parts := s.ctxParts c
  let places := s.places p
  let cells := s.mem.filterMap fun e => (tileOfAddr e.1).bind fun q =>
    (places.find? (fun x => x.1 == q.1)).bind fun x => (shareIndex parts q.2).map fun k => (area + x.2 * lines * 300 + k, e.2)
  let s := (s.clearPart p area (s.evictBytes c)).countLines p area (s.evictBytes c) true
  let s := cells.foldl (fun s e => s.wrB (s.partAddr p e.1) e.2) s
  let s := (s.partTiles p).foldl (fun s t => s.shareTraffic c t true) s
  (s.wr (PAR_CTX_CFG.state c) stEvicted).inc (PAR_CTX_STATUS.evictions c) 1

/-- An EVICTED context's share in its eviction area goes back into tile memory; it becomes RESIDENT. -/
def State.unpackShare (s : State) (c : Nat) : State :=
  let p := s.cpart c
  let area := s.evictBase c
  let n := s.evictBytes c
  let lines := s.rd (PAR_CTX_CFG.share_lines c)
  let parts := s.ctxParts c
  let places := s.places p
  let cells := s.mem.filterMap fun e => (s.partOffset p e.1).bind fun o =>
    if area ≤ o ∧ o < area + n then
      (places.find? (fun x => x.2 == (o - area) / (lines * 300))).bind fun x =>
        (shareOffset parts ((o - area) % (lines * 300))).map fun k => (tileAddr x.1 k, e.2)
    else none
  let s := (s.clearShareIn (places.map (·.1)) (s.rd (PAR_CTX_CFG.share_base c)) lines).countLines p area n false
  let s := cells.foldl (fun s e => s.wrB e.1 e.2) s
  let s := (s.partTiles p).foldl (fun s t => s.shareTraffic c t false) s
  s.wr (PAR_CTX_CFG.state c) stResident

/-- Reads an EVICTED context's share back; a poisoned line raises fault 0x2A10 against it instead (R224). -/
def State.readBack (s : State) (c : Nat) : State :=
  if s.partPoisoned (s.cpart c) (s.evictBase c) (s.evictBytes c) then s.poisonFault c (s.evictBase c) (s.evictBytes c) else s.unpackShare c

/-- Lines that travel from one tile to another over the underlay network (R214, R331). -/
def State.moveTraffic (s : State) (t u n : Nat) : State :=
  ((s.underlay (tileNode t) (tileNode u) n true).count t (NET_DL_OUT.dl_lines_out t) n).count u (NET_DL_IN.dl_lines_in u) n

/-- Where a tile's position of a rectangle moves when the rectangle moves to an origin. -/
def State.relocated (s : State) (p x0 y0 t : Nat) : Nat :=
  let w := s.rd (PAR_PART_CFG.width p)
  tileAt (x0 + s.dirPos p t % w) (y0 + s.dirPos p t / w)

/-- Copies every share of a partition from its tiles to those of the rectangle at `x0`, `y0`, with the engine state; the old rectangle is
cleared under R61, and of the new one only the shares are written (R331). An EVICTED context's share stands in the stacks by rectangle
position, and its engine state follows the positions. -/
def State.copyShares (s : State) (p x0 y0 : Nat) : State :=
  let all := s.partCtxs p
  let ctxs := all.filter s.inTiles
  let moves := (s.partTiles p).map fun t =>
    (t, s.relocated p x0 y0 t)
  let cells := s.mem.filterMap fun e => (tileOfAddr e.1).bind fun q =>
    if ctxs.any fun c => (shareIndex (s.ctxParts c) q.2).isSome then
      (moves.find? fun m => s.phys m.1 == q.1).map fun m => (tileAddr (s.phys m.2) q.2, e.2)
    else none
  let engs := s.eng.filterMap fun e => if all.contains (e.1 / 4096) then
      (moves.find? fun m => m.1 == e.1 % 4096).map fun m => (engKey (e.1 / 4096) m.2, e.2) else none
  let s := s.clearTiles (moves.map (·.1)) (moves.map fun m => s.phys m.1)
  let s := { s with eng := Sparse.drop (fun k => all.contains (k / 4096)) s.eng }
  let s := ctxs.foldl (fun s c =>
    s.clearShareIn (moves.map fun m => s.phys m.2) (s.rd (PAR_CTX_CFG.share_base c)) (s.rd (PAR_CTX_CFG.share_lines c))) s
  let s := cells.foldl (fun s e => s.wrB e.1 e.2) s
  let lines := ctxs.foldl (fun n c => n + (s.rd (PAR_CTX_CFG.share_lines c) * 300 + 255) / 256) 0
  let s := moves.foldl (fun s m => s.moveTraffic m.1 m.2 lines) s
  engs.foldl (fun s e => { s with eng := Sparse.put {} s.eng e.1 e.2 }) s

/-! ### Engine state of a switch (R95, R200, R205, R218, R324) -/

/-- Saves the engine-state registers of the tiles of a context. -/
def State.saveRegs (s : State) (c : Nat) : State :=
  (s.partTiles (s.cpart c)).foldl (fun s t =>
    s.modEng c t fun e => { e with saved := savedOffsets.map fun o => (o, BitVec.ofNat 64 (s.reg (tileReg t o))) }) s

/-- Restores the engine-state registers of a context: what it saved, or their reset values where it has not run. Of
NET_RT_STATUS only the settings fields are engine state (R227); they are loaded in every router of the rectangle (R218). Every tile of the
partition shows the context, its run-ahead window and its share of the statistics records (R167, R177, R205). -/
def State.restoreRegs (s : State) (c : Nat) : State :=
  let rec_ := s.portion c 32768
  let window := match (s.ctx c).program with | some g => g.window | none => 65536
  (s.partTiles (s.cpart c)).foldl (fun s t =>
    let s := savedOffsets.foldl (fun s o =>
      let v := ((s.engOf c t).saved.find? fun q => q.1 == o).map fun q => q.2.toNat
      let v := v.getD (regReset (tileReg t o))
      s.setReg (tileReg t o) (if o = 0x2000 then setBits v 35 7 (bits (s.reg (tileReg t o)) 35 7) else v)) s
    ((((s.wr (TIL_STATE.context t) c).wr (TIL_STATE.partition t) (s.cpart c)).wr (BWD_CTRL.stat_base t) rec_.1).wr
      (BWD_CTRL.stat_limit t) rec_.2).wr (INS_RA.window t) window) s

end Sys2Proof.Machine
end

