-- ==== Sys2Proof/Machine/Fabric.lean ====
section
/-! DEFINITION. The fabric ports: link states, LLDP and neighbour discovery, Mladub streams with their sequencing, retransmission,
congestion and protection (chapter 17). -/

namespace Sys2Proof.Machine

/-- The port is UP. -/
def State.portUp (s : State) (p : Nat) : Bool := s.rd (PRT_STATUS.link_state p) == 3 && !(s.crossing 2 (p / 4)).stopped

def State.stream (s : State) (h : Nat) : Option Stream := s.fab.streams.find? fun x => x.handle == h

/-! ### IPv6 addresses and neighbour discovery (R33, R339, R371)

The ports that follow R371 are numbered as NEIGHBOUR_DISCOVERY numbers them: fabric ports 0 to 63, time ports A and B 64 and 65, management
ports 66 and 67 (log 46). -/

/-- The link-local address of a MAC address by the modified EUI-64 rule. -/
def linkLocal (mac : Nat) : Nat :=
  0xfe80 * 2 ^ 112 + ((mac / 2 ^ 24) ^^^ 0x020000) * 2 ^ 40 + 0xfffe * 2 ^ 24 + mac % 2 ^ 24

/-- The global address of a port. -/
def State.portAddr (s : State) (p : Nat) : Nat := s.rd (PRT_ADDR_HI.addr_hi p) * 2 ^ 64 + s.rd (PRT_ADDR_LO.addr_lo p)

/-- The global address of a time port, 0 for none. -/
def State.timeAddr (s : State) (q : Nat) : Nat :=
  if q = 0 then s.rd TIM_PORTA_ADDR_HI.addr_hi * 2 ^ 64 + s.rd TIM_PORTA_ADDR_LO.addr_lo
  else s.rd TIM_PORTB_ADDR_HI.addr_hi * 2 ^ 64 + s.rd TIM_PORTB_ADDR_LO.addr_lo

/-- The link of a time port is up. -/
def State.timeLink (s : State) (q : Nat) : Bool := if q = 0 then s.time.linkA else s.time.linkB

/-- A message put in a time port's send queue. -/
def State.sendTime (s : State) (q : Nat) (m : TimeMsg) : State := { s with time := { s.time with tx := s.time.tx ++ [(q, m)] } }

/-- A port carries IPv6: it is up, a time port with PTP over UDP. -/
def State.ndUp (s : State) (n : Nat) : Bool :=
  if n < 64 then s.portUp n
  else if n < 66 then s.timeLink (n - 64) && s.rd TIM_CTRL.transport == 1
  else s.on (CMD_MGMT_STATUS.link_up (n - 66))

/-- The MAC address, the global address (0 for none) and the prefix length of a port. -/
def State.ndMac (s : State) (n : Nat) : Nat :=
  s.rd (if n < 64 then PRT_MAC.mac n else if n < 66 then TIM_PORT_MAC.mac (n - 64) else CMD_MGMT_MAC.mac (n - 66))
def State.ndGlobal (s : State) (n : Nat) : Nat :=
  if n < 64 then s.portAddr n
  else if n < 66 then s.timeAddr (n - 64)
  else s.rd (CMD_MGMT_ADDR_HI.addr_hi (n - 66)) * 2 ^ 64 + s.rd (CMD_MGMT_ADDR_LO.addr_lo (n - 66))
def State.ndPrefix (s : State) (n : Nat) : Nat :=
  s.rd (if n < 64 then PRT_CFG.prefix_len n else if n = 64 then TIM_PORT_PREFIX.prefix_a else if n = 65 then TIM_PORT_PREFIX.prefix_b
    else CMD_MGMT_CFG.prefix_len (n - 66))

/-- An address is not a port's to use: another node holds it, or its probe is less than 1 s old (PRESUMED, log 58: the default of the
RFCs that R371 names). -/
def State.ndTentative (s : State) (n a : Nat) : Bool :=
  s.fab.probes.any fun e => e.port == n && e.addr == a && (e.taken || decide (s.hall < e.since + 1000000000))

/-- The address that a port sends from: its global address, or with none that it may use its link-local one (R33, R371); none while it may use
neither. A global address still probed or found taken counts as none (DEDUCED, log 58). -/
def State.ndFrom (s : State) (n : Nat) : Option Nat :=
  [s.ndGlobal n, linkLocal (s.ndMac n)].find? fun a => a != 0 && !s.ndTentative n a

/-- The address that others send to is the port's to receive at. -/
def State.hears (s : State) (n : Nat) : Bool :=
  !s.ndTentative n (if s.ndGlobal n = 0 then linkLocal (s.ndMac n) else s.ndGlobal n)

/-! ### What the ports send (R371, R372) -/

/-- The stream that sends a message. -/
def FabMsg.ofStream : FabMsg → Option Nat
  | .data h .. | .ack h .. | .shardAgain h .. => some h
  | _ => none

/-- A message is a control message of Table 17-5. -/
def FabMsg.isControl : FabMsg → Bool
  | .deliver .. | .ctrlAck .. | .ctrl .. => true
  | _ => false

/-- Where a message of a fabric port goes, for those that go to one address. -/
def State.destOf (s : State) : FabMsg → Option Nat
  | .deliver peer .. | .deliverAck peer .. | .ctrlAck peer _ | .ctrl peer .. => some peer
  | m => (m.ofStream.bind s.stream).map (·.peerAddr)

/-- An address as its 16 bytes in network order spell it (R381). -/
def beNum (b : Bytes) : Nat := b.foldl (fun n x => 256 * n + x.toNat) 0

/-- The roster that a context holds: of the delivery it was committed, or of the broadcast it made. -/
def State.rosterOf (s : State) (c : Nat) : Bytes :=
  match s.fab.members.find? fun m => m.ctx == c with
  | some m => m.data.take m.rosterLen
  | none => match s.fab.leads.find? fun l => l.hdr.context == c with
    | some l => l.roster
    | none => []

/-- The address and the UDP port of a roster member. -/
def rosterAddr (r : Bytes) (i : Nat) : Nat := beNum (slice r (32 * i) 16)
def rosterUdp (r : Bytes) (i : Nat) : Nat := beNum (slice r (32 * i + 16) 2)

/-- The UDP port of a peer, which its roster entry names, or else a stream to it; PRT_GLOBAL.udp_port where neither does (R372, R374, R381). -/
def State.peerPort (s : State) (peer : Nat) : Nat :=
  let named := (List.range 128).findSome? fun c =>
    let r := s.rosterOf c
    ((List.range (r.length / 32)).find? fun i => rosterAddr r i == peer).map (rosterUdp r)
  match named, s.fab.streams.find? fun x => x.peerAddr == peer with
  | some u, _ => u
  | none, some x => x.peerUdp
  | none, none => s.rd PRT_GLOBAL.udp_port

/-- The headers of a Mladub packet (R371, R372): ECT(0), DSCP by class, hop limit 64. The source port of a packet that no stream sends is open
(log 39). -/
def State.udpHdr (s : State) (p : Nat) (m : FabMsg) : Option UdpHdr :=
  (s.destOf m).map fun a => {
    sender := (s.ndFrom p).getD 0, receiver := a,
    source := match m.ofStream with | some h => 0xC000 + h | none => Config.ctrlSourcePort.toNat,
    dest := match m.ofStream.bind s.stream with | some x => x.peerUdp | none => s.peerPort a,
    dscp := s.rd (if m.isControl then PRT_GLOBAL.dscp_ctrl else PRT_GLOBAL.dscp_data), ecn := 2, hopLimit := 64 }

/-- A message leaves on a port, with its headers. -/
def State.queueFab (s : State) (p : Nat) (m : FabMsg) : State :=
  { s with fab := { s.fab with tx := s.fab.tx ++ [(p, m, s.udpHdr p m)] } }

/-- An advertisement of one of a port's addresses, and a solicitation for an address, from an address (0: the unspecified one). -/
def State.ndAdvertise (s : State) (n t : Nat) : State :=
  if 64 ≤ n ∧ n < 66 then s.sendTime (n - 64) (.advertisement t) else s.queueFab n (.advertisement t)
def State.ndSolicit (s : State) (n t source : Nat) : State :=
  if 64 ≤ n ∧ n < 66 then s.sendTime (n - 64) (.solicitation t source) else s.queueFab n (.solicitation t source)

/-- An address is probed for a duplicate (R371): a solicitation for it goes out from the unspecified address. -/
def State.ndProbe (s : State) (n a : Nat) : State :=
  if s.ndUp n && a != 0 then
    ({ s with fab := { s.fab with probes := ⟨n, a, s.hall, false⟩ :: s.fab.probes.filter fun e => !(e.port == n && e.addr == a) } }).ndSolicit n a 0
  else s

/-- A port comes up, and probes its addresses. -/
def State.ndProbeAll (s : State) (n : Nat) : State := (s.ndProbe n (linkLocal (s.ndMac n))).ndProbe n (s.ndGlobal n)

/-- The next hop to an address: itself where it is on the port's link, else the port's default router. -/
def State.ndHop (s : State) (n dest : Nat) : Option Nat :=
  let host := 2 ^ (128 - s.ndPrefix n)
  if dest / 2 ^ 118 = 0x3fa ∨ (s.ndGlobal n ≠ 0 ∧ dest / host = s.ndGlobal n / host) then some dest
  else (s.fab.routers.find? fun e => e.1 == n).map (·.2)

/-- Multicast, which needs no next hop. -/
def isMulticast (a : Nat) : Bool := a / 2 ^ 120 == 0xff

/-- The link-layer address of the next hop to an address is asked for, where the port has not asked for it yet and has an address to ask
from. -/
def State.ndResolve (s : State) (n dest : Nat) : State :=
  if isMulticast dest then s
  else match s.ndHop n dest, s.ndFrom n with
    | some a, some from_ =>
      if s.fab.neighbours.any fun e => e.1 == n && e.2.1 == a then s
      else ({ s with fab := { s.fab with neighbours := (n, a, false) :: s.fab.neighbours } }).ndSolicit n a from_
    | _, _ => s

/-- The next hop to an address has answered. -/
def State.ndKnown (s : State) (n dest : Nat) : Bool :=
  isMulticast dest || (match s.ndHop n dest with
    | some a => s.fab.neighbours.any fun (e : Nat × Nat × Bool) => e.1 == n && e.2.1 == a && e.2.2
    | none => false)

/-- A message leaves, or waits until the port has an address to send it from and its next hop has answered (R371). Neighbour discovery and
LLDP need neither; what a stream that is closed has left goes nowhere. -/
def State.putFab (s : State) (p : Nat) (m : FabMsg) : State :=
  match m, s.destOf m with
  | _, some a =>
    let s := s.ndResolve p a
    if (s.ndFrom p).isSome && s.ndKnown p a then s.queueFab p m else { s with fab := { s.fab with wait := s.fab.wait ++ [(p, m)] } }
  | .delayReq, none => if (s.ndFrom p).isSome then s.queueFab p m else { s with fab := { s.fab with wait := s.fab.wait ++ [(p, m)] } }
  | m, none => if m.ofStream.isSome then s else s.queueFab p m

/-- The messages of a port that wait go, as far as they can, in order. -/
def State.flushFab (s : State) (p : Nat) : State :=
  if !s.portUp p then s
  else (s.fab.wait.filter fun e => e.1 == p).foldl (fun s e => s.putFab p e.2)
    { s with fab := { s.fab with wait := s.fab.wait.filter fun e => e.1 != p } }

/-- The same of every port at which something waits. -/
def State.flushPorts (s : State) : State := ((s.fab.wait.map (·.1)).eraseDups).foldl (fun s p => s.flushFab p) s

/-- A message sent on a port, behind what waits there; a port that is not UP sends nothing (R375). -/
def State.sendFab (s : State) (p : Nat) (m : FabMsg) : State := if s.portUp p then (s.flushFab p).putFab p m else s

/-- What waits at a port that has left UP is dropped: its streams send it again when it returns (R375, R378), and control messages are
repeated (R374). -/
def State.dropWaiting (s : State) (p : Nat) : State := { s with fab := { s.fab with wait := s.fab.wait.filter fun e => e.1 != p } }

/-! ### Arrivals at a fabric port (crossing 2: R231, R232, R235) -/

/-- What arrives at a port takes effect: the port is UP, and crossing 2 of its port die lets it through; behind what waits there it waits, and a
stopped crossing fails it, or counts it where it is an event. -/
def State.arriveAt (s : State) (p : Nat) (i : Instr) (act : State → State) : State :=
  if !s.up || (s.rd (PRT_STATUS.link_state p) != 3 && !s.cdc.through) then s
  else if !s.passes 2 (p / 4) then s.keep 2 (p / 4) i
  else act s

/-- The same for what is sent to the port's address, which it must be able to use (R371). -/
def State.arriveFor (s : State) (p : Nat) (i : Instr) (act : State → State) : State :=
  s.arriveAt p i fun s => if s.hears p then act s else s

/-! ### Neighbour discovery -/

/-- A node answers, or shows an address by probing for it: the address was asked for, or it is one that the port is probing itself. -/
def State.ndSeen (s : State) (n a : Nat) : State :=
  ({ s with fab := { s.fab with
    neighbours := s.fab.neighbours.map fun (e : Nat × Nat × Bool) => if e.1 = n ∧ e.2.1 = a then (n, a, true) else e,
    probes := s.fab.probes.map fun (e : Probe) => if e.port = n ∧ e.addr = a ∧ s.hall < e.since + 1000000000 then { e with taken := true } else e } }
  ).flushFab n

/-- An echo request answered, up to 100 in a second, by a time port never (R33). -/
def State.echo (s : State) (n id : Nat) (data : Bytes) : State :=
  let sec := s.hall / 1000000000
  let sent := match s.fab.echoes.find? fun e => e.1 == n with
    | some (_, t, k) => if t = sec then k else 0
    | none => 0
  if sent < 100 ∧ !(64 ≤ n ∧ n < 66) ∧ s.hears n = true then
    ({ s with fab := { s.fab with echoes := (n, sec, sent + 1) :: s.fab.echoes.filter fun e => e.1 != n } }).queueFab n (.echoReply id data)
  else s

/-- What a port does with neighbour traffic: a solicitation for one of the port's addresses is answered; the default router is learned; echo
requests are answered; Packet Too Big changes nothing; an advertisement, or another node's probe, shows a duplicate of an address that is
being probed. -/
def State.neighbourAt (s : State) (n : Nat) : NdKind → State
  | .solicitation t probe =>
    if s.ndTentative n t then (if probe then s.ndSeen n t else s)
    else if t = linkLocal (s.ndMac n) ∨ (t = s.ndGlobal n ∧ t ≠ 0) then s.ndAdvertise n t else s
  | .advertisement t => s.ndSeen n t
  | .packetTooBig => s
  | .routerAdvertisement r =>
    ({ s with fab := { s.fab with routers := (n, r) :: s.fab.routers.filter fun e => e.1 != n } }).flushFab n
  | .echoRequest id data => s.echo n id data

/-- NEIGHBOUR_DISCOVERY. -/
def State.neighbour (s : State) (n : Nat) (k : NdKind) : State :=
  if n < 64 then s.arriveAt n (.neighbourDiscovery n k) fun s => s.neighbourAt n k
  else if s.up && s.ndUp n then s.neighbourAt n k else s

def execNeighbourDiscovery (port : Nat) (kind : NdKind) (s : State) : Result := .next (s.neighbour port kind)

/-- The eligible fabric sources of hall time follow the ports (R32): TIM_SOURCES.fabric_valid. -/
def State.showFabric (s : State) : State :=
  s.wr TIM_SOURCES.fabric_valid (bit ((List.range 64).any fun p => s.on TIM_CTRL.fabric_fallback_en && s.portUp p &&
    s.on (PRT_STATUS.lldp_valid p) && s.on (PRT_STATUS.partner_ptp p) &&
    s.rd (PRT_STATUS.partner_domain p) == s.rd TIM_CTRL.ptp_domain))

/-! ### Link states (R368, R369, R481) -/

/-- PRT_CFG.enable written 1: a DISABLED port goes to MEASURING. -/
def State.enablePort (s : State) (p : Nat) : State :=
  if s.rd (PRT_STATUS.link_state p) = 0 then s.wr (PRT_STATUS.link_state p) 1 else s

/-- PRT_CFG.enable written 0: the port goes to DISABLED. -/
def State.disablePort (s : State) (p : Nat) : State :=
  (({ s.wr (PRT_STATUS.link_state p) 0 with fab := { s.fab with lowPower := s.fab.lowPower.filter (· != p) } }).dropWaiting p).showFabric

/-- CABLE_MEASUREMENT: the port leaves MEASURING for TRAINING with its cable's length, or with none where the measurement
failed. A cable end above 16 W is held in low-power mode; copper above 2.2 m is reported. -/
def State.cableMeasured (s : State) (p : Nat) (len : Option Nat) (optical : Bool) (watts : Nat) : State :=
  if !s.up || s.rd (PRT_STATUS.link_state p) != 1 then s
  else
    let s := (s.wr (PRT_STATUS.link_state p) 2).wr (PRT_STATUS.medium p) (if optical then 2 else 1)
    if 16 < watts then
      let s := { s.wr (PRT_CABLE.measured p) 0 with fab := { s.fab with lowPower := s.fab.lowPower ++ [p] } }
      s.fault 0x3603 1 5 p none none []
    else match len with
      | none => s.wr (PRT_CABLE.measured p) 0
      | some n =>
        let s := (s.wr (PRT_CABLE.measured p) 1).wr (PRT_CABLE.length_dm p) n
        if !optical ∧ 22 < n then (s.wr (PRT_STATUS.long_cable p) 1).fault 0x3101 1 5 p none none [] else s

def execCableMeasurement (port : Nat) (lengthDm : Option Nat) (optical : Bool) (powerClassW : Nat) (s : State) : Result :=
  .next (s.cableMeasured port lengthDm optical powerClassW)

/-- ALIGNMENT_LOSS: TRAINING restarts with no fault; UP returns to TRAINING with fault 0x3102. The port's state is looked at when the event
is delivered, behind the events counted before it (R231, R232). -/
def State.alignmentLoss (s : State) (p : Nat) : State :=
  if !s.up then s
  else if !s.passes 2 (p / 4) then s.keep 2 (p / 4) (.alignmentLoss p)
  else if s.rd (PRT_STATUS.link_state p) != 3 then s
  else
    ((((s.wr (PRT_STATUS.link_state p) 2).wr (PRT_STATUS.link_lost p) 1).dropWaiting p).showFabric).fault 0x3102 1 5 p none none []

def execAlignmentLoss (port : Nat) (s : State) : Result := .next (s.alignmentLoss port)

/-! ### LLDP (R370) -/

/-- The Port ID of a port, as "P12". -/
def portText (p : Nat) : Bytes :=
  let digit (n : Nat) : Byte := BitVec.ofNat 8 (0x30 + n)
  0x50 :: (if p < 10 then [digit p] else [digit (p / 10), digit (p % 10)])

/-- LLDP_TRANSMIT: an LLDPDU whose capability TLV offers no PTP; the TLV's marking and domain, which R370 gives for a switch alone, are
open (free). -/
def State.lldpSend (s : State) (p : Nat) : State :=
  if s.up && s.portUp p && s.on (PRT_CFG.lldp_en p) then
    let r := s.free 9
    r.2.sendFab p (.lldp (s.rd (PRT_MAC.mac p)) (portText p) (4 * s.rd (PRT_CFG.lldp_tx_s p)) Config.serialNumber.toNat (s.portAddr p)
      ⟨1, false, r.1 / 256 == 1, r.1 % 256⟩)
  else s

def execLldpTransmit (port : Nat) (s : State) : Result := .next (s.lldpSend port)

/-- An LLDPDU: the partner's Chassis ID, Port ID, TTL and capability TLV are kept. -/
def State.takeLldpdu (s : State) (p chassis : Nat) (portId : Bytes) (ttl : Nat) (tlv : Option CapTlv) : State :=
  if s.on (PRT_CFG.lldp_en p) then
    let s := { s with fab := { s.fab with partners := (p, portId, ttl, s.hall) :: s.fab.partners.filter fun e => e.1 != p } }
    let s := (s.wr (PRT_PARTNER.partner_mac p) chassis).wr (PRT_PARTNER.ttl_left p) ttl
    let s := s.wr (PRT_STATUS.lldp_valid p) (bit (ttl != 0))
    let s := match tlv with
      | some v => ((s.wr (PRT_STATUS.partner_ptp p) (bit v.ptpOffered)).wr (PRT_STATUS.partner_ecn p) (bit v.ecnMarking)).wr
          (PRT_STATUS.partner_domain p) v.ptpDomain
      | none => ((s.wr (PRT_STATUS.partner_ptp p) 0).wr (PRT_STATUS.partner_ecn p) 0).wr (PRT_STATUS.partner_domain p) 0
    s.showFabric
  else s

/-- LLDPDU_RECEIVED. -/
def State.lldpdu (s : State) (p chassis : Nat) (portId : Bytes) (ttl : Nat) (tlv : Option CapTlv) : State :=
  s.arriveAt p (.lldpduReceived p chassis portId ttl tlv) fun s => s.takeLldpdu p chassis portId ttl tlv

def execLldpduReceived (port chassis : Nat) (portId : Bytes) (ttl : Nat) (tlv : Option CapTlv) (s : State) : Result :=
  .next (s.lldpdu port chassis portId ttl tlv)

/-- The hall time at which a partner's information lapses, and the seconds until then (R370). -/
def State.lapseTime (s : State) (p : Nat) : Nat :=
  match s.fab.partners.find? fun e => e.1 == p with | some e => e.2.2.2 + e.2.2.1 * 1000000000 | none => 0
def State.ttlLeft (s : State) (p : Nat) : Nat := (s.lapseTime p - s.hall) / 1000000000

/-- LLDP_TTL_EXPIRY: a partner's TTL has passed without a new LLDPDU. -/
def State.lldpLapse (s : State) (p : Nat) : State :=
  if s.up && s.on (PRT_STATUS.lldp_valid p) then
    (({ s with hall := Max.max s.hall (s.lapseTime p) }.wr (PRT_STATUS.lldp_valid p) 0).wr (PRT_PARTNER.ttl_left p) 0).showFabric
  else s

def execLldpTtlExpiry (port : Nat) (s : State) : Result := .next (s.lldpLapse port)

/-! ### Streams (R375) -/

/-- A stream entry replaced. -/
def State.setStream (s : State) (x : Stream) : State :=
  { s with fab := { s.fab with streams := s.fab.streams.map fun y => if y.handle == x.handle then x else y } }

/-- The credits that a context may still take: the rest of its floor, and what of the pool no floor reserves (R327). -/
def State.creditsFree (s : State) (c : Nat) : Nat :=
  let p := s.cpart c
  let floorOf (d : Nat) := s.rd (PAR_CTX_CREDIT.floor d)
  let heldOf (d : Nat) := s.rd (PAR_CTX_CREDIT.held d)
  let above := (s.partCtxs p).foldl (fun n d => n + (heldOf d - floorOf d)) 0
  (floorOf c - heldOf c) + (s.rd (PAR_PART_CREDITS.pool p) - s.rd (PAR_PART_CREDITS.floor_sum p) - above)

/-- The words of a context that `p` picks end without moving data, and the credits they hold return; each completes when its turn comes
(R198, R260, R378). -/
def State.endWords (s : State) (c : Nat) (p : AccessFlight → Bool) : State :=
  let hit (f : AccessFlight) : Bool := p f && !f.done
  let mine := s.eng.filter fun e => e.1 / 4096 == c
  let n := (mine.map fun e => flightCredits (e.2.flight.filter hit)).sum
  let stop (f : AccessFlight) : AccessFlight := if hit f then { f with dead := true, done := true } else f
  let s := { s with eng := s.eng.map fun (e : Nat × Eng) =>
    if e.1 / 4096 = c then (e.1, { e.2 with flight := e.2.flight.map stop }) else e }
  (s.giveCredits c n).showDraining c

/-- Credits of a packet of `n` payload bytes (R378). -/
def pktCredits (n : Nat) : Nat := (n + 4095) / 4096

/-- The credits that a packet not acknowledged holds; one that waits for a credit holds none. -/
def TxPkt.credits (p : TxPkt) : Nat := if p.unpaid then 0 else pktCredits p.payload.length

/-- The arrivals of shards from a source are over (R271). -/
def State.endSource (s : State) (c source : Nat) : State :=
  let ends (l : List Retry) : List Retry := l.filter fun e => e.source != source
  let s : State := { s with wgt := { s.wgt with builds := s.wgt.builds.map fun (b : Build) => { b with retries := ends b.retries } } }
  s.modCtx c fun k => { k with train := k.train.map fun (x : Train) => { x with retries := ends x.retries } }

/-- A stream closes: its unacknowledged packets return their credits, the access words that wait on it complete without data, and the
mirror that it carries ends. -/
def State.closeStream (s : State) (x : Stream) : State :=
  let n := (x.unacked.map (·.credits)).sum
  let s := s.modCtx x.ctx fun k => { k with
    mirror := if k.mirror = some x.handle then none else k.mirror, mirrorFrom := if k.mirrorFrom = some x.handle then none else k.mirrorFrom }
  let s := (s.giveCredits x.ctx n).dec PRT_STREAMS.opened 1
  let s := { s with fab := { s.fab with streams := s.fab.streams.filter fun y => y.handle != x.handle } }
  (s.endSource x.ctx x.handle).endWords x.ctx fun f => (awOp f.word == 6 || awOp f.word == 7) && bits f.word 48 16 == x.handle

/-- Fault 0x3103, class 2, against a stream's context: the stream is broken and closes (R378, R380). -/
def State.breakStream (s : State) (x : Stream) : State :=
  (s.closeStream x).fault 0x3103 2 5 x.port (some x.ctx) (some (s.cpart x.ctx)) []

/-- The lowest free stream handle. -/
def State.freeHandle (s : State) : Option Nat :=
  (List.range 4096).find? fun h => (s.stream h).isNone

def checkStreamOpen (c : Nat) (r : StreamOpenReq) (s : State) : Nat :=
  if 63 < r.port ∨ 1 < r.direction ∨ 2 < r.kind ∨ 1 < r.protect ∨ (r.protect = 1 ∧ 1023 < r.keySlot) ∨ r.peerUdp < 1024 ∨
      65535 < r.peerUdp ∨ 0xFFFD < r.peerHandle then 0x0170
  else if s.on (SEC_CTX.attested c) && r.protect != 1 then 0x0644
  else if r.protect = 1 ∧ !(s.sec.slots.any fun k => k.slot == r.keySlot && k.ctx == c) then
    (if s.on (SEC_CTX.attested c) then 0x0644 else 0x0270)
  else if s.rd (PRT_STATUS.link_state r.port) = 0 then 0x0270
  else if s.freeHandle = none then 0x0370
  else 0

def doStreamOpen (h : Hdr) (r : StreamOpenReq) (s : State) : State :=
  let n := s.freeHandle.getD 0
  let x : Stream := {
    handle := n, ctx := h.context, port := r.port, direction := r.direction, kind := r.kind,
    prot := r.protect == 1, keySlot := r.keySlot, peerUdp := r.peerUdp, peerHandle := r.peerHandle, peerAddr := r.peerAddr,
    progress := s.hall }
  let s := { s.inc PRT_STREAMS.opened 1 with fab := { s.fab with streams := s.fab.streams ++ [x] } }
  s.reply h 0x0607 0 (leB 8 n)

def fwStreamOpen (h : Hdr) (req : StreamOpenReq) : Fw :=
  ⟨0x0607, h.length == 32, .context, checkStreamOpen h.context req,
    doStreamOpen h req, secCount⟩

def execStreamOpen (h : Hdr) (req : StreamOpenReq) (s : State) : Result :=
  .next (s.fwCommand h (fwStreamOpen h req) (.streamOpen h req))

def checkStreamClose (c handle : Nat) (s : State) : Nat :=
  if 4095 < handle then 0x0170
  else match s.stream handle with
    | some x => if x.ctx = c then 0 else 0x0270
    | none => 0x0270

/-! ### Sending (R376, R378, R379) -/

/-- The largest payload of a port's packets: whole lines within the port's largest packet, headers and `extra` bytes included. -/
def State.portPayload (s : State) (p extra : Nat) : Nat := min 8192 ((s.rd (PRT_CFG.mtu p) - 40 - 8 - 32 - extra) / 256 * 256)

/-- The largest DATA payload of a stream, which on a protected stream leaves room for the counter and the tag. -/
def State.maxPayload (s : State) (x : Stream) : Nat := s.portPayload x.port (if x.prot then 24 else 0)

/-- The key and the nonce of a packet of a protected stream (R380): those of its key slot, with the packet's counter. -/
def State.streamKey (s : State) (x : Stream) (counter : Nat) : Bytes × Bytes :=
  match s.sec.slots.find? fun k => k.slot == x.keySlot with
  | some k => (k.key, leB 4 k.salt ++ leB 8 counter)
  | none => ([], [])

/-- A number of `k` bytes in network byte order. -/
def beB (k n : Nat) : Bytes := (leB k n).reverse

/-- The header of a DATA or MIRROR packet (Table 17-4). -/
def State.dataHeader (s : State) (x : Stream) (p : TxPkt) (retrans : Bool) : Bytes :=
  beB 1 1 ++ beB 1 (if x.kind = 2 then 0x30 else 1) ++ beB 2 (2 * bit x.prot + 4 * bit p.eom + 8 * bit retrans) ++
    beB 2 x.peerHandle ++ beB 2 x.handle ++ beB 4 p.psn ++ beB 4 0 ++ beB 4 p.message ++ beB 4 p.offset ++
    beB 2 p.payload.length ++ beB 2 0 ++ beB 4 s.hall

/-- The payload of a packet as it is sent: on a protected stream its ciphertext and tag, with the header and the counter
authenticated (R373, R380). -/
def State.sealed (s : State) (x : Stream) (p : TxPkt) (retrans : Bool) : Bytes :=
  if !x.prot then p.payload
  else
    let k := s.streamKey x x.counter
    let c := Config.aesGcm k.1 k.2 (s.dataHeader x p retrans ++ leB 8 x.counter) p.payload
    padTo p.payload.length c.1 ++ padTo 16 c.2

/-- The payload of a packet received: on a protected stream decrypted under its key slot (R380, R270). -/
def State.opened (s : State) (x : Stream) (counter : Nat) (b : Bytes) : Bytes :=
  if !x.prot then b else let k := s.streamKey x counter; padTo b.length (Config.aesGcmOpen k.1 k.2 b)

/-- A packet leaves, if its port is UP: the send counter rises by one for every packet sent, retransmissions included (R380). -/
def State.sendData (s : State) (x : Stream) (p : TxPkt) (retrans : Bool) : State × Stream :=
  (s.sendFab x.port (.data x.handle p.psn p.message p.offset (s.sealed x p retrans) p.eom retrans x.counter p.of_),
    if s.portUp x.port then { x with counter := x.counter + 1 } else x)

/-- The credits that the packets of a message of `n` bytes take (R373, R378). -/
def State.msgCredits (s : State) (x : Stream) (n : Nat) : Nat :=
  let m := s.maxPayload x
  n / m * pktCredits m + pktCredits (n % m)

/-- The counter of a protected stream has reached 2^48, and it sends no more (R380). -/
def Stream.spent (x : Stream) : Bool := x.prot && decide (2 ^ 48 ≤ x.counter)

/-- The bytes of one message cut into packets and sent (R373), or kept while the port is not UP (R375, R378) or the context has no credit
for them (R327); `n` bounds the packets. A stream whose counter is spent sends no further packet. -/
def State.sendPackets (of_ : Option (Nat × Nat)) : Nat → State → Stream → Nat → Bytes → State × Stream
  | 0, s, x, _, _ => (s, x)
  | n + 1, s, x, off, data =>
    let m := s.maxPayload x
    let here := data.take m
    let rest := data.drop m
    let unpaid := decide (s.creditsFree x.ctx < pktCredits here.length) || x.unacked.any (·.unpaid)
    let p : TxPkt := ⟨x.nextPsn, x.nextMsg, off, here, rest.isEmpty, s.hall, 0, false, !s.portUp x.port, unpaid, of_⟩
    let r := if unpaid then (s, x) else s.sendData x p false
    let x := { r.2 with nextPsn := (x.nextPsn + 1) % 2 ^ 32, unacked := x.unacked ++ [p] }
    let s := r.1.takeCredits x.ctx p.credits
    if rest.isEmpty || x.spent then (s, x) else State.sendPackets of_ n s x (off + here.length) rest

/-- One message sent on a stream; a stream whose counter reaches 2^48 is closed with fault 0x3103 (R380). A stopped crossing to its port
fails the transfer at once (R235). `of_`: the step and attempt whose contribution it belongs to (R261). -/
def State.sendMessage (s : State) (x : Stream) (data : Bytes) (of_ : Option (Nat × Nat) := none) : State :=
  if (s.crossing 2 (x.port / 4)).stopped then s
  else
    let r := State.sendPackets of_ (data.length / 256 + 1) s x 0 data
    let y := { r.2 with nextMsg := (x.nextMsg + 1) % 2 ^ 32, progress := if x.unacked.isEmpty then s.hall else x.progress }
    let s := r.1.setStream y
    if y.spent then s.breakStream y else s

/-- The retransmission time-out of a packet: it doubles with each retransmission (R378). -/
def State.rtoOf (s : State) (srtt rttvar resends : Nat) : Nat :=
  max (s.rd PRT_GLOBAL.rto_min_us * 1000) (srtt + 4 * rttvar) * 2 ^ resends
def State.rto (s : State) (x : Stream) (p : TxPkt) : Nat := s.rtoOf x.srtt x.rttvar p.resends

/-- One packet sent again, or, after 8 retransmissions, the stream broken. -/
def State.resend (s : State) (x : Stream) (psn : Nat) (fast : Bool) : State :=
  match x.unacked.find? fun p => p.psn == psn with
  | none => s
  | some p =>
    if 8 ≤ p.resends then s.breakStream x
    else
      let q := { p with resends := p.resends + 1, sentAt := s.hall, fast := fast }
      let r := s.sendData x q true
      let y := { r.2 with unacked := r.2.unacked.map fun u => if u.psn == psn then q else u }
      let s := (r.1.inc (PRT_MLADUB.retransmits x.port) 1).setStream y
      if y.spent then s.breakStream y else s

/-- A packet kept while its port was not UP, or for want of a credit, is sent for the first time. -/
def State.sendKept (s : State) (x : Stream) (p : TxPkt) : State :=
  let q := { p with kept := !s.portUp x.port, unpaid := false, sentAt := s.hall }
  let r := (if p.unpaid then s.takeCredits x.ctx (pktCredits p.payload.length) else s).sendData x q false
  let y := { r.2 with unacked := r.2.unacked.map fun u => if u.psn == p.psn then q else u }
  let s := r.1.setStream y
  if y.spent then s.breakStream y else s

/-- The packets of a partition's contexts that waited for credits are sent as far as the credits now free reach, stream by stream in order
(R327). -/
def State.payWaiting (s : State) (p : Nat) : State :=
  (s.fab.streams.filter fun x => s.cpart x.ctx == p).foldl (fun s x => (x.unacked.filter (·.unpaid)).foldl (fun s k =>
    match s.stream x.handle with
    | some y => if pktCredits k.payload.length ≤ s.creditsFree y.ctx then s.sendKept y k else s
    | none => s) s) s

/-- Credits of a context returned, to packets that wait for them (R327). -/
def State.returnCredits (s : State) (c n : Nat) : State := (s.giveCredits c n).payWaiting (s.cpart c)

/-- The packets of every partition that wait for credits. -/
def State.payAll (s : State) : State :=
  (((s.fab.streams.filter fun x => x.unacked.any (·.unpaid)).map fun x => s.cpart x.ctx).eraseDups).foldl (fun s p => s.payWaiting p) s

/-- One nanosecond passes (log 10): packets that waited for an address or a neighbour leave where they can (R371), and words that waited for
credits are sent (R327). -/
def State.rest (s : State) : State := s.idle.flushPorts.payAll

def execStreamClose (h : Hdr) (handle : Nat) (s : State) : Result :=
  .next (s.command (.streamClose h handle) h 0x0608 (h.length == 8) .context (checkStreamClose h.context handle) fun s =>
    (match s.stream handle with | some x => (s.closeStream x).payWaiting (s.cpart x.ctx) | none => s).reply h 0x0608 0)

/-- A port is UP again: its streams send what they kept, and retransmit what is not acknowledged, in order (R375, R378). -/
def State.portReturns (s : State) (p : Nat) : State :=
  (s.fab.streams.filter fun x => x.port == p).foldl (fun s x => x.unacked.foldl (fun s k =>
    match s.stream x.handle with
    | some y => if k.unpaid then s else if k.kept then s.sendKept y k else s.resend y k.psn false
    | none => s) s) s

/-- A link that is up carries frames, counted with its code words and PAUSE frames (Table 17-9). -/
def State.linkCounts (s : State) (p : Nat) : State :=
  ((s.stir (PRT_FRAMES.frames_rx p).addr).stir (PRT_FEC.fec_corrected p).addr).stir (PRT_DISCARDS.pause_discards p).addr

/-- LINK_TRAINED: 100 ms without loss of alignment; a cable end held in low-power mode never trains. The port's state is looked at when the
event is delivered (R231, R232). -/
def State.linkTrained (s : State) (p : Nat) : State :=
  if !s.up then s
  else if !s.passes 2 (p / 4) then s.keep 2 (p / 4) (.linkTrained p)
  else if s.rd (PRT_STATUS.link_state p) != 2 || s.fab.lowPower.contains p then s
  else (((s.wr (PRT_STATUS.link_state p) 3).showFabric.ndProbeAll p).portReturns p).linkCounts p

def execLinkTrained (port : Nat) (s : State) : Result := .next (s.linkTrained port)

/-- The rate kept between its limits, in 0.1 GB/s (R379). -/
def State.clampRate (s : State) (r : Rat) : Rat := max (s.rd PRT_CC.min_rate : Rat) (min 2000 r)

/-- The response to an ACK that reports CE marks: alpha rises, and the rate is cut at most once per smoothed round trip. -/
def State.congested (s : State) (x : Stream) : Stream :=
  let a : Rat := (15 / 16) * x.alpha + 1 / 16
  let x := { x with alpha := a, ece := true }
  let due := match x.lastCut with | some t => decide (t + x.srtt ≤ s.hall) | none => true
  if due then { x with preCut := x.rate, rate := s.clampRate (x.rate * (1 - a / 2)), periods := 0, lastCut := some s.hall } else x

/-- `a` is before `b` in the sequence space of psns. -/
def psnBefore (a b : Nat) : Bool := let d := (b + 2 ^ 32 - a) % 2 ^ 32; decide (0 < d) && decide (d < 2 ^ 31)

/-- The job-start hop with a peer, and one replaced. -/
def State.hop (s : State) (peer : Nat) : Hop := (s.fab.hops.find? fun x => x.peer == peer).getD { peer := peer }
def State.setHop (s : State) (x : Hop) : State := { s with fab := { s.fab with hops := x :: s.fab.hops.filter fun y => y.peer != x.peer } }

/-- A port for control messages to a peer: that of a stream with the peer, else the lowest port that is up (DESIGN CHOICE, log 32). -/
def State.ctrlPort (s : State) (peer : Nat) : Nat :=
  match s.fab.streams.find? fun x => x.peerAddr == peer with
  | some x => x.port
  | none => ((List.range 64).find? s.portUp).getD 0

/-- A part of a job-start delivery sent on its hop, sequenced as DATA is (R382). -/
def State.sendHop (s : State) (peer : Nat) (p : DeliverPart) : State :=
  let x := s.hop peer
  (s.setHop { x with next := (x.next + 1) % 2 ^ 32, unacked := x.unacked ++ [⟨x.next, p, s.hall, 0, false⟩] }).sendFab (s.ctrlPort peer)
    (.deliver peer x.next p)

/-- A part sent again, as a stream's packet is; one sent 8 times again is dropped: a hop has no stream to break, and the deadlines of R383 tell
of a peer that does not acknowledge it (DESIGN CHOICE, log 32). -/
def State.repeatHop (s : State) (peer : Nat) (k : HopPkt) (fast : Bool) : State :=
  let x := s.hop peer
  let port := s.ctrlPort peer
  if 8 ≤ k.resends then s.setHop { x with unacked := x.unacked.filter fun e => e.psn != k.psn }
  else
    let q := { k with resends := k.resends + 1, sentAt := s.hall, fast := fast }
    ((s.setHop { x with unacked := x.unacked.map fun e => if e.psn = k.psn then q else e }).sendFab port (.deliver peer k.psn k.part)).inc
      (PRT_MLADUB.retransmits port) 1

/-- The retransmission time-out of a hop's part. -/
def State.resendHop (s : State) (peer psn : Nat) : State :=
  let x := s.hop peer
  match x.unacked.find? fun e => e.psn == psn with
  | none => s
  | some k =>
    if !s.portUp (s.ctrlPort peer) then s
    else { s with hall := max s.hall (k.sentAt + s.rtoOf x.srtt x.rttvar k.resends) }.repeatHop peer k false

/-- An ACK reports a packet received. -/
def ackHas (a : AckBody) (p : Nat) : Bool := psnBefore p a.ackPsn || a.ranges.any fun r => !psnBefore p r.1 && !psnBefore r.2 p

/-- The packets of higher psn that an ACK reports received beyond the next in order. -/
def ackLater (a : AckBody) (p : Nat) : Nat :=
  a.ranges.foldl (fun n r => n + (if psnBefore p r.1 then (r.2 + 2 ^ 32 - r.1) % 2 ^ 32 + 1 else 0)) 0

/-- An ACK of a stream (R378, R379): packets acknowledged return their credits; one that three later packets overtook is sent again. -/
def State.ackStream (s : State) (a : AckBody) : State :=
  match s.stream a.stream with
  | none => s
  | some x =>
    let done := x.unacked.filter fun p => ackHas a p.psn
    let left := x.unacked.filter fun p => !ackHas a p.psn
    let s := s.giveCredits x.ctx (done.map (·.credits)).sum
    let x := { x with unacked := left, progress := if done.isEmpty then x.progress else s.hall,
                      srtt := Config.smoothRtt x.srtt a.rttNs, rttvar := Config.rttVariation x.srtt x.rttvar a.rttNs }
    let x := if a.ceCount ≠ 0 then s.congested x else x
    let s := s.setStream x
    ((left.filter fun p => !p.fast && !p.unpaid && decide (3 ≤ ackLater a p.psn)).foldl (fun s p =>
      match s.stream a.stream with | some y => s.resend y p.psn true | none => s) s).payWaiting (s.cpart x.ctx)

/-- An ACK of a job-start hop, taken as a stream's is (R382). -/
def State.ackHop (s : State) (peer : Nat) (a : AckBody) : State :=
  let x := s.hop peer
  let left := x.unacked.filter fun k => !ackHas a k.psn
  let s := s.setHop { x with unacked := left, srtt := Config.smoothRtt x.srtt a.rttNs, rttvar := Config.rttVariation x.srtt x.rttvar a.rttNs }
  (left.filter fun k => !k.fast && decide (3 ≤ ackLater a k.psn)).foldl (fun s k => s.repeatHop peer k true) s

/-- ACK_RECEIVED, at the port of its stream or of its hop. -/
def State.ackReceived (s : State) (a : AckBody) : State :=
  match a.peer, s.stream a.stream with
  | some peer, _ => s.arriveFor (s.ctrlPort peer) (.ackReceived a) fun s => s.ackHop peer a
  | none, some x => if x.direction ≠ 0 then s else s.arriveFor x.port (.ackReceived a) fun s => s.ackStream a
  | none, none => s

def execAckReceived (ack : AckBody) (s : State) : Result := .next (s.ackReceived ack)

/-- RETRANSMISSION_TIMEOUT (R378, R379): the packet is resent and the rate halved, or the stream breaks after 8 resends. While
the port is down the data waits. -/
def State.retransmission (s : State) (h psn : Nat) : State :=
  match s.stream h with
  | none => s
  | some x =>
    match x.unacked.find? fun p => p.psn == psn with
    | none => s
    | some p =>
      if !s.portUp x.port || p.unpaid then s
      else
        let s := { s with hall := max s.hall (p.sentAt + s.rto x p) }
        let x := { x with rate := s.clampRate (x.rate / 2) }
        (s.setStream x).resend x psn false

/-- `peer` names a job-start hop in place of a stream (R382). -/
def execRetransmissionTimeout (stream psn : Nat) (peer : Option Nat) (s : State) : Result :=
  .next (if !s.up then s else match peer with | some a => s.resendHop a psn | none => s.retransmission stream psn)

/-- A stream has work that could make progress: packets unacknowledged, packets held, or a receive word waiting. -/
def State.streamWaits (s : State) (x : Stream) : Bool :=
  !x.unacked.isEmpty || !x.held.isEmpty || s.eng.any fun e => e.1 / 4096 == x.ctx &&
    e.2.flight.any fun f => f.word / 2 ^ 124 == 6 && f.word / 2 ^ 48 % 2 ^ 16 == x.handle

/-- STREAM_TIMEOUT (R378): no progress for stream_timeout_ms. -/
def State.streamTimeout (s : State) (h : Nat) : State :=
  match s.stream h with
  | none => s
  | some x => if s.streamWaits x then
      (({ s with hall := max s.hall (x.progress + s.rd PRT_GLOBAL.stream_timeout_ms * 1000000) }).breakStream x).payWaiting (s.cpart x.ctx) else s

def execStreamTimeout (stream : Nat) (s : State) : Result := .next (if s.up then s.streamTimeout stream else s)

/-- CONGESTION_PERIOD (R379): a period with no ece lowers alpha and raises the rate: halfway back for five periods after a cut,
then by rai. -/
def State.congestionPeriod (s : State) (h : Nat) : State :=
  match s.stream h with
  | none => s
  | some x =>
    if x.ece then s.setStream { x with ece := false }
    else
      let r : Rat := if x.periods < 5 then (x.rate + x.preCut) / 2 else x.rate + s.rd PRT_CC.rai
      s.setStream { x with alpha := (15 / 16) * x.alpha, rate := s.clampRate r, periods := x.periods + 1 }

def execCongestionPeriod (stream : Nat) (s : State) : Result := .next (if s.up then s.congestionPeriod stream else s)

/-! ### Receiving (R377, R378, R380) -/

/-- The ranges of psns held beyond the next in order, at most 8. -/
def heldRanges (l : List Nat) : List (Nat × Nat) :=
  (l.foldl (fun (r : List (Nat × Nat)) p => match r with
    | (a, b) :: t => if (b + 1) % 2 ^ 32 = p then (a, p) :: t else (p, p) :: (a, b) :: t
    | [] => [(p, p)]) []).reverse.take 8

/-- An ACK sent for a stream. -/
def State.sendAck (s : State) (x : Stream) : State :=
  (s.sendFab x.port (.ack x.handle x.expected x.ceCount (heldRanges (x.held.map (·.psn))))).setStream
    { x with sinceAck := 0, ceCount := 0 }

/-- Bytes in order pass on: of a data stream to the bytes ready, of a weight stream to its messages, which the ingest engine takes (R269;
`eom` ends one), of a mirror stream to the partner's ring. -/
def Stream.pass (x : Stream) (b : Bytes) (eom : Bool) : Stream :=
  if x.kind = 0 then { x with ready := x.ready ++ b }
  else if x.kind ≠ 1 then x
  else if eom then { x with msgs := x.msgs ++ [x.part ++ b], part := [] } else { x with part := x.part ++ b }

/-- Bytes are of no contribution, or of the attempt that the stream's context is running or awaiting; those of any other attempt are discarded
(R261). -/
def State.freshFor (s : State) (x : Stream) : Option (Nat × Nat) → Bool
  | none => true
  | some (step, attempt) => match (s.ctx x.ctx).train with
    | some t => t.req.step == step && t.attempt == attempt && !t.voided
    | none => false

/-- Packets held beyond the gap that are now in order pass on, where `fresh` takes them; `n` bounds the packets. -/
def advance (fresh : Option (Nat × Nat) → Bool) : Nat → Stream → Stream
  | 0, x => x
  | n + 1, x => match x.held.find? fun p => p.psn == x.expected with
    | some p =>
      let y := if fresh p.of_ then x.pass p.payload p.eom else x
      advance fresh n { y with expected := (x.expected + 1) % 2 ^ 32, held := x.held.filter fun q => q.psn != p.psn }
    | none => x

/-- A packet inserted among those held, in sequence order. -/
def insertHeld {α : Type} (psn : α → Nat) (p : α) : List α → List α
  | [] => [p]
  | q :: t => if psnBefore (psn p) (psn q) then p :: q :: t else q :: insertHeld psn p t

/-- Bytes in the reorder buffer of a port's die (R377). -/
def State.bufferUsed (s : State) (p : Nat) : Nat :=
  (s.fab.streams.filter fun x => x.port / 4 == p / 4).foldl
    (fun n x => n + x.ready.length + x.held.foldl (fun m q => m + q.payload.length) 0) 0

/-- A packet of a protected stream that its tag or its counter refuses (R380). -/
def badAuth (x : Stream) (k : MladubPkt) : Bool :=
  x.prot && (!k.isProtected || !k.tagOk || x.accepted.contains k.counter || decide (k.counter + 1024 < x.highest))

/-- A stream packet in hand: authenticated, placed in order, acknowledged as R378 says. -/
def State.takePacket (s : State) (x : Stream) (k : MladubPkt) : State :=
  if badAuth x k then
    let s := (s.inc (PRT_MLADUB.auth_fail x.port) 1).setStream { x with rejects := x.rejects + 1 }
    if 16 ≤ x.rejects + 1 then s.fault 0x3104 2 5 x.port (some x.ctx) (some (s.cpart x.ctx)) [] else s
  else
    let x := if x.prot then { x with highest := max x.highest k.counter,
                                     accepted := (k.counter :: x.accepted).filter fun n => decide (max x.highest k.counter ≤ n + 1024) }
             else x
    let x := if k.ce then { x with ceCount := x.ceCount + 1 } else x
    if psnBefore k.psn x.expected || x.held.any (fun q => q.psn == k.psn) then
      (s.inc (PRT_MLADUB.dup_rx x.port) 1).sendAck x
    else if 16 * 2 ^ 20 < s.bufferUsed x.port + k.payload.length then
      (s.inc (PRT_MLADUB.rx_no_buffer x.port) 1).setStream x
    else
      let inOrder := k.psn == x.expected
      let x := { x with held := insertHeld HeldPkt.psn ⟨k.psn, s.opened x k.counter k.payload, k.eom, k.of_⟩ x.held, arrived := s.hall, sinceAck := x.sinceAck + 1,
                        oldest := if x.sinceAck = 0 then s.hall else x.oldest }
      let x := advance (s.freshFor x) x.held.length x
      let x := if inOrder then { x with progress := s.hall } else x
      if !inOrder ∨ 8 ≤ x.sinceAck then s.sendAck x else s.setStream x

/-- The message types of Table 17-5. -/
def knownType (t : Nat) : Bool :=
  [0x01, 0x02, 0x05, 0x10, 0x11, 0x12, 0x13, 0x20, 0x21, 0x22, 0x30, 0x31].contains t

/-- A Mladub packet in hand; the discards of R371 and R372 come first. -/
def State.takeMladub (s : State) (p : Nat) (k : MladubPkt) : State :=
  if k.extHeader then s.inc (PRT_DISCARDS.ext_discards p) 1
  else
    let s := if k.ce then s.inc (PRT_ECN.ce_rx p) 1 else s
    if !k.udpOk then s.inc (PRT_DISCARDS.udp_discards p) 1
    else if !knownType k.ptype then s.inc (PRT_DISCARDS.bad_type p) 1
    else if k.ptype ≠ 0x01 ∧ k.ptype ≠ 0x30 then s
    else match s.stream k.dstStream with
      | some x =>
        if x.direction = 1 ∧ x.port = p ∧ x.peerHandle = k.srcStream ∧ (x.prot || !k.isProtected) then s.takePacket x k else s
      | none => s

/-- DATA_RECEIVED: a Mladub packet arrives at a port that is UP, for an address that the port may use; where a stopped crossing fails it, its
sender sends it again. -/
def State.dataReceived (s : State) (p : Nat) (k : MladubPkt) : State := s.arriveFor p (.dataReceived p k) fun s => s.takeMladub p k

def execDataReceived (port : Nat) (pkt : MladubPkt) (s : State) : Result := .next (s.dataReceived port pkt)

/-- ACK_DELAY_EXPIRY (R378): ack_delay_us from the oldest unacknowledged packet. -/
def State.ackDelay (s : State) (h : Nat) : State :=
  match s.stream h with
  | some x => if x.direction = 1 ∧ x.sinceAck ≠ 0 ∧ s.portUp x.port = true then
      ({ s with hall := max s.hall (x.oldest + s.rd PRT_GLOBAL.ack_delay_us * 1000) }).sendAck x else s
  | none => s

def execAckDelayExpiry (stream : Nat) (s : State) : Result := .next (if s.up then s.ackDelay stream else s)

/-! ### Control messages (R374) -/

/-- A control message sent to a peer with a new message id, repeated until it is answered. -/
def State.sendCtrl (s : State) (port peer ctype : Nat) (body : Bytes) : State :=
  let id := s.fab.nextId
  let s := { s with fab := { s.fab with nextId := id + 1, ctrlOut := s.fab.ctrlOut ++ [(⟨id, peer, ctype, body, s.hall, 0, false⟩ : CtrlOut)] } }
  s.sendFab port (.ctrl peer id ctype body)

/-- A control message received: answered with CTRL_ACK, a repeat too, and acted on once by its sender and id. It comes in as any packet does,
through crossing 2 (`i`: its own command). -/
def State.ctrlOnce (s : State) (peer id : Nat) (i : Instr) (act : State → State) : State :=
  s.arriveFor (s.ctrlPort peer) i fun s =>
    let seen := s.fab.ctrlSeen.contains (peer, id)
    let s := s.sendFab (s.ctrlPort peer) (.ctrlAck peer id)
    if seen then s else act { s with fab := { s.fab with ctrlSeen := (peer, id) :: s.fab.ctrlSeen } }

/-- Repeats of a message stop; a JOB_COMMIT is kept until its JOB_COMMIT_ACK, or its last repeat, is due (R384). -/
def State.stopRepeats (s : State) (peer id : Nat) : State :=
  let left := s.fab.ctrlOut.filter fun m => !(m.id == id && m.peer == peer && m.ctype != 0x12)
  { s with fab := { s.fab with ctrlOut := left.map fun (m : CtrlOut) => if m.id = id ∧ m.peer = peer then { m with acked := true } else m } }

/-- CTRL_ACK. -/
def State.ctrlAcked (s : State) (peer id : Nat) : State :=
  s.arriveFor (s.ctrlPort peer) (.ctrlAck peer id) fun s => s.stopRepeats peer id

def execCtrlAck (peer id : Nat) (s : State) : Result := .next (s.ctrlAcked peer id)

end Sys2Proof.Machine
end

