-- ==== Sys2Proof/Machine/Num.lean ====
section
/-! DEFINITION. Number formats (chapter 4): decoding and encoding of Table 4-2, exact arithmetic on decoded values, rounding,
block conversions, and the A40 accumulator. -/

namespace Sys2Proof.Machine

/-! ### Exact values -/

/-- A power of two. -/
def pow2 (e : Int) : Rat := if 0 ≤ e then ((2 ^ e.toNat : Nat) : Rat) else 1 / ((2 ^ (-e).toNat : Nat) : Rat)

/-- floor(log2 q) of a positive value. -/
def floorLog2 (q : Rat) : Int :=
  let n : Int := (Nat.log2 q.num.natAbs : Int) - (Nat.log2 q.den : Int)
  if pow2 n ≤ q then n else n - 1

/-- The value of a finite number, with its sign. -/
def Num.val : Num → Rat
  | .fin neg m => if neg then -m else m
  | _ => 0

/-- A finite number of a value; zero takes the sign given. -/
def Num.of (zneg : Bool) (q : Rat) : Num := if q = 0 then .fin zneg 0 else if q < 0 then .fin true (-q) else .fin false q

def Num.zero : Num := .fin false 0
def Num.isNan : Num → Bool | .nan => true | _ => false
def Num.isFin : Num → Bool | .fin _ _ => true | _ => false
def Num.neg : Num → Num
  | .nan => .nan | .inf n => .inf !n | .fin n m => .fin (!n) m

/-- The sign a number carries. -/
def Num.isNeg : Num → Bool
  | .nan => false | .inf n => n | .fin n _ => n

/-- The exact sum; an exact zero from two unlike signs is +0. ∞ − ∞ is invalid. -/
def Num.add : Num → Num → Num
  | .fin n a, .fin m b => .of (n && m) ((Num.fin n a).val + (Num.fin m b).val)
  | .inf n, .inf m => if n = m then .inf n else .nan
  | .inf n, .fin _ _ => .inf n
  | .fin _ _, .inf n => .inf n
  | _, _ => .nan

/-- The exact product; 0 · ∞ is invalid. -/
def Num.mul : Num → Num → Num
  | .fin n a, .fin m b => .fin (n != m) (a * b)
  | .inf n, .inf m => .inf (n != m)
  | .inf n, .fin m b => if b = 0 then .nan else .inf (n != m)
  | .fin m b, .inf n => if b = 0 then .nan else .inf (n != m)
  | _, _ => .nan

/-- `x` is below `y`; −0 is below +0. -/
def Num.lt : Num → Num → Bool
  | .inf true, .inf true => false
  | .inf true, .fin _ _ => true
  | .inf true, .inf false => true
  | .fin _ _, .inf false => true
  | .fin n a, .fin m b =>
    let x := (Num.fin n a).val
    let y := (Num.fin m b).val
    decide (x < y) || (x == y && n && !m)
  | _, _ => false

def Num.max (a b : Num) : Num := if a.isNan || b.isNan then .nan else if a.lt b then b else a
def Num.min (a b : Num) : Num := if a.isNan || b.isNan then .nan else if a.lt b then a else b

/-! ### Flags of TIL_NUM_STATUS -/

def flUnderflow : Nat := 0x01
def flSr : Nat := 0x02
def flSat : Nat := 0x04
def flInf : Nat := 0x08
def flNanIn : Nat := 0x10
def flNanOut : Nat := 0x20
def flA40 : Nat := 0x40
def flB16 : Nat := 0x80

/-- The flag of an operation on `l` with result `r`: a NaN operand, or an invalid operation on operands with none. -/
def nanFlag (l : List Num) (r : Num) : Nat :=
  if l.any Num.isNan then flNanIn else if r.isNan then flNanOut else 0

/-- The flag of conversions of a list: a NaN among them. -/
def nanIn (l : List Num) : Nat := if l.any Num.isNan then flNanIn else 0

/-! ### Layouts (Table 4-2) -/

/-- A floating-point layout: exponent and fraction bits, bias, and whether the top exponent is all infinity and NaN. -/
structure Fmt where
  e : Nat
  f : Nat
  bias : Int
  ieee : Bool
deriving DecidableEq, Repr

def fmtOf : Nat → Fmt
  | 0 => ⟨8, 7, 127, true⟩
  | 1 => ⟨5, 10, 15, true⟩
  | 2 => ⟨4, 3, 7, false⟩
  | 3 => ⟨5, 2, 15, true⟩
  | 5 => ⟨2, 1, 1, false⟩
  | 7 => ⟨8, 23, 127, true⟩
  | 8 => ⟨11, 52, 1023, true⟩
  | _ => ⟨9, 30, 255, true⟩

/-- Bits of an element of a format, and bytes it takes where it stands alone. -/
def fmtBits : Nat → Nat
  | 0 | 1 | 6 => 16 | 2 | 3 | 4 => 8 | 5 => 4 | 7 => 32 | _ => 64
def fmtBytes (code : Nat) : Nat := (fmtBits code + 7) / 8

/-- A format whose elements share an E8M0 scale. -/
def isMx (code : Nat) : Bool := decide (2 ≤ code) && decide (code ≤ 5)

/-- The value of an element's bits, its scale apart. -/
def decodeNum (code w : Nat) : Num :=
  if code = 4 then .of false ((sgn 8 (w % 256) : Rat) / 64)
  else
    let m := fmtOf code
    let f := bits w 0 m.f
    let e := bits w m.f m.e
    let neg := bits w (m.f + m.e) 1 == 1
    if m.ieee && e == 2 ^ m.e - 1 then (if f = 0 then .inf neg else .nan)
    else if code = 2 ∧ e = 15 ∧ f = 7 then .nan
    else if e = 0 then .fin neg ((f : Rat) * pow2 (1 - m.bias - m.f))
    else .fin neg (((2 ^ m.f + f : Nat) : Rat) * pow2 ((e : Int) - m.bias - m.f))

/-- The value of an E8M0 scale; 0xFF is NaN. -/
def scaleNum (e : Nat) : Num := if e = 255 then .nan else .fin false (pow2 ((e : Int) - 127))

/-- A block's element under its scale. -/
def scaled (code e w : Nat) : Num := if e = 255 then .nan else (decodeNum code w).mul (scaleNum e)

/-- The largest finite magnitude of a format. -/
def fmtMax (code : Nat) : Rat :=
  let m := fmtOf code
  if code = 2 then 448
  else if code = 5 then 6
  else (2 - pow2 (-(m.f : Int))) * pow2 ((2 ^ m.e : Nat) - 2 - m.bias)

/-- The bits of a value that a format holds exactly; a NaN is the canonical one (Table 4-4). -/
def encodeNum (code : Nat) (x : Num) : Nat :=
  let m := fmtOf code
  let s (neg : Bool) : Nat := bit neg * 2 ^ (m.e + m.f)
  match x with
  | .nan => (2 ^ m.e - 1) * 2 ^ m.f + 2 ^ (m.f - 1)
  | .inf neg => s neg + (2 ^ m.e - 1) * 2 ^ m.f
  | .fin neg q =>
    if q = 0 then s neg
    else
      let e := Max.max (floorLog2 q) (1 - m.bias)
      let n := (q * pow2 ((m.f : Int) - e)).floor.toNat
      if n < 2 ^ m.f then s neg + n else s neg + (e + m.bias).toNat * 2 ^ m.f + (n - 2 ^ m.f)

/-! ### Rounding (R85 to R89) -/

/-- A magnitude in units rounded to a whole number of them: to nearest, ties to even, or stochastically with draw `r`. -/
def roundUnits (draw : Option Nat) (q : Rat) : Nat :=
  let n := q.floor.toNat
  let d := q - n
  match draw with
  | some r => if 65536 ≤ (d * 65536).floor.toNat + r then n + 1 else n
  | none => if (1 / 2 : Rat) < d ∨ (d = 1 / 2 ∧ n % 2 = 1) then n + 1 else n

/-- A value converted to a format, with the flags it sets but those of NaN, which the operation as a whole sets (`nanFlag`). `inf`:
overflow gives infinity. An infinite value stays infinite and sets no flag, under saturate too: R85 and R86 do not say whether it
overflows (DESIGN CHOICE, log 49). -/
def roundNum (code : Nat) (draw : Option Nat) (inf : Bool) (x : Num) : Num × Nat :=
  let sr := if draw.isSome then flSr else 0
  match x with
  | .nan => (.nan, sr)
  | .inf n => (.inf n, sr)
  | .fin neg q =>
    if q = 0 then (.fin neg 0, sr)
    else
      let m := fmtOf code
      let e := Max.max (floorLog2 q) (1 - m.bias)
      let u := pow2 (e - m.f)
      let y := (roundUnits draw (q / u) : Rat) * u
      if fmtMax code < y then
        if inf && code != 2 then (.inf neg, sr ||| flInf) else (.fin neg (fmtMax code), sr ||| flSat)
      else (.fin neg y, if y = 0 then sr ||| flUnderflow else sr)

/-- The result of one operation on operands `l` with exact result `r`, rounded. -/
def roundOp (code : Nat) (draw : Option Nat) (inf : Bool) (l : List Num) (r : Num) : Num × Nat :=
  let y := roundNum code draw inf r
  (y.1, y.2 ||| nanFlag l r)

/-- An accumulator with `y` in place of its contents became infinite (Table 4-8). -/
def overflowFlag (acc : Option Num) (y : Num) : Nat :=
  match acc, y with
  | some (.inf _), _ => 0
  | _, .inf _ => flA40
  | _, _ => 0

/-- The product of two elements with their scales, as an array cell adds it: one whose magnitude exceeds A40's range is an infinity (R83),
and sets a40_overflow. Two such products of unlike signs in one beat are ∞ − ∞ (DEDUCED, log 48). -/
def productA40 (x y : Num) : Num × Nat :=
  let p := x.mul y
  match p with
  | .fin n m => if fmtMax 9 < m then (.inf n, flA40) else (p, 0)
  | _ => (p, nanFlag [x, y] p)

/-- The exact sum of a beat's products, with its flags: a NaN product has set its own flag, and infinities of unlike signs are an
invalid operation. -/
def sumProducts : List (Num × Num) → Num × Nat
  | [] => (Num.zero, 0)
  | x :: xs => xs.foldl (fun a y =>
      let p := productA40 y.1 y.2
      let r := a.1.add p.1
      (r, a.2 ||| p.2 ||| (if r.isNan && !a.1.isNan && !p.1.isNan then flNanOut else 0))) (productA40 x.1 x.2)

/-- The exact sum of exact products (R123), with the flags of their operands and of an invalid operation. -/
def sumExact (l : List (Num × Num)) : Num × Nat :=
  l.foldl (fun a y =>
    let p := y.1.mul y.2
    let r := a.1.add p
    (r, a.2 ||| nanFlag [y.1, y.2] p ||| (if r.isNan && !a.1.isNan && !p.isNan then flNanOut else 0))) (.fin (l.all fun y =>
      (y.1.mul y.2).isNeg) 0, 0)

/-- A sum whose magnitude exceeds A40's range is an infinity, as R83 says of a scaled product. -/
def rangeA40 : Num → Num × Nat
  | .fin n m => if fmtMax 9 < m then (.inf n, flA40) else (.fin n m, 0)
  | x => (x, 0)

/-- The exact sum `x` added into an A40 accumulator with one rounding, or standing in it where it replaces its contents (R82, R83, R102);
an accumulator that becomes infinite sets a40_overflow. -/
def accumulate (acc : Option Num) (x : Num) : Num × Nat :=
  let r := match acc with | some a => a.add x | none => x
  let y := roundNum 9 none true r
  let nan := if acc.any Num.isNan then flNanIn else if r.isNan && !x.isNan then flNanOut else 0
  (y.1, nan ||| (y.2 &&& flUnderflow) ||| overflowFlag acc y.1)

/-- The magnitude of a number, none for a value that is not finite. -/
def Num.mag? : Num → Option Rat
  | .fin _ m => some m
  | _ => none

/-- The largest magnitude of a list of finite numbers. -/
def amax (l : List Num) : Rat := l.foldl (fun a x => match x with | .fin _ m => Max.max a m | _ => a) 0

/-- A block converted to an MX format (R86, R87): scale, element bits, flags but those of NaN, elements saturated. A block given
scale 0xFF has elements of zero bits (DESIGN CHOICE, log 49: R86 states the scale alone). -/
def mxBlock (code : Nat) (draws : List (Option Nat)) (inf : Bool) (l : List Num) : Nat × List Nat × Nat × Nat :=
  let sr := if draws.any Option.isSome then flSr else 0
  if l.any fun x => !x.isFin then
    (255, l.map fun _ => 0, sr, 0)
  else if l.all fun x => x.val == 0 then (0, l.map fun x => if code = 4 then 0 else encodeNum code x, sr, 0)
  else
    let emax : Int := match code with | 2 => 8 | 3 => 15 | 5 => 2 | _ => 0
    let e : Int := Max.max (-127) (Min.min 127 (floorLog2 (amax l) - emax))
    let one (x : Num) (d : Option Nat) : Nat × Nat :=
      if code = 4 then
        let n := roundUnits d ((if x.isNeg then -x.val else x.val) * pow2 (-e) * 64)
        if x.isNeg then (if 127 < n then (0x80, flSat) else ((256 - n) % 256, if n = 0 ∧ x.val ≠ 0 then flUnderflow else 0))
        else if 127 < n then (0x7f, flSat) else (n, if n = 0 ∧ x.val ≠ 0 then flUnderflow else 0)
      else
        let y := roundNum code d inf (.of x.isNeg (x.val * pow2 (-e)))
        (encodeNum code y.1, y.2)
    let r := (l.zip (draws ++ List.replicate (l.length - draws.length) none)).map fun p => one p.1 p.2
    ((e + 127).toNat, r.map (·.1), r.foldl (fun f p => f ||| p.2) sr,
      (r.filter fun p => p.2 &&& flSat != 0).length)

/-- The mantissa of a value at B16 exponent `x`, before the range test. -/
def b16Mant (draw : Option Nat) (x : Nat) (v : Num) : Int :=
  let n := roundUnits draw ((if v.isNeg then -v.val else v.val) * pow2 (142 - (x : Int)))
  if v.isNeg then -(n : Int) else (n : Int)

/-- Whether every element fits at exponent `x`. -/
def b16Fits (draws : List (Option Nat)) (l : List Num) (x : Nat) : Bool :=
  (l.zip draws).all fun p => let m := b16Mant p.2 x p.1; decide (-32768 ≤ m) && decide (m ≤ 32767)

/-- A block rounded to B16 (R79): exponent field, mantissas, flags but those of NaN, elements saturated. A block given field 255 has
mantissas of 0 (DESIGN CHOICE, log 49: R79 states the field alone). -/
def b16Block (draws0 : List (Option Nat)) (l : List Num) : Nat × List Int × Nat × Nat :=
  let draws := draws0 ++ List.replicate (l.length - draws0.length) none
  let sr := if draws.any Option.isSome then flSr else 0
  if l.any fun v => !v.isFin then (255, l.map fun _ => 0, sr ||| flB16, 0)
  else if l.all fun v => v.val == 0 then (0, l.map fun _ => 0, sr, 0)
  else
    let lo := (floorLog2 (amax l) + 127).toNat - 1
    let x := ((List.range 4).map (· + lo)).find? fun x => decide (x ≤ 254) && b16Fits draws l x
    let x := x.getD 254
    let ms := (l.zip draws).map fun p => b16Mant p.2 x p.1
    let clip (m : Int) : Int := Max.max (-32768) (Min.min 32767 m)
    let sats := (ms.filter fun m => clip m != m).length
    let under := (l.zip ms).any fun p => p.2 == 0 && p.1.val != 0
    (x, ms.map clip, sr ||| (if sats = 0 then 0 else flSat) ||| (if under then flUnderflow else 0), sats)

/-- The value of a B16 element; a block with field 0xFF is invalid. -/
def b16Num (x m : Nat) : Num := if x = 255 then .nan else .of false ((sgn 16 m : Rat) * pow2 ((x : Int) - 142))

/-! ### Stochastic rounding lanes (R90, R91) -/

/-- The generator's next state. -/
def xorshift (x : W64) : W64 :=
  let x := x ^^^ (x <<< 13)
  let x := x ^^^ (x >>> 7)
  x ^^^ (x <<< 17)

/-- The seed of a tile for a step. -/
def tileSeed (seed t : Nat) : Nat := (seed ^^^ (t * 0x9E3779B97F4A7C15 % 2 ^ 64)) % 2 ^ 64

/-- The first state of a lane in a step. -/
def laneStart (tseed unit lane : Nat) : W64 :=
  let x := BitVec.ofNat 64 (tseed ^^^ (unit * 2 ^ 56) ^^^ lane)
  if x = 0 then 1 else x

/-- `n` draws of a unit with `lanes` lanes, element i on lane i mod lanes; the lane states advance. R91 names neither the lane of an
element nor how many lanes a unit has: 512 for the drain, 256 for the ingest transform and the reduction adders, 192 for the mule, and for
the vector engine its lanes for the input format, halved while the other slot runs an operation (DESIGN CHOICE, log 50). -/
def drawMany (tseed unit lanes : Nat) : Nat → Nat → List (Nat × W64) → List Nat × List (Nat × W64)
  | 0, _, tab => ([], tab)
  | n + 1, i, tab =>
    let k := 1024 * unit + i % lanes
    let st := match tab.find? fun e => e.1 == k with | some e => e.2 | none => laneStart tseed unit (i % lanes)
    let x := xorshift st
    let r := drawMany tseed unit lanes n (i + 1) ((k, x) :: tab.filter fun e => e.1 != k)
    ((x >>> 48).toNat :: r.1, r.2)

end Sys2Proof.Machine
end

