-- ==== Sys2Proof/Machine/TileMem.lean ====
section
/-! DEFINITION. The memories of a tile as its units reach them: address windows (R256, R287), share checks (R97, R199, R318),
lines, elements of a format, statistics records, and the tile's numeric status and counters. -/

namespace Sys2Proof.Machine

/-! ### Counters and status -/

/-- Flags set in TIL_NUM_STATUS, with the elements saturated (R86, R95). -/
def State.numFlags (s : State) (t flags sats : Nat) : State :=
  let a := TIL_NUM_STATUS t
  let v := s.reg a
  (s.setReg a (setBits v 0 8 (bits v 0 8 ||| flags))).inc (TIL_NUM_STATUS.sat_count t) sats

/-- A loop counter and a semaphore of a tile. -/
def insLoop (t k : Nat) : RF := ⟨INS_LOOP t, 16 * k, 16⟩
def insSem (t m : Nat) : RF := ⟨INS_SEM t (m / 8), 8 * (m % 8), 8⟩

/-- The cycles of a tile's step and its slip; the schedule cycle is what remains (R193), and the run-ahead engine's lead follows it (Table
9-14). -/
def State.schedule (s : State) (c t cycle slip : Nat) : State :=
  let s := (s.wr (INS_SLIP.slip t) slip).wr (INS_SCHED.step_cycle t) cycle
  (s.wr (INS_SCHED.sched_cycle t) (cycle - slip)).wr (INS_RA.lead t) ((s.engOf c t).lastAt - (cycle - slip))

/-- Cycles stretched or held, which lengthen the step and count as slip (R193). -/
def State.slipBy (s : State) (c t n : Nat) : State :=
  s.schedule c t (s.rd (INS_SCHED.step_cycle t) + n) (s.rd (INS_SLIP.slip t) + n)

/-- The limiter holds `level` periods in each window of 8 while `n` cycles pass; where in a window they begin is open (free; R399). -/
def State.limited (s : State) (c t n : Nat) : State :=
  let l := s.rd PWR_STATUS.limiter_level
  if l = 0 then s
  else
    let f := s.free 8
    let k := n / (8 - l) * l + f.1 % (l + 1)
    (f.2.slipBy c t k).count t (PWR_LIMIT.limit_cycles t) k

/-! ### Windows -/

/-- The weight set of the run a context's serving step is in. -/
def State.runSet (s : State) (c : Nat) : Option Nat := (s.ctx c).step.bind (·.set)

/-- A value inside a window reaches the same offset from the base of the run's set (R287). -/
def throughWindow (win len base x : Nat) : Nat := if win ≤ x ∧ x < win + len then base + (x - win) else x

/-- The stack unit that a unit of the program reaches through the stack window of weight set `k`. -/
def State.setUnit (s : State) (c : Nat) (k : Option Nat) (u : Nat) : Nat :=
  match k with
  | some k => throughWindow (s.rd (WGT_STACK_WIN.win c)) (s.rd (WGT_STACK_LEN.len c)) (s.rd (WGT_STACK_SET.base c k)) u
  | none => u

/-- A mask set of a context by its weight set and its address (R146). -/
def CtxS.maskSet (k : CtxS) (slot : Option Nat) (addr : Nat) : Option MaskSet := k.masks.find? fun m => m.slot == slot && m.addr == addr

/-- The byte of the stack space at which byte `x` of a buffer of a mask set stands, through the window of its weight set (R287, R472). -/
def State.maskAt (s : State) (c : Nat) (m : MaskSet) (buf x : Nat) : Nat :=
  let y := m.size * buf + x
  256 * s.setUnit c m.slot (m.addr + y / 256) + y % 256

/-- The SRAM line that a line number of the program reaches. -/
def State.xLine (s : State) (c l : Nat) : Nat :=
  match s.runSet c with
  | some k => throughWindow (s.rd (WGT_SRAM_WIN.win_line c)) (s.rd (WGT_SRAM_WIN.win_lines c))
      (s.rd (if k = 0 then WGT_SRAM_BASE.base0 c else WGT_SRAM_BASE.base1 c)) l
  | none => l

/-- The scale store byte and the mask store byte that an address of the program reaches. -/
def State.xScale (s : State) (c a : Nat) : Nat :=
  match s.runSet c with
  | some k => throughWindow (64 * s.rd (WGT_SCALE_WIN.win c)) (64 * s.rd (WGT_SCALE_WIN.len c))
      (64 * s.rd (if k = 0 then WGT_SCALE_WIN.base0 c else WGT_SCALE_WIN.base1 c)) a
  | none => a
def State.xMask (s : State) (c a : Nat) : Nat :=
  let v := s.reg (WGT_MASK_WIN c)
  match s.runSet c with
  | some k => throughWindow (256 * bits v 0 14) (256 * bits v 14 14) (256 * bits v (if k = 0 then 28 else 42) 14) a
  | none => a

/-! ### Checks -/

/-- The fault that lines `l` to `l + n - 1` of tile SRAM raise, 0 when none: beyond the SRAM (R97), or outside the context's share or in its
save area (R199, R318). -/
def State.rangeFault (s : State) (c l n : Nat) : Nat :=
  let base := s.rd (PAR_CTX_CFG.share_base c)
  if n = 0 then 0
  else if 81920 < l + n then 0x2501
  else if l < base ∨ base + s.rd (PAR_CTX_CFG.share_lines c) - 5120 < l + n then 0x2906
  else 0

/-- The fault that an access to `n` lines of the program's from line `l` raises: each line where the SRAM window takes it (R287). -/
def State.sramFault (s : State) (c l n : Nat) : Nat :=
  if (s.runSet c).isNone then s.rangeFault c l n
  else (List.range n).foldl (fun f i => if f ≠ 0 then f else s.rangeFault c (s.xLine c (l + i)) 1) 0

/-- The first fault of a list of accesses by line and count. -/
def State.sramFaults (s : State) (c : Nat) (l : List (Nat × Nat)) : Nat :=
  l.foldl (fun f q => if f ≠ 0 then f else s.sramFault c q.1 q.2) 0

/-- Bytes `a` to `a + n - 1` of the program's scale store, or mask store, lie in the context's portion of it, each where the window of the
set takes it (R287, R319). -/
def State.inScale (s : State) (c a n : Nat) : Bool :=
  let p := s.portion c 8192
  let ok (x k : Nat) : Bool := decide (64 * p.1 ≤ x) && decide (x + k ≤ 64 * p.2)
  if (s.runSet c).isNone then ok a n else (List.range n).all fun i => ok (s.xScale c (a + i)) 1
def State.inMask (s : State) (c a n : Nat) : Bool :=
  let p := s.portion c 8192
  let ok (x k : Nat) : Bool := decide (256 * p.1 ≤ x) && decide (x + k ≤ 256 * p.2)
  if (s.runSet c).isNone then ok a n else (List.range n).all fun i => ok (s.xMask c (a + i)) 1

/-! ### The code check (R101) -/

/-- A code error met in the tile SRAM of context `c`'s work (R98, R101). -/
def State.sramEccOf (s : State) (c : Option Nat) (t : Nat) (e : SramEcc) : State :=
  let show_ (s : State) : State :=
    (s.wr (TIL_SRAM_ECC.last_bank t) ((e.line + e.line / 48) % 48)).wr (TIL_SRAM_ECC.last_row t) (e.line / 48)
  match e.outcome with
  | .clean => s
  | .corrected => show_ ((s.inc (TIL_SRAM_ECC.corrected_count t) 1).wr (TIL_SRAM_ECC.corrected t) 1)
  | .uncorrectable => (show_ (s.wr (TIL_SRAM_ECC.uncorrected t) 1)).fault 0x2502 2 1 t c (s.partOf t) []

/-- It is met in the work of the context that runs there. -/
def State.sramEcc (s : State) (t : Nat) (e : SramEcc) : State := s.sramEccOf (s.ctxOn t) t e

/-- The `i`-th line of a list of runs of lines. -/
def nthLine : List (Nat × Nat) → Nat → Nat
  | [], _ => 0
  | q :: l, i => if i < q.2 then q.1 + i else nthLine l (i - q.2)

/-- What the code check finds while lines are read and no command says it: open, and where (free; DESIGN CHOICE, log 66). `line` gives the SRAM
line that a line number of the list reaches. -/
def State.openEcc (s : State) (line : Nat → Nat) (l : List (Nat × Nat)) : SramEcc × State :=
  let n := l.foldl (fun n q => n + q.2) 0
  if n = 0 then (⟨.clean, 0⟩, s)
  else
    let r := s.free 32
    let o : EccOutcome := match r.1 % 3 with | 0 => .clean | 1 => .corrected | _ => .uncorrectable
    (⟨o, line (nthLine l (r.1 / 3 % n))⟩, r.2)

/-- Lines that the program of context `c` names are read, with what the code check finds. -/
def State.checkedRead (s : State) (c t : Nat) (l : List (Nat × Nat)) : State :=
  let e := s.openEcc (s.xLine c) l
  e.2.sramEccOf (some c) t e.1

/-- The share of a context in its tiles is read, as far as no code error tears the context down (R101, R326, R331). -/
def State.checkShare (s : State) (c : Nat) : State :=
  (s.partTiles (s.cpart c)).foldl (fun s t =>
    if s.cst c = stTeardown then s
    else
      let e := s.openEcc id [(s.rd (PAR_CTX_CFG.share_base c), s.rd (PAR_CTX_CFG.share_lines c))]
      e.2.sramEccOf (some c) t e.1) s

/-! ### Bytes and lines -/

/-- The address of an SRAM byte that the program of context `c` names in tile `t`. -/
def State.sramAddr (s : State) (c t a : Nat) : Nat := tileAddr (s.phys t) (256 * s.xLine c (a / 256) + a % 256)

def State.rdSram (s : State) (c t a n : Nat) : Bytes := (List.range n).map fun i => s.rdB (s.sramAddr c t (a + i))
def State.wrSram (s : State) (c t a : Nat) : Bytes → State
  | [] => s
  | v :: b => (s.wrB (s.sramAddr c t a) v).wrSram c t (a + 1) b
def State.rdLine (s : State) (c t l : Nat) : Bytes := s.rdSram c t (256 * l) 256

/-- Word `i` of a byte string cut into words of `k` bytes. -/
def wordAt (k : Nat) (b : Bytes) (i : Nat) : Nat := leAt b (k * i) k

/-! ### Elements -/

/-- Bytes that `n` elements of a format take with the scales or exponent fields that follow them: MX scales and B16 fields stand
in an array directly after the elements (DESIGN CHOICE, log 20). -/
def vecBytes (code n : Nat) : Nat :=
  n * fmtBytes code + (if isMx code ∨ code = 6 then (n + 31) / 32 else 0)

/-- `n` elements of a format from a byte string. -/
def decodeVec (code n : Nat) (b : Bytes) : List Num :=
  let k := fmtBytes code
  let sc (i : Nat) : Nat := leAt b (n * k + i / 32) 1
  (List.range n).map fun i =>
    let w := wordAt k b i
    if code = 6 then b16Num (sc i) w
    else if isMx code then scaled code (sc i) w
    else decodeNum code (w % 2 ^ (if code = 9 then 40 else fmtBits code))

/-- A list cut into runs of `k`; `fuel` bounds the runs. -/
def chunks {α : Type} (k : Nat) : Nat → List α → List (List α)
  | 0, _ => []
  | _, [] => []
  | n + 1, l => l.take k :: chunks k n (l.drop k)

/-- Values converted to a format: their bytes as `decodeVec` reads them, the flags but those of NaN, and the elements saturated. -/
def encodeVec (code : Nat) (draws : List (Option Nat)) (inf : Bool) (l : List Num) : Bytes × Nat × Nat :=
  let d := draws ++ List.replicate (l.length - draws.length) none
  let k := fmtBytes code
  let orAll (r : List Nat) : Nat := r.foldl (· ||| ·) 0
  if code = 6 then
    let r := ((chunks 32 (l.length + 1) l).zip (chunks 32 (l.length + 1) d)).map fun p => b16Block p.2 p.1
    (r.flatMap (fun x => x.2.1.flatMap fun m => leB 2 (twos 16 m)) ++ r.map (fun x => BitVec.ofNat 8 x.1),
     orAll (r.map (·.2.2.1)), r.foldl (fun n x => n + x.2.2.2) 0)
  else if isMx code then
    let r := ((chunks 32 (l.length + 1) l).zip (chunks 32 (l.length + 1) d)).map fun p => mxBlock code p.2 inf p.1
    (r.flatMap (fun x => x.2.1.map (BitVec.ofNat 8)) ++ r.map (fun x => BitVec.ofNat 8 x.1),
     orAll (r.map (·.2.2.1)), r.foldl (fun n x => n + x.2.2.2) 0)
  else
    let r := (l.zip d).map fun p => roundNum code p.2 inf p.1
    (r.flatMap fun x => leB k (encodeNum code x.1), orAll (r.map (·.2)), (r.filter fun x => x.2 &&& flSat != 0).length)

/-- The stochastic draws of `n` elements on a unit's lanes, none under round to nearest. While no step runs the step seed S is 0 (DESIGN
CHOICE, log 50: R90 gives S for a step alone). -/
def State.takeDraws (s : State) (c t unit lanes n : Nat) (sr : Bool) : List (Option Nat) × State :=
  if !sr then (List.replicate n none, s)
  else
    let seed := ((s.ctx c).step.map (·.seed)).getD 0
    let e := s.engOf c t
    let r := drawMany (tileSeed seed t) unit lanes n 0 e.rng
    (r.1.map some, s.setEng c t { e with rng := r.2 })

/-- Values converted and written at an SRAM byte address. -/
def State.putVec (s : State) (c t a code : Nat) (sr inf : Bool) (unit lanes : Nat) (l : List Num) : State :=
  let d := s.takeDraws c t unit lanes l.length sr
  let r := encodeVec code d.1 inf l
  (d.2.numFlags t r.2.1 r.2.2).wrSram c t a r.1

/-- `n` elements of a format at an SRAM byte address. -/
def State.getVec (s : State) (c t a code n : Nat) : List Num := decodeVec code n (s.rdSram c t a (vecBytes code n))

/-! ### Instruction memory (R178, R179) -/

/-- Compute word `pc` of a context in a tile. -/
def State.computeWord (s : State) (c t pc : Nat) : Nat :=
  s.rdLe (tileAddr (s.phys t) (cimemOff + 64 * ((s.portion c 8192).1 + pc))) 64

/-- Descriptor `d` of a context in a tile. -/
def State.descriptor (s : State) (c t d : Nat) : Nat :=
  s.rdLe (tileAddr (s.phys t) (cimemOff + 64 * ((s.portion c 8192).2 - 1 - d / 2) + 32 * (d % 2))) 32

/-- Access word `pc` of a context in a tile. -/
def State.accessWord (s : State) (c t pc : Nat) : Nat :=
  s.rdLe (tileAddr (s.phys t) (aimemOff + 16 * ((s.portion c 8192).1 + pc))) 16

/-! ### Statistics records (R162) -/

def State.statRecord (s : State) (t i : Nat) : Nat × Nat :=
  (s.rdLe (tileAddr (s.phys t) (tagOff + i)) 1, s.rdLe (tileAddr (s.phys t) (statOff + 8 * i)) 8)
def State.setStat (s : State) (t i tag v : Nat) : State :=
  (s.wrBytes (tileAddr (s.phys t) (tagOff + i)) (leB 1 tag)).wrBytes (tileAddr (s.phys t) (statOff + 8 * i)) (leB 8 v)

end Sys2Proof.Machine
end

