-- ==== Sys2Proof/Machine/Product.lean ====
section
/-! DEFINITION. The array at work (chapters 5, 7 and 8): feeder streams in stored, 2:4, unstructured and transposed form with the lines
that their queues hold, the product of a cell, freeze descriptors, drained results, element-wise results, and how far an operation comes. -/

namespace Sys2Proof.Machine

/-! ### Feeder streams (R103, R158, R159, R185) -/

/-- A feeder as an operation uses it: its descriptor, whether it streams from the network, its groups, whether it transposes, its
operand format, whether the product runs at the 8-bit rate, and the lines of its stream that have come: line `i` of group `g` at place
i groups + g. From SRAM they have been read in that order, every group to the same line; from the network the spec gives the order of
arrival and no group, and the model takes the same order (DESIGN CHOICE, log 66). Those that its queues still hold are the ones not spent. -/
structure Feed where
  desc : Nat
  net : Bool
  groups : Nat
  tr : Bool
  fmt : Nat
  wide : Bool
  lines : List Bytes
deriving DecidableEq, Repr

def Feed.perPass (f : Feed) : Nat := bits f.desc 181 17
def Feed.limit (f : Feed) : Nat := if f.net then f.lines.length / f.groups else f.perPass * bits f.desc 169 12

/-- The SRAM line of the `i`-th line of group `g`. -/
def Feed.lineNo (f : Feed) (g i : Nat) : Nat :=
  let first := bits f.desc 232 17 + g * bits f.desc 215 17
  let i := i % f.perPass
  if f.tr then first + i / 32 * bits f.desc 98 17 + i % 32 * bits f.desc 198 17 else first + i * bits f.desc 198 17

/-- The scale lines and mask lines of a group follow one another group by group (DESIGN CHOICE, log 23); `per` lines of the
group's stream have one. -/
def Feed.sideNo (f : Feed) (first per g i : Nat) : Nat := first + g * ((f.perPass + per - 1) / per) + i

/-- The `i`-th line of group `g`: the one that has come, else from SRAM the one it reads now. -/
def State.feedLine (s : State) (c t : Nat) (f : Feed) (g i : Nat) : Bytes :=
  match f.lines[i * f.groups + g]? with
  | some l => l
  | none => if f.net then [] else s.rdLine c t (f.lineNo g i)

/-- In a network stream of an 8-bit operand a scale line stands before each 16 lines of a group (DESIGN CHOICE, log 23). -/
def State.feedValue (s : State) (c t : Nat) (f : Feed) (g i : Nat) : Bytes :=
  s.feedLine c t f g (if f.net && isMx f.fmt then i + i / 16 + 1 else i)
def State.feedScale (s : State) (c t : Nat) (f : Feed) (per g i : Nat) : Bytes :=
  if f.net then s.feedLine c t f g (17 * i) else s.rdLine c t (f.sideNo (bits f.desc 152 17) per g i)

/-- Elements of a queue that one line holds: two beats, of two elements each at the 8-bit rate (R103). -/
def Feed.perBeats (f : Feed) : Nat := if f.wide then 4 else 2

/-- Element `k` of the stream of queue `q` (R103, R158): a line carries two beats; at the 8-bit rate a beat holds two elements of a
byte each, else one element in two bytes, an 8-bit one in the low byte (R81, Table 7-2). A scale line serves 16 lines, with one scale
byte for each 32 elements. -/
def State.feedElem (s : State) (c t : Nat) (f : Feed) (q k : Nat) : Num :=
  let g := q / 64
  let r := q % 64
  if isMx f.fmt then
    let per := 16 * f.perBeats
    let w := if f.net then k else k % (f.perBeats * Max.max 1 f.perPass)
    let l := s.feedValue c t f g (k / f.perBeats)
    scaled f.fmt (leAt (s.feedScale c t f 16 g (w / per)) (64 * (w % per / 32) + r) 1)
      (if f.wide then leAt l (128 * (k / 2 % 2) + 2 * r + k % 2) 1 else wordAt 2 l (64 * (k % 2) + r) % 256)
  else if f.tr then decodeNum f.fmt (wordAt 2 (s.feedLine c t f g (32 * (k / 64) + r / 2)) (64 * (r % 2) + k % 64))
  else decodeNum f.fmt (wordAt 2 (s.feedLine c t f g (k / 2)) (64 * (k % 2) + r))

/-- Lines of a group that `n` elements of a queue take. -/
def Feed.need (f : Feed) (n : Nat) : Nat :=
  let lines := (n + f.perBeats - 1) / f.perBeats
  if isMx f.fmt then lines + (if f.net then (lines + 15) / 16 else 0)
  else if f.tr then (n + 63) / 64 * 32
  else lines

/-- Elements of a queue that the first `l` lines of a group hold. -/
def Feed.elems (f : Feed) (l : Nat) : Nat :=
  if f.tr then l / 32 * 64
  else (if f.net && isMx f.fmt then l - (l + 16) / 17 else l) * f.perBeats

/-- Lines of a group that are spent once `n` elements of each queue have left: a square whole (R158). -/
def Feed.spent (f : Feed) (n : Nat) : Nat := f.need (if f.tr then n / 64 * 64 else n / f.perBeats * f.perBeats)

/-- Lines that the queues of a group take: 32 entries, two to a line (R103), or two squares (R158). Lines of scales, masks and entries take
the place of one (DESIGN CHOICE, log 56). -/
def Feed.room (f : Feed) : Nat := if f.tr then 64 else 16

/-- The lines of scales or masks that a feeder reads from SRAM, `per` lines of its stream having one. -/
def Feed.sides (f : Feed) (first per : Nat) : List (Nat × Nat) :=
  [(bits f.desc first 17, f.groups * ((f.perPass + per - 1) / per))]

/-- The SRAM lines that a feeder reads beside its stream: scales of 8-bit operands, masks of a 2:4 operand (R97). -/
def Feed.sideSpan (f : Feed) (sp : Nat) : List (Nat × Nat) :=
  if f.net then []
  else
    let half := sp == 1 && f.wide
    (if isMx f.fmt then f.sides 152 (if half then 8 else 16) else []) ++ (if sp = 1 then f.sides 135 (if half then 4 else 8) else [])

/-- The SRAM lines that a feeder reads: those of its stream, and those beside it. -/
def Feed.span (f : Feed) (sp : Nat) : List (Nat × Nat) :=
  if f.net then []
  else ((List.range f.groups).flatMap fun g => (List.range f.perPass).map fun i => (f.lineNo g i, 1)) ++ f.sideSpan sp

/-! ### 2:4 operands (R136 to R141) -/

/-- Groups of a column in one value line (Table 7-2). -/
def Feed.perLine (f : Feed) : Nat := if f.wide then 2 else 1

/-- Value lines that a mask line covers, and those that a scale line covers; the mixed-width rate has a scale line for the 64 elements
of 16 value lines (DESIGN CHOICE, log 23). -/
def Feed.maskPer (f : Feed) : Nat := if f.wide then 4 else 8
def Feed.scalePer (f : Feed) : Nat := if f.wide then 8 else 16

/-- A value line of a 2:4 group as the product reads it: its place in the group's stream, its number in its pass, and the mask and scale
lines that cover it. -/
structure ValueLine where
  pos : Nat
  v : Nat
  mask : Bytes
  scale : Bytes
deriving DecidableEq, Repr

/-- The mask of column `r` for the `u`-th group of a value line: one 32-byte sector a group, four bits a column. -/
def Feed.maskIn (f : Feed) (mask : Bytes) (v u r : Nat) : Nat :=
  bits (leAt mask (32 * ((v * f.perLine + u) % 8) + r / 2) 1) (4 * (r % 2)) 4

/-- The set bits of a mask, ascending. -/
def maskBits (m : Nat) : List Nat := (List.range 4).filter fun i => bits m i 1 == 1
def isEscape (m : Nat) : Bool := decide (2 < (maskBits m).length)

/-- Some column of a value line holds an escape group. -/
def Feed.escLine (f : Feed) (mask : Bytes) (v : Nat) : Bool :=
  (List.range 64).any fun r => (List.range f.perLine).any fun u => isEscape (f.maskIn mask v u r)

/-- The mask line and the scale line of value line `v` of a group in SRAM. -/
def State.maskLine (s : State) (c t : Nat) (f : Feed) (g v : Nat) : Bytes := s.rdLine c t (f.sideNo (bits f.desc 135 17) f.maskPer g (v / f.maskPer))
def State.scaleLine (s : State) (c t : Nat) (f : Feed) (g v : Nat) : Bytes :=
  if isMx f.fmt then s.rdLine c t (f.sideNo (bits f.desc 152 17) f.scalePer g (v / f.scalePer)) else []

/-- The first `n` value lines of a group in SRAM: an escape line follows a value line that needs one, and a pass ends with its last
line. -/
def State.walkSram (s : State) (c t : Nat) (f : Feed) (g : Nat) : Nat → Nat → Nat → Nat → List ValueLine
  | 0, _, _, _ => []
  | n + 1, pass, v, pos =>
    let wrap := decide (f.perPass ≤ pos)
    let pass := if wrap then pass + 1 else pass
    let v := if wrap then 0 else v
    let pos := if wrap then 0 else pos
    let mask := s.maskLine c t f g v
    ⟨pass * f.perPass + pos, v, mask, s.scaleLine c t f g v⟩ :: s.walkSram c t f g n pass (v + 1) (pos + 1 + bit (f.escLine mask v))

/-- The first `n` value lines of a group's network stream, in which a scale line and then a mask line stand before the value lines they
cover (R139; DESIGN CHOICE, log 23). -/
def Feed.walkNet (f : Feed) (line : Nat → Bytes) : Nat → Nat → Nat → Bytes → Bytes → List ValueLine
  | 0, _, _, _, _ => []
  | n + 1, v, pos, mask, scale =>
    let newScale := isMx f.fmt && v % f.scalePer == 0
    let scale := if newScale then line pos else scale
    let pos := pos + bit newScale
    let newMask := v % f.maskPer == 0
    let mask := if newMask then line pos else mask
    let pos := pos + bit newMask
    ⟨pos, v, mask, scale⟩ :: f.walkNet line n (v + 1) (pos + 1 + bit (f.escLine mask v)) mask scale

/-- The value lines of a group that `n` groups of a column take. -/
def State.walk24 (s : State) (c t : Nat) (f : Feed) (g n : Nat) : List ValueLine :=
  let n := (n + f.perLine - 1) / f.perLine
  if f.net then f.walkNet (s.feedLine c t f g) n 0 0 [] [] else s.walkSram c t f g n 0 0 0

/-- The lines of a group's stream up to the end of a walk. -/
def Feed.walked (f : Feed) (w : List ValueLine) : Nat :=
  match w.getLast? with | some x => x.pos + 1 + bit (f.escLine x.mask x.v) | none => 0

/-- The stored elements of group `j` of column `q`: position in the group and value. -/
def State.group24 (s : State) (c t : Nat) (f : Feed) (walk : List ValueLine) (q j : Nat) : List (Nat × Num) :=
  let w := walk.getD (j / f.perLine) ⟨0, 0, [], []⟩
  let u := j % f.perLine
  let k := w.v * f.perLine + u
  let g := q / 64
  let r := q % 64
  let value (i : Nat) : Nat :=
    let l := s.feedLine c t f g (w.pos + i / 2)
    if f.wide then leAt l (128 * u + 2 * r + i % 2) 1 else wordAt 2 l (64 * (i % 2) + r)
  let ps := maskBits (f.maskIn w.mask w.v u r)
  ((List.range ps.length).zip ps).map fun e =>
    (e.2, if isMx f.fmt then scaled f.fmt (leAt w.scale (64 * (k / 8 % 2) + r) 1) (value e.1 % 256)
      else decodeNum f.fmt (value e.1))

/-! ### Unstructured operands (R148 to R152) -/

/-- An entry of an entry line: the window its line names, its reduction index, its line in the group, its bits. -/
structure Entry where
  window : Nat
  k : Nat
  line : Nat
  value : Nat
deriving DecidableEq, Repr

/-- The entries of an entry line (Table 7-7). -/
def entriesOf (b : Bytes) : List Entry :=
  (List.range (min 42 (leAt b 0 4 % 64))).map fun i =>
    let w := leAt b (4 + 6 * i) 6
    ⟨leAt b 0 4 / 2 ^ 16, bits w 16 16, bits w 8 8, w / 2 ^ 32⟩

/-- The entries of one window from place `pos` of a group's stream, with the place after it: a full line goes on in the next line of
the window (DESIGN CHOICE, log 24). -/
def takeWindow (line : Nat → Bytes) (limit : Nat) : Nat → Nat → Option (List Entry × Nat)
  | 0, _ => none
  | n + 1, pos =>
    if limit ≤ pos then none
    else
      let e := entriesOf (line pos)
      if e.length < 42 then some (e, pos + 1)
      else (takeWindow line limit n (pos + 1)).map fun r => (e ++ r.1, r.2)

/-- The first `n` windows of a group as far as its lines have come, each with the place after it. -/
def takeWindows (line : Nat → Bytes) (limit : Nat) : Nat → Nat → List (List Entry × Nat)
  | 0, _ => []
  | n + 1, pos =>
    match takeWindow line limit limit pos with
    | none => []
    | some r => r :: takeWindows line limit n r.2

/-- The entries of a window ascend in k, and for equal k in line. -/
def ascending : List Entry → Bool
  | a :: b :: t => (decide (a.k < b.k) || (a.k == b.k && decide (a.line < b.line))) && ascending (b :: t)
  | _ => true

/-- The fault that a window raises (R150), 0 when none. -/
def windowFault (redLen wk : Nat) (w : List Entry) : Nat :=
  if w.any fun e => decide (redLen ≤ e.k) || e.k / wk != e.window || decide (63 < e.line) then 0x2702
  else if ascending w then 0 else 0x2703

/-- The windows that a match unit makes of a window's distinct k values, less one (R149). -/
def splitsOf : List Nat → List Nat → Nat
  | [], _ => 0
  | k :: ks, held => if (held.filter fun h => h % 64 == k % 64).length ≥ 4 then 1 + splitsOf ks [k] else splitsOf ks (k :: held)

/-- Distinct k values of a list of entries, in order. -/
def distinctK (l : List Entry) : List Nat := (l.map (·.k)).eraseDups

/-! ### The product -/

/-- A product as it is set: the operation, its feeders, and its descriptor's fields. -/
structure Product where
  op : TileOp
  a : Feed
  b : Feed
deriving DecidableEq, Repr

def Product.sp (p : Product) : Nat := bits p.op.desc 239 2
def Product.blocks (p : Product) : Nat := bits p.op.desc 227 12
def Product.beats (p : Product) : Nat := bits p.op.desc 211 16
def Product.redLen (p : Product) : Nat := bits p.op.desc 195 16
def Product.freeze (p : Product) : Bool := bits p.op.desc 194 1 == 1
/-- Both operands are 8-bit. -/
def Product.wide (p : Product) : Bool := isMx p.a.fmt && isMx p.b.fmt
/-- Reduction elements of a block (R102, R138). -/
def Product.red (p : Product) : Nat := p.beats * (if p.wide then 2 else 1) * (if p.sp = 1 then 2 else 1)
def Product.tmode (p : Product) : Nat := 2 * bit p.a.tr + bit p.b.tr
/-- The match window, as the descriptor of a feeder that reads one names it; 64 where both are fed from the network (DESIGN CHOICE, log
24), and the windows of a block. -/
def Product.window (p : Product) : Nat :=
  64 * 2 ^ (if !p.a.net then bits p.a.desc 132 3 else if !p.b.net then bits p.b.desc 132 3 else 0)
def Product.windows (p : Product) : Nat := Max.max 1 ((p.redLen + p.window - 1) / p.window)

/-- The steps that a block advances by: beats of a dense block, groups of a 2:4 one, windows of an unstructured one. -/
def Product.units (p : Product) : Nat := if p.sp = 1 then p.red / 4 else if p.sp = 2 ∧ p.tmode = 0 then p.windows else p.beats

/-- The operation is an element-wise one (R111). -/
def Product.ew (p : Product) : Bool := bits p.op.word 390 2 == 2

/-- The number of results of a column in an element-wise operation: blocks times k_beats of its product descriptor (DESIGN CHOICE, log
27: R111 names no length). -/
def Product.rows (p : Product) : Nat := p.blocks * p.beats

/-- The units of a run that the drain writes together, those of the whole operation, and the end of run `b`: the steps of a block, or 128
rows of element-wise results. -/
def Product.run (p : Product) : Nat := if p.ew then 128 else p.units
def Product.runs (p : Product) : Nat := if p.ew then (p.rows + 127) / 128 else p.blocks
def Product.total (p : Product) : Nat := if p.ew then p.rows else p.blocks * p.units
def Product.runEnd (p : Product) (b : Nat) : Nat := min p.total ((b + 1) * p.run)

/-- A feeder that a tile has been given: A, or B. -/
def Eng.feed (e : Eng) (b : Bool) (fmt : Nat) (wide : Bool) : Option Feed :=
  if b then e.fb.map fun o => ⟨o.desc, bits o.word 406 2 == 2, 8, bits o.word 395 1 == 1, fmt, wide, e.netB⟩
  else e.fa.map fun o => ⟨o.desc, bits o.word 422 2 == 2, 2, bits o.word 411 1 == 1, fmt, wide, e.netA⟩
def Eng.linesOf (e : Eng) (b : Bool) : List Bytes := if b then e.netB else e.netA
def Eng.setLines (e : Eng) (b : Bool) (l : List Bytes) : Eng := if b then { e with netB := l } else { e with netA := l }

/-- The array operation a tile has been given, with its feeders: a product, or an element-wise operation (`kind` 2). -/
def Eng.product? (e : Eng) (kind : Nat) : Option Product :=
  match e.ary with
  | some op =>
    let fa := if kind = 2 then bits op.word 376 1 else bits op.desc 245 4
    let fb := if kind = 2 then bits op.word 376 1 else bits op.desc 241 4
    let wide := kind != 2 && isMx fa && isMx fb
    match e.feed false fa wide, e.feed true fb wide with
    | some a, some b => if bits op.word 390 2 = kind then some ⟨op, a, b⟩ else none
    | _, _ => none
  | none => none

/-- The array operation that has begun. -/
def Eng.running? (e : Eng) : Option Product :=
  let go (o : Option Product) : Option Product := o.filter fun p => p.op.started
  (go (e.product? 1)).or (go (e.product? 2))

/-! ### What has come (R103, R160, R185) -/

/-- What a product reads beside its dense operands: the value lines of each 2:4 group of feeder B, and the windows of each feeder, as far as
their lines have come, with the places after the windows; and the units for which the lines of feeder A, and of feeder B, have come. -/
structure Operands where
  walks : List (List ValueLine) := []
  wa : List (List (List Entry)) := []
  wb : List (List (List Entry)) := []
  ea : List (List Nat) := []
  eb : List (List Nat) := []
  reachA : Nat := 0
  reachB : Nat := 0
deriving DecidableEq, Repr

def Operands.reach (o : Operands) (b : Bool) : Nat := if b then o.reachB else o.reachA
def Operands.both (o : Operands) : Nat := min o.reachA o.reachB

/-- The value lines of a 2:4 feeder group that have come, of those that the product reads. -/
def State.walkOf (s : State) (c t : Nat) (p : Product) (g : Nat) : List ValueLine :=
  (s.walk24 c t p.b g (p.blocks * p.red / 4)).takeWhile fun x => decide (x.pos + 1 + bit (p.b.escLine x.mask x.v) ≤ p.b.limit)

/-- The smallest of a list. -/
def least (l : List Nat) : Nat := l.foldl Min.min (l.headD 0)

/-- The windows of each group of a feeder that have come. -/
def State.groupWindows (s : State) (c t : Nat) (f : Feed) (n : Nat) : List (List (List Entry × Nat)) :=
  (List.range f.groups).map fun g => takeWindows (s.feedLine c t f g) f.limit n 0

/-- Reduction elements that a unit of a product takes from each queue of a dense operand. -/
def Product.perUnit (p : Product) : Nat := if p.sp = 1 then 4 else if p.wide then 2 else 1

/-- The reduction elements that the windows of an expanded operand hold, one after another, and the squares that they make (R152, R158). -/
def Product.len (p : Product) : Nat := Max.max 1 p.redLen
def Product.squares (p : Product) : Nat := (p.len + 63) / 64

/-- The units of an unstructured product that `n` windows of each group of a feeder give: an expanded operand goes element by element, or
square by square where its feeder transposes (R152, R158). -/
def Product.unitsOf (p : Product) (f : Feed) (n : Nat) : Nat :=
  if p.tmode = 0 then n
  else
    let k := n / p.windows
    let r := n % p.windows * p.window
    (if f.tr then 64 * (k * p.squares + min p.squares (r / 64)) else k * p.len + min p.len r) / p.perUnit

/-- The windows of a feeder that the first `u` units of an unstructured product touch (`whole` false), or have used up. -/
def Product.windowsFor (p : Product) (f : Feed) (u : Nat) (whole : Bool) : Nat :=
  if p.tmode = 0 then u
  else
    let e := u * p.perUnit
    let per (n d : Nat) : Nat := if whole then n / d else (n + d - 1) / d
    if f.tr then per e 64 / p.squares * p.windows + per (64 * (per e 64 % p.squares)) p.window
    else e / p.len * p.windows + per (e % p.len) p.window

/-- The units that a feeder must hold before an expanded product starts: two beats, or its first square (R160, R185). -/
def Product.firstUnits (p : Product) (f : Feed) : Nat := min p.total (if f.tr then 64 / p.perUnit else 2)

/-- The operands of an operation as far as their lines have come. -/
def State.operands (s : State) (c t : Nat) (p : Product) : Operands :=
  if p.ew then { reachA := p.a.limit / 4 * 2, reachB := p.b.limit * 2 }
  else if p.sp = 2 then
    let a := s.groupWindows c t p.a (p.windowsFor p.a p.total false)
    let b := s.groupWindows c t p.b (p.windowsFor p.b p.total false)
    { wa := a.map fun g => g.map (·.1), wb := b.map fun g => g.map (·.1), ea := a.map fun g => g.map (·.2), eb := b.map fun g => g.map (·.2),
      reachA := p.unitsOf p.a (least (a.map List.length)), reachB := p.unitsOf p.b (least (b.map List.length)) }
  else
    let reachA := p.a.elems p.a.limit / p.perUnit
    if p.sp = 1 then
      let walks := (List.range 8).map (s.walkOf c t p)
      { walks := walks, reachA := reachA, reachB := least (walks.map List.length) * p.b.perLine }
    else { reachA := reachA, reachB := p.b.elems p.b.limit / p.perUnit }

/-- The lines of group `g` of an unstructured feeder that its first `n` windows take. -/
def Operands.windowLines (o : Operands) (b : Bool) (g n : Nat) : Nat :=
  if n = 0 then 0 else ((if b then o.eb else o.ea).getD g []).getD (n - 1) 0

/-- The most lines that a group of an unstructured feeder takes for its first `n` windows. -/
def Operands.mostLines (o : Operands) (b : Bool) (n : Nat) : Nat :=
  ((List.range (if b then 8 else 2)).map fun g => o.windowLines b g n).foldl Max.max 0

/-- Lines of group `g` of a feeder that the first `pos` units have spent. -/
def Product.spentBy (p : Product) (o : Operands) (b : Bool) (g pos : Nat) : Nat :=
  let f := if b then p.b else p.a
  if p.ew then (if b then 1 else 4) * (pos / 2)
  else if p.sp = 2 then o.windowLines b g (p.windowsFor f pos true)
  else if p.sp = 1 ∧ b then p.b.walked ((o.walks.getD g []).take (pos / p.b.perLine))
  else f.spent (pos * p.perUnit)

/-- Lines that every group has spent. -/
def Product.spentAll (p : Product) (o : Operands) (b : Bool) (pos : Nat) : Nat :=
  least ((List.range (if b then 8 else 2)).map fun g => p.spentBy o b g pos)

/-- Lines of each group that an SRAM feeder has read once `upto` units have run; of a 2:4 operand and of entries it is told by what they
hold: those that every group has spent, a group ahead of the others taking its lines as it needs them. -/
def Product.readBy (p : Product) (o : Operands) (b : Bool) (upto : Nat) : Nat :=
  let f := if b then p.b else p.a
  if p.ew then (if b then 1 else 4) * ((upto + 1) / 2)
  else if p.sp = 2 ∨ (p.sp = 1 ∧ b) then p.spentAll o b upto
  else f.need (upto * p.perUnit)

/-- A beat added to a cell: the exact sum of its products with one rounding; the first beat of a block replaces the contents (R82, R83,
R102). A beat with no product adds nothing. -/
def addBeat (acc : Option Num × Nat) (beat : List (Num × Num)) : Option Num × Nat :=
  match beat with
  | [] => acc
  | _ :: _ =>
    let sum := sumProducts beat
    let r := accumulate acc.1 sum.1
    (some r.1, acc.2 ||| sum.2 ||| r.2)

/-- A dense operand of the product, after expansion where the product transposes an unstructured one (R152). -/
def State.denseElem (s : State) (c t : Nat) (p : Product) (f : Feed) (ws : List (List (List Entry))) (q k : Nat) : Num :=
  if p.sp = 2 then
    let g := ws.getD (q / 64) []
    let look (u line k : Nat) : Num :=
      match ((g.drop (u * p.windows)).take p.windows).flatten.find? fun e => e.k == k && e.line == line with
      | some e => decodeNum f.fmt e.value
      | none => Num.zero
    let sq := p.squares
    if f.tr then look (k / 64 / sq) (k % 64) (64 * (k / 64 % sq) + q % 64) else look (k / p.len) (q % 64) (k % p.len)
  else s.feedElem c t f q k

/-- The beats of cell (i, j) in units `u0` to `u1 - 1` of block `b`, in order. Of an 8-bit escape group the stored values share beats two by two
in mask order (DESIGN CHOICE, log 69: R140 gives the beats and not their pairs). -/
def State.cellBeats (s : State) (c t : Nat) (p : Product) (o : Operands) (b u0 u1 i j : Nat) : List (List (Num × Num)) :=
  let red := p.red
  if p.sp = 2 ∧ p.tmode = 0 then
    let part (ws : List (List (List Entry))) (q : Nat) : List Entry :=
      (((ws.getD (q / 64) []).drop (b * p.windows + u0)).take (u1 - u0)).flatten.filter fun e => e.line == q % 64
    let col := part o.wb j
    (part o.wa i).filterMap fun e => (col.find? fun f => f.k == e.k).map fun f =>
      [(decodeNum p.a.fmt e.value, decodeNum p.b.fmt f.value)]
  else if p.sp = 1 then
    (List.range (u1 - u0)).flatMap fun u =>
      let gr := b * red / 4 + u0 + u
      let l := (s.group24 c t p.b (o.walks.getD (j / 64) []) j gr).map fun e => (s.feedElem c t p.a i (4 * gr + e.1), e.2)
      if p.wide then chunks 2 4 l else l.map fun x => [x]
  else
    let per := if p.wide then 2 else 1
    let l := (List.range (per * (u1 - u0))).map fun k =>
      let k := b * red + per * u0 + k
      (s.denseElem c t p p.a o.wa i k, s.denseElem c t p p.b o.wb j k)
    if p.wide then chunks 2 (red + 1) l else l.map fun x => [x]

/-! ### Freeze descriptors (R169 to R171) -/

/-- The freeze descriptor that a product names. -/
def State.freezeDesc (s : State) (c t : Nat) (p : Product) : Nat := ofLe (s.rdSram c t (16 * bits p.op.desc 173 21) 16)

/-- Bits of the bitmap of a freeze descriptor. -/
def freezeBits (d : Nat) : Nat :=
  match bits d 0 2 with | 1 => 16 * bits d 32 16 | 2 => bits d 32 16 * bits d 48 16 | _ => 0

/-- A freeze descriptor is invalid for a product (R170): block `b` forms inputs 128 b to 128 b + 127 by outputs 0 to 511
(DESIGN CHOICE, log 25). -/
def freezeBad (p : Product) (d : Nat) : Bool :=
  bits d 48 16 == 0 || bits d 32 16 == 0 || decide (16 * bits d 48 16 < 128 * p.blocks) || decide (16 * bits d 32 16 < 512) ||
    decide (0x1400000 < 256 * bits d 15 17 + (freezeBits d + 7) / 8)

/-- Position (input `k`, output `n`) of the slice is frozen. -/
def State.frozen (s : State) (c t d k n : Nat) : Bool :=
  let bitAt (i : Nat) : Bool := bits (leAt (s.rdSram c t (256 * bits d 15 17 + i / 8) 1) 0 1) (i % 8) 1 == 1
  match bits d 0 2 with
  | 1 => bitAt n
  | 2 => bitAt (n / 16 * bits d 48 16 + k / 16)
  | 3 => true
  | _ => false

/-- The SRAM lines of the bitmap. -/
def freezeSpan (d : Nat) : Nat × Nat := linesOf (256 * bits d 15 17) ((freezeBits d + 7) / 8)

/-- The bitmap bits of output tile `b`: bit n of a row mask, bit 8 nb + kb of a block mask (R171). -/
def State.tileBits (s : State) (c t d b : Nat) : Nat :=
  match bits d 0 2 with
  | 1 => (List.range 512).foldl (fun m n => m + bit (s.frozen c t d 0 n) * 2 ^ n) 0
  | 2 => (List.range 256).foldl (fun m x => m + bit (s.frozen c t d (128 * b + 16 * (x % 8)) (16 * (x / 8))) * 2 ^ x) 0
  | _ => 0

/-- The descriptor and the bitmap bits that output tile `b` takes as it starts. -/
def State.freezeNow (s : State) (c t : Nat) (p : Product) (b : Nat) : Nat × Nat :=
  if p.freeze then let d := s.freezeDesc c t p; (d, s.tileBits c t d b) else (0, 0)

/-- Cell (i, j) of an output tile is frozen, by the descriptor and bits that the tile took. -/
def frozenCell (fz : Nat × Nat) (i j : Nat) : Bool :=
  match bits fz.1 0 2 with
  | 1 => bits fz.2 j 1 == 1
  | 2 => bits fz.2 (j / 16 * 8 + i / 16) 1 == 1
  | 3 => true
  | _ => false

/-- Every position of an output tile is frozen. -/
def wholeFrozen (fz : Nat × Nat) : Bool :=
  match bits fz.1 0 2 with | 1 => fz.2 == 2 ^ 512 - 1 | 2 => fz.2 == 2 ^ 256 - 1 | 3 => true | _ => false

/-! ### Drain (R105, R107) -/

/-- The elements of one drain write, by row and column: a column of 128 rows, or 128 columns of one row. Row-order writes follow one another
row by row, the four parts of a row in order (DESIGN CHOICE, log 66: Table 5-3 gives no sequence). -/
def writeCells (rowOrder : Bool) (w : Nat) : List (Nat × Nat) :=
  if rowOrder then (List.range 128).map fun x => (w / 4, 128 * (w % 4) + x) else (List.range 128).map fun x => (x, w)

/-- Lines of a drain write of a format. -/
def writeLines (fmt : Nat) : Nat := if fmt = 7 then 2 else if fmt = 9 then 4 else 1

/-- The first line that write `w` of block `b` stores to. -/
def writeLine (drain b w : Nat) : Nat := bits drain 226 17 + b * bits drain 192 17 + w * bits drain 209 17

/-- Bytes of one write: elements, then at 8 bits one sector with the four scale bytes (Table 5-3), which stands directly after the half
line (DESIGN CHOICE, log 66: the table gives it no address). -/
def writeBytes (fmt : Nat) (draws : List (Option Nat)) (inf : Bool) (vals : List Num) : Bytes × Nat × Nat :=
  let r := encodeVec fmt draws inf vals
  (if isMx fmt then padTo 160 r.1 else r.1, r.2.1, r.2.2)

/-- The sectors of a write that hold only frozen positions. -/
def frozenSectors (fmt : Nat) (fz : List Bool) : List Nat :=
  let per := 32 / fmtBytes fmt
  (List.range (128 / per)).filter fun k => ((fz.drop (per * k)).take per).all id

/-- The stores of one write: (SRAM byte address, bytes) without its frozen sectors. -/
def writeStores (line : Nat) (b : Bytes) (skip : List Nat) : List (Nat × Bytes) :=
  (List.range ((b.length + 31) / 32)).filterMap fun k =>
    if skip.contains k then none else some (256 * line + 32 * k, slice b (32 * k) 32)

/-- A drain write for the network with its frozen sectors left out: a line of frozen sectors alone is not sent, a frozen sector of
another line holds zeros (DESIGN CHOICE, log 25). -/
def sentLines (fmt : Nat) (b : Bytes) (skip : List Nat) : List Bytes :=
  (List.range (writeLines fmt)).filterMap fun l =>
    let used := (List.range 8).filter fun k => decide (32 * (8 * l + k) < b.length)
    if used.all fun k => skip.contains (8 * l + k) then none
    else some ((List.range 8).flatMap fun k =>
      if skip.contains (8 * l + k) then List.replicate 32 0 else padTo 32 (slice b (32 * (8 * l + k)) 32))

/-- One block's results leave through the drain. `vals` gives the exact cell value, `fz` the frozen positions, each of which takes its draw
under stochastic rounding as any other does, written or not (DESIGN CHOICE, log 50). -/
def State.drainBlock (s : State) (c t : Nat) (op : TileOp) (b : Nat) (fmt : Nat) (sr inf : Bool) (vals : Nat → Nat → Num)
    (fz : Nat → Nat → Bool) : State :=
  let dr := bits op.word 350 2
  let rowOrder := bits op.word 339 1 == 1
  if dr = 0 then s
  else
    let d := s.takeDraws c t 1 512 65536 sr
    let draw (q : Nat × Nat) : Option Nat := d.1.getD (512 * q.1 + q.2) none
    (List.range 512).foldl (fun s w =>
      let cells := writeCells rowOrder w
      let r := writeBytes fmt (cells.map draw) inf (cells.map fun q => vals q.1 q.2)
      let skip := frozenSectors fmt (cells.map fun q => fz q.1 q.2)
      let s := s.numFlags t r.2.1 r.2.2
      let s := s.count t (BWD_FROZEN_SECTORS.frozen_sectors t) skip.length
      if dr = 1 then (writeStores (writeLine op.drain b w) r.1 skip).foldl (fun s x => s.wrSram c t x.1 x.2) s
      else s.modEng c t fun e => { e with outDrain := e.outDrain ++ sentLines fmt r.1 skip }) d.2

/-- The SRAM lines that an operation's drain stores to. -/
def drainSpan (op : TileOp) (fmt blocks : Nat) : List (Nat × Nat) :=
  if bits op.word 350 2 = 1 then
    (List.range blocks).flatMap fun b => (List.range 512).map fun w =>
      (writeLine op.drain b w, writeLines fmt)
  else []

/-! ### Sparse operands met -/

/-- The escape groups of units `u0` to `u1 - 1` of block `b`, as they are met along the reduction. -/
def escapesIn (p : Product) (o : Operands) (b u0 u1 : Nat) : List Nat :=
  (List.range (u1 - u0)).flatMap fun u =>
    let gr := b * p.red / 4 + u0 + u
    (List.range 512).filterMap fun q =>
      let w := (o.walks.getD (q / 64) []).getD (gr / p.b.perLine) ⟨0, 0, [], []⟩
      if isEscape (p.b.maskIn w.mask w.v (gr % p.b.perLine) (q % 64)) then some (u0 + u) else none

/-- The counters of 2:4 mode for a run of groups of a block (R140, R141); a strict product stops before its first escape group. The extra
beats of escape groups count in escape_beats alone, not in sparse_beats (DESIGN CHOICE, log 69). -/
def State.count24 (s : State) (t : Nat) (p : Product) (o : Operands) (b u0 u1 : Nat) : State :=
  let esc := escapesIn p o b u0 u1
  let strict := s.on (SPR_CTRL.strict t)
  let met := match esc with | g :: _ => if strict then g else u1 | [] => u1
  let s := s.count t (SPR_SPARSE_BEATS.sparse_beats t) ((met - u0) * (if p.wide then 1 else 2))
  if esc.isEmpty then s
  else
    let n := if strict then 1 else esc.length
    let s := (s.wr (SPR_STATUS.density_violation t) 1).wr (SPR_STATUS.last_group t) (if strict then esc.headD 0 else esc.getLastD 0)
    let s := s.count t (SPR_ESC_GROUPS.escape_groups t) n
    if strict then s.tileFault t 0x2701 2
    else s.count t (SPR_ESC_BEATS.escape_beats t) (n * (if p.wide then 1 else 2))

/-- The counters of unstructured mode (R149) for one window `w` of the product. -/
def State.countWindow (s : State) (t : Nat) (p : Product) (o : Operands) (w : Nat) : State :=
  let ra := o.wa.map fun g => g.getD w []
  let rb := (o.wb.map fun g => g.getD w []).flatten
  let ka := distinctK ra.flatten
  let issued := (distinctK rb).filter ka.contains
  let len := min p.window (p.redLen - w % p.windows * p.window)
  let has (l : List Entry) (k : Nat) : Nat := (l.filter fun e => e.k == k).length
  let bubbles := issued.foldl (fun n k => n + (65536 - has ra.flatten k * has rb k)) 0
  let splits := ra.foldl (fun n g => n + splitsOf (distinctK g) []) 0
  let s := s.count t (SPR_ISSUED.issued_beats t) issued.length
  let s := s.count t (SPR_SKIPPED.skipped_positions t) (len - issued.length)
  let s := s.count t (SPR_BUBBLE.bubble_beats t) bubbles
  s.count t (SPR_SPLITS.window_splits t) splits

/-- The fault that window `w` raises in some group of either feeder (R150), 0 when none. -/
def windowAt (p : Product) (o : Operands) (w : Nat) : Nat :=
  (o.wa ++ o.wb).foldl (fun f g => if f ≠ 0 then f else windowFault p.redLen p.window (g.getD w [])) 0

/-- The windows that a run of units of block `b` reads. -/
def Product.windowsIn (p : Product) (b u0 u1 : Nat) : List Nat :=
  if p.sp ≠ 2 then []
  else
    let lo (f : Feed) : Nat := p.windowsFor f (b * p.units + u0) true
    let hi (f : Feed) : Nat := p.windowsFor f (b * p.units + u1) false
    let n := min (lo p.a) (lo p.b)
    (List.range (Max.max (hi p.a) (hi p.b) - n)).map (n + ·)

/-- A run of units meets its sparse operands: the windows in order up to the first that raises a fault (R149, R150), the groups of a 2:4
operand (R140, R141). -/
def State.meetSparse (s : State) (c t : Nat) (p : Product) (o : Operands) (b u0 u1 : Nat) : State :=
  if p.sp = 1 then s.count24 t p o b u0 u1
  else (p.windowsIn b u0 u1).foldl (fun s w =>
    if s.cst c ≠ stRunning then s
    else
      let f := windowAt p o w
      if f ≠ 0 then (s.wr (if f = 0x2702 then SPR_STATUS.index_error t else SPR_STATUS.order_error t) 1).tileFault t f 2
      else if p.tmode = 0 then s.countWindow t p o w else s) s

/-- The value that an accumulator of a cell holds. -/
def Eng.cell (e : Eng) (sel i j : Nat) : Num := decodeNum 9 ((if sel = 0 then e.cells0 else e.cells1).getD (512 * i + j) 0)
def Eng.setCells (e : Eng) (sel : Nat) (l : List Nat) : Eng := if sel = 0 then { e with cells0 := l } else { e with cells1 := l }

/-- The units that block `b` has behind it, and those it has once the product has advanced to `upto` units. -/
def Product.from_ (p : Product) (op : TileOp) (b : Nat) : Nat := op.pos - b * p.units
def Product.to_ (p : Product) (upto b : Nat) : Nat := min p.units (upto - b * p.units)

/-- The accumulators of the block's cells after units `u0` to `u1 - 1`, with the flags of their additions. -/
def State.blockCells (s : State) (c t : Nat) (p : Product) (o : Operands) (b u0 u1 : Nat) (fz : Nat × Nat) : List (Num × Nat) :=
  let e := s.engOf c t
  (List.range 65536).map fun x =>
    let i := x / 512
    let j := x % 512
    if p.freeze && frozenCell fz i j then (Num.zero, 0)
    else
      let r := (s.cellBeats c t p o b u0 u1 i j).foldl addBeat (if u0 = 0 then none else some (e.cell (b % 2) i j), 0)
      (r.1.getD Num.zero, r.2)

/-- Block `b` advances to `u1` of its units (R102, R104, R171): its accumulators take the beats, and with its last the drain takes its
results and the next output tile starts. -/
def State.advanceBlock (s : State) (c t : Nat) (p : Product) (o : Operands) (b u1 : Nat) : State :=
  let e := s.engOf c t
  match e.ary with
  | none => s
  | some op =>
    let u0 := p.from_ op b
    let fz := e.freeze
    let last := decide (u1 = p.units)
    let next (s : State) : State := if last then
        let fz := s.freezeNow c t p (b + 1)
        let s := if b + 1 < p.blocks then s.wr (ARY_STATUS.acc_sel t) ((b + 1) % 2) else s
        s.modEng c t fun e => { e with ary := some { op with pos := (b + 1) * p.units }, freeze := fz }
      else s.modEng c t fun e => { e with ary := some { op with pos := b * p.units + u1 } }
    if p.freeze && wholeFrozen fz then
      next (if last then s.count t (BWD_FROZEN_TILES.frozen_tiles t) 1 else s)
    else
      let s := s.meetSparse c t p o b u0 u1
      if s.cst c ≠ stRunning then s
      else
        let l := s.blockCells c t p o b u0 u1 fz
        let s := (s.numFlags t (l.foldl (fun f x => f ||| x.2) 0) 0).wr (ARY_STATUS.acc_sel t) (b % 2)
        let s := s.modEng c t fun e => e.setCells (b % 2) (l.map fun x => encodeNum 9 x.1)
        if !last then next s
        else
          let d := p.op.drain
          let nan := if bits p.op.word 350 2 ≠ 0 ∧ (l.any fun x => x.1.isNan) then flNanIn else 0
          let s := (s.numFlags t nan 0).drainBlock c t p.op b (bits d 245 4) (bits d 244 1 == 1) (bits d 243 1 == 1)
            (fun i j => (l.getD (512 * i + j) (Num.zero, 0)).1) fun i j => p.freeze && frozenCell fz i j
          next (if bits p.op.word 350 2 = 2 then
            s.modEng c t fun e => { e with block := some (b % 2, bits p.op.word 339 1 == 1) } else s)

/-! ### Element-wise mode (R111, R112) -/

/-- The result of an element-wise operation before its rounding (Table 5-6). -/
def elementWise (op : Nat) (x y k : Num) : Num :=
  match op with
  | 0 => x.add y
  | 1 => x.add y.neg
  | 2 => x.mul y
  | 3 => x.max y
  | 4 => x.min y
  | 5 => (x.mul y).add k
  | _ => (x.mul k).add y

/-- The operands that a result's NaN flag is judged by. -/
def ewOperands (op : Nat) (x y k : Num) : List Num := if 5 ≤ op then [x, y, k] else [x, y]

/-- Feeder A's line stream as the columns take it in element-wise mode: eight lines carry two beats of all 512 columns (DESIGN
CHOICE, log 27). -/
def State.ewOther (s : State) (c t : Nat) (f : Feed) (j k : Nat) : Num :=
  let l := 8 * (k / 2) + j / 64
  decodeNum f.fmt (wordAt 2 (s.feedLine c t f (l % 2) (l / 2)) (64 * (k % 2) + j % 64))

/-- The SRAM lines of an element-wise operation. -/
def Product.ewSpan (p : Product) : List (Nat × Nat) := p.a.span 0 ++ p.b.span 0 ++ drainSpan p.op (bits p.op.word 376 1) p.runs

/-- The results of run `x` of an element-wise operation leave, 128 rows; rows of the last run beyond the results are zeros, which take
draws (DESIGN CHOICE, log 27). -/
def State.ewBlock (s : State) (c t : Nat) (p : Product) (x : Nat) : State :=
  let w := p.op.word
  let fmt := bits w 376 1
  let op := bits w 377 3
  let k := decodeNum fmt (bits w 358 16)
  let term (r j : Nat) : Num × Num := (s.feedElem c t p.b j r, s.ewOther c t p.a j r)
  let exact (r j : Nat) : Num := if p.rows ≤ r then Num.zero else elementWise op (term r j).1 (term r j).2 k
  let flags := (List.range (p.runEnd x - 128 * x)).foldl (fun f r => (List.range 512).foldl (fun f j =>
    f ||| nanFlag (ewOperands op (term (128 * x + r) j).1 (term (128 * x + r) j).2 k) (exact (128 * x + r) j)) f) 0
  ((s.numFlags t flags 0).modEng c t fun e => { e with block := none }).drainBlock c t p.op x fmt (bits w 375 1 == 1) (bits w 374 1 == 1)
    (fun i j => exact (128 * x + i) j) fun _ _ => false

/-! ### How far an operation comes -/

/-- Run `b` of the operation advances to `u` units in all. -/
def State.advanceRun (s : State) (c t : Nat) (p : Product) (o : Operands) (b u : Nat) : State :=
  if p.ew then
    match (s.engOf c t).ary with
    | none => s
    | some op =>
      let s := s.count t (ARY_EW.ew_cycles t) (u - op.pos)
      let s := s.modEng c t fun e => { e with ary := some { op with pos := u } }
      if u = p.runEnd b then s.ewBlock c t p b else s
  else s.advanceBlock c t p o b (u - b * p.units)

/-- Bytes of results that the drain may still hold while a further block is read: the assembly buffer, in row order (R107; log 26). -/
def bufferRoom (rowOrder : Bool) : Nat := if rowOrder then 65536 else 0

/-- The drain is rid of earlier results, so that a further run may end (R106): they are written or sent, but for the lines that the 64 KiB
assembly buffer holds in row order (R107; log 26). -/
def Eng.drainFree (e : Eng) (p : Product) : Bool := decide (256 * e.outDrain.length ≤ bufferRoom (bits p.op.word 339 1 == 1))

/-- The accumulator set of a block whose results the drain has not all read: those that wait beyond the assembly buffer (R106, R107, R113). -/
def Eng.unread (e : Eng) : Option Nat :=
  match e.block with
  | some (k, row) => if bufferRoom row < 256 * e.outDrain.length then some k else none
  | none => none

/-- A feeder that streams from SRAM reads on until it has read `n` lines of each group (R103, R159), each through the code check (R101); none
past its stream, and none where a line of them raises a fault, which the start of the operation raises. -/
def State.readOn (s : State) (c t : Nat) (b : Bool) (n : Nat) : State :=
  match (s.engOf c t).feed b 0 false with
  | none => s
  | some f =>
    if f.net then s
    else
      let k := f.lines.length / f.groups
      let at_ := (List.range (min n f.limit - k)).flatMap fun i => (List.range f.groups).map fun g => f.lineNo g (k + i)
      if at_.any fun l => s.sramFault c l 1 != 0 then s
      else
        let s := s.checkedRead c t (at_.map (·, 1))
        if s.cst c = stTeardown then s
        else
          let new := at_.map (s.rdLine c t)
          let s := s.modEng c t fun e => e.setLines b (e.linesOf b ++ new)
          if f.tr then s.count t (BWD_TRANS_LINES.transpose_lines t) new.length else s

/-- The SRAM lines that a run of an operation reads beside its feeders' streams: scales and masks, and the bitmap of its freeze descriptor. -/
def State.besides (s : State) (c t : Nat) (p : Product) : List (Nat × Nat) :=
  if p.ew then []
  else p.a.sideSpan 0 ++ p.b.sideSpan p.sp ++ (if p.freeze then [freezeSpan (s.freezeDesc c t p)] else [])

/-- What an operation reads from SRAM until it has advanced to `v` units in all. -/
def State.readFor (s : State) (c t : Nat) (p : Product) (o : Operands) (v : Nat) : State :=
  let s := (s.readOn c t false (p.readBy o false v)).readOn c t true (p.readBy o true v)
  if s.cst c ≠ stRunning then s else s.checkedRead c t (s.besides c t p)

/-- The runs of an operation advance, in order, to `upto` units in all, each reading what it takes. A run does not end while the drain holds
earlier results, and the cycle counts (R106, R107). -/
def State.advance (s : State) (c t : Nat) (p : Product) (o : Operands) (upto : Nat) : State :=
  (List.range p.runs).foldl (fun s b =>
    let e := s.engOf c t
    match e.ary with
    | none => s
    | some op =>
      if s.cst c ≠ stRunning ∨ op.pos < b * p.run ∨ p.runEnd b ≤ op.pos ∨ upto ≤ op.pos then s
      else
        let u := min upto (p.runEnd b)
        let v := if e.drainFree p then u else min u (p.runEnd b - 1)
        let s := if v < u then s.count t (ARY_DRAIN_FULL.drain_full_cycles t) 1 else s
        if v ≤ op.pos then s
        else
          let s := s.readFor c t p o v
          if s.cst c ≠ stRunning then s else s.advanceRun c t ((s.engOf c t).running?.getD p) o b v) s

/-- The lines of each group that a tile's operation has spent of a feeder's stream. -/
def State.spentNow (s : State) (c t : Nat) (b : Bool) : Nat :=
  match (s.engOf c t).running? with
  | some p => p.spentAll (s.operands c t p) b p.op.pos
  | none => 0

/-- It reads on by an open number of lines that its queues have room for, and has then at least `low` more than are spent (R103; DESIGN
CHOICE, log 26). -/
def State.refill (s : State) (c t : Nat) (b : Bool) (low : Nat) : State :=
  match (s.engOf c t).feed b 0 false with
  | none => s
  | some f =>
    if f.net then s
    else
      let n := s.spentNow c t b
      let k := Max.max (f.lines.length / f.groups) (n + low)
      let x := s.free 8
      x.2.readOn c t b (k + x.1 % Max.max 1 (n + f.room + 1 - k))
def State.refills (s : State) (c t low : Nat) : State := (s.refill c t false low).refill c t true low

/-- What the queues of SRAM feeders hold is given up: they read it again (R175). -/
def State.dropQueues (s : State) (c t : Nat) : State :=
  let go (s : State) (b : Bool) : State :=
    match (s.engOf c t).feed b 0 false with
    | none => s
    | some f =>
      if f.net then s
      else let n := f.groups * s.spentNow c t b; s.modEng c t fun e => e.setLines b ((e.linesOf b).take n)
  go (go s false) true

/-- The operation that has begun advances to `upto` units in all, as far as its operands have come; its feeders read what it takes, and read
on. -/
def State.arrayTo (s : State) (c t upto : Nat) : State :=
  match (s.engOf c t).running? with
  | none => s
  | some p =>
    let o := s.operands c t p
    let s := s.advance c t p o (min (min upto p.total) o.both)
    if s.cst c ≠ stRunning then s else s.refills c t 0

/-- The lines of an expanded operand's first square, or first beats, have not all come (R160, R185). -/
def State.wantsFirst (s : State) (c t : Nat) (b : Bool) : Bool :=
  match (s.engOf c t).product? 1 with
  | some p => p.sp == 2 && p.tmode != 0 && decide ((s.operands c t p).reach b < p.firstUnits (if b then p.b else p.a))
  | none => false

/-- A feeder takes a line from the network (R103, R207, R210): one that has been started, while its queues have room; in unstructured mode also
while its next window is not whole, or its first square. -/
def State.feedTakes (s : State) (c t : Nat) (b : Bool) : Bool :=
  match (s.engOf c t).feed b 0 false with
  | none => false
  | some f =>
    f.net && match (s.engOf c t).running? with
    | none => decide (f.lines.length < f.groups * f.room) || s.wantsFirst c t b
    | some p =>
      let o := s.operands c t p
      decide (f.lines.length < f.groups * (p.spentAll o b p.op.pos + f.room)) || (p.sp == 2 && !p.ew && decide (o.reach b ≤ p.op.pos))

/-- Where a feeder's queues are full, the operation has advanced as far as its operands have come: the model's beats issue no later than that
(DESIGN CHOICE, log 26). -/
def State.pump (s : State) (c t : Nat) : State :=
  let full (b : Bool) : Bool := ((s.engOf c t).feed b 0 false).any (·.net) && !s.feedTakes c t b
  if s.net.emptying ∨ s.cst c ≠ stRunning ∨ !(full false || full true) then s
  else match (s.engOf c t).running? with
    | some p => s.arrayTo c t p.total
    | none => s

/-- A line that the network brings a feeder. -/
def State.feedLineIn (s : State) (c t : Nat) (b : Bool) (l : Bytes) : State :=
  let s := s.modEng c t fun e => e.setLines b (e.linesOf b ++ [l])
  let s := if ((s.engOf c t).feed b 0 false).any (·.tr) then s.count t (BWD_TRANS_LINES.transpose_lines t) 1 else s
  s.pump c t

end Sys2Proof.Machine
end

