-- ==== Sys2Proof/Machine/Net.lean ====
section
/-! DEFINITION. The on-wafer networks and the memory stacks (chapter 10): mesh and express lines, down-links, stack requests,
scrubbing and the loss of a stack, and the heartbeat watchdog (R448). Directions are 0 north, 1 east, 2 south, 3 west. -/

namespace Sys2Proof.Machine

/-! ### Links -/

/-- The tile next to `t` in a direction, inside the rectangle of its partition. -/
def State.neighbour? (s : State) (t d : Nat) : Option Nat :=
  let x := tileX t
  let y := tileY t
  let u := match d with
    | 0 => if y = 0 then none else some (tileAt x (y - 1))
    | 1 => if x = 83 then none else some (tileAt (x + 1) y)
    | 2 => if y = 41 then none else some (tileAt x (y + 1))
    | _ => if x = 0 then none else some (tileAt (x - 1) y)
  u.bind fun u => if s.partOf u = s.partOf t then some u else none

def opposite (d : Nat) : Nat := (d + 2) % 4

/-- The lines in the input buffer of a mesh link. -/
def State.meshIn (s : State) (t d : Nat) : List Bytes := Sparse.get [] s.net.mesh (4 * t + d)
def State.setMeshIn (s : State) (t d : Nat) (l : List Bytes) : State :=
  { s with net := { s.net with mesh := Sparse.put [] s.net.mesh (4 * t + d) l } }

/-- The lines an express lane holds at a tile, travelling in a direction. -/
def State.lane (s : State) (t d : Nat) : List (Nat × Bytes) := Sparse.get [] s.net.express (4 * t + d)
def State.setLane (s : State) (t d : Nat) (l : List (Nat × Bytes)) : State :=
  { s with net := { s.net with express := Sparse.put [] s.net.express (4 * t + d) l } }

/-- The source in force of an output: 0 to 3 the mesh outputs, 4 the tile output (Table 9-6). -/
def State.outSource (s : State) (t d : Nat) : Nat := bits (s.reg (NET_RT_STATUS t)) (29 - 3 * d) 3

/-- The outputs that name a source. -/
def State.outputsOf (s : State) (t src : Nat) : List Nat := (List.range 5).filter fun d => s.outSource t d == src

/-! ### What a destination can take (R103, R121, R190, R207, R210) -/

/-- A pass reads what a load would write: the set of a vector or adapter load, the entry of a descriptor or extension load. -/
def MulePass.uses (q : MulePass) (w : Nat) : Bool :=
  if bits w 333 3 = 2 ∨ bits w 333 3 = 5 then q.entry == bits w 329 4 else q.set == bits w 328 1

/-- A load, with the starts issued before it, waits for an active or queued pass that reads what it writes, if the pass was issued first
or has begun (Table 6-3); a pass issued after it waits for it instead. -/
def Mule.loadBlocked (m : Mule) (l : Nat × Nat) : Bool :=
  let holds (p : Option MulePass) : Bool := match p with
    | some q => q.uses l.1 && (decide (q.id < l.2) || q.begun)
    | none => false
  holds m.active || holds m.queued

/-- Lines that the mule's outstanding loads take from the network, those that nothing holds back. -/
def Mule.netRoom (m : Mule) : Nat :=
  m.loads.foldl (fun n l => if bits l.1 333 3 == 3 && bits l.1 324 2 == 1 && !m.loadBlocked l then n + bits l.1 291 7 else n) 0

/-- A destination inside a tile can take a line: SRAM always; a feeder or the mule while there is room. At a switch a line bound for one of
these goes to the save area (R324, R325). -/
def State.takes (s : State) (c t dst : Nat) : Bool :=
  let e := s.engOf c t
  s.net.emptying || (match dst with
    | 0 => true
    | 1 => s.feedTakes c t false
    | 2 => s.feedTakes c t true
    | _ => decide (e.netM.length < e.mule.netRoom))

/-- An output has room for a line: its link buffer holds fewer than 8 (R208), or the tile output's destination takes it. -/
def State.hasRoom (s : State) (c t d : Nat) : Bool :=
  if d = 4 then s.takes c t (s.rd (NET_RT_STATUS.loc_dst t))
  else match s.neighbour? t d with
    | some u => decide ((s.meshIn u (opposite d)).length < 8)
    | none => false

/-- A line delivered inside a tile: to SRAM from the receive line of a transfer descriptor, to a feeder or to the mule (R190).
`n` is the number of lines received before it under the setting. -/
def State.deliver (s : State) (c t dst desc n : Nat) (line : Bytes) : State :=
  match dst with
  | 0 =>
    let l := (bits desc 215 17 + n) % 2 ^ 17
    let f := s.sramFault c l 1
    if f ≠ 0 then s.tileFault t f 2 else (s.contends t 1).wrSram c t (256 * l) line
  | 1 => s.feedLineIn c t false line
  | 2 => s.feedLineIn c t true line
  | _ => s.modEng c t fun e => { e with netM := e.netM ++ [line] }

/-- A line put on every output of a list (R207). -/
def State.putOut (s : State) (c t : Nat) (outs : List Nat) (line : Bytes) : State :=
  outs.foldl (fun s d =>
    if d = 4 then
      let e := s.engOf c t
      (s.deliver c t (s.rd (NET_RT_STATUS.loc_dst t)) e.mdesc e.recvN line).modEng c t fun e => { e with recvN := e.recvN + 1 }
    else match s.neighbour? t d with
      | some u => s.setMeshIn u (opposite d) (s.meshIn u (opposite d) ++ [line])
      | none => s) s

/-! ### Express lanes (R210, R211) -/

/-- The lane of a tile crosses a seam on its way to the next tile. -/
def State.seam (s : State) (t d : Nat) : Bool :=
  match s.neighbour? t d with | some u => tileField t != tileField u | none => false

/-- Lines that a lane holds between a tile and the next: the 16 of the seam buffer before a seam (R211). Inside a field the spec gives no
number for a lane that is held, and the model takes one (DESIGN CHOICE, log 56). -/
def State.laneRoom (s : State) (t d : Nat) : Nat := if s.seam t d then 16 else 1

/-- How far a line comes on a lane: to a tile, which extracts it (true) or where the lane holds it; nowhere, the lane being held, or a seam
buffer on its way being full. -/
inductive LaneEnd where
  | at_ (tile : Nat) (extracted : Bool)
  | held
  | seamFull
deriving DecidableEq, Repr

/-- Where a line at the lane place of `t` goes: into the first tile that extracts it, if its destination takes it, else as far as the lane
has room, a line held before it and a tile that injects in its direction being in the way (R190, R210). One that finds a seam buffer full
does not set out (R211). `n` bounds the tiles. -/
def State.laneStep (s : State) (c d : Nat) : Nat → Nat → LaneEnd
  | 0, _ => .held
  | n + 1, t =>
    match s.neighbour? t d with
    | none => .held
    | some u =>
      if s.rd (NET_RT_STATUS.ex_extract u) = opposite d + 1 then
        (if s.takes c u (s.rd (NET_RT_STATUS.ex_dst u)) then .at_ u true else .held)
      else if s.rd (NET_RT_STATUS.ex_inject u) = d + 1 then .held
      else if !(s.lane u d).isEmpty then
        (if (s.lane u d).length < s.laneRoom u d then .at_ u false else if s.seam u d then .seamFull else .held)
      else match s.laneStep c d n u with
        | .at_ v x => .at_ v x
        | .held => .at_ u false
        | .seamFull => if s.seam u d then .at_ u false else .seamFull

/-- A line, with the tile that injected it, arrives where `laneStep` says. -/
def State.lanePut (s : State) (c d u : Nat) (extracted : Bool) (x : Nat × Bytes) : State :=
  if extracted then
    let e := s.engOf c u
    (s.deliver c u (s.rd (NET_RT_STATUS.ex_dst u)) e.xdesc e.xrecvN x.2).modEng c u fun e => { e with xrecvN := e.xrecvN + 1 }
  else s.setLane u d (s.lane u d ++ [x])

/-- The lines that a lane holds at a tile move on, in order, while they can; `n` bounds them. -/
def State.laneMoves (c d t : Nat) : Nat → State → State
  | 0, s => s
  | n + 1, s =>
    match s.lane t d, s.laneStep c d 84 t with
    | x :: rest, .at_ u e => State.laneMoves c d t n ((s.setLane t d rest).lanePut c d u e x)
    | _, _ => s

/-- The queue of lines a tile has to send from a source: 5 SRAM, 6 drain, 7 mule. -/
def Eng.outQueue (e : Eng) : Nat → List Bytes
  | 5 => e.outSram | 6 => e.outDrain | _ => e.outMule.map (·.2)
/-- The queue without its first line. -/
def Eng.popOut (e : Eng) : Nat → Eng
  | 5 => { e with outSram := e.outSram.drop 1 }
  | 6 => { e with outDrain := e.outDrain.drop 1 }
  | _ => { e with outMule := e.outMule.drop 1 }

/-- The queue that the express setting of a tile injects from. -/
def Eng.expressQueue (e : Eng) (src : Nat) : List Bytes := if src = 0 then e.outX else e.outQueue (5 + src)
def Eng.popExpress (e : Eng) (src : Nat) : Eng := if src = 0 then { e with outX := e.outX.drop 1 } else e.popOut (5 + src)

/-- The next of the mule's results goes to output `k` (0 to 3 mesh, 4 to 7 express), as the descriptor of its pass names it (R188). -/
def Eng.muleTo (e : Eng) (k : Nat) : Bool := (e.outMule.head?).any fun x => x.1 == k

/-- The tile injects into its lane in direction `d`; the mule's results only where they go there (R188, R190). -/
def State.injects (s : State) (c t d : Nat) : Bool :=
  s.rd (NET_RT_STATUS.ex_inject t) == d + 1 &&
    !(s.rd (NET_RT_STATUS.ex_src t) == 2 && !(s.engOf c t).muleTo (d + 4)) && !s.net.emptying

/-- Where the next line that a tile injects comes: behind the lines at the tile's own lane place, else as far as the lane lets it; it waits
in the tile's buffers where neither takes it. -/
def State.injectStep (s : State) (c d t : Nat) : LaneEnd :=
  let own : LaneEnd :=
    if (s.lane t d).length < s.laneRoom t d then .at_ t false else if s.seam t d then .seamFull else .held
  if !(s.lane t d).isEmpty then own
  else match s.laneStep c d 84 t with
    | .at_ u x => .at_ u x
    | .held => own
    | .seamFull => if s.seam t d then own else .seamFull

/-- A line injected at `t` has come across a seam to tile `u`, whose quarter rate the lines of a run outpace, so that one may have waited
for the seam buffer (R210, R211). -/
def State.seamPassed (s : State) (t u : Nat) : State :=
  if tileField t = tileField u then s else s.stir (NET_SEAM_WAIT.seam_wait_cycles t).addr

/-- Lines injected into a lane, in order, while it takes them; `n` bounds them. -/
def State.injectLines (c d t : Nat) : Nat → State → State
  | 0, s => s
  | n + 1, s =>
    let src := s.rd (NET_RT_STATUS.ex_src t)
    if !s.injects c t d then s
    else match (s.engOf c t).expressQueue src with
    | [] => s
    | l :: _ =>
      match s.injectStep c d t with
      | .at_ u x => State.injectLines c d t n (((s.modEng c t fun e => e.popExpress src).lanePut c d u x (t, l)).seamPassed t u)
      | .held => s.stir (NET_EXP_WAIT.exp_wait_cycles t).addr
      | .seamFull => s.stir (NET_SEAM_WAIT.seam_wait_cycles t).addr

/-- Where the next line of the lane a tile injects into comes, if it has one. -/
def State.nextInject (s : State) (c t : Nat) : Option LaneEnd :=
  let d := s.rd (NET_RT_STATUS.ex_inject t) - 1
  if !s.injects c t d || ((s.engOf c t).expressQueue (s.rd (NET_RT_STATUS.ex_src t))).isEmpty then none else some (s.injectStep c d t)

/-- How far a tile is from the end of a lane that runs in a direction. -/
def toEnd (d t : Nat) : Nat := match d with | 0 => tileY t | 1 => 83 - tileX t | 2 => 41 - tileY t | _ => tileX t

/-- The lines on the lanes of the context's partition, and those to be injected, move on, those nearest the end of a lane first. -/
def State.lanesFlow (s : State) (c : Nat) : State :=
  let held := (s.net.express.filter fun e => s.partOf (e.1 / 4) == some (s.cpart c)).map fun e => e.1 / 4
  let sending := (s.eng.filter fun e => e.1 / 4096 == c && !(e.2.outX.isEmpty && e.2.outDrain.isEmpty && e.2.outMule.isEmpty)).map
    fun e => e.1 % 4096
  let all := (held ++ sending).eraseDups
  if all.isEmpty then s
  else (List.range 4).foldl (fun s d => (List.range 84).foldl (fun s k =>
    (all.filter fun t => toEnd d t == k).foldl (fun s t =>
      let s := State.laneMoves c d t (s.lane t d).length s
      if s.injects c t d then
        State.injectLines c d t ((s.engOf c t).expressQueue (s.rd (NET_RT_STATUS.ex_src t))).length s
      else s) s) s) s

/-! ### The mesh (R207 to R209) -/

/-- The outputs that the next line of a source leaves over: of the mule's results the one it goes to (R188). -/
def State.outputsNow (s : State) (c t src : Nat) : List Nat :=
  (s.outputsOf t src).filter fun d => src != 7 || (s.engOf c t).muleTo d

/-- The next line of a source of the tile waits for room on mesh output `d` (Table 10-7). -/
def State.meshWaits (s : State) (c t d : Nat) : Bool :=
  [5, 6, 7].any fun src => !((s.engOf c t).outQueue src).isEmpty && (s.outputsNow c t src).contains d && !s.hasRoom c t d

/-- Lines of one source leave over the mesh outputs that name it, while every one of them has room. -/
def State.meshSend (c t src : Nat) : Nat → State → State
  | 0, s => s
  | n + 1, s =>
    let outs := s.outputsNow c t src
    match (s.engOf c t).outQueue src with
    | line :: _ =>
      if outs.isEmpty then s
      else if !outs.all (s.hasRoom c t) then
        ((outs.filter fun d => decide (d < 4) && !s.hasRoom c t d).foldl (fun s d => s.stir (NET_MESH_WAIT.mesh_wait_cycles t d).addr) s)
      else State.meshSend c t src n ((s.modEng c t fun e => e.popOut src).putOut c t outs line)
    | [] => s

/-- Everything a tile can send under its settings leaves, and the lanes move on. -/
def State.tileSends (s : State) (c t : Nat) : State :=
  let go (s : State) (src : Nat) : State := State.meshSend c t src ((s.engOf c t).outQueue src).length s
  if s.net.emptying then s.lanesFlow c else ((go (go (go s 5) 6) 7).pump c t).lanesFlow c

/-- MESH_LINE_RECEIVE (R207 to R209): the first line of a link's buffer is checked and leaves over every output that names the
input, or waits. -/
def State.meshReceive (s : State) (t d : Nat) (ok : Bool) : State :=
  match s.ctxOn t, s.meshIn t d with
  | some c, line :: rest =>
    if !ok then
      let s := ((s.setMeshIn t d rest).wr (NET_RT_STATUS.link_parity t) 1).wr (NET_RT_STATUS.parity_dir t) d
      s.tileFault t 0x2A04 2
    else
      let outs := s.outputsOf t (d + 1)
      let full := outs.filter fun o => !s.hasRoom c t o
      if outs.isEmpty then
        match s.neighbour? t d with | some u => s.count u (NET_MESH_WAIT.mesh_wait_cycles u (opposite d)) 1 | none => s
      else if !full.isEmpty then (full.filter (· < 4)).foldl (fun s o => s.count t (NET_MESH_WAIT.mesh_wait_cycles t o) 1) s
      else
        let s := (s.setMeshIn t d rest).putOut c t outs line
        let s := match s.neighbour? t d with | some u => s.tileSends c u | none => s
        if (s.engOf c t).outDrain.isEmpty then s else s.tileSends c t
  | _, _ => s

def execMeshLineReceive (tile dir : Nat) (parityOk : Bool) (s : State) : Result :=
  .next (if s.up then s.meshReceive tile dir parityOk else s)

/-- The first mesh link of the context's partition whose line can move on. -/
def State.meshReady (s : State) (c : Nat) : Option (Nat × Nat) :=
  (s.net.mesh.find? fun e =>
    let t := e.1 / 4
    let outs := s.outputsOf t (e.1 % 4 + 1)
    !e.2.isEmpty && s.partOf t == some (s.cpart c) && !outs.isEmpty && outs.all (s.hasRoom c t)).map fun e => (e.1 / 4, e.1 % 4)

/-- Mesh lines of a partition delivered, one hop of one line at a time; `n` bounds the hops. -/
def State.meshFlow (c : Nat) : Nat → State → State
  | 0, s => s
  | n + 1, s =>
    match s.meshReady c with
    | some (t, d) => State.meshFlow c n (s.meshReceive t d true)
    | none => s

/-- Lines in flight in the networks of a partition. -/
def State.inFlight (s : State) (p : Nat) : List (Nat × List Bytes) × List (Nat × List (Nat × Bytes)) :=
  (s.net.mesh.filter fun e => s.partOf (e.1 / 4) == some p, s.net.express.filter fun e => s.partOf (e.1 / 4) == some p)

/-- At a switch the mesh and express lines in flight are delivered (R324); one that no setting lets through is kept with the context and
stands where it was when the context runs again (DESIGN CHOICE, log 56). -/
def State.emptyNets (s : State) (c : Nat) : State :=
  let s := { s with net := { s.net with emptying := true } }
  let s := (State.meshFlow c 100000 s).lanesFlow c
  let q := s.inFlight (s.cpart c)
  let s := s.modCtx c fun k => { k with meshHeld := q.1, laneHeld := q.2 }
  { s.dropLines (s.cpart c) with net := { (s.dropLines (s.cpart c)).net with emptying := false } }

/-- The lines kept with a context stand in the networks again. -/
def State.refillNets (s : State) (c : Nat) : State :=
  let k := s.ctx c
  let s := k.meshHeld.foldl (fun s e => s.setMeshIn (e.1 / 4) (e.1 % 4) (e.2 ++ s.meshIn (e.1 / 4) (e.1 % 4))) s
  let s := k.laneHeld.foldl (fun s e => s.setLane (e.1 / 4) (e.1 % 4) (e.2 ++ s.lane (e.1 / 4) (e.1 % 4))) s
  s.modCtx c fun k => { k with meshHeld := [], laneHeld := [] }

/-- EXPRESS_EDGE_DROP (R213): a line that tile `t` injected has reached the rectangle's edge on a lane and is discarded. -/
def State.edgeDrop (s : State) (t d : Nat) : State :=
  let at_ := s.net.express.find? fun e => e.1 % 4 == d && (s.neighbour? (e.1 / 4) d).isNone && e.2.any fun x => x.1 == t
  match at_ with
  | some e =>
    let l := (e.2.takeWhile fun x => x.1 != t) ++ (e.2.dropWhile fun x => x.1 != t).drop 1
    let s := ((s.setLane (e.1 / 4) d l).wr (NET_RT_STATUS.edge_drop t) 1).tileFault t 0x2A01 2
    match s.ctxOn t with | some c => s.lanesFlow c | none => s
  | none => s

def execExpressEdgeDrop (tile lane : Nat) (s : State) : Result := .next (if s.up then s.edgeDrop tile lane else s)

/-! ### Down-links (R215, R217, R218) -/

/-- A line that reaches a tile is accepted, sent again up to three times, or fails (R215). -/
def State.downlinkArrives (s : State) (t : Nat) (ok : Bool) : State :=
  if s.unserved t || (s.crossing 0 (s.phys t)).stopped then s
  else
    let n := Sparse.get 0 s.net.resends t
    let set (s : State) (n : Nat) : State := { s with net := { s.net with resends := Sparse.put 0 s.net.resends t n } }
    if ok then set (s.count t (NET_DL_IN.dl_lines_in t) 1) 0
    else if n < 3 then set (s.count t (NET_DL_RETRY.dl_retries t) 1) (n + 1)
    else
      let s := (set s 0).wr (NET_RT_STATUS.dl_error t) 1
      (s.tileFault t 0x2A02 2).markBad (s.phys t) 0x2A02 true false

/-- DOWNLINK_LINE_RECEIVE: a line for a gated tile waits in its field node, and the wait counts (R218). -/
def State.downlinkLine (s : State) (t : Nat) (ok : Bool) : State :=
  if s.gated (tileField t) (tileRow t) then
    let s := (s.inc (NET_UL_WAIT.ul_wait (tileField t) 4) 1).stir (NET_UL_WAIT.ul_wait (tileField t) 4).addr
    { s with net := { s.net with waiting := s.net.waiting ++ [(t, ok)] } }
  else s.downlinkArrives t ok

/-- Bytes that waited for a tile reach its memory, their lines counted (R218). -/
def State.unpark (s : State) (e : Nat × Nat × Bytes) : State :=
  (s.wrBytes (tileAddr (s.phys e.1) e.2.1) e.2.2).count e.1 (NET_DL_IN.dl_lines_in e.1) (linesOf e.2.1 e.2.2.length).2

/-- The arrivals that waited for a region come through once it is ungated. -/
def State.downlinkReleases (s : State) (fd r : Nat) : State :=
  let mine (t : Nat) : Bool := tileField t == fd && tileRow t == r
  let w := s.net.waiting.filter fun e => mine e.1
  let k := s.net.parked.filter fun e => mine e.1
  let s := { s with net := { s.net with
    waiting := s.net.waiting.filter fun e => !mine e.1, parked := s.net.parked.filter fun e => !mine e.1 } }
  k.foldl State.unpark (w.foldl (fun s e => s.downlinkArrives e.1 e.2) s)

def execDownlinkLineReceive (tile : Nat) (crcOk : Bool) (s : State) : Result :=
  .next (if s.up then s.downlinkLine tile crcOk else s)

/-- An access word has a request on the down-link: every operation but 0x0 and 0x8. -/
def onDownlink (w : Nat) : Bool := bits w 124 4 != 0 && bits w 124 4 != 8

/-- A word's request still waits for its reply. -/
def AccessFlight.waits (f : AccessFlight) : Bool := onDownlink f.word && !f.dead && !f.done

/-- The context that issued the oldest request of a tile without a reply: a switched-out context whose fabric words still drain issued its
own before the running one's. -/
def State.oldestIssuer (s : State) (t : Nat) : Option Nat :=
  (s.partOf t).bind fun p =>
    let has (c : Nat) : Bool := (s.engOf c t).flight.any AccessFlight.waits
    match (s.partCtxs p).find? fun c => s.running p != some c && has c with
    | some c => some c
    | none => (s.running p).filter has

/-- The first word of a list whose request waits completes without landing data. -/
def failRequest : List AccessFlight → List AccessFlight
  | [] => []
  | f :: l => if f.waits then { f with dead := true } :: l else f :: failRequest l

/-- DOWNLINK_REQUEST_TIMEOUT (R217): the oldest request has had no reply; its word completes without landing data, and the fault is against
the context that issued it. -/
def State.downlinkTimeout (s : State) (t : Nat) : State :=
  match s.oldestIssuer t with
  | some c =>
    let s := { s with hall := s.hall + s.rd NET_CFG.ul_timeout * 1000 }
    let s := s.modEng c t fun e => { e with flight := failRequest e.flight }
    (s.wr (NET_RT_STATUS.dl_timeout t) 1).fault 0x2A03 2 1 t (some c) (some (s.cpart c)) []
  | none => s

def execDownlinkRequestTimeout (tile : Nat) (s : State) : Result := .next (if s.up then s.downlinkTimeout tile else s)

/-! ### Stacks (R223 to R226) -/

/-- A stack is present and not excluded. -/
def State.stackIn (s : State) (k : Nat) : Bool := bits s.defaultStacks k 1 == 1

/-- The number of a line of a stack among all lines, as `poisoned` lists it. -/
def poisonKey (k line : Nat) : Nat := k * 500000000 + line

/-- A line marked poisoned, and its record in the stack's registers. -/
def State.poison (s : State) (k line : Nat) : State :=
  let key := poisonKey k line
  let s := { s with poisoned := if s.poisoned.contains key then s.poisoned else key :: s.poisoned }
  let s := ((s.wr (STK_STATUS.poisoned k) 1).wr (STK_STATUS.uncorrected k) 1).inc (STK_ECC.uncorrected_count k) 1
  s.wr (STK_ECC.last_unit k) (line / 16)

/-- A corrected error recorded. -/
def State.eccCorrected (s : State) (k line : Nat) : State :=
  ((s.wr (STK_STATUS.corrected k) 1).inc (STK_ECC.corrected_count k) 1).wr (STK_ECC.last_unit k) (line / 16)

/-- Fault 0x2A10 against the context a requester acts for; a command engine's read fails its command instead. -/
def State.readFault (s : State) (k : Nat) (by_ : Requester) : State :=
  let c := match by_ with
    | .tile t => s.ctxOn t
    | .portEngine c => some c
    | .commandEngine => none
  match c with
  | some c => s.fault 0x2A10 2 4 k (some c) (some (s.cpart c)) []
  | none => s

/-- The line's way between its stack and the requester; which port die a port engine stands on is not said (free). -/
def State.requestWay (s : State) (k : Nat) (write : Bool) (by_ : Requester) : State :=
  let go (s : State) (node : Nat × Nat) (tile : Bool) : State :=
    if write then s.underlay node (stackNode k) 1 else s.underlay (stackNode k) node 1 tile
  match by_ with
  | .tile t => go s (tileNode t) true
  | .commandEngine => go s bridgeNode false
  | .portEngine _ => let f := s.free 4; go f.2 (portNode f.1) false

/-- The partition that a requester acts for, where the command names one. -/
def State.requesterPart (s : State) : Requester → Option Nat
  | .tile t => s.partOf t
  | .portEngine c => some (s.cpart c)
  | .commandEngine => none

/-- STACK_REQUEST: one line request performed at a controller. -/
def State.stackRequest (s : State) (k line : Nat) (write : Option Bytes) (by_ : Requester) (ecc : EccOutcome) : State :=
  if !s.stackIn k ∨ 500000000 ≤ line then s
  else
  let s := s.requestWay k write.isSome by_
  match write with
    | some b =>
      let s := (s.stackCount k 1 true (s.requesterPart by_)).wrBytes (stackAddr k (256 * line)) (padTo 256 b)
      { s with poisoned := s.poisoned.filter (· != poisonKey k line) }
    | none =>
      let s := s.stackCount k 1 false (s.requesterPart by_)
      if s.poisoned.contains (poisonKey k line) then s.readFault k by_
      else match ecc with
        | .clean => s
        | .corrected => s.eccCorrected k line
        | .uncorrectable => (s.poison k line).readFault k by_

def execStackRequest (stack line : Nat) (write : Option Bytes) (by_ : Requester) (ecc : EccOutcome) (s : State) : Result :=
  .next (if s.up then s.stackRequest stack line write by_ ecc else s)

/-- STACK_SCRUB_UNIT (R225): the next unit is read and checked; `badLine` is the line of the unit that an error lies in. -/
def State.scrubUnit (s : State) (k : Nat) (ecc : EccOutcome) (badLine : Nat) : State :=
  if !s.stackIn k || !s.on (STK_SCRUB.scrub_en k) then s
  else
    let u := s.rd (STK_SCRUB.progress k)
    let line := 16 * u + badLine % 16
    let s := s.wr (STK_SCRUB.progress k) (if u + 1 < 31250000 then u + 1 else 0)
    match ecc with
    | .clean => s
    | .corrected => s.eccCorrected k line
    | .uncorrectable => (s.poison k line).fault 0x2A11 1 4 k none none (leB 4 u)

def execStackScrubUnit (stack : Nat) (ecc : EccOutcome) (badLine : Nat) (s : State) : Result :=
  .next (if s.up then s.scrubUnit stack ecc badLine else s)

/-- A stack excluded in operation (R226): fault 0x2A12 against every partition whose mask includes it. -/
def State.loseStack (s : State) (k : Nat) : State :=
  if !s.stackIn k then s
  else
    let s := (s.wrBit STK_PRESENT.failed k true).wr (STK_STATUS.lost k) 1
    ((List.range 32).filter fun p => s.built p && bits (s.rd (STK_PART_MAP.stack_mask p)) k 1 == 1).foldl
      (fun s p => s.fault 0x2A12 3 4 k none (some p) []) s

def execStackLost (stack : Nat) (s : State) : Result := .next (if s.up then s.loseStack stack else s)

/-! ### The heartbeat watchdog (R448, R453) -/

/-- HEARTBEAT_TIMEOUT: wd_us have passed without a heartbeat the field node expects; a tile's is expected only in an ungated
region. The field node raises 0x3501 and the tile is marked bad, the faults of one cycle in ascending code (R449). -/
def State.heartbeat (s : State) (pt : Nat) (tileMissing routerMissing : Bool) : State :=
  let tm := tileMissing && !s.gated (pt / 84) (pt % 84 / 14)
  if !(tm || routerMissing) then s
  else
    let s := { s with hall := s.hall + s.rd FLT_CFG.wd_us * 1000 }
    let s := match (s.logical pt).bind s.ctxOn with
      | some c => s.fault 0x3501 2 3 (pt / 84) (some c) (some (s.cpart c)) []
      | none => s
    s.markBad pt 0x3501 tm routerMissing

def execHeartbeatTimeout (ptile : Nat) (tileMissing routerMissing : Bool) (s : State) : Result :=
  .next (if s.up then s.heartbeat ptile tileMissing routerMissing else s)

end Sys2Proof.Machine
end

