-- ==== Sys2Proof/Machine/Ring.lean ====
section
/-! DEFINITION. Result rings (R311, R358 to R361): records in the partition's stack space, counted up without limit, held from
the release index to the write index. -/

namespace Sys2Proof.Machine

/-- The ring of a context by source (0 output, 1 trace) and number. -/
def State.ring (s : State) (c source n : Nat) : Option Ring :=
  s.rings.find? fun r => r.ctx == c && r.source == source && r.ring == n

def sameRing (a b : Ring) : Bool := a.ctx == b.ctx && a.source == b.source && a.ring == b.ring

/-- A ring replaced, or added. -/
def State.setRing (s : State) (r : Ring) : State := { s with rings := r :: s.rings.filter fun x => !sameRing x r }

/-- A ring removed. -/
def State.dropRing (s : State) (c source n : Nat) : State :=
  { s with rings := s.rings.filter fun x => !(x.ctx == c && x.source == source && x.ring == n) }

/-- Records held. -/
def Ring.held (r : Ring) : Nat := r.write - r.release

/-- Records free beyond those reserved. -/
def Ring.room (r : Ring) : Nat := 2 ^ r.k - r.held - r.reserved

/-- The partition stack address of a record. -/
def Ring.addr (r : Ring) (i : Nat) : Nat := 256 * r.base + i % 2 ^ r.k * r.size

/-- A record appended; the caller has seen that the ring has room. -/
def State.ringPut (s : State) (r : Ring) (b : Bytes) : State :=
  (s.wrPart (s.cpart r.ctx) (r.addr r.write) (padTo r.size b)).setRing
    { r with write := r.write + 1, times := r.times ++ [(r.write, s.hall)] }

/-- Every record below `upto` made free. -/
def Ring.releaseTo (r : Ring) (upto : Nat) : Ring :=
  if upto ≤ r.release then r
  else { r with release := upto, reads := r.reads.filter (upto ≤ ·), times := r.times.filter fun e => decide (upto ≤ e.1) }

/-- A trace record (R358): written when the context's ring has room, else counted. -/
def State.trace (s : State) (c : Nat) (b : Bytes) : State :=
  match s.ring c 1 0 with
  | some r =>
    if !r.enabled then s
    else if r.room = 0 then s.inc (CMD_RESULT_STATUS.trace_dropped c) 1
    else s.ringPut r b
  | none => s

end Sys2Proof.Machine
end

