-- ==== Sys2Proof/Machine/Stream.lean ====
section
/-! DEFINITION. The compute stream (R181 to R191): descriptors, holds, loops, semaphores, and what a word does as it issues. -/

namespace Sys2Proof.Machine

/-! ### Descriptors (R186) -/

/-- The fields of a descriptor kind that advance, and its adv_step field: lowest bit and width. -/
def advFields : Nat → List (Nat × Nat) × (Nat × Nat)
  | 1 => ([(232, 17)], (115, 17))
  | 3 => ([(226, 17)], (175, 17))
  | 4 => ([(229, 20), (209, 20), (189, 20)], (113, 20))
  | 5 => ([(229, 20), (209, 20), (169, 20)], (5, 20))
  | 6 => ([(232, 17), (215, 17)], (181, 17))
  | _ => ([], (0, 1))

/-- The iteration index of a loop counter: its count less its present value (R183); 0 for a counter not open. -/
def State.iteration (s : State) (c t k : Nat) : Nat :=
  match (s.engOf c t).loops.find? fun l => l.1 == k with
  | some l => l.2.2 - s.rd (insLoop t k)
  | none => 0

/-- Descriptor `d` with its advancing fields at their present values. -/
def State.resolve (s : State) (c t d : Nat) : Nat :=
  let v := s.descriptor c t d
  let f := advFields (bits v 252 4)
  let loop := bits v 249 3
  if loop < 4 then v
  else
    let i : Int := (s.iteration c t (loop - 4) : Nat)
    let step := sgn f.2.2 (bits v f.2.1 f.2.2)
    f.1.foldl (fun v q => setBits v q.1 q.2 (twos q.2 ((bits v q.1 q.2 : Int) + i * step))) v

/-! ### Holds (R182) -/

/-- A word's fields of a vector slot: slot 1 stands 48 bits below slot 0. -/
def vop (w slot : Nat) : Nat := bits w (280 - 48 * slot) 8
def isWidening (op : Nat) : Bool := decide (0x30 ≤ op) && decide (op ≤ 0x32)

/-- A word names an operation for a unit that is busy. -/
def Eng.busyFor (e : Eng) (w : Nat) : Bool :=
  (bits w 422 2 != 0 && e.fa.isSome) || (bits w 406 2 != 0 && e.fb.isSome) || (bits w 390 2 != 0 && e.ary.isSome) ||
  (vop w 0 != 0 && e.vec0.isSome) || (vop w 1 != 0 && e.vec1.isSome) || (bits w 188 4 != 0 && e.row.isSome) ||
  (bits w 333 3 == 1 && e.mule.active.isSome && e.mule.queued.isSome) ||
  (isWidening (vop w 0) && (match e.vec1 with | some o => isWidening (vop o.word 1) | none => false)) ||
  (isWidening (vop w 1) && (isWidening (vop w 0) || (match e.vec0 with | some o => isWidening (vop o.word 0) | none => false)))

/-- Every unit of R182 is idle; the mule is not while a load is outstanding. -/
def Eng.idle (e : Eng) : Bool :=
  e.fa.isNone && e.fb.isNone && e.ary.isNone && e.vec0.isNone && e.vec1.isNone && e.row.isNone && e.mule.active.isNone &&
    e.mule.queued.isNone && e.mule.loads.isEmpty

/-- The tile is quiesced: every unit idle, every product drained, the drain's and the mule's results gone, no router or express send in
progress. -/
def Eng.quiet (e : Eng) : Bool :=
  e.idle && e.tails.isEmpty && e.outSram.isEmpty && e.outDrain.isEmpty && e.outMule.isEmpty && e.outX.isEmpty

/-- A line that the tile injects waits for its lane or a seam; one may have waited since the counters were last read; a request of its access
stream for a stack, or a fabric word, is outstanding and may wait, as may the next word for credits. -/
def State.waitsExpress (s : State) (c t : Nat) : Bool := (s.nextInject c t).any fun x => x == .held || x == .seamFull
def State.waitedExpress (s : State) (t : Nat) : Bool :=
  s.net.stirred.contains (NET_EXP_WAIT.exp_wait_cycles t).addr || s.net.stirred.contains (NET_SEAM_WAIT.seam_wait_cycles t).addr
def State.waitsStack (s : State) (c t : Nat) : Bool :=
  (s.engOf c t).flight.any fun f => f.waits && decide (bits f.word 124 4 < 6)
def State.waitsPort (s : State) (c t : Nat) : Bool :=
  let fabric (w : Nat) : Bool := bits w 124 4 == 6 || bits w 124 4 == 7
  ((s.engOf c t).flight.any fun f => f.waits && fabric f.word) ||
    fabric ((s.engOf c t).reissue.headD (s.accessWord c t (s.rd (INS_STATUS.access_pc t))))

/-- Cycles in which the compute stream is held, attributed to the waits that count meanwhile (R332): all of them to the express lanes while a
line waits there; an open number to what may wait, none where nothing waits (free). -/
def State.attribute (s : State) (c t n : Nat) : State :=
  let x := if s.waitsExpress c t then (n, s) else if s.waitedExpress t then s.free 32 else (0, s)
  let k := if s.waitsStack c t then x.2.free 32 else (0, x.2)
  let p := if s.waitsPort c t then k.2.free 32 else (0, k.2)
  p.2.modEng c t fun e => { e with
    holdX := e.holdX + x.1 % (n + 1), holdS := e.holdS + k.1 % (n + 1), holdP := e.holdP + p.1 % (n + 1) }

/-- One cycle in which the compute stream is held: it counts as slip, and the schedule cycle stands still (R182, R193). -/
def State.heldCycle (s : State) (c t why : Nat) (counter : RF) : State :=
  let s := ((s.wr (INS_STATUS.stream t) why).slipBy c t 1).count t counter 1
  (s.attribute c t 1).limited c t 1

/-- A context has a step in progress on a tile: its slice there is not empty and its stream neither ended nor stopped. -/
def State.issuing (s : State) (c t : Nat) : Bool :=
  (s.ctx c).step.isSome && s.hasWork c t && s.rd (INS_STATUS.stream t) != 6 && s.rd (INS_STATUS.stream t) != 7 &&
    (s.crossing 5 t).ahead == 0 &&
    !s.gated (tileField t) (tileRow t)

/-! ### Semaphores (R191, R197) -/

/-- The first `n` staged words whose signal on a semaphore has been given, released by the wait that takes the signals. -/
def releaseStaged (sem : Nat) : Nat → List (Nat × Nat × Bool) → List (Nat × Nat × Bool)
  | _, [] => []
  | 0, l => l
  | n + 1, x :: l => if x.1 = sem ∧ x.2.2 then releaseStaged sem n l else x :: releaseStaged sem (n + 1) l

/-- A wait of the compute stream takes `n` from a semaphore, and releases the staged words whose signals it takes (R197). -/
def State.semTake (s : State) (c t sem n : Nat) : State :=
  (s.dec (insSem t sem) n).modEng c t fun e => { e with staged := releaseStaged sem n e.staged }

/-- A signal adds `n`; a count above 255 raises fault 0x2902. -/
def State.semSignal (s : State) (t sem n : Nat) : State :=
  let v := s.rd (insSem t sem) + n
  if 255 < v then (s.wr (INS_STATUS.sem_overflow t) 1).tileFault t 0x2902 2
  else s.wr (insSem t sem) v

/-! ### Issue (R181, R183) -/

/-- The control slot: the loop that a word begins or ends, and the word that issues next. -/
def State.advancePc (s : State) (c t w : Nat) : State :=
  let pc := s.rd (INS_STATUS.pc t)
  let op := bits w 494 2
  let k := bits w 492 2
  let opened (s : State) : Bool := (s.engOf c t).loops.any fun l => l.1 == k && l.2.1 == pc
  let s := if (op = 1 ∨ op = 3) ∧ !opened s then
      (s.modEng c t fun e => { e with loops := (k, pc, bits w 476 16) :: e.loops }).wr (insLoop t k) (bits w 476 16)
    else s
  if op = 2 ∨ op = 3 then
    let n := s.rd (insLoop t k) - 1
    let s := s.wr (insLoop t k) n
    let start := match (s.engOf c t).loops.find? fun l => l.1 == k with | some l => l.2.1 | none => pc + 1
    if n ≠ 0 then s.wr (INS_STATUS.pc t) start
    else (s.modEng c t fun e => { e with loops := e.loops.filter fun l => l.1 != k }).wr (INS_STATUS.pc t) (pc + 1)
  else s.wr (INS_STATUS.pc t) (pc + 1)

/-- The lines of SRAM that a transfer descriptor sends, or the fault that reading them raises. -/
def State.sendLines (s : State) (c t desc : Nat) : Nat × List Bytes :=
  let l := bits desc 232 17
  let n := bits desc 198 17
  let f := s.sramFault c l n
  (f, if f ≠ 0 then [] else (List.range n).map fun i => s.rdLine c t (l + i))

/-- The lines of tile SRAM that a word begins to send. -/
def State.sendSpan (s : State) (c t w : Nat) : List (Nat × Nat) :=
  let run (d : Nat) : Nat × Nat := (bits d 232 17, bits d 198 17)
  let e := s.engOf c t
  let m := s.resolve c t (bits w 149 10)
  let x := s.resolve c t (bits w 124 10)
  (if ((List.range 5).any fun d => bits w (173 - 3 * d) 3 == 5) && !(e.mdesc == m && bits e.word 159 17 == bits w 159 17) then [run m] else []) ++
  (if (bits w 141 3 != 0 && bits w 136 2 == 0) && !(e.xdesc == x && bits e.word 134 10 == bits w 134 10) then [run x] else [])

/-- The router and express settings of a word take force (R181, R190). A setting named again with the same descriptor goes on
where it stands (DESIGN CHOICE, log 21); the lines of a send that the word does not name are left unsent. -/
def State.applySettings (s : State) (c t w : Nat) : State :=
  let e := s.engOf c t
  let m := s.resolve c t (bits w 149 10)
  let x := s.resolve c t (bits w 124 10)
  let sends (w : Nat) : Bool := (List.range 5).any fun d => bits w (173 - 3 * d) 3 == 5
  let xsends (w : Nat) : Bool := bits w 141 3 != 0 && bits w 136 2 == 0
  let sameM := e.mdesc == m && bits e.word 159 17 == bits w 159 17
  let sameX := e.xdesc == x && bits e.word 134 10 == bits w 134 10
  let a := tileReg t 0x2000
  let s := s.setReg a (setBits (setBits (s.reg a) 15 17 (bits w 159 17)) 5 10 (bits w 134 10))
  let lm := if !sends w then (0, []) else if sameM then (0, e.outSram) else s.sendLines c t m
  let lx := if !xsends w then (0, []) else if sameX then (0, e.outX) else s.sendLines c t x
  let s := s.setEng c t { e with
    mdesc := m, xdesc := x, outSram := lm.2, outX := lx.2,
    recvN := if sameM then e.recvN else 0, xrecvN := if sameX then e.xrecvN else 0 }
  let f := if lm.1 ≠ 0 then lm.1 else lx.1
  if f ≠ 0 then s.tileFault t f 2 else s

/-- The requesters of tile SRAM that a word sets to work (Table 5-2): feeders, mule, row engine, vector slots, and sends. -/
def wordRequesters (w : Nat) : List Nat :=
  (if bits w 422 2 = 1 then [2] else []) ++ (if bits w 406 2 = 1 then [3] else []) ++ (if bits w 333 3 ≠ 0 then [4] else []) ++
  (if bits w 188 4 ≠ 0 then [5] else []) ++ (if vop w 0 ≠ 0 ∨ vop w 1 ≠ 0 then [6] else []) ++
  (if ((List.range 5).any fun d => bits w (173 - 3 * d) 3 == 5) || (bits w 141 3 != 0 && bits w 136 2 == 0) then [7] else []) ++
  (if bits w 350 2 = 1 then [0] else [])

/-- The pass that becomes the active one stands in MVP_STATUS (Table 6-7). -/
def State.showPass (s : State) (t : Nat) : Option MulePass → State
  | some p => ((s.wr (MVP_STATUS.desc t) p.entry).wr (MVP_STATUS.set_sel t) p.set).wr (MVP_STATUS.panel t) p.panel
  | none => s

/-- The operations a word names start in their units. A feeder started from SRAM reads on from then (R185); network lines that an earlier
operation left in its queues are lost (DESIGN CHOICE, log 56). -/
def State.startUnits (s : State) (c t w : Nat) : State :=
  let op (d : Nat) : TileOp :=
    { word := w, desc := s.resolve c t (bits w d 10), drain := s.resolve c t (bits w 340 10), started := false,
      at_ := s.rd (INS_SCHED.step_cycle t) }
  let e := s.engOf c t
  let held (o : Nat) (l : List Bytes) : List Bytes := if o = 1 then [] else l
  let e := if bits w 422 2 ≠ 0 then { e with fa := some (op 412), netA := held (bits w 422 2) e.netA } else e
  let e := if bits w 406 2 ≠ 0 then { e with fb := some (op 396), netB := held (bits w 406 2) e.netB } else e
  let e := if bits w 390 2 ≠ 0 then
      { e with ary := some (op 380), tails := e.tails.map fun x => { x with slip := none } } else e
  let e := if vop w 0 ≠ 0 then { e with vec0 := some (op 260) } else e
  let e := if vop w 1 ≠ 0 then { e with vec1 := some (op 212) } else e
  let e := if bits w 188 4 ≠ 0 then { e with row := some (op 177) } else e
  let mv := bits w 333 3
  let e := if mv = 1 then
      let p : MulePass := ⟨bits w 329 4, bits w 328 1, 0, false, e.mule.starts⟩
      let m := { e.mule with starts := e.mule.starts + 1 }
      { e with mule := if m.active.isSome then { m with queued := some p } else { m with active := some p } }
    else if 2 ≤ mv ∧ mv ≤ 5 then { e with mule := { e.mule with loads := e.mule.loads ++ [(w, e.mule.starts)] } }
    else e
  let e := { e with word := w, ended := e.ended || bits w 474 2 == 1, semWait := none, rdvWait := none, released := false }
  let s := (wordRequesters w).foldl (fun s r => s.contends t r) (s.setEng c t e)
  let s := if bits w 422 2 = 1 then s.refill c t false 0 else s
  let s := if bits w 406 2 = 1 then s.refill c t true 0 else s
  let s := if bits w 390 2 ≠ 0 then s.wr (ARY_STATUS.array_slip t) 0 else s
  let s := if 8 ≤ bits w 188 4 then s.wr (BWD_STATUS.row_bwd_active t) 1 else s
  let s := if vop w 0 = 0x38 ∨ vop w 1 = 0x38 then s.wr (SPR_STATUS.prune_active t) 1 else s
  if mv = 1 then
    let s := (s.wr (MVP_STATUS.queued t) (bit e.mule.queued.isSome)).wr (MVP_STATUS.active t) 1
    if e.mule.queued.isSome then s else s.showPass t e.mule.active
  else if mv = 3 ∨ mv = 4 then s.wrBit (MVP_STATUS.set_loading t) (bits w 328 1) true |>.wrBit (MVP_STATUS.set_ready t) (bits w 328 1) false
  else s

/-- A word issues: its semaphore action, its units, its settings, its trace record and its control slot take effect, and it is
in force for its repeat cycles. -/
def State.issueWord (s : State) (c t w : Nat) : State :=
  let sync := bits w 461 3
  let sem := bits w 428 5
  let amount := bits w 424 4
  let s := if sync = 3 then s.semTake c t sem amount else if sync = 4 then s.semSignal t sem amount else s
  if s.rd (INS_STATUS.stream t) = 7 then s
  else
    let cycle := s.rd (INS_SCHED.step_cycle t)
    let slip := s.rd (INS_SLIP.slip t)
    let tag := bits w 112 8
    let s := if tag = 0 then s
      else s.trace c (leB 1 tag ++ leB 1 0 ++ leB 2 t ++ leB 4 cycle ++ leB 4 slip ++ leB 4 s.tick)
    let s := s.applySettings c t w
    if s.rd (INS_STATUS.stream t) = 7 then s
    else
      let s := (s.startUnits c t w).advancePc c t w
      let s := (s.schedule c t (cycle + bits w 496 16) slip).limited c t (bits w 496 16)
      (s.wr (INS_STATUS.stream t) 1).tileSends c t

/-- A code error met in an instruction memory (R101, R179): corrected and counted, or fault 0x2905. -/
def State.insEcc (s : State) (t : Nat) : EccOutcome → State
  | .clean => s
  | .corrected => (s.inc (TIL_SRAM_ECC.corrected_count t) 1).wr (TIL_SRAM_ECC.corrected t) 1
  | .uncorrectable => (s.wr (TIL_SRAM_ECC.uncorrected t) 1).tileFault t 0x2905 2

end Sys2Proof.Machine
end

