-- ==== Sys2Proof/Machine/Access.lean ====
section
/-! DEFINITION. The run-ahead engine (R196 to R199): issue and completion of access words, and the windows through which a
stack address of the program passes (R256, R287, R309, R459). -/

namespace Sys2Proof.Machine

/-! ### Stack windows -/

/-- Where a 256-byte unit of the program's stack addresses lies: at a unit of the partition's space; nowhere (a read gives
zeros, a write is discarded), counted as outside its lane or not. -/
inductive UnitPlace where
  | at_ (u : Nat)
  | nowhere (outside : Bool)
deriving DecidableEq, Repr

/-- The lane of the present run with a number. -/
def State.laneOf (s : State) (c d : Nat) : Option Lane :=
  let run := match (s.ctx c).step with | some r => r.run | none => 1
  ((s.ctx c).lanes[d]?).bind fun l => if l.run = run then some l else none

/-- Offset `o` of lane `d` (R309). -/
def State.lanePlace (s : State) (c d : Nat) (off : Lane → Nat) : UnitPlace :=
  match s.laneOf c d with
  | some l =>
    let o := off l
    if o < (l.position + l.count) * s.rd (SEQ_KV_POS.kv_pos c) then .at_ (l.kvBase + o) else .nowhere true
  | none => .nowhere true

/-- A unit through the stack window of the weight set in use. -/
def State.weightUnit (s : State) (c u : Nat) : Nat := s.setUnit c (s.runSet c) u

/-- The unit that a carry window maps a unit to (R256): the read window reaches buffer carry_cur, the write window the other. -/
def State.carryUnit (s : State) (c u : Nat) : Option Nat :=
  (s.ctx c).node.bind fun n =>
    let size := leAt n 96 8
    let cur := s.rd (RED_STATUS.carry_cur c)
    let buf (k : Nat) : Nat := leAt n (80 + 8 * k) 8
    if leAt n 104 8 ≤ u ∧ u < leAt n 104 8 + size then some (buf cur + (u - leAt n 104 8))
    else if leAt n 112 8 ≤ u ∧ u < leAt n 112 8 + size then some (buf (1 - cur) + (u - leAt n 112 8))
    else none

/-- A unit outside the windows of its step: a carry window, then the weight set's stack window. -/
def State.plainUnit (s : State) (c u : Nat) : Nat := (s.carryUnit c u).getD (s.weightUnit c u)

/-- The windows of a serving step: history and append, before those of every step. -/
def State.servePlace (s : State) (c u : Nat) : UnitPlace :=
  let hw := s.rd (SEQ_HIST_WIN.hist_win c)
  let aw := s.rd (SEQ_APP_WIN.app_win c)
  let lane := s.rd (SEQ_KV_LANE.kv_lane c)
  let pos := s.rd (SEQ_KV_POS.kv_pos c)
  let drove := s.rd (SEQ_CFG.max_drove c)
  let chunk := s.rd (SEQ_CFG.prefill_chunk c) * pos
  if s.on (SEQ_CFG.serving c) && decide (hw ≤ u) && decide (u < hw + drove * lane) then
    s.lanePlace c ((u - hw) / lane) fun _ => (u - hw) % lane
  else if s.on (SEQ_CFG.serving c) && decide (aw ≤ u) && decide (u < aw + drove * chunk) then
    s.lanePlace c ((u - aw) / chunk) fun l => l.position * pos + (u - aw) % chunk
  else .at_ (s.plainUnit c u)

/-- The slot of a step's entry in the input-log ring: its first unit (R455). -/
def State.ilogSlot (s : State) (c step : Nat) : Nat :=
  s.rd (FLT_CTX_ILOG_BASE.base c) + step % Max.max 1 (s.rd (FLT_CTX_ILOG_CFG.depth c)) * s.rd (FLT_CTX_ILOG_CFG.entry_units c)

/-- The windows of a training step: the inputs (R459), before those of every step. -/
def State.trainPlace (s : State) (c step : Nat) (write : Bool) (u : Nat) : UnitPlace :=
  let iw := s.rd (FLT_CTX_ILOG_WIN.in_win c)
  let units := s.rd (FLT_CTX_ILOG_CFG.entry_units c)
  if s.rd (FLT_CTX_ILOG_CFG.depth c) ≠ 0 ∧ iw ≤ u ∧ u < iw + units - 1 then
    (if write then .nowhere false else .at_ (s.ilogSlot c step + 1 + (u - iw)))
  else .at_ (s.plainUnit c u)

/-- Where a unit that context `c` names lies in its step. -/
def State.unitPlace (s : State) (c : Nat) (write : Bool) (u : Nat) : UnitPlace :=
  match (s.ctx c).step with
  | some r =>
    if r.training then s.trainPlace c r.stepNo write u
    else s.servePlace c u
  | none => .at_ (s.plainUnit c u)

/-- A unit place lies in the partition's stack space. -/
def State.placeOk (s : State) (p : Nat) : UnitPlace → Bool
  | .at_ u => decide (256 * u + 256 ≤ s.stackSpace p)
  | .nowhere _ => true

/-- A line read through the windows. -/
def State.rdUnit (s : State) (c u : Nat) : Bytes :=
  match s.unitPlace c false u with
  | .at_ v => s.rdPart (s.cpart c) (256 * v) 256
  | .nowhere _ => padTo 256 []

/-- Lines read through the windows, with the accesses outside a lane counted. -/
def State.rdUnits (s : State) (c u n : Nat) : Bytes × State :=
  let out := ((List.range n).filter fun i => s.unitPlace c false (u + i) == .nowhere true).length
  ((List.range n).flatMap fun i => s.rdUnit c (u + i), s.inc (SEQ_COUNTS2.kv_outside c) out)

/-- Lines written through the windows. -/
def State.wrUnits (s : State) (c u : Nat) (lines : List Bytes) : State :=
  ((List.range lines.length).zip lines).foldl (fun s q =>
    match s.unitPlace c true (u + q.1) with
    | .at_ v => s.wrPart (s.cpart c) (256 * v) (padTo 256 q.2)
    | .nowhere true => s.inc (SEQ_COUNTS2.kv_outside c) 1
    | .nowhere false => s) s

/-- Some line of a range, seen through the windows, is poisoned. -/
def State.unitsPoisoned (s : State) (c u n : Nat) : Bool :=
  (List.range n).any fun i => match s.unitPlace c false (u + i) with
    | .at_ v => s.partPoisoned (s.cpart c) (256 * v) 1
    | .nowhere _ => false

/-! ### Fields of an access word (Table 9-8) -/

def awSem (w : Nat) : Nat := bits w 119 5
def awSignals (w : Nat) : Bool := bits w 117 1 == 1
def awWaits (w : Nat) : Bool := bits w 118 1 == 1
def awSram (w : Nat) : Nat := bits w 97 20
def awRemote (w : Nat) : Nat := bits w 48 33
def awStream (w : Nat) : Nat := bits w 48 16
def awAt (w : Nat) : Nat := bits w 16 32

/-- The word lands data in the tile. -/
def awLands (w : Nat) : Bool := awOp w == 1 || awOp w == 3 || awOp w == 4 || awOp w == 5 || awOp w == 6

/-- The stack lines that the word reads or writes: an MXFP4 read takes half the lines it writes. -/
def awUnits (w : Nat) : Nat := if awOp w = 3 then (awLen w + 1) / 2 else awLen w

/-- The fault that the word's ranges raise, 0 when none does (R97, R199, R221). -/
def State.accessFault (s : State) (c w : Nat) : Nat :=
  let op := awOp w
  let place (write : Bool) : Bool :=
    (List.range (awUnits w)).all fun i => s.placeOk (s.cpart c) (s.unitPlace c write (awRemote w + i))
  let sram := s.sramFault c (awSram w / 8) (awLen w)
  let stream (dir : Nat) : Bool := match s.stream (awStream w) with
    | some x => x.ctx == c && x.direction == dir && (x.kind == 0 || (x.kind == 1 && dir == 1))
    | none => false
  match op with
  | 1 | 3 => if sram ≠ 0 then sram else if place false then 0 else 0x2906
  | 2 => if sram ≠ 0 then sram else if place true then 0 else 0x2906
  | 4 => if s.inScale c (32 * awSram w) (256 * awLen w) && place false then 0 else 0x2906
  | 5 => if s.inMask c (32 * awSram w) (256 * awLen w) && place false then 0 else 0x2906
  | 6 => if sram ≠ 0 then sram else if stream 1 then 0 else 0x2907
  | 7 => if sram ≠ 0 then sram else if stream 0 then 0 else 0x2907
  | _ => 0

/-- The staged count (R197): landing words issued and not released. -/
def State.stagedCount (s : State) (c t : Nat) : Nat :=
  let e := s.engOf c t
  e.staged.foldl (fun n x => n + x.2.1) 0 +
    (e.flight.filter fun f => awLands f.word && !awSignals f.word).foldl (fun n f => n + 256 * awLen f.word) 0

/-- The training step and the attempt that a context's words belong to. -/
def State.attemptOf (s : State) (c : Nat) : Option (Nat × Nat) :=
  match (s.ctx c).step, (s.ctx c).train with
  | some r, some x => if r.training then some (x.req.step, x.attempt) else none
  | _, _ => none

/-- The training attempt that a context's step belongs to is voided, so that its fabric words move no data (R260). -/
def State.attemptVoided (s : State) (c : Nat) : Bool :=
  match (s.ctx c).step, (s.ctx c).train with | some r, some x => r.training && x.voided | _, _ => false

/-- Lines that the stack reads in flight of a tile have outstanding. -/
def Eng.readsOut (e : Eng) : Nat :=
  (e.flight.filter fun f => f.waits && awLands f.word && awOp f.word != 6).foldl (fun n f => n + awUnits f.word) 0

/-- A word's requests go to the down-link. Past 64 line reads outstanding the further ones wait, for an open number of cycles; any request
may wait at the field node (R215, Table 10-4; log 57). -/
def State.requestsWait (s : State) (c t w : Nat) : State :=
  if !onDownlink w then s
  else
    let s := s.stir (NET_DL_WAIT.dl_wait_cycles t).addr
    if 64 < (s.engOf c t).readsOut then let f := s.free 32; f.2.count t (NET_DL_WAIT.dl_wait_cycles t) (1 + f.1) else s

/-- ACCESS_WORD_ISSUE: the next access word issues when its semaphore, its window, the staging size and the outstanding words
allow; a word to be issued again after a restore comes first (R200). -/
def State.accessIssue (s : State) (t : Nat) (ecc : EccOutcome) : State :=
  match s.ctxOn t with
  | none => s
  | some c =>
    let e := s.engOf c t
    let pc := s.rd (INS_STATUS.access_pc t)
    if !((s.ctx c).step.isSome && s.hasWork c t) || s.gated (tileField t) (tileRow t) || s.rd (INS_STATUS.stream t) == 7 ||
        (e.reissue.isEmpty && s.on (INS_STATUS.ra_ended t)) then s
    else
      let s := s.insEcc t ecc
      if s.rd (INS_STATUS.stream t) = 7 then s
      else
        let w := e.reissue.headD (s.accessWord c t pc)
        let again := !e.reissue.isEmpty
        let window : Nat := match (s.ctx c).program with | some g => g.window | none => 0
        let staging := match s.sliceOf c t with | some sl => sl.staging | none => 0
        if !again && awWaits w && s.rd (insSem t (awSem w)) == 0 then
          s.modEng c t fun e => { e with accWait := some (e.accWait.getD s.tick) }
        else if s.rd (INS_SCHED.sched_cycle t) + window < awAt w ∨
            (awLands w && !again && decide (staging < s.stagedCount c t + 256 * awLen w)) then
          s.count t (INS_RA_HOLD.ra_hold_cycles t) 1
        else if awOp w = 7 ∧ 64 < e.flight.length then s
        else
          let f := s.accessFault c w
          if f ≠ 0 then s.tileFault t f 2
          else if s.creditsFree c < awCredits w then s
          else
            let s := if !again && awWaits w then s.dec (insSem t (awSem w)) 1 else s
            let s := s.takeCredits c (awCredits w)
            let s := s.modEng c t fun e => { e with
              accWait := none, reissue := e.reissue.drop 1, flight := e.flight ++ [⟨w, (awOp w == 6 || awOp w == 7) && s.attemptVoided c, false, s.attemptOf c⟩],
              staged := if awLands w && awSignals w && !again then e.staged ++ [(awSem w, 256 * awLen w, false)] else e.staged }
            let s := if again then s else s.wr (INS_STATUS.access_pc t) (pc + 1)
            let s := if awOp w = 8 then s.wr (INS_STATUS.ra_ended t) 1 else s
            let s := s.wr (INS_RA.outstanding t) (s.engOf c t).flight.length
            ((s.modEng c t fun e => { e with lastAt := awAt w }).schedule c t (s.rd (INS_SCHED.step_cycle t))
              (s.rd (INS_SLIP.slip t))).requestsWait c t w |>.contends t 8

def execAccessWordIssue (tile : Nat) (ecc : EccOutcome) (s : State) : Result :=
  .next (if s.up then s.accessIssue tile ecc else s)

/-! ### Completion (R198) -/

/-- MXFP4 elements expanded to E4M3, two from each byte, low half first (R76, R275). -/
def expandFp4 (b : Bytes) : Bytes :=
  b.flatMap fun x =>
    [BitVec.ofNat 8 (encodeNum 2 (decodeNum 5 (x.toNat % 16))), BitVec.ofNat 8 (encodeNum 2 (decodeNum 5 (x.toNat / 16)))]

/-- Bytes written to a store of the mule, each where the window `x` takes its address; a B-tile has none (R17). -/
def State.wrStore (s : State) (t off : Nat) (x : Nat → Nat) (a : Nat) (b : Bytes) : State :=
  if isF t then ((List.range b.length).zip b).foldl (fun s q => s.wrB (tileAddr (s.phys t) (off + x (a + q.1))) q.2) s else s

/-- Scale or mask bytes of a streamed shard, written beside its lines (R281): memory 0 tile SRAM, 1 the scale store, 2 the mask
store. -/
def State.wrSide (s : State) (c t kind a : Nat) (b : Bytes) : State :=
  match kind with
  | 0 => s.wrSram c t a b
  | 1 => s.wrStore t scaleOff (s.xScale c) a b
  | _ => s.wrStore t maskOff (s.xMask c) a b

/-- The word can complete: a receive's bytes have arrived; a send's credits are free. -/
def State.accessReady (s : State) (c : Nat) (f : AccessFlight) : Bool :=
  f.dead || f.done || (match awOp f.word with
    | 6 => (match s.stream (awStream f.word) with
        | some x => decide (256 * awLen f.word ≤ x.ready.length)
        | none => false)
    | 7 => (match s.stream (awStream f.word) with
        | some x => decide (s.msgCredits x (256 * awLen f.word) ≤ s.creditsFree c)
        | none => true)
    | _ => true)

/-- The stack that holds a unit; none where it lies nowhere. -/
def State.unitStack (s : State) (c : Nat) (write : Bool) (u : Nat) : Option Nat :=
  match s.unitPlace c write u with
  | .at_ v => (s.stackPlace (s.cpart c) (256 * v)).map (·.1)
  | .nowhere _ => none

/-- A line of an access word on its way between a stack and the tile through the underlay network; a line read is counted here, a line
written where it is stored (R214, R227). -/
def State.stackLine (s : State) (c t : Nat) (write : Bool) (u : Nat) : State :=
  match s.unitStack c write u with
  | some k =>
    if write then s.underlay (tileNode t) (stackNode k) 1
    else (s.stackCount k 1 false (some (s.cpart c))).underlay (stackNode k) (tileNode t) 1 true
  | none => s

/-- The lines of an access word counted where they pass: every one at its completion (DESIGN CHOICE, log 57). -/
def State.wordTraffic (s : State) (c t w : Nat) : State :=
  let port : Nat := match s.stream (awStream w) with | some x => x.port / 4 | none => 0
  match awOp w with
  | 1 | 3 | 4 | 5 => (List.range (awUnits w)).foldl (fun s i => s.stackLine c t false (awRemote w + i)) s
  | 2 => (List.range (awUnits w)).foldl (fun s i => s.stackLine c t true (awRemote w + i)) s
  | 6 => s.underlay (portNode port) (tileNode t) (awLen w) true
  | 7 => s.underlay (tileNode t) (portNode port) (awLen w)
  | _ => s

/-- They are counted on the tile's down-link: an MXFP4 read brings half the lines it writes (R227). -/
def State.wordLines (s : State) (t w : Nat) : State :=
  if !onDownlink w then s
  else if awLands w then s.count t (NET_DL_IN.dl_lines_in t) (awUnits w)
  else s.count t (NET_DL_OUT.dl_lines_out t) (awLen w)

/-- The data an access word moves; none over a stopped down-link (R235). -/
def State.accessMove (s : State) (c t : Nat) (f : AccessFlight) : State :=
  let w := f.word
  let a := 32 * awSram w
  let none_ := f.dead || f.done || (s.crossing 0 (s.phys t)).stopped
  let s := if none_ then s else (s.wordTraffic c t w).wordLines t w
  if none_ then s
  else match awOp w with
    | 1 => let r := s.rdUnits c (awRemote w) (awLen w); r.2.wrSram c t a r.1
    | 2 => s.wrUnits c (awRemote w) ((List.range (awLen w)).map fun i => s.rdLine c t (awSram w / 8 + i))
    | 3 => let r := s.rdUnits c (awRemote w) (awUnits w); r.2.wrSram c t a ((expandFp4 r.1).take (256 * awLen w))
    | 4 => let r := s.rdUnits c (awRemote w) (awLen w); r.2.wrStore t scaleOff (s.xScale c) a r.1
    | 5 => let r := s.rdUnits c (awRemote w) (awLen w); r.2.wrStore t maskOff (s.xMask c) a r.1
    | 6 => match s.stream (awStream w) with
      | some x =>
        let n := 256 * awLen w
        let s := (x.sides.filter fun q => decide (q.1 < n)).foldl (fun s q => s.wrSide c t q.2.1 q.2.2.1 q.2.2.2) s
        (s.wrSram c t a (x.ready.take n)).setStream
          { x with ready := x.ready.drop n, progress := s.hall,
                   sides := (x.sides.filter fun q => decide (n ≤ q.1)).map fun q => (q.1 - n, q.2) }
      | none => s
    | 7 => match s.stream (awStream w) with
      | some x => s.sendMessage x (s.rdSram c t a (256 * awLen w)) f.of_
      | none => s
    | _ => s

/-- The stack read of a word meets a poisoned line. -/
def State.accessPoisoned (s : State) (c w : Nat) : Bool :=
  (awOp w == 1 || awOp w == 3 || awOp w == 4 || awOp w == 5) && s.unitsPoisoned c (awRemote w) (awUnits w)

/-- Marks the first staged entry of a semaphore whose signal is not yet given. -/
def markSignalled (sem : Nat) : List (Nat × Nat × Bool) → List (Nat × Nat × Bool)
  | [] => []
  | x :: l => if x.1 = sem ∧ !x.2.2 then (x.1, x.2.1, true) :: l else x :: markSignalled sem l

/-- The lines of tile SRAM that an access word reads (R101). -/
def awReads (w : Nat) : List (Nat × Nat) := if awOp w = 2 ∨ awOp w = 7 then [(awSram w / 8, awLen w)] else []

/-- A fabric word of a switched-out context drains (R328): its data move and its credits return; its place in the completion order
stays until the context runs again. -/
def State.drainWord (s : State) (c t : Nat) (f : AccessFlight) : State :=
  let s := if f.dead then s else s.checkedRead c t (awReads f.word)
  if s.cst c ≠ stTeardown then
    let s := (s.accessMove c t f).returnCredits c (awCredits f.word)
    let done (g : AccessFlight) : AccessFlight := if g = f then { g with done := true } else g
    (s.modEng c t fun e => { e with flight := e.flight.map done }).showDraining c
  else s

/-- The fabric words of switched-out contexts of the tile's partition that can drain, the first of each context. -/
def State.drainers (s : State) (t : Nat) : List (Nat × AccessFlight) :=
  match s.partOf t with
  | some p => (s.partCtxs p).filterMap fun c =>
      if s.running p = some c ∨ !s.inTiles c then none
      else ((s.engOf c t).flight.find? fun f => decide (6 ≤ awOp f.word) && awOp f.word != 8 && !f.done && s.accessReady c f).map (c, ·)
  | none => []

/-- The data of a receive word for a gated tile wait in its field node (R218). -/
def State.waitsGated (s : State) (t : Nat) (f : AccessFlight) : Bool := awOp f.word == 6 && !f.dead && s.gated (tileField t) (tileRow t)

/-- The first that drains now. -/
def State.drainable (s : State) (t : Nat) : Option (Nat × AccessFlight) := (s.drainers t).find? fun q => !s.waitsGated t q.2

/-- Where data wait for a gated tile the wait counts in ul_wait (R218). -/
def State.gatedWaits (s : State) (t : Nat) : State :=
  if (s.drainers t).any fun q => s.waitsGated t q.2 then s.stir (NET_UL_WAIT.ul_wait (tileField t) 4).addr else s

/-- The oldest word in flight of the running context completes, moves its data and signals its semaphore. -/
def State.completeHead (s : State) (c t : Nat) (f : AccessFlight) (rest : List AccessFlight) (ecc : SramEcc) : State :=
  let s := if (awOp f.word = 2 ∨ awOp f.word = 7) ∧ !f.done then s.sramEcc t ecc else s
  if s.cst c ≠ stRunning then s
  else if !f.dead && !f.done && s.accessPoisoned c f.word then s.tileFault t 0x2A10 2
  else
    let s := (s.accessMove c t f).returnCredits c (if f.done then 0 else awCredits f.word)
    let s := s.modEng c t fun e => { e with
      flight := rest, staged := if awSignals f.word then markSignalled (awSem f.word) e.staged else e.staged }
    let s := s.wr (INS_RA.outstanding t) rest.length
    if awSignals f.word then s.semSignal t (awSem f.word) 1 else s

/-- ACCESS_WORD_COMPLETE: the running context's oldest word completes, or a switched-out context's fabric word drains. -/
def State.accessComplete (s : State) (t : Nat) (ecc : SramEcc) : State :=
  let drain : State := match s.drainable t with | some q => s.drainWord q.1 t q.2 | none => s.gatedWaits t
  match s.ctxOn t with
  | some c =>
    match (s.engOf c t).flight with
    | f :: rest => if s.accessReady c f then s.completeHead c t f rest ecc else drain
    | [] => drain
  | none => drain

/-- Whether an access word is a stack word: it goes neither to a stream nor ends the slice. -/
def isStackWord (w : Nat) : Bool := decide (awOp w < 6)

/-- The stack words in flight of a context that is about to be saved complete (R200): those at the head of the order wholly, those behind
a fabric word with their data, their place in the order of completion staying (R198). -/
def State.settleStack (s : State) (c t : Nat) : State :=
  let heads := (s.engOf c t).flight.takeWhile fun f => isStackWord f.word || awOp f.word == 8
  let s := heads.foldl (fun s f =>
    if s.cst c ≠ stRunning then s
    else let e := s.openEcc (s.xLine c) (if f.done then [] else awReads f.word); e.2.completeHead c t f ((s.engOf c t).flight.drop 1) e.1) s
  (s.engOf c t).flight.foldl (fun s f =>
    if s.cst c = stRunning ∧ isStackWord f.word ∧ !f.done ∧ !f.dead then
      let s := s.checkedRead c t (awReads f.word)
      let s := if s.cst c ≠ stRunning then s else if s.accessPoisoned c f.word then s.tileFault t 0x2A10 2 else s.accessMove c t f
      let done (g : AccessFlight) : AccessFlight := if g = f then { g with done := true } else g
      s.modEng c t fun e => { e with flight := e.flight.map done }
    else s) s

def execAccessWordComplete (tile : Nat) (ecc : SramEcc) (s : State) : Result :=
  .next (if s.up then s.accessComplete tile ecc else s)

end Sys2Proof.Machine
end

