-- ==== Sys2Proof/Machine/Array.lean ====
section
/-! DEFINITION. The array's commands (chapters 5, 7 and 8): the start and the completion of a product, and element-wise operations. -/

namespace Sys2Proof.Machine

/-! ### Start and completion of a product -/

/-- A requester of tile SRAM is at work (Table 5-2); an arrival over the networks is over when it is seen. -/
def Eng.requests (e : Eng) (r : Nat) : Bool :=
  match r with
  | 0 => e.ary.isSome || !e.tails.isEmpty
  | 1 => false
  | 2 => e.fa.any fun o => bits o.word 422 2 == 1
  | 3 => e.fb.any fun o => bits o.word 406 2 == 1
  | 4 => e.mule.active.isSome || !e.mule.loads.isEmpty
  | 5 => e.row.isSome
  | 6 => e.vec0.isSome || e.vec1.isSome
  | 7 => !e.outSram.isEmpty || !e.outX.isEmpty
  | _ => !e.flight.isEmpty

/-- Lines of a group that two beats take: a value line with the scale or mask line before it, two value lines of the row operand of a 2:4
product; a whole square of a transposed operand (R160). -/
def Feed.first (f : Feed) (sp : Nat) : Nat := if f.tr && sp != 2 then 32 else 1 + bit (f.net && isMx f.fmt) + bit (sp == 1)

/-- Every group of a feeder holds two beats of the product (R185): from SRAM it reads them; from the network their lines have come. -/
def Feed.holds (f : Feed) (sp : Nat) : Bool := !f.net || decide (f.first sp ≤ f.limit)

/-- Both feeders hold the product's first beats; of an expanded operand they, or its first square, are made of the windows that have come
(R152, R160). -/
def Product.ready (p : Product) (o : Operands) : Bool :=
  p.a.holds p.sp && p.b.holds p.sp &&
    (p.sp != 2 || p.tmode == 0 || (decide (p.firstUnits p.a ≤ o.reachA) && decide (p.firstUnits p.b ≤ o.reachB)))

/-- Lines of each group that a feeder holds as the product begins: an expanded operand's first square takes those of its windows. -/
def Product.firstLines (p : Product) (o : Operands) (b : Bool) : Nat :=
  let f := if b then p.b else p.a
  if p.sp = 2 ∧ p.tmode ≠ 0 then o.mostLines b (p.windowsFor f (p.firstUnits f) false) else f.first p.sp

/-- The fault that stops a product before it begins, 0 when none: an address beyond the SRAM or outside the share, or an invalid freeze
descriptor (R97, R170, R318). -/
def State.productFault (s : State) (c t : Nat) (p : Product) : Nat :=
  let f := s.sramFaults c (p.a.span 0 ++ p.b.span p.sp ++ drainSpan p.op (bits p.op.drain 245 4) p.blocks ++
    (if p.freeze then [linesOf (16 * bits p.op.desc 173 21) 16] else []))
  if f ≠ 0 then f
  else if !p.freeze then 0
  else
    let d := s.freezeDesc c t p
    if freezeBad p d then 0x2803 else s.sramFault c (freezeSpan d).1 (freezeSpan d).2

/-- Cycles from a product's issue to its c0 that its SRAM feeders take: 3 from their start to their first two beats, 34 to a square at least
(R160, R185). -/
def Eng.late (e : Eng) (p : Product) : Nat :=
  let one (f : Feed) (o : Option TileOp) : Nat := match o with
    | some q => if f.net then 0 else q.at_ + (if f.tr then 34 else 3) - p.op.at_
    | none => 0
  Max.max (one p.a e.fa) (one p.b e.fb)

/-- The cycles between a product's issue and its c0: those it has waited, at least those that its feeders take, and where another requester of
SRAM is at work an open number more for bank conflicts (free; R185). -/
def State.startSlip (s : State) (c t : Nat) (p : Product) : Nat × State :=
  let e := s.engOf c t
  let n := Max.max (s.rd (ARY_STATUS.array_slip t)) (e.late p)
  if 1 < ((List.range 9).filter fun r => r != 0 && e.requests r).length then let r := s.free 8; (n + r.1, r.2) else (n, s)

/-- The product begins at c0. -/
def State.beginProduct (s : State) (c t : Nat) (p : Product) : State :=
  let rate := if p.wide then 2 else if isMx p.a.fmt || isMx p.b.fmt then 3 else 1
  let s := (s.wr (ARY_STATUS.rate t) rate).wr (ARY_STATUS.acc_sel t) 0
  let s := (s.wr (SPR_STATUS.mode t) p.sp).wr (BWD_STATUS.tmode t) p.tmode
  let s := s.wr (BWD_STATUS.freeze_active t) (bit p.freeze)
  let fz := s.freezeNow c t p 0
  let x := s.startSlip c t p
  let s := (x.2.wr (ARY_STATUS.array_slip t) x.1).modEng c t fun e => { e with
    ary := some { p.op with started := true, slip := x.1 }, freeze := fz }
  let o := s.operands c t p
  ((s.refill c t false (p.firstLines o false)).refill c t true (p.firstLines o true)).pump c t

/-- PRODUCT_START (R104, R109, R138, R149, R170, R185): both feeders hold the product's first beats and it begins, unless an address, a
code error or its freeze descriptor stops it. A cycle in which they do not counts as the product's slip. -/
def State.productStart (s : State) (t : Nat) (ecc : SramEcc) : State :=
  match s.ctxOn t with
  | none => s
  | some c =>
    match (s.engOf c t).product? 1 with
    | none => s
    | some p =>
      if p.op.started || s.rd (INS_STATUS.stream t) == 7 then s
      else if !p.ready (s.operands c t p) then s.inc (ARY_STATUS.array_slip t) 1
      else
        let f := s.productFault c t p
        if f = 0x2803 then (s.wr (BWD_STATUS.freeze_error t) 1).tileFault t 0x2803 2
        else if f ≠ 0 then s.tileFault t f 2
        else
          let s := s.sramEcc t ecc
          if s.cst c ≠ stRunning then s else s.beginProduct c t p

def execProductStart (tile : Nat) (ecc : SramEcc) (s : State) : Result := .next (if s.up then s.productStart tile ecc else s)

/-- Lines of each group that a whole operation has used of a feeder's stream. -/
def Product.usedUp (p : Product) (o : Operands) (b : Bool) : Nat :=
  if p.sp = 2 ∧ !p.ew then o.mostLines b (p.windowsFor (if b then p.b else p.a) p.total false)
  else ((List.range (if b then 8 else 2)).map fun g => p.spentBy o b g p.total).foldl Max.max (p.readBy o b p.total)

/-- Once the last beat of an operation has issued, the array and its feeders are free again (R182); the network lines it used are gone, and its
last results leave through the drain behind it. -/
def State.endArray (s : State) (c t : Nat) : State :=
  match (s.engOf c t).running? with
  | none => s
  | some p =>
    if p.op.pos < p.total then s
    else
      let o := s.operands c t p
      let rest (f : Feed) (b : Bool) : List Bytes := if f.net then f.lines.drop (f.groups * p.usedUp o b) else []
      let late (f : Feed) (b : Bool) : Nat := if f.tr && !f.net then f.groups * p.usedUp o b - f.lines.length else 0
      let s := s.count t (BWD_TRANS_LINES.transpose_lines t) (late p.a false + late p.b true)
      let s := s.modEng c t fun e => { e with
        ary := none, fa := none, fb := none, netA := rest p.a false, netB := rest p.b true,
        tails := if p.ew then e.tails else e.tails ++ [⟨p.a.tr, p.b.tr, some p.op.slip⟩] }
      ((s.wr (ARY_STATUS.rate t) 0).wr (ARY_STATUS.ew_mode t) 0).wr (BWD_STATUS.freeze_active t) 0

/-- How far the tile's array operation has come. -/
def Eng.arrayPos (e : Eng) : Nat := match e.ary with | some op => op.pos | none => 0

/-- The operation advances to `upto` units, its results leaving as it goes; `n` bounds the times that the drain is emptied on the way. -/
def State.arrayLoop (c t upto : Nat) : Nat → State → State
  | 0, s => s
  | n + 1, s =>
    let x := (s.arrayTo c t upto).tileSends c t
    if (x.engOf c t).arrayPos ≤ (s.engOf c t).arrayPos ∨ upto ≤ (x.engOf c t).arrayPos then x else State.arrayLoop c t upto n x

/-- The operation that has begun advances to `upto` units as far as its operands have come and the drain is rid of its results, and frees the
array with its last (R182). -/
def State.runArray (s : State) (c t upto : Nat) : State :=
  match (s.engOf c t).running? with
  | none => s
  | some p => (State.arrayLoop c t (min upto p.total) (p.runs + 1) s).endArray c t

/-- It goes on by an open number of the units that it can (DESIGN CHOICE, log 26). -/
def State.arrayMoves (s : State) (c t : Nat) : State :=
  match (s.engOf c t).running? with
  | none => s
  | some p =>
    let r := s.free 32
    r.2.runArray c t (p.op.pos + r.1 % (p.total + 1 - p.op.pos))

/-- A number that a field of 32 bits holds. -/
def top32 (n : Nat) : Nat := min n (2 ^ 32 - 1)

/-- The counters that the last result of a product leaves (R109, R110, R160): a transposed feeder is dry only for want of a complete square.
array_slip is the product's while no later one has been given to the array. -/
def State.productEnd (s : State) (c t : Nat) (x : Tail) (stalls : Stalls) : State :=
  let s := s.modEng c t fun e => { e with tails := e.tails.drop 1 }
  let s := match x.slip with
    | some k => s.wr (ARY_STATUS.array_slip t) (top32 (Max.max (s.rd (ARY_STATUS.array_slip t)) (k + stalls.widened + stalls.lag)))
    | none => s
  let s := s.count t (BWD_TRANS_WAIT.transpose_wait_cycles t) ((if x.trA then stalls.rowDry else 0) + (if x.trB then stalls.colDry else 0))
  s.count t (ARY_MAC.mac_cycles t) stalls.active

/-- The stalls that an operation of the array has met (Table 5-12). -/
def State.countStalls (s : State) (t : Nat) (stalls : Stalls) : State :=
  let s := s.count t (ARY_ROW_DRY.row_dry_cycles t) stalls.rowDry
  let s := s.count t (ARY_COL_DRY.col_dry_cycles t) stalls.colDry
  let s := s.count t (ARY_DRAIN_FULL.drain_full_cycles t) stalls.drainFull
  s.count t (ARY_WIDENED.widened_cycles t) stalls.widened

/-- The oldest product's results have left the drain: nothing is left in it, or a later operation has brought results to it (R106). -/
def Eng.oldestOut (e : Eng) : Bool :=
  e.outDrain.isEmpty || decide (1 < e.tails.length) || (match e.running? with | some p => decide (p.run ≤ p.op.pos) | none => false)

/-- The last result of the oldest product has been drained. -/
def State.oldestEnds (s : State) (c t : Nat) (stalls : Stalls) : State :=
  let e := s.engOf c t
  match e.tails with
  | x :: _ => if e.oldestOut then ((s.productEnd c t x stalls).countStalls t stalls).tileSends c t else s
  | [] => s

/-- PRODUCT_COMPLETE (R105, R110): the last result of the oldest product has been drained. A product whose operands have not all come, or
whose results the drain cannot be rid of, does not complete yet. An element-wise operation runs on as far as it can. -/
def State.productComplete (s : State) (t : Nat) (stalls : Stalls) : State :=
  match s.ctxOn t with
  | none => s
  | some c =>
    if !(s.engOf c t).tails.isEmpty then (s.tileSends c t).oldestEnds c t stalls
    else match (s.engOf c t).running? with
      | none => s
      | some p =>
        if (s.operands c t p).both < p.total ∧ !p.ew then s
        else (s.runArray c t p.total).oldestEnds c t stalls

def execProductComplete (tile : Nat) (stalls : Stalls) (s : State) : Result :=
  .next (if s.up then s.productComplete tile stalls else s)

/-- Whether the feeders have issued the last beat of the operation that has begun is open at the moment a word names the array or a feeder
(R182): if they have, the operation is done but for its drain. -/
def State.lastBeat (s : State) (t w : Nat) : State :=
  match s.ctxOn t with
  | none => s
  | some c =>
    if bits w 422 2 = 0 ∧ bits w 406 2 = 0 ∧ bits w 390 2 = 0 then s
    else
      let s := s.endArray c t
      match (s.engOf c t).running? with
      | none => s
      | some p =>
        if (s.operands c t p).both < p.total then s
        else let x := s.free 1; if x.1 = 0 then x.2 else x.2.runArray c t p.total

/-- An element-wise operation that has begun has run as far as it can, where the tile's units are to be idle. -/
def State.settleArray (s : State) (t : Nat) : State :=
  match s.ctxOn t with
  | none => s
  | some c => match (s.engOf c t).running? with
    | some p => if p.ew then s.runArray c t p.total else s
    | none => s

/-! ### Element-wise mode (R111, R112) -/

/-- ELEMENT_WISE_START (R111, R112): the operation begins once the drain has written every earlier result, and has then come an open part of
its way; a cycle it waits for the drain counts. One that has begun runs on as far as it can. -/
def State.elementWise (s : State) (t : Nat) (ecc : SramEcc) (stalls : Stalls) : State :=
  match s.ctxOn t with
  | none => s
  | some c =>
    match (s.engOf c t).product? 2 with
    | none => s
    | some p =>
      if p.op.started then s.runArray c t p.total
      else if !(s.engOf c t).tails.isEmpty ∨ !(s.engOf c t).outDrain.isEmpty then
        (s.count t (ARY_DRAIN_FULL.drain_full_cycles t) 1).inc (ARY_STATUS.array_slip t) 1
      else
        let f := s.sramFaults c p.ewSpan
        if f ≠ 0 then s.tileFault t f 2
        else
          let s := s.sramEcc t ecc
          if s.cst c ≠ stRunning then s
          else
            let s := (s.countStalls t stalls).wr (ARY_STATUS.ew_mode t) 1
            (s.modEng c t fun e => { e with ary := some { p.op with started := true } }).arrayMoves c t

def execElementWiseStart (tile : Nat) (ecc : SramEcc) (stalls : Stalls) (s : State) : Result :=
  .next (if s.up then s.elementWise tile ecc stalls else s)

end Sys2Proof.Machine
end

