-- ==== Sys2Proof/Machine/Elem.lean ====
section
/-! DEFINITION. The elementary functions of the vector engine and the row engine (R187, R162): rational approximations with a relative error
far below a unit in the last place of any output format, the bound of R187, and binary32 arithmetic with its flags (R86, R88). -/

namespace Sys2Proof.Machine

/-! ### Approximations -/

/-- A value cut to 200 significant bits. -/
def cut (q : Rat) : Rat :=
  if q = 0 then 0
  else
    let m := if q < 0 then -q else q
    let u := pow2 (floorLog2 m - 199)
    let y := ((m / u).floor : Rat) * u
    if q < 0 then -y else y

/-- `n` squarings. -/
def squares : Nat → Rat → Rat
  | 0, q => q
  | n + 1, q => squares n (cut (q * q))

/-- The sum of the first `n` terms of exp at `y`, from the last inward. -/
def expSum (y : Rat) : Nat → Nat → Rat
  | 0, _ => 1
  | n + 1, k => cut (1 + y / (k : Rat) * expSum y n (k + 1))

/-- exp; an operand beyond every format's range gives a value beyond every format's range. -/
def expQ (x : Rat) : Rat :=
  if 2000 < x then pow2 2900 else if x < -2000 then pow2 (-2900) else squares 12 (expSum (x / 4096) 40 1)

/-- The sum of the first `n` terms of artanh(z) / z at w = z squared. -/
def artanhSum (w : Rat) : Nat → Nat → Rat
  | 0, _ => 0
  | n + 1, k => cut (1 / (k : Rat) + w * artanhSum w n (k + 2))

/-- The natural logarithm of a positive value. -/
def lnQ (x : Rat) : Rat :=
  let ln1 (m : Rat) : Rat := let z := cut ((m - 1) / (m + 1)); cut (2 * z * artanhSum (cut (z * z)) 80 1)
  let e := floorLog2 x
  cut ((e : Rat) * ln1 2 + ln1 (x / pow2 e))

/-- The reciprocal square root of a positive value. -/
def rsqrtQ (x : Rat) : Rat :=
  let s := 200 + (floorLog2 x).natAbs
  ((Nat.sqrt ((2 ^ (2 * s) : Nat) / x).floor.toNat : Nat) : Rat) / ((2 ^ s : Nat) : Rat)

def sigmoidQ (x : Rat) : Rat := cut (1 / (1 + expQ (-x)))

/-- tanh; near 0 by its series. -/
def tanhQ (x : Rat) : Rat :=
  let w := x * x
  if w < 1 / 1048576 then cut (x * (1 - w / 3 + 2 * w * w / 15 - 17 * w * w * w / 315))
  else let e := expQ (2 * x); cut ((e - 1) / (e + 1))

/-- The square root of 2 over π, to 40 digits. -/
def sqrtTwoOverPi : Rat := 7978845608028653558798921198687637369517 / 10 ^ 40

/-- The exact value, to within the approximation, of operation `op` of Table 9-4 at a finite operand; none where it has none. The tanh form
of gelu is x · (1 + tanh(√(2/π) (x + 0.044715 x³))) / 2 (PRESUMED, log 30). -/
def elementaryQ (op : Nat) (x : Rat) : Option Rat :=
  match op with
  | 0x10 => some (expQ x)
  | 0x11 => if 0 < x then some (lnQ x) else none
  | 0x12 => if x = 0 then none else some (1 / x)
  | 0x13 => if 0 < x then some (rsqrtQ x) else none
  | 0x14 => some (sigmoidQ x)
  | 0x15 => some (tanhQ x)
  | 0x16 => some (cut (x * sigmoidQ x))
  | _ => some (cut (x * sigmoidQ (cut (2 * sqrtTwoOverPi * (x + 44715 / 1000000 * x * x * x)))))

/-! ### The bound of R187 -/

def Num.triple : Num → Nat × Bool × Rat
  | .nan => (2, false, 0) | .inf n => (1, n, 0) | .fin n m => (0, n, m)
def Num.ofTriple (x : Nat × Bool × Rat) : Num :=
  if x.1 = 2 then .nan else if x.1 = 1 then .inf x.2.1 else .fin x.2.1 (if x.2.2 < 0 then -x.2.2 else x.2.2)

/-- Units in the last place that R187 allows an output format; none where it states no bound. -/
def ulpBound (fmt : Nat) : Option Nat := if fmt ≤ 1 then some 1 else if fmt = 7 then some 2 else none

/-- A value's unit in the last place in a format. -/
def ulpOf (fmt : Nat) (q : Rat) : Rat :=
  let m := fmtOf fmt
  pow2 ((if q = 0 then 1 - m.bias else Max.max (floorLog2 (if q < 0 then -q else q)) (1 - m.bias)) - m.f)

/-- A value of the format within `n` units in the last place of `q`: its rounded value moved by `step` units where that stays within the
bound. -/
def withinUlps (fmt n : Nat) (neg : Bool) (q : Rat) (step : Int) : Num :=
  let y := (roundNum fmt none true (.of neg q)).1
  let z := (roundNum fmt none true (.of neg (y.val + step * ulpOf fmt q))).1
  if z.isFin && decide ((z.val - q).abs ≤ n * ulpOf fmt q) then z else y

/-- An elementary function of the vector engine: a NaN gives a NaN (R86); elsewhere the value is open within R187's bound, and wholly open
where the spec states none. A value beyond the format is left for the conversion to overflow; a value that is not zero and whose result is
sets underflow (R86). Within the bound it is a value of the output format already, so that under stochastic rounding its draw is taken and
decides nothing (DESIGN CHOICE, log 30). -/
def elementary (op fmt : Nat) (x : Num) : Num × Nat :=
  match x with
  | .nan => (.nan, 0)
  | .fin neg _ =>
    match elementaryQ op x.val, ulpBound fmt with
    | some q, some n =>
      if fmtMax fmt < q.abs then (.of neg q, 0)
      else
        let y := withinUlps fmt n neg q (Config.elementaryError op fmt x.triple)
        (y, if q ≠ 0 ∧ y.val = 0 then flUnderflow else 0)
    | _, _ => (.ofTriple (Config.elementary op fmt x.triple), 0)
  | _ => (.ofTriple (Config.elementary op fmt x.triple), 0)

/-! ### Binary32 arithmetic of the row engine -/

/-- A number with the flags that its operations have set. -/
abbrev FlagNum := Num × Nat

/-- An operand as it is read: a NaN sets nan_in. -/
def FlagNum.read (x : Num) : FlagNum := (x, if x.isNan then flNanIn else 0)

/-- The flags of a list of operands. -/
def orFlags (l : List FlagNum) : Nat := l.foldl (fun f x => f ||| x.2) 0

/-- The exact result `r` of an operation on operands `l`, rounded to binary32 (R88): a NaN from operands that are none is an invalid
operation, and a non-zero value that rounds to zero is an underflow (R86). One beyond binary32 is infinite and sets no flag, whatever ovf
says, which names the conversion of the result (DESIGN CHOICE, log 49). -/
def round32 (l : List FlagNum) (r : Num) : FlagNum :=
  let y := roundNum 7 none true r
  (y.1, orFlags l ||| (y.2 &&& flUnderflow) ||| (if r.isNan && !(l.any fun x => x.1.isNan) then flNanOut else 0))

/-- The quotient of two numbers. -/
def Num.div : Num → Num → Num
  | .fin n a, .fin m b => if b = 0 then (if a = 0 then .nan else .inf (n != m)) else .fin (n != m) (a / b)
  | .inf n, .fin m _ => .inf (n != m)
  | .fin n _, .inf m => .fin (n != m) 0
  | _, _ => .nan

def add32 (x y : FlagNum) : FlagNum := round32 [x, y] (x.1.add y.1)
def sub32 (x y : FlagNum) : FlagNum := round32 [x, y] (x.1.add y.1.neg)
def mul32 (x y : FlagNum) : FlagNum := round32 [x, y] (x.1.mul y.1)
def div32 (x y : FlagNum) : FlagNum := round32 [x, y] (x.1.div y.1)
def max32 (x y : FlagNum) : FlagNum := (x.1.max y.1, x.2 ||| y.2)

/-- The values that the formulas of Table 8-4 give beyond the finite: exp of an infinity, and the reciprocal root of zero and of +∞ (DEDUCED,
log 30). -/
def elementaryEdge (op : Nat) : Num → Option Num
  | .inf neg =>
    if op = 0x10 then some (if neg then Num.zero else .inf false) else if op = 0x13 ∧ !neg then some Num.zero else none
  | .fin _ m => if op = 0x13 ∧ m = 0 then some (.inf false) else none
  | .nan => none

/-- An elementary function in binary32: its exact value rounded once (DESIGN CHOICE, log 30); open where the spec states none, and then an
invalid operation if it is a NaN (R86). -/
def fun32 (op : Nat) (x : FlagNum) : FlagNum :=
  match x.1, elementaryEdge op x.1, (if x.1.isFin then elementaryQ op x.1.val else none) with
  | .nan, _, _ => x
  | _, some y, _ => (y, x.2)
  | y, none, some q => round32 [x] (.of y.isNeg q)
  | y, none, none =>
    let r := Num.ofTriple (Config.elementary op 7 y.triple)
    (r, x.2 ||| (if r.isNan then flNanOut else 0))

/-- A binary32 sum in order. -/
def sum32 (l : List FlagNum) : FlagNum := l.foldl add32 (Num.zero, 0)
def natNum (n : Nat) : FlagNum := (.fin false n, 0)

/-- The mean of a list. -/
def mean32 (l : List FlagNum) : FlagNum := div32 (sum32 l) (natNum l.length)

end Sys2Proof.Machine
end

