-- ==== Sys2Proof/Machine/Prog.lean ====
section
/-! DEFINITION. Program load (R178 to R180, R201 to R204): the open image, the checks of a commit in their order, and the writing of
the slices into the context's share of the instruction memories. -/

namespace Sys2Proof.Machine

/-! ### The open image -/

/-- Byte `i` of an open image; one that no command has written is 0 (DESIGN CHOICE, log 22). -/
def OpenImage.byte (m : OpenImage) (i : Nat) : Byte := Sparse.get 0 m.bytes i

def OpenImage.at_ (m : OpenImage) (i n : Nat) : Bytes := (List.range n).map fun k => m.byte (i + k)

/-- Bytes written into an open image from an offset. -/
def OpenImage.put (m : OpenImage) (i : Nat) : Bytes → OpenImage
  | [] => m
  | v :: t => { m with bytes := Sparse.put 0 m.bytes i v }.put (i + 1) t

def checkProgramOpen (c : Nat) (s : State) : Nat := if (s.ctx c).step.isSome then 0x0230 else 0

def doProgramOpen (h : Hdr) (len : Nat) (digest : Bytes) (s : State) : State :=
  (s.modCtx h.context fun k => { k with image := some ⟨len, digest, []⟩ }).reply h 0x0301 0

/-- PROGRAM_OPEN (R203). -/
def fwProgramOpen (h : Hdr) (len : Nat) (digest : Bytes) : Fw :=
  ⟨0x0301, h.length == 40, .context, checkProgramOpen h.context,
    doProgramOpen h len digest, fun _ s => s⟩

def execProgramOpen (h : Hdr) (len : Nat) (digest : Bytes) (s : State) : Result :=
  .next (s.fwCommand h (fwProgramOpen h len digest) (.programOpen h len digest))

def checkProgramData (c offset n : Nat) (s : State) : Nat :=
  match (s.ctx c).image with
  | none => 0x0231
  | some m => if m.len < offset + n then 0x0104 else 0

/-- PROGRAM_DATA (R203). -/
def execProgramData (h : Hdr) (offset : Nat) (data : Bytes) (s : State) : Result :=
  .next (s.command (.programData h offset data) h 0x0302 (h.length == 8 + data.length && decide (8 ≤ data.length) && decide (data.length ≤ 4088)) .context
    (checkProgramData h.context offset data.length) fun s =>
      (s.modCtx h.context fun k => { k with image := k.image.map fun m => m.put offset data }).reply h 0x0302 0)

def checkProgramFetch (c addr len : Nat) (s : State) : Nat :=
  match (s.ctx c).image with
  | none => 0x0231
  | some m => if m.len < len ∨ s.stackSpace (s.cpart c) < 256 * addr + len then 0x0104 else 0

/-- PROGRAM_FETCH (R203): the image from the context's stack space; a poisoned line fails the command (R224). -/
def execProgramFetch (h : Hdr) (addr len : Nat) (s : State) : Result :=
  .next (s.command (.programFetch h addr len) h 0x0303 (h.length == 16) .context (checkProgramFetch h.context addr len) fun s =>
    let p := s.cpart h.context
    if s.partPoisoned p (256 * addr) len then s.reply h 0x0303 readErrorStatus
    else
      let data := s.rdPart p (256 * addr) len
      ((s.readLines p (256 * addr) len).modCtx h.context fun k => { k with
        image := k.image.map fun m => m.put 0 data }).reply h 0x0303 0)

/-! ### Header and directory (Tables 9-10 and 9-11) -/

/-- A directory entry as the image holds it. -/
def sliceEntry (b : Bytes) : Slice := {
  words := leAt b 8 2, descriptors := leAt b 10 2, accessWords := leAt b 12 2, staging := leAt b 16 4,
  entryPc := (List.range 8).map fun i => leAt b (24 + 2 * i) 2,
  entryAc := (List.range 8).map fun i => leAt b (40 + 2 * i) 2 }

/-- The slices of an image with their body offsets, by rectangle position; an empty slice is none. -/
def imageSlices (m : OpenImage) (n : Nat) : List (Nat × Nat × Slice) :=
  (List.range n).filterMap fun i =>
    let b := m.at_ (768 + 64 * i) 64
    if leAt b 0 8 = 0 then none else some (i, leAt b 0 8, sliceEntry b)

/-- The bytes of a slice's body. -/
def Slice.size (s : Slice) : Nat := 64 * s.words + 32 * s.descriptors + 16 * s.accessWords

def allZero (b : Bytes) : Bool := b.all (· == 0)

/-- Every field of a directory entry lies in its range. -/
def entryOk (b : Bytes) : Bool :=
  decide (leAt b 0 8 % 64 = 0) && decide (leAt b 8 2 ≤ 8192) && decide (leAt b 10 2 ≤ 1024) && decide (leAt b 12 2 ≤ 8192) &&
    decide (leAt b 16 4 % 256 = 0) && decide (leAt b 16 4 ≤ 4194304) && allZero (slice b 14 2) && allZero (slice b 20 4) &&
    allZero (slice b 56 8)

/-- Header fields in their ranges and reserved bytes zero. -/
def headerOk (b : Bytes) (len : Nat) : Bool :=
  let w := leAt b 8 1
  let h := leAt b 9 1
  decide (leAt b 0 4 = 0x4B575031) && decide (leAt b 4 2 = 1) && decide (leAt b 6 2 = 0xB0) &&
    decide (1 ≤ w) && decide (w ≤ 84) && decide (1 ≤ h) && decide (h ≤ 42) && decide (leAt b 10 1 ≤ 11) && decide (leAt b 11 1 ≤ 5) &&
    decide (1 ≤ leAt b 12 1) && decide (leAt b 12 1 ≤ 8) && decide (1200 ≤ leAt b 14 2) && decide (leAt b 14 2 ≤ 1700) &&
    decide (leAt b 14 2 % 50 = 0) && decide (1024 ≤ leAt b 16 4) && decide (leAt b 16 4 ≤ 65536) &&
    allZero (slice b 13 1) && allZero (slice b 20 4) && allZero (slice b 64 192) &&
    decide (768 + 64 * w * h + 16256 ≤ len) && ((List.range 256).all fun i => decide (leAt b (256 + 2 * i) 2 ≤ 3528))

/-- The bodies stand between the directory and the signature block and overlap nowhere. -/
def bodiesOk (first last : Nat) (l : List (Nat × Nat × Slice)) : Bool :=
  l.all fun e => decide (first ≤ e.2.1) && decide (e.2.1 + e.2.2.size ≤ last) &&
    l.all fun f => f.1 == e.1 || !overlap e.2.1 e.2.2.size f.2.1 f.2.2.size

/-! ### Content (R18, R135, R161 to R169, R180 to R192, R213, R239) -/

/-- The formats that units accept and produce (Table 4-3). -/
def arrayFmt (f : Nat) : Bool := decide (f ≤ 4)
def is16 (f : Nat) : Bool := decide (f ≤ 1)
def drainFmt (f : Nat) : Bool := decide (f ≤ 4) || f == 7 || f == 9
def vecInFmt (f : Nat) : Bool := f != 5 && decide (f ≤ 9)
def vecOutFmt (f : Nat) : Bool := f != 5 && decide (f ≤ 8)
def rowFmt (f : Nat) : Bool := decide (f ≤ 1) || f == 7

/-- Formats that stochastic rounding may name (R89). -/
def srFmt (f : Nat) : Bool := decide (f ≤ 4) || f == 6

/-- A conversion to a format does not name stochastic rounding where it may not. -/
def srOk (sr : Nat) (f : Nat) : Bool := sr == 0 || srFmt f

/-- The bits of `v` in each of a list of ranges (lowest bit, width) are zero. -/
def clearBits (v : Nat) (l : List (Nat × Nat)) : Bool := l.all fun r => bits v r.1 r.2 == 0

/-- The unlisted bits of a descriptor kind (Table 9-3). -/
def descReserved : Nat → List (Nat × Nat)
  | 1 => [(0, 98)]
  | 2 => [(0, 173)]
  | 3 => [(0, 175)]
  | 4 => [(0, 113)]
  | 5 => [(0, 5)]
  | _ => [(0, 181)]

/-- A descriptor holds no reserved bit or code, and its fields lie in their ranges; the reduction length of a 2:4 product is a multiple of
4 elements (R137). -/
def descOk (d : Nat) : Bool :=
  let k := bits d 252 4
  let loop := bits d 249 3
  decide (1 ≤ k) && decide (k ≤ 6) && (loop == 0 || decide (4 ≤ loop)) && clearBits d (descReserved k) &&
  match k with
  | 1 => decide (1 ≤ bits d 181 17) && decide (bits d 181 17 ≤ 81919) && decide (1 ≤ bits d 169 12) && decide (bits d 132 3 ≤ 4)
  | 2 => bits d 239 2 != 3 && arrayFmt (bits d 245 4) && arrayFmt (bits d 241 4) && decide (1 ≤ bits d 227 12) &&
      decide (1 ≤ bits d 211 16) &&
      (bits d 239 2 != 1 || decide (2 ≤ bits d 245 4) && decide (2 ≤ bits d 241 4) || bits d 211 16 % 2 == 0)
  | 3 => drainFmt (bits d 245 4) && srOk (bits d 244 1) (bits d 245 4)
  | 4 => decide (1 ≤ bits d 165 24)
  | 5 => decide (1 ≤ bits d 112 17) && decide (bits d 112 17 ≤ 65536) && decide (1 ≤ bits d 96 16) && rowFmt (bits d 45 4) &&
      decide (bits d 41 2 ≤ 1) && srOk (bits d 44 1) (bits d 45 4)
  | _ => decide (1 ≤ bits d 198 17) && decide (bits d 198 17 ≤ 81919)

/-- A slot's descriptor exists and is of the kind that the slot needs (R186). -/
def descIs (ds : List Nat) (k i : Nat) : Bool :=
  match ds[i]? with | some d => bits d 252 4 == k | none => false

/-- A vector slot's operation, with its formats, on a tile of a flavour; an idle format field holds no reserved code either (R180); one that the
operation does not use is held to nothing more (DESIGN CHOICE, log 68: Table 4-3 lists formats for a unit's inputs and outputs). -/
def vecOk (f : Bool) (ds : List Nat) (w slot : Nat) : Bool :=
  let at_ (lo : Nat) : Nat := lo - 48 * slot
  let op := bits w (at_ 280) 8
  let fi := bits w (at_ 276) 4
  let fo := bits w (at_ 272) 4
  let known := decide (op ≤ 9) || (decide (0x10 ≤ op) && decide (op ≤ 0x17)) || op == 0x20 || op == 0x21 ||
    (decide (0x30 ≤ op) && decide (op ≤ 0x32)) || op == 0x38
  decide (fi ≤ 9) && decide (fo ≤ 9) && if op = 0 then true
  else known && descIs ds 4 (bits w (at_ 260) 10) &&
    (if 0x30 ≤ op then !f else true) &&
    (!(decide (0x30 ≤ op) && decide (op ≤ 0x32)) || decide (bits (ds.getD (bits w (at_ 260) 10) 0) 165 24 ≤ 4096)) &&
    (match op with
     | 0x30 => (fi == 6 || fi == 7 || fi == 8) && (fo == 6 || fo == 7)
     | 9 => vecInFmt fi && vecOutFmt fo && fi != 9
     | 0x31 => (fo == 6 || fo == 7) && bits w (at_ 270) 1 == 0 && srOk (bits w (at_ 271) 1) fo
     | 0x32 => fi == 6 || fi == 7 || fi == 8
     | 0x38 => is16 fi
     | _ => vecInFmt fi && vecOutFmt fo && srOk (bits w (at_ 271) 1) fo && !(decide (0x10 ≤ op) && decide (op ≤ 0x17) && fo == 8))

/-- The tr bits of feeders A and B after a word: those of the words that last started them (R161). -/
def feederTr (tr : Nat × Nat) (w : Nat) : Nat × Nat :=
  (if bits w 422 2 = 0 then tr.1 else bits w 411 1, if bits w 406 2 = 0 then tr.2 else bits w 395 1)

/-- A set of tmodes, as a mask of four bits, after a word. -/
def tmodesAfter (m w : Nat) : Nat :=
  (List.range 4).foldl (fun r k =>
    let tr := feederTr (k / 2, k % 2) w
    if bits m k 1 = 1 then r ||| 2 ^ (2 * tr.1 + tr.2) else r) 0

/-- The branches back of a slice, from the last to the first word of a loop that runs more than once (R183): first and last word. -/
def loopEdges : List (Nat × Nat) → Nat → List Nat → List (Nat × Nat)
  | _, _, [] => []
  | st, i, w :: ws =>
    match bits w 494 2 with
    | 1 => loopEdges ((i, bits w 476 16) :: st) (i + 1) ws
    | 2 => (match st with
      | (b, n) :: st => (if 1 < n then [(b, i)] else []) ++ loopEdges st (i + 1) ws
      | [] => loopEdges [] (i + 1) ws)
    | 3 => (if 1 < bits w 476 16 then [(i, i)] else []) ++ loopEdges st (i + 1) ws
    | _ => loopEdges st (i + 1) ws

/-- The tmodes that may stand before each word, carried on over the words in order and once over each branch back. -/
def carryTmodes (edges : List (Nat × Nat)) (ws ins : List Nat) : List Nat :=
  let fwd := ((ins.zip ws).foldl (fun a q => let m := q.1 ||| a.2; (a.1 ++ [m], tmodesAfter m q.2)) (([], 0) : List Nat × Nat)).1
  (List.range ws.length).map fun i => edges.foldl (fun m e =>
    if e.1 = i then m ||| tmodesAfter (fwd.getD e.2 0) (ws.getD e.2 0) else m) (fwd.getD i 0)

/-- The words of a slice, each with the tmodes that a product it starts may take from the words that last started its feeders, on every way
through its loops; the first words follow on the last. A feeder's last start lies at most one branch back from the other's, and that one from
the product, so that four carries reach every word. -/
def withTmodes (ws : List Nat) : List (Nat × Nat) :=
  let edges := loopEdges [] 0 ws
  let last := ws.foldl feederTr (0, 0)
  let go := carryTmodes edges ws
  let ins := go (go (go (go (2 ^ (2 * last.1 + last.2) :: List.replicate (ws.length - 1) 0))))
  (ws.zip ins).map fun q => (q.1, tmodesAfter q.2 q.1)

/-- The array and its feeders; `tmode` is that of the product a word starts (R161, R169). The formats of an element-wise operation are those of
its word, and its product and drain descriptors' own are held to nothing more than R180 (DESIGN CHOICE, log 68). -/
def arrayOk (f : Bool) (ds : List Nat) (w tmode : Nat) : Bool :=
  let op := bits w 390 2
  let d := ds.getD (bits w 380 10) 0
  let own := 2 * bits w 411 1 + bits w 395 1
  let feeder (o desc : Nat) : Bool := o != 3 && (o != 1 || descIs ds 1 desc)
  feeder (bits w 406 2) (bits w 396 10) && feeder (bits w 422 2) (bits w 412 10) && op != 3 &&
  bits w 350 2 != 3 && (bits w 350 2 == 0 || op != 0) && (bits w 350 2 == 0 || descIs ds 3 (bits w 340 10)) &&
  (!f || own == 0 || (op == 0 && bits w 406 2 == 0 && bits w 422 2 == 0)) && bits w 377 3 != 7 &&
  (op == 0 ||
    (descIs ds 2 (bits w 380 10) &&
     (op != 1 || bits w 350 2 == 0 || bits w 339 1 == 0 || decide (bits (ds.getD (bits w 340 10) 0) 245 4 ≤ 4)) &&
     (bits d 239 2 != 2 || (is16 (bits d 245 4) && is16 (bits d 241 4))) &&
     (op != 2 || (bits d 239 2 == 0 && tmode == 0)) &&
     (tmode == 0 || (!f && is16 (bits d 245 4) && is16 (bits d 241 4) && bits d 239 2 != 1)) &&
     (bits d 194 1 == 0 || tmode == 3)))

/-- The router and express slots at a place of the rectangle: `edges` says of each direction whether it leaves the rectangle. -/
def routeOk (f : Bool) (edges : List Bool) (ds : List Nat) (w : Nat) : Bool :=
  let out (d : Nat) : Nat := bits w (173 - 3 * d) 3
  ((List.range 4).all fun d => !(edges.getD d false) || out d == 0) && decide (out 4 ≤ 4) &&
  decide (bits w 141 3 ≤ 4) && decide (bits w 138 3 ≤ 4) && bits w 136 2 != 3 &&
  (f || (((List.range 4).all fun d => out d != 7) && (out 4 == 0 || bits w 159 2 != 3) &&
         (bits w 141 3 == 0 || bits w 136 2 != 2) && (bits w 138 3 == 0 || bits w 134 2 != 3))) &&
  (!((List.range 4).any fun d => out d == 5) && (out 4 == 0 || bits w 159 2 != 0) || descIs ds 6 (bits w 149 10)) &&
  ((bits w 141 3 == 0 || bits w 136 2 != 0) && (bits w 138 3 == 0 || bits w 134 2 != 0) || descIs ds 6 (bits w 124 10))

/-- The reserved bits of a compute word (Table 9-1). -/
def wordReserved : List (Nat × Nat) :=
  [(464, 10), (408, 3), (392, 3), (352, 6), (336, 3), (288, 3), (240, 4), (192, 4), (176, 1), (144, 5), (120, 4), (0, 112)]

/-- A compute word passes R18, R180 and the rules of its slots. -/
def wordOk (f : Bool) (edges : List Bool) (rdv ds : List Nat) (w tmode : Nat) : Bool :=
  let sync := bits w 461 3
  let mv := bits w 333 3
  let rop := bits w 188 4
  clearBits w wordReserved && decide (1 ≤ bits w 496 16) && decide (bits w 474 2 ≤ 1) && decide (sync ≤ 4) &&
  ((sync != 1 && sync != 2) || decide (rdv.getD (bits w 433 8) 0 ≠ 0)) &&
  ((sync != 3 && sync != 4) || decide (1 ≤ bits w 424 4)) &&
  ((bits w 494 2 != 1 && bits w 494 2 != 3) || decide (1 ≤ bits w 476 16)) &&
  arrayOk f ds w tmode && vecOk f ds w 0 && vecOk f ds w 1 &&
  decide (mv ≤ 5) && (mv == 0 || f) && decide (bits w 324 2 ≤ 1) && (mv != 3 || (decide (1 ≤ bits w 291 7) && decide (bits w 291 7 ≤ 64))) &&
  (decide (rop ≤ 3) || (!f && decide (8 ≤ rop) && decide (rop ≤ 0xA))) && (rop == 0 || descIs ds 5 (bits w 177 10)) &&
  routeOk f edges ds w

/-- Loops nest strictly (R183): the open counters, innermost first, over the words in order. -/
def loopsOk : List Nat → List Nat → Bool
  | _, [] => true
  | st, w :: ws =>
    let op := bits w 494 2
    let k := bits w 492 2
    match op with
    | 1 => !st.contains k && decide (st.length < 4) && loopsOk (k :: st) ws
    | 2 => (match st with | j :: t => j == k && loopsOk t ws | [] => false)
    | 3 => !st.contains k && decide (st.length < 4) && loopsOk st ws
    | _ => loopsOk st ws

/-- An access word holds no reserved bit or code (Tables 9-8 and 9-9), an address of tile SRAM that is a whole line, and on a B-tile no
read to the stores that only the mule has (R18, R120, R142). -/
def accessOk (f : Bool) (w : Nat) : Bool :=
  let op := bits w 124 4
  let idle := op == 0 || op == 8
  let store := op == 4 || op == 5
  decide (op ≤ 8) && bits w 0 16 == 0 && (idle || decide (1 ≤ bits w 81 16)) && (idle || store || bits w 97 20 % 8 == 0) && (f || !store)

/-- The words, descriptors and access words of a body. -/
def bodyWords (m : OpenImage) (body : Nat) (sl : Slice) : List Nat :=
  (List.range sl.words).map fun i => ofLe (m.at_ (body + 64 * i) 64)
def bodyDescs (m : OpenImage) (body : Nat) (sl : Slice) : List Nat :=
  (List.range sl.descriptors).map fun i => ofLe (m.at_ (body + 64 * sl.words + 32 * i) 32)
def bodyAccess (m : OpenImage) (body : Nat) (sl : Slice) : List Nat :=
  (List.range sl.accessWords).map fun i => ofLe (m.at_ (body + 64 * sl.words + 32 * sl.descriptors + 16 * i) 16)

/-- A slice at rectangle position `i` passes check 6. -/
def sliceOk (m : OpenImage) (w h xPhase : Nat) (rdv : List Nat) (e : Nat × Nat × Slice) : Bool :=
  let u := e.1 % w
  let v := e.1 / w
  let f := decide ((xPhase + u) % 12 < 4)
  let edges := [v == 0, u + 1 == w, v + 1 == h, u == 0]
  let ds := bodyDescs m e.2.1 e.2.2
  let ws := bodyWords m e.2.1 e.2.2
  ds.all descOk && (withTmodes ws).all (fun q => (List.range 4).all fun k => bits q.2 k 1 == 0 || wordOk f edges rdv ds q.1 k) &&
    loopsOk [] ws &&
    (bodyAccess m e.2.1 e.2.2).all (accessOk f)

/-! ### Commit (R202 to R204) -/

/-- The digest that an image's signature covers and that becomes the program measurement (R202). -/
def imageMeasurement (m : OpenImage) : Bytes := sha256 (m.at_ 0 (m.len - 16256))

/-- The status of the first check that an image fails, 0 when it passes them all (R203). -/
def State.imageStatus (s : State) (c : Nat) (m : OpenImage) : Nat :=
  let b := m.at_ 0 768
  let p := s.cpart c
  let w := leAt b 8 1
  let h := leAt b 9 1
  let keyId := m.at_ (m.len - 16256) 32
  let key := s.sec.keys.find? fun k => k.cls == 0 && !k.revoked && sha256 k.key == keyId
  let slices := imageSlices m (w * h)
  let entries := s.portion c 8192
  let size := entries.2 - entries.1
  let room := (s.rd (PAR_CTX_CFG.share_lines c) - 5120) * 256
  if sha256 (m.at_ 0 m.len) ≠ m.digest then 0x0430
  else if m.len < 768 + 16256 ∨ leAt b 24 8 ≠ m.len then 0x0131
  else match key with
    | none => 0x0631
    | some k =>
      if !Config.verifySignature k.key (imageMeasurement m) (m.at_ (m.len - 16224) 16224) then 0x0630
      else if !headerOk b m.len || !((List.range (w * h)).all fun i => entryOk (m.at_ (768 + 64 * i) 64)) ||
          !bodiesOk (768 + 64 * w * h) (m.len - 16256) slices then 0x0131
      else if w ≠ s.rd (PAR_PART_CFG.width p) ∨ h ≠ s.rd (PAR_PART_CFG.height p) ∨ leAt b 10 1 ≠ s.rd (PAR_PART_CFG.x0 p) % 12 ∨
          leAt b 11 1 ≠ s.rd (PAR_PART_CFG.y0 p) % 6 then 0x0132
      else if slices.any (fun e => decide (size < e.2.2.words + (e.2.2.descriptors + 1) / 2) || decide (size < e.2.2.accessWords)) ||
          (List.range (w * h)).any (fun i => decide (room < leAt (m.at_ (768 + 64 * i) 64) 16 4)) then 0x0331
      else if !slices.all (sliceOk m w h (leAt b 10 1) ((List.range 256).map fun i => leAt b (256 + 2 * i) 2)) then 0x0130
      else 0

/-- A context's share stands in its eviction area (R326). -/
def State.shareOut (s : State) (c : Nat) : Bool := s.cst c == stEvicted || (s.cst c == stHold && (s.ctx c).heldFrom == stEvicted)

/-- The address in the partition's stack space of a place of an evicted share. -/
def State.sharePlace (s : State) (c t off : Nat) : Option Nat :=
  (shareIndex (s.ctxParts c) off).map fun k =>
    s.evictBase c + s.dirPos (s.cpart c) t * s.rd (PAR_CTX_CFG.share_lines c) * 300 + k

/-- Bytes stored at a place of a context's share in a tile: in tile memory, or in its eviction area while it is evicted; for a gated tile
they wait in its field node (R218), and over a stopped down-link none arrive (R235). -/
def State.storeShare (s : State) (c t off : Nat) (b : Bytes) : State :=
  if s.shareOut c then
    match s.sharePlace c t off with
    | some a => (s.putPart (s.cpart c) a b).unpoison (s.cpart c) a b.length
    | none => s
  else if (s.crossing 0 (s.phys t)).stopped then s
  else if s.gated (tileField t) (tileRow t) then
    { s.stir (NET_UL_WAIT.ul_wait (tileField t) 4).addr with net := { s.net with parked := s.net.parked ++ [(t, off, b)] } }
  else s.wrBytes (tileAddr (s.phys t) off) b

/-- Their lines travel from a node of the underlay network to the tile or to the stacks, and are counted there (R214, R227). -/
def State.shareLines (s : State) (c t off n : Nat) (node : Nat × Nat) : State :=
  if s.shareOut c then
    match s.sharePlace c t off with
    | some a => (s.countLines (s.cpart c) a n true).linesVia (s.cpart c) a n true node
    | none => s
  else
    let l := (linesOf off n).2
    let s := (s.underlay node (tileNode t) l true).contends t 1
    if s.gated (tileField t) (tileRow t) || (s.crossing 0 (s.phys t)).stopped then s else s.count t (NET_DL_IN.dl_lines_in t) l

/-- A write of the command engine into a share. -/
def State.writeShare (s : State) (c t off : Nat) (b : Bytes) : State :=
  (s.storeShare c t off b).shareLines c t off b.length bridgeNode

/-- One slice written into the context's share of a tile's instruction memories (R179). -/
def State.writeSlice (s : State) (c t : Nat) (m : OpenImage) (body : Nat) (sl : Slice) : State :=
  let e := s.portion c 8192
  let s := s.writeShare c t (cimemOff + 64 * e.1) (m.at_ body (64 * sl.words))
  let s := (List.range sl.descriptors).foldl (fun s d =>
    s.writeShare c t (cimemOff + 64 * (e.2 - 1 - d / 2) + 32 * (d % 2)) (m.at_ (body + 64 * sl.words + 32 * d) 32)) s
  s.writeShare c t (aimemOff + 16 * e.1) (m.at_ (body + 64 * sl.words + 32 * sl.descriptors) (16 * sl.accessWords))

/-- The program that an image holds. -/
def imageProgram (m : OpenImage) : Program :=
  let b := m.at_ 0 768
  let w := leAt b 8 1
  let h := leAt b 9 1
  { width := w, height := h, minClock := leAt b 14 2, window := leAt b 16 4, entries := leAt b 12 1,
    schedule := (List.range 8).map fun i => leAt b (32 + 4 * i) 4,
    rendezvous := (List.range 256).map fun i => leAt b (256 + 2 * i) 2,
    measurement := imageMeasurement m,
    slices := (imageSlices m (w * h)).map fun e => (e.1, e.2.2) }

/-- An image that passes every check is written into the context's share, replacing the previous program; a context in RELOAD
is RESIDENT again (R331). -/
def State.loadImage (s : State) (c : Nat) (m : OpenImage) : State :=
  let p := s.cpart c
  let g := imageProgram m
  let x0 := s.rd (PAR_PART_CFG.x0 p)
  let y0 := s.rd (PAR_PART_CFG.y0 p)
  let s := (imageSlices m (g.width * g.height)).foldl (fun s e =>
    s.writeSlice c (tileAt (x0 + e.1 % g.width) (y0 + e.1 / g.width)) m e.2.1 e.2.2) s
  let s := s.modCtx c fun k => { k with program := some g, image := none }
  let s := if s.running p = some c then
      (s.partTiles p).foldl (fun s t => s.wr (INS_RA.window t) g.window) s else s
  if s.cst c = stReload then s.wr (PAR_CTX_CFG.state c) stResident else s

def checkProgramCommit (c : Nat) (s : State) : Nat :=
  if (s.ctx c).step.isSome then 0x0230 else if (s.ctx c).image.isNone then 0x0231 else 0

def doProgramCommit (h : Hdr) (s : State) : State :=
  match (s.ctx h.context).image with
  | none => s.reply h 0x0304 0x0231
  | some m =>
    let st := s.imageStatus h.context m
    if st ≠ 0 then s.reply h 0x0304 st
    else (s.loadImage h.context m).reply h 0x0304 0 (imageMeasurement m)

/-- PROGRAM_COMMIT (R203, R204). -/
def fwProgramCommit (h : Hdr) : Fw :=
  ⟨0x0304, h.length == 0, .context, checkProgramCommit h.context,
    doProgramCommit h, fun _ s => s⟩

def execProgramCommit (h : Hdr) (s : State) : Result :=
  .next (s.fwCommand h (fwProgramCommit h) (.programCommit h))

end Sys2Proof.Machine
end

