-- ==== Sys2Proof/Machine/Vector.lean ====
section
/-! DEFINITION. The vector engine and the row engine: ordinary vector operations (Table 9-4), and normalisation and softmax, forward
and backward, with their statistics records (Tables 8-4 to 8-6). -/

namespace Sys2Proof.Machine

/-! ### Vector operations (R187) -/

/-- Fields of the vector slot that an operation came from. -/
def TileOp.vfield (o : TileOp) (slot lo width : Nat) : Nat := bits o.word (lo - 48 * slot) width

/-- The operation in a vector slot. -/
def Eng.vec (e : Eng) (slot : Nat) : Option TileOp := if slot = 0 then e.vec0 else e.vec1
def Eng.setVec (e : Eng) (slot : Nat) (o : TileOp) : Eng := if slot = 0 then { e with vec0 := some o } else { e with vec1 := some o }
def Eng.vecDone (e : Eng) (slot : Nat) : Eng := if slot = 0 then { e with vec0 := none } else { e with vec1 := none }

/-- The operation that slot `slot` of a running context's tile holds, of the kind `p` picks. -/
def State.vecOp (s : State) (t slot : Nat) (p : Nat → Bool) : Option (Nat × TileOp) :=
  (s.ctxOn t).bind fun c => ((s.engOf c t).vec slot).bind fun o => if p (vop o.word slot) then some (c, o) else none

/-- The engine's lanes for an input format, halved while the other slot runs an ordinary operation; a conversion draws on them (DESIGN
CHOICE, log 50). -/
def vecLanes (fmt : Nat) (shared : Bool) : Nat :=
  (if fmt = 7 then 256 else if fmt = 8 ∨ fmt = 9 then 64 else 512) / (if shared then 2 else 1)

/-- The exact result of an element of operations 0x01 to 0x08 with the operands its NaN flag is judged by. -/
def vecElem (op : Nat) (a b d k : Num) : Num × List Num :=
  match op with
  | 1 => (a.add b, [a, b])
  | 2 => (a.add b.neg, [a, b])
  | 3 => (a.mul b, [a, b])
  | 4 => ((a.mul b).add d, [a, b, d])
  | 5 => ((k.mul a).add b, [k, a, b])
  | 6 => (a.max b, [a, b])
  | 7 => (a.min b, [a, b])
  | _ => (a, [a])

/-- The sum of a list in binary64, in order; beyond binary64 it is infinite and sets no flag (DESIGN CHOICE, log 49). -/
def sum64 (l : List Num) : Num := l.foldl (fun s x => (roundNum 8 none true (s.add x)).1) Num.zero

/-- The magnitude of a number. -/
def Num.abs : Num → Num
  | .nan => .nan | .inf _ => .inf false | .fin _ m => .fin false m

/-- VECTOR_OPERATION: an ordinary operation runs to its end. -/
def State.vectorRun (s : State) (t slot : Nat) (ecc : SramEcc) : State :=
  match s.vecOp t slot fun op => op != 0 && decide (op < 0x30) with
  | none => s
  | some (c, o) =>
    let op := vop o.word slot
    let fi := o.vfield slot 276 4
    let fo := o.vfield slot 272 4
    let n := bits o.desc 165 24
    let a := 32 * bits o.desc 229 20
    let b := 32 * bits o.desc 209 20
    let d := 32 * bits o.desc 189 20
    let two := decide (op ≤ 7)
    let outN := if op = 0x20 ∨ op = 0x21 then 1 else n
    let outF := if op = 9 then fi else fo
    let f := s.sramFaults c [linesOf a (vecBytes fi n), linesOf b (if two then vecBytes fi n else 0), linesOf d (vecBytes outF outN)]
    let done (s : State) : State := s.modEng c t fun e => e.vecDone slot
    if f ≠ 0 then s.tileFault t f 2
    else
    let s := s.sramEcc t ecc
    if s.cst c ≠ stRunning then s
    else if op = 9 then done (s.wrSram c t d (s.rdSram c t a (vecBytes fi n)))
    else
      let xa := s.getVec c t a fi n
      let xb := if two then s.getVec c t b fi n else []
      let xd := if op = 4 then s.getVec c t d fo n else []
      let k := if is16 fi then decodeNum fi (o.vfield slot 244 16) else decodeNum 7 (bits o.desc 133 32)
      let res : List (Num × List Num) :=
        if op = 0x20 then [(sum64 xa, xa)]
        else if op = 0x21 then [(xa.foldl (fun m x => m.max x.abs) Num.zero, xa)]
        else (List.range n).map fun i =>
          let x := xa.getD i .nan
          if 0x10 ≤ op then ((elementary op fo x).1, [x]) else vecElem op x (xb.getD i .nan) (xd.getD i .nan) k
      let under := if 0x10 ≤ op ∧ op ≤ 0x17 then xa.foldl (fun f x => f ||| (elementary op fo x).2) 0 else 0
      let flags := res.foldl (fun f r => f ||| nanFlag r.2 r.1) under
      let busy := match (s.engOf c t).vec (1 - slot) with | some q => decide (vop q.word (1 - slot) < 0x30) | none => false
      let sr := o.vfield slot 271 1 == 1
      done ((s.numFlags t flags 0).putVec c t d fo sr (o.vfield slot 270 1 == 1) 2 (vecLanes fi busy) (res.map (·.1)))

def execVectorOperation (tile slot : Nat) (ecc : SramEcc) (s : State) : Result := .next (if s.up then s.vectorRun tile slot ecc else s)

/-! ### The row engine (R162 to R168) -/

/-- A record's two values from its 8 bytes, and back. -/
def recPair (v : Nat) : Num × Num := (decodeNum 7 (v % 2 ^ 32), decodeNum 7 (v / 2 ^ 32))
def pairRec (lo hi : Num) : Nat := encodeNum 7 lo + encodeNum 7 hi * 2 ^ 32

/-- The statistics of a row (Table 8-4): its low and its high word. `live` picks the elements that are not masked. -/
def rowStats (rop : Nat) (param : FlagNum) (x : List FlagNum) (live : Nat → Bool) : FlagNum × FlagNum :=
  match rop with
  | 1 =>
    let mu := mean32 x
    let v := mean32 (x.map fun a => let d := sub32 a mu; mul32 d d)
    (mu, fun32 0x13 (add32 v param))
  | 2 => ((Num.zero, 0), fun32 0x13 (add32 (mean32 (x.map fun a => mul32 a a)) param))
  | _ =>
    let l := ((List.range x.length).zip x).filter (fun e => live e.1) |>.map fun e => mul32 param e.2
    let m := match l with | [] => (Num.zero, 0) | y :: ys => ys.foldl max32 y
    (m, sum32 (l.map fun y => fun32 0x10 (sub32 y m)))

/-- An element of a list of operands. -/
def elem (l : List FlagNum) (i : Nat) : FlagNum := l.getD i (.nan, 0)

/-- The element of softmax that a row's statistics give. -/
def softmaxElem (param m sum x : FlagNum) : FlagNum := div32 (fun32 0x10 (sub32 (mul32 param x) m)) sum

/-- The forward results of a row. -/
def rowForward (rop : Nat) (param : FlagNum) (x g : List FlagNum) (st : FlagNum × FlagNum) (live : Nat → Bool) : List FlagNum :=
  (List.range x.length).map fun i =>
    let a := elem x i
    match rop with
    | 1 => mul32 (mul32 (sub32 a st.1) st.2) (elem g i)
    | 2 => mul32 (mul32 a st.2) (elem g i)
    | _ => if live i then softmaxElem param st.1 st.2 a else (Num.zero, 0)

/-- The backward results of a row (Table 8-6): dx, and the row's contributions to dg and to the bias gradient. -/
def rowBackward (rop : Nat) (param : FlagNum) (x dy g : List FlagNum) (st : FlagNum × FlagNum) (live : Nat → Bool) :
    List FlagNum × List FlagNum × List FlagNum :=
  let n := x.length
  if rop = 0xA then
    let y := (List.range n).map fun i => if live i then softmaxElem param st.1 st.2 (elem x i) else (Num.zero, 0)
    let a := sum32 ((dy.zip y).map fun p => mul32 p.1 p.2)
    ((dy.zip y).map fun p => mul32 (mul32 param p.2) (sub32 p.1 a), [], [])
  else
    let hat := x.map fun a => if rop = 8 then mul32 (sub32 a st.1) st.2 else mul32 a st.2
    let gd := (g.zip dy).map fun p => mul32 p.1 p.2
    let b := div32 (sum32 ((gd.zip hat).map fun p => mul32 p.1 p.2)) (natNum n)
    let a := if rop = 8 then div32 (sum32 gd) (natNum n) else (Num.zero, 0)
    let dx := (gd.zip hat).map fun p =>
      let u := if rop = 8 then sub32 p.1 a else p.1
      mul32 st.2 (sub32 u (mul32 p.2 b))
    (dx, (dy.zip hat).map fun p => mul32 p.1 p.2, if rop = 8 then dy else [])

/-- Results of the row engine written at an SRAM byte address in a format, with their flags; its stochastic rounding draws on the vector
engine's lanes (DESIGN CHOICE, log 50). -/
def State.putRow (s : State) (c t a fmt : Nat) (sr inf : Bool) (l : List FlagNum) : State :=
  (s.numFlags t (orFlags l) 0).putVec c t a fmt sr inf 2 512 (l.map (·.1))

/-- Contributions added into a binary32 vector in tile SRAM. -/
def State.addInto (s : State) (c t a : Nat) (l : List FlagNum) : State :=
  let old := s.getVec c t a 7 l.length
  s.putRow c t a 7 false true ((old.zip l).map fun p => add32 (.read p.1) p.2)

/-- A statistics fault of a backward operation (R165). -/
def State.statFault (s : State) (t i : Nat) (range : Bool) : State :=
  let s := (s.wr (BWD_STATUS.last_record t) i).wr (if range then BWD_STATUS.stat_range t else BWD_STATUS.tag_mismatch t) 1
  s.tileFault t (if range then 0x2802 else 0x2801) 2

/-- One row of a row-engine operation. Operands and results of a row stand contiguously, row after row, in the output format (DESIGN
CHOICE, log 28). A forward operation writes its record wherever the side memory has it (R164: R165 checks the backward operations alone);
a number past its last record writes none (DESIGN CHOICE, log 28). -/
def State.rowStep (s : State) (c t : Nat) (o : TileOp) (j : Nat) : State :=
  if s.cst c ≠ stRunning then s
  else
    let rop := bits o.word 188 4
    let fmt := bits o.desc 45 4
    let d := bits o.desc 112 17
    let pitch := d * fmtBytes fmt
    let at_ (lo : Nat) : Nat := 32 * bits o.desc lo 20 + j * pitch
    let param := FlagNum.read (decodeNum 7 (bits o.desc 49 32))
    let live (i : Nat) : Bool := bits o.desc 41 2 != 1 || decide (i ≤ bits o.desc 25 16 + j)
    let sr := bits o.desc 44 1 == 1
    let inf := bits o.desc 43 1 == 1
    let i := bits o.desc 81 15 + j
    let inShare := decide (s.rd (BWD_CTRL.stat_base t) ≤ i) && decide (i < s.rd (BWD_CTRL.stat_limit t))
    let norm := rop % 8 != 3 && rop != 0xA
    let x := (s.getVec c t (at_ 229) fmt d).map FlagNum.read
    let g := if norm then (s.getVec c t (32 * bits o.desc 189 20) fmt d).map FlagNum.read else []
    if rop < 8 then
      let st := rowStats rop param x live
      let s := if bits o.word 187 1 = 1 ∧ i < 32768 then
          (s.setStat t i rop (pairRec st.1.1 st.2.1)).count t (BWD_STAT_WR.stat_writes t) 1 else s
      (s.numFlags t (st.1.2 ||| st.2.2) 0).putRow c t (at_ 209) fmt sr inf (rowForward rop param x g st live)
    else
      let r := s.statRecord t i
      if !inShare then s.statFault t i true
      else if r.1 ≠ rop - 7 then s.statFault t i false
      else
        let s := s.count t (BWD_STAT_RD.stat_reads t) 1
        let dy := (s.getVec c t (at_ 209) fmt d).map FlagNum.read
        let st := recPair r.2
        let y := rowBackward rop param x dy g (.read st.1, .read st.2) live
        let s := s.putRow c t (at_ 169) fmt sr inf y.1
        let s := if y.2.1.isEmpty then s else s.addInto c t (32 * bits o.desc 149 20) y.2.1
        if y.2.2.isEmpty then s else s.addInto c t (32 * bits o.desc 129 20) y.2.2

/-- The SRAM that a row-engine operation addresses. -/
def rowSpan (o : TileOp) : List (Nat × Nat) :=
  let rop := bits o.word 188 4
  let fmt := bits o.desc 45 4
  let d := bits o.desc 112 17
  let n := bits o.desc 96 16 * d * fmtBytes fmt
  let at_ (lo : Nat) : Nat := 32 * bits o.desc lo 20
  let norm := rop % 8 != 3 && rop != 0xA
  [linesOf (at_ 229) n, linesOf (at_ 209) n, linesOf (at_ 189) (if norm then d * fmtBytes fmt else 0),
   linesOf (at_ 169) (if 8 ≤ rop then n else 0), linesOf (at_ 149) (if rop = 8 ∨ rop = 9 then 4 * d else 0),
   linesOf (at_ 129) (if rop = 8 then 4 * d else 0)]

/-- Rows of the row engine's operation up to row `upto` (R175). -/
def State.rowsTo (s : State) (c t : Nat) (o : TileOp) (upto : Nat) : State :=
  ((List.range (upto - o.pos)).foldl (fun s k => s.rowStep c t o (o.pos + k)) s).modEng c t fun e =>
    { e with row := some { o with started := true, pos := upto } }

/-- The row engine is free again. -/
def State.rowDone (s : State) (c t : Nat) : State := (s.wr (BWD_STATUS.row_bwd_active t) 0).modEng c t fun e => { e with row := none }

/-- ROW_ENGINE_OPERATION: every row of the operation that is still to come, in order. -/
def State.rowRun (s : State) (t : Nat) (ecc : SramEcc) : State :=
  match s.ctxOn t with
  | none => s
  | some c =>
    match (s.engOf c t).row with
    | none => s
    | some o =>
      let f := s.sramFaults c (rowSpan o)
      if f ≠ 0 then s.tileFault t f 2
      else
        let s := s.sramEcc t ecc
        if s.cst c ≠ stRunning then s
        else
          let s := s.rowsTo c t o (bits o.desc 96 16)
          if s.cst c ≠ stRunning then s else s.rowDone c t

def execRowEngineOperation (tile : Nat) (ecc : SramEcc) (s : State) : Result := .next (if s.up then s.rowRun tile ecc else s)

end Sys2Proof.Machine
end

