-- ==== Sys2Proof/Machine/Mule.lean ====
section
/-! DEFINITION. The mule of an F-tile (R117 to R133, R142, R143): loads, pass descriptors, panels with their adapters, and the results'
way out. -/

namespace Sys2Proof.Machine

/-! ### Descriptors (Tables 6-4, 6-5 and 7-4) -/

def mdW (d k : Nat) : Nat := bits d (64 * k) 64
def mdRun (d : Nat) : Nat := bits (mdW d 0) 53 11
def mdPanels (d : Nat) : Nat := bits (mdW d 0) 41 12
def mdBeats (d : Nat) : Nat := bits (mdW d 0) 34 7
def mdFmt (d : Nat) : Nat := bits (mdW d 0) 30 4
def mdScale (d : Nat) : Nat := bits (mdW d 0) 11 19
def mdVectors (d : Nat) : Nat := bits (mdW d 0) 8 3
/-- Lines per cycle (R127). -/
def mdLines (d : Nat) : Nat := match bits (mdW d 0) 6 2 with | 0 => 48 | 1 => 24 | 2 => 16 | _ => 12
def mdAdapt (d : Nat) : Bool := bits (mdW d 0) 5 1 == 1
def mdDest (d : Nat) : Nat := bits (mdW d 1) 62 2
def mdOfmt (d : Nat) : Nat := bits (mdW d 1) 58 4
def mdSr (d : Nat) : Bool := bits (mdW d 1) 57 1 == 1
def mdInf (d : Nat) : Bool := bits (mdW d 1) 56 1 == 1
def mdDir (d : Nat) : Nat := bits (mdW d 1) 54 2
def mdOut (d : Nat) : Nat := bits (mdW d 1) 0 25
def mdStride (d : Nat) : Nat := bits (mdW d 2) 0 25

/-- Elements of a vector that a beat takes: 128 or 256, twice as many under 2:4 (R122, R142). -/
def mdWidth (d : Nat) (sparse : Bool) : Nat := (if isMx (mdFmt d) then 256 else 128) * (if sparse then 2 else 1)

def Mule.descOf (m : Mule) (e : Nat) : Nat := Sparse.get 0 m.desc e
def Mule.extOf (m : Mule) (e : Nat) : Nat := Sparse.get 0 m.ext e
def extOn (x : Nat) : Bool := bits x 0 1 == 1
def extMasks (x : Nat) : Nat := bits x 1 21
def extRun (x : Nat) : Nat := bits x 22 11

/-- Bytes of masks of a beat. -/
def maskBeat (d : Nat) : Nat := if isMx (mdFmt d) then 3072 else 1536

/-! ### Loads (R121, R129) -/

/-- Loads outstanding to an activation set. -/
def Mule.loadsTo (m : Mule) (set : Nat) : List (Nat × Nat) :=
  m.loads.filter fun l => (bits l.1 333 3 == 3 || bits l.1 333 3 == 4) && bits l.1 328 1 == set

/-- A load issued before a pass to its set is outstanding: the set is not ready for it (R121, R129). -/
def Mule.waitsForSet (m : Mule) (p : MulePass) : Bool := (m.loadsTo p.set).any fun l => decide (l.2 ≤ p.id)

/-- Elements stored into a vector of a set; a load that runs past its last element goes on at its first (DESIGN CHOICE, log 65: R121 gives no
outcome). -/
def Mule.putVec (m : Mule) (set vec start : Nat) (l : List Nat) : Mule :=
  { m with vecs := ((List.range l.length).zip l).foldl (fun t e =>
      Sparse.put 0 t (8192 * (4 * set + vec) + (start + e.1) % 8192) e.2) m.vecs }

/-- The 16-bit words of a byte string. -/
def words16 (b : Bytes) : List Nat := (List.range (b.length / 2)).map fun i => wordAt 2 b i

/-- MULE_LOAD_COMPLETE: the oldest load that nothing holds back completes; one from the network waits for its lines. -/
def State.muleLoad (s : State) (t : Nat) (ecc : SramEcc) : State :=
  match s.ctxOn t with
  | none => s
  | some c =>
    let e := s.engOf c t
    match e.mule.loads.find? fun l => !e.mule.loadBlocked l with
    | none => s
    | some (w, k) =>
      let a := 32 * bits w 304 20
      let op := bits w 333 3
      let set := bits w 328 1
      let vec := bits w 326 2
      let n := bits w 291 7
      let fromNet := op == 3 && bits w 324 2 == 1
      let size := match op with | 2 => 32 | 3 => 256 * n | _ => 16
      let f := if fromNet then 0 else let q := linesOf a size; s.sramFault c q.1 q.2
      if fromNet && decide (e.netM.length < n) then s
      else if f ≠ 0 then s.tileFault t f 2
      else
      let s := if fromNet then s else s.sramEcc t ecc
      if s.cst c ≠ stRunning then s
      else
        let b := if fromNet then (e.netM.take n).flatten else s.rdSram c t a size
        let m := { e.mule with loads := e.mule.loads.erase (w, k) }
        let m := match op with
          | 2 => { m with desc := Sparse.put 0 m.desc (bits w 329 4) (ofLe b) }
          | 3 => m.putVec set vec (128 * bits w 298 6) (words16 b)
          | 4 => { m with adapters := Sparse.put 0 m.adapters (4 * set + vec) (ofLe b) }
          | _ => { m with ext := Sparse.put 0 m.ext (bits w 329 4) (ofLe b) }
        let s := s.setEng c t { e with mule := m, netM := if fromNet then e.netM.drop n else e.netM }
        let s := if fromNet then s.lanesFlow c else s
        if (op = 3 ∨ op = 4) ∧ (m.loadsTo set).isEmpty then
          (s.wrBit (MVP_STATUS.set_loading t) set false).wrBit (MVP_STATUS.set_ready t) set true
        else s

def execMuleLoadComplete (tile : Nat) (ecc : SramEcc) (s : State) : Result := .next (if s.up then s.muleLoad tile ecc else s)

/-! ### Panels (R118 to R125, R131, R142) -/

/-- Element `k` of vector `v` of a set. -/
def Mule.act (m : Mule) (d set v k : Nat) : Num :=
  decodeNum (bit (Config.muleActivation (mdFmt d))) (Sparse.get 0 m.vecs (8192 * (4 * set + v) + k % 8192))

/-- The mask of group `g` of row `l` in a beat of a 2:4 pass. -/
def State.muleMask (s : State) (c t d x panel beat l g : Nat) : Nat :=
  let m := maskBeat d
  let a := extMasks x + m * (panel * mdBeats d + beat) + m / 48 * l + g / 2
  bits (s.rdB (tileAddr (s.phys t) (maskOff + s.xMask c a))).toNat (4 * (g % 2)) 4

/-- Groups of a row in a beat of a 2:4 pass. -/
def muleGroups (d : Nat) : Nat := if isMx (mdFmt d) then 128 else 64

/-- Escape groups of a beat. -/
def State.beatEscapes (s : State) (c t d x panel beat : Nat) : Nat :=
  (List.range 48).foldl (fun n l => n + ((List.range (muleGroups d)).filter fun g =>
    isEscape (s.muleMask c t d x panel beat l g)).length) 0

/-- Beats of a pass before (`panel`, `beat`) that hold an escape group, given how many came before the panel. -/
def State.escapesBefore (s : State) (c t d x panel beat before : Nat) : Nat :=
  before + ((List.range beat).filter fun b => s.beatEscapes c t d x panel b != 0).length

/-- A weight of a line under its block scale: the eight scales of a row in a beat each cover 32 elements of its line. -/
def State.muleWeight (s : State) (c t d panel beat l line i : Nat) : Num :=
  let f := mdFmt d
  if isMx f then
    let a := s.xScale c (mdScale d + 384 * (panel * mdBeats d + beat) + 8 * l + i / 32)
    scaled f (s.rdB (tileAddr (s.phys t) (scaleOff + a))).toNat (leAt (s.rdLine c t line) i 1)
  else decodeNum f (wordAt 2 (s.rdLine c t line) i)

/-- The weights of row `l` in a beat, each with the element of the vector it multiplies. -/
def State.muleRow (s : State) (c t d x : Nat) (before : Nat) (panel beat l : Nat) : List (Nat × Num) :=
  let line := 48 * (mdRun d + panel * mdBeats d + beat) + l
  let base := beat * mdWidth d (extOn x)
  if !extOn x then
    (List.range (mdWidth d false)).map fun i => (base + i, s.muleWeight c t d panel beat l line i)
  else
    let esc := 48 * (extRun x + s.escapesBefore c t d x panel beat before) + l
    (List.range (muleGroups d)).flatMap fun g =>
      let ps := maskBits (s.muleMask c t d x panel beat l g)
      ((List.range ps.length).zip ps).map fun e =>
        (base + 4 * g + e.2, s.muleWeight c t d panel beat l (if e.1 < 2 then line else esc) (2 * g + e.1 % 2))

/-- The adapter descriptor of a vector, where it is enabled and the pass applies adapters. -/
def Mule.adapter (m : Mule) (d set v : Nat) : Option Nat :=
  let a := Sparse.get 0 m.adapters (4 * set + v)
  if mdAdapt d ∧ bits a 0 1 = 1 then some a else none

/-- A beat added to a row's accumulator: the exact sum of its products, infinite where it exceeds A40's range, with one rounding; the first
beat of a panel replaces the contents (R123). -/
def muleBeat (acc : Option Num × Nat) (beat : List (Num × Num)) : Option Num × Nat :=
  if beat.isEmpty then acc
  else
    let sum := sumExact beat
    let x := rangeA40 sum.1
    let r := accumulate acc.1 x.1
    (some r.1, acc.2 ||| sum.2 ||| x.2 ||| r.2)

/-- h_v of R131: s_v times A_v x_v, rounded once to G16; `k` elements. A value beyond G16 becomes infinite (DESIGN CHOICE, log 49: R131
names the rounding mode alone). -/
def State.downPhase (s : State) (c t : Nat) (m : Mule) (d set v a k : Nat) : List (Num × Nat) :=
  let per := (2 * k + 255) / 256
  (List.range (bits a 40 7)).map fun r =>
    let row := s.rdSram c t (256 * (bits a 64 17 + r * per)) (2 * k)
    let dot := sumExact ((List.range k).map fun i => (decodeNum 0 (wordAt 2 row i), m.act d set v i))
    let scale := decodeNum 0 (bits a 24 16)
    let x := scale.mul dot.1
    let y := roundNum 0 none true x
    (y.1, y.2 ||| dot.2 ||| (if dot.1.isNan then 0 else nanFlag [scale] x))

/-- The up phase for row `l` of a panel: 32 ranks a cycle, each cycle's products summed exactly and added with one rounding. A rank outside
the 1 to 64 of Table 6-5 is applied as its seven bits say: R130 calls no such descriptor invalid (DESIGN CHOICE, log 65). -/
def State.upPhase (s : State) (c t a panel l : Nat) (h : List Num) (acc : Option Num × Nat) : Option Num × Nat :=
  let r := bits a 40 7
  let per := (48 * r * 2 + 255) / 256
  let b := s.rdSram c t (256 * (bits a 47 17 + panel * per) + 2 * l * r) (2 * r)
  (chunks 32 2 ((List.range r).map fun i => (decodeNum 0 (wordAt 2 b i), h.getD i .nan))).foldl muleBeat acc

/-- The accumulator of row `l` and vector `v` after a panel's beats and its adapter addition (R123, R131). -/
def State.muleCell (s : State) (c t : Nat) (m : Mule) (p : MulePass) (l v : Nat) : Num × Nat :=
  let d := m.descOf p.entry
  let x := m.extOf p.entry
  let acc := (List.range (mdBeats d)).foldl (fun acc beat =>
    muleBeat acc ((s.muleRow c t d x m.escapes p.panel beat l).map fun w => (w.2, m.act d p.set v w.1))) (none, 0)
  let acc := match m.adapter d p.set v with
    | some a => s.upPhase c t a p.panel l (((m.hv.getD []).getD v []).map (decodeNum 0)) acc
    | none => acc
  (acc.1.getD Num.zero, acc.2)

/-! ### Start (R129, R130, R143) -/

/-- Beats of a whole pass that hold an escape group. -/
def State.passEscapes (s : State) (c t d x : Nat) : Nat :=
  ((List.range (mdPanels d)).map fun p => s.escapesBefore c t d x p (mdBeats d) 0).foldl (· + ·) 0

/-- The SRAM lines that the adapters of a pass read (Table 6-5). -/
def Mule.adapterSpan (m : Mule) (p : MulePass) : List (Nat × Nat) :=
  let d := m.descOf p.entry
  let k := mdBeats d * mdWidth d (extOn (m.extOf p.entry))
  (List.range (mdVectors d)).flatMap fun v => match m.adapter d p.set v with
    | some a =>
      let r := bits a 40 7
      [(bits a 64 17, r * ((2 * k + 255) / 256)), (bits a 47 17, mdPanels d * ((96 * r + 255) / 256))]
    | none => []

/-- The SRAM lines that the current panel of a pass reads: weights, escape lines and adapters. -/
def State.panelSpan (s : State) (c t : Nat) (m : Mule) (p : MulePass) : List (Nat × Nat) :=
  let d := m.descOf p.entry
  let x := m.extOf p.entry
  let esc := if extOn x then ((List.range (mdBeats d)).filter fun b => s.beatEscapes c t d x p.panel b != 0).length else 0
  if mdPanels d ≤ p.panel then []
  else [(48 * (mdRun d + p.panel * mdBeats d), 48 * mdBeats d), (48 * (extRun x + m.escapes), 48 * esc)] ++ m.adapterSpan p

/-- The fault that a pass raises as it starts, 0 when none: an invalid descriptor (R130), an invalid extension entry, whose masks or escape
lines lie outside their memory (R143), or an address beyond the SRAM or outside the share (R97, R318). -/
def State.mulePassFault (s : State) (c t : Nat) (m : Mule) (p : MulePass) : Nat :=
  let d := m.descOf p.entry
  let x := m.extOf p.entry
  let sp := extOn x
  let lines := 48 * mdPanels d * mdBeats d
  let size := fmtBytes (mdOfmt d)
  let last := mdOut d + (mdVectors d - 1) * mdStride d + 48 * mdPanels d * size
  if 4 < mdFmt d ∨ !(is16 (mdOfmt d) || mdOfmt d == 7) || (mdSr d && mdOfmt d == 7) || mdVectors d == 0 || decide (4 < mdVectors d) ||
      mdBeats d == 0 || decide (8192 < mdBeats d * mdWidth d sp) || mdPanels d == 0 || decide (81920 < 48 * mdRun d + lines) ||
      (isMx (mdFmt d) && !s.inScale c (mdScale d) (384 * mdPanels d * mdBeats d)) ||
      (mdDest d == 0 && decide (0x1400000 < last)) then 0x2601
  else if sp && (!s.inMask c (extMasks x) (maskBeat d * mdPanels d * mdBeats d) ||
      decide (1706 < extRun x)) then 0x2704
  else
    let esc := if sp then 48 * s.passEscapes c t d x else 0
    if esc ≠ 0 ∧ 81920 < 48 * extRun x + esc then 0x2704
    else s.sramFaults c ([(48 * mdRun d, lines), (48 * extRun x, esc)] ++ m.adapterSpan p ++ (if mdDest d = 0 then
      (List.range (mdVectors d)).map fun v => linesOf (mdOut d + v * mdStride d) (48 * mdPanels d * size) else []))

/-- The down phase of every vector of a pass, h_v in G16, with its flags. -/
def State.downPhases (s : State) (c t : Nat) (m : Mule) (p : MulePass) : List (List (Num × Nat)) :=
  let d := m.descOf p.entry
  let k := mdBeats d * mdWidth d (extOn (m.extOf p.entry))
  (List.range (mdVectors d)).map fun v => match m.adapter d p.set v with
    | some a => s.downPhase c t m d p.set v a k
    | none => []

/-- The down phase runs before the first panel (R131), and after a restore again, h_v being no part of what a save keeps (R132; DEDUCED,
log 26). -/
def State.runDown (s : State) (c t : Nat) : State :=
  let m := (s.engOf c t).mule
  match m.active, m.hv with
  | some p, none =>
    let h := s.downPhases c t m p
    (s.numFlags t ((h.flatMap id).foldl (fun f x => f ||| x.2) 0) 0).modEng c t fun e =>
      { e with mule := { e.mule with hv := some (h.map fun l => l.map fun x => encodeNum 0 x.1) } }
  | _, _ => s

/-- MULE_PASS_START: the active pass begins once its set is ready, or waits this cycle; its down phase runs. -/
def State.mulePassStart (s : State) (t : Nat) (ecc : SramEcc) : State :=
  match s.ctxOn t with
  | none => s
  | some c =>
    let e := s.engOf c t
    match e.mule.active with
    | none => s
    | some p =>
      if p.begun then s
      else if e.mule.waitsForSet p then s.count t (MVP_SET_WAIT.set_wait_cycles t) 1
      else
        let f := s.mulePassFault c t e.mule p
        if f ≠ 0 then
          let s := if f = 0x2601 ∨ f = 0x2704 then s.wr (MVP_STATUS.desc_error t) 1 else s
          (if f = 0x2704 then s.wr (SPR_STATUS.ext_error t) 1 else s).tileFault t f 2
        else
          let s := s.sramEcc t ecc
          if s.cst c ≠ stRunning then s
          else
            let s := s.setEng c t { e with mule := { e.mule with active := some { p with begun := true }, escapes := 0, hv := none } }
            ((s.showPass t (some p)).wr (MVP_STATUS.phase t) 2).runDown c t

def execMulePassStart (tile : Nat) (ecc : SramEcc) (s : State) : Result :=
  .next (if s.up then s.mulePassStart tile ecc else s)

/-! ### Results and completion (R124, R125, R128) -/

/-- The output that a pass's results go to: 0 to 3 mesh, 4 to 7 express. -/
def mdOutput (d : Nat) : Nat := (if mdDest d = 3 then 4 else 0) + mdDir d

/-- A panel's results leave: to SRAM, to the vector engine's input queue, or as lines to the router, vector by vector, the last line of a
panel filled with zeros (DESIGN CHOICE, log 65). The input queue has no end, and nothing takes results from it: the spec gives neither its
depth nor its reader (DESIGN CHOICE, log 65). Their stochastic rounding draws on lanes of unit 2 (DESIGN CHOICE, log 50). -/
def State.panelOut (s : State) (c t : Nat) (d panel : Nat) (vals : List (List Num)) : State :=
  let f := mdOfmt d
  let n := fmtBytes f
  let dr := s.takeDraws c t 2 192 (48 * mdVectors d) (mdSr d && is16 f)
  let enc := (List.range (mdVectors d)).map fun v =>
    encodeVec f ((dr.1.drop (48 * v)).take 48) (mdInf d) (vals.getD v [])
  let s := enc.foldl (fun s r => s.numFlags t r.2.1 r.2.2) dr.2
  let s := s.numFlags t (if vals.any fun l => l.any Num.isNan then flNanIn else 0) 0
  let all := enc.flatMap (·.1)
  match mdDest d with
  | 0 => ((List.range (mdVectors d)).zip enc).foldl (fun s q =>
      s.wrSram c t (mdOut d + q.1 * mdStride d + 48 * panel * n) q.2.1) s
  | 1 => s.modEng c t fun e => { e with mule := { e.mule with vecIn := e.mule.vecIn ++ all } }
  | _ => (s.modEng c t fun e => { e with
      outMule := e.outMule ++ (chunks 256 4 all |>.map fun b => (mdOutput d, padTo 256 b)) }).tileSends c t

/-- MULE_PANEL_COMPLETE: the panel's results are formed and leave; the panel waits while the last one's are unsent (R125), except at a save
(`saving`), which completes it behind them (R132; DEDUCED, log 26). Its lines pass the code check (R101). An escape group sets density_violation and leaves
last_group, which places a group within a block of the array (DESIGN CHOICE, log 69); its extra beats do not count in sparse_beats (log 69). -/
def State.mulePanel (s : State) (t : Nat) (saving : Bool := false) : State :=
  match s.ctxOn t with
  | none => s
  | some c =>
    let e := s.engOf c t
    let m := e.mule
    match m.active with
    | none => s
    | some p =>
      let d := m.descOf p.entry
      let x := m.extOf p.entry
      if !p.begun || decide (mdPanels d ≤ p.panel) then s
      else if !saving && !e.outMule.isEmpty then s.count t (MVP_OUT_FULL.out_full_cycles t) 1
      else
        let s := s.checkedRead c t (s.panelSpan c t m p)
        if s.cst c ≠ stRunning then s
        else
        let esc := if extOn x then (List.range (mdBeats d)).map fun b => s.beatEscapes c t d x p.panel b else []
        let groups := esc.foldl (· + ·) 0
        let beats := (esc.filter (· != 0)).length
        let s := if groups = 0 then s else
          let s := s.wr (SPR_STATUS.density_violation t) 1
          let strict := s.on (SPR_CTRL.strict t)
          let s := s.count t (SPR_ESC_GROUPS.escape_groups t) (if strict then 1 else groups)
          if strict then s.tileFault t 0x2701 2 else s.count t (SPR_ESC_BEATS.escape_beats t) beats
        if s.cst c ≠ stRunning then s
        else
          let s := s.runDown c t
          let m := (s.engOf c t).mule
          let cells := (List.range (mdVectors d)).map fun v => (List.range 48).map fun l => s.muleCell c t m p l v
          let flags := (cells.flatMap id).foldl (fun f x => f ||| x.2) 0
          let s := if extOn x then s.count t (SPR_SPARSE_BEATS.sparse_beats t) (mdBeats d) else s
          let s := s.modEng c t fun e => { e with mule := { e.mule with
            active := some { p with panel := p.panel + 1 }, escapes := m.escapes + beats } }
          let s := (s.numFlags t flags 0).wr (MVP_STATUS.panel t) (p.panel + 1)
          s.panelOut c t d p.panel (cells.map fun v => v.map (·.1))

def execMulePanelComplete (tile : Nat) (s : State) : Result := .next (if s.up then s.mulePanel tile else s)

/-- The largest enabled rank of a pass. -/
def Mule.maxRank (m : Mule) (p : MulePass) : Nat :=
  let d := m.descOf p.entry
  (List.range (mdVectors d)).foldl (fun r v => match m.adapter d p.set v with | some a => Max.max r (bits a 40 7) | none => r) 0

/-- MULE_PASS_COMPLETE (R128, R129): every panel has completed; the queued start becomes the active pass. -/
def State.mulePassEnd (s : State) (t : Nat) (stalls : Stalls) : State :=
  match s.ctxOn t with
  | none => s
  | some c =>
    let e := s.engOf c t
    let m := e.mule
    match m.active with
    | none => s
    | some p =>
      let d := m.descOf p.entry
      if !p.begun || decide (p.panel < mdPanels d) then s
      else
        let r := m.maxRank p
        let k := mdBeats d * mdWidth d (extOn (m.extOf p.entry))
        let adapt := if r = 0 then 0 else (r * k + 1535) / 1536 + mdPanels d * ((r + 31) / 32)
        let s := s.setEng c t { e with mule := { m with active := m.queued, queued := none, hv := none } }
        let s := ((s.wr (MVP_STATUS.active t) (bit m.queued.isSome)).wr (MVP_STATUS.queued t) 0).wr (MVP_STATUS.phase t) 0
        let s := s.showPass t m.queued
        let s := (s.count t (MVP_PASSES.passes t) 1).count t (MVP_ADAPTER.adapter_cycles t) adapt
        let s := s.count t (MVP_BEATS.beat_cycles t) ((mdPanels d * mdBeats d + m.escapes) * (48 / mdLines d))
        s.count t (MVP_BANK_WAIT.bank_wait_cycles t) stalls.wait1

def execMulePassComplete (tile : Nat) (stalls : Stalls) (s : State) : Result :=
  .next (if s.up then s.mulePassEnd tile stalls else s)

end Sys2Proof.Machine
end

