-- ==== Sys2Proof/Machine/Live.lean ====
section
/-! DEFINITION. What time alone moves between two commands: counters of cycles and frames that no row of the table reports, and views of a
unit at work. When they are read they have advanced, or show, by open amounts within the spec's bounds: free values (DESIGN CHOICE, log
44). -/

namespace Sys2Proof.Machine

/-- The counters of a register that advance with time: denied bank grants, waits at the networks' levels, the limiter's periods (Tables
5-12, 10-7, 10-11, 18-13), a port's frames, FEC words and PAUSE frames (Table 17-9). -/
def timedCounters (a : Nat) : List RF :=
  let off := addrOffset a
  match addrSpace a with
  | 1 => if (0x40 ≤ off ∧ off ≤ 0x80) ∨ (0x2010 ≤ off ∧ off ≤ 0x2040) ∨ off = 0x2408 then [⟨a, 0, 64⟩] else []
  | 3 => if 0x3000 ≤ off ∧ off ≤ 0x3020 then [⟨a, 0, 64⟩] else []
  | 4 => if off = 0x30 ∨ off = 0x38 then [⟨a, 0, 64⟩] else []
  | 5 => if off = 0x100 ∨ off = 0x108 then [⟨a, 32, 32⟩, ⟨a, 0, 32⟩] else if off = 0x110 then [⟨a, 48, 16⟩] else []
  | _ => []

/-- The engine state of the context that runs on a tile. -/
def State.engHere (s : State) (t : Nat) : Eng := match s.ctxOn t with | some c => s.engOf c t | none => {}

/-- What a register's counter counts goes on now: its requester is at work, a line or a request waits, the limiter holds periods, a link
carries frames. -/
def State.countsNow (s : State) (a : Nat) : Bool :=
  let off := addrOffset a
  let t := addrIndex a
  let e := s.engHere t
  match addrSpace a with
  | 1 =>
    if off ≤ 0x80 then e.requests ((off - 0x40) / 8)
    else if off < 0x2030 then (match s.ctxOn t with | some c => s.meshWaits c t ((off - 0x2010) / 8) | none => false)
    else if off < 0x2040 then (match s.ctxOn t with
      | some c => s.nextInject c t == some (if off = 0x2038 then LaneEnd.seamFull else LaneEnd.held)
      | none => false)
    else if off = 0x2040 then e.flight.any AccessFlight.waits
    else decide (0 < s.rd PWR_STATUS.limiter_level) || (match s.pwr.limitSeen with | some l => !l.contains t | none => false)
  | 3 => off == 0x3020 && (s.net.waiting.any (fun e => tileField e.1 == t) || s.net.parked.any (fun e => tileField e.1 == t) ||
      s.eng.any fun e => tileField (e.1 % 4096) == t && (s.drainers (e.1 % 4096)).any fun q => s.waitsGated (e.1 % 4096) q.2)
  | 5 => s.rd (PRT_STATUS.link_state t) == 3
  | _ => false

/-- A counter after an open amount of time, where what it counts has gone on since it was last read; a tile's counters stand while they
are frozen (R115), but for the moment at which they freeze (`force`). -/
def State.elapse (s : State) (f : RF) (force : Bool := false) : State :=
  if !(s.net.stirred.contains f.addr || s.countsNow f.addr) then s
  else
    let r := s.free 32
    let s := if addrSpace f.addr = 1 ∧ !force then r.2.count (addrIndex f.addr) f r.1 else r.2.inc f r.1
    let s := { s with net := { s.net with stirred := s.net.stirred.filter (· != f.addr) } }
    if addrSpace f.addr = 1 ∧ addrOffset f.addr = 0x2408 then
      { s with pwr := { s.pwr with limitSeen := s.pwr.limitSeen.map fun l => addrIndex f.addr :: l } }
    else s

/-- A field shows some value from `lo` to `lo + n - 1`. -/
def State.show_ (s : State) (f : RF) (lo n : Nat) : State :=
  let r := s.free 32
  r.2.wr f (lo + r.1 % Max.max 1 n)

/-! ### TIL_STATE.run_state (Table 5-9) -/

/-- A context of the partition is being loaded: its image is open, or shards land in a set or an adapter of it. -/
def State.loading (s : State) (p : Nat) : Bool :=
  (s.partCtxs p).any fun c => (s.ctx c).image.isSome || s.wgt.builds.any fun b => b.ctx == c

/-- What a tile at work on nothing may show: idle, or loading program or data; saving or restoring while an eviction is in progress. -/
def State.restStates (s : State) (t : Nat) : List Nat :=
  match s.partOf t with
  | some p => [0] ++ (if s.loading p then [1] else []) ++ (if s.on (PAR_PART_STATUS.evicting p) then [4, 5] else [])
  | none => [0]

/-- The run states a logical position may show: one, but where the spec does not say which. -/
def State.runStates (s : State) (t : Nat) : List Nat :=
  if s.gated (tileField t) (tileRow t) then [6]
  else match s.ctxOn t with
    | some c =>
      if !s.hasWork c t then s.restStates t
      else match s.rd (INS_STATUS.stream t) with
        | 7 => [7]
        | 6 => s.restStates t
        | _ => if (s.ctx c).step.isNone then s.restStates t else if (s.engOf c t).rdvWait.isSome then [3] else [2]
    | none => if s.rd (INS_STATUS.stream t) = 7 ∧ s.cst (s.rd (TIL_STATE.context t)) = stTeardown then [7] else s.restStates t

/-- A logical position as TIL_STATE shows it: the state last seen, while it may still be shown. -/
def State.runState (s : State) (t : Nat) : Nat :=
  let o := s.runStates t
  let v := s.rd (TIL_STATE.run_state t)
  if o.contains v then v else o.headD 0

/-- It is seen: one of those it may show. -/
def State.seeRunState (s : State) (t : Nat) : State :=
  let o := s.runStates t
  let r := s.free 32
  r.2.wr (TIL_STATE.run_state t) (o.getD (r.1 % Max.max 1 o.length) 0)

/-! ### The array and the mule at work (Tables 5-13, 5-14 and 6-7) -/

/-- What has run since is open: the array operation goes on by an open amount before its registers are seen. -/
def State.arrayWent (s : State) (t : Nat) : State := match s.ctxOn t with | some c => s.arrayMoves c t | none => s

/-- Lines of a group that a feeder's queues hold. -/
def State.queueLines (s : State) (c t : Nat) (b : Bool) (g : Nat) : Nat :=
  match (s.engOf c t).feed b 0 false with
  | none => 0
  | some f =>
    (f.lines.length + f.groups - 1 - g) / f.groups - (match (s.engOf c t).running? with
      | some p => p.spentBy (s.operands c t p) b g p.op.pos
      | none => 0)

/-- Beats of an operation that have left a queue, where its units say (an unstructured product issues as many as its operands share). -/
def Product.beatsOut (p : Product) : Option Nat :=
  if p.ew then some p.op.pos
  else if p.sp = 2 then none
  else some (p.op.pos * p.perUnit / (if p.wide then 2 else 1) / (if p.sp = 1 then 2 else 1) )

/-- Entries that each queue of a group holds: two to a line, less those of the line or square at its head that have left; open below that for
2:4 and entry lines, of which some are no beats (free). -/
def State.queueLevel (s : State) (c t : Nat) (b : Bool) (g : Nat) : Nat × State :=
  let e := s.engOf c t
  let n := 2 * s.queueLines c t b g
  match e.running? with
  | none => (min 32 n, s)
  | some p =>
    let f := if b then p.b else p.a
    if !p.ew && (p.sp == 2 || (p.sp == 1 && b)) then let r := s.free 8; (r.1 % (min 32 n + 1), r.2)
    else
      let out := if p.ew then p.op.pos else p.op.pos * p.perUnit / (f.perBeats / 2)
      (min 32 (n - out % (if f.tr then 64 else 2)), s)

/-- The groups of a feeder that may be dry: those of a running operation that hold no entry. -/
def State.dryGroups (s : State) (c t : Nat) (b : Bool) : Nat :=
  if (s.engOf c t).running?.isNone then 0
  else (List.range (if b then 8 else 2)).foldl (fun m g => m + (if s.queueLines c t b g = 0 then 2 ^ g else 0)) 0

/-- ARY_STATUS: the spread of the lines, its delay so far and its dry groups while a product runs, and whether the drain holds results. -/
def State.seeArray (s : State) (t : Nat) : State :=
  let s := s.arrayWent t
  match s.ctxOn t with
  | none => s
  | some c =>
    let e := s.engOf c t
    let runs := e.running?.any fun p => !p.ew
    let s := s.show_ (ARY_STATUS.spread t) 0 (if runs then 5 else 1)
    let r := s.free 32
    let s := (r.2.wr (ARY_STATUS.dry_col_groups t) (r.1 % 256 &&& s.dryGroups c t true)).wr (ARY_STATUS.dry_row_groups t)
      (r.1 / 256 % 4 &&& s.dryGroups c t false)
    let s := if runs then let x := s.free 8; x.2.inc (ARY_STATUS.array_slip t) x.1 else s
    if !e.outDrain.isEmpty then s.wr (ARY_STATUS.drain_busy t) 1
    else s.show_ (ARY_STATUS.drain_busy t) 0 (if e.running?.isSome ∨ !e.tails.isEmpty then 2 else 1)

/-- ARY_QUEUE_DATA of the queue selected: its level, the lowest since the selection, which may have been lower while an operation runs, the
beat at its head, dryness and lag. -/
def State.seeQueue (s : State) (t : Nat) : State :=
  let s := s.arrayWent t
  match s.ctxOn t with
  | none => ((s.wr (ARY_QUEUE_DATA.level t) 0).wr (ARY_QUEUE_DATA.low_water t) 0).wr (ARY_QUEUE_DATA.dry t) 0
  | some c =>
    let b := s.on (ARY_QUEUE_SEL.feeder t)
    let e := s.engOf c t
    let runs := e.running?.isSome
    let x := s.queueLevel c t b (s.rd (ARY_QUEUE_SEL.queue t) / 64)
    let s := x.2.wr (ARY_QUEUE_DATA.level t) x.1
    let low := min x.1 (s.rd (ARY_QUEUE_DATA.low_water t))
    let s := if runs then s.show_ (ARY_QUEUE_DATA.low_water t) 0 (low + 1) else s.wr (ARY_QUEUE_DATA.low_water t) low
    let s := s.show_ (ARY_QUEUE_DATA.lag t) 0 (if runs then 5 else 1)
    let s := match e.running? with
      | some p => (match p.beatsOut with
        | some n => s.wr (ARY_QUEUE_DATA.head_beat t) (n - s.rd (ARY_QUEUE_DATA.lag t))
        | none => s.show_ (ARY_QUEUE_DATA.head_beat t) 0 (2 ^ 32))
      | none => s.wr (ARY_QUEUE_DATA.head_beat t) 0
    s.show_ (ARY_QUEUE_DATA.dry t) 0 (if x.1 = 0 ∧ runs then 2 else 1)

/-- MVP_STATUS: the phase of the active pass, waiting until it has begun, down and up only with adapters, down only before the first panel
or after a restore (R131, R132), and the beat within the panel; while one panel's results are sent the beats of the next issue (R124). -/
def State.seeMule (s : State) (t : Nat) : State :=
  let e := s.engHere t
  match e.mule.active with
  | none => (s.wr (MVP_STATUS.phase t) 0).wr (MVP_STATUS.beat t) 0
  | some p =>
    let d := e.mule.descOf p.entry
    if !p.begun then (s.wr (MVP_STATUS.phase t) 5).wr (MVP_STATUS.beat t) 0
    else
      let o := (if mdPanels d ≤ p.panel then [] else (if mdAdapt d && (p.panel == 0 || e.mule.hv.isNone) then [1] else []) ++
        (if mdAdapt d then [3] else []) ++ [2]) ++ [4, 5]
      let r := s.free 32
      (r.2.wr (MVP_STATUS.phase t) (o.getD (r.1 % o.length) 2)).show_ (MVP_STATUS.beat t) 0 (mdBeats d)

/-- A register about to be read. -/
def State.observe (s : State) (a : Nat) : State :=
  let s := (timedCounters a).foldl (fun s f => s.elapse f) s
  let t := addrIndex a
  if addrSpace a ≠ 1 then s
  else match addrOffset a with
    | 0x8 => s.seeRunState t
    | 0xC00 => s.seeArray t
    | 0xC48 => s.seeQueue t
    | 0xE00 => if isF t then s.seeMule t else s
    | _ => s

/-- The tile's counters advance to the moment at which they are frozen. -/
def State.elapseTile (s : State) (t : Nat) : State :=
  ([0x40, 0x48, 0x50, 0x58, 0x60, 0x68, 0x70, 0x78, 0x80, 0x2010, 0x2018, 0x2020, 0x2028, 0x2030, 0x2038, 0x2040, 0x2408].map (tileReg t)).foldl
    (fun s a => s.elapse ⟨a, 0, 64⟩ true) s

end Sys2Proof.Machine
end

