-- ==== Sys2Proof/Machine/Parts.lean ====
section
/-! DEFINITION. Objects that travel in parts (R419), and the encryption of an attested context's replies (R425). -/

namespace Sys2Proof.Machine

/-- The part of an outbound object at an offset: offset, total and up to `n` bytes. -/
def outPartOf (n : Nat) (obj : Bytes) (off : Nat) : Bytes := leB 4 off ++ leB 4 obj.length ++ slice obj off n

/-- A part of up to 4,088 bytes (R419). -/
def outPart (obj : Bytes) (off : Nat) : Bytes := outPartOf 4088 obj off

/-- The length of an inbound part fits its data. -/
def partLen (h : Hdr) (data : Bytes) : Bool := h.length == 8 + data.length && decide (data.length ≤ 4088)

/-- An inbound part's assembly: where it stands for its channel, opcode and context. -/
def State.assembly (s : State) (h : Hdr) (op : Nat) : Option Assembly :=
  s.sec.parts.find? fun a => a.channel == h.channel && a.op == op && a.context == h.context

/-- The assembly of a channel, opcode and context replaced or dropped. -/
def State.setAssembly (s : State) (h : Hdr) (op : Nat) (a : Option Assembly) : State :=
  { s with sec := { s.sec with parts :=
    a.toList ++ s.sec.parts.filter fun x => !(x.channel == h.channel && x.op == op && x.context == h.context) } }

/-- What an inbound part comes to: it is refused and its assembly discarded; it is kept and more is to come; or it ends the object. -/
inductive PartOutcome where
  | refused
  | more
  | whole (obj : Bytes)
deriving DecidableEq, Repr

/-- An inbound part taken in (R419). -/
def State.takePart (s : State) (h : Hdr) (op off total : Nat) (data : Bytes) : PartOutcome × State :=
  let old := s.assembly h op
  let fits : Option Bytes := match old with
    | some a =>
      if off = a.data.length ∧ total = a.total ∧ s.hall ≤ a.last + 10000000000 ∧ off ≠ 0 then some a.data
      else if off = 0 ∧ a.data.isEmpty then some [] else none
    | none => if off = 0 then some [] else none
  match fits with
  | none => (.refused, s.setAssembly h op none)
  | some have_ =>
    let all := have_ ++ data
    if total < all.length ∨ (data.isEmpty ∧ all.length < total) then (.refused, s.setAssembly h op none)
    else if all.length = total then (.whole all, s.setAssembly h op none)
    else (.more, s.setAssembly h op (some ⟨h.channel, op, h.context, total, all, s.hall⟩))

/-- The check of a command that carries an object in parts (R343, R419): a part refused is 0x0190, and the part that ends the object has the
status that `judge` gives the object. A part behind another of its object that the firmware still holds is judged when its turn comes. -/
def State.partCheck (s : State) (h : Hdr) (op off total : Nat) (data : Bytes) (judge : State → Bytes → Nat) : Nat :=
  if s.cmd.runtime.any fun r => r.hdr.channel == h.channel && r.op == op && r.hdr.context == h.context then 0
  else
    let r := s.takePart h op off total data
    match r.1 with
    | .refused => 0x0190
    | .more => 0
    | .whole obj => judge r.2 obj

/-- A command whose refusal leaves `f` besides. -/
def Fw.discarding (w : Fw) (f : State → State) : Fw := { w with onRefusal := fun st s => w.onRefusal st (f s) }

/-- A command that carries an object in parts: answered 0x0000 while more is to come, and with the object's own effect at its end; what the
check refuses discards its assembly (R419), and `count` counts it. -/
def partFw (h : Hdr) (op : Nat) (lenOk : Bool) (sc : Scope) (off total : Nat) (data : Bytes) (judge : State → Bytes → Nat)
    (act : State → Bytes → State) (count : Nat → State → State := fun _ s => s) : Fw :=
  { op := op, lenOk := lenOk, scope := sc, check := fun s => s.partCheck h op off total data judge,
    act := fun s =>
      let r := s.takePart h op off total data
      match r.1 with
      | .refused => r.2.reply h op 0x0190
      | .more => r.2.reply h op 0
      | .whole obj =>
        let st := judge r.2 obj
        if st ≠ 0 then (count st r.2).reply h op st else act r.2 obj,
    onRefusal := fun st s => count st (s.takePart h op off total data).2 }

/-- The session secret of an attested context (R425). -/
def State.bindSecret (s : State) (c : Nat) : Bytes :=
  ((s.sec.sessions.find? fun x => x.ctx == c && x.bound).bind (·.secret)).getD []

/-- A reply's data for a context: as they are, or, while the context is attested, what follows the first `pre` bytes encrypted, with
the reply counter and the tag appended (R425). -/
def State.seal (s : State) (c pre : Nat) (b : Bytes) : Bytes × State :=
  if !s.on (SEC_CTX.attested c) then (b, s)
  else
    let n := ((s.sec.results.find? fun e => e.1 == c).map (·.2)).getD 0
    let key := hkdf (s.bindSecret c) (ascii "KGW7 result") []
    let ct := Config.aesGcm key (leB 4 0 ++ leB 8 n) (b.take pre) (b.drop pre)
    (b.take pre ++ padTo (b.length - pre) ct.1 ++ leB 8 n ++ padTo 16 ct.2,
     { s with sec := { s.sec with results := (c, n + 1) :: s.sec.results.filter fun e => e.1 != c } })

end Sys2Proof.Machine
end

