-- ==== Sys2Proof/Machine/Steps.lean ====
section
/-! DEFINITION. A context's step: its start at a boundary (R184, R90), its end, the step-end event and the slowdown record (R332). -/

namespace Sys2Proof.Machine

/-- The tiles where a context has work. -/
def State.workTiles (s : State) (c : Nat) : List Nat := (s.partTiles (s.cpart c)).filter (s.hasWork c)

/-- A tile stands at the first words of an entry; `fresh` at a step's start, when its cycle counts and rounding lanes start anew, not at a
second run (R91, R291). -/
def State.startTile (s : State) (c t entry : Nat) (fresh : Bool) : State :=
  match s.sliceOf c t with
  | none => s
  | some sl =>
    let s := ((s.wr (INS_STATUS.stream t) 1).wr (INS_STATUS.pc t) (sl.entryPc.getD entry 0)).wr (INS_STATUS.access_pc t)
      (sl.entryAc.getD entry 0)
    let s := s.wr (INS_STATUS.ra_ended t) 0
    let s := s.modEng c t fun e => { e with loops := [], ended := false }
    if fresh then
      (s.modEng c t fun e => { e with rng := [], lastAt := 0, holdX := 0, holdS := 0, holdP := 0 }).schedule c t 0 0
    else s

/-- Every tile with a non-empty slice starts (R184). A tile whose tick start cannot cross (crossing 5 stopped) starts when it is delivered
(R231, R235). -/
def State.startEntry (s : State) (c entry : Nat) (fresh : Bool) : State :=
  (s.workTiles c).foldl (fun s t =>
    let x := s.crossing 5 t
    if fresh && x.stopped then
      (s.wr (INS_STATUS.stream t) 0).setCrossing { x with ahead := (x.ahead + 1) % 2 ^ 32 }
    else s.startTile c t entry fresh) s

/-- A context's step begins at the present boundary. -/
def State.startStep (s : State) (c : Nat) (r : StepRun) : State :=
  let s := s.modCtx c fun k => { k with step := some r, arrivals := [], rng := [] }
  s.startEntry c r.entry true

/-- Every tile's step has ended (R184). -/
def State.allEnded (s : State) (c : Nat) : Bool := (s.workTiles c).all fun t => s.rd (INS_STATUS.stream t) == 6

/-- `round(17 n / 10)`, to nearest. -/
def round17 (n : Nat) : Nat := (17 * n + 5) / 10

/-- The largest count over a context's tiles. -/
def State.mostOf (s : State) (c : Nat) (f : Eng → Nat) : Nat := (s.workTiles c).foldl (fun m t => Max.max m (f (s.engOf c t))) 0

/-- The slowdown record of a step that ends (Table 15-5). -/
def State.slowdownRecord (s : State) (c : Nat) (r : StepRun) : Bytes × State :=
  let dur := s.hall - r.start
  let predicted := match (s.ctx c).program with | some g => g.schedule.getD r.entry 0 | none => 0
  let measured := (s.workTiles c).foldl (fun m t => Max.max m (s.rd (INS_SCHED.step_cycle t))) 0
  let x := s.mostOf c (·.holdX)
  let k := s.mostOf c (·.holdS)
  let p := s.mostOf c (·.holdP)
  let z := s.free 16
  let slow := if predicted = 0 then z.1 else (2 * 1700 * dur + predicted) / (2 * predicted)
  let s := if predicted = 0 then z.2 else s
  (leB 8 r.tick ++ leB 8 dur ++ leB 4 predicted ++ leB 4 measured ++ leB 4 x ++ leB 4 k ++ leB 4 p ++
    leB 4 (round17 dur - measured) ++ leB 4 (measured - predicted - x - k - p) ++ leB 2 slow ++ leB 1 r.entry ++ leB 1 c ++
    leB 1 (s.cpart c) ++ leB 1 (bit r.saved + 2 * bit r.held + 4 * bit (r.attempt != 0)) ++ leB 2 r.switches ++ leB 12 0, s)

/-- The record of a step that ends: kept, and sent as an event, where the context reports. -/
def State.reportStep (s : State) (c : Nat) (r : StepRun) : State :=
  let q := s.slowdownRecord c r
  let s := q.2.modCtx c fun k => { k with slowdown := (q.1 :: k.slowdown).take 16 }
  if s.on (PAR_CTX_CFG.report_en c) then s.event 5 none (s.cpart c) c q.1 else s

/-- The completion event of a step (Table 16-7). -/
def State.stepEvent (s : State) (c : Nat) (r : StepRun) : State :=
  s.event 1 none (s.cpart c) c (leB 8 r.entry ++ leB 8 r.attempt ++ leB 8 r.tick)

/-- A context is in its present partition's rectangle and running, so that a step of it may start. -/
def State.canStep (s : State) (c : Nat) : Bool :=
  s.cst c == stRunning && s.running (s.cpart c) == some c && (s.ctx c).step.isNone && s.rd (PAR_PART_CFG.state (s.cpart c)) == 2 &&
    !s.on (PAR_PART_STATUS.evicting (s.cpart c)) && !s.on FLT_STATE.module_faulted

end Sys2Proof.Machine
end

