-- ==== Sys2Proof/Machine/Roster.lean ====
section
/-! DEFINITION. Training: the roster node descriptor (R242), the training step and its input log (R354, R455 to R463), contributions,
void requests and verdicts (R255 to R264), and input-log mirroring (R385, R460). -/

namespace Sys2Proof.Machine

/-! ### The roster node descriptor (Table 12-2) -/

def nodeDigest (n : Bytes) : Bytes := slice n 0 32
def nodeMember (n : Bytes) : Nat := leAt n 32 2
def nodeMembers (n : Bytes) : Nat := leAt n 34 2
def nodeDepth (n : Bytes) : Nat := leAt n 36 1
def nodeChildren (n : Bytes) : Nat := leAt n 37 1
def nodeParent (n : Bytes) : Nat := leAt n 40 2
def nodeChild (n : Bytes) (i : Nat) : Nat := leAt n (42 + 2 * i) 2
def nodeMargin (n : Bytes) : Nat := leAt n 72 4
def nodeWait (n : Bytes) : Nat := leAt n 76 4
def nodeSize (n : Bytes) : Nat := leAt n 96 8

/-- The ranges of units that a descriptor's carry buffers and windows take. -/
def nodeRanges (n : Bytes) : List (Nat × Nat) :=
  if nodeSize n = 0 then [] else [80, 88, 104, 112].map fun o => (leAt n o 8, nodeSize n)

/-- No two ranges of a list overlap. -/
def disjointRanges : List (Nat × Nat) → Bool
  | [] => true
  | a :: t => t.all (fun b => !overlap a.1 a.2 b.1 b.2) && disjointRanges t

/-- A descriptor's fields lie in their ranges: the root stands at depth 0 with no parent, the children named are those counted. -/
def nodeFieldsOk (n : Bytes) : Bool :=
  decide (nodeMember n ≤ 16383) && decide (1 ≤ nodeMembers n) && decide (nodeMembers n ≤ 16384) && decide (nodeDepth n ≤ 15) &&
    decide (nodeChildren n ≤ 14) && decide (leAt n 38 2 = 0) && decide (leAt n 70 2 = 0) && decide (leAt n 120 8 = 0) &&
    decide (1000 ≤ nodeMargin n) && decide (nodeMargin n ≤ 10000000) && decide (100 ≤ nodeWait n) && decide (nodeWait n ≤ 1000000) &&
    (nodeParent n == 0xFFFF) == (nodeDepth n == 0) && (nodeParent n == 0xFFFF || decide (nodeParent n < 4096)) &&
    (List.range 14).all fun i => if i < nodeChildren n then decide (nodeChild n i < 4096) else nodeChild n i == 0xFFFF

def checkRosterTree (c : Nat) (n : Bytes) (s : State) : Nat :=
  if !nodeFieldsOk n || !disjointRanges (nodeRanges n) ||
      (nodeRanges n).any fun r => decide (s.stackSpace (s.cpart c) < 256 * (r.1 + r.2)) then 0x0104
  else 0

/-- ROSTER_TREE (R242, R355): the descriptor is loaded into the context. -/
def fwRosterTree (h : Hdr) (descriptor : Bytes) : Fw :=
  ⟨0x0603, h.length == 128 && descriptor.length == 128, .context, checkRosterTree h.context descriptor,
    fun s => (s.modCtx h.context fun k => { k with node := some descriptor }).reply h 0x0603 0, fun _ s => s⟩

def execRosterTree (h : Hdr) (descriptor : Bytes) (s : State) : Result :=
  .next (s.fwCommand h (fwRosterTree h descriptor) (.rosterTree h descriptor))

/-! ### Who is where -/

/-- A control message to a peer. -/
def State.tell (s : State) (peer ctype : Nat) (body : Bytes) : State := s.sendCtrl (s.ctrlPort peer) peer ctype body

/-- The peer of a stream handle. -/
def State.peerOf (s : State) (handle : Nat) : Option Nat := (s.stream handle).map (·.peerAddr)

/-- The member at the far end of a stream, by its roster address; open where the roster does not hold it (free). -/
def State.memberAt (s : State) (c handle : Nat) : Nat × State :=
  let r := s.rosterOf c
  match (s.peerOf handle).bind fun a => (List.range (r.length / 32)).find? fun i => rosterAddr r i == a with
  | some i => (i, s)
  | none => s.free 16

/-- The address, from the roster, of the member at the far end of a stream: reduction messages are addressed by it (R374). -/
def State.memberAddr (s : State) (c handle : Nat) : Option Nat :=
  let r := s.rosterOf c
  (s.peerOf handle).bind fun a => ((List.range (r.length / 32)).find? fun i => rosterAddr r i == a).map (rosterAddr r)

/-- The context whose node descriptor holds a roster digest (R374). -/
def State.ctxOfRoster (s : State) (d : Bytes) : Option Nat :=
  (List.range 128).find? fun c => match (s.ctx c).node with | some n => nodeDigest n == d | none => false

/-- The training step of a context, while it runs or awaits its verdict. -/
def State.modTrain (s : State) (c : Nat) (f : Train → Train) : State := s.modCtx c fun k => { k with train := k.train.map f }

/-! ### Verdicts (R255, R259 to R264) -/

/-- The body of a reduction message (Table 17-5). -/
def redBody (digest : Bytes) (fields : List Nat) : Bytes := digest ++ fields.flatMap (leB 8)

/-- A verdict sent on to every child. -/
def State.toChildren (s : State) (c : Nat) (body : Bytes) : State :=
  match (s.ctx c).node with
  | none => s
  | some n => (List.range (nodeChildren n)).foldl (fun s i =>
      match s.memberAddr c (nodeChild n i) with | some a => s.tell a 0x21 body | none => s) s

/-- The outstanding fabric words of a context's voided attempt complete without moving data; those of a serving step that runs meanwhile go
on (R470). -/
def State.killFabric (s : State) (c : Nat) : State :=
  match (s.ctx c).train with
  | some x => s.endWords c fun f => (awOp f.word == 6 || awOp f.word == 7) && f.of_ == some (x.req.step, x.attempt)
  | none => s

/-- A confirmation received (R146, R256, R264, R354): the carry buffers change over, new patterns become current, and the command
completes. -/
def State.confirmed (s : State) (c : Nat) (x : Train) : State :=
  let s := ((s.wr (RED_STATUS.verdict c) 1).wr (RED_STATUS.verdict_wait c) 0).wr (RED_STATUS.consecutive_voids c) 0
  let s := (s.wr (RED_STATUS.carry_cur c) (1 - s.rd (RED_STATUS.carry_cur c))).inc (RED_COUNTS.confirms c) 1
  let s := s.modCtx c fun k => { k with
    train := none, masks := k.masks.map fun m => if m.scored then { m with cur := 1 - m.cur, held := true, scored := false } else m }
  s.reply x.hdr 0x0601 0

/-- What the streams of a context's children have brought of an attempt that is voided, and no word has taken, is dropped (R261). -/
def State.dropChildren (s : State) (c : Nat) : State :=
  let n := (s.ctx c).node.getD []
  (List.range (nodeChildren n)).foldl (fun s i => match s.stream (nodeChild n i) with
    | some x => if x.ctx = c ∧ x.kind = 0 then s.setStream { x with ready := [] } else s
    | none => s) s

/-- A void received (R260): the attempt's fabric words end without data; its step runs on, and its repeat is due. -/
def State.voided (s : State) (c cause named : Nat) : State :=
  let s := ((s.wr (RED_STATUS.verdict c) 2).wr (RED_STATUS.reason c) cause).wr (RED_STATUS.offender c) named
  let s := (s.wr (RED_STATUS.verdict_wait c) 0).inc (RED_COUNTS.voids c) 1
  let s := (((s.inc (RED_STATUS.consecutive_voids c) 1).killFabric c).dropChildren c).payWaiting (s.cpart c)
  (s.modTrain c fun x => { x with voided := true }).modCtx c fun k => { k with masks := k.masks.map fun m => { m with scored := false } }

/-- An abandonment received (R264, R354): the command completes with 0x0701 and the context is torn down. -/
def State.abandonStep (s : State) (c cause named : Nat) (x : Train) : State :=
  let s := s.voided c cause named
  let s := ((s.wr (RED_STATUS.verdict c) 3).wr (RED_STATUS.abandoned c) 1).reply x.hdr 0x0601 0x0701
  s.fault 0x2C10 2 0 0 (some c) (some (s.cpart c)) []

/-- A verdict takes effect on the member that receives it; every hop forwards it first. -/
def State.takeVerdict (s : State) (c : Nat) (x : Train) (v cause named : Nat) : State :=
  let n := (s.ctx c).node.getD []
  let s := s.toChildren c (redBody (nodeDigest n) [x.req.step, x.attempt, v, cause, named])
  if v = 1 then s.confirmed c x
  else if v = 2 then s.voided c cause named
  else if v = 3 then s.abandonStep c cause named x
  else s

/-- A root that has confirmed an attempt sends its reduced gradient to the weight servers (R259): the blocks that passed its root check,
one message each, on the context's weight streams for sending (DESIGN CHOICE, log 54: R259 names no stream). -/
def State.sendGradient (s : State) (c : Nat) (x : Train) : State :=
  let out := s.fab.streams.filter fun y => y.ctx == c && y.direction == 0 && y.kind == 1
  out.foldl (fun s y => x.reduced.foldl (fun s b =>
    match s.stream y.handle with | some z => s.sendMessage z b | none => s) s) s

/-- The root gives its verdict on an attempt and keeps it (R259); a third void in a row is an abandonment (R264). -/
def State.giveVerdict (s : State) (c : Nat) (x : Train) (v cause named : Nat) : State :=
  let v := if v = 2 ∧ 2 ≤ s.rd (RED_STATUS.consecutive_voids c) then 3 else v
  let s := if v = 1 then s.sendGradient c x else s
  let s := s.modCtx c fun k => { k with
    verdicts := ((⟨x.req.step, x.attempt, v, cause, named⟩ : Verdict) :: k.verdicts).take 8 }
  s.takeVerdict c x v cause named

/-- A context is its roster's root. -/
def nodeIsRoot (n : Bytes) : Bool := nodeParent n == 0xFFFF

/-- A void is asked for the running attempt of a training step (R255, R258): the root voids it; any other member asks up the tree. -/
def State.askVoid (s : State) (c cause named : Nat) : State :=
  match (s.ctx c).node, (s.ctx c).train with
  | some n, some x =>
    if x.voided then s
    else if nodeIsRoot n || nodeMembers n == 1 then s.giveVerdict c x 2 cause named
    else match s.memberAddr c (nodeParent n) with
      | some a => s.tell a 0x20 (redBody (nodeDigest n) [x.req.step, x.attempt, nodeMember n, cause, named])
      | none => s
  | _, _ => s

/-- A void is asked by this member for a failure of its own; a serving step asks for none (R471). -/
def State.askOwnVoid (s : State) (c cause : Nat) : State :=
  match (s.ctx c).step, (s.ctx c).node with
  | some r, some n => if r.training then s.askVoid c cause (nodeMember n) else s
  | _, _ => s

/-- VOID_REQUEST: the root voids the attempt it judges; a hop passes the request up. -/
def State.voidRequest (s : State) (m : RedMsg) : State :=
  match s.ctxOfRoster m.rosterDigest with
  | none => s
  | some c =>
    let n := (s.ctx c).node.getD []
    if nodeIsRoot n then
      match (s.ctx c).train with
      | some x => if x.req.step = m.step ∧ x.attempt = m.attempt ∧ !x.voided then s.giveVerdict c x 2 m.cause m.named else s
      | none => s
    else match s.memberAddr c (nodeParent n) with
      | some a => s.tell a 0x20 (redBody m.rosterDigest [m.step, m.attempt, m.member, m.cause, m.named])
      | none => s

def execVoidRequest (peer id : Nat) (msg : RedMsg) (s : State) : Result :=
  .next (s.ctrlOnce peer id (.voidRequest peer id msg) fun s => s.voidRequest msg)

/-- The attempt that a verdict falls on: the one running or awaited, or, at a member that has not begun its repeat yet because its context is
held (R474), a later attempt of the same step, which it misses: that void or abandonment is its own too (DEDUCED, log 70). -/
def awaits (x : Train) (m : RedMsg) : Option Train :=
  if x.req.step ≠ m.step then none
  else if x.attempt = m.attempt ∧ !x.voided then some x
  else if x.voided ∧ x.attempt < m.attempt ∧ m.verdict ≠ 1 then some { x with attempt := m.attempt }
  else none

/-- VERDICT: of the attempt that is running or awaited it takes effect; any other is discarded as stale (R261). -/
def State.verdictMsg (s : State) (m : RedMsg) : State :=
  match s.ctxOfRoster m.rosterDigest with
  | none => s
  | some c =>
    match (s.ctx c).train with
    | some x => match awaits x m with
      | some y =>
        ((s.modTrain c fun _ => y).wr (RED_STATUS.attempt c) y.attempt).takeVerdict c y m.verdict m.cause m.named
      | none => s.inc (RED_COUNTS.stale_discards c) 1
    | none => s.inc (RED_COUNTS.stale_discards c) 1

def execVerdict (peer id : Nat) (msg : RedMsg) (s : State) : Result :=
  .next (s.ctrlOnce peer id (.verdict peer id msg) fun s => s.verdictMsg msg)

/-- VERDICT_QUERY (R263): the root answers from the verdicts it keeps. -/
def State.verdictQuery (s : State) (asker : Nat) (m : RedMsg) : State :=
  match s.ctxOfRoster m.rosterDigest with
  | none => s
  | some c =>
    match (s.ctx c).verdicts.find? fun v => v.step == m.step && v.attempt == m.attempt with
    | some v => s.tell asker 0x21 (redBody m.rosterDigest [v.step, v.attempt, v.verdict, v.cause, v.named])
    | none => s

def execVerdictQuery (peer id : Nat) (msg : RedMsg) (s : State) : Result :=
  .next (s.ctrlOnce peer id (.verdictQuery peer id msg) fun s => s.verdictQuery peer msg)

/-- VERDICT_TIMEOUT (R263): verdict_timeout_us after the deadline the member asks the root, member 0 of its roster; as long again
after that with no answer, fault 0x2C05 tears it down. -/
def State.verdictTimeout (s : State) (c : Nat) : State :=
  match (s.ctx c).node, (s.ctx c).train with
  | some n, some x =>
    if nodeIsRoot n || x.voided then s
    else
      let wait := 1000 * nodeWait n
      match x.queried with
      | none =>
        let s := { s with hall := Max.max s.hall (s.rd (RED_DEADLINE.deadline_ns c) + wait) }
        let s := s.modTrain c fun x => { x with queried := some s.hall }
        s.tell (rosterAddr (s.rosterOf c) 0) 0x22 (redBody (nodeDigest n) [x.req.step, x.attempt])
      | some t =>
        let s := { s with hall := Max.max s.hall (t + wait) }
        (s.wr (RED_STATUS.verdict_lost c) 1).fault 0x2C05 2 0 0 (some c) (some (s.cpart c)) []
  | _, _ => s

def execVerdictTimeout (ctx : Nat) (s : State) : Result := .next (if s.up then s.verdictTimeout ctx else s)

/-! ### Contributions (R258) -/

/-- Fault 0x2C04 names a member whose contribution is late or missing, and the attempt's void is asked for. -/
def State.missed (s : State) (c cause handle : Nat) : State :=
  let m := s.memberAt c handle
  (m.2.fault 0x2C04 1 0 0 (some c) (some (m.2.cpart c)) (leB 2 m.1)).askVoid c cause m.1

/-- The deadline of a context's hop: the attempt's, less its depth times the hop margin. -/
def State.hopDeadline (s : State) (c : Nat) (n : Bytes) : Nat := s.rd (RED_DEADLINE.deadline_ns c) - nodeDepth n * nodeMargin n

/-- The time stamp of the last byte that a child's stream brought, which its port made (R258, R377). -/
def State.lastStamp (s : State) (c child : Nat) : Nat :=
  match (s.ctx c).node.bind fun n => s.stream (nodeChild n child) with | some x => x.arrived | none => s.hall

/-- CONTRIBUTION_RECEIVED: a child's contribution is complete; it is on time when its last byte's time stamp is at or before the
hop's deadline. A stale one is counted; its bytes were discarded as they came (`State.freshFor`). -/
def State.contribution (s : State) (c child step attempt : Nat) : State :=
  match (s.ctx c).node, (s.ctx c).train with
  | some n, some x =>
    if x.req.step = step ∧ x.attempt = attempt ∧ !x.voided then
      if s.lastStamp c child ≤ s.hopDeadline c n then s.modTrain c fun x => { x with got := if x.got.contains child then x.got else x.got ++ [child] }
      else s.missed c 1 (nodeChild n child)
    else s.inc (RED_COUNTS.stale_discards c) 1
  | _, _ => s.inc (RED_COUNTS.stale_discards c) 1

def execContributionReceived (ctx child step attempt : Nat) (s : State) : Result :=
  .next (if s.up then s.contribution ctx child step attempt else s)

/-- The children whose contribution to the running attempt is not complete. -/
def missingChildren (n : Bytes) (x : Train) : List Nat := (List.range (nodeChildren n)).filter fun i => !x.got.contains i

/-- HOP_DEADLINE_EXPIRY: every child whose contribution is not complete is named as missing. -/
def State.hopExpiry (s : State) (c : Nat) : State :=
  match (s.ctx c).node, (s.ctx c).train with
  | some n, some x =>
    if x.voided then s
    else
      let s := { s with hall := Max.max s.hall (s.hopDeadline c n) }
      (missingChildren n x).foldl (fun s i => s.missed c 2 (nodeChild n i)) s
  | _, _ => s

def execHopDeadlineExpiry (ctx : Nat) (s : State) : Result := .next (if s.up then s.hopExpiry ctx else s)

/-- ROOT_DEADLINE_EXPIRY: the deadline passes at the root with no verdict: a child's contribution is missing, or the root's own step
is late. -/
def State.rootExpiry (s : State) (c : Nat) : State :=
  match (s.ctx c).node, (s.ctx c).train with
  | some n, some x =>
    if x.voided || !nodeIsRoot n then s
    else
      let s := { s with hall := Max.max s.hall (s.rd (RED_DEADLINE.deadline_ns c)) }
      match missingChildren n x with
      | i :: _ => s.missed c 2 (nodeChild n i)
      | [] => (s.fault 0x2C04 1 0 0 (some c) (some (s.cpart c)) (leB 2 (nodeMember n))).askVoid c 1 (nodeMember n)
  | _, _ => s

def execRootDeadlineExpiry (ctx : Nat) (s : State) : Result := .next (if s.up then s.rootExpiry ctx else s)

/-- A training attempt's step ends (R259, R464): its finish offset is kept, the root judges it, and any other member awaits its verdict. -/
def State.attemptEnd (s : State) (c : Nat) (r : StepRun) : State :=
  let off := s.hall - r.start
  let s := (s.wr (FLT_CTX_FINISH.finish_offset_ns c) off).wr (FLT_CTX_FINISH.attempt c) r.attempt
  let s := s.wr (FLT_CTX_FINISH_MAX.max_finish_ns c) (Max.max off (s.rd (FLT_CTX_FINISH_MAX.max_finish_ns c)))
  let s := if s.rd (RED_DEADLINE.deadline_ns c) < s.hall then s.inc (FLT_CTX_FINISH_MAX.late_steps c) 1 else s
  match (s.ctx c).node, (s.ctx c).train with
  | some n, some x =>
    let s := s.modTrain c fun x => { x with ended := true }
    let x := { x with ended := true }
    if x.voided then s
    else
      let s := s.wr (RED_STATUS.verdict_wait c) 1
      if nodeIsRoot n && decide (s.hall ≤ s.rd (RED_DEADLINE.deadline_ns c)) then s.giveVerdict c x 1 0 0
      else if nodeIsRoot n then s.rootExpiry c
      else s
  | _, _ => s

/-! ### The input log (R455 to R463) -/

/-- Bytes of an entry's inputs. -/
def inputBytes (units : Nat) : Nat := 256 * (units - 1)

/-- The bytes that an entry header's header digest covers (Table 21-5). -/
def entryHead (r : TrainReq) (origin : Nat) (input : Bytes) : Bytes :=
  leB 4 0x4B57494C ++ leB 2 1 ++ leB 1 r.entry ++ leB 1 origin ++ leB 8 r.step ++ leB 8 r.seed ++ leB 8 r.weightVersion ++
    padTo 32 r.rosterDigest ++ leB 4 r.deadlineNs ++ leB 4 0 ++ leB 4 r.share ++ leB 4 0 ++ leB 8 r.paramAddr ++ padTo 48 r.params ++
    leB 8 0 ++ padTo 32 input

/-- An entry is valid: its magic and version, its step, and both its digests. -/
def entryValid (b : Bytes) (step : Nat) : Bool :=
  leAt b 0 4 == 0x4B57494C && leAt b 4 2 == 1 && leAt b 8 8 == step && sha256 (slice b 0 176) == slice b 176 32 &&
    sha256 (b.drop 256) == slice b 144 32

/-- The entry of a ring slot. -/
def State.ringEntry (s : State) (c base units slot : Nat) : Bytes := s.rdPart (s.cpart c) (256 * (base + slot * units)) (256 * units)

/-- The slot of a step in the context's own ring, and the entry there. -/
def State.ilogIndex (s : State) (c step : Nat) : Nat := step % Max.max 1 (s.rd (FLT_CTX_ILOG_CFG.depth c))
def State.ilogEntry (s : State) (c step : Nat) : Bytes :=
  s.ringEntry c (s.rd (FLT_CTX_ILOG_BASE.base c)) (s.rd (FLT_CTX_ILOG_CFG.entry_units c)) (s.ilogIndex c step)

/-- The step's slot holds a valid entry of it. -/
def State.ilogHas (s : State) (c step : Nat) : Bool :=
  ((s.ctx c).ilogHeld.any fun e => e.1 == s.ilogIndex c step) && entryValid (s.ilogEntry c step) step

/-- The step's slot holds a valid entry that a step command starts from (R463). -/
def State.ilogReady (s : State) (c step : Nat) : Bool :=
  ((s.ctx c).ilogHeld.any fun e => e.1 == s.ilogIndex c step && e.2) && entryValid (s.ilogEntry c step) step

/-- A slot marked: holding an entry that a step may start from, holding one, or empty. -/
def State.markSlot (s : State) (c slot : Nat) (v : Option Bool) : State :=
  s.modCtx c fun k => { k with ilogHeld := (v.toList.map fun b => (slot, b)) ++ k.ilogHeld.filter fun e => e.1 != slot }

/-- The step command that an entry's fields give (R461, R463). -/
def fromEntry (r : TrainReq) (b : Bytes) : TrainReq :=
  { r with seed := leAt b 16 8, weightVersion := leAt b 24 8, share := leAt b 72 4, paramAddr := leAt b 80 8, params := slice b 88 48 }

/-- A step of the context is accepted, running or awaiting its verdict. -/
def State.unsettled (s : State) (c : Nat) : Bool :=
  (s.ctx c).train.isSome || s.cmd.staged.any fun q => q.op == 0x0601 && q.hdr.context == c

def checkInputLogConfigure (c base depth units input win keep : Nat) (s : State) : Nat :=
  let d := if depth = 0 then 8 else depth
  let space := s.stackSpace (s.cpart c)
  if d < 2 ∨ 64 < d ∨ units < 2 ∨ 2 ^ 32 < units ∨ 1 < keep ∨ 2 ^ 40 ≤ base ∨ 2 ^ 40 ≤ win then 0x0104
  else if space < 256 * (base + d * units) ∨ space < 256 * (input + (units - 1)) ∨ overlap base (d * units) input (units - 1) ∨
      256 * win < space then 0x0104
  else if s.unsettled c then 0x0221
  else 0

/-- INPUT_LOG_CONFIGURE: with `keep`, every entry of the new ring whose digests verify is kept; every other slot is empty. -/
def doInputLogConfigure (h : Hdr) (base depth units input win keep : Nat) (s : State) : State :=
  let c := h.context
  let d := if depth = 0 then 8 else depth
  let s := (s.setReg (FLT_CTX_ILOG_BASE c) base).setReg (FLT_CTX_ILOG_CFG c) (d * 2 ^ 48 + units)
  let s := s.setReg (FLT_CTX_ILOG_WIN c) win
  let kept := if keep = 0 then [] else (List.range d).filter fun k =>
    let b := s.ringEntry c base units k
    entryValid b (leAt b 8 8) && leAt b 8 8 % d == k
  (s.modCtx c fun k => { k with ilogInput := input, ilogHeld := kept.map fun i => (i, true) }).reply h 0x060B 0

def fwInputLogConfigure (h : Hdr) (base depth entryUnits inputAddr inWin keep : Nat) : Fw :=
  ⟨0x060B, h.length == 48, .context, checkInputLogConfigure h.context base depth entryUnits inputAddr inWin keep,
    doInputLogConfigure h base depth entryUnits inputAddr inWin keep, fun _ s => s⟩

def execInputLogConfigure (h : Hdr) (base depth entryUnits inputAddr inWin keep : Nat) (s : State) : Result :=
  .next (s.fwCommand h (fwInputLogConfigure h base depth entryUnits inputAddr inWin keep) (.inputLogConfigure h base depth entryUnits inputAddr inWin keep))

/-- The entry that an input-log read names: of the context's own ring, or of the mirror ring it accepted. -/
def State.namedEntry (s : State) (c step source : Nat) : Option Bytes :=
  if source = 0 then
    (if s.rd (FLT_CTX_ILOG_CFG.depth c) ≠ 0 ∧ s.ilogHas c step then some (s.ilogEntry c step) else none)
  else match (s.ctx c).mirrorRing with
    | some (base, depth, units) =>
      let b := s.ringEntry c base units (step % Max.max 1 depth)
      if entryValid b step then some b else none
    | none => none

def checkInputLogRead (c step source offset : Nat) (s : State) : Nat :=
  if 1 < source then 0x0104
  else match s.namedEntry c step source with
    | none => 0x0243
    | some b => if b.length ≤ offset then 0x0104 else 0

/-- Some line of the entry that an input-log read names is poisoned. -/
def State.entryPoisoned (s : State) (c step source : Nat) : Bool :=
  let own := (s.rd (FLT_CTX_ILOG_BASE.base c), s.rd (FLT_CTX_ILOG_CFG.depth c), s.rd (FLT_CTX_ILOG_CFG.entry_units c))
  match if source = 0 then some own else (s.ctx c).mirrorRing with
  | some (base, depth, units) => s.partPoisoned (s.cpart c) (256 * (base + step % Max.max 1 depth * units)) (256 * units)
  | none => false

/-- INPUT_LOG_READ (R462, R425); a poisoned line of the entry fails it (R224). -/
def fwInputLogRead (h : Hdr) (step source offset : Nat) : Fw :=
  ⟨0x0604, h.length == 24, .context, checkInputLogRead h.context step source offset,
    fun s => match s.namedEntry h.context step source with
      | some b =>
        if s.entryPoisoned h.context step source then s.reply h 0x0604 readErrorStatus
        else
        let n := if s.on (SEC_CTX.attested h.context) then 4064 else 4088
        let r := s.seal h.context 32 (outPartOf n b offset)
        r.2.reply h 0x0604 0 r.1
      | none => s.reply h 0x0604 0x0243, fun _ s => s⟩

def execInputLogRead (h : Hdr) (step source offset : Nat) (s : State) : Result :=
  .next (s.fwCommand h (fwInputLogRead h step source offset) (.inputLogRead h step source offset))

/-- A loaded entry written to its step's slot with origin 1 (R462); its header digest is then that of the header as written. -/
def State.loadEntry (s : State) (h : Hdr) (obj : Bytes) : State :=
  let c := h.context
  let step := leAt obj 8 8
  let slot := s.ilogIndex c step
  let units := s.rd (FLT_CTX_ILOG_CFG.entry_units c)
  if obj.length ≠ 256 * units ∨ !entryValid obj step then (s.markSlot c slot none).reply h 0x060C 0x0455
  else
    let head := slice obj 0 7 ++ leB 1 1 ++ slice obj 8 168
    let s := s.wrPart (s.cpart c) (256 * (s.rd (FLT_CTX_ILOG_BASE.base c) + slot * units)) (head ++ sha256 head ++ obj.drop 208)
    (s.markSlot c slot (some true)).reply h 0x060C 0

/-- INPUT_LOG_LOAD. -/
def fwInputLogLoad (h : Hdr) (offset total : Nat) (data : Bytes) : Fw :=
  partFw h 0x060C (partLen h data) .context offset total data
    (fun s _ => if s.rd (FLT_CTX_ILOG_CFG.depth h.context) = 0 then 0x0241 else 0) fun s obj => s.loadEntry h obj

def execInputLogLoad (h : Hdr) (offset total : Nat) (data : Bytes) (s : State) : Result :=
  .next (s.fwCommand h (fwInputLogLoad h offset total data) (.inputLogLoad h offset total data))

/-! ### The training step (R48, R49, R243, R354, R456, R463, R469) -/

/-- A delivery with a roster digest has been committed to the context, or made by it (R243, R384). -/
def State.committedTo (s : State) (c : Nat) (d : Bytes) : Bool :=
  (s.ctx c).rosterDigest == some d ||
    s.fab.leads.any fun l => l.hdr.context == c && l.rosterDigest == d && l.state == 3

def checkTrainingStep (c : Nat) (r : TrainReq) (s : State) : Nat :=
  if 7 < r.entry ∨ r.deadlineNs < 1000 ∨ s.periodNs < r.deadlineNs ∨ s.stackSpace (s.cpart c) < 256 * r.paramAddr + 64 then 0x0104
  else if s.rd (PAR_CTX_CFG.role c) = 0 then 0x0244
  else match (s.ctx c).node with
    | none => 0x0240
    | some n =>
      if nodeDigest n ≠ r.rosterDigest then 0x0240
      else if 1 < nodeMembers n ∧ !s.committedTo c r.rosterDigest then 0x0240
      else if 1 < nodeMembers n ∧ s.timeUnlocked then 0x0200 + Config.freeRunRefusal.toNat
      else if s.rd (FLT_CTX_ILOG_CFG.depth c) = 0 then 0x0241
      else if s.ilogReady c r.step then
        let b := s.ilogEntry c r.step
        if leAt b 16 8 ≠ r.seed ∨ leAt b 24 8 ≠ r.weightVersion then 0x0242 else 0
      else 0

/-- TRAINING_STEP: accepted, its inputs are copied into the step's entry (R458), unless a valid entry is there to start from. -/
def doTrainingStep (h : Hdr) (r : TrainReq) (s : State) : State :=
  let s := if s.ilogReady h.context r.step then s
    else (s.markSlot h.context (s.ilogIndex h.context r.step) none).modCtx h.context fun k => { k with copies := k.copies ++ [r.step] }
  s.stage h 0x0601 (.trainingStep h r)

def execTrainingStep (h : Hdr) (req : TrainReq) (s : State) : Result :=
  .next (s.command (.trainingStep h req) h 0x0601 (h.length == 128) .context (checkTrainingStep h.context req) (doTrainingStep h req))

/-- A step command whose input region holds a poisoned line completes with that status (R224), and its step does not start. -/
def State.copyFails (s : State) (c step : Nat) : State :=
  let mine (q : Staged) : Bool := q.hdr.context == c && (match q.cmd with | .trainingStep _ r => r.step == step | _ => false)
  match s.cmd.staged.find? mine with
  | some q => ({ s with cmd := { s.cmd with staged := s.cmd.staged.filter fun q => !mine q } }).reply q.hdr q.op readErrorStatus
  | none => s

/-- INPUT_LOG_COPY_COMPLETE (R458): the oldest copy ends; its input digest stands in the entry's header. -/
def State.copyComplete (s : State) (c : Nat) : State :=
  match (s.ctx c).copies with
  | [] => s
  | step :: rest =>
    let p := s.cpart c
    let n := inputBytes (s.rd (FLT_CTX_ILOG_CFG.entry_units c))
    let slot := 256 * s.ilogSlot c step
    let drop (s : State) : State := s.modCtx c fun k => { k with copies := rest, lateSteps := k.lateSteps.filter (· != step) }
    if s.partPoisoned p (256 * (s.ctx c).ilogInput) n then drop (s.copyFails c step)
    else
    let data := s.rdPart p (256 * (s.ctx c).ilogInput) n
    let s := s.readLines p (256 * (s.ctx c).ilogInput) n
    let s := (s.wrPart p (slot + 256) data).wrPart p (slot + 144) (sha256 data)
    drop (s.wr (FLT_CTX_ILOG_STEP.copied_step c) step)

def execInputLogCopyComplete (ctx : Nat) (s : State) : Result := .next (if s.up then s.copyComplete ctx else s)

/-- The stream that a context's mirror goes out on: its own, of kind mirror, for sending. -/
def State.mirrorStream (s : State) (c : Nat) : Option Stream :=
  (((s.ctx c).mirror).bind s.stream).filter fun x => x.ctx == c && x.kind == 2 && x.direction == 0

/-- An entry is sent to the partner (R385). -/
def State.sendMirror (s : State) (c : Nat) (b : Bytes) : State :=
  match s.mirrorStream c with
  | some x => s.sendMessage x b
  | none => s

/-- An attempt of a training step begins at the present boundary (R90, R184, R258, R472). -/
def State.startAttempt (s : State) (c : Nat) (x : Train) : State :=
  let s := ((s.setReg (RED_STEP c) x.req.step).wr (RED_STATUS.attempt c) x.attempt).wr (RED_STATUS.verdict_wait c) 0
  let s := s.setReg (RED_DEADLINE c) (x.start + x.req.deadlineNs)
  let s := s.wrPart (s.cpart c) (256 * x.req.paramAddr)
    (leB 4 x.req.share ++ leB 4 0 ++ leB 8 x.req.paramAddr ++ padTo 48 x.req.params)
  let s := s.modCtx c fun k => { k with train := some x }
  s.startStep c {
    entry := x.req.entry, tick := x.tick, start := x.start, attempt := x.attempt, training := true, stepNo := x.req.step,
    saved := false, held := false, switches := 0, seed := x.req.seed, set := x.set, more := [] }

/-- The slot that is CURRENT, none where no slot is. -/
def State.currentSet (s : State) (c : Nat) : Option Nat :=
  let k := s.rd (WGT_STATUS.current c)
  if s.rd (if k = 0 then WGT_STATUS.state0 c else WGT_STATUS.state1 c) = 3 then some k else none

/-- TRAINING_STEP_START at order 9 (R354, R385, R458, R463): the entry's header is written where the step copied its inputs, the entry
is mirrored, and attempt 0 begins. -/
def State.startTraining (s : State) (h : Hdr) (r : TrainReq) : State :=
  let c := h.context
  let p := s.cpart c
  let ready := s.ilogReady c r.step
  let slot := 256 * s.ilogSlot c r.step
  let s := if ready then s
    else
      let head := entryHead r 0 (s.rdPart p (slot + 144) 32)
      (s.wrPart p slot (head ++ sha256 head ++ leB 48 0)).markSlot c (s.ilogIndex c r.step) (some false)
  let b := s.ilogEntry c r.step
  let r := if ready then fromEntry r b else r
  let start := s.tickStart s.tick
  let s := s.sendMirror c b
  let s := if (s.mirrorStream c).isSome then
      s.modCtx c fun k => { k with mirrorOut := some ⟨r.step, sha256 b, false, start + r.deadlineNs⟩ } else s
  s.startAttempt c ⟨h, r, 0, s.tick, start, false, false, [], none, s.currentSet c, [], [], []⟩

/-- REPEAT_START (R260, R461): the repeat takes seed, weight version, share and parameters from the step's entry, whose digests are
checked first. -/
def State.startRepeat (s : State) (c : Nat) (x : Train) : State :=
  let b := s.ilogEntry c x.req.step
  if !entryValid b x.req.step then s.fault 0x3504 2 0 0 (some c) (some (s.cpart c)) []
  else s.startAttempt c { x with
    req := fromEntry x.req b, attempt := x.attempt + 1, tick := s.tick, start := s.tickStart s.tick, ended := false,
    voided := false, got := [], queried := none, landed := [], retries := [], reduced := [] }

/-! ### Mirroring (R385, R460) -/

def checkMirrorConfigure (c handle : Nat) (s : State) : Nat :=
  if 4095 < handle then 0x0170
  else match s.stream handle with
    | some x => if x.ctx = c ∧ x.kind = 2 ∧ x.direction = 0 then 0 else 0x0270
    | none => 0x0270

def fwMirrorConfigure (h : Hdr) (handle : Nat) : Fw :=
  ⟨0x0609, h.length == 8, .context, checkMirrorConfigure h.context handle,
    fun s => (s.modCtx h.context fun k => { k with mirror := some handle }).reply h 0x0609 0, fun _ s => s⟩

def execMirrorConfigure (h : Hdr) (handle : Nat) (s : State) : Result :=
  .next (s.fwCommand h (fwMirrorConfigure h handle) (.mirrorConfigure h handle))

def checkMirrorAccept (c handle base depth units : Nat) (s : State) : Nat :=
  let d := if depth = 0 then 8 else depth
  if 4095 < handle ∨ d < 2 ∨ 64 < d ∨ units < 2 ∨ 2 ^ 32 < units ∨ s.stackSpace (s.cpart c) < 256 * (base + d * units) then 0x0170
  else match s.stream handle with
    | some x => if x.ctx = c ∧ x.kind = 2 ∧ x.direction = 1 then 0 else 0x0270
    | none => 0x0270

/-- MIRROR_ACCEPT: the ring is accepted as it stands: an entry is kept whose two digests verify (R460), which every read judges. -/
def fwMirrorAccept (h : Hdr) (handle base depth entryUnits : Nat) : Fw :=
  ⟨0x060A, h.length == 32, .context, checkMirrorAccept h.context handle base depth entryUnits,
    fun s => (s.modCtx h.context fun k => { k with
      mirrorFrom := some handle, mirrorRing := some (base, if depth = 0 then 8 else depth, entryUnits) }).reply h 0x060A 0, fun _ s => s⟩

def execMirrorAccept (h : Hdr) (handle base depth entryUnits : Nat) (s : State) : Result :=
  .next (s.fwCommand h (fwMirrorAccept h handle base depth entryUnits) (.mirrorAccept h handle base depth entryUnits))

/-- MIRROR: the partner stores the entry at its slot and answers with the digest of what it stored. -/
def State.mirrorEntry (s : State) (x : Stream) (step : Nat) (entry : Bytes) : State :=
    match (s.ctx x.ctx).mirrorRing with
    | some (base, depth, units) =>
      if x.kind = 2 ∧ x.direction = 1 ∧ (s.ctx x.ctx).mirrorFrom = some x.handle then
        let a := 256 * (base + step % Max.max 1 depth * units)
        let s := s.wrPart (s.cpart x.ctx) a (entry.take (256 * units))
        let stored := s.rdPart (s.cpart x.ctx) a (Min.min entry.length (256 * units))
        s.tell x.peerAddr 0x31 (padTo 32 (slice entry 32 32) ++ leB 8 step ++ sha256 stored)
      else s
    | none => s

def execMirror (stream step : Nat) (entry : Bytes) (s : State) : Result :=
  .next (match s.stream stream with
    | some x => s.arriveFor x.port (.mirror stream step entry) fun s => s.mirrorEntry x step entry
    | none => s)

/-- MIRROR_ACK: a matching digest ends the entry's mirroring; another sends the entry once more. -/
def State.mirrorAck (s : State) (roster : Bytes) (step : Nat) (digest : Bytes) : State :=
  match s.ctxOfRoster roster with
  | none => s
  | some c =>
    match (s.ctx c).mirrorOut with
    | some m =>
      if m.step ≠ step then s
      else if m.digest = digest then s.modCtx c fun k => { k with mirrorOut := none }
      else if m.again then s
      else (s.modCtx c fun k => { k with mirrorOut := some { m with again := true } }).sendMirror c (s.ilogEntry c step)
    | none => s

def execMirrorAck (peer id : Nat) (rosterDigest : Bytes) (step : Nat) (digest : Bytes) (s : State) : Result :=
  .next (s.ctrlOnce peer id (.mirrorAck peer id rosterDigest step digest) fun s => s.mirrorAck rosterDigest step digest)

/-- MIRROR_BEHIND: an entry is not acknowledged by the step's reduction deadline. -/
def State.mirrorBehind (s : State) (c : Nat) : State :=
  match (s.ctx c).mirrorOut with
  | none => s
  | some m =>
    let s := { s with hall := Max.max s.hall m.deadline }
    let s := s.modCtx c fun k => { k with mirrorOut := none }
    match s.mirrorStream c with
    | some x => (s.wr (PRT_STATUS.mirror_behind x.port) 1).fault 0x3105 1 5 x.port (some c) (some (s.cpart c)) []
    | none => s.fault 0x3105 1 0 0 (some c) (some (s.cpart c)) []

def execMirrorBehind (ctx : Nat) (s : State) : Result := .next (if s.up then s.mirrorBehind ctx else s)

end Sys2Proof.Machine
end

