-- ==== Sys2Proof/Machine/Reduce.lean ====
section
/-! DEFINITION. The widening unit (R239 to R257): checksum blocks and records, widening addition, rounding with its ledger, and the
pruning unit (R144 to R147, R173). -/

namespace Sys2Proof.Machine

/-! ### Residues (R247) -/

def mersenne61 : Nat := 2 ^ 61 - 1

/-- The residue of a dyadic value. -/
def residue (q : Rat) : Nat :=
  let e := (61 - Nat.log2 q.den % 61) % 61
  ((q.num % (mersenne61 : Int)).toNat * 2 ^ e) % mersenne61

/-- The residue of an element: 0 where it is not finite. -/
def Num.residue (x : Num) : Nat := if x.isFin then Sys2Proof.Machine.residue x.val else 0

/-- The residue of a block. -/
def blockResidue (l : List Num) : Nat := l.foldl (fun r x => (r + x.residue) % mersenne61) 0

/-! ### Checksum blocks (R248) and records (Table 12-3) -/

/-- Sectors of a block of `n` elements. -/
def sectorsOf (n : Nat) : Nat := (n + 15) / 16

/-- Elements that a payload of a format has for `n` elements: whole sectors, and for B16 whole groups of 32. -/
def blockElems (fmt n : Nat) : Nat := if fmt = 6 then 32 * ((sectorsOf n + 1) / 2) else 16 * sectorsOf n

/-- Bytes of a payload. -/
def blockBytes (fmt n : Nat) : Nat :=
  let m := blockElems fmt n
  if fmt = 6 then (2 * m + m / 32 + 7) / 8 * 8 else m * fmtBytes fmt

/-- The elements of a payload. -/
def blockDecode (fmt n : Nat) (b : Bytes) : List Num := decodeVec fmt (blockElems fmt n) b

/-- A record's fields. -/
structure SumRecord where
  crc : Nat
  mag : Nat
  nonfinite : Bool
  saturated : Bool
  sectors : Nat
  ledger : Nat
  value : Nat
  origin : Nat
deriving DecidableEq, Repr

def SumRecord.bytes (r : SumRecord) : Bytes :=
  leB 32 (r.crc * 2 ^ 224 + r.mag % 2 ^ 31 * 2 ^ 193 + bit r.nonfinite * 2 ^ 192 + bit r.saturated * 2 ^ 191 +
    (r.sectors - 1) % 256 * 2 ^ 183 + r.ledger * 2 ^ 122 + r.value * 2 ^ 61 + r.origin)

def SumRecord.of (b : Bytes) : SumRecord :=
  let v := leAt b 0 32
  ⟨bits v 224 32, bits v 193 31, bits v 192 1 == 1, bits v 191 1 == 1, bits v 183 8 + 1, bits v 122 61, bits v 61 61, bits v 0 61⟩

/-- The record of a partial gradient or a carry block (R250). -/
def originRecord (fmt n : Nat) (payload : Bytes) : SumRecord :=
  let l := blockDecode fmt n payload
  let r := blockResidue l
  ⟨(crc32c payload).toNat, 0, l.any fun x => !x.isFin, false, sectorsOf n, 0, r, r⟩

/-- A payload agrees with its record's crc and value residue. -/
def SumRecord.covers (r : SumRecord) (fmt n : Nat) (payload : Bytes) : Bool :=
  r.crc == (crc32c payload).toNat && r.value == blockResidue (blockDecode fmt n payload)

/-- The equality of R252. -/
def SumRecord.balanced (r : SumRecord) : Bool := r.origin % mersenne61 == (r.value + r.ledger) % mersenne61

/-! ### Sets -/

def Eng.acc (e : Eng) (k : Nat) : AccSet := if k = 0 then e.acc0 else e.acc1
def Eng.setAcc (e : Eng) (k : Nat) (a : AccSet) : Eng := if k = 0 then { e with acc0 := a } else { e with acc1 := a }

/-- A set replaced, with its count of inputs shown. -/
def State.setAcc (s : State) (c t k : Nat) (a : AccSet) : State :=
  (s.wr (if k = 0 then RED_TILE_STATUS.inputs0 t else RED_TILE_STATUS.inputs1 t) a.inputs).modEng c t fun e => e.setAcc k a

/-- Emax of a group of an input (R244); none where every element is zero or not finite. -/
def groupEmax (fmt : Nat) (x : Nat) (l : List Num) : Option Int :=
  if fmt = 6 then some ((x : Int) - 127)
  else
    let m := amax l
    if m = 0 then none else some (floorLog2 m + 1)

/-- A value rounded to a grid under RNE. -/
def onGrid (q : Int) (v : Num) : Num :=
  match v with
  | .fin n m => .of false ((Num.fin n (roundUnits none (m * pow2 (-q)))).val * pow2 q)
  | x => x

/-- An element added: the sum, its residual, the grid roundings counted, and the flags of TIL_NUM_STATUS. -/
structure Added where
  sum : Num
  resid : Rat
  regrid : Nat
  flags : Nat
deriving DecidableEq, Repr

/-- A value that is not zero is zero on the grid: underflow (R86). -/
def gridFlag (v y : Num) : Nat := if v.val ≠ 0 ∧ y.val = 0 then flUnderflow else 0

/-- One element of an N-class group added (R244). The integers of the grid hold no infinity: an infinite input makes the element NaN, an
invalid operation where no operand is one (DESIGN CHOICE, log 49: R244 gives a non-finite input no value). -/
def addN (q : Int) (shift : Bool) (v : Num) (r : Rat) (x : Num) : Added :=
  if !v.isFin || !x.isFin then ⟨.nan, 0, 0, nanFlag [v, x] .nan⟩
  else
    let v1 := if shift then onGrid q v else v
    let x1 := onGrid q x
    ⟨.of false (v1.val + x1.val), r + (v.val - v1.val) + (x.val - x1.val), bit (v1.val != v.val) + bit (x1.val != x.val),
      gridFlag v v1 ||| gridFlag x x1⟩

/-- One element of a W-class set added in binary64, with the exact error (R245). -/
def addW (v : Num) (r : Rat) (x : Num) : Added :=
  let e := v.add x
  let y := roundNum 8 none true e
  ⟨y.1, if y.1.isFin && e.isFin then r + (e.val - y.1.val) else 0, 0, y.2 ||| nanFlag [v, x] e⟩

/-- An input added into a set: its elements group by group, and the sums of its record; with the grid roundings and the flags. An input
whose record counts no sectors leaves the set's count open (R257). -/
def AccSet.add (a : AccSet) (cls fmt n : Nat) (payload : Bytes) (l : List Num) (rc : SumRecord) : AccSet × Nat × Nat :=
  let m := Max.max l.length a.elems.length
  let grp (i : Nat) : Nat := i / 32
  let x (i : Nat) : Num := l.getD i Num.zero
  let fieldAt (g : Nat) : Nat := leAt payload (2 * blockElems fmt n + g) 1
  let groups := (m + 31) / 32
  let emax := (List.range groups).map fun g =>
    let inE := if cls = 2 then groupEmax fmt (fieldAt g) ((l.drop (32 * g)).take 32) else none
    match (a.emax.getD g none), inE with
    | none, e => e
    | some o, none => some o
    | some o, some e => some (Max.max o e)
  let out := (List.range m).map fun i =>
    let v := a.elems.getD i Num.zero
    let r := a.resid.getD i 0
    if cls = 2 then
      match emax.getD (grp i) none with
      | some e => addN (e - 75) (a.emax.getD (grp i) none != some e) v r (x i)
      | none => addN 0 false v r (x i)
    else addW v r (x i)
  ({ cls := cls, inputs := a.inputs + 1, sectors := if a.sectors = 0 then rc.sectors else a.sectors,
     elems := out.map (·.sum), resid := out.map (·.resid), emax := emax,
     origin := (a.origin + rc.origin) % mersenne61, ledger := (a.ledger + rc.ledger) % mersenne61,
     ledgerMag := a.ledgerMag + (decodeNum 7 rc.mag).val,
     nonfinite := a.nonfinite || rc.nonfinite || l.any fun v => !v.isFin, saturated := a.saturated || rc.saturated },
   out.foldl (fun k o => k + o.regrid) 0, out.foldl (fun f o => f ||| o.flags) 0)

/-- A failed check of the reduction: its flag, its fault, which names the block by its index in its tensor (open: free), and the
void it asks for. -/
def State.redFail (s : State) (c t : Nat) (flag : RF) (code cause : Nat) : State :=
  let b := s.free 16
  let s := (b.2.wr flag 1).wr (RED_TILE_STATUS.last_block t) b.1
  let s := s.fault code 1 1 t (some c) (some (s.cpart c)) (if code = 0x2C01 then leB 2 b.1 else [])
  if cause = 0 then s else s.askOwnVoid c cause

/-- Fault 0x2C07: no addition and no rounding. -/
def State.redRefuse (s : State) (t : Nat) : State := (s.wr (RED_TILE_STATUS.too_many t) 1).tileFault t 0x2C07 2

/-- The class that an output format names. -/
def redClass (fo : Nat) : Nat := if fo = 6 then 2 else 1

/-- WIDENING_ADD (R239, R240, R244, R245, R251, R257): vimm bit 0 names the set; bit 1 says that the input is a carry block (DESIGN
CHOICE, log 29). A carry block that fails leaves the set's count of sectors to the first input that holds. -/
def State.wideningAdd (s : State) (t slot : Nat) (ecc : SramEcc) : State :=
  match s.vecOp t slot (· == 0x30) with
  | none => s
  | some (c, o) =>
    let fi := o.vfield slot 276 4
    let cls := redClass (o.vfield slot 272 4)
    let imm := o.vfield slot 244 16
    let k := imm % 2
    let carry := bits imm 1 1 == 1
    let n := bits o.desc 165 24
    let a := 32 * bits o.desc 229 20
    let size := blockBytes fi n
    let acc := (s.engOf c t).acc k
    let f := s.sramFaults c [linesOf a (size + 32)]
    if f ≠ 0 then s.tileFault t f 2
    else if 16 ≤ acc.inputs ∨ (acc.inputs ≠ 0 ∧ acc.cls ≠ cls) then s.redRefuse t
    else
    let s := s.sramEcc t ecc
    if s.cst c ≠ stRunning then s
    else
      let payload := s.rdSram c t a size
      let rc := SumRecord.of (s.rdSram c t (a + size) 32)
      let good := rc.covers fi n payload && (acc.sectors == 0 || rc.sectors == acc.sectors)
      let zeroed := carry && !good
      let l := blockDecode fi n payload
      let l := if zeroed then l.map fun _ => Num.zero else l
      let rc := if zeroed then
          { rc with origin := 0, ledger := 0, mag := 0, nonfinite := false, saturated := false, sectors := 0 } else rc
      let r := acc.add cls fi n (if zeroed then padTo size [] else payload) l rc
      let s := ((s.setAcc c t k r.1).count t (RED_REGRID.regrid_roundings t) r.2.1).numFlags t r.2.2 0
      let s := s.modEng c t fun e => e.vecDone slot
      if good then s
      else if carry then s.redFail c t (RED_TILE_STATUS.carry_zeroed t) 0x2C06 0
      else s.redFail c t (RED_TILE_STATUS.payload_fail t) 0x2C01 3

def execWideningAdd (tile slot : Nat) (ecc : SramEcc) (s : State) : Result :=
  .next (if s.up then s.wideningAdd tile slot ecc else s)

/-- Values written as a block's payload: bytes, flags, elements saturated. -/
def encodeBlock (fmt n : Nat) (draws : List (Option Nat)) (l : List Num) : Bytes × Nat × Nat :=
  let m := blockElems fmt n
  let l := (l ++ List.replicate (m - l.length) Num.zero).take m
  let r := encodeVec fmt draws false l
  (padTo (blockBytes fmt n) r.1, r.2.1 ||| nanIn l, r.2.2)

/-- The wire format of a class, and the format of its carry blocks (R246, R254). -/
def classFmt (cls : Nat) : Nat := if cls = 2 then 6 else 7
def carryFmt (cls : Nat) : Nat := if cls = 2 then 6 else 8

/-- The residuals of a set after its rounding: none where the sum or the result is not finite. -/
def residuals (a : AccSet) (out : List Num) : List Rat :=
  (List.range out.length).map fun i =>
    let v := a.elems.getD i Num.zero
    let y := out.getD i Num.zero
    if v.isFin && y.isFin then a.resid.getD i 0 + (v.val - y.val) else 0

/-- A carry block of residuals with its record (R254), written with the flags of its roundings. -/
def State.putCarry (s : State) (c t a cls n : Nat) (r : List Rat) : State :=
  let fmt := carryFmt cls
  let b := encodeBlock fmt n [] (r.map (Num.of false))
  (s.numFlags t b.2.1 b.2.2).wrSram c t a (b.1 ++ (originRecord fmt n b.1).bytes)

/-- ROUND_WITH_LEDGER (R246, R252 to R254): vimm bit 0 names the set, bit 1 writes the carry block, bit 2 makes the root check; a block
that passes it belongs to the gradient that the root sends (R259). Under stochastic rounding the zeros that fill a block take draws as its other
elements do (DESIGN CHOICE, log 50). -/
def State.roundLedger (s : State) (t slot : Nat) (ecc : SramEcc) : State :=
  match s.vecOp t slot (· == 0x31) with
  | none => s
  | some (c, o) =>
    let cls := redClass (o.vfield slot 272 4)
    let imm := o.vfield slot 244 16
    let k := imm % 2
    let n := bits o.desc 165 24
    let b := 32 * bits o.desc 209 20
    let d := 32 * bits o.desc 189 20
    let fmt := classFmt cls
    let size := blockBytes fmt n
    let carry := bits imm 1 1 == 1
    let acc := (s.engOf c t).acc k
    let f := s.sramFaults c [linesOf d (size + 32), linesOf b (if carry then blockBytes (carryFmt cls) n + 32 else 0)]
    if f ≠ 0 then s.tileFault t f 2
    else if acc.inputs ≠ 0 ∧ acc.cls ≠ cls then s.redRefuse t
    else
    let s := if bits imm 2 1 = 1 then s.sramEcc t ecc else s
    if s.cst c ≠ stRunning then s
    else
      let dr := s.takeDraws c t 4 256 (blockElems fmt n) (cls == 2 && o.vfield slot 271 1 == 1)
      let out := encodeBlock fmt n dr.1 acc.elems
      let vals := blockDecode fmt n out.1
      let r := residuals acc vals
      let sumR : Rat := r.foldl (· + ·) 0
      let mag : Rat := r.foldl (fun a x => a + (if x < 0 then -x else x)) acc.ledgerMag
      let m64 := roundNum 8 none true (.of false mag)
      let m32 := roundNum 7 none true m64.1
      let mag32 := encodeNum 7 m32.1
      let rc : SumRecord := ⟨(crc32c out.1).toNat, mag32, acc.nonfinite || (vals.any fun x => !x.isFin),
        acc.saturated || out.2.2 != 0, sectorsOf n, (acc.ledger + residue sumR) % mersenne61, blockResidue vals, acc.origin⟩
      let s := ((dr.2.numFlags t out.2.1 out.2.2).numFlags t (m64.2 ||| m32.2) 0).wrSram c t d (out.1 ++ rc.bytes)
      let s := if carry then s.putCarry c t b cls n r else s
      let s := if rc.nonfinite then s.wr (RED_TILE_STATUS.nonfinite t) 1 else s
      let s := (s.setAcc c t k {}).modEng c t fun e => e.vecDone slot
      let s := if rc.balanced then s else s.redFail c t (RED_TILE_STATUS.equality_fail t) 0x2C02 4
      if bits imm 2 1 = 0 ∨ s.cst c ≠ stRunning then s
      else
        let back := s.rdSram c t d size
        if rc.balanced && rc.covers fmt n back then
          s.modTrain c fun x => { x with reduced := x.reduced ++ [back ++ rc.bytes] }
        else s.redFail c t (RED_TILE_STATUS.root_fail t) 0x2C03 5

def execRoundWithLedger (tile slot : Nat) (ecc : SramEcc) (s : State) : Result :=
  .next (if s.up then s.roundLedger tile slot ecc else s)

/-- The SRAM lines that a widening addition, or the root check of a rounding, reads. -/
def widenSpan (slot : Nat) (o : TileOp) : List (Nat × Nat) :=
  let n := bits o.desc 165 24
  let op := vop o.word slot
  if op = 0x30 then [linesOf (32 * bits o.desc 229 20) (blockBytes (o.vfield slot 276 4) n + 32)]
  else if op = 0x31 ∧ bits (o.vfield slot 244 16) 2 1 = 1 then
    [linesOf (32 * bits o.desc 189 20) (blockBytes (classFmt (redClass (o.vfield slot 272 4))) n + 32)]
  else []

/-! ### Packing (R172) and CHECKSUM_RESIDUES -/

/-- The descriptor in tile SRAM that imm2 of a reduction or pruning slot names, in units of 16 bytes; none where imm2 is 0: 32 bytes, a
freeze descriptor (Table 8-7) and then, for packing, the position of the payload's first element in the tensor's slice (DESIGN CHOICE,
log 53), or, for pruning, the mask set (log 31). -/
def sideDesc (o : TileOp) : Nat := bits o.desc 133 32
def State.sideBits (s : State) (c t : Nat) (o : TileOp) : Nat :=
  if sideDesc o = 0 then 0 else ofLe (s.rdSram c t (16 * sideDesc o) 32)

/-- The SRAM lines of that descriptor and of its bitmap. -/
def State.sideSpan (s : State) (c t : Nat) (o : TileOp) : List (Nat × Nat) :=
  if sideDesc o = 0 then [] else [linesOf (16 * sideDesc o) 32, freezeSpan (s.sideBits c t o % 2 ^ 128)]

/-- Element `i` of a payload stands at a frozen position of the tensor; positions run through the inputs of one output after another,
as the drain writes columns (R171; DESIGN CHOICE, log 53). -/
def State.packedOut (s : State) (c t side i : Nat) : Bool :=
  let p := bits side 128 32 + i
  let k := 16 * bits side 48 16
  s.frozen c t (side % 2 ^ 128) (p % Max.max 1 k) (p / Max.max 1 k)

/-- A payload of elements in 32 or 64 bits without those at frozen positions, with their number (R172). -/
def State.packed (s : State) (c t : Nat) (o : TileOp) (fmt a n : Nat) : Bytes × Nat :=
  let b := s.rdSram c t a (blockBytes fmt n)
  if sideDesc o = 0 ∨ fmt = 6 then (b, n)
  else
    let side := s.sideBits c t o
    let kept := (List.range n).filter fun i => !s.packedOut c t side i
    (padTo (blockBytes fmt kept.length) (kept.flatMap fun i => slice b (fmtBytes fmt * i) (fmtBytes fmt)), kept.length)

/-- CHECKSUM_RESIDUES (R250, R172): the payload at src_a loses its frozen positions, and its record is written at dst; a block of frozen
positions alone leaves nothing. -/
def State.checksumBlock (s : State) (t slot : Nat) (ecc : SramEcc) : State :=
  match s.vecOp t slot (· == 0x32) with
  | none => s
  | some (c, o) =>
    let fi := o.vfield slot 276 4
    let n := bits o.desc 165 24
    let a := 32 * bits o.desc 229 20
    let d := 32 * bits o.desc 189 20
    let f := s.sramFaults c ([linesOf a (blockBytes fi n), linesOf d 32] ++ s.sideSpan c t o)
    if f ≠ 0 then s.tileFault t f 2
    else
    let s := s.sramEcc t ecc
    if s.cst c ≠ stRunning then s
    else
      let q := s.packed c t o fi a n
      let s := s.modEng c t fun e => e.vecDone slot
      if q.2 = 0 then s
      else
        let rc := originRecord fi q.2 q.1
        let s := (if sideDesc o = 0 then s else s.wrSram c t a q.1).wrSram c t d rc.bytes
        if rc.nonfinite then s.wr (RED_TILE_STATUS.nonfinite t) 1 else s

def execChecksumResidues (tile slot : Nat) (ecc : SramEcc) (s : State) : Result :=
  .next (if s.up then s.checksumBlock tile slot ecc else s)

/-! ### The pruning unit -/

/-- The transposable patterns (R144), ascending. -/
def patterns : List Nat :=
  let pairs := [3, 5, 6, 9, 10, 12]
  let all := pairs.flatMap fun a => pairs.flatMap fun b => pairs.flatMap fun c => pairs.map fun d => a + 16 * b + 256 * c + 4096 * d
  let ok (p : Nat) : Bool := (List.range 4).all fun k => bits p k 1 + bits p (4 + k) 1 + bits p (8 + k) 1 + bits p (12 + k) 1 == 2
  (all.filter ok).foldl (fun l p => l.takeWhile (· < p) ++ p :: l.dropWhile (· < p)) []

/-- The score of a pattern on a block `w n k`: non-finite values kept, then the exact sum of magnitudes. -/
def patternScore (w : Nat → Nat → Num) (p : Nat) : Nat × Rat :=
  (List.range 16).foldl (fun a i =>
    if bits p i 1 = 1 then
      match w (i / 4) (i % 4) with
      | .fin _ m => (a.1, a.2 + m)
      | _ => (a.1 + 1, a.2)
    else a) (0, 0)

/-- The pattern with the highest score, the lowest among equals. -/
def bestPattern (w : Nat → Nat → Num) : Nat :=
  (patterns.foldl (fun (b : Nat × Option (Nat × Rat)) p =>
    let s := patternScore w p
    match b.2 with
    | none => (p, some s)
    | some t => if t.1 < s.1 ∨ (t.1 = s.1 ∧ t.2 < s.2) then (p, some s) else b) (0, none)).1

/-- The place of block `b` in feeder order: its first output and its first reduction position (DESIGN CHOICE, log 31). -/
def blockPlace (b : Nat) : Nat × Nat := (4 * (b % 16), 4 * (b / 16))

/-- What block `b` of a matrix stores into a 2:4 form of `groups` groups for each of `cgs` column groups (Table 7-2): its four columns from
`c0` and its group `g`, the word and the mask of each column. Value lines come before the mask lines, column group after column group. -/
def formStores (cgs groups c0 g : Nat) (word : Nat → Nat → Nat) (nib : Nat → Nat) : List (Nat × Bytes) :=
  let cg := c0 / 64
  let line := 256 * (cg * groups + g)
  let kept (j : Nat) : List Nat := (List.range 4).filter fun i => bits (nib j) i 1 == 1
  let value (j slot : Nat) : Nat := match (kept j)[slot]? with | some i => word j i | none => 0
  let run (slot : Nat) : Bytes := (List.range 4).flatMap fun j => leB 2 (value j slot)
  let mask : Bytes := [BitVec.ofNat 8 (nib 0 + 16 * nib 1), BitVec.ofNat 8 (nib 2 + 16 * nib 3)]
  [(line + 2 * (c0 % 64), run 0), (line + 128 + 2 * (c0 % 64), run 1),
   (256 * (cgs * groups) + 256 * (cg * ((groups + 7) / 8)) + 32 * g + c0 % 64 / 2, mask)]

/-- Lines of a 2:4 form. -/
def formBytes (cgs groups : Nat) : Nat := 256 * (cgs * (groups + (groups + 7) / 8))

/-- The nibble of output `n` in the forward form, and that of position `k` in the transposed form. -/
def rowNibble (p n : Nat) : Nat := bits p (4 * n) 4
def colNibble (p k : Nat) : Nat := (List.range 4).foldl (fun m n => m + bits p (4 * n + k) 1 * 2 ^ n) 0

/-- A block of a tensor by its number in the mask set: its place where the tensor has `groups` groups of four along its reduction. -/
def placeIn (groups b : Nat) : Nat × Nat :=
  if groups = 0 then blockPlace b
  else (64 * (b / (16 * groups)) + (blockPlace (b % (16 * groups))).1, (blockPlace (b % (16 * groups))).2)

/-- The bytes of one buffer of a mask set, whole lines of two bytes a block. -/
def maskBytes (blocks : Nat) : Nat := 256 * ((2 * blocks + 255) / 256)

/-- The unit scores in this step (R146): its number is a multiple of r, or no patterns are held yet. -/
def scoresNow (held : Bool) (stepNo : Option Nat) (r : Nat) : Bool :=
  !held || match stepNo with | some n => r != 0 && n % r == 0 | none => false

/-- A pruning operation as its slot and its side descriptor give it: input format, refresh interval, blocks, the dense operand and the
two forms in tile SRAM, the freeze descriptor, and the mask set's address, its blocks, and the block of it that is the operation's first
(DESIGN CHOICE, log 31). -/
structure Prune where
  fmt : Nat
  r : Nat
  n : Nat
  src : Nat
  fwd : Nat
  tr : Nat
  side : Bool
  freeze : Nat
  addr : Nat
  total : Nat
  first : Nat
deriving DecidableEq, Repr

def State.pruneOp (s : State) (c t slot : Nat) (o : TileOp) : Prune :=
  let d := s.sideBits c t o
  ⟨o.vfield slot 276 4, o.vfield slot 244 16, bits o.desc 165 24, 32 * bits o.desc 229 20, 32 * bits o.desc 189 20,
    32 * bits o.desc 209 20, sideDesc o != 0, bits d 0 128, bits d 128 64, bits d 192 32, bits d 224 32⟩

/-- Groups along the reduction, of 16 blocks each, and column groups of the transposed form. -/
def Prune.groups (p : Prune) : Nat := (p.n + 15) / 16
def Prune.cgs (p : Prune) : Nat := (p.groups + 15) / 16

/-- The mask set of the operation, once it holds patterns. -/
def State.pruneSet (s : State) (c : Nat) (p : Prune) : MaskSet :=
  let k := s.runSet c
  (if p.side then (s.ctx c).maskSet k p.addr else none).getD ⟨k, p.addr, maskBytes p.total, 0, false, false⟩

/-- The byte at which the pattern of block `b` of an operation stands. -/
def State.patternAt (s : State) (c : Nat) (p : Prune) (m : MaskSet) (buf b : Nat) : Nat := s.maskAt c m buf (2 * (p.first + b))

/-- One block: its pattern, scored or held (R144, R146, R173), written to the other buffer of the mask set where the unit scores, and the
stores of both forms (R145). A block of frozen positions keeps the held pattern; with none held it is scored (DESIGN CHOICE, log 31). -/
def State.pruneBlock (s : State) (c t : Nat) (p : Prune) (b : Nat) : State :=
  let m := s.pruneSet c p
  let stepNo := (s.ctx c).step.bind fun x => if x.training then some x.stepNo else none
  let score := scoresNow m.held stepNo p.r
  let n0 := (blockPlace b).1
  let k0 := (blockPlace b).2
  let word (n k : Nat) : Nat := leAt (s.rdSram c t (p.src + 2 * (64 * (k0 + k) + n0 + n)) 2) 0 2
  let at_ := placeIn (4 * bits p.freeze 48 16) (p.first + b)
  let frozen := (List.range 16).all fun j => s.frozen c t p.freeze (at_.2 + j % 4) (at_.1 + j / 4)
  let keeps := m.held && (!score || frozen)
  let from_ := s.patternAt c p m m.cur b
  if keeps && s.partPoisoned (s.cpart c) from_ 2 then s.poisonFault c from_ 2
  else
  let s := if keeps then (s.countLines (s.cpart c) from_ 2 false).linesVia (s.cpart c) from_ 2 false (tileNode t) true else s
  let pat := if keeps then ofLe (s.rdPart (s.cpart c) from_ 2)
    else bestPattern fun n k => decodeNum p.fmt (word n k)
  let fwd := formStores 1 p.groups n0 (k0 / 4) word (rowNibble pat)
  let tr := formStores p.cgs 16 k0 (n0 / 4) (fun k n => word n k) (colNibble pat)
  let s := fwd.foldl (fun s x => s.wrSram c t (p.fwd + x.1) x.2) s
  let s := tr.foldl (fun s x => s.wrSram c t (p.tr + x.1) x.2) s
  let s := if score && p.side then s.wrPart (s.cpart c) (s.patternAt c p m (1 - m.cur) b) (leB 2 pat) (tileNode t) else s
  let s := if score && p.side && stepNo.isSome then
      s.modCtx c fun k => { k with masks := { m with scored := true } :: k.masks.filter fun x => !(x.slot == m.slot && x.addr == m.addr) }
    else s
  if keeps then s else s.count t (SPR_PRUNE.prune_blocks t) 1

/-- The blocks of the operation in a slot up to block `upto` (R147). -/
def State.pruneTo (s : State) (c t slot : Nat) (o : TileOp) (upto : Nat) : State :=
  let p := s.pruneOp c t slot o
  ((List.range (upto - o.pos)).foldl (fun s i =>
    if s.cst c ≠ stRunning then s else s.pruneBlock c t p (o.pos + i)) s).modEng c t fun e =>
    e.setVec slot { o with started := true, pos := upto }

/-- The SRAM lines that a pruning operation reads. -/
def State.pruneSpan (s : State) (c t : Nat) (o : TileOp) (p : Prune) : List (Nat × Nat) :=
  linesOf p.src (512 * p.groups) :: s.sideSpan c t o

/-- The fault of a pruning operation's addresses, 0 when none: its operand, forms and side descriptor in tile SRAM, its mask set in the
partition's stack space. -/
def State.pruneFault (s : State) (c t : Nat) (o : TileOp) (p : Prune) : Nat :=
  let f := s.sramFaults c ([linesOf p.src (512 * p.groups), linesOf p.fwd (formBytes 1 p.groups), linesOf p.tr (formBytes p.cgs 16)] ++
    s.sideSpan c t o)
  if f ≠ 0 then f
  else if p.side && (decide (p.total < p.first + p.n) || (List.range (2 * maskBytes p.total / 256)).any fun i =>
      decide (s.stackSpace (s.cpart c) < 256 * s.setUnit c (s.runSet c) (p.addr + i) + 256)) then 0x2906
  else 0

/-- PRUNING_UNIT: `length` blocks from src_a; the forward form at dst, the transposed form at src_b; vimm is the refresh interval. -/
def State.pruneRun (s : State) (t slot : Nat) (ecc : SramEcc) : State :=
  match s.vecOp t slot (· == 0x38) with
  | none => s
  | some (c, o) =>
    let p := s.pruneOp c t slot o
    let f := s.pruneFault c t o p
    if f ≠ 0 then s.tileFault t f 2
    else
      let s := s.sramEcc t ecc
      if s.cst c ≠ stRunning then s
      else
        let s := (s.pruneTo c t slot o p.n).modEng c t fun e => e.vecDone slot
        s.wr (SPR_STATUS.prune_active t) (bit (((s.engOf c t).vec (1 - slot)).any fun q => vop q.word (1 - slot) == 0x38))

def execPruningUnit (tile slot : Nat) (ecc : SramEcc) (s : State) : Result := .next (if s.up then s.pruneRun tile slot ecc else s)

end Sys2Proof.Machine
end

