-- ==== Sys2Proof/Machine/Save.lean ====
section
/-! DEFINITION. What the units of a tile do when a context is saved, and when it is restored (R113, R132, R147, R175, R265, R324). -/

namespace Sys2Proof.Machine

/-- How far a unit has come in the part of its work still to do, at least `lo` of `n`: open at the moment of a switch (DESIGN CHOICE, log
26), a free value. -/
def State.progress (s : State) (lo n : Nat) : Nat × State :=
  let r := s.free 32
  (Min.min n (lo + r.1 % (n + 1 - lo)), r.2)

/-! ### The save area (R113, R318) -/

/-- The memory address of byte `k` of a context's save area in a tile: the last 5,120 lines of its share. -/
def State.saveAddr (s : State) (c t k : Nat) : Nat :=
  tileAddr (s.phys t) (256 * (s.rd (PAR_CTX_CFG.share_base c) + s.rd (PAR_CTX_CFG.share_lines c) - 5120) + k)

/-- Where the accumulators of set `k` stand in the save area: 8-byte containers, cell after cell (DESIGN CHOICE, log 26). -/
def cellsAt (k : Nat) : Nat := 524288 * k

/-- The accumulator set of a block that has started and not ended, none where the array stands between blocks. -/
def Product.openSet (p : Product) : Option Nat := if p.op.pos % p.units = 0 then none else some (p.op.pos / p.units % 2)

/-- The accumulator sets that a save keeps: that of a started block, and that of a block whose results the drain has not all read. -/
def State.openSets (s : State) (c t : Nat) : List Nat :=
  let e := s.engOf c t
  let started : Option Nat := match e.product? 1 with
    | some p => if p.op.started then p.openSet else none
    | none => none
  (started.toList ++ e.unread.toList).eraseDups

/-- The drain saves the accumulators that hold a started or unread block (R113). -/
def State.saveCells (s : State) (c t : Nat) : State :=
  (s.openSets c t).foldl (fun s k =>
    let l := if k = 0 then (s.engOf c t).cells0 else (s.engOf c t).cells1
    let b := (List.range 65536).flatMap fun x => leB 8 (l.getD x 0)
    (s.wrBytes (s.saveAddr c t (cellsAt k)) b).modEng c t fun e => e.setCells k []) s

/-- The lines of the save area in which an accumulator set stands. -/
def State.cellLines (s : State) (c k : Nat) : Nat × Nat :=
  (s.rd (PAR_CTX_CFG.share_base c) + s.rd (PAR_CTX_CFG.share_lines c) - 5120 + 2048 * k, 2048)

/-- They are loaded back through the code check (R101, R113). -/
def State.loadSets (s : State) (c t : Nat) : State :=
  (s.openSets c t).foldl (fun s k =>
    let e := s.openEcc id [s.cellLines c k]
    let s := e.2.sramEccOf (some c) t e.1
    if s.cst c = stTeardown then s
    else
      let l := (List.range 65536).map fun x => s.rdLe (s.saveAddr c t (cellsAt k + 8 * x)) 8
      s.modEng c t fun e => e.setCells k l) s

/-- The units of a tile load what they saved: the array its accumulators; the freeze logic reads the bits of the output tile again, and a
transposing feeder fills its first squares (R113, R175). -/
def State.loadCells (s : State) (c t : Nat) : State :=
  match (s.engOf c t).product? 1 with
  | none => s.loadSets c t
  | some p =>
    if !p.op.started then s.loadSets c t
    else
      let s := s.checkedRead c t (s.besides c t p)
      if s.cst c = stTeardown then s
      else
        let fz := s.freezeNow c t p (p.op.pos / Max.max 1 p.units)
        let s := s.modEng c t fun e => { e with freeze := fz }
        let s := (s.refill c t false (if p.a.tr then 32 else 0)).refill c t true (if p.b.tr then 32 else 0)
        if s.cst c = stTeardown then s else s.loadSets c t

/-! ### The units at a save -/

/-- The array stops where it stands, within its operation; what the queues of its SRAM feeders hold is not saved. -/
def State.saveArray (s : State) (c t : Nat) : State :=
  let s := s.arrayMoves c t
  if s.cst c ≠ stRunning then s
  else
    (s.saveCells c t).dropQueues c t

/-- The row engine completes its current row (R175). -/
def State.saveRow (s : State) (c t : Nat) : State :=
  match (s.engOf c t).row with
  | none => s
  | some o =>
    let n := bits o.desc 96 16 - o.pos
    let f := s.sramFaults c (rowSpan o)
    if n = 0 then s
    else if f ≠ 0 then s.tileFault t f 2
    else
      let r := (s.checkedRead c t (rowSpan o)).progress 1 n
      if r.2.cst c ≠ stRunning then r.2 else r.2.rowsTo c t o (o.pos + r.1)

/-- A pruning operation completes its current eight blocks (R147). -/
def State.savePrune (s : State) (c t slot : Nat) : State :=
  match s.vecOp t slot (· == 0x38) with
  | none => s
  | some (_, o) =>
    let p := s.pruneOp c t slot o
    let f := s.pruneFault c t o p
    if p.n ≤ o.pos then s
    else if f ≠ 0 then s.tileFault t f 2
    else
      let r := (s.checkedRead c t (s.pruneSpan c t o p)).progress 1 ((p.n - o.pos + 7) / 8)
      if r.2.cst c ≠ stRunning then r.2 else r.2.pruneTo c t slot o (Min.min p.n (o.pos + 8 * r.1))

/-- A widening addition or rounding in progress completes (R265). -/
def State.saveWiden (s : State) (c t slot : Nat) : State :=
  match (s.engOf c t).vec slot with
  | none => s
  | some o =>
    let e := s.openEcc (s.xLine c) (widenSpan slot o)
    (e.2.wideningAdd t slot e.1).roundLedger t slot e.1

/-- A step of the save, while the context still runs. -/
def State.saving (s : State) (c : Nat) (f : State → State) : State := if s.cst c = stRunning then f s else s

/-- The mule completes the current panel of a pass that has begun and sends its results; h_v is not kept (R132). -/
def State.saveMule (s : State) (c t : Nat) : State :=
  let s := match (s.engOf c t).mule.active with
    | some p => if p.begun then s.mulePanel t true else s
    | none => s
  s.modEng c t fun e => { e with mule := { e.mule with hv := none } }

/-- The units of a tile save the context (R324). -/
def State.saveUnits (s : State) (c t : Nat) : State :=
  let s := s.saving c fun s => s.saveArray c t
  let s := s.saving c fun s => s.saveRow c t
  let s := s.saving c fun s => s.savePrune c t 0
  let s := s.saving c fun s => s.savePrune c t 1
  let s := s.saving c fun s => s.saveWiden c t 0
  let s := s.saving c fun s => s.saveWiden c t 1
  s.saving c fun s => s.saveMule c t

/-- The units of every tile in which a context has work load what they saved. -/
def State.loadUnits (s : State) (c : Nat) : State :=
  ((s.partTiles (s.cpart c)).filter (s.hasWork c)).foldl (fun s t => s.loadCells c t) s

end Sys2Proof.Machine
end

