-- ==== Sys2Proof/Machine/Part.lean ====
section
/-! DEFINITION. Partitions and contexts: build, dissolve and relocate, create and destroy, time slices, pre-emption, eviction and
the reports of chapter 15. -/

namespace Sys2Proof.Machine

/-! ### Partition build, dissolve, relocate (R314 to R316, R331) -/

/-- A rectangle checked for partition `p`: the status of Table 15-3 it fails with, 0 when it passes. A position under BIST
counts as unserved (R436). -/
def State.rectStatus (s : State) (p x0 y0 w h : Nat) : Nat :=
  if w = 0 ∨ h = 0 ∨ 84 < x0 + w ∨ 42 < y0 + h then 0x0120
  else
    let tiles := rectTiles x0 y0 w h
    let taken (q t : Nat) : Bool := q != p && (s.covers q t ||
      (match (s.part q).target with
       | some (a, b) => inRect a b (s.rd (PAR_PART_CFG.width q)) (s.rd (PAR_PART_CFG.height q)) t
       | none => false))
    if tiles.any fun t => (List.range 32).any fun q => taken q t then 0x0320
    else if tiles.any fun t => s.unserved t || s.on (CAL_BIST_CTRL.running (s.phys t)) then 0x0321
    else 0

def checkPartitionBuild (p x0 y0 w h prio mask base count pool : Nat) (s : State) : Nat :=
  if 7 < prio ∨ 4096 ≤ mask ∨ 500 ≤ base ∨ 500 < count ∨ 65536 ≤ pool then 0x0120
  else
    let r := s.rectStatus p x0 y0 w h
    if r = 0x0120 then r
    else if s.rd (PAR_PART_CFG.state p) ≠ 0 then 0x0220
    else if r ≠ 0 then r
    else if s.badStacks p mask base count then 0x0300 + Config.stackRefusal.toNat
    else if s.rd PAR_CFG.free_credits < pool then 0x0323
    else 0

def doPartitionBuild (h : Hdr) (x0 y0 w ht prio stackMask slabBase slabCount creditPool : Nat) (s : State) : State :=
  (s.wr (PAR_PART_CFG.state h.partition) 1).stage h 0x0201
    (.partitionBuild h x0 y0 w ht prio stackMask slabBase slabCount creditPool)

def fwPartitionBuild (h : Hdr) (x0 y0 w ht prio stackMask slabBase slabCount creditPool : Nat) : Fw :=
  ⟨0x0201, h.length == 72, .partition, checkPartitionBuild h.partition x0 y0 w ht prio stackMask slabBase slabCount creditPool,
    doPartitionBuild h x0 y0 w ht prio stackMask slabBase slabCount creditPool, fun _ s => s⟩

def execPartitionBuild (h : Hdr) (x0 y0 w ht prio stackMask slabBase slabCount creditPool : Nat) (s : State) : Result :=
  .next (s.fwCommand h (fwPartitionBuild h x0 y0 w ht prio stackMask slabBase slabCount creditPool) (.partitionBuild h x0 y0 w ht prio stackMask slabBase slabCount creditPool))

/-- PARTITION_BUILD_APPLY at action 4 (R315): checked again, the rectangle cleared as R61 clears moved positions, and built. -/
def State.applyBuild (s : State) (h : Hdr) (x0 y0 w ht prio mask base count pool : Nat) : State :=
  let p := h.partition
  let s := s.wr (PAR_PART_CFG.state p) 0
  let st := checkPartitionBuild p x0 y0 w ht prio mask base count pool s
  if st ≠ 0 then s.reply h 0x0201 st
  else
    let tiles := rectTiles x0 y0 w ht
    let s := s.clearTiles tiles (tiles.map s.phys)
    let s := s.setReg (PAR_PART_CFG p) (2 * 2 ^ 62 + prio * 2 ^ 59 + x0 * 2 ^ 46 + y0 * 2 ^ 40 + w * 2 ^ 33 + ht * 2 ^ 27)
    let s := s.setReg (PAR_PART_CREDITS p) (pool * 2 ^ 48)
    let s := (s.setReg (PAR_PART_SLICE p 0) 0).setReg (PAR_PART_SLICE p 1) 0
    let s := (s.setReg (PAR_PART_STATUS p) 0).setPart p {}
    let m := if mask = 0 then s.defaultStacks else mask
    let s := s.setReg (STK_PART_MAP p) (count * 2 ^ 32 + base * 2 ^ 16 + m)
    (s.dec PAR_CFG.free_credits pool).reply h 0x0201 0

/-- A partition's state allows dissolving: built, with no context (R316). -/
def checkPartitionDissolve (p : Nat) (s : State) : Nat :=
  if s.rd (PAR_PART_CFG.state p) ≠ 2 ∨ !(s.partCtxs p).isEmpty then 0x0220 else 0

def fwPartitionDissolve (h : Hdr) : Fw :=
  ⟨0x0202, h.length == 0, .partition, checkPartitionDissolve h.partition,
    fun s => s.stage h 0x0202 (.partitionDissolve h), fun _ s => s⟩

def execPartitionDissolve (h : Hdr) (s : State) : Result :=
  .next (s.fwCommand h (fwPartitionDissolve h) (.partitionDissolve h))

/-- A partition dissolved at action 4 (R316). -/
def State.applyDissolve (s : State) (h : Hdr) : State :=
  let p := h.partition
  let st := checkPartitionDissolve p s
  if st ≠ 0 then s.reply h 0x0202 st
  else
    let tiles := s.partTiles p
    let s := s.clearTiles tiles (tiles.map s.phys)
    let s := s.wr PAR_CFG.free_credits (s.rd PAR_CFG.free_credits + s.rd (PAR_PART_CREDITS.pool p))
    let s := (s.setReg (PAR_PART_CFG p) 0).setReg (PAR_PART_CREDITS p) 0
    let s := (s.setReg (PAR_PART_SLICE p 0) 0).setReg (PAR_PART_SLICE p 1) 0
    let s := ((s.setReg (PAR_PART_STATUS p) 0).setReg (STK_PART_MAP p) 0).setPart p {}
    s.reply h 0x0202 0

def checkPartitionRelocate (p x0 y0 : Nat) (s : State) : Nat :=
  let r := s.rectStatus p x0 y0 (s.rd (PAR_PART_CFG.width p)) (s.rd (PAR_PART_CFG.height p))
  if s.rd (PAR_PART_CFG.state p) ≠ 2 then 0x0220
  else if r = 0x0120 then r
  else if x0 % 12 ≠ s.rd (PAR_PART_CFG.x0 p) % 12 ∨ y0 % 6 ≠ s.rd (PAR_PART_CFG.y0 p) % 6 then 0x0222
  else r

def fwPartitionRelocate (h : Hdr) (x0 y0 : Nat) : Fw :=
  ⟨0x0203, h.length == 16, .partition, checkPartitionRelocate h.partition x0 y0,
    fun s => s.stage h 0x0203 (.partitionRelocate h x0 y0), fun _ s => s⟩

def execPartitionRelocate (h : Hdr) (x0 y0 : Nat) (s : State) : Result :=
  .next (s.fwCommand h (fwPartitionRelocate h x0 y0) (.partitionRelocate h x0 y0))

/-! ### The switch (R324, R326) -/

/-- The running context of a partition is saved where it stands: the networks emptied, its stack words settled, its units and engine state
saved, the lines that the units send meanwhile delivered in their turn (R324, R325, R329), its fabric words draining. -/
def State.switchOut (s : State) (p : Nat) : State :=
  match s.running p with
  | none => s
  | some c =>
    let s := ((s.partTiles p).filter (s.hasWork c)).foldl (fun s t => (s.settleStack c t).saveUnits c t) (s.emptyNets c)
    let s := ((s.refillNets c).emptyNets c).saveRegs c
    let s := if s.cst c = stRunning then s.wr (PAR_CTX_CFG.state c) stResident else s
    let s := s.inc (PAR_CTX_STATUS.switches c) 1
    let s := s.modCtx c fun k => { k with step := k.step.map fun r => { r with saved := true, switches := r.switches + 1 } }
    ((s.wr (PAR_PART_STATUS.running_valid p) 0).wr (PAR_PART_STATUS.running p) 0).showDraining c

/-- A context starts to run: its engine state, router settings and streams are restored (R218, R325). -/
def State.startRun (s : State) (p c : Nat) : State :=
  let s := ((s.wr (PAR_CTX_CFG.state c) stRunning).wr (PAR_PART_STATUS.running p) c).wr (PAR_PART_STATUS.running_valid p) 1
  ((((s.inc (PAR_CTX_STATUS.switches c) 1).showDraining c).restoreRegs c).refillNets c).loadUnits c

/-- Bringing a context in needs an eviction (R326): it is EVICTED, or it is exclusive and a shared context's share stands in tile memory,
or it is shared and the exclusive one's does. -/
def State.needsEviction (s : State) (p c : Nat) : Bool :=
  s.cst c == stEvicted || (s.partCtxs p).any fun d =>
    d != c && s.inTiles d && s.on (PAR_CTX_CFG.exclusive d) != s.on (PAR_CTX_CFG.exclusive c)

/-- The partition switches to context `c` (R324); with an eviction to do, it runs nothing until that completes. -/
def State.switchTo (s : State) (p c : Nat) : State :=
  if s.running p = some c ∨ (s.part p).incoming = some c then s
  else
    let s := (s.switchOut p).modPart p fun q => { q with incoming := none }
    if s.needsEviction p c then
      (s.wr (PAR_PART_STATUS.evicting p) 1).modPart p fun q => { q with incoming := some c }
    else (s.wr (PAR_PART_STATUS.evicting p) 0).startRun p c

/-- Fabric words of a context are still draining, so that its share's writes wait (R326). -/
def State.draining (s : State) (c : Nat) : Bool :=
  (s.partTiles (s.cpart c)).any fun t => (s.engOf c t).flight.any AccessFlight.outside

/-- A context may be switched in (R321). -/
def State.runnable (s : State) (c : Nat) : Bool :=
  s.cst c == stResident || s.cst c == stRunning || s.cst c == stEvicted

/-- The shares of a partition cannot move now: a tile of it is gated, and what moves over its down-link waits in its field node (R218), so
that a share in THERMAL_HOLD is neither written out nor overwritten (DESIGN CHOICE, log 62). -/
def State.movesWait (s : State) (p : Nat) : Bool := (s.partTiles p).any fun t => s.gated (tileField t) (tileRow t)

/-- What arrives for the gated ones of some tiles waits in their field nodes, and the wait counts in ul_wait (R218). -/
def State.waitFor (s : State) (tiles : List Nat) : State :=
  (tiles.filter fun t => s.gated (tileField t) (tileRow t)).foldl (fun s t => s.stir (NET_UL_WAIT.ul_wait (tileField t) 4).addr) s

/-- A context's share is read and written to its eviction area. -/
def State.evict (s : State) (c : Nat) : State :=
  let s := s.checkShare c
  if s.cst c = stTeardown then s else s.writeOut c

/-- A context that R322 does not pass over: runnable, and its partition not blocked (R454). -/
def State.eligible (s : State) (c : Nat) : Bool := s.runnable c && !s.on (FLT_CTX_STATUS.blocked c)

/-- EVICTION_COMPLETE (R326): the shares that give way are in the stacks, those that come back are in the tiles, and the
incoming context runs, unless a poisoned line of its share has torn it down (R224) or it is passed over by now (R322, R454). With a fabric
drain of theirs unfinished, or while shares cannot move, it is not yet complete. -/
def State.evictionComplete (s : State) (p : Nat) : State :=
  match (s.part p).incoming with
  | none => s
  | some c =>
    let ex := s.on (PAR_CTX_CFG.exclusive c)
    let others := (s.partCtxs p).filter (· != c)
    let out := others.filter fun d => s.inTiles d && s.on (PAR_CTX_CFG.exclusive d) != ex
    if out.any s.draining then s
    else if s.movesWait p then s.waitFor (s.partTiles p)
    else
    let s := out.foldl State.evict s
    let back := if ex then [] else others.filter fun d => s.cst d == stEvicted && !s.on (PAR_CTX_CFG.exclusive d)
    let s := back.foldl State.readBack s
    let s := if s.cst c = stEvicted then s.readBack c else s
    let s := (s.wr (PAR_PART_STATUS.evicting p) 0).modPart p fun q => { q with incoming := none }
    if s.eligible c then s.startRun p c else s

def execEvictionComplete (p : Nat) (s : State) : Result := .next (if s.up then s.evictionComplete p else s)

/-! ### Time slices and pre-emption (R322, R323) -/

/-- Entry `i` of a partition's slice table: the local slot and the ticks. -/
def State.sliceEntry (s : State) (p i : Nat) : Option (Nat × Nat) :=
  let v := bits (s.reg (PAR_PART_SLICE p (i / 4))) (16 * (i % 4)) 16
  if bits v 15 1 = 1 then some (bits v 12 3, bits v 0 12) else none

/-- The context that holds a local slot of a partition. -/
def State.slotCtx (s : State) (p slot : Nat) : Option Nat := (s.partCtxs p).find? fun c => s.rd (PAR_CTX_CFG.slot c) == slot

/-- The runnable context of a slice entry, with the entry's ticks. -/
def State.entryRun (s : State) (p i : Nat) : Option (Nat × Nat) :=
  (s.sliceEntry p i).bind fun e => (s.slotCtx p e.1).bind fun c => if s.eligible c then some (c, e.2) else none

/-- The first entry of a list of entry numbers whose context is runnable: entry, context, ticks. -/
def State.firstRun (s : State) (p : Nat) (l : List Nat) : Option (Nat × Nat × Nat) :=
  l.findSome? fun i => (s.entryRun p i).map fun e => (i, e.1, e.2)

/-- The entries after entry `i`, in table order and cyclically. -/
def entriesAfter (i : Nat) : List Nat := (List.range 7).map fun k => (i + 1 + k) % 8

/-- The slice table of a partition is empty. -/
def State.noSlices (s : State) (p : Nat) : Bool := (List.range 8).all fun i => (s.sliceEntry p i).isNone

/-- An entry becomes current with a count of ticks. -/
def State.setEntry (s : State) (p i ticks : Nat) : State :=
  (s.wr (PAR_PART_STATUS.entry p) i).wr (PAR_PART_STATUS.ticks_left p) ticks

/-- The entry taken in place of entry `i`: the next runnable one, with a fresh count; or, with no other, entry `i` itself. The
context to run comes with the state. -/
def State.nextEntry (s : State) (p i : Nat) : State × Option Nat :=
  match s.firstRun p (entriesAfter i) with
  | some (j, c, n) => (s.setEntry p j n, some c)
  | none => match s.entryRun p i with
    | some (c, n) => (s.setEntry p i n, some c)
    | none => (s.wr (PAR_PART_STATUS.ticks_left p) 0, none)

/-- The context a partition with an empty slice table runs: its only context, or the one it already runs (log 10). -/
def State.soleRun (s : State) (p : Nat) : Option Nat :=
  match s.partCtxs p with
  | [c] => if s.eligible c then some c else none
  | _ => (s.running p).bind fun c => if s.eligible c then some c else none

/-- One boundary counted against the current slice, and the context that is to run (R322). -/
def State.countSlice (s : State) (p : Nat) : State × Option Nat :=
  if s.noSlices p then (s, s.soleRun p)
  else
    let i := s.rd (PAR_PART_STATUS.entry p)
    let left := s.rd (PAR_PART_STATUS.ticks_left p)
    match s.entryRun p i with
    | some (c, _) =>
      if 1 < left then (s.wr (PAR_PART_STATUS.ticks_left p) (left - 1), some c) else s.nextEntry p i
    | none => s.nextEntry p i

/-- The slice table's first runnable entry becomes current (R322, a new table). -/
def State.firstEntry (s : State) (p : Nat) : State × Option Nat :=
  if s.noSlices p then (s, s.soleRun p)
  else match s.firstRun p (List.range 8) with
    | some (i, c, n) => (s.setEntry p i n, some c)
    | none => (s.setEntry p 0 0, none)

/-- A new table takes effect: the running context continues in its first entry there, else the first runnable entry runs. -/
def State.newTable (s : State) (p : Nat) : State × Option Nat :=
  match s.running p with
  | some c =>
    match (List.range 8).findSome? fun i => (s.sliceEntry p i).bind fun e =>
        if s.slotCtx p e.1 = some c ∧ s.eligible c then some (i, e.2) else none with
    | some (i, n) => (s.setEntry p i n, some c)
    | none => s.firstEntry p
  | none => s.firstEntry p

/-- What a partition with an empty slice table runs after a pre-emption: its only context, or the one that the pre-emption interrupted. -/
def State.soleBack (s : State) (p : Nat) (before : Option Nat) : Option Nat :=
  match s.partCtxs p with
  | [c] => if s.eligible c then some c else none
  | _ => before.bind fun c => if s.eligible c && s.cpart c == p then some c else none

/-- One boundary counted against a pre-emption in force; when it ends the interrupted entry runs on with the ticks it had left,
or the table's first runnable entry where the interrupted one is forgotten (R323). -/
def State.countPreempt (s : State) (p c n : Nat) : State × Option Nat :=
  if 1 < n ∧ s.eligible c then
    ((s.modPart p fun q => { q with preempt := some (c, n - 1) }).wr (PAR_PART_STATUS.ticks_left p) (n - 1), some c)
  else
    let back := (s.part p).interrupted
    let before := (s.part p).before
    let s := s.modPart p fun q => { q with preempt := none, interrupted := none, before := none }
    if s.noSlices p then (s, s.soleBack p before)
    else match back with
    | some (i, left) =>
      match s.entryRun p i with
      | some (d, _) => (s.setEntry p i left, some d)
      | none => s.nextEntry p i
    | none => s.firstEntry p

/-- A pre-emption starts (R323, R333): the current entry is interrupted, the current slice is the pre-emption's own, and every other context
of the partition with a latency target receives a breach. -/
def State.startPreempt (s : State) (p c n : Nat) : State :=
  let cur := (s.rd (PAR_PART_STATUS.entry p), s.rd (PAR_PART_STATUS.ticks_left p))
  let s := (s.wr (PAR_PART_STATUS.ticks_left p) n).modPart p fun q => { q with
    preempt := some (c, n), interrupted := if q.preempt.isSome then q.interrupted else some cur,
    before := if q.preempt.isSome then q.before else s.running p }
  ((s.partCtxs p).filter fun d => d != c && s.rd (PAR_CTX_CFG.latency_target d) != 0).foldl
    (fun s d => s.breach d 5 0 1 n) s

/-- The partition runs the context that action 5 chose, or nothing: it then brings none in either. -/
def State.runChoice (s : State) (p : Nat) (choice : Option Nat) : State :=
  match choice with
  | some c => s.switchTo p c
  | none => ((s.switchOut p).wr (PAR_PART_STATUS.evicting p) 0).modPart p fun q => { q with incoming := none }

/-- The ticks that a partition's slice table gives a local slot. -/
def State.slotTicks (s : State) (p slot : Nat) : Nat :=
  (List.range 8).foldl (fun n i => match s.sliceEntry p i with | some e => if e.1 = slot then n + e.2 else n | none => n) 0

/-- A slice table that leaves a context out takes its slice ticks away (R333): each context that had ticks in the table before, `had` by local
slot, and has none now is told; the amount is the ticks it had (DESIGN CHOICE, log 63). -/
def State.ticksTaken (s : State) (p : Nat) (had : Nat → Nat) : State :=
  (s.partCtxs p).foldl (fun s c =>
    let n := had (s.rd (PAR_CTX_CFG.slot c))
    if 0 < n ∧ s.slotTicks p (s.rd (PAR_CTX_CFG.slot c)) = 0 then s.breach c 4 0 1 n else s) s

def checkSliceTableSet (p n : Nat) (entries : List (Nat × Nat)) (s : State) : Nat :=
  if 8 < n then 0x0120 else if n ≠ entries.length then 0x0104
  else if entries.any (fun e => 7 < e.1 || e.2 == 0 || 4095 < e.2) then 0x0120
  else if !s.built p then 0x0220 else 0

/-- SLICE_TABLE_SET: `n` and then the pairs that the payload holds. An `n` that is not their number is a parameter out of range (DESIGN CHOICE,
log 45). -/
def execSliceTableSet (h : Hdr) (n : Nat) (entries : List (Nat × Nat)) (s : State) : Result :=
  .next (s.command (.sliceTableSet h n entries) h 0x0206 (h.length == 8 + 16 * entries.length) .partition (checkSliceTableSet h.partition n entries)
    fun s => s.stage h 0x0206 (.sliceTableSet h n entries))

/-- The table's registers for a list of entries (Table 15-9). -/
def sliceWord (entries : List (Nat × Nat)) (k : Nat) : Nat :=
  (List.range 4).foldl (fun v m => match entries[4 * k + m]? with
    | some (slot, ticks) => v + (2 ^ 15 + slot * 2 ^ 12 + ticks) * 2 ^ (16 * m)
    | none => v) 0

/-- A slice table takes effect at action 5 (R322). -/
def State.applySliceTable (s : State) (h : Hdr) (entries : List (Nat × Nat)) : State :=
  let p := h.partition
  if !s.built p then s.reply h 0x0206 0x0220
  else
    let had := s.slotTicks p
    let s := (s.setReg (PAR_PART_SLICE p 0) (sliceWord entries 0)).setReg (PAR_PART_SLICE p 1) (sliceWord entries 1)
    ((s.modPart p fun q => { q with interrupted := none }).ticksTaken p had).reply h 0x0206 0

def checkContextPreEmpt (p ctx ticks : Nat) (s : State) : Nat :=
  if 127 < ctx ∨ ticks = 0 ∨ 65535 < ticks then 0x0120
  else if !s.built p then 0x0220
  else if s.cpart ctx ≠ p ∨ !s.runnable ctx then 0x0221
  else 0

/-- A pre-empt command replaces a pending one of its partition (R323); the status that ends the replaced command is open. -/
def State.stagePreempt (s : State) (h : Hdr) (ctx ticks : Nat) : State :=
  let old := s.cmd.staged.filter fun q => q.op == 0x0207 && q.hdr.partition == h.partition
  let s := { s with cmd := { s.cmd with
    staged := s.cmd.staged.filter fun q => !(q.op == 0x0207 && q.hdr.partition == h.partition) } }
  let s := old.foldl (fun s q => s.completeBy q.hdr 0x0207 (Config.replacedPreempt.toNat + 2)) s
  s.stage h 0x0207 (.contextPreEmpt h ctx ticks)

def execContextPreEmpt (h : Hdr) (ctx ticks : Nat) (s : State) : Result :=
  .next (s.command (.contextPreEmpt h ctx ticks) h 0x0207 (h.length == 16) .partition (checkContextPreEmpt h.partition ctx ticks)
    fun s => s.stagePreempt h ctx ticks)

/-- The contexts that a relocation keeps from running: those with slice ticks, or with an empty table the one that runs. -/
def State.served (s : State) (p c : Nat) : Bool :=
  if s.noSlices p then s.soleRun p == some c else decide (0 < s.slotTicks p (s.rd (PAR_CTX_CFG.slot c)))

/-- A relocation takes the slice ticks of its duration away (R333), an amount that is not known at its start (free; DESIGN CHOICE, log
63). -/
def State.ticksLost (s : State) (p : Nat) : State :=
  ((s.partCtxs p).filter fun c => s.runnable c && s.served p c).foldl (fun s c => let f := s.free 32; f.2.breach c 4 0 1 f.1) s

/-- Relocation starts at action 4 (R331): the partition is RELOCATING and runs no step, nor brings a context in. -/
def State.applyRelocate (s : State) (h : Hdr) (x0 y0 : Nat) : State :=
  let p := h.partition
  let st := checkPartitionRelocate p x0 y0 s
  if st ≠ 0 then s.reply h 0x0203 st
  else
    let s := ((s.ticksLost p).switchOut p).wr (PAR_PART_CFG.state p) 3
    ((s.wr (PAR_PART_STATUS.evicting p) 0).modPart p fun q =>
      { q with incoming := none, target := some (x0, y0), copied := false }).reply h 0x0203 0

/-- A share that relocation cannot read, or that a substitution cleared: the context becomes RELOAD with fault 0x2F03 (R331,
R454). -/
def State.loseShare (s : State) (c : Nat) : State :=
  ((s.wr (PAR_CTX_CFG.state c) stReload).modCtx c fun k => { k with step := none, slip := 0, cache := [], drove := none }).fault 0x2F03 1 0 0 (some c)
    (some (s.cpart c)) []

/-- RELOCATION_COMPLETE (R331): every share is copied, shares with work in a gated tile or a bad one are lost, the old rectangle
is cleared and freed, and the notice goes out. The partition is BUILT at the next boundary. While a tile of the new rectangle is gated its
part waits in the field node, and the relocation is not complete (R218). -/
def State.relocationComplete (s : State) (p : Nat) : State :=
  match (s.part p).target with
  | none => s
  | some (x0, y0) =>
    let into := (s.partTiles p).map (s.relocated p x0 y0)
    if s.rd (PAR_PART_CFG.state p) ≠ 3 ∨ (s.part p).copied then s
    else if into.any fun t => s.gated (tileField t) (tileRow t) then s.waitFor into
    else
      let lost := (s.partCtxs p).filter fun c => s.inTiles c && (s.partTiles p).any fun t =>
        s.hasWork c t && (s.gated (tileField t) (tileRow t) || s.unserved t)
      let s := ((s.partCtxs p).filter fun c => s.inTiles c && !lost.contains c).foldl State.checkShare s
      let s := s.copyShares p x0 y0
      let s := (s.wr (PAR_PART_CFG.x0 p) x0).wr (PAR_PART_CFG.y0 p) y0
      let s := lost.foldl (fun s c => (s.clearShare c).loseShare c) s
      let s := s.modPart p fun q => { q with target := none, copied := true }
      s.notice p 0 2 p 0

def execRelocationComplete (p : Nat) (s : State) : Result := .next (if s.up then s.relocationComplete p else s)

/-! ### Contexts (R317 to R320) -/

/-- A share's range as R318 limits it. -/
def badShare (exclusive base lines : Nat) : Bool :=
  if exclusive = 1 then !(base == 0 && lines == 81920)
  else base % 1024 != 0 || lines % 1024 != 0 || decide (lines < 8192) || decide (81920 < lines) || decide (81920 < base + lines)

def checkContextCreate (p c slot role base lines exclusive floor evict target report : Nat) (s : State) : Nat :=
  if 7 < slot ∨ 2 < role ∨ 1 < exclusive ∨ badShare exclusive base lines ∨ 63 < target ∨ 1 < report ∨ 65535 < floor ∨
      2 ^ 40 ≤ evict then 0x0120
  else if s.rd (PAR_PART_CFG.state p) ≠ 2 then 0x0220
  else if s.cst c ≠ stFree then 0x0221
  else if 8 ≤ (s.partCtxs p).length then 0x0325
  else if (s.slotCtx p slot).isSome then 0x0221
  else if (s.partCtxs p).any fun d => if exclusive = 1 then s.on (PAR_CTX_CFG.exclusive d) else
      !s.on (PAR_CTX_CFG.exclusive d) &&
        overlap base lines (s.rd (PAR_CTX_CFG.share_base d)) (s.rd (PAR_CTX_CFG.share_lines d)) then 0x0322
  else if s.rd (PAR_PART_CREDITS.pool p) < s.rd (PAR_PART_CREDITS.floor_sum p) + floor then 0x0323
  else
    let n := lines * 300 * s.rd (PAR_PART_CFG.width p) * s.rd (PAR_PART_CFG.height p)
    if s.stackSpace p < evict * 256 + n then 0x0324
    else if (s.partCtxs p).any fun d => overlap (evict * 256) n (s.evictBase d) (s.evictBytes d) then 0x0324
    else 0

/-- A context is created (R317, R320, R366, R467): RESIDENT with its share cleared in every tile, or EVICTED with its cleared
share in its eviction area where an overlapping share is in tile memory. -/
def doContextCreate (h : Hdr) (slot role base lines exclusive seed floor evict target report : Nat) (s : State) : State :=
  let c := h.context
  let p := h.partition
  let clash := (s.partCtxs p).any fun d => s.inTiles d &&
    overlap base lines (s.rd (PAR_CTX_CFG.share_base d)) (s.rd (PAR_CTX_CFG.share_lines d))
  let st := if clash then stEvicted else stResident
  let s := s.setReg (PAR_CTX_CFG c) (st * 2 ^ 61 + p * 2 ^ 56 + slot * 2 ^ 53 + role * 2 ^ 51 + exclusive * 2 ^ 50 +
    report * 2 ^ 49 + base * 2 ^ 31 + lines * 2 ^ 14 + target * 2 ^ 8)
  let s := ((s.setReg (PAR_CTX_CREDIT c) (floor * 2 ^ 48)).setReg (PAR_CTX_SEED c) seed).setReg (PAR_CTX_EVICT c) evict
  let s := s.wr (PAR_PART_CREDITS.floor_sum p) (s.rd (PAR_PART_CREDITS.floor_sum p) + floor)
  let s := s.wr (PAR_PART_CFG.contexts p) (s.partCtxs p).length
  let s := (s.wr (CMD_RESULT_CFG.retention_ms c) 60000).setReg (CMD_RESULT_STATUS c) 0
  let s := (s.wr (FLT_CTX_STATUS.faults c) 0).wr (FLT_CTX_STATUS.blocked c) 0
  let s := ((s.setReg (FLT_CTX_ILOG_BASE c) 0).setReg (FLT_CTX_ILOG_CFG c) 0).setReg (FLT_CTX_ILOG_WIN c) 0
  let s := ((s.setReg (FLT_CTX_ILOG_STEP c) 0).setReg (FLT_CTX_FINISH c) 0).setReg (FLT_CTX_FINISH_MAX c) 0
  let s := s.setCtx c {}
  let s := if clash then s.zeroPart p (s.evictBase c) (s.evictBytes c) else s.clearShare c
  s.reply h 0x0204 0

def fwContextCreate (h : Hdr) (slot role shareBase shareLines exclusive baseSeed creditFloor evictAddr latencyTarget
    reportEn : Nat) : Fw :=
  ⟨0x0204, h.length == 80, .partition, checkContextCreate h.partition h.context slot role shareBase shareLines exclusive creditFloor evictAddr latencyTarget reportEn,
    doContextCreate h slot role shareBase shareLines exclusive baseSeed creditFloor evictAddr latencyTarget reportEn, fun _ s => s⟩

def execContextCreate (h : Hdr) (slot role shareBase shareLines exclusive baseSeed creditFloor evictAddr latencyTarget
    reportEn : Nat) (s : State) : Result :=
  .next (s.fwCommand h (fwContextCreate h slot role shareBase shareLines exclusive baseSeed creditFloor evictAddr latencyTarget
    reportEn) (.contextCreate h slot role shareBase shareLines exclusive baseSeed creditFloor evictAddr latencyTarget reportEn))

/-- CONTEXT_DESTROY takes effect at action 1 of its boundary (R320). -/
def fwContextDestroy (h : Hdr) : Fw :=
  ⟨0x0205, h.length == 0, .context, fun _ => 0,
    fun s => s.stage h 0x0205 (.contextDestroy h), fun _ s => s⟩

def execContextDestroy (h : Hdr) (s : State) : Result :=
  .next (s.fwCommand h (fwContextDestroy h) (.contextDestroy h))

/-! ### Reports (R332, R335) and breaches (R47, R333) -/

/-- The code of a position in the free-area map (R335). -/
def State.areaCode (s : State) (t : Nat) : Nat :=
  if s.unserved t then 2
  else if (s.partOf t).isSome then 1
  else if s.gated (tileField t) (tileRow t) then 3
  else 0

/-- The 882-byte map, four codes a byte from bit 0 upward, and six zero bytes. -/
def State.areaMap (s : State) : Bytes :=
  ((List.range 882).map fun i => BitVec.ofNat 8 ((List.range 4).foldl (fun v m => v + s.areaCode (4 * i + m) * 4 ^ m) 0)) ++ leB 6 0

def execFreeAreaQuery (h : Hdr) (s : State) : Result :=
  .next (s.command (.freeAreaQuery h) h 0x0208 (h.length == 0) .none (fun _ => 0) fun s => s.reply h 0x0208 0 s.areaMap)

def execSlowdownRead (h : Hdr) (count : Nat) (s : State) : Result :=
  .next (s.command (.slowdownRead h count) h 0x0209 (h.length == 8) .context (fun _ => if count = 0 ∨ 16 < count then 0x0120 else 0)
    fun s => s.reply h 0x0209 0 ((s.ctx h.context).slowdown.take count).flatten)

/-- TICK_SLIP_LIMIT (R47): the partition has slipped more consecutive ticks than skip_limit, whichever contexts they held up, and the
context whose step is running is torn down with a class 2 fault, whose code the spec does not state (free). -/
def State.slipLimit (s : State) (p : Nat) : State :=
  match s.running p with
  | some c =>
    if (s.ctx c).step.isSome ∧ s.rd TIM_BOUNDARY.skip_limit < (s.part p).slips then
      let r := s.free 16
      r.2.fault r.1 2 0 0 (some c) (some p) []
    else s
  | none => s

def execTickSlipLimit (p : Nat) (s : State) : Result := .next (if s.up then s.slipLimit p else s)

/-- The resource with the largest attributed count of a slowdown record (R333): express 7, stacks 3, ports 4, power cap 5. -/
def largestResource (r : Bytes) : Nat :=
  let l := [(leAt r 24 4, 7), (leAt r 28 4, 3), (leAt r 32 4, 4), (leAt r 36 4, 5)]
  (l.foldl (fun (b : Nat × Nat) x => if b.1 < x.1 then x else b) (0, 7)).2

/-- LATENCY_BREACH (R333): a context's steps have slipped more than latency_target consecutive ticks. The level that prevailed is
not stated (free, 1 to 5). -/
def State.latencyBreach (s : State) (c : Nat) : State :=
  let target := s.rd (PAR_CTX_CFG.latency_target c)
  if s.cst c ≠ 0 ∧ target ≠ 0 ∧ target < (s.ctx c).slip ∧ !(s.ctx c).breached then
    let r := s.free 8
    let res := match (s.ctx c).slowdown with | x :: _ => largestResource x | [] => 7
    (r.2.modCtx c fun k => { k with breached := true }).breach c 5 (1 + r.1 % 5) res (s.ctx c).slip
  else s

def execLatencyBreach (ctx : Nat) (s : State) : Result := .next (if s.up then s.latencyBreach ctx else s)

/-- FABRIC_DRAIN_TIMEOUT (R328): fabric words of a switched-out context are still outstanding drain_us after the switch: they are
cancelled, their credits return, and they are issued again at restore. Packets already sent keep theirs until they are acknowledged
(R378). -/
def State.drainTimeout (s : State) (c : Nat) : State :=
  let p := s.cpart c
  let words := (s.partTiles p).flatMap fun t => (s.engOf c t).flight.filter AccessFlight.outside
  if words.isEmpty ∨ s.cst c = stRunning ∨ s.cst c = stTeardown then s
  else
    let s := { s with hall := s.hall + s.rd PAR_CFG.drain_us * 1000 }
    let s := (s.returnCredits c (words.foldl (fun n f => n + awCredits f.word) 0)).wr (PAR_CTX_STATUS.drain_cancelled c) 1
    let s := (s.partTiles p).foldl (fun s t => s.modEng c t fun e => { e with
      flight := e.flight.filter fun f => !f.outside,
      reissue := e.reissue ++ (e.flight.filter AccessFlight.outside).map (·.word),
      saved := e.saved.map fun q => if q.1 = 0x1820 then
        (q.1, BitVec.ofNat 64 (setBits q.2.toNat 24 16 (e.flight.filter fun f => !f.outside).length)) else q }) s
    (s.showDraining c).fault 0x2F02 0 0 0 (some c) (some p) []

def execFabricDrainTimeout (ctx : Nat) (s : State) : Result := .next (if s.up then s.drainTimeout ctx else s)

end Sys2Proof.Machine
end

