-- ==== Sys2Proof/Machine/Ingest.lean ====
section
/-! DEFINITION. The ingest engine's data path (R268 to R280): shard descriptors, K-pack frames, transforms, and the resident forms of
Table 13-3. -/

namespace Sys2Proof.Machine

/-! ### The shard descriptor (Table 13-1) -/

def sdKind (d : Bytes) : Nat := leAt d 6 1
def sdFlags (d : Bytes) : Nat := leAt d 7 1
def sdTensor (d : Bytes) : Nat := leAt d 8 4
def sdIndex (d : Bytes) : Nat := leAt d 12 4
def sdVersion (d : Bytes) : Nat := leAt d 16 8
def sdLen (d : Bytes) : Nat := leAt d 24 4
def sdElements (d : Bytes) : Nat := leAt d 28 4
def sdSrc (d : Bytes) : Nat := leAt d 32 1
def sdRes (d : Bytes) : Nat := leAt d 33 1
def sdLayout (d : Bytes) : Nat := leAt d 34 1
def sdConv (d : Bytes) : Nat := leAt d 35 1
def sdK (d : Bytes) : Nat := leAt d 36 4
def sdN (d : Bytes) : Nat := leAt d 40 4
def sdDest (d : Bytes) : Nat := leAt d 44 1
def sdTile (d : Bytes) : Nat := leAt d 46 2
def sdLine (d : Bytes) : Nat := leAt d 48 4
def sdStore (d : Bytes) : Nat := leAt d 52 4
def sdStack (d : Bytes) : Nat := leAt d 56 8
def sdMask (d : Bytes) : Nat := leAt d 64 8
def sdMaskDst (d : Bytes) : Nat := leAt d 72 4
def sdDigest (d : Bytes) : Bytes := slice d 96 32

/-- The pairs of Table 13-2. -/
def pairOk (src res : Nat) : Bool :=
  (src == res && (decide (src ≤ 5) || src == 7)) || (src == 7 && decide (res ≤ 1)) ||
    ((decide (src ≤ 1) || src == 7) && decide (2 ≤ res) && decide (res ≤ 4)) || (src == 5 && res == 2)

/-- The rows of a payload and the elements of each: one run for layout 0x0 (R275). -/
def sdRows (d : Bytes) : Nat := if sdLayout d = 0 then 1 else sdN d
def sdRow (d : Bytes) : Nat := if sdLayout d = 0 then sdElements d else sdK d

/-- MX blocks of a row. -/
def sdBlocks (d : Bytes) : Nat := (sdRow d + 31) / 32

/-- Bytes that `n` elements of a format take packed. -/
def packedBytes (code n : Nat) : Nat := (n * fmtBits code + 7) / 8

/-- Bytes of the decoded payload that a descriptor implies (R279). -/
def rawLen (d : Bytes) : Nat :=
  packedBytes (sdSrc d) (sdElements d) + (if isMx (sdSrc d) then sdRows d * sdBlocks d else 0)

/-- The fields of a descriptor are in their ranges and agree, wherever the shard goes (R269, R274, R89, R137). A raw payload has the
length its elements take, and only layouts that a reader of theirs defines take a resident format (DEDUCED, log 33). -/
def shardFieldsOk (d : Bytes) : Bool :=
  decide (leAt d 0 4 = 0x4B575344) && decide (leAt d 4 2 = 1) && decide (sdKind d ≤ 2) && decide (sdFlags d < 4) &&
    decide (sdIndex d ≤ 262143) && decide (1 ≤ sdLen d) && decide (sdLen d ≤ 4194304) && decide (1 ≤ sdElements d) &&
    decide (sdElements d ≤ 8388608) && pairOk (sdSrc d) (sdRes d) && decide (sdLayout d ≤ 5) && decide (sdConv d < 4) &&
    leAt d 45 1 == 0 && (slice d 76 20).all (· == 0) &&
    (sdLayout d == 0 || (sdElements d == sdK d * sdN d && decide (sdRes d ≤ 4))) &&
    (sdConv d % 2 == 0 || decide (sdRes d ≤ 4)) && (!(sdLayout d == 4 || sdLayout d == 5) || sdK d % 4 == 0) &&
    (sdFlags d % 2 == 1 || sdLen d == rawLen d)

/-! ### K-pack (R279, Table 13-4) -/

/-- The symbols that have a code, in canonical order, with their code lengths. -/
def packSymbols (f : Bytes) : List (Nat × Nat) :=
  let len (s : Nat) : Nat := bits (leAt f (8 + s / 2) 1) (4 * (s % 2)) 4
  (List.range 15).flatMap fun l => ((List.range 256).filter fun s => len s == l + 1).map fun s => (s, l + 1)

/-- Each symbol with its length and code value. -/
def packCodes (f : Bytes) : List (Nat × Nat × Nat) :=
  ((packSymbols f).foldl (fun (a : Nat × Nat × List (Nat × Nat × Nat)) e =>
    let code := a.1 * 2 ^ (e.2 - a.2.1)
    (code + 1, e.2, a.2.2 ++ [(e.1, e.2, code)])) (0, 0, [])).2.2

/-- The lengths neither over-subscribe the code nor leave it incomplete. -/
def packFull (f : Bytes) : Bool := (packSymbols f).foldl (fun n e => n + 2 ^ (15 - e.2)) 0 == 2 ^ 15

/-- The bits of a byte string, bit 0 of each byte first. -/
def bitsOf (b : Bytes) : List Bool := b.flatMap fun x => (List.range 8).map fun i => x.getLsbD i

/-- The symbol whose code the bits so far spell: `len` bits read, `v` their value. -/
def packMatch (codes : List (Nat × Nat × Nat)) (len v : Nat) : Option Nat :=
  (codes.find? fun e => e.2.1 == len && e.2.2 == v).map (·.1)

/-- Up to `n` bytes decoded from the bits, with the bits left. -/
def packDecode (codes : List (Nat × Nat × Nat)) : List Bool → Nat → Nat → Nat → Option (Bytes × List Bool)
  | l, 0, _, _ => some ([], l)
  | [], _, _, _ => none
  | b :: l, n + 1, len, v =>
    let v := 2 * v + bit b
    match packMatch codes (len + 1) v with
    | some x => (packDecode codes l n 0 0).map fun r => (BitVec.ofNat 8 x :: r.1, r.2)
    | none => packDecode codes l (n + 1) (len + 1) v

/-- The decoded payload of a frame; none for a malformed one. -/
def unpack (d f : Bytes) : Option Bytes :=
  let n := leAt f 4 4
  if leAt f 0 4 ≠ 0x4B504B31 ∨ n = 0 ∨ 8388608 < n ∨ !packFull f ∨ n ≠ rawLen d then none
  else match packDecode (packCodes f) (bitsOf (f.drop 136)) n 0 0 with
    | some (b, rest) => if rest.length ≤ 7 then some b else none
    | none => none

/-! ### Transforms (R274, R275, R278) -/

/-- The elements and the scale bytes of a decoded payload. -/
def rawWords (d b : Bytes) : List Nat :=
  if sdSrc d = 5 then
    ((b.take (packedBytes 5 (sdElements d))).flatMap fun x => [x.toNat % 16, x.toNat / 16]).take (sdElements d)
  else (List.range (sdElements d)).map fun i => wordAt (fmtBytes (sdSrc d)) b i
def rawScales (d b : Bytes) : List Nat := (b.drop (packedBytes (sdSrc d) (sdElements d))).map (·.toNat)

/-- A transform that converts values, and so draws under stochastic rounding. -/
def converts (d : Bytes) : Bool := sdSrc d != sdRes d && sdSrc d != 5

/-- The result of a transform: the resident elements, the scale bytes, the flags of TIL_NUM_STATUS and the elements saturated. -/
structure Transformed where
  words : List Nat
  scales : List Nat
  flags : Nat := 0
  sats : Nat := 0
deriving DecidableEq, Repr

/-- A payload transformed; `draws` one for each element. -/
def transform (d b : Bytes) (draws : List (Option Nat)) : Transformed :=
  let ws := rawWords d b
  let inf := sdConv d / 2 == 1
  let val (w : Nat) : Num := decodeNum (sdSrc d) w
  if sdSrc d = sdRes d then ⟨ws, rawScales d b, 0, 0⟩
  else if sdSrc d = 5 then ⟨ws.map fun w => encodeNum 2 (decodeNum 5 w), rawScales d b, 0, 0⟩
  else if isMx (sdRes d) then
    let rows := (chunks (sdRow d) (sdRows d) ws).zip (chunks (sdRow d) (sdRows d) draws)
    let blocks := rows.flatMap fun r => (chunks 32 (sdBlocks d) r.1).zip (chunks 32 (sdBlocks d) r.2)
    let out := blocks.map fun q => mxBlock (sdRes d) q.2 inf (q.1.map val)
    ⟨out.flatMap (·.2.1), out.map (·.1), out.foldl (fun f x => f ||| x.2.2.1) (nanIn (ws.map val)),
      out.foldl (fun n x => n + x.2.2.2) 0⟩
  else
    let out := (ws.zip draws).map fun q => roundNum (sdRes d) q.2 inf (val q.1)
    ⟨out.map fun x => encodeNum (sdRes d) x.1, [], out.foldl (fun f x => f ||| x.2) (nanIn (ws.map val)),
      (out.filter fun x => x.2 &&& flSat != 0).length⟩

/-- A descriptor that R72 or R137 refuses: a format code reserved or not taken by the transforms, or a 2:4 length that is no multiple of
4. -/
def refusedFormat (d : Bytes) : Bool :=
  !pairOk (sdSrc d) (sdRes d) || ((sdLayout d == 4 || sdLayout d == 5) && sdK d % 4 != 0)

/-! ### Resident forms (R276, R277, Table 13-3) -/

/-- The resident bytes of a shard: its lines, its scale bytes and its mask bytes; a byte of none is open. -/
structure Resident where
  lines : Bytes
  scales : List (Option Nat)
  masks : Bytes
deriving DecidableEq, Repr

/-- What the layouts place: the descriptor's shape, its elements, scales, and the forward mask of a group of a row. -/
structure Form where
  n : Nat
  k : Nat
  code : Nat
  words : List Nat
  scales : List Nat
  mask : Nat → Nat → Nat

def Form.el (f : Form) (row k : Nat) : Nat := if row < f.n ∧ k < f.k then f.words.getD (row * f.k + k) 0 else 0
def Form.scale (f : Form) (row b : Nat) : Nat :=
  if row < f.n ∧ 32 * b < f.k then f.scales.getD (row * ((f.k + 31) / 32) + b) 0 else 0
def Form.mx (f : Form) : Bool := isMx f.code
def Form.bytes (f : Form) (w : Nat) : Bytes := leB (fmtBytes f.code) w

/-- The mask of group `g` of a row, and the element in one of its two slots. -/
def Form.groupMask (f : Form) (row g : Nat) : Nat := if row < f.n ∧ 4 * g < f.k then f.mask row g else 0
def Form.slot (f : Form) (row g i : Nat) : Nat :=
  match (((List.range 4).filter fun b => bits (f.groupMask row g) b 1 == 1)[i]?) with
  | some b => f.el row (4 * g + b)
  | none => 0

/-- Lines of one group of 64 outputs in the feeder layouts. -/
def Form.feedLines (f : Form) (sparse : Bool) : Nat :=
  if sparse then (if f.mx then (f.k + 7) / 8 else (f.k + 3) / 4) else if f.mx then (f.k + 3) / 4 else (f.k + 1) / 2

/-- A feeder value line (R103): `i`-th line of group `g`. -/
def Form.feedLine (f : Form) (g i : Nat) : Bytes :=
  (List.range 2).flatMap fun h => (List.range 64).flatMap fun r =>
    if f.mx then (List.range 2).flatMap fun e => f.bytes (f.el (64 * g + r) (4 * i + 2 * h + e))
    else f.bytes (f.el (64 * g + r) (2 * i + h))

/-- A 2:4 value line (Table 7-2). -/
def Form.sparseLine (f : Form) (g v : Nat) : Bytes :=
  (List.range 2).flatMap fun h => (List.range 64).flatMap fun r =>
    if f.mx then (List.range 2).flatMap fun e => f.bytes (f.slot (64 * g + r) (2 * v + h) e)
    else f.bytes (f.slot (64 * g + r) v h)

/-- A scale line of a feeder group: two blocks of 64 outputs; the rest of the line is zero. -/
def Form.scaleLine (f : Form) (g j : Nat) : List (Option Nat) :=
  ((List.range 2).flatMap fun q => (List.range 64).map fun r => some (f.scale (64 * g + r) (2 * j + q))) ++ List.replicate 128 (some 0)

/-- A mask line of a feeder group: eight groups of 64 outputs, four bits each. -/
def Form.maskLine (f : Form) (g m : Nat) : Bytes :=
  (List.range 8).flatMap fun q => (List.range 32).map fun r =>
    BitVec.ofNat 8 (f.groupMask (64 * g + 2 * r) (8 * m + q) + 16 * f.groupMask (64 * g + 2 * r + 1) (8 * m + q))

/-- Layouts 0x1, 0x2 and 0x4: feeder lines of group after group, one scale line for each 64 reduction elements, one mask line for each
8 groups. -/
def Form.feeder (f : Form) (sparse : Bool) : Resident :=
  let gs := (f.n + 63) / 64
  let per := f.feedLines sparse
  { lines := (List.range gs).flatMap fun g => (List.range per).flatMap fun i => if sparse then f.sparseLine g i else f.feedLine g i,
    scales := if f.mx then (List.range gs).flatMap fun g => (List.range ((f.k + 63) / 64)).flatMap (f.scaleLine g) else [],
    masks := if sparse then (List.range gs).flatMap fun g => (List.range (((f.k + 3) / 4 + 7) / 8)).flatMap (f.maskLine g) else [] }

/-- The scale that stands for two blocks in one place of the 2:4 mule store: that of the block with elements, or the one they share; open
where they differ, since the spec gives a place for each 32 stored values only (free, log 33). -/
def Form.pairScale (f : Form) (row j : Nat) : Option Nat :=
  let a := f.scale row (2 * j)
  if f.k ≤ 64 * j + 32 ∨ a = f.scale row (2 * j + 1) then some a else none

/-- Layouts 0x3 and 0x5: mule lines of panel after panel, beat after beat (R119, R120, R142). -/
def Form.mule (f : Form) (sparse : Bool) : Resident :=
  let w := if f.mx then 256 else 128
  let span := if sparse then 2 * w else w
  let beats := (f.k + span - 1) / span
  let at_ {α : Type} (g : Nat → Nat → List α) : List α :=
    (List.range ((f.n + 47) / 48)).flatMap fun p => (List.range beats).flatMap fun b => (List.range 48).flatMap fun l => g (48 * p + l) b
  { lines := at_ fun row b =>
      if sparse then (List.range (w / 2)).flatMap fun g => (List.range 2).flatMap fun i => f.bytes (f.slot row (b * (w / 2) + g) i)
      else (List.range w).flatMap fun i => f.bytes (f.el row (b * w + i)),
    scales := if f.mx then at_ fun row b => (List.range 8).map fun j =>
        if sparse then f.pairScale row (8 * b + j) else some (f.scale row (8 * b + j)) else [],
    masks := if sparse then at_ fun row b => (List.range (w / 4)).map fun m =>
        BitVec.ofNat 8 (f.groupMask row (b * (w / 2) + 2 * m) + 16 * f.groupMask row (b * (w / 2) + 2 * m + 1)) else [] }

/-- Elements packed as a payload packs them. -/
def packElements (code : Nat) (ws : List Nat) : Bytes :=
  if code = 5 then (List.range ((ws.length + 1) / 2)).map fun i => BitVec.ofNat 8 (ws.getD (2 * i) 0 + 16 * ws.getD (2 * i + 1) 0)
  else ws.flatMap (leB (fmtBytes code))

/-- The resident form of a transformed shard. -/
def residentForm (d : Bytes) (ws scs : List Nat) (mask : Nat → Nat → Nat) : Resident :=
  let f : Form := ⟨sdN d, sdK d, sdRes d, ws, scs, mask⟩
  match sdLayout d with
  | 0 => ⟨packElements (sdRes d) ws ++ (scs.map (BitVec.ofNat 8)), [], []⟩
  | 1 | 2 => f.feeder false
  | 3 => f.mule false
  | 4 => f.feeder true
  | _ => f.mule true

/-- Bytes of lines, scales and masks of the resident form, from the descriptor alone. -/
def residentSize (d : Bytes) : Nat × Nat × Nat :=
  let mx := isMx (sdRes d)
  let gs := (sdN d + 63) / 64
  let w := if mx then 256 else 128
  let mule (sparse : Bool) : Nat :=
    48 * ((sdN d + 47) / 48) * (let span := if sparse then 2 * w else w; (sdK d + span - 1) / span)
  let f : Form := ⟨sdN d, sdK d, sdRes d, [], [], fun _ _ => 0⟩
  match sdLayout d with
  | 0 => (packedBytes (sdRes d) (sdElements d) + (if mx then sdBlocks d else 0), 0, 0)
  | 1 | 2 => (256 * gs * f.feedLines false, if mx then 256 * gs * ((sdK d + 63) / 64) else 0, 0)
  | 3 => (256 * mule false, if mx then 8 * mule false else 0, 0)
  | 4 => (256 * gs * f.feedLines true, if mx then 256 * gs * ((sdK d + 63) / 64) else 0, 256 * gs * (((sdK d + 3) / 4 + 7) / 8))
  | _ => (256 * mule true, if mx then 8 * mule true else 0, w / 4 * mule true)

end Sys2Proof.Machine
end

