-- ==== Sys2Proof/Machine/Weights.lean ====
section
/-! DEFINITION. Weight sets and adapters: builds from open to release, the arrival of shards (R268 to R281), commits, switches and
releases (R285 to R294), scrubbing (R295, R296), and the adapter directory (R297, R298). -/

namespace Sys2Proof.Machine

/-! ### Slots and builds -/

def wgtState (c slot : Nat) : RF := if slot = 0 then WGT_STATUS.state0 c else WGT_STATUS.state1 c
def wgtPinned (c slot : Nat) : RF := if slot = 0 then WGT_STATUS.pinned0 c else WGT_STATUS.pinned1 c

/-- Weight-set states (Table 13-6). -/
def wsEmpty : Nat := 0
def wsBuilding : Nat := 1
def wsReady : Nat := 2
def wsCurrent : Nat := 3
def wsPinned : Nat := 4
def wsDamaged : Nat := 5

def State.setState (s : State) (c slot : Nat) : Nat := s.rd (wgtState c slot)

/-- The slot that is CURRENT, none where no slot is. -/
def State.currentSlot (s : State) (c : Nat) : Option Nat :=
  let k := s.rd (WGT_STATUS.current c)
  if s.setState c k = wsCurrent then some k else none

def State.build (s : State) (c target : Nat) : Option Build := s.wgt.builds.find? fun b => b.ctx == c && b.target == target

/-- A build replaced or added. -/
def State.setBuild (s : State) (b : Build) : State :=
  { s with wgt := { s.wgt with builds := b :: s.wgt.builds.filter fun x => !(x.ctx == b.ctx && x.target == b.target) } }
def State.modBuild (s : State) (c target : Nat) (f : Build → Build) : State :=
  match s.build c target with | some b => s.setBuild (f b) | none => s
def State.dropBuild (s : State) (c target : Nat) : State :=
  { s with wgt := { s.wgt with builds := s.wgt.builds.filter fun x => !(x.ctx == c && x.target == target) } }

/-- The build of an adapter entry (R297). -/
def State.adapterBuild (s : State) (entry : Nat) : Option Build := s.wgt.builds.find? fun b => b.target == entry + 2

/-- A build takes shards still: its slot is BUILDING, or its entry LOADING. -/
def State.taking (s : State) (b : Build) : Bool :=
  if b.target < 2 then s.setState b.ctx b.target == wsBuilding else decide (b.landed.length < b.wanted)

/-- An adapter entry is READY: every shard has landed. -/
def Build.ready (b : Build) : Bool := decide (b.wanted ≤ b.landed.length)

/-- A slot becomes EMPTY (R289, R292, R293). -/
def State.emptySlot (s : State) (c slot : Nat) : State :=
  ((((s.wr (wgtState c slot) wsEmpty).wr (wgtPinned c slot) 0).wr (WGT_PROGRESS.landed c slot) 0).dropBuild c slot).modCtx c fun k =>
    { k with masks := k.masks.filter fun m => m.slot != some slot }

/-- The entries not EMPTY are counted. -/
def State.showAdapters (s : State) : State := s.wr WGT_ADAPTERS.used (s.wgt.builds.filter fun b => decide (2 ≤ b.target)).length

/-- No switch of a context is pending. -/
def State.noSwitch (s : State) (c : Nat) : State := (s.wr (WGT_STATUS.switch_pending c) 0).wr (WGT_STATUS.pending_slot c) 0

/-- The weight-set switch of a context that waits for its boundary. -/
def State.pendingSwitch (s : State) (c : Nat) : Option Staged := s.cmd.staged.find? fun q => q.op == 0x0404 && q.hdr.context == c

/-- A pending switch replaced or cancelled: its command completes with 0x0253 (R289). -/
def State.cancelSwitch (s : State) (c : Nat) : State :=
  match s.pendingSwitch c with
  | none => s
  | some q =>
    let s := { s with cmd := { s.cmd with staged := s.cmd.staged.filter fun x => !(x.op == 0x0404 && x.hdr.context == c) } }
    (s.noSwitch c).completeBy q.hdr 0x0404 0x0253

/-! ### Where resident bytes stand -/

/-- The tile of a rectangle position. -/
def State.posTile (s : State) (c pos : Nat) : Nat :=
  let p := s.cpart c
  let w := s.rd (PAR_PART_CFG.width p)
  tileAt (s.rd (PAR_PART_CFG.x0 p) + pos % Max.max 1 w) (s.rd (PAR_PART_CFG.y0 p) + pos / Max.max 1 w)

/-- The offset of a tile memory (0 SRAM, 1 scale store, 2 mask store). -/
def memOff : Nat → Nat
  | 0 => sramOff
  | 1 => scaleOff
  | _ => maskOff

/-- Bytes of a context's share in a tile, from the tile or from its eviction area (R326). -/
def State.readShare (s : State) (c t off n : Nat) : Bytes :=
  if s.shareOut c then
    match s.sharePlace c t off with
    | some a => s.rdPart (s.cpart c) a n
    | none => padTo n []
  else s.rdBytes (tileAddr (s.phys t) off) n

/-- A run of a shard's resident bytes (memory, rectangle position, first byte, bytes) stored or read. -/
def State.putRun (s : State) (c : Nat) (r : Nat × Nat × Nat × Nat) (b : Bytes) : State :=
  if r.1 = 3 then (s.putPart (s.cpart c) r.2.2.1 b).unpoison (s.cpart c) r.2.2.1 b.length
  else s.storeShare c (s.posTile c r.2.1) (memOff r.1 + r.2.2.1) b
def State.getRun (s : State) (c : Nat) (r : Nat × Nat × Nat × Nat) : Bytes :=
  if r.1 = 3 then s.rdPart (s.cpart c) r.2.2.1 r.2.2.2
  else s.readShare c (s.posTile c r.2.1) (memOff r.1 + r.2.2.1) r.2.2.2

/-- The lines of a run on their way from a port die through the underlay network (R214, R227). -/
def State.runTraffic (s : State) (c die : Nat) (r : Nat × Nat × Nat × Nat) : State :=
  if r.1 = 3 then (s.countLines (s.cpart c) r.2.2.1 r.2.2.2 true).linesVia (s.cpart c) r.2.2.1 r.2.2.2 true (portNode die)
  else s.shareLines c (s.posTile c r.2.1) (memOff r.1 + r.2.2.1) r.2.2.2 (portNode die)

/-- The lines of a run that the scrubber reads. -/
def State.runRead (s : State) (c : Nat) (r : Nat × Nat × Nat × Nat) : State :=
  let t := s.posTile c r.2.1
  if r.1 = 3 then s.readLines (s.cpart c) r.2.2.1 r.2.2.2
  else if s.shareOut c then
    match s.sharePlace c t (memOff r.1 + r.2.2.1) with
    | some a => s.readLines (s.cpart c) a r.2.2.2
    | none => s
  else
    let n := (linesOf r.2.2.1 r.2.2.2).2
    (s.underlay (tileNode t) bridgeNode n).count t (NET_DL_OUT.dl_lines_out t) n

/-- Bytes written along the runs of one destination. -/
def State.putRuns (c : Nat) : List (Nat × Nat × Nat × Nat) → Bytes → State → State
  | [], _, s => s
  | r :: l, b, s => State.putRuns c l (b.drop r.2.2.2) (s.putRun c r (b.take r.2.2.2))

/-- The runs of a loaded shard, one list for each destination (R276, R286, R297). -/
def State.loadRuns (s : State) (b : Build) (d : Bytes) : List (List (Nat × Nat × Nat × Nat)) :=
  let c := b.ctx
  let k := b.target
  let z := residentSize d
  let sram := s.rd (if k = 0 then WGT_SRAM_BASE.base0 c else WGT_SRAM_BASE.base1 c)
  let scale := 64 * s.rd (if k = 0 then WGT_SCALE_WIN.base0 c else WGT_SCALE_WIN.base1 c)
  let mask := 256 * s.rd (if k = 0 then WGT_MASK_WIN.base0 c else WGT_MASK_WIN.base1 c)
  let stack := if k < 2 then s.rd (WGT_STACK_SET.base c k) else 0
  let store := sdLayout d == 3 || sdLayout d == 5
  let tile := [(0, sdTile d, 256 * (sram + sdLine d), z.1),
    (if store then (1, sdTile d, scale + sdStore d, z.2.1) else (0, sdTile d, 256 * (sram + sdStore d), z.2.1)),
    (if sdLayout d = 5 then (2, sdTile d, mask + 256 * sdMaskDst d, z.2.2) else (0, sdTile d, 256 * (sram + sdMaskDst d), z.2.2))]
  let here := tile.filter fun r => r.2.2.2 != 0
  let there := [(3, sdTile d, 256 * (stack + sdStack d), z.1 + z.2.1 + z.2.2)]
  match sdDest d with
  | 0 => [here]
  | 1 => [there]
  | _ => [here, there]

/-- The bytes of a loaded shard lie inside the windows of its set, or, of an adapter, inside the partition's stack space (R269); a
B-tile has neither scale nor mask store (R17). -/
def State.loadFits (s : State) (b : Build) (d : Bytes) : Bool :=
  let c := b.ctx
  let z := residentSize d
  let store := sdLayout d == 3 || sdLayout d == 5
  let lines := 256 * s.rd (WGT_SRAM_WIN.win_lines c)
  let stores := isF (s.posTile c (sdTile d))
  if 2 ≤ b.target then decide (256 * sdStack d + (z.1 + z.2.1 + z.2.2) ≤ s.stackSpace (s.cpart c))
  else
    (sdDest d == 1 ||
      (decide (256 * sdLine d + z.1 ≤ lines) &&
       (z.2.1 == 0 || (if store then stores && decide (sdStore d + z.2.1 ≤ 64 * s.rd (WGT_SCALE_WIN.len c))
         else decide (256 * sdStore d + z.2.1 ≤ lines))) &&
       (z.2.2 == 0 || (if sdLayout d = 5 then stores && decide (256 * sdMaskDst d + z.2.2 ≤ 256 * s.rd (WGT_MASK_WIN.len c))
         else decide (256 * sdMaskDst d + z.2.2 ≤ lines))))) &&
    (sdDest d == 0 || decide (256 * sdStack d + (z.1 + z.2.1 + z.2.2) ≤ 256 * s.rd (WGT_STACK_LEN.len c)))

/-- The side bytes of a streamed shard as the program addresses them: memory, byte, bytes (R281, R287). -/
def State.sideRuns (s : State) (c : Nat) (d : Bytes) : List (Nat × Nat × Nat) :=
  let z := residentSize d
  let on := (s.runSet c).isSome
  let w (n : Nat) : Nat := if on then n else 0
  let line (l : Nat) : Nat := 256 * (w (s.rd (WGT_SRAM_WIN.win_line c)) + l)
  [if sdLayout d = 3 ∨ sdLayout d = 5 then (1, 64 * w (s.rd (WGT_SCALE_WIN.win c)) + sdStore d, z.2.1) else (0, line (sdStore d), z.2.1),
   if sdLayout d = 5 then (2, 256 * (w (s.rd (WGT_MASK_WIN.win c)) + sdMaskDst d), z.2.2) else (0, line (sdMaskDst d), z.2.2)]

/-- The side bytes of a streamed shard lie inside their windows, or, with no set in use, inside the share. -/
def State.sidesFit (s : State) (c : Nat) (d : Bytes) : Bool :=
  let on := (s.runSet c).isSome
  (s.sideRuns c d).all fun r => r.2.2 == 0 || (
    if r.1 = 0 then
      let l := linesOf r.2.1 r.2.2
      s.sramFault c l.1 l.2 == 0 && (!on || decide (r.2.1 + r.2.2 ≤ 256 * (s.rd (WGT_SRAM_WIN.win_line c) + s.rd (WGT_SRAM_WIN.win_lines c))))
    else if r.1 = 1 then
      s.inScale c r.2.1 r.2.2 &&
        (!on || decide (r.2.1 + r.2.2 ≤ 64 * (s.rd (WGT_SCALE_WIN.win c) + s.rd (WGT_SCALE_WIN.len c))))
    else s.inMask c r.2.1 r.2.2 &&
        (!on || decide (r.2.1 + r.2.2 ≤ 256 * (s.rd (WGT_MASK_WIN.win c) + s.rd (WGT_MASK_WIN.len c)))))

/-! ### Arrival of a shard (R269 to R273) -/

/-- Where a shard goes: a build, or the training attempt that its stream feeds; `prot`: its stream is protected. -/
inductive ShardTarget where
  | load (b : Build) (prot : Bool)
  | stream (x : Stream)
deriving DecidableEq, Repr

def ShardTarget.ctx : ShardTarget → Nat
  | .load b _ => b.ctx
  | .stream x => x.ctx
def ShardTarget.cls : ShardTarget → Nat
  | .load _ _ => 1
  | .stream _ => 2
def ShardTarget.prot : ShardTarget → Bool
  | .load _ p => p
  | .stream x => x.prot

/-- The shards landed in the target's build, and the requests made (R272, R271). -/
def State.targetLanded (s : State) : ShardTarget → List Shard
  | .load b _ => ((s.build b.ctx b.target).map (·.landed)).getD []
  | .stream x => ((s.ctx x.ctx).train.map (·.landed)).getD []
def State.targetRetries (s : State) : ShardTarget → List Retry
  | .load b _ => ((s.build b.ctx b.target).map (·.retries)).getD []
  | .stream x => ((s.ctx x.ctx).train.map (·.retries)).getD []
def State.modTarget (s : State) (t : ShardTarget) (f : List Shard × List Retry → List Shard × List Retry) : State :=
  match t with
  | .load b _ => s.modBuild b.ctx b.target fun b => let r := f (b.landed, b.retries); { b with landed := r.1, retries := r.2 }
  | .stream x => s.modCtx x.ctx fun k => { k with train := k.train.map fun x => let r := f (x.landed, x.retries); { x with landed := r.1, retries := r.2 } }

/-- The version that the target's shards carry (R273); none where no attempt runs. -/
def State.targetVersion (s : State) : ShardTarget → Option Nat
  | .load b _ => some b.tag
  | .stream x => (s.ctx x.ctx).train.map (·.req.weightVersion)

/-- Shards stand in a build by tensor, then index. -/
def insertShard (x : Shard) : List Shard → List Shard
  | [] => [x]
  | y :: l => if x.tensor < y.tensor ∨ (x.tensor = y.tensor ∧ x.index < y.index) then x :: y :: l else y :: insertShard x l

/-- The set digest (R294). -/
def setDigest (l : List Shard) : Bytes := sha256 (l.flatMap (·.resident))

/-- A build's waiting command ends with no effect (R344): an adapter load leaves its entry EMPTY, a commit its slot BUILDING. -/
def State.undoWait (s : State) (w : Nat × Hdr) : State :=
  let kept := s.wgt.builds.filter fun b => !(b.waiting == some w && w.1 == 0x0407)
  { s with wgt := { s.wgt with builds := kept.map fun (b : Build) => if b.waiting = some w then { b with waiting := none } else b } }.showAdapters

/-- A command that waits for a build's completion ends: with the failure a shard raised, reported once, or when every shard has landed
(R288, R297; the failure first, DEDUCED, log 33); past its deadline with 0x0502 and no effect (R344). -/
def State.settle (s : State) (c target : Nat) : State :=
  match s.build c target with
  | none => s
  | some b =>
    match b.waiting.filter fun w => w.2.deadlineEn && decide (w.2.deadline < s.hall) with
    | some w => (s.undoWait w).reply w.2 w.1 0x0502
    | none =>
    match b.waiting, b.failure with
    | some (op, h), some f => (s.setBuild { b with failure := none, waiting := none }).reply h op f
    | some (op, h), none =>
      if b.landed.length < b.wanted then s
      else if b.target < 2 then
        let dg := setDigest b.landed
        ((s.setBuild { b with waiting := none, digest := dg }).wr (wgtState c target) wsReady).reply h op 0 dg
      else (s.setBuild { b with waiting := none }).reply h op 0
    | none, _ => s

/-- A fault that a shard raises (R269): class 2 for a streamed shard, class 1 for a load, whose commit it fails. -/
def State.shardFault (s : State) (t : ShardTarget) (port code : Nat) (detail : Bytes := []) : State :=
  let c := t.ctx
  let s := if code = 0x2D01 then s.wr (WGT_STATUS.digest_fail c) 1
    else if code = 0x2D02 then s.wr (WGT_STATUS.conflict c) 1 else s
  let s := s.fault code t.cls 5 port (some c) (some (s.cpart c)) detail
  match t with
  | .load b _ =>
    (s.modBuild c b.target fun b => { b with failure := some (b.failure.getD (if code = 0x2D02 then 0x0451 else 0x0450)) }).settle c b.target
  | .stream _ => s

/-- `n` free bytes. -/
def State.freeBytes : Nat → State → Bytes × State
  | 0, s => ([], s)
  | n + 1, s =>
    let r := s.free 8
    let q := State.freeBytes n r.2
    (BitVec.ofNat 8 r.1 :: q.1, q.2)

/-- The bytes at the destination of a load that has not landed are undefined (R270). -/
def State.scramble (s : State) (t : ShardTarget) (d : Bytes) : State :=
  match t with
  | .load b _ => (s.loadRuns b d).foldl (fun s l =>
      l.foldl (fun s r => let q := s.freeBytes r.2.2.2; q.2.putRun b.ctx r q.1) s) s
  | .stream _ => s

/-- A descriptor passes for its target (R269, R276, R297, R380). -/
def State.descriptorOk (s : State) (t : ShardTarget) (d : Bytes) : Bool :=
  let p := s.cpart t.ctx
  shardFieldsOk d && (sdFlags d / 2 == 1) == t.prot &&
  match t with
  | .stream x => sdKind d == 0 && (sdSrc d != 5 || sdRes d != 5) && s.sidesFit x.ctx d
  | .load b _ =>
    (if b.target < 2 then sdKind d == 0 else sdKind d != 0 && sdRes d == 0 && sdLayout d == 0 && sdDest d == 1) &&
      decide (sdDest d ≤ 2) && decide (sdTile d < s.rd (PAR_PART_CFG.width p) * s.rd (PAR_PART_CFG.height p)) &&
      (!(sdSrc d == 5 && sdRes d == 5) || (sdLayout d == 0 && sdDest d == 1)) &&
      (!(sdLayout d == 3 || sdLayout d == 5) || sdLine d % 48 == 0) && s.loadFits b d

/-- The step seed of R278, and the tile whose seed the lanes take: that of the shard's position, open for a shard that has none
(DEDUCED and free, log 33). -/
def State.ingestSeed (s : State) (t : ShardTarget) (d : Bytes) : (Nat × Nat) × State :=
  match t with
  | .load b _ =>
    let seed := s.rd (PAR_CTX_SEED.base_seed b.ctx) ^^^ b.tag
    if sdDest d = 1 then let r := s.free 12; ((seed, r.1 % 3528), r.2) else ((seed, s.posTile b.ctx (sdTile d)), s)
  | .stream x =>
    let r := s.free 12
    ((((s.ctx x.ctx).step.map (·.seed)).getD 0, r.1 % 3528), r.2)

/-- The generator states that the ingest lanes have reached: for streamed shards in the context's step, for loaded ones in their build
(DEDUCED, log 33); key 4,096 (16 tile + port die) + 1,024 u + lane. -/
def State.ingestLanes (s : State) : ShardTarget → List (Nat × W64)
  | .load b _ => ((s.build b.ctx b.target).map (·.rng)).getD []
  | .stream x => (s.ctx x.ctx).rng
def State.setIngestLanes (s : State) (t : ShardTarget) (l : List (Nat × W64)) : State :=
  match t with
  | .load b _ => s.modBuild b.ctx b.target fun b => { b with rng := l }
  | .stream x => s.modCtx x.ctx fun k => { k with rng := l }

/-- One draw for each element that a shard converts under stochastic rounding (R91, R278). -/
def State.ingestDraws (s : State) (t : ShardTarget) (port : Nat) (d : Bytes) : List (Option Nat) × State :=
  if converts d && sdConv d % 2 == 1 then
    let r := s.ingestSeed t d
    let die := port / 4
    let base := 16 * r.1.2 + die
    let tab := r.2.ingestLanes t
    let mine := (tab.filter fun e => e.1 / 4096 == base).map fun e => (e.1 % 4096, e.2)
    let q := drawMany (tileSeed r.1.1 r.1.2 ^^^ (256 * die)) 3 256 (sdElements d) 0 mine
    (q.1.map some, r.2.setIngestLanes t (q.2.map (fun e => (4096 * base + e.1, e.2)) ++ tab.filter fun e => e.1 / 4096 != base))
  else (List.replicate (sdElements d) none, s)

/-- The exceptions of a transform (R86, R95): they show in the tile that the shard lands in, and of a shard that lands in none, nowhere
(DESIGN CHOICE, log 33). -/
def State.ingestFlags (s : State) (t : ShardTarget) (d : Bytes) (x : Transformed) : State :=
  match t with
  | .load b _ => if sdDest d = 1 then s else s.numFlags (s.posTile b.ctx (sdTile d)) x.flags x.sats
  | .stream _ => s

/-- The mask set that a shard's descriptor names: of the weight set being built, or, for a streamed shard, of the set that the context's step
uses (R146, R287); none held reads as one whose first buffer is in force. -/
def State.ingestSet (s : State) (t : ShardTarget) (d : Bytes) : MaskSet :=
  let k : Option Nat := match t with | .load b _ => (if b.target < 2 then some b.target else none) | .stream x => s.runSet x.ctx
  ((s.ctx t.ctx).maskSet k (sdMask d)).getD ⟨k, sdMask d, 0, 0, false, false⟩

/-- The forward mask of a group of a row: the two elements that its 4 x 4 block's pattern keeps, from the mask set's current buffer in the
partition's stack space (R277; the buffer's form is the model's, logs 31 and 33: a pattern for each block in the order of the pruning unit,
column group after column group). -/
def State.ingestMask (s : State) (t : ShardTarget) (d : Bytes) (row g : Nat) : Nat :=
  let m := s.ingestSet t d
  let block := row / 64 * (16 * ((sdK d + 3) / 4)) + 16 * g + row % 64 / 4
  let pattern := ofLe (s.rdPart (s.cpart t.ctx) (s.maskAt t.ctx m m.cur (2 * block)) 2)
  let nib := bits pattern (4 * (row % 4)) 4
  (((List.range 4).filter fun b => bits nib b 1 == 1).take 2).foldl (fun m b => m + 2 ^ b) 0

/-- The stack addresses of the mask lines that a shard in 2:4 form is compressed by. -/
def State.ingestLines (s : State) (t : ShardTarget) (d : Bytes) : List Nat :=
  if sdLayout d = 4 ∨ sdLayout d = 5 then
    let m := s.ingestSet t d
    (List.range ((2 * ((sdN d + 63) / 64 * (16 * ((sdK d + 3) / 4))) + 255) / 256)).map fun i => s.maskAt t.ctx m m.cur (256 * i)
  else []

/-- The resident bytes of a decoded payload; an open scale byte is a free value. -/
def State.residentOf (s : State) (t : ShardTarget) (port : Nat) (d raw : Bytes) : (Bytes × Bytes × Bytes) × State :=
  let q := s.ingestDraws t port d
  let w := transform d raw q.1
  let f := residentForm d w.words w.scales (q.2.ingestMask t d)
  let sc := f.scales.foldl (fun (a : Bytes × State) x =>
    match x with
    | some v => (a.1 ++ [BitVec.ofNat 8 v], a.2)
    | none => let r := a.2.free 8; (a.1 ++ [BitVec.ofNat 8 r.1], r.2)) ([], q.2.ingestFlags t d w)
  ((f.lines, sc.1, f.masks), sc.2)

/-- A shard lands: a load at its destinations, a streamed shard in the order of its stream, whole lines, its side bytes beside them. One whose
masks stand in a poisoned line does not land (R224). -/
def State.land (s : State) (t : ShardTarget) (port : Nat) (d raw : Bytes) : State :=
  let p := s.cpart t.ctx
  match (s.ingestLines t d).find? fun a => s.partPoisoned p a 256 with
  | some a => s.poisonFault t.ctx a 256
  | none =>
  let s := (s.ingestLines t d).foldl (fun s a =>
    (s.countLines p a 256 false).linesVia p a 256 false (portNode (port / 4))) s
  let q := s.residentOf t port d raw
  let f := q.1
  let s := q.2.inc (WGT_INGEST.shards_in (port / 4)) 1
  match t with
  | .load b _ =>
    let all := f.1 ++ f.2.1 ++ f.2.2
    let runs := s.loadRuns b d
    let s := runs.foldl (fun s l => State.putRuns b.ctx l all s) s
    let s := runs.flatten.foldl (fun s r => s.runTraffic b.ctx (port / 4) r) s
    let s := s.modBuild b.ctx b.target fun b => { b with
      landed := insertShard ⟨sdTensor d, sdIndex d, sdDigest d, sha256 all, runs, sdKind d, sdK d, sdN d⟩ b.landed, last := s.hall }
    let s := if b.target < 2 then s.inc (WGT_PROGRESS.landed b.ctx b.target) 1 else s
    s.settle b.ctx b.target
  | .stream x =>
    let y := (s.stream x.handle).getD x
    let sides := ((s.sideRuns x.ctx d).zip [f.2.1, f.2.2]).filter fun e => !e.2.isEmpty
    let s := s.setStream { y with
      ready := y.ready ++ padTo ((f.1.length + 255) / 256 * 256) f.1,
      sides := y.sides ++ sides.map fun e => (y.ready.length, e.1.1, e.1.2.1, e.2) }
    s.modTarget t fun r => (insertShard ⟨sdTensor d, sdIndex d, sdDigest d, [], [], sdKind d, sdK d, sdN d⟩ r.1, r.2)

/-- The requests made in the arrival of the descriptor's shard from a source (R271). -/
def Retry.of (d : Bytes) (source : Nat) (e : Retry) : Bool := e.tensor == sdTensor d && e.index == sdIndex d && e.source == source

/-- An arrival of a shard is over: another starts its count of requests from zero (R271). -/
def State.endArrival (s : State) (t : ShardTarget) (d : Bytes) (source : Nat) : State :=
  s.modTarget t fun r => (r.1, r.2.filter fun e => !e.of d source)

/-- A payload that does not match its digest (R271): the shard is asked for again, or, after digest_retries requests, fails. `ask` sends
the request to where the shard came from. -/
def State.digestMissed (s : State) (t : ShardTarget) (port : Nat) (d : Bytes) (source : Nat) (ask : State → State) : State :=
  let n := (((s.targetRetries t).find? (Retry.of d source)).map (·.n)).getD 0
  let s := s.endArrival t d source
  if n < s.rd WGT_CFG.digest_retries then
    ask ((s.inc (WGT_COUNTS.retries t.ctx) 1).modTarget t fun r => (r.1, ⟨sdTensor d, sdIndex d, source, n + 1⟩ :: r.2))
  else s.shardFault t port 0x2D01

/-- A shard at the ingest engine, with its plaintext payload as sent. A descriptor that R72 or R137 refuses names a status of the 0x01xx
group in its fault (log 51). -/
def State.ingest (s : State) (t : ShardTarget) (port : Nat) (d payload : Bytes) (source : Nat) (ask : State → State) : State :=
  let c := t.ctx
  let known := (s.targetLanded t).find? fun x => x.tensor == sdTensor d && x.index == sdIndex d
  let kept := s.endArrival t d source
  if !s.descriptorOk t d then kept.shardFault t port 0x2D05 (if refusedFormat d then leB 2 0x0150 else [])
  else if s.targetVersion t ≠ some (sdVersion d) then kept.inc (WGT_COUNTS.stale_shards c) 1
  else match known with
    | some x =>
      let s := s.inc (WGT_COUNTS.dup_shards c) 1
      if x.digest ≠ sdDigest d then (s.endArrival t d source).shardFault t port 0x2D02
      else if payload.length ≠ sdLen d then (s.endArrival t d source).shardFault t port 0x2D05
      else if sha256 payload ≠ sdDigest d then s.digestMissed t port d source ask else s.endArrival t d source
    | none =>
      let takes : Bool := match t with | .load b _ => s.taking b | .stream _ => true
      if !takes then kept
      else if payload.length ≠ sdLen d then (kept.scramble t d).shardFault t port 0x2D05
      else if sha256 payload ≠ sdDigest d then (s.scramble t d).digestMissed t port d source ask
      else
        let s := kept
        let raw := if sdFlags d % 2 = 1 then unpack d payload else some payload
        match raw with
        | none => (s.scramble t d).shardFault t port 0x2D03
        | some raw => s.land t port d raw

/-- The target of a shard that arrives on a stream: the build that takes it, the attempt that it feeds, or a build already done. -/
def State.streamTarget (s : State) (handle port : Nat) : Option ShardTarget :=
  match s.stream handle with
  | none => none
  | some x =>
    if x.kind ≠ 1 ∨ x.direction ≠ 1 ∨ x.port ≠ port then none
    else
      let mine := s.wgt.builds.filter fun b => b.ctx == x.ctx && b.stream == handle
      match mine.find? s.taking with
      | some b => some (.load b x.prot)
      | none =>
        let training := match (s.ctx x.ctx).step with | some r => r.training | none => false
        if training then some (.stream x)
        else match mine.head? with
          | some b => some (.load b x.prot)
          | none => some (.stream x)

/-- SHARD_ARRIVAL: the next whole message of a weight stream, a descriptor and the payload its end-of-message flag ends, at the ingest engine
(R269, R377); a protected stream's has been decrypted under its key slot as its packets came (R270, R380). A shard that must come again is
asked for by its stream, tensor and index (R271; Table 17-5 lays out no message for it, log 33). -/
def State.shardArrival (s : State) (handle port : Nat) : State :=
  match s.stream handle, s.streamTarget handle port with
  | some x, some t =>
    match x.msgs with
    | [] => s
    | m :: rest =>
      let d := m.take 128
      (s.setStream { x with msgs := rest }).ingest t port d (m.drop 128) handle fun s =>
        s.sendFab x.port (.shardAgain handle (sdTensor d) (sdIndex d))
  | _, _ => s

def execShardArrival (stream port : Nat) (s : State) : Result := .next (if s.up then s.shardArrival stream port else s)

/-! ### Open (R286) -/

/-- A handle passes the stream check of R286. -/
def State.streamOk (s : State) (c handle : Nat) : Bool :=
  handle == 0xFFFF || (match s.stream handle with
    | some x => x.ctx == c && x.kind == 1 && x.direction == 1 && !s.wgt.builds.any fun b => b.stream == handle && s.taking b
    | none => false)

/-- A region of `n` units lies in a range and outside the other slot's. -/
def regionOk (lo hi base n : Nat) (other : Option Nat) : Bool :=
  n == 0 || (decide (lo ≤ base) && decide (base + n ≤ hi) && (match other with | some o => !overlap base n o n | none => true))

def checkWeightSetOpen (c : Nat) (r : WeightOpen) (s : State) : Nat :=
  let p := s.cpart c
  let other := 1 - r.slot
  let busy := decide (s.setState c other ≠ wsEmpty)
  let base (a b : RF) : Option Nat := if busy then some (s.rd (if other = 0 then a else b)) else none
  let share := s.rd (PAR_CTX_CFG.share_base c)
  let lines := s.rd (PAR_CTX_CFG.share_lines c)
  let store := s.portion c 8192
  if 1 < r.slot ∨ r.shards = 0 ∨ 262144 < r.shards then 0x0150
  else if s.setState c r.slot ≠ wsEmpty then 0x0250
  else if 81920 < r.sramWin + r.sramLen ∨ 8192 < r.scaleWin + r.scaleLen ∨ 8192 < r.maskWin + r.maskLen ∨
      2 ^ 64 ≤ r.stackWin + r.stackLen then 0x0150
  else if busy && !(r.sramWin == s.rd (WGT_SRAM_WIN.win_line c) && r.sramLen == s.rd (WGT_SRAM_WIN.win_lines c) &&
      r.scaleWin == s.rd (WGT_SCALE_WIN.win c) && r.scaleLen == s.rd (WGT_SCALE_WIN.len c) &&
      r.maskWin == s.rd (WGT_MASK_WIN.win c) && r.maskLen == s.rd (WGT_MASK_WIN.len c) &&
      r.stackWin == s.rd (WGT_STACK_WIN.win c) && r.stackLen == s.rd (WGT_STACK_LEN.len c)) then 0x0150
  else if !s.streamOk c r.stream then 0x0150
  else if !(regionOk share (share + lines - 5120) r.sramBase r.sramLen (base (WGT_SRAM_BASE.base0 c) (WGT_SRAM_BASE.base1 c)) &&
      regionOk store.1 store.2 r.scaleBase r.scaleLen (base (WGT_SCALE_WIN.base0 c) (WGT_SCALE_WIN.base1 c)) &&
      regionOk store.1 store.2 r.maskBase r.maskLen (base (WGT_MASK_WIN.base0 c) (WGT_MASK_WIN.base1 c)) &&
      regionOk 0 (s.stackSpace p / 256) r.stackBase r.stackLen (base (WGT_STACK_SET.base c 0) (WGT_STACK_SET.base c 1))) then 0x0350
  else 0

def doWeightSetOpen (h : Hdr) (r : WeightOpen) (s : State) : State :=
  let c := h.context
  let k := r.slot
  let s := (s.wr (wgtState c k) wsBuilding).setReg (WGT_PROGRESS c k) r.shards
  let s := ((s.wr (WGT_TAG.tag c k) r.tag).wr (WGT_SRAM_WIN.win_line c) r.sramWin).wr (WGT_SRAM_WIN.win_lines c) r.sramLen
  let s := s.wr (if k = 0 then WGT_SRAM_BASE.base0 c else WGT_SRAM_BASE.base1 c) r.sramBase
  let s := (s.wr (WGT_SCALE_WIN.win c) r.scaleWin).wr (WGT_SCALE_WIN.len c) r.scaleLen
  let s := s.wr (if k = 0 then WGT_SCALE_WIN.base0 c else WGT_SCALE_WIN.base1 c) r.scaleBase
  let s := (s.wr (WGT_MASK_WIN.win c) r.maskWin).wr (WGT_MASK_WIN.len c) r.maskLen
  let s := s.wr (if k = 0 then WGT_MASK_WIN.base0 c else WGT_MASK_WIN.base1 c) r.maskBase
  let s := ((s.wr (WGT_STACK_WIN.win c) r.stackWin).wr (WGT_STACK_LEN.len c) r.stackLen).wr (WGT_STACK_SET.base c k) r.stackBase
  let b : Build := { ctx := c, target := k, tag := r.tag, wanted := r.shards, stream := r.stream, last := s.hall }
  (s.setBuild b).reply h 0x0401 0

def fwWeightSetOpen (h : Hdr) (req : WeightOpen) : Fw :=
  ⟨0x0401, h.length == 64, .context, checkWeightSetOpen h.context req,
    doWeightSetOpen h req, fun _ s => s⟩

def execWeightSetOpen (h : Hdr) (req : WeightOpen) (s : State) : Result :=
  .next (s.fwCommand h (fwWeightSetOpen h req) (.weightSetOpen h req))

/-! ### Commit (R288) -/

def checkWeightSetCommit (c slot : Nat) (s : State) : Nat :=
  if 1 < slot then 0x0150
  else if s.setState c slot ≠ wsBuilding then 0x0250
  else match s.build c slot with
    | some b => if b.waiting.isSome then 0x0250 else 0
    | none => 0x0250

def doWeightSetCommit (h : Hdr) (slot : Nat) (s : State) : State :=
  ((s.reply h 0x0403 1).modBuild h.context slot fun b => { b with waiting := some (0x0403, h), last := s.hall }).settle h.context slot

def execWeightSetCommit (h : Hdr) (slot : Nat) (s : State) : Result :=
  .next (s.command (.weightSetCommit h slot) h 0x0403 (h.length == 8) .context (checkWeightSetCommit h.context slot) (doWeightSetCommit h slot))

/-- BUILD_TIMEOUT: no shard has landed for build_timeout seconds; `slot` is the target, an adapter entry's number plus 2. -/
def State.buildTimeout (s : State) (c target : Nat) : State :=
  match s.build c target with
  | none => s
  | some b =>
    match b.waiting with
    | some (op, h) =>
      let s := { s with hall := Max.max s.hall (b.last + s.rd WGT_CFG.build_timeout * 1000000000) }
      (s.setBuild { b with waiting := none }).reply h op 0x0550
    | none => s

def execBuildTimeout (ctx slot : Nat) (s : State) : Result := .next (if s.up then s.buildTimeout ctx slot else s)

/-! ### Switch and release (R289, R293) -/

def checkWeightSetSwitch (c slot : Nat) (s : State) : Nat :=
  if 1 < slot then 0x0150
  else if s.setState c slot = wsReady ∨ s.setState c slot = wsCurrent then 0 else 0x0250

def doWeightSetSwitch (h : Hdr) (slot : Nat) (s : State) : State :=
  let c := h.context
  let s := s.cancelSwitch c
  if s.setState c slot = wsCurrent then s.reply h 0x0404 0
  else ((s.wr (WGT_STATUS.switch_pending c) 1).wr (WGT_STATUS.pending_slot c) slot).stage h 0x0404 (.weightSetSwitch h slot)

def execWeightSetSwitch (h : Hdr) (slot : Nat) (s : State) : Result :=
  .next (s.command (.weightSetSwitch h slot) h 0x0404 (h.length == 8) .context (checkWeightSetSwitch h.context slot) (doWeightSetSwitch h slot))

/-- WEIGHT_SET_SWITCH_APPLY at action 6 (R289). -/
def State.applySwitch (s : State) (h : Hdr) (slot : Nat) : State :=
  let c := h.context
  let s := s.noSwitch c
  if s.setState c slot ≠ wsReady then s.reply h 0x0404 0x0250
  else
    let s := match s.currentSlot c with
      | some k => if s.rd (wgtPinned c k) ≠ 0 then s.wr (wgtState c k) wsPinned else s.emptySlot c k
      | none => s
    let s := (s.wr (wgtState c slot) wsCurrent).wr (WGT_STATUS.current c) slot
    (s.wr (WGT_SWITCH_TICK.tick c) s.tick).reply h 0x0404 0

def checkWeightSetRelease (c slot force : Nat) (s : State) : Nat :=
  if 1 < slot ∨ 1 < force then 0x0150
  else if (s.pendingSwitch c).isSome ∧ s.rd (WGT_STATUS.pending_slot c) = slot then 0x0250
  else if s.setState c slot = wsReady ∨ s.setState c slot = wsDamaged ∨ (s.setState c slot = wsPinned ∧ force = 1) then 0
  else 0x0250

def doWeightSetRelease (h : Hdr) (slot force : Nat) (s : State) : State :=
  if s.setState h.context slot = wsPinned then s.stage h 0x0405 (.weightSetRelease h slot force)
  else (s.emptySlot h.context slot).reply h 0x0405 0

def fwWeightSetRelease (h : Hdr) (slot force : Nat) : Fw :=
  ⟨0x0405, h.length == 16, .context, checkWeightSetRelease h.context slot force,
    doWeightSetRelease h slot force, fun _ s => s⟩

def execWeightSetRelease (h : Hdr) (slot force : Nat) (s : State) : Result :=
  .next (s.fwCommand h (fwWeightSetRelease h slot force) (.weightSetRelease h slot force))

/-- A forced release at action 6 (R293): the sequences pinned to the slot are pinned to the current set. -/
def State.applyRelease (s : State) (h : Hdr) (slot : Nat) : State :=
  let c := h.context
  if s.setState c slot ≠ wsPinned then s.reply h 0x0405 0
  else
    let cur := s.rd (WGT_STATUS.current c)
    let mine (q : Seq) : Bool := q.ctx == c && q.state != 0 && q.pin == slot + 1
    let n := (s.seqs.filter fun e => mine e.2).length
    let s := { s with seqs := s.seqs.map fun (e : Nat × Seq) => if mine e.2 then (e.1, { e.2 with pin := cur + 1 }) else e }
    let s := s.wr (wgtPinned c cur) (s.rd (wgtPinned c cur) + n)
    let s := (s.emptySlot c slot).wr (WGT_STATUS.forced c) 1
    (s.notice (s.cpart c) c 4 slot n).reply h 0x0405 0

def checkWeightSetDigest (c slot shard : Nat) (s : State) : Nat :=
  if 1 < slot then 0x0150
  else if s.setState c slot = wsEmpty ∨ (shard = 0xFFFFFFFF ∧ s.setState c slot = wsBuilding) then 0x0250
  else if shard = 0xFFFFFFFF ∨ ((s.build c slot).any fun b => b.landed.any fun x => x.index == shard) then 0 else 0x0150

/-- WEIGHT_SET_DIGEST (R294): of several tensors that share a shard index, the lowest (DESIGN CHOICE, log 33). -/
def doWeightSetDigest (h : Hdr) (slot shard : Nat) (s : State) : State :=
  match s.build h.context slot with
  | none => s.reply h 0x0406 0x0250
  | some b =>
    if shard = 0xFFFFFFFF then s.reply h 0x0406 0 b.digest
    else s.reply h 0x0406 0 (((b.landed.find? fun x => x.index == shard).map (·.resident)).getD [])

def fwWeightSetDigest (h : Hdr) (slot shard : Nat) : Fw :=
  ⟨0x0406, h.length == 16, .context, checkWeightSetDigest h.context slot shard,
    doWeightSetDigest h slot shard, fun _ s => s⟩

def execWeightSetDigest (h : Hdr) (slot shard : Nat) (s : State) : Result :=
  .next (s.fwCommand h (fwWeightSetDigest h slot shard) (.weightSetDigest h slot shard))

/-! ### Adapters (R297, R298) -/

def checkAdapterLoad (c entry rank scale shards stream : Nat) (s : State) : Nat :=
  if 4096 ≤ entry ∨ rank = 0 ∨ 64 < rank ∨ 65536 ≤ scale ∨ shards = 0 ∨ 262144 < shards then 0x0150
  else match s.adapterBuild entry with
    | some b => if b.ctx ≠ c then 0x0252 else if 4096 ≤ s.rd WGT_ADAPTERS.used then 0x0351 else 0x0250
    | none => if s.streamOk c stream then 0 else 0x0150

def doAdapterLoad (h : Hdr) (entry rank scale tag shards stream : Nat) (s : State) : State :=
  let b : Build := { ctx := h.context, target := entry + 2, tag := tag, wanted := shards, stream := stream, last := s.hall,
                     waiting := some (0x0407, h), rank := rank, scale := scale }
  ((s.setBuild b).showAdapters).reply h 0x0407 1

def fwAdapterLoad (h : Hdr) (entry rank scale tag shards stream : Nat) : Fw :=
  ⟨0x0407, h.length == 48, .context, checkAdapterLoad h.context entry rank scale shards stream,
    doAdapterLoad h entry rank scale tag shards stream, fun _ s => s⟩

def execAdapterLoad (h : Hdr) (entry rank scale tag shards stream : Nat) (s : State) : Result :=
  .next (s.fwCommand h (fwAdapterLoad h entry rank scale tag shards stream) (.adapterLoad h entry rank scale tag shards stream))

/-- A sequence names an adapter entry. -/
def State.adapterNamed (s : State) (entry : Nat) : Bool := s.seqs.any fun e => e.2.state != 0 && e.2.adapterEn && e.2.adapter == entry

def checkAdapterDrop (c entry : Nat) (s : State) : Nat :=
  if 4096 ≤ entry then 0x0150
  else match s.adapterBuild entry with
    | none => 0x0250
    | some b => if b.ctx ≠ c then 0x0252 else if !b.ready then 0x0250 else if s.adapterNamed entry then 0x0251 else 0

def fwAdapterDrop (h : Hdr) (entry : Nat) : Fw :=
  ⟨0x0408, h.length == 8, .context, checkAdapterDrop h.context entry,
    fun s => (((s.dropBuild h.context (entry + 2)).showAdapters).modCtx h.context fun k =>
      { k with cache := k.cache.filter fun e => e.2 != entry }).reply h 0x0408 0, fun _ s => s⟩

def execAdapterDrop (h : Hdr) (entry : Nat) (s : State) : Result :=
  .next (s.fwCommand h (fwAdapterDrop h entry) (.adapterDrop h entry))

/-! ### Scrubbing (R295, R296) -/

/-- A place in the scrubber's order: context, slot, tensor, shard. -/
def placeBefore (a b : Nat × Nat × Nat × Nat) : Bool :=
  decide (a.1 < b.1) || (a.1 == b.1 && (decide (a.2.1 < b.2.1) || (a.2.1 == b.2.1 &&
    (decide (a.2.2.1 < b.2.2.1) || (a.2.2.1 == b.2.2.1 && decide (a.2.2.2 < b.2.2.2))))))

/-- Every shard of every READY, CURRENT and PINNED slot, in the scrubber's order. -/
def State.scrubList (s : State) : List (Nat × Nat × Nat × Nat) :=
  (List.range 128).flatMap fun c => (List.range 2).flatMap fun k =>
    if 2 ≤ s.setState c k ∧ s.setState c k ≤ 4 then
      match s.build c k with
      | some b => b.landed.map fun x => (c, k, x.tensor, x.index)
      | none => []
    else []

/-- The next shard to take: the first of the order after the last one taken, else the first of all. -/
def State.nextScrub (s : State) : Option (Nat × Nat × Nat × Nat) :=
  let l := s.scrubList
  match s.wgt.scrub with
  | some p => (l.find? (placeBefore p)).orElse fun _ => l.head?
  | none => l.head?

/-- WGT_SCRUB: the rounds, and the next shard. -/
def State.scrubWord (s : State) : Nat :=
  let p := s.nextScrub.getD (0, 0, 0, 0)
  s.rd WGT_SCRUB.rounds * 2 ^ 48 + p.1 * 2 ^ 19 + p.2.1 * 2 ^ 18 + p.2.2.2

/-- The resident bytes of a landed shard at each destination, and whether a stack line of them is poisoned. -/
def State.shardBad (s : State) (c : Nat) (x : Shard) : Bool :=
  x.runs.any fun l => sha256 (l.flatMap (s.getRun c)) != x.resident ||
    l.any fun r => r.1 == 3 && s.partPoisoned (s.cpart c) r.2.2.1 r.2.2.2

/-- A second mismatch (R296). -/
def State.scrubFailed (s : State) (c slot : Nat) : State :=
  let s := s.inc WGT_SCRUB_COUNTS.mismatches 1
  if s.setState c slot = wsReady then
    let s := s.wr (wgtState c slot) wsDamaged
    let s := match s.pendingSwitch c with
      | some q => if s.rd (WGT_STATUS.pending_slot c) = slot then (s.cancelSwitch c).notice (s.cpart c) c 3 slot q.hdr.tag else s
      | none => s
    s.fault 0x2D06 1 0 0 (some c) (some (s.cpart c)) []
  else s.fault 0x2D06 2 0 0 (some c) (some (s.cpart c)) []

/-- WEIGHT_SCRUB_SHARD: the shard that is due; `bad1`, `bad2`: the first or the second check meets an uncorrectable read. -/
def State.scrubShard (s : State) (bad1 bad2 : Bool) : State :=
  match s.nextScrub with
  | none => s
  | some p =>
  if !s.on WGT_CFG.scrub_en ∨ s.tick < s.wgt.scrubDue then s
  else
    let last := s.scrubList.getLast? = some p
    let s := { s with wgt := { s.wgt with scrub := some p, scrubDue := s.tick + 2 ^ s.rd WGT_CFG.scrub_exp } }
    let s := if last then s.inc WGT_SCRUB.rounds 1 else s
    match ((s.build p.1 p.2.1).bind fun b => b.landed.find? fun x => x.tensor == p.2.2.1 && x.index == p.2.2.2) with
    | none => s
    | some x =>
      let inGated := x.runs.any fun r => r.any fun q =>
        q.1 != 3 && (let t := s.posTile p.1 q.2.1; s.gated (tileField t) (tileRow t))
      if inGated then s.inc WGT_SCRUB_COUNTS.skipped 1
      else
        let s := s.inc WGT_SCRUB_COUNTS.checked 1
        let bad := s.shardBad p.1 x
        let s := x.runs.flatten.foldl (fun s r => s.runRead p.1 r) s
        if (bad || bad1) && (bad || bad2) then s.scrubFailed p.1 p.2.1 else s

def execWeightScrubShard (readError1 readError2 : Bool) (s : State) : Result :=
  .next (if s.up then s.scrubShard readError1 readError2 else s)

end Sys2Proof.Machine
end

