-- ==== Sys2Proof/Machine/Storage.lean ====
section
/-! DEFINITION. Storage direct (R283, R284, R356): controllers, the Reads of a storage read, and the shards of its range. -/

namespace Sys2Proof.Machine

def State.controller (s : State) (k : Nat) : Controller := (s.wgt.ctrls.find? fun x => x.id == k).getD { id := k }
def State.setController (s : State) (x : Controller) : State :=
  { s with wgt := { s.wgt with ctrls := x :: s.wgt.ctrls.filter fun y => y.id != x.id } }

/-- The controllers connected are counted. -/
def State.showControllers (s : State) : State :=
  s.wr WGT_STORAGE.connected (s.wgt.ctrls.filter fun x => x.conn.isSome).length

/-! ### Connect and disconnect -/

/-- The I/O queue that a Read is issued on (Table 13-5): the lowest with a place, other than `old`, or `old` where the connection has no
other (DESIGN CHOICE, log 34). -/
def Controller.queueFor (x : Controller) (c : StorageConn) (old : Option Nat) : Option Nat :=
  (List.range c.ioQueues).find? fun q => (some q != old || c.ioQueues == 1) &&
    decide ((x.jobs.flatMap (·.reads)).countP (fun r => r.queue == some q) < c.depth)

/-- A Read replaced. -/
def State.setRead (s : State) (k : Nat) (r : NvmeRead) : State :=
  let x := s.controller k
  s.setController { x with jobs := x.jobs.map fun j => { j with reads := j.reads.map fun q => if q.id = r.id then r else q } }

/-- A Read issued, where a queue has a place for it; it waits otherwise. Over a stopped crossing 2 it fails at once: it goes unanswered
(R235). -/
def State.issueRead (s : State) (k : Nat) (r : NvmeRead) : State :=
  match (s.controller k).conn with
  | some c => s.setRead k { r with since := s.hall, queue := (s.controller k).queueFor c r.old, sent := !(s.crossing 2 (c.port / 4)).stopped }
  | none => s

/-- The Reads of a controller that wait for a place, issued in order. -/
def State.issueReads (s : State) (k : Nat) : State :=
  (((s.controller k).jobs.flatMap (·.reads)).filter fun r => r.queue.isNone).foldl (fun s r => s.issueRead k r) s

def checkStorageConnect (r : StorageConn) (s : State) : Nat :=
  if 7 < r.controller ∨ 63 < r.port ∨ r.ioQueues = 0 ∨ 8 < r.ioQueues ∨ r.depth < 2 ∨ 128 < r.depth then 0x0150
  else if (s.controller r.controller).conn.isSome ∨ !s.portUp r.port then 0x0250
  else 0

/-- STORAGE_CONNECT (R356). A controller already connected, and a port that is not UP, are refused (DESIGN CHOICE, log 34); one that
declines PDU digests is not connected (Table 13-5), with a status of which the spec names no number (a free value, log 34).
Reads that wait from before a lost connection are issued now. -/
def fwStorageConnect (h : Hdr) (req : StorageConn) : Fw :=
  ⟨0x0409, h.length == 256 && decide (req.subnqn.length ≤ 224), .none, checkStorageConnect req,
    fun s => if req.declines then s.reply h 0x0409 (0x0500 + Config.declinedStatus.toNat)
      else ((s.setController { s.controller req.controller with conn := some req }).showControllers.issueReads req.controller).reply h 0x0409 0, fun _ s => s⟩

def execStorageConnect (h : Hdr) (req : StorageConn) (s : State) : Result :=
  .next (s.fwCommand h (fwStorageConnect h req) (.storageConnect h req))

/-- A disconnect that waited ends once the controller has no reads left; past its deadline it has no effect (R344). -/
def State.leaveController (s : State) (k : Nat) : State :=
  let x := s.controller k
  match x.leaving with
  | some h => if x.jobs.isEmpty then
      if h.deadlineEn && decide (h.deadline < s.hall) then (s.setController { x with leaving := none }).reply h 0x040A 0x0502
      else (s.setController { x with conn := none, leaving := none }).showControllers.reply h 0x040A 0
    else s
  | none => s

def checkStorageDisconnect (k : Nat) (s : State) : Nat :=
  if 7 < k then 0x0150 else if (s.controller k).conn.isNone ∨ (s.controller k).leaving.isSome then 0x0250 else 0

/-- STORAGE_DISCONNECT: it waits, pending, for the controller's reads. -/
def fwStorageDisconnect (h : Hdr) (controller : Nat) : Fw :=
  ⟨0x040A, h.length == 8, .none, checkStorageDisconnect controller,
    fun s =>
      let x := s.controller controller
      let s := if x.jobs.isEmpty then s else s.reply h 0x040A 1
      (s.setController { x with leaving := some h }).leaveController controller, fun _ s => s⟩

def execStorageDisconnect (h : Hdr) (controller : Nat) (s : State) : Result :=
  .next (s.fwCommand h (fwStorageDisconnect h controller) (.storageDisconnect h controller))

/-! ### Reads -/

/-- The target of a storage read as a build numbers it. -/
def readTarget (r : StorageReadReq) : Nat := if r.target = 0 then r.index else r.index + 2

/-- Bytes of a logical block. -/
def nsBlock (k nsid : Nat) : Nat := if (Config.namespaceSize k nsid).2 then 4096 else 512

/-- A controller that is not connected has no state for a read (DESIGN CHOICE, log 34). -/
def checkStorageRead (c : Nat) (r : StorageReadReq) (s : State) : Nat :=
  if 7 < r.controller ∨ 1 < r.target ∨ (r.target = 0 ∧ 1 < r.index) ∨ (r.target = 1 ∧ 4096 ≤ r.index) ∨ r.blocks = 0 then 0x0150
  else if r.target = 1 ∧ ((s.adapterBuild r.index).any fun b => b.ctx != c) then 0x0252
  else if (s.controller r.controller).conn.isNone ∨ !((s.build c (readTarget r)).any s.taking) then 0x0250
  else if (Config.namespaceSize r.controller r.nsid).1 < r.lba + r.blocks then 0x0104
  else 0

/-- The Reads of a range, at most 1 MiB each. -/
def readsOf (n per id now : Nat) : List NvmeRead :=
  (List.range ((n + per - 1) / per)).map fun i => ⟨id + i, i * per, Min.min per (n - i * per), now, false, none, none, false⟩

/-- Blocks of a namespace read for a command: `n` of them from `lba`. -/
def State.readBlocks (s : State) (h : Hdr) (r : StorageReadReq) (lba n : Nat) : State :=
  let reads := readsOf n (1048576 / nsBlock r.controller r.nsid) s.wgt.nextRead s.hall
  let x := s.controller r.controller
  let s := s.setController { x with jobs := x.jobs ++ [{ id := s.wgt.nextRead, hdr := h, req := { r with lba := lba, blocks := n }, reads := reads }] }
  { s with wgt := { s.wgt with nextRead := s.wgt.nextRead + reads.length } }.issueReads r.controller

/-- STORAGE_READ: pending until every block has been read. -/
def doStorageRead (h : Hdr) (r : StorageReadReq) (s : State) : State := (s.readBlocks h r r.lba r.blocks).reply h 0x0402 1

def fwStorageRead (h : Hdr) (req : StorageReadReq) : Fw :=
  ⟨0x0402, h.length == 24, .context, checkStorageRead h.context req,
    doStorageRead h req, fun _ s => s⟩

def execStorageRead (h : Hdr) (req : StorageReadReq) (s : State) : Result :=
  .next (s.fwCommand h (fwStorageRead h req) (.storageRead h req))

/-- The blocks answered in order from the next one pass to the bytes of the file; `n` bounds the Reads. -/
def gather : Nat → Nat → StorageJob → StorageJob
  | 0, _, j => j
  | n + 1, size, j => match j.data.find? fun e => e.1 == j.next with
    | some e => gather n size { j with
        file := j.file ++ e.2, next := j.next + (e.2.length + size - 1) / size, data := j.data.filter fun x => x.1 != j.next }
    | none => j

/-- The blocks of a range that a shard at the start of the file takes: its first, and how many; each shard is padded to a whole block
(DEDUCED, log 34). -/
def StorageJob.head (j : StorageJob) (size : Nat) : Nat := j.next - j.file.length / size
def shardBlocks (size len : Nat) : Nat := (128 + len + size - 1) / size

/-- A storage read as a source of shards, apart from every stream's handle. -/
def storageSource (h : Hdr) : Nat := (h.channel + 1) * 4294967296 + h.tag

/-- The whole shards at the start of the file pass to the ingest engine; one that must come again is read again (R271). `n` bounds them. -/
def State.feedShards (port size : Nat) : Nat → State → StorageJob → State × StorageJob
  | 0, s, j => (s, j)
  | n + 1, s, j =>
    let d := j.file.take 128
    let len := sdLen d
    if j.stray || decide (j.file.length < 128) then (s, j)
    else match s.build j.hdr.context (readTarget j.req) with
      | none => (s, { j with stray := true, file := [] })
      | some b =>
        if leAt d 0 4 ≠ 0x4B575344 ∨ len = 0 ∨ 4194304 < len then
          (s.shardFault (.load b false) port 0x2D05, { j with stray := true, file := [] })
        else if j.file.length < 128 + len then (s, j)
        else
          let s := s.ingest (.load b false) port d (slice j.file 128 len) (storageSource j.hdr) fun s =>
            s.readBlocks j.hdr j.req (j.req.lba + j.head size) (shardBlocks size len)
          State.feedShards port size n s { j with file := j.file.drop (shardBlocks size len * size) }

/-- A controller's job replaced, or dropped once it has nothing to read. -/
def State.setJob (s : State) (k id : Nat) (j : Option StorageJob) : State :=
  let x := s.controller k
  s.setController { x with jobs := match j with
    | some j => x.jobs.map fun y => if y.id = id then j else y
    | none => x.jobs.filter fun y => y.id != id }

/-- The job that a Read belongs to, and whether a command has blocks still to come. -/
def State.jobOf (s : State) (k readId : Nat) : Option StorageJob :=
  (s.controller k).jobs.find? fun j => j.reads.any fun r => r.id == readId
def State.reading (s : State) (k : Nat) (h : Hdr) : Bool := (s.controller k).jobs.any fun j => j.hdr == h

/-- STORAGE_READ_DATA: a Read of a connected controller is answered; the shards its data complete pass to the ingest engine, and with the
last block, those of shards read again included, the command completes. The answer goes through crossing 2; a stopped one fails it, and the
Read stays unanswered (R235). -/
def State.readData (s : State) (k id : Nat) (data : Bytes) : State :=
  match s.jobOf k id, (s.controller k).conn with
  | some j, some conn =>
    match j.reads.find? fun r => r.id == id && r.queue.isSome && r.sent with
    | none => s
    | some r =>
      if !s.passes 2 (conn.port / 4) then s.keep 2 (conn.port / 4) (.storageReadData k id data)
      else
      let size := nsBlock k j.req.nsid
      let j := { j with reads := j.reads.filter fun q => q.id != id, data := j.data ++ [(r.first, padTo (r.blocks * size) data)] }
      let j := gather (j.data.length + 1) size j
      let q := State.feedShards conn.port size (j.file.length / 128 + 1) s j
      let s := (q.1.setJob k j.id (if q.2.reads.isEmpty then none else some q.2)).issueReads k
      if s.reading k j.hdr then s else (s.reply j.hdr 0x0402 0).leaveController k
  | _, _ => s

def execStorageReadData (controller readId : Nat) (data : Bytes) (s : State) : Result :=
  .next (if s.up then s.readData controller readId data else s)

/-- Fault 0x2D04, class 1 (R284). -/
def State.storageFault (s : State) (ctx : Option Nat) : State :=
  s.fault 0x2D04 1 0 0 ctx (ctx.map s.cpart) []

/-- STORAGE_READ_TIMEOUT: a Read issued and unanswered for storage_timeout ms is issued once more, on another I/O queue of its controller;
unanswered again, or with the connection lost, its command fails (R284). With the connection lost a Read that waits for a place goes
unanswered like one issued (R346). -/
def State.readTimeout (s : State) (k id : Nat) : State :=
  match s.jobOf k id with
  | none => s
  | some j =>
    match j.reads.find? fun r => r.id == id && (r.queue.isSome || (s.controller k).conn.isNone) with
    | none => s
    | some r =>
      let s := { s with hall := Max.max s.hall (r.since + s.rd WGT_CFG.storage_timeout * 1000000) }
      if !r.again && (s.controller k).conn.isSome then
        (s.inc WGT_STORAGE.reissues 1).issueRead k { r with again := true, queue := none, old := r.queue }
      else
        let s := (s.inc WGT_STORAGE.timeouts 1).setController { s.controller k with jobs := (s.controller k).jobs.filter fun y => y.hdr != j.hdr }
        let s := (s.endSource j.hdr.context (storageSource j.hdr)).reply j.hdr 0x0402 0x0551
        ((s.storageFault (some j.hdr.context)).leaveController k).issueReads k

def execStorageReadTimeout (controller readId : Nat) (s : State) : Result :=
  .next (if s.up then s.readTimeout controller readId else s)

/-- STORAGE_CONNECTION_LOST. -/
def State.connectionLost (s : State) (k : Nat) : State :=
  if (s.controller k).conn.isNone then s
  else ((s.setController { s.controller k with conn := none }).showControllers).storageFault none

def execStorageConnectionLost (controller : Nat) (s : State) : Result := .next (if s.up then s.connectionLost controller else s)

end Sys2Proof.Machine
end

