-- ==== Sys2Proof/Machine/Serve.lean ====
section
/-! DEFINITION. The serving loop (chapter 14): the sequence table, admission and retirement, the drove, its preparation, the output
records and the output rings; and the end of a context's step. -/

namespace Sys2Proof.Machine

/-! ### The sequence table (R301, R302) -/

def State.seq (s : State) (i : Nat) : Seq := Sparse.get {} s.seqs i
def State.setSeq (s : State) (i : Nat) (q : Seq) : State := { s with seqs := Sparse.put {} s.seqs i q }
def State.modSeq (s : State) (i : Nat) (f : Seq → Seq) : State := s.setSeq i (f (s.seq i))

/-- The slots of a context, in slot order. -/
def State.seqsOf (s : State) (c : Nat) : List (Nat × Seq) := s.seqs.filter fun e => e.2.state != 0 && e.2.ctx == c

/-- The lowest FREE slot. -/
def State.freeSlot (s : State) : Option Nat := (List.range 16384).find? fun i => (s.seq i).state == 0

/-- SEQ_STATUS follows the slots. -/
def State.showSeq (s : State) (c : Nat) : State :=
  let l := s.seqsOf c
  let n (k : Nat) : Nat := (l.filter fun e => e.2.state == k).length
  ((s.wr (SEQ_STATUS.in_use c) l.length).wr (SEQ_STATUS.waiting c) (n 2)).wr (SEQ_STATUS.stalled c) (n 3)

/-- The cause for which a sequence retires at tick `t`, 0 for none (Table 14-3). -/
def retireCause (q : Seq) (t : Nat) : Nat :=
  if q.promptError then 6 else if q.ended then 1 else if q.limit ≤ q.position then 2 else if q.cancel then 3
  else if q.dropLate ∧ q.deadlineTick < t then 4 else 0

/-- A slot as the sequence query returns it at tick `t` (Table 14-1). Until a sequence retires its cause is the one that it would retire for:
the table does not say when the field is set (DEDUCED, log 35). -/
def seqBytes (q : Seq) (t : Nat) : Bytes :=
  leB 8 (q.state * 2 ^ 60 + q.ctx * 2 ^ 53 + q.prio * 2 ^ 50 + q.pin * 2 ^ 48 + bit q.adapterEn * 2 ^ 47 + q.adapter * 2 ^ 35 +
    retireCause q t * 2 ^ 32 + q.position) ++
  leB 8 q.tag ++ leB 8 (q.kvIndex * 2 ^ 40 + q.kvBase) ++ leB 8 (q.limit * 2 ^ 32 + q.promptLen) ++ leB 8 q.deadlineTick ++
  leB 8 (q.ring * 2 ^ 56 + q.promptAddr) ++ leB 8 q.admitTick ++
  leB 8 (q.latency * 2 ^ 32 + bit q.late * 8 + bit q.dropLate * 4)

/-! ### Adapters of a lane (R308) -/

/-- The runs of an adapter that name a rectangle position, by stack address, each with its shard. -/
def Build.imageRuns (b : Build) (pos : Nat) : List ((Nat × Nat × Nat × Nat) × Shard) :=
  let runs := (b.landed.flatMap fun x => x.runs.flatten.map fun r => (r, x)).filter fun r => r.1.2.1 == pos
  let rec insert (r : (Nat × Nat × Nat × Nat) × Shard) : List ((Nat × Nat × Nat × Nat) × Shard) → List ((Nat × Nat × Nat × Nat) × Shard)
    | [] => [r]
    | q :: l => if r.1.2.2.1 < q.1.2.2.1 then r :: q :: l else q :: insert r l
  runs.foldl (fun l r => insert r l) []

/-- The image of an adapter for a rectangle position: what its shards naming the position wrote to the stacks, by address. -/
def State.adapterImage (s : State) (b : Build) (pos : Nat) : Bytes := (b.imageRuns pos).flatMap fun r => s.getRun b.ctx r.1

/-- A run of the image whose bytes stand in a poisoned line (R224). -/
def State.imagePoison (s : State) (b : Build) (pos : Nat) : Option (Nat × Nat × Nat × Nat) :=
  ((b.imageRuns pos).map (·.1)).find? fun r => s.partPoisoned (s.cpart b.ctx) r.2.2.1 r.2.2.2

/-- The shard that holds byte `i` of an image. -/
def imageShard : List ((Nat × Nat × Nat × Nat) × Shard) → Nat → Option Shard
  | [], _ => none
  | r :: l, i => if i < r.1.2.2.2 then some r.2 else imageShard l (i - r.1.2.2.2)

/-- The rectangle positions of a context's F-tiles. -/
def State.fPositions (s : State) (c : Nat) : List Nat :=
  let p := s.cpart c
  ((s.partTiles p).filter isF).map (s.dirPos p)

/-- Record `j` of an image's layer table: the lines to A and to B, none for a record of zeros. -/
def layerRecord (image : Bytes) (j : Nat) : Option (Nat × Nat) :=
  if (slice image (16 * j) 16).all (· == 0) then none else some (leAt image (16 * j) 4, leAt image (16 * j + 4) 4)

/-- Lines of A_v, each of its rows padded to whole lines, and of B_v, each panel's block padded to whole lines (Table 6-5). -/
def linesA (rank k : Nat) : Nat := rank * Max.max 1 ((k + 127) / 128)
def linesB (rank n : Nat) : Nat := Max.max 1 ((n + 47) / 48) * ((96 * rank + 255) / 256)

/-- The length that an image's shard at a line gives: K of a shard of A (kind 1), N of one of B (kind 2). The layer table does not hold them,
so they are taken from the k_len and n_len of the shard that holds the line (DEDUCED, log 35). -/
def imageDim (runs : List ((Nat × Nat × Nat × Nat) × Shard)) (kind line : Nat) : Nat :=
  match imageShard runs (256 * line) with
  | some x => if x.kind ≠ kind then 0 else if kind = 1 then x.kLen else x.nLen
  | none => 0

/-- An image fits a cache entry: its lines, and the whole of A_v and B_v of every layer its table names. -/
def imageFits (image : Bytes) (runs : List ((Nat × Nat × Nat × Nat) × Shard)) (rank lines : Nat) : Bool :=
  let n := (image.length + 255) / 256
  decide (n ≤ lines) && (List.range 16).all fun j => match layerRecord image j with
    | some (a, b) => decide (a + linesA rank (imageDim runs 1 a) ≤ n) && decide (b + linesB rank (imageDim runs 2 b) ≤ n)
    | none => true

/-! ### Admission (R303, Table 14-4, R469) -/

/-- A ring has a record to reserve. -/
def State.ringRoom (s : State) (c n : Nat) : Bool := match s.ring c 0 n with | some r => decide (0 < r.room) | none => false

/-- One record of a ring reserved or given back. -/
def State.reserveRing (s : State) (c n : Nat) (up : Bool) : State :=
  match s.ring c 0 n with
  | some r => s.setRing { r with reserved := if up then r.reserved + 1 else r.reserved - 1 }
  | none => s

def checkSequenceAdmit (c : Nat) (r : AdmitReq) (s : State) : Nat :=
  let lane := s.rd (SEQ_KV_LANE.kv_lane c) / Max.max 1 (s.rd (SEQ_KV_POS.kv_pos c))
  let mine := s.seqsOf c
  if s.rd (PAR_CTX_CFG.role c) = 1 then 0x0263
  else if !s.on (SEQ_CFG.serving c) then 0x0260
  else if 7 < r.prio ∨ !(r.pin == 0 || r.pin == 3) ∨ r.limit = 0 ∨ lane < r.limit ∨ r.promptLen = 0 ∨ r.limit < r.promptLen ∨
      s.rd (SEQ_KV_LANE.kv_regions c) ≤ r.kvIndex ∨ 255 < r.ring ∨ 2 ^ 40 ≤ r.promptAddr then 0x0160
  else
    let ad : Nat := if !r.adapterEn then 0 else match s.adapterBuild r.adapter with
      | none => 0x0261
      | some b =>
        if b.ctx ≠ c ∨ !b.ready then 0x0261
        else if (s.fPositions c).any fun pos => (s.imagePoison b pos).isSome then readErrorStatus
        else if (s.fPositions c).all fun pos => imageFits (s.adapterImage b pos) (b.imageRuns pos) b.rank (s.rd (SEQ_ADAPT.entry_lines c)) then 0
        else 0x0264
    if ad ≠ 0 then ad
    else if s.rd (SEQ_CFG.quota c) ≤ mine.length then 0x0360
    else if mine.any fun e => e.2.kvIndex == r.kvIndex then 0x0361
    else if !s.ringRoom c r.ring then 0x0362
    else 0

/-- A command reaches its own parameter checks. -/
def State.reachesCheck (s : State) (h : Hdr) (op : Nat) (lenOk : Bool) (sc : Scope) : Bool :=
  s.linkUp && !s.unrelayed h && !s.linkHolds && !s.overrun h && s.intake h op lenOk sc == 0

/-- SEQUENCE_ADMIT: accepted, it waits for action 8; a refusal by its own checks is counted. -/
def State.sequenceAdmit (s : State) (h : Hdr) (r : AdmitReq) : State :=
  let t := s.command (.sequenceAdmit h r) h 0x0501 (h.length == 56) .context (checkSequenceAdmit h.context r)
    fun s => s.stage h 0x0501 (.sequenceAdmit h r)
  if s.reachesCheck h 0x0501 (h.length == 56) .context && checkSequenceAdmit h.context r s != 0 then
    t.inc (SEQ_COUNTS2.refused h.context) 1 else t

def execSequenceAdmit (h : Hdr) (req : AdmitReq) (s : State) : Result := .next (s.sequenceAdmit h req)

/-- SEQUENCE_ADMIT_APPLY at action 8. -/
def State.applyAdmit (s : State) (h : Hdr) (r : AdmitReq) : State :=
  let c := h.context
  let st := checkSequenceAdmit c r s
  match s.freeSlot with
  | none => (s.inc (SEQ_COUNTS2.refused c) 1).reply h 0x0501 0x0360
  | some i =>
    if st ≠ 0 then (s.inc (SEQ_COUNTS2.refused c) 1).reply h 0x0501 st
    else
      let pin := if r.pin = 3 then (match s.currentSlot c with | some k => k + 1 | none => 0) else 0
      let s := if pin = 0 then s else s.wr (wgtPinned c (pin - 1)) (s.rd (wgtPinned c (pin - 1)) + 1)
      let s := s.setSeq i {
        state := 2, ctx := c, prio := r.prio, pin := pin, adapterEn := r.adapterEn, adapter := r.adapter, tag := r.tag,
        kvIndex := r.kvIndex, kvBase := s.rd (SEQ_KV_POOL.kv_pool c) + r.kvIndex * s.rd (SEQ_KV_LANE.kv_lane c),
        limit := r.limit, promptLen := r.promptLen, deadlineTick := r.deadlineTick, ring := r.ring, promptAddr := r.promptAddr,
        admitTick := s.tick, late := r.late, dropLate := r.dropLate, by_ := (h.channel, h.tag),
        promptError := (s.ctx c).promptFails.contains (h.channel, h.tag) }
      let s := s.modCtx c fun k => { k with promptFails := k.promptFails.filter (· != (h.channel, h.tag)) }
      let s := (s.reserveRing c r.ring true).inc (SEQ_COUNTS.admitted c) 1
      (s.showSeq c).reply h 0x0501 0 (leB 8 i)

/-- A slot named by a context's command. -/
def checkSequence (c slot : Nat) (s : State) : Nat :=
  if 16384 ≤ slot then 0x0160 else if (s.seq slot).state = 0 ∨ (s.seq slot).ctx ≠ c then 0x0262 else 0

/-- SEQUENCE_CANCEL waits for action 7 of its boundary (R304). -/
def execSequenceCancel (h : Hdr) (slot : Nat) (s : State) : Result :=
  .next (s.command (.sequenceCancel h slot) h 0x0502 (h.length == 8) .context (checkSequence h.context slot)
    fun s => s.stage h 0x0502 (.sequenceCancel h slot))

/-- A cancel at action 7: the slot is to retire with cause cancelled, unless an earlier cause holds; one that is no longer the
context's completes with 0x0262. -/
def State.applyCancel (s : State) (h : Hdr) (slot : Nat) : State :=
  let st := checkSequence h.context slot s
  if st ≠ 0 then s.reply h 0x0502 st else (s.modSeq slot fun q => { q with cancel := true }).reply h 0x0502 0

def execSequenceQuery (h : Hdr) (slot : Nat) (s : State) : Result :=
  .next (s.command (.sequenceQuery h slot) h 0x0503 (h.length == 8) .context (checkSequence h.context slot)
    fun s => s.reply h 0x0503 0 (seqBytes (s.seq slot) s.tick))

/-! ### Deadlines and retirement (R304, R305) -/

/-- The deadline tick has passed: `late` is set and fault 0x2E02 raised, once. -/
def State.seqLate (s : State) (i : Nat) : State :=
  let q := s.seq i
  if q.state ≠ 0 ∧ q.deadlineTick < s.tick ∧ !q.late then
    (s.modSeq i fun q => { q with late := true }).fault 0x2E02 0 0 0 (some q.ctx) (some (s.cpart q.ctx)) []
  else s

def execSequenceDeadlineExpiry (slot : Nat) (s : State) : Result := .next (if s.up then s.seqLate slot else s)

/-- A ring record (R311). -/
def ringRecord (tag tick position token aux flags : Nat) : Bytes :=
  leB 8 tag ++ leB 8 tick ++ leB 4 position ++ leB 4 token ++ leB 4 aux ++ leB 4 flags

/-- A record put in its reserved place of a ring. -/
def State.ringAppend (s : State) (c n : Nat) (b : Bytes) : State :=
  match s.ring c 0 n with
  | some r => s.ringPut { r with reserved := r.reserved - 1 } b
  | none => s

/-- A sequence retires: its retirement record, its slot and its KV index, and the slot that only it was pinned to (R292, R304). -/
def State.retire (s : State) (i cause : Nat) : State :=
  let q := s.seq i
  let c := q.ctx
  let s := s.ringAppend c q.ring (ringRecord q.tag s.tick q.position 0 0 (2 + 4 * cause))
  let s := (s.setSeq i {}).inc (SEQ_COUNTS.retired c) 1
  let s := if q.pin = 0 then s
    else
      let s := s.dec (wgtPinned c (q.pin - 1)) 1
      if s.setState c (q.pin - 1) = wsPinned ∧ s.rd (wgtPinned c (q.pin - 1)) = 0 then s.emptySlot c (q.pin - 1) else s
  s.showSeq c

/-- Action 7 for one context: its deadlines, then its retirements. -/
def State.retireDue (s : State) (c : Nat) : State :=
  (s.seqsOf c).foldl (fun s e => let k := retireCause (s.seq e.1) s.tick; if k = 0 then s else s.retire e.1 k) s

/-! ### Configuration (R313) -/

/-- The field at a place of the k-th value of a serving configure command. -/
def confField (v : List Nat) (k lo width : Nat) : Nat := bits (v.getD k 0) lo width

/-- Two ranges meet, neither empty. -/
def clash (a b : Nat × Nat) : Bool := a.2 != 0 && b.2 != 0 && overlap a.1 a.2 b.1 b.2

/-- The checks that R313 lists, and no other: a kv_lane or kv_pos of 0 and a quota below the slots in use are taken. -/
def checkServingConfigure (c : Nat) (v : List Nat) (s : State) : Nat :=
  let quota := confField v 0 49 15
  let drove := confField v 0 36 13
  let chunk := confField v 0 20 16
  let regions := confField v 2 48 15
  let laneU := confField v 2 0 40
  let layers := confField v 10 34 5
  let entry := confField v 10 17 17
  let space := s.stackSpace (s.cpart c) / 256
  let others := (List.range 128).foldl (fun n d => if d = c then n else n + s.rd (SEQ_CFG.quota d)) 0
  let cache := (confField v 10 0 17, confField v 0 12 8 * entry)
  let desc := (confField v 9 0 17, (32 * layers * drove + 255) / 256)
  let inShare (r : Nat × Nat) : Bool := r.2 == 0 ||
    (decide (s.rd (PAR_CTX_CFG.share_base c) ≤ r.1) && decide (r.1 + r.2 ≤ s.rd (PAR_CTX_CFG.share_base c) + s.rd (PAR_CTX_CFG.share_lines c)))
  let win := (s.rd (WGT_SRAM_WIN.win_line c), s.rd (WGT_SRAM_WIN.win_lines c))
  if s.rd (PAR_CTX_CFG.role c) = 1 then 0x0263
  else if v.length ≠ 11 ∨ 16384 < quota ∨ drove = 0 ∨ 4096 < drove ∨ chunk = 0 ∨ regions = 0 ∨ 16384 < regions ∨
      entry = 0 ∨ 81920 < entry ∨ 16 < layers ∨ 16384 < others + quota ∨
      confField v 4 0 40 < space ∨ confField v 5 0 40 < space ∨ space < confField v 1 0 40 + regions * laneU then 0x0160
  else if !(inShare cache && inShare desc) || clash cache desc || clash cache win || clash desc win then 0x0160
  else 0

/-- The registers that a serving configure command sets, in the order of its values, with their writable fields. -/
def confRegs (c : Nat) : List (List RF) :=
  [[SEQ_CFG.quota c, SEQ_CFG.max_drove c, SEQ_CFG.prefill_chunk c, SEQ_CFG.adapter_cache c], [SEQ_KV_POOL.kv_pool c],
   [SEQ_KV_LANE.kv_regions c, SEQ_KV_LANE.kv_lane c], [SEQ_KV_POS.kv_pos c], [SEQ_HIST_WIN.hist_win c], [SEQ_APP_WIN.app_win c],
   [SEQ_DROVE_ADDR.drove_addr c], [SEQ_IN_ADDR.in_addr c], [SEQ_OUT_ADDR.out_addr c], [SEQ_LANE_DESC.lane_desc_line c],
   [SEQ_ADAPT.adapter_layers c, SEQ_ADAPT.entry_lines c, SEQ_ADAPT.adapt_line c]]

/-- SERVING_CONFIGURE: the adapter cache starts anew, and a drove already prepared is discarded. -/
def doServingConfigure (h : Hdr) (v : List Nat) (s : State) : State :=
  let c := h.context
  let s := ((confRegs c).zip v).foldl (fun s e => e.1.foldl (fun s f => s.wr f (bits e.2 f.lo f.width)) s) s
  ((s.wr (SEQ_CFG.serving c) 1).modCtx c fun k => { k with cache := [], drove := none }).reply h 0x0504 0

def fwServingConfigure (h : Hdr) (values : List Nat) : Fw :=
  ⟨0x0504, h.length == 88, .context, checkServingConfigure h.context values,
    doServingConfigure h values, fun _ s => s⟩

def execServingConfigure (h : Hdr) (values : List Nat) (s : State) : Result :=
  .next (s.fwCommand h (fwServingConfigure h values) (.servingConfigure h values))

def checkRingConfigure (c n k base : Nat) (s : State) : Nat :=
  if 255 < n ∨ !(k == 0 || (decide (4 ≤ k) && decide (k ≤ 20))) ∨
      (k ≠ 0 ∧ s.stackSpace (s.cpart c) < 256 * base + 32 * 2 ^ k) then 0x0160
  else match s.ring c 0 n with
    | some r => if r.held ≠ 0 ∨ r.reserved ≠ 0 then 0x0265 else 0
    | none => 0

/-- RING_CONFIGURE (R311). -/
def doRingConfigure (h : Hdr) (n k base : Nat) (s : State) : State :=
  let s := if k = 0 then s.dropRing h.context 0 n else s.setRing { ctx := h.context, source := 0, ring := n, k := k, base := base, size := 32 }
  s.reply h 0x0505 0

def fwRingConfigure (h : Hdr) (ring k base : Nat) : Fw :=
  ⟨0x0505, h.length == 24, .context, checkRingConfigure h.context ring k base,
    doRingConfigure h ring k base, fun _ s => s⟩

def execRingConfigure (h : Hdr) (ring k base : Nat) (s : State) : Result :=
  .next (s.fwCommand h (fwRingConfigure h ring k base) (.ringConfigure h ring k base))

/-! ### Drove formation (R306) -/

/-- The order in which slots are ranked. -/
def rankBefore (a b : Nat × Seq) : Bool :=
  decide (a.2.prio < b.2.prio) || (a.2.prio == b.2.prio && (decide (a.2.deadlineTick < b.2.deadlineTick) ||
    (a.2.deadlineTick == b.2.deadlineTick && (decide (a.2.admitTick < b.2.admitTick) || (a.2.admitTick == b.2.admitTick && decide (a.1 < b.1))))))

/-- A list sorted by an order, equal entries kept in place. -/
def sortBy {α : Type} (before : α → α → Bool) : List α → List α
  | [] => []
  | x :: l =>
    let rec ins : List α → List α
      | [] => [x]
      | y :: t => if before y x then y :: ins t else x :: y :: t
    ins (sortBy before l)

/-- The slots that rank for a drove; one whose prompt could not be read is to retire (R312). -/
def State.ranked (s : State) (c : Nat) : List (Nat × Seq) :=
  sortBy rankBefore ((s.seqsOf c).filter fun e => (e.2.state == 1 || e.2.state == 2) && !e.2.promptError)

/-- The lane of a slot. -/
def State.laneFor (s : State) (c : Nat) (e : Nat × Seq) : Lane :=
  let q := e.2
  let pre := decide (q.position < q.promptLen)
  let n := if pre then Min.min (s.rd (SEQ_CFG.prefill_chunk c)) (q.promptLen - q.position) else 1
  let run := if q.pin = 0 ∨ q.pin - 1 = s.rd (WGT_STATUS.current c) then 1 else 0
  let rank := if q.adapterEn then ((s.adapterBuild q.adapter).map (·.rank)).getD 0 else 0
  ⟨e.1, run, pre, pre && decide (q.promptLen ≤ q.position + n), rank, q.position, n, q.kvBase⟩

/-- The order of lanes: run 0 decode, run 0 prefill, run 1 decode, run 1 prefill, and the highest rank first within each. -/
def laneBefore (a b : Lane) : Bool :=
  decide (2 * a.run + bit a.prefill < 2 * b.run + bit b.prefill) || (a.run == b.run && a.prefill == b.prefill && decide (b.rank < a.rank))

/-- The outcome of formation: the state that goes on, the slots picked in rank order, and the adapter cache. -/
structure Formed where
  st : State
  picked : List (Nat × Seq)
  cache : List (Nat × Nat)

/-- One slot considered for the drove of a context. -/
def Formed.take (f : Formed) (c : Nat) (e : Nat × Seq) : Formed :=
  let s := f.st
  let q := e.2
  let need := q.adapterEn && !f.cache.any fun x => x.2 == q.adapter
  let entry := (List.range (s.rd (SEQ_CFG.adapter_cache c))).find? fun i => !f.cache.any fun x => x.1 == i
  if !s.ringRoom c q.ring then { f with st := s.modSeq e.1 fun q => { q with state := 3 } }
  else if f.picked.length = s.rd (SEQ_CFG.max_drove c) ∨ (need ∧ entry.isNone) then { f with st := s.modSeq e.1 fun q => { q with state := 2 } }
  else { f with
    st := (s.modSeq e.1 fun q => { q with state := 1 }).reserveRing c q.ring true, picked := f.picked ++ [e],
    cache := if need then f.cache ++ [(entry.getD 0, q.adapter)] else f.cache }

/-- DROVE_FORMATION over the ranked slots. Cache entries whose adapter no lane of the last drove had are free
(the model's choice, log 35); stalled slots whose ring has room wait. -/
def State.form (s : State) (c : Nat) : Formed :=
  let used := ((s.ctx c).lanes.filter fun l => (s.seq l.slot).adapterEn).map fun l => (s.seq l.slot).adapter
  let stalled := ((s.seqsOf c).filter fun e => e.2.state == 3).map (·.1)
  let f := (s.ranked c).foldl (fun (f : Formed) e => f.take c e)
    ⟨s, [], (s.ctx c).cache.filter fun e => used.contains e.2⟩
  let st := stalled.foldl (fun s i => if s.ringRoom c (s.seq i).ring then s.modSeq i fun q => { q with state := 2 } else s) f.st
  { f with st := st.showSeq c }

/-- The slots that formation leaves STALLED: those it stalled, and those stalled before whose ring has still no room. -/
def Formed.stalled (f : Formed) (c : Nat) : List Nat := ((f.st.seqsOf c).filter fun e => e.2.state == 3).map (·.1)

def State.lanesOf (s : State) (c : Nat) (picked : List (Nat × Seq)) : List Lane := sortBy laneBefore (picked.map (s.laneFor c))

/-- The lanes of the four runs, counted. -/
def runCounts (l : List Lane) : List Nat :=
  (List.range 4).map fun k => (l.filter fun x => 2 * x.run + bit x.prefill == k).length

/-! ### Preparation (R307, R308) -/

/-- The prompt tokens of a prefill lane; none where a line of them is poisoned or lies outside the stack space. -/
def State.promptOf (s : State) (c : Nat) (l : Lane) : Option Bytes :=
  let p := s.cpart c
  let a := 256 * (s.seq l.slot).promptAddr + 4 * l.position
  if s.stackSpace p < a + 4 * l.count ∨ s.partPoisoned p a (4 * l.count) then none else some (s.rdPart p a (4 * l.count))

/-- The sequence that a slot is to hold at the boundary is the one that it holds now. -/
def State.sameSeq (s after : State) (i : Nat) : Bool :=
  (s.seq i).state != 0 && (s.seq i).ctx == (after.seq i).ctx && (s.seq i).admitTick == (after.seq i).admitTick

/-- A sequence's prompt could not be read: the sequence is marked to retire for it, one still to be admitted with its admission. -/
def State.markPrompt (s : State) (c slot : Nat) (after : State) : State :=
  if s.sameSeq after slot then s.modSeq slot fun q => { q with promptError := true }
  else s.modCtx c fun k => { k with promptFails := (after.seq slot).by_ :: k.promptFails }

/-- The lanes of a drove none of whose prompts fails to be read, with the outcome of actions 1 to 8 that it is formed from, which `ahead` tells: a
sequence whose prompt does fail raises fault 0x2E03, and as it retires at these actions already, they are looked at anew; `n` bounds the
failures. -/
def State.formGood (ahead : State → State) (c : Nat) : Nat → State → State × State × Formed
  | 0, s => let after := ahead s; (s, after, after.form c)
  | n + 1, s =>
    let after := ahead s
    let f := after.form c
    match (after.lanesOf c f.picked).find? fun l => l.prefill && (after.promptOf c l).isNone with
    | none => (s, after, f)
    | some l => State.formGood ahead c n
        (((s.markPrompt c l.slot after).wr (SEQ_STATUS.prompt_error c) 1).fault 0x2E03 1 0 0 (some c) (some (s.cpart c)) [])

/-- The adapter descriptor of a lane for a layer (Table 6-5), 32 bytes; `first` the first line of its cache entry. -/
def laneRecord (image : Bytes) (rank scale first j : Nat) : Bytes :=
  match layerRecord image j with
  | some (a, b) => leB 16 ((first + a) * 2 ^ 64 + (first + b) * 2 ^ 47 + rank * 2 ^ 40 + scale * 2 ^ 24 + 1) ++ leB 16 0
  | none => leB 32 0

/-- The adapter cache entries newly taken and the lane descriptor records, in every F-tile of the rectangle. -/
def State.writeAdapters (s : State) (c : Nat) (old cache : List (Nat × Nat)) (lanes : List Lane) : State :=
  let entryLines := s.rd (SEQ_ADAPT.entry_lines c)
  let first (e : Nat) : Nat := s.rd (SEQ_ADAPT.adapt_line c) + e * entryLines
  let drove := s.rd (SEQ_CFG.max_drove c)
  (s.fPositions c).foldl (fun s pos =>
    let t := s.posTile c pos
    let image (ad : Nat) : Bytes := match s.adapterBuild ad with | some b => s.adapterImage b pos | none => []
    let s := (cache.filter fun e => !old.contains e).foldl (fun s e => s.writeShare c t (256 * first e.1) (image e.2)) s
    ((List.range lanes.length).zip lanes).foldl (fun s l =>
      (List.range (s.rd (SEQ_ADAPT.adapter_layers c))).foldl (fun s j =>
        let q := s.seq l.2.slot
        let b := match cache.find? fun e => e.2 == q.adapter with
          | some e => if q.adapterEn then
              laneRecord (image q.adapter) l.2.rank (((s.adapterBuild q.adapter).map (·.scale)).getD 0) (first e.1) j else leB 32 0
          | none => leB 32 0
        s.writeShare c t (256 * s.rd (SEQ_LANE_DESC.lane_desc_line c) + 32 * (j * drove + l.1)) b) s) s) s

/-- A drove table entry (Table 14-5). -/
def State.droveEntry (s : State) (l : Lane) : Bytes :=
  let q := s.seq l.slot
  leB 2 l.slot ++ leB 1 (bit l.prefill + 2 * bit l.last + 4 * bit q.adapterEn) ++ leB 1 l.rank ++ leB 4 l.position ++ leB 4 l.count ++
    leB 4 q.limit ++ leB 8 q.tag ++ leB 8 0

/-- The drove's inputs, its cleared outputs and its table, in the partition's stack space. Every record of the output area is cleared with its
valid flag (log 35). -/
def State.writeDrove (s : State) (c tick cur : Nat) (lanes : List Lane) : State :=
  let p := s.cpart c
  let per := (4 * s.rd (SEQ_CFG.prefill_chunk c) + 255) / 256
  let s := ((List.range lanes.length).zip lanes).foldl (fun s l =>
    let s := if l.2.prefill then
      s.readLines p (256 * (s.seq l.2.slot).promptAddr + 4 * l.2.position) (4 * l.2.count) else s
    let data := if l.2.prefill then (s.promptOf c l.2).getD [] else leB 4 (s.seq l.2.slot).lastToken
    s.wrPart p (256 * (s.rd (SEQ_IN_ADDR.in_addr c) + l.1 * per)) data) s
  let s := s.zeroPart p (256 * s.rd (SEQ_OUT_ADDR.out_addr c)) (16 * s.rd (SEQ_CFG.max_drove c))
  let head := leB 8 tick ++ leB 2 lanes.length ++ (runCounts lanes).flatMap (leB 2) ++ leB 1 (1 - cur) ++ leB 1 cur ++ leB 44 0
  s.wrPart p (256 * s.rd (SEQ_DROVE_ADDR.drove_addr c)) (head ++ lanes.flatMap s.droveEntry)

/-- A poisoned run of an adapter image that a preparation reads (R224). -/
def State.preparePoison (s : State) (c : Nat) (cache : List (Nat × Nat)) : Option (Nat × Nat × Nat × Nat) :=
  (s.fPositions c).findSome? fun pos => cache.findSome? fun e => (s.adapterBuild e.2).bind fun b => s.imagePoison b pos

/-- Preparation for boundary `tick`, whose actions 1 to 8 `ahead` looks at: the drove is written and kept for the boundary. An adapter image to
be filled into the cache with a poisoned line raises fault 0x2A10, and no drove is prepared. -/
def State.prepare (s : State) (c tick : Nat) (ahead : State → State) : State :=
  let r := State.formGood ahead c 16384 s
  let f := r.2.2
  let after := r.2.1
  let lanes := after.lanesOf c f.picked
  let s := r.1
  match s.preparePoison c (f.cache.filter fun e => !(s.ctx c).cache.contains e) with
  | some x => s.poisonFault c x.2.2.1 x.2.2.2
  | none =>
    let bigger := { s with seqs := after.seqs }
    let w := (bigger.writeAdapters c (s.ctx c).cache f.cache lanes).writeDrove c tick (after.rd (WGT_STATUS.current c)) lanes
    { w with seqs := s.seqs }.modCtx c fun k => { k with cache := f.cache, drove := some ⟨tick, lanes, runCounts lanes, f.stalled c⟩ }

/-! ### A serving step's start and the ticks charged (R291, R307, R310) -/

/-- One tick charged against the sequences of a context that `p` picks. -/
def State.chargeSeqs (s : State) (c : Nat) (p : Seq → Bool) : State :=
  (s.seqsOf c).foldl (fun s e => if p (s.seq e.1) then
    s.modSeq e.1 fun q => { q with latency := Min.min (q.latency + 1) (2 ^ 32 - 1) } else s) s

/-- The slots take the states that formation gave them, a slot that it did not see waits; the drove is then the context's current one. -/
def State.takeDrove (s : State) (c : Nat) (d : Drove) : State :=
  let inDrove (i : Nat) : Bool := d.lanes.any fun l => l.slot == i
  let others := ((s.seqsOf c).filter fun e => !inDrove e.1)
  let s := d.lanes.foldl (fun s l => (s.modSeq l.slot fun q => { q with state := 1 }).reserveRing c (s.seq l.slot).ring true) s
  let s := others.foldl (fun s e => s.modSeq e.1 fun q => { q with
    state := if d.stalled.contains e.1 then 3 else 2 }) s
  ((s.wr (SEQ_STATUS.lanes c) d.lanes.length).modCtx c fun k => { k with lanes := d.lanes, drove := none }).showSeq c

/-- A step of the drove prepared for the present boundary; its sequences not in it are charged the tick. The loop starts entry 0 (DESIGN
CHOICE, log 35). -/
def State.startDrove (s : State) (c : Nat) (d : Drove) : State :=
  let cur := s.rd (WGT_STATUS.current c)
  let s := s.takeDrove c d
  let old := d.lanes.any fun l => l.run == 0
  let new := d.lanes.any fun l => l.run == 1
  let s := (s.chargeSeqs c fun q => q.state != 1).modCtx c fun k => { k with slip := 0, breached := false }
  s.startStep c {
    entry := 0, tick := s.tick, start := s.tickStart s.tick, attempt := 0, training := false, stepNo := 0, saved := false, held := false,
    switches := 0, seed := s.rd (PAR_CTX_SEED.base_seed c) ^^^ s.tick,
    set := if old then some (1 - cur) else s.currentSlot c, more := if old && new then [cur] else [], run := bit !old }

/-- Every lane's slot holds the sequence that the preparation saw in it. -/
def State.droveHolds (s : State) (c : Nat) (d : Drove) : Bool := d.lanes.all fun l =>
  let q := s.seq l.slot
  q.state != 0 && q.ctx == c && q.kvBase == l.kvBase && q.position == l.position

/-- The serving loop starts a step of a context at the present boundary, from the drove prepared for it. With no sequence to serve it
starts none; with one to serve and no drove prepared for the boundary, the tick slips (R307), and so it does where the boundary did not give
a lane the sequence that its preparation expected (DESIGN CHOICE, log 35). -/
def State.startServing (s : State) (c : Nat) : State :=
  let ready : Option Drove := match (s.ctx c).drove with | some d => if d.tick = s.tick ∧ s.droveHolds c d then some d else none | none => none
  match ready with
  | some d => if d.lanes.isEmpty then ((s.takeDrove c d).modCtx c fun k => { k with slip := 0 }).chargeSeqs c fun _ => true
    else s.startDrove c d
  | none =>
    let s := if (s.ctx c).drove.isSome then s.modCtx c fun k => { k with drove := none } else s
    if !(s.seqsOf c).isEmpty then
      ((s.inc (SEQ_COUNTS2.setup_slips c) 1).modCtx c fun k => { k with slip := k.slip + 1 }).chargeSeqs c fun _ => true
    else (s.modCtx c fun k => { k with slip := 0 }).chargeSeqs c fun _ => true

/-! ### The end of a step (R184, R291, R310) -/

/-- The output record of lane `d` taken: its token appended to its ring, its position advanced. One in a poisoned line is not delivered, and
its context is torn down (R224). -/
def State.collectLane (s : State) (c tick d : Nat) (l : Lane) : State :=
  let a := 256 * s.rd (SEQ_OUT_ADDR.out_addr c) + 16 * d
  if s.cst c = stTeardown then s
  else if s.partPoisoned (s.cpart c) a 16 then s.poisonFault c a 16
  else
  let r := s.rdPart (s.cpart c) a 16
  let flags := leAt r 8 1
  let s := s.readLines (s.cpart c) a 16
  let q := s.seq l.slot
  let partial_ := l.prefill && !l.last
  if q.state = 0 ∨ q.ctx ≠ c then s
  else if flags % 2 = 1 then
    let bad := decide (4 ≤ flags) || partial_
    let s := s.modSeq l.slot fun q => { q with position := q.position + l.count }
    if bad then
      ((s.reserveRing c q.ring false).wr (SEQ_STATUS.output_error c) 1).fault 0x2E01 1 0 0 (some c) (some (s.cpart c)) []
    else
      let s := s.ringAppend c q.ring (ringRecord q.tag tick q.position (leAt r 0 4) (leAt r 4 4) (flags / 2))
      s.modSeq l.slot fun q => { q with lastToken := leAt r 0 4, ended := q.ended || flags / 2 == 1 }
  else
    let s := s.reserveRing c q.ring false
    if partial_ then s.modSeq l.slot fun q => { q with position := q.position + l.count } else s

/-- One event for each output ring that has received records since the last event about it (R311). -/
def State.tellRings (s : State) (c : Nat) : State :=
  let grew (x : Ring) : Bool := x.ctx == c && x.source == 0 && x.told != x.write
  (sortBy (fun a b => decide (a.ring < b.ring)) (s.rings.filter grew)).foldl (fun s x =>
    (s.setRing { x with told := x.write }).event 2 none (s.cpart c) c (leB 8 x.ring ++ leB 8 x.write)) s

/-- OUTPUT_COLLECTION: the lanes in order, then the events of the rings. -/
def State.collect (s : State) (c : Nat) (r : StepRun) : State :=
  let lanes := (s.ctx c).lanes
  (((List.range lanes.length).zip lanes).foldl (fun s l => s.collectLane c r.tick l.1 l.2) s).tellRings c

/-- CONTEXT_STEP_END: every tile's step has ended. A serving step with a set still to run starts its second run (R291); else the step
ends with its event, its slowdown record, and its outputs or its training attempt's end. -/
def State.contextStepEnd (s : State) (c : Nat) : State :=
  match (s.ctx c).step with
  | none => s
  | some r =>
    if s.cst c ≠ stRunning ∨ s.running (s.cpart c) ≠ some c ∨ !s.allEnded c then s
    else match r.more with
      | k :: rest =>
        (s.modCtx c fun x => { x with step := some { r with set := some k, more := rest, run := 1 } }).startEntry c r.entry false
      | [] =>
        let s := (s.stepEvent c r).reportStep c r
        let s := s.modCtx c fun k => { k with step := none, slip := 0, breached := false }
        if r.training then s.attemptEnd c r else s.collect c r

def execContextStepEnd (ctx : Nat) (s : State) : Result := .next (if s.up then s.contextStepEnd ctx else s)

end Sys2Proof.Machine
end

