-- ==== Sys2Proof/Machine/Results.lean ====
section
/-! DEFINITION. Result read and release, retention (R359 to R361), and the trace (R358, R473). -/

namespace Sys2Proof.Machine

/-- The check of a source and a ring (R359). -/
def State.checkRing (s : State) (c source ring : Nat) : Nat :=
  if 1 < source ∨ 255 < ring then 0x0104 else if (s.ring c source ring).isNone then 0x0212 else 0

def checkResultRead (c source ring start count : Nat) (s : State) : Nat :=
  let st := s.checkRing c source ring
  if count = 0 ∨ 127 < count then 0x0104
  else if st ≠ 0 then st
  else match s.ring c source ring with
    | some r => if start < r.release then 0x0211 else if r.write ≤ start then 0x0210 else 0
    | none => 0

/-- RESULT_READ: the records from `start` up to the write index, marked as returned; duplicate is set when any was returned before. An
attested context's reply holds at most 126 records, encrypted (R425). A poisoned line among them fails the command (R224). -/
def doResultRead (h : Hdr) (source ring start count : Nat) (s : State) : State :=
  let c := h.context
  match s.ring c source ring with
  | none => s
  | some r =>
    let most := if s.on (SEC_CTX.attested c) then 126 else 127
    let n := Min.min (Min.min count most) (r.write - start)
    let again := (List.range n).map fun i => r.reads.contains (start + i)
    let bitmap := ((List.range n).zip again).foldl (fun v e => v + bit e.2 * 2 ^ e.1) 0
    if (List.range n).any fun i => s.partPoisoned (s.cpart c) (r.addr (start + i)) r.size then s.reply h 0x0C01 readErrorStatus
    else
    let data := (List.range n).flatMap fun i => s.rdPart (s.cpart c) (r.addr (start + i)) r.size
    let fresh := ((List.range n).map (start + ·)).filter fun i => !r.reads.contains i
    let s := (List.range n).foldl (fun s i => s.readLines (s.cpart c) (r.addr (start + i)) r.size)
      (s.setRing { r with reads := r.reads ++ fresh })
    let sealed := s.seal c 32 (leB 8 start ++ leB 4 n ++ leB 4 0 ++ leB 16 bitmap ++ data)
    sealed.2.reply h 0x0C01 0 sealed.1 (again.any id)

def execResultRead (h : Hdr) (source ring start count : Nat) (s : State) : Result :=
  .next (s.command (.resultRead h source ring start count) h 0x0C01 (h.length == 32) .context (checkResultRead h.context source ring start count)
    (doResultRead h source ring start count))

def checkResultRelease (c source ring upto : Nat) (s : State) : Nat :=
  let st := s.checkRing c source ring
  if st ≠ 0 then st
  else match s.ring c source ring with | some r => if r.write < upto then 0x0104 else 0 | none => 0

def execResultRelease (h : Hdr) (source ring upto : Nat) (s : State) : Result :=
  .next (s.command (.resultRelease h source ring upto) h 0x0C02 (h.length == 24) .context (checkResultRelease h.context source ring upto) fun s =>
    (match s.ring h.context source ring with | some r => s.setRing (r.releaseTo upto) | none => s).reply h 0x0C02 0)

def execRetentionSet (h : Hdr) (ms : Nat) (s : State) : Result :=
  .next (s.command (.retentionSet h ms) h 0x0C03 (h.length == 8) .context (fun _ => if 3600000 < ms then 0x0104 else 0)
    fun s => (s.wr (CMD_RESULT_CFG.retention_ms h.context) ms).reply h 0x0C03 0)

/-- One record released by retention: counted, and told by a notice of cause 1. -/
def State.expireRecord (s : State) (r : Ring) (i : Nat) : State :=
  (s.inc (CMD_RESULT_STATUS.expired r.ctx) 1).notice (s.cpart r.ctx) r.ctx 1 (256 * r.source + r.ring) i

/-- RESULT_RETENTION_EXPIRY: the records that have been held for retention_ms are released; a retention of 0 holds them. -/
def State.retentionExpiry (s : State) (c source ring : Nat) : State :=
  let keep := s.rd (CMD_RESULT_CFG.retention_ms c) * 1000000
  match s.ring c source ring with
  | none => s
  | some r =>
    match r.times with
    | [] => s
    | e :: _ =>
      if keep = 0 then s
      else
        let s := { s with hall := Max.max s.hall (e.2 + keep) }
        let due := (r.times.filter fun e => decide (e.2 + keep ≤ s.hall)).map (·.1)
        let upto := due.foldl (fun m i => Max.max m (i + 1)) r.release
        due.foldl (fun s i => s.expireRecord r i) (s.setRing (r.releaseTo upto))

def execResultRetentionExpiry (ctx source ring : Nat) (s : State) : Result :=
  .next (if s.up then s.retentionExpiry ctx source ring else s)

/-! ### The trace (R358) -/

def checkTraceEnable (c base k : Nat) (s : State) : Nat :=
  if s.on (SEC_CTX.attested c) then 0x0644
  else if k < 4 ∨ 20 < k ∨ s.stackSpace (s.cpart c) < 256 * base + 16 * 2 ^ k then 0x0104
  else 0

/-- TRACE_ENABLE: the context's one trace ring is set up. -/
def fwTraceEnable (h : Hdr) (base k : Nat) : Fw :=
  ⟨0x0A01, h.length == 16, .context, checkTraceEnable h.context base k,
    fun s => (s.setRing { ctx := h.context, source := 1, ring := 0, k := k, base := base, size := 16 }).reply h 0x0A01 0, secCount⟩

def execTraceEnable (h : Hdr) (base k : Nat) (s : State) : Result :=
  .next (s.fwCommand h (fwTraceEnable h base k) (.traceEnable h base k))

/-- A context's trace stops; the records in its ring remain held (R473). -/
def State.stopTrace (s : State) (c : Nat) : State :=
  match s.ring c 1 0 with | some r => s.setRing { r with enabled := false } | none => s

def execTraceDisable (h : Hdr) (s : State) : Result :=
  .next (s.command (.traceDisable h) h 0x0A02 (h.length == 0) .context (fun _ => 0) fun s => (s.stopTrace h.context).reply h 0x0A02 0)

end Sys2Proof.Machine
end

