-- ==== Sys2Proof/Machine/Sec.lean ====
section
/-! DEFINITION. Security and firmware (chapter 19): measurement, attestation, sessions and stream keys, key enrolment, debug unlock
and firmware update. The commands of group 0x09 are relayed by the runtime firmware to the trusted firmware. -/

namespace Sys2Proof.Machine

/-! ### Statuses, fuses and measurement slots (R416, R421, R428, R429) -/

/-- A security command ends with a status. -/
def State.secReply (s : State) (h : Hdr) (op st : Nat) (payload : Bytes := []) : State := (secCount st s).reply h op st payload

/-- A security command: a check that fails refuses it (R343), and is counted. -/
def secFw (op : Nat) (lenOk : Bool) (sc : Scope) (check : State → Nat) (act : State → State) : Fw := ⟨op, lenOk, sc, check, act, secCount⟩

/-- The 32 bytes of a hash held in four words. -/
def State.hashAt (s : State) (f : Nat → RF) : Bytes := (List.range 4).flatMap fun w => leB 8 (s.rd (f w))
def State.setHash (s : State) (f : Nat → RF) (b : Bytes) : State :=
  (List.range 4).foldl (fun s w => s.wr (f w) (leAt b (8 * w) 8)) s

/-- A fuse write whose read-back differs (R416): fault 0x3304, the command fails, and no fuse is written again. What the fuse holds then is
left to the caller; the command's status, which R416 does not name, is that of a command of a faulted module (R447; DEDUCED, log 60). -/
def State.fuseMismatch (s : State) (h : Hdr) (op : Nat) : State :=
  let s := (({ s with sec := { s.sec with fuseBad := true } }).fault 0x3304 5 15 0 none none []).moduleFault 0x3304
  s.secReply h op 0x0703

def State.rootHash (s : State) : Bytes := s.hashAt fun w => SEC_FUSE_HASH.hash w
def State.ownerHash (s : State) : Bytes := s.hashAt fun w => SEC_FUSE_HASH.hash (4 + w)

/-- A measurement slot, and its extension: slot ← SHA-256(slot ‖ value). -/
def State.slot (s : State) (k : Nat) : Bytes := s.hashAt (SEC_MEAS.meas k)
def State.extend (s : State) (k : Nat) (value : Bytes) : State := s.setHash (SEC_MEAS.meas k) (sha256 (s.slot k ++ value))

/-- A slot extended with 32 bytes that the spec does not state (a debug level, a key table, a calibration set): free. -/
def State.extendFree (s : State) (k : Nat) : State := let r := s.freeBytes 32; r.2.extend k r.1

/-- MEASUREMENT_READ: slots 0 to 15. -/
def fwMeasurementRead (h : Hdr) : Fw :=
  secFw 0x0901 (h.length == 8) .none (fun _ => 0)
    (fun s => s.secReply h 0x0901 0 ((List.range 16).flatMap s.slot))

def execMeasurementRead (h : Hdr) (s : State) : Result :=
  .next (s.fwCommand h (fwMeasurementRead h) (.measurementRead h))

/-- MEASUREMENT_EXTEND: the runtime extends slots 6 to 15. -/
def fwMeasurementExtend (h : Hdr) (slot : Nat) (value : Bytes) : Fw :=
  secFw 0x0901 (h.length == 48 && value.length == 32) .none (fun _ => if slot < 6 ∨ 15 < slot then 0x0190 else 0)
    (fun s => (s.extend slot value).secReply h 0x0901 0)

def execMeasurementExtend (h : Hdr) (slot : Nat) (value : Bytes) (s : State) : Result :=
  .next (s.fwCommand h (fwMeasurementExtend h slot value) (.measurementExtend h slot value))

/-! ### Device keys (R416, R417) -/

/-- The 3n bytes of a device key, n = 16, by the salt of Table 19-3: HKDF over device_secret. -/
def deviceSeeds (salt : Bytes) : Bytes := hkdf48 (leB 32 Config.deviceSecret.toNat) salt
def seedsPublic (b : Bytes) : Bytes := padTo 32 (Config.slhPublic (slice b 0 16) (slice b 16 16) (slice b 32 16))
def seedsSign (b m : Bytes) : Bytes := padTo 17088 (Config.slhSign (slice b 0 16) (slice b 16 16) (slice b 32 16) m)

/-- The identity key never changes; the attestation key changes with measurement slot 0. -/
def identitySeeds : Bytes := deviceSeeds (ascii "KGW7 identity")
def State.attestSeeds (s : State) : Bytes := deviceSeeds (ascii "KGW7 attest" ++ s.slot 0)

/-- Step 4 of R420: the attestation key is derived and certified by the identity key. -/
def State.certifyAttest (s : State) : State :=
  { s with sec := { s.sec with attestCert := Config.certify identitySeeds (seedsPublic s.attestSeeds) } }

/-- CERTIFICATE_READ: part of the identity (0) or the attestation certificate (1). -/
def State.certificate (s : State) (which : Nat) : Bytes :=
  if which = 0 then Config.identityCertificate else s.sec.attestCert

def fwCertificateRead (h : Hdr) (which offset : Nat) : Fw :=
  secFw 0x0901 (h.length == 24) .none (fun s => if 1 < which ∨ (s.certificate which).length < offset then 0x0190 else 0)
    (fun s => s.secReply h 0x0901 0 (outPart (s.certificate which) offset))

def execCertificateRead (h : Hdr) (which offset : Nat) (s : State) : Result :=
  .next (s.fwCommand h (fwCertificateRead h which offset) (.certificateRead h which offset))

/-! ### Attestation (R422) -/

def State.session (s : State) (id : Nat) : Option Session := s.sec.sessions.find? fun x => x.id == id

/-- Bytes 0 to 735 of a quote (Table 19-5). -/
def State.quoteBody (s : State) (nonce : Bytes) (c session : Nat) : Bytes :=
  let named := decide (c < 128)
  let flags := s.rd SEC_STATUS.debug_level + 4 * bit (s.rd TIM_STATUS.state != 1) + 8 * bit (named && s.on (SEC_CTX.attested c))
  let ek := match s.session session with | some x => sha256 x.ek | none => padTo 32 []
  let program := if named then (match (s.ctx c).program with | some g => padTo 32 g.measurement | none => padTo 32 []) else padTo 32 []
  let weights := if named then (match (s.currentSlot c).bind (s.build c) with | some b => padTo 32 b.digest | none => padTo 32 [])
    else padTo 32 []
  leB 4 0x4B575154 ++ leB 2 1 ++ leB 2 flags ++ leB 8 s.hall ++ leB 16 Config.serialNumber.toNat ++ padTo 32 nonce ++ ek ++
    (List.range 16).flatMap s.slot ++ leB 2 c ++ leB 6 0 ++ program ++ weights ++ seedsPublic s.attestSeeds ++ leB 24 0

def checkQuote (c session : Nat) (s : State) : Nat :=
  if (127 < c ∧ c ≠ 0xFFFF) ∨ (63 < session ∧ session ≠ 0xFF) then 0x0190
  else if session ≠ 0xFF ∧ (s.session session).isNone then 0x0290
  else if 4 ≤ s.sec.waiting.length then 0x0390 else 0

/-- The body of an accepted request: of the instant of its acceptance where the runtime firmware has held it since then, under the header
`kept` (R422). -/
def State.acceptedBody (s : State) (kept : Option Hdr) (nonce : Bytes) (ctx session : Nat) : Bytes :=
  ((s.sec.early.find? fun q => some q.hdr == kept).map (·.body)).getD (s.quoteBody nonce ctx session)

/-- ATTESTATION_QUOTE mode 0: the request waits for its signature. -/
def fwAttestationQuote (h : Hdr) (nonce : Bytes) (ctx session : Nat) (kept : Option Hdr := none) : Fw :=
  secFw 0x0902 (h.length == 56 && nonce.length == 32) .none (checkQuote ctx session)
    (fun s =>
      let q : QuoteReq := ⟨h, s.acceptedBody kept nonce ctx session⟩
      { s with sec := { s.sec with waiting := s.sec.waiting ++ [q] } }.reply h 0x0902 1)

/-- A request that the firmware holds keeps the body of its acceptance, which is `s`; the bodies of requests that it no longer holds go. -/
def State.keepBody (t s : State) (h : Hdr) (nonce : Bytes) (ctx session : Nat) : State :=
  if s.cmd.runtime.length < t.cmd.runtime.length then
    { t with sec := { t.sec with early :=
      (t.sec.early.filter fun q => q.hdr != h && t.cmd.runtime.any fun r => r.hdr == q.hdr) ++ [⟨h, s.quoteBody nonce ctx session⟩] } }
  else t

def execAttestationQuote (h : Hdr) (nonce : Bytes) (ctx session : Nat) (s : State) : Result :=
  .next ((s.fwCommand h (fwAttestationQuote h nonce ctx session) (.attestationQuote h nonce ctx session)).keepBody s h nonce ctx session)

/-- QUOTE_SIGNED: the oldest request's quote is signed and kept among the last 8; the command completes with its id. -/
def State.quoteSigned (s : State) : State :=
  match s.sec.waiting with
  | [] => s
  | q :: rest =>
    if q.hdr.deadlineEn ∧ q.hdr.deadline < s.hall then { s with sec := { s.sec with waiting := rest } }.reply q.hdr 0x0902 0x0502 else
    let quote := q.body ++ seedsSign s.attestSeeds (sha256 q.body)
    let id := s.sec.nextQuote
    let s := { s with sec := { s.sec with
      waiting := rest, nextQuote := id + 1, quotes := ((id, quote) :: s.sec.quotes).take 8 } }
    (s.inc SEC_COUNTS.quotes 1).reply q.hdr 0x0902 0 (leB 8 id)

def execQuoteSigned (s : State) : Result := .next (if s.up then s.quoteSigned else s)

def checkQuoteRead (id offset : Nat) (s : State) : Nat :=
  match s.sec.quotes.find? fun q => q.1 == id with
  | some q => if q.2.length < offset then 0x0190 else 0
  | none => 0x0290

def fwQuoteRead (h : Hdr) (id offset : Nat) : Fw :=
  secFw 0x0902 (h.length == 24) .none (checkQuoteRead id offset)
    (fun s => s.secReply h 0x0902 0 (outPart (((s.sec.quotes.find? fun q => q.1 == id).map (·.2)).getD []) offset))

def execQuoteRead (h : Hdr) (id offset : Nat) (s : State) : Result :=
  .next (s.fwCommand h (fwQuoteRead h id offset) (.quoteRead h id offset))

/-! ### Sessions (R423, R425) -/

/-- The registers that show the sessions. -/
def State.showSessions (s : State) : State :=
  let s := s.wr SEC_STATUS.sessions s.sec.sessions.length
  (List.range 128).foldl (fun s c => match s.sec.sessions.find? fun x => x.ctx == c with
    | some x => (s.wr (SEC_CTX.session_valid c) 1).wr (SEC_CTX.session c) x.id
    | none => (s.wr (SEC_CTX.session_valid c) 0).wr (SEC_CTX.session c) 0) s

/-- The number of attested contexts. -/
def State.showAttested (s : State) : State :=
  s.wr SEC_STATUS.attested ((List.range 128).filter fun c => s.on (SEC_CTX.attested c)).length

def State.freeSession (s : State) : Option Nat := (List.range 64).find? fun i => (s.session i).isNone

/-- SESSION_ESTABLISH phase 0: a fresh key pair for the context. -/
def doSessionKey (h : Hdr) (s : State) : State :=
  match s.freeSession with
  | none => s.secReply h 0x0903 0x0390
  | some id =>
    let r := s.free 512
    let ek := padTo 1184 (Config.kemKey r.1)
    let x : Session := { id := id, ctx := h.context, openedAt := s.hall, keySeed := r.1, ek := ek }
    let s := { r.2 with sec := { r.2.sec with sessions := x :: r.2.sec.sessions } }
    s.showSessions.secReply h 0x0903 0 (leB 8 id ++ ek)

def fwSessionEstablishKey (h : Hdr) : Fw :=
  secFw 0x0903 (h.length == 8) .context (fun s => if s.freeSession.isNone then 0x0390 else 0)
    (doSessionKey h)

def execSessionEstablishKey (h : Hdr) (s : State) : Result :=
  .next (s.fwCommand h (fwSessionEstablishKey h) (.sessionEstablishKey h))

/-- A session closes: its secret and every key derived from it are erased. -/
def State.closeSession (s : State) (x : Session) : State :=
  ({ s with sec := { s.sec with
    sessions := s.sec.sessions.filter fun y => y.id != x.id,
    slots := s.sec.slots.filter fun k => k.session != x.id } }).showSessions

/-- 60 s, in which phase 1 must arrive. -/
def sessionLimit : Nat := 60000000000

def checkSessionCiphertext (c id bind : Nat) (s : State) : Nat :=
  if 63 < id ∨ 1 < bind then 0x0190
  else match s.session id with
    | none => 0x0290
    | some x =>
      if x.ctx ≠ c ∨ x.secret.isSome ∨ x.openedAt + sessionLimit < s.hall then 0x0290
      else if bind = 1 ∧ 1 < s.rd SEC_STATUS.debug_level then 0x0290 else 0

/-- SESSION_ESTABLISH phase 1: the secret is derived and the decapsulation key erased; a bind makes the context attested and stops
its trace (R473). -/
def doSessionCiphertext (h : Hdr) (id bind : Nat) (ct : Bytes) (s : State) : State :=
  match s.session id with
  | none => s
  | some x =>
    let k := hkdf (Config.kemDecapsulate x.keySeed ct) (sha256 (x.ek ++ ct)) (ascii "KGW7 session")
    let y : Session := { x with secret := some k, keySeed := 0, bound := bind == 1 }
    let others (z : Session) : Session := if bind = 1 ∧ z.ctx = x.ctx then { z with bound := false } else z
    let s := { s with sec := { s.sec with sessions := s.sec.sessions.map fun (z : Session) => if z.id == id then y else others z } }
    let s := if bind = 1 then ((s.wr (SEC_CTX.attested h.context) 1).showAttested).stopTrace h.context else s
    s.secReply h 0x0903 0

def fwSessionEstablishCiphertext (h : Hdr) (session bind : Nat) (ciphertext : Bytes) : Fw :=
  secFw 0x0903 (h.length == 1112 && ciphertext.length == 1088) .context (checkSessionCiphertext h.context session bind)
    (doSessionCiphertext h session bind ciphertext)

def execSessionEstablishCiphertext (h : Hdr) (session bind : Nat) (ciphertext : Bytes) (s : State) : Result :=
  .next (s.fwCommand h (fwSessionEstablishCiphertext h session bind ciphertext) (.sessionEstablishCiphertext h session bind ciphertext))

/-- SESSION_TIMEOUT: phase 1 has not arrived within 60 s. -/
def State.sessionTimeout (s : State) (id : Nat) : State :=
  match s.session id with
  | some x => if x.secret.isSome then s else ({ s with hall := Max.max s.hall (x.openedAt + sessionLimit) }).closeSession x
  | none => s

def execSessionTimeout (session : Nat) (s : State) : Result := .next (if s.up then s.sessionTimeout session else s)

/-- What a context's end closes in the root of trust (R423, R425): its sessions, and its attested flag once it is FREE. -/
def State.endSecurity (s : State) (c : Nat) : State :=
  let s := (s.sec.sessions.filter fun x => x.ctx == c).foldl State.closeSession s
  let s := { s with sec := { s.sec with
    results := s.sec.results.filter fun e => e.1 != c, parts := s.sec.parts.filter fun a => a.context != c || a.op / 256 == 9 } }
  (s.wr (SEC_CTX.attested c) 0).showAttested

/-! ### Stream keys (R424) -/

def checkStreamKeySet (c id slot salt dir : Nat) (s : State) : Nat :=
  if 63 < id ∨ 1023 < slot ∨ 2 ^ 32 ≤ salt ∨ 1 < dir then 0x0190
  else match s.session id with
    | none => 0x0290
    | some x =>
      if x.ctx ≠ c ∨ x.secret.isNone then 0x0290
      else if s.sec.slots.any fun k => k.slot == slot && k.ctx != c then 0x0290
      else if s.fab.streams.any fun y => y.prot && y.keySlot == slot then 0x0290 else 0

def doStreamKeySet (h : Hdr) (id slot salt dir : Nat) (s : State) : State :=
  let k := ((s.session id).bind (·.secret)).getD []
  let x : KeySlot := {
    slot := slot, session := id, ctx := h.context, salt := salt, direction := dir,
    key := hkdf k (ascii "KGW7 stream") (leB 2 slot ++ leB 4 salt ++ leB 1 dir) }
  ({ s with sec := { s.sec with slots := x :: s.sec.slots.filter fun y => y.slot != slot } }).secReply h 0x0904 0

def fwStreamKeySet (h : Hdr) (session slot salt direction : Nat) : Fw :=
  secFw 0x0904 (h.length == 32) .context (checkStreamKeySet h.context session slot salt direction)
    (doStreamKeySet h session slot salt direction)

def execStreamKeySet (h : Hdr) (session slot salt direction : Nat) (s : State) : Result :=
  .next (s.fwCommand h (fwStreamKeySet h session slot salt direction) (.streamKeySet h session slot salt direction))

/-! ### Debug lock (R427) -/

/-- What refuses an unlock to a level. -/
def State.unlockRefusal (s : State) (level : Nat) : Nat :=
  if s.on SEC_STATUS.debug_disable then 0x0643
  else if level = 2 ∧ s.rd SEC_STATUS.attested ≠ 0 then 0x0644
  else if level = 2 ∧ s.anyActive then 0x0290 else 0

def fwDebugUnlockChallenge (h : Hdr) (level : Nat) : Fw :=
  secFw 0x0905 (h.length == 16) .none (fun s => if level = 0 ∨ 2 < level then 0x0190 else s.unlockRefusal level)
    (fun s =>
      let r := s.freeBytes 32
      let ch := r.1 ++ leB 16 Config.serialNumber.toNat ++ leB 1 level ++ leB 7 0
      ({ r.2 with sec := { r.2.sec with challenge := some (level, ch, s.hall) } }).secReply h 0x0905 0 ch)

def execDebugUnlockChallenge (h : Hdr) (level : Nat) (s : State) : Result :=
  .next (s.fwCommand h (fwDebugUnlockChallenge h level) (.debugUnlockChallenge h level))

/-- The key that a response names by the index after its signature. -/
def State.debugKey (s : State) (obj : Bytes) : Option KeyEntry :=
  s.sec.keys.find? fun k => k.entry == leAt obj 16224 8 && k.cls == 2 && !k.revoked

/-- What refuses the whole response: a signature over the challenge, then the index of the key. -/
def State.unlockCheck (s : State) (obj : Bytes) : Nat :=
  match s.sec.challenge with
  | none => 0x0290
  | some (level, ch, at_) =>
    if obj.length ≠ 16232 ∨ 31 < leAt obj 16224 8 then 0x0190
    else if s.unlockRefusal level ≠ 0 then s.unlockRefusal level
    else if at_ + sessionLimit < s.hall then 0x0290
    else match s.debugKey obj with
      | none => 0x0641
      | some k => if Config.verifySignature k.key ch (obj.take 16224) then 0 else 0x0640

/-- The level is unlocked. -/
def State.unlock (s : State) (h : Hdr) (obj : Bytes) : State :=
  let level := match s.sec.challenge with | some x => x.1 | none => 0
  let s := { s.wr SEC_STATUS.debug_level (Max.max level (s.rd SEC_STATUS.debug_level)) with sec := { s.sec with challenge := none } }
  let s := ((s.inc SEC_COUNTS.unlocks 1).extendFree 4).fault 0x3305 0 15 0 none none (leB 1 level ++ leB 1 (leAt obj 16224 8))
  s.secReply h 0x0905 0

def fwDebugUnlockResponse (h : Hdr) (offset total : Nat) (data : Bytes) : Fw :=
  partFw h 0x0905 (h.length == 16 + data.length && decide (data.length ≤ 4080)) .none offset total data State.unlockCheck
    (fun s obj => s.unlock h obj) secCount

def execDebugUnlockResponse (h : Hdr) (offset total : Nat) (data : Bytes) (s : State) : Result :=
  .next (s.fwCommand h (fwDebugUnlockResponse h offset total data) (.debugUnlockResponse h offset total data))

/-! ### Key enrolment (R418) -/

/-- The fields of an enrolment record (Table 19-4) lie in their ranges. -/
def recordOk (r : Bytes) : Bool :=
  let op := leAt r 0 1
  decide (op ≤ 3) && decide (leAt r 3 5 = 0) && (decide (leAt r 1 1 ≤ 31) || !(op == 1 || op == 2)) &&
    (decide (leAt r 2 1 ≤ 2) || op != 1) && leAt r 16 16 == Config.serialNumber.toNat

/-- The registers that show the key table. -/
def State.showKeys (s : State) : State :=
  let enrolled := (List.range 32).foldl (fun v e => v + bit (s.sec.keys.any fun k => k.entry == e && !k.revoked) * 2 ^ e) 0
  (s.wr SEC_ENROL.enrolled enrolled).wr SEC_ENROL.counter_low s.sec.counter

/-- What an accepted record does. -/
def State.enrolRecord (s : State) (r : Bytes) : State :=
  let op := leAt r 0 1
  let entry := leAt r 1 1
  let key := slice r 32 48
  let s := { s with sec := { s.sec with counter := leAt r 8 8 } }
  let rest := s.sec.keys.filter fun k => k.entry != entry
  if op = 0 then
    ((s.setHash (fun w => SEC_FUSE_HASH.hash (4 + w)) (sha256 key)).wr SEC_STATUS.owner_set 1).showKeys
  else if op = 1 then
    (({ s with sec := { s.sec with keys := ⟨entry, leAt r 2 1, key, false⟩ :: rest } }).extendFree 5).showKeys
  else if op = 2 then
    (({ s with sec := { s.sec with keys := s.sec.keys.map fun (k : KeyEntry) => if k.entry == entry then { k with revoked := true } else k } }).extendFree
      5).showKeys
  else (s.wr SEC_STATUS.debug_disable 1).showKeys

/-- A record whose fuse did not take: the counter rises, and the owner's hash, when it was the fuse, is what the fuse then reads (free). -/
def State.fuseFailed (s : State) (r : Bytes) : State :=
  let s := { s with sec := { s.sec with counter := leAt r 8 8 } }
  if leAt r 0 1 = 0 then
    let x := s.freeBytes 32
    ((x.2.setHash (fun w => SEC_FUSE_HASH.hash (4 + w)) x.1).wr SEC_STATUS.owner_set (bit (x.1.any (· != 0)))).showKeys
  else s.showKeys

/-- The record of an enrolment object: the object, or what follows the owner's key in it. -/
def enrolRecordOf (obj : Bytes) : Bytes := if obj.length = 16304 then obj else obj.drop 48

/-- What refuses the whole enrolment object: a record, or the owner's key and a record. -/
def State.enrolCheck (s : State) (obj : Bytes) : Nat :=
  let first := obj.length == 16304
  let owner := obj.take 48
  let r := enrolRecordOf obj
  let op := leAt r 0 1
  let sig := slice r 80 16224
  let msg := sha256 (r.take 80)
  if !(first || obj.length == 16352) || !recordOk r || first != (op == 0) then 0x0190
  else if (op = 0 ∧ s.on SEC_STATUS.owner_set) ∨ (op % 3 = 0 ∧ s.sec.fuseBad) then 0x0290
  else if op ≠ 0 ∧ !(s.on SEC_STATUS.owner_set && sha256 owner == s.ownerHash) then 0x0641
  else if leAt r 8 8 ≤ s.sec.counter then 0x0645
  else if op = 0 ∧ !Config.kyorisSigned s.rootHash msg sig then 0x0640
  else if op ≠ 0 ∧ !Config.verifySignature owner msg sig then 0x0640
  else if op = 2 ∧ !(s.sec.keys.any fun k => k.entry == leAt r 1 1 && !k.revoked) then 0x0641 else 0

/-- An accepted object's effect. Ops 0 and 3 write a fuse, which `fuseOk` says read back as written (R416). -/
def State.enrol (s : State) (h : Hdr) (fuseOk : Bool) (obj : Bytes) : State :=
  let r := enrolRecordOf obj
  if leAt r 0 1 % 3 = 0 ∧ !fuseOk then (s.fuseFailed r).fuseMismatch h 0x0907 else (s.enrolRecord r).secReply h 0x0907 0

def fwKeyEnrolment (h : Hdr) (offset total : Nat) (data : Bytes) (fuseOk : Bool) : Fw :=
  partFw h 0x0907 (partLen h data) .none offset total data State.enrolCheck (fun s obj => s.enrol h fuseOk obj) secCount

def execKeyEnrolment (h : Hdr) (offset total : Nat) (data : Bytes) (fuseOk : Bool) (s : State) : Result :=
  .next (s.fwCommand h (fwKeyEnrolment h offset total data fuseOk) (.keyEnrolment h offset total data fuseOk))

/-! ### Firmware update (R426) -/

/-- A firmware slot: target 0 trusted, 1 runtime; slot 0 A, 1 B. -/
def fwKey (target slot : Nat) : Nat := 2 * target + slot
def State.fwSlot (s : State) (target slot : Nat) : FwSlot := Sparse.get {} s.sec.fw (fwKey target slot)
def State.setFwSlot (s : State) (target slot : Nat) (x : FwSlot) : State :=
  { s with sec := { s.sec with fw := Sparse.put {} s.sec.fw (fwKey target slot) x } }

/-- The slot that the running image of a target was booted from. -/
def State.fwRunning (s : State) (target : Nat) : Nat := s.rd (if target = 0 then SEC_STATUS.tfw_slot else SEC_STATUS.runtime_slot)
def fwFloor (target : Nat) : RF := if target = 0 then SEC_VERSION.tfw_floor else SEC_VERSION.rfw_floor

/-- Bytes of the staging region of control-die memory. -/
def State.staged (s : State) (a n : Nat) : Bytes := (List.range n).map fun i => Sparse.get 0 s.sec.staging (a + i)
def State.stageBytes (s : State) (a : Nat) (b : Bytes) : State :=
  ((List.range b.length).zip b).foldl (fun s e => { s with sec := { s.sec with staging := Sparse.put 0 s.sec.staging (a + e.1) e.2 } }) s

/-- The check of an image (R420). One that is empty or too long fails it with the status of a signature that does not verify (DEDUCED, log
71). -/
def State.imageRefusal (s : State) (target : Nat) (image : Bytes) : Nat :=
  if image.isEmpty ∨ (target = 0 ∧ 65536 < image.length) then 0x0640
  else if !Config.firmwareSigned s.rootHash image then 0x0640
  else if (Config.firmwareVersion image).toNat < s.rd (fwFloor target) then 0x0642 else 0

/-- Mode 0: the image is written to the inactive slot and preferred there. -/
def State.fwInstall (s : State) (target addr len : Nat) : State :=
  let image := s.staged addr len
  let k := s.fwRunning target
  let s := s.setFwSlot target k { s.fwSlot target k with preferred := false }
  s.setFwSlot target (1 - k) ⟨image, true⟩

/-- What refuses an installation: the target, or the check of its image. -/
def checkInstall (target addr len : Nat) (s : State) : Nat := if 1 < target then 0x0190 else s.imageRefusal target (s.staged addr len)

def fwFirmwareUpdateInstall (h : Hdr) (target addr len : Nat) : Fw :=
  secFw 0x0906 (h.length == 32) .none (checkInstall target addr len)
    (fun s => (s.fwInstall target addr len).secReply h 0x0906 0)

def execFirmwareUpdateInstall (h : Hdr) (target addr len : Nat) (s : State) : Result :=
  .next (s.fwCommand h (fwFirmwareUpdateInstall h target addr len) (.firmwareUpdateInstall h target addr len))

/-- Mode 1: a part of an image, written at the staging address plus its offset. -/
def fwFirmwareUpdateStage (h : Hdr) (addr offset total : Nat) (data : Bytes) : Fw :=
  secFw 0x0906 (h.length == 24 + data.length && decide (data.length ≤ 4072)) .none
    (fun s => s.partCheck h 0x0906 offset total data fun _ _ => 0)
    (fun s =>
      let r := s.takePart h 0x0906 offset total data
      match r.1 with
      | .refused => r.2.reply h 0x0906 0x0190
      | _ => (r.2.stageBytes (addr + offset) data).secReply h 0x0906 0)
  |>.discarding fun s => (s.takePart h 0x0906 offset total data).2

def execFirmwareUpdateStage (h : Hdr) (addr offset total : Nat) (data : Bytes) (s : State) : Result :=
  .next (s.fwCommand h (fwFirmwareUpdateStage h addr offset total data) (.firmwareUpdateStage h addr offset total data))

/-- Mode 2: the floor rises to the version of the running image, at most 64. -/
def State.fwRaise (s : State) (target : Nat) : State :=
  let v := s.rd (if target = 0 then SEC_VERSION.tfw_version else SEC_VERSION.rfw_version)
  s.wr (fwFloor target) (Max.max (s.rd (fwFloor target)) (Min.min v 64))

/-- A floor whose fuse did not read back as written is whatever the fuse then reads, 0 to 64 (free). -/
def State.floorFailed (s : State) (target : Nat) : State := let x := s.free 7; x.2.wr (fwFloor target) (Min.min x.1 64)

def fwFirmwareUpdateFloor (h : Hdr) (target : Nat) (fuseOk : Bool) : Fw :=
  secFw 0x0906 (h.length == 16) .none (fun s => if 1 < target then 0x0190 else if s.sec.fuseBad then 0x0290 else 0)
    (fun s => if fuseOk then (s.fwRaise target).secReply h 0x0906 0 else (s.floorFailed target).fuseMismatch h 0x0906)

def execFirmwareUpdateFloor (h : Hdr) (target : Nat) (fuseOk : Bool) (s : State) : Result :=
  .next (s.fwCommand h (fwFirmwareUpdateFloor h target fuseOk) (.firmwareUpdateFloor h target fuseOk))

/-! ### The slots at boot (R420) -/

/-- The firmware slot that is tried first: the preferred one, A where none is (R420, R426; DEDUCED, log 38). -/
def State.firstSlot (s : State) (target : Nat) : Nat := if (s.fwSlot target 1).preferred then 1 else 0

/-- The image that a slot of boot flash holds: the one installed last, else the one delivered. -/
def State.slotImage (s : State) (target k : Nat) : Bytes :=
  let x := s.fwSlot target k
  if x.image.isEmpty then Config.factoryImage target k else x.image

/-- A slot's image passes the checks of R420. -/
def State.slotOk (s : State) (target k : Nat) : Bool := s.imageRefusal target (s.slotImage target k) == 0

/-- The slot that a target boots from: the first slot tried, else the other, else none. -/
def State.bootSlot (s : State) (target : Nat) : Option Nat := [s.firstSlot target, 1 - s.firstSlot target].find? (s.slotOk target)

/-- The SHA-256 and the security version of a slot's image. -/
def State.slotDigest (s : State) (target k : Nat) : Bytes := sha256 (s.slotImage target k)
def State.slotVersion (s : State) (target k : Nat) : Nat := (Config.firmwareVersion (s.slotImage target k)).toNat

/-- The runtime firmware starts from a slot: step 5 of R420. -/
def State.startRuntime (s : State) (k : Nat) : State :=
  let s := (s.wr SEC_VERSION.rfw_version (s.slotVersion 1 k)).extend 1 (s.slotDigest 1 k)
  ((s.wr SEC_STATUS.runtime_slot k).wr SEC_STATUS.boot_state 2).wr CMD_STATUS.runtime_up 1

/-- RUNTIME_RESTART (R426): the runtime firmware stops, or runs again from the slot that boots: the preferred one where its image is still
accepted. Where none is, it stays down. While it is down every relay connection has ended (R339) and F commands complete with 0x0301 (R348);
the commands it held are answered by time-out. -/
def State.runtimeRestart (s : State) (up : Bool) : State :=
  if !s.up && !s.faultedUp then s
  else if up then
    match s.bootSlot 1 with
    | some k => s.startRuntime k
    | none => s
  else (List.range 2).foldl (fun s m => s.wr (CMD_MGMT_STATUS.held m) 0) ((s.wr CMD_STATUS.runtime_up 0).wr SEC_STATUS.boot_state 1)

def execRuntimeRestart (up : Bool) (s : State) : Result := .next (s.runtimeRestart up)

end Sys2Proof.Machine
end

