-- ==== Sys2Proof/Machine/Cal.lean ====
section
/-! DEFINITION. The calibration set (R438 to R443): its records, the values in use, and the commands that read and change it. -/

namespace Sys2Proof.Machine

/-! ### Records (Tables 20-3 and 20-4) -/

def recKind (r : Bytes) : Nat := leAt r 0 1
def recOrigin (r : Bytes) : Nat := leAt r 1 1
def recLength (r : Bytes) : Nat := leAt r 2 2
def recDigest (r : Bytes) : Bytes := slice r 16 32
def recData (r : Bytes) : Bytes := slice r 48 (recLength r)

/-- A record with another origin. -/
def recWith (r : Bytes) (origin : Nat) : Bytes := r.take 1 ++ leB 1 origin ++ r.drop 2

/-- The length of a kind's data; that of kind 0x07 is taken as two bytes for each port and two for the velocity (DESIGN CHOICE, log
36). -/
def kindLength : Nat → Option Nat
  | 1 => some 16 | 2 => some 296 | 3 => some 296 | 4 => some 4120 | 5 => some 8 | 6 => some 8 | 7 => some 136
  | _ => none

/-- A record's digest verifies. -/
def recValid (r : Bytes) : Bool := sha256 (recData r) == recDigest r

/-- The fields of a record's data that a rule bounds lie in their ranges: a rail offset within 20 mV (R393), an asymmetry within 500 ns
(R50). -/
def dataOk (kind : Nat) (b : Bytes) : Bool :=
  match kind with
  | 2 => (List.range 294).all fun i => decide (-20 ≤ sgn 8 (leAt b i 1)) && decide (sgn 8 (leAt b i 1) ≤ 20)
  | 6 => (List.range 2).all fun i => decide (-500 ≤ sgn 16 (leAt b (2 * i) 2)) && decide (sgn 16 (leAt b (2 * i) 2) ≤ 500)
  | _ => true

/-- A record that R441 accepts. -/
def recOk (r : Bytes) : Bool :=
  kindLength (recKind r) == some (recLength r) && r.length == 48 + recLength r && decide (recOrigin r ≤ 3) &&
    decide (leAt r 4 1 ≤ leAt r 5 1) && decide (leAt r 5 1 ≤ 100) && decide (leAt r 6 1 ≤ leAt r 7 1) && decide (leAt r 7 1 ≤ 150) &&
    decide (400 ≤ leAt r 8 2) && decide (leAt r 8 2 ≤ leAt r 10 2) && decide (leAt r 10 2 ≤ 600) && leAt r 12 4 == 0 && recValid r &&
    dataOk (recKind r) (recData r)

/-- The set's record of a kind. -/
def State.calRecord (s : State) (k : Nat) : Option Bytes := s.cal.records.find? fun r => recKind r == k

/-- A kind lies outside its envelope (R439). -/
def State.calOutside (s : State) (k : Nat) : Bool := s.rdBit CAL_ENV.outside (k - 1)

/-- The data in use for a kind: its record's, none where the guard-banded default stands in. -/
def State.calData (s : State) (k : Nat) : Option Bytes :=
  (s.calRecord k).bind fun r => if recValid r && !s.calOutside k then some (recData r) else none

/-- The signed byte at an index of a kind's data, with its default. -/
def State.calInt8 (s : State) (k i : Nat) (d : Int) : Int :=
  match s.calData k with | some b => sgn 8 (leAt b i 1) | none => d

/-- The least differential pressure of a plate in Pa: 0 top, 1 bottom. -/
def State.minPressure (s : State) (plate : Nat) : Nat :=
  match s.calData 5 with | some b => leAt b (4 * plate) 4 | none => if plate = 0 then 90000 else 40000

/-! ### Governor coefficients (Table 18-3, R394, R440) -/

/-- A binary32 as a number; one that is not finite counts as 0. -/
def binary32 (w : Nat) : Rat := match decodeNum 7 w with | .fin neg m => if neg then -m else m | _ => 0
/-- A number as the nearest binary32. -/
def toBinary32 (q : Rat) : Nat := encodeNum 7 (roundNum 7 none false (.of false q)).1

/-- Coefficients a, s, l and rim of a kind 0x01 record. -/
def recCoefs (b : Bytes) : Rat × Rat × Rat × Rat :=
  (binary32 (leAt b 0 4), binary32 (leAt b 4 4), binary32 (leAt b 8 4), binary32 (leAt b 12 4))

/-- The factory coefficients: those of a factory record, else those of Table 18-3 (DESIGN CHOICE, log 36). -/
def State.factoryCoefs (s : State) : Rat × Rat × Rat × Rat :=
  match s.calRecord 1 with
  | some r => if recOrigin r = 0 ∧ recValid r then recCoefs (recData r) else (35400, 8000, 4000, 2450)
  | none => (35400, 8000, 4000, 2450)

/-- The guard-banded defaults. -/
def State.defaultCoefs (s : State) : Rat × Rat × Rat × Rat :=
  let f := s.factoryCoefs
  (f.1 * 106 / 100, f.2)

/-- The coefficients the governor uses. -/
def State.coefs (s : State) : Rat × Rat × Rat × Rat :=
  match s.cal.learn with
  | some x => (x.a, x.s, x.l, s.defaultCoefs.2.2.2)
  | none => match s.calData 1 with | some b => recCoefs b | none => s.defaultCoefs

/-! ### Registers -/

/-- CAL_STATUS and the learned coefficients follow the set. -/
def State.showCal (s : State) : State :=
  let s := (s.wr CAL_STATUS.write_counter s.cal.counter).wr CAL_STATUS.records s.cal.records.length
  let s := (s.wr CAL_STATUS.learning (bit s.cal.learn.isSome)).wr CAL_STATUS.modified (bit (s.cal.records.any fun r => recOrigin r != 0))
  let s := s.wr CAL_STATUS.set_valid (bit s.cal.valid)
  match s.cal.learn with
  | some x => ((s.wr CAL_LEARN0.coef_a (toBinary32 x.a)).wr CAL_LEARN0.coef_s (toBinary32 x.s)).wr CAL_LEARN1.coef_l (toBinary32 x.l)
  | none => (s.setReg CAL_LEARN0 0).setReg CAL_LEARN1 0

/-- The time-port asymmetries of a kind 0x06 record reach TIM_ASYM. -/
def State.loadAsym (s : State) : State :=
  match s.calRecord 6 with
  | some r =>
    if recValid r then
      { (s.wr TIM_ASYM.port_a_asym_ns (leAt (recData r) 0 2)).wr TIM_ASYM.port_b_asym_ns (leAt (recData r) 2 2) with
        cal := { s.cal with asymWritten := false } }
    else s
  | none => s

/-- A kind that the set holds no valid record of lies outside no envelope (R439): its default is in force for that reason. -/
def State.dropOutside (s : State) : State :=
  let s := ((List.range 7).map (· + 1)).foldl (fun s k =>
    if (s.calRecord k).any recValid then s else s.wrBit CAL_ENV.outside (k - 1) false) s
  s.wr PWR_STATUS.cal_envelope (bit (s.calOutside 1))

/-- The set's header (R438). -/
def State.setHeader (s : State) (n : Nat) : Bytes :=
  leB 4 0x4B574341 ++ leB 2 1 ++ leB 16 Config.serialNumber.toNat ++ leB 8 s.cal.counter ++ leB 2 n ++ leB 32 0

/-- A record put in the set in place of the one of its kind. -/
def putRecord (r : Bytes) (l : List Bytes) : List Bytes := l.filter (fun x => recKind x != recKind r) ++ [r]

/-- A record written to flash, with the set's header: it is in force from order 10 of this boundary. -/
def State.writeRecord (s : State) (r : Bytes) : State :=
  let s := { s with cal := { s.cal with records := putRecord r s.cal.records, counter := s.cal.counter + 1, valid := true } }
  let s := s.extend 3 (recDigest r)
  (if recKind r = 6 then s.loadAsym else s).showCal

/-! ### Commands (R438, R441 to R443) -/

/-- CALIBRATION_READ: the record of a kind; a kind the set does not hold is out of range. -/
def fwCalibrationRead (h : Hdr) (kind : Nat) : Fw :=
  ⟨0x0B03, h.length == 8, .none, fun s => if (s.calRecord kind).isNone then 0x01A0 else 0,
    fun s => s.reply h 0x0B03 0 (((s.calRecord kind).getD []).take 4096), fun _ s => s⟩

def execCalibrationRead (h : Hdr) (kind : Nat) (s : State) : Result :=
  .next (s.fwCommand h (fwCalibrationRead h kind) (.calibrationRead h kind))

/-- CALIBRATION_WRITE. -/
def fwCalibrationWrite (h : Hdr) (record : Bytes) : Fw :=
  ⟨0x0B04, h.length == record.length, .none, fun _ => if recOk record then 0 else 0x01A0,
    fun s => s.stage h 0x0B04 (.calibrationWrite h record), fun _ s => s⟩

def execCalibrationWrite (h : Hdr) (record : Bytes) (s : State) : Result :=
  .next (s.fwCommand h (fwCalibrationWrite h record) (.calibrationWrite h record))

/-- A calibration write at order 10. -/
def State.applyCalWrite (s : State) (h : Hdr) (r : Bytes) : State := (s.writeRecord (recWith r 2)).reply h 0x0B04 0

/-- CALIBRATION_COMMIT. -/
def fwCalibrationCommit (h : Hdr) : Fw :=
  ⟨0x0B05, h.length == 0, .none, fun s => if s.cal.learn.isNone then 0x02A1 else 0,
    fun s => s.stage h 0x0B05 (.calibrationCommit h), fun _ s => s⟩

def execCalibrationCommit (h : Hdr) (s : State) : Result :=
  .next (s.fwCommand h (fwCalibrationCommit h) (.calibrationCommit h))

/-- The learned coefficients as a kind 0x01 record of origin 3. -/
def State.learnedRecord (s : State) (x : Learn) : Bytes :=
  let data := [x.a, x.s, x.l, s.defaultCoefs.2.2.2].flatMap fun q => leB 4 (toBinary32 q)
  leB 1 1 ++ leB 1 3 ++ leB 2 16 ++ leB 1 x.load.1 ++ leB 1 x.load.2 ++ leB 1 x.tj.1 ++ leB 1 x.tj.2 ++ leB 2 x.vin.1 ++ leB 2 x.vin.2 ++
    leB 4 0 ++ sha256 data ++ data

/-- CALIBRATION_COMMIT at order 10: the record is held to R441 like any other; the ranges seen are tested as numbers too, since the
record's fields are narrower. -/
def State.applyCalCommit (s : State) (h : Hdr) : State :=
  match s.cal.learn with
  | some x =>
    let r := s.learnedRecord x
    if recOk r && decide (x.load.2 ≤ 100) && decide (x.tj.2 ≤ 150) && decide (x.vin.2 ≤ 600) then (s.writeRecord r).reply h 0x0B05 0 r
    else s.reply h 0x0B05 0x01A0
  | none => s.reply h 0x0B05 0x02A1

/-- The records of a set's bytes after its header; `n` bounds them. -/
def parseRecords : Nat → Bytes → Option (List Bytes)
  | 0, b => if b.isEmpty then some [] else none
  | n + 1, b =>
    let len := 48 + recLength b
    if b.length < len then none else (parseRecords n (b.drop len)).map fun l => b.take len :: l

/-- A calibration file: the set, the key identifier and the signature. The three checks of R443 come before those of the set's form. -/
def State.checkCalFile (s : State) (f : Bytes) : Nat :=
  let n := f.length - 32 - 16224
  let set := f.take n
  if f.length < 64 + 32 + 16224 then 0x0190
  else if slice f n 32 ≠ s.rootHash ∨ leAt set 6 16 ≠ Config.serialNumber.toNat then 0x0641
  else if !Config.kyorisSigned s.rootHash (sha256 set) (f.drop (n + 32)) then 0x0640
  else match parseRecords (leAt set 30 2) (set.drop 64) with
  | none => 0x01A0
  | some l => if leAt set 0 4 ≠ 0x4B574341 ∨ leAt set 4 2 ≠ 1 ∨ !l.all recOk then 0x01A0 else 0

/-- CALIBRATION_RESTORE: the whole file is checked, and replaces the set at order 10. -/
def fwCalibrationRestore (h : Hdr) (offset total : Nat) (data : Bytes) : Fw :=
  partFw h 0x0B06 (partLen h data) .none offset total data State.checkCalFile
    (fun s f => s.stage h 0x0B06 (.calibrationRestore h 0 f.length f)) secCount

def execCalibrationRestore (h : Hdr) (offset total : Nat) (data : Bytes) (s : State) : Result :=
  .next (s.fwCommand h (fwCalibrationRestore h offset total data) (.calibrationRestore h offset total data))

/-- A restore at order 10: every record has origin 1, and learning is discarded. -/
def State.applyCalRestore (s : State) (h : Hdr) (f : Bytes) : State :=
  let set := f.take (f.length - 32 - 16224)
  let l := ((parseRecords (leAt set 30 2) (set.drop 64)).getD []).map fun r => recWith r 1
  let s := { s with cal := { s.cal with records := l, counter := leAt set 22 8, learn := none, valid := true } }
  let s := (s.extend 3 (sha256 set)).wr CAL_STATUS.restored 1
  (s.loadAsym.dropOutside.showCal).reply h 0x0B06 0 (sha256 set)

end Sys2Proof.Machine
end

