-- ==== Sys2Proof/Machine/Time.lean ====
section
/-! DEFINITION. Hall time and the tick: the sources, the time states of Table 2-2, and the commands that set the tick. -/

namespace Sys2Proof.Machine

/-! ### Tick-set and time-step (R35, R36, R41, R42) -/

/-- A period that R42 refuses: outside 25 to 100,000 µs, or not greater than twice the guard. -/
def State.badPeriod (s : State) (us : Nat) : Bool :=
  decide (us < 25) || decide (100000 < us) || decide (us ≤ 2 * s.rd TIM_BOUNDARY.guard_us)

/-- A mode other than 0 (mode 1 is the other row's) is a field out of range (R349). -/
def checkTickSetDirect (mode periodUs : Nat) (s : State) : Nat :=
  if mode ≠ 0 ∨ s.badPeriod periodUs then 0x0104 else if s.anyActive then 0x0200 else 0

/-- An effective tick that R42 refuses: less than the current tick plus 2, or named after the start of tick k - 2 less the
staging guard. -/
def checkTickSetEffective (k periodUs : Nat) (s : State) : Nat :=
  if s.badPeriod periodUs then 0x0104
  else if k < s.tick + 2 then 0x0104
  else if s.tickStart (k - 2) < s.hall + s.rd TIM_BOUNDARY.guard_us * 1000 then 0x0104
  else 0

def execTickSetDirect (h : Hdr) (mode epoch periodUs : Nat) (s : State) : Result :=
  .next (s.command (.tickSetDirect h mode epoch periodUs) h 0x0701 (h.length == 24) .none (checkTickSetDirect mode periodUs)
    fun s => s.stage h 0x0701 (.tickSetDirect h mode epoch periodUs))

def execTickSetEffective (h : Hdr) (k periodUs : Nat) (s : State) : Result :=
  .next (s.command (.tickSetEffective h k periodUs) h 0x0701 (h.length == 24) .none (checkTickSetEffective k periodUs)
    fun s => s.stage h 0x0701 (.tickSetEffective h k periodUs))

/-- TICK_SET_APPLY, direct mode, at order 10 (R41). -/
def State.applyTickDirect (s : State) (h : Hdr) (epoch periodUs : Nat) : State :=
  if s.anyActive then s.reply h 0x0701 0x0200
  else
    let s := (s.wr TIM_EPOCH.epoch_ns epoch).wr TIM_TICK_CFG.period_us periodUs
    { s with time := { s.time with nextTick := s.firstTick } }.reply h 0x0701 0

/-- TICK_SET_APPLY, effective-tick mode, at the start of tick k (R41). -/
def State.applyTickEffective (s : State) (h : Hdr) (k periodUs : Nat) : State :=
  let start := s.tickStart k
  (((s.wr TIM_EPOCH.epoch_ns start).wr TIM_TICK_BASE.base k).wr TIM_TICK_CFG.period_us periodUs).reply h 0x0701 0

def checkTimeStep (s : State) : Nat := if s.anyActive then 0x0200 else 0

def execTimeStep (h : Hdr) (offsetNs : Int) (s : State) : Result :=
  .next (s.command (.timeStep h offsetNs) h 0x0702 (h.length == 8) .none checkTimeStep fun s => s.stage h 0x0702 (.timeStep h offsetNs))

/-- TIME_STEP_APPLY at order 10 (R36): hall time steps, and the next boundary is that of the first tick whose start lies after
the stepped time and whose number is greater than the current tick. -/
def State.applyTimeStep (s : State) (h : Hdr) (offsetNs : Int) : State :=
  if s.anyActive then s.reply h 0x0702 0x0200
  else
    let s := { s with hall := ((s.hall : Int) + offsetNs).toNat, time := { s.time with
      slew := 0, lockedLeft := s.time.lockedLeft.map fun t => ((t : Int) + offsetNs).toNat,
      sources := s.time.sources.map fun (x : TimeSource) => { x with lastAt := ((x.lastAt : Int) + offsetNs).toNat } } }
    let s := s.wr TIM_STATUS.step_needed 0
    { s with time := { s.time with nextTick := s.firstTick } }.reply h 0x0702 0

/-! ### Sources and states (R29 to R38) -/

/-- A source's lock accuracy in ns (Table 2-1). -/
def lockAccuracy : PtpSrc → Nat
  | .timePort _ => 25
  | .fabric _ => 50

/-- TIM_STATUS.source of a source. -/
def sourceCode : PtpSrc → Nat
  | .timePort q => q % 2 + 1
  | .fabric _ => 3

/-- A fabric port may carry hall time: fallback is enabled, the port is UP, and its LLDP partner offers PTP in the module's
domain (R32). -/
def State.fabricEligible (s : State) (p : Nat) : Bool :=
  s.on TIM_CTRL.fabric_fallback_en && s.rd (PRT_STATUS.link_state p) == 3 && s.on (PRT_STATUS.lldp_valid p) &&
    s.on (PRT_STATUS.partner_ptp p) && s.rd (PRT_STATUS.partner_domain p) == s.rd TIM_CTRL.ptp_domain

/-- The module listens to a source (R32). -/
def State.listens (s : State) : PtpSrc → Bool
  | .timePort q => s.timeLink q
  | .fabric p => s.fabricEligible p

/-- A source has delivered a valid sync in each of its last loss_intervals intervals, the present one among them, and its last 16
offsets span no more than twice its lock accuracy (R32). An interval is missed when none has come for twice its length (DESIGN CHOICE,
log 46). -/
def State.lockReady (s : State) (x : TimeSource) : Bool :=
  s.listens x.src && decide (s.rd TIM_CTRL.loss_intervals ≤ x.syncs) && decide (s.hall < x.lastAt + 2 * x.interval) &&
    decide (16 ≤ x.offsets.length) && x.offsets.all fun a => x.offsets.all fun b => decide (a - b ≤ 2 * lockAccuracy x.src)

/-- The rank of a source in the order of Table 2-1 (lower is higher): the preferred time port, or the better master with none
preferred; the other time port; the fabric. -/
def State.order (s : State) (x : TimeSource) : Nat :=
  match x.src with
  | .fabric _ => 2
  | .timePort q =>
    let pref := s.rd TIM_CTRL.preferred_port
    let other := s.time.sources.find? fun y => y.src == .timePort (1 - q)
    if pref = 2 then
      match other with
      | some y => if x.rank < y.rank ∨ (x.rank = y.rank ∧ q = 0) then 0 else 1
      | none => 0
    else if pref = q then 0 else 1

/-- The fabric source with the best master, that of the lowest port among equals (R32). -/
def bestFabric (l : List TimeSource) : Option TimeSource :=
  l.foldl (fun best x => match best, x.src with
    | none, .fabric _ => some x
    | some b, .fabric p =>
      let bp := match b.src with | .fabric q => q | _ => 0
      if x.rank < b.rank ∨ (x.rank = b.rank ∧ p < bp) then some x else some b
    | _, _ => best) none

/-- A source that the module listens to and that has not fallen silent: its last sync is no more than loss_intervals missed intervals old. -/
def State.heard (s : State) (x : TimeSource) : Bool :=
  s.listens x.src && decide (s.hall < x.lastAt + (s.rd TIM_CTRL.loss_intervals + 1) * x.interval)

/-- The fabric sources heard but those that were left because they stopped being lock-ready and are not lock-ready again. -/
def State.fabricCands (s : State) : List TimeSource :=
  s.time.sources.filter fun x => s.heard x && (match x.src with | .fabric p => !s.time.left.contains p || s.lockReady x | _ => false)

/-- The fabric source taken, and whether it has been lock-ready since. -/
def State.fabricHeld (s : State) : Option (TimeSource × Bool) :=
  s.time.fabric.bind fun h => (s.time.sources.find? fun x => x.src == .fabric h.1).map fun x => (x, h.2)

/-- The fabric source: the eligible port whose master ranks best. The port taken is left only when it stops being lock-ready or falls silent, or
when another eligible port's master ranks strictly better (R32). One that is left for not being lock-ready is left for the best of the
lock-ready ports, with none for the best of all: R32 does not say which (DESIGN CHOICE, log 46). -/
def State.fabricSource (s : State) : Option TimeSource :=
  let heard := s.time.sources.filter s.heard
  let best := (bestFabric s.fabricCands).or (bestFabric heard)
  let ready := (bestFabric (heard.filter s.lockReady)).or best
  match s.fabricHeld, best with
  | some (c, was), some b =>
    if !s.heard c then ready
    else if b.rank < c.rank then some b
    else if was && !s.lockReady c then ready
    else some c
  | some _, none => none
  | none, _ => if s.time.fabric.isSome then ready else best

/-- The fabric source is taken: a port left because it stopped being lock-ready is remembered until it is lock-ready again. -/
def State.settleFabric (s : State) : State :=
  let isReady (p : Nat) : Bool := s.time.sources.any fun x => x.src == .fabric p && s.lockReady x
  let left := s.time.left.filter fun p => !isReady p
  match s.fabricSource.map (fun (x : TimeSource) => x.src), s.time.fabric with
  | some (PtpSrc.fabric p), some (q, was) =>
    if p = q then { s with time := { s.time with fabric := some (p, was || isReady p), left := left } }
    else { s with time := { s.time with fabric := some (p, isReady p), left := if isReady q then left else q :: left.filter (· != q) } }
  | some (PtpSrc.fabric p), none => { s with time := { s.time with fabric := some (p, isReady p), left := left } }
  | _, _ => { s with time := { s.time with left := left } }

/-- The highest source of a list by the order of Table 2-1. -/
def State.highest (s : State) (l : List TimeSource) : Option TimeSource :=
  l.foldl (fun best x => match best with
    | none => some x
    | some b => if s.order x < s.order b then some x else some b) none

/-- The lock-ready sources: the time ports, and the fabric source. -/
def State.readySources (s : State) : List TimeSource :=
  ((s.time.sources.filter fun x => match x.src with | .timePort _ => true | _ => false) ++ s.fabricSource.toList).filter s.lockReady

/-- The source in use. -/
def State.inUse (s : State) : Option TimeSource :=
  let code := s.rd TIM_STATUS.source
  s.time.sources.find? fun x => sourceCode x.src == code &&
    (match x.src with | .fabric p => p == s.rd TIM_SOURCES.fabric_port | _ => true)

/-- TIM_SOURCES shows which sources are lock-ready (R32). -/
def State.showSources (s : State) : State :=
  let has (f : PtpSrc → Bool) : Nat := bit (s.readySources.any fun x => f x.src)
  let s' := s.wr TIM_SOURCES.port_a_ready (has (· == .timePort 0))
  let s' := s'.wr TIM_SOURCES.port_b_ready (has (· == .timePort 1))
  let s' := s'.wr TIM_SOURCES.fabric_ready (has fun x => match x with | .fabric _ => true | _ => false)
  s'.wr TIM_SOURCES.fabric_valid (bit ((List.range 64).any s.fabricEligible))

/-- The state in force is left for `state`: the loss of lock is recorded, and whether ACQUIRE is entered from FREE_RUN (R38). -/
def State.leaveState (s : State) (state : Nat) : State :=
  let old := s.rd TIM_STATUS.state
  let s := if old = 1 ∧ state ≠ 1 then
      { s.wr TIM_STATUS.lock_lost 1 with time := { s.time with lockedLeft := some s.hall } } else s
  if old = 3 ∧ state = 0 then { s with time := { s.time with fromFree := true } }
  else if state = 1 ∨ old = 1 ∨ old = 2 then { s with time := { s.time with fromFree := false } } else s

/-- The fabric port of a source, `old` for one that is no fabric port. -/
def fabricPort (src : Option PtpSrc) (old : Nat) : Nat := match src with | some (.fabric p) => p | _ => old

/-- A source that ACQUIRE is entered on starts again to show its lock accuracy: neither the sync that causes the entry nor an earlier one
counts toward the 16 consecutive offsets, a point that R34 leaves open (DESIGN CHOICE, log 46). -/
def State.restartSource (s : State) (src : Option PtpSrc) : State :=
  { s with time := { s.time with
      sources := s.time.sources.map fun x => if some x.src = src then { x with good := 0 } else x } }

/-- The time unit enters a state on a source (none in HOLDOVER and FREE_RUN): the bits of TIM_STATUS follow, and a change of
state or source sends event 0x0004, of class 0 when the new state is LOCKED and class 1 otherwise (R37). -/
def State.enterTime (s : State) (state : Nat) (src : Option PtpSrc) : State :=
  let old := s.rd TIM_STATUS.state
  let oldSrc := s.rd TIM_STATUS.source
  let code := (src.map sourceCode).getD 0
  let s := s.leaveState state
  let moved : Bool := code != oldSrc || fabricPort src (s.rd TIM_SOURCES.fabric_port) != s.rd TIM_SOURCES.fabric_port
  let s := s.wr TIM_SOURCES.fabric_port (fabricPort src (s.rd TIM_SOURCES.fabric_port))
  let s := if moved then s.wr TIM_STATUS.source_changed 1 else s
  let s := if state = 0 then s.restartSource src else s
  let s := (s.wr TIM_STATUS.state state).wr TIM_STATUS.source code
  let s := s.wr TIM_STATUS.alignment_degraded (bit !(state == 1 && decide (code ≤ 2)))
  if state != old || moved then s.eventAs 4 none (if state = 1 then 0 else 1) 0 0 (leB 8 state ++ leB 8 code) else s

/-- Lock is lost or the source in use is gone: ACQUIRE on the highest lock-ready source of `l`, or, with none, HOLDOVER from
LOCKED and while holdover time is left, else FREE_RUN (Table 2-2). -/
def State.leaveSource (s : State) (l : List TimeSource) : State :=
  match s.highest l with
  | some x => s.enterTime 0 (some x.src)
  | none =>
    let inTime : Bool := match s.time.lockedLeft with
      | some t => decide (s.hall < t + s.rd TIM_CTRL.holdover_limit * 1000000000)
      | none => false
    if s.rd TIM_STATUS.state == 1 || inTime then s.enterTime 2 none else s.enterTime 3 none

/-- The lock-ready sources lower than the one in use. -/
def State.lowerReady (s : State) : List TimeSource :=
  match s.inUse with
  | some u => s.readySources.filter fun x => decide (s.order u < s.order x)
  | none => s.readySources

/-- An offset of the source in use: one of at most 1 ms is slewed out, a larger one needs a time-step command, and until that command is
given no offset is slewed (R35). -/
def State.discipline (s : State) (off : Int) : State :=
  if s.on TIM_STATUS.step_needed then s
  else if off.natAbs ≤ 1000000 then { s with time := { s.time with slew := off } }
  else s.wr TIM_STATUS.step_needed 1

/-- The multicast addresses of PTP: FF0E::181 and FF02::181 under Annex E, and that of Annex F (R33). -/
def ptpUdpDest : List Nat := [0xFF0E * 2 ^ 112 + 0x181, 0xFF02 * 2 ^ 112 + 0x181]
def ptpMacDest : Nat := 0x011B19000000

/-- The module takes a message of this form: a sync interval from 2^-7 s to 1 s, in its domain, and the transport, address and ports of its
source: under Annex E its event messages came to UDP port 319 and its general ones to 320 (R30, R33). -/
def State.takesPtp (s : State) (m : PtpMsg) : Bool :=
  s.listens m.src && m.domain == s.rd TIM_CTRL.ptp_domain && decide (-7 ≤ m.interval) && decide (m.interval ≤ 0) &&
    (match m.src, m.udpPort with
    | .fabric _, u => u.isSome
    | .timePort _, some u => s.rd TIM_CTRL.transport == 1 && u == 319 && m.generalPort == some 320 && ptpUdpDest.contains m.dest
    | .timePort _, none => s.rd TIM_CTRL.transport == 0 && m.dest == ptpMacDest)

/-- The asymmetry of a source: that of TIM_ASYM, as the calibration set or the operator gave it (R31); while the default of kind 0x06 stands in
for a record that the operator has not overwritten, 0 (R439). -/
def State.asymOf (s : State) : PtpSrc → Int
  | .timePort q =>
    if !s.cal.asymWritten && (s.calData 6).isNone then 0
    else sgn 16 (s.rd (if q = 0 then TIM_ASYM.port_a_asym_ns else TIM_ASYM.port_b_asym_ns))
  | .fabric _ => 0

/-- A message's offset: the arrival less the master's timestamp, less the mean path delay, less the port's asymmetry. R31 does not give the
sign of the asymmetry's correction: the model takes it as what the path from the master exceeds the mean by (DESIGN CHOICE, log 46). -/
def State.ptpOffset (s : State) (m : PtpMsg) : Int := m.rawNs - m.pathDelayNs - s.asymOf m.src

/-- A sync interval in ns. -/
def intervalNs (k : Int) : Nat := 1000000000 / 2 ^ (-k).toNat

/-- What a source has shown with one sync more; the syncs in a row start again after a missed interval. -/
def State.nextSource (s : State) (m : PtpMsg) : TimeSource :=
  let off := s.ptpOffset m
  let old := (s.time.sources.find? fun x => x.src == m.src).getD ⟨m.src, [], 0, 0, m.rank, s.hall, intervalNs m.interval⟩
  { old with
    offsets := (off :: old.offsets).take 16, syncs := if s.hall < old.lastAt + 2 * old.interval then old.syncs + 1 else 1,
    good := if off.natAbs ≤ lockAccuracy m.src then old.good + 1 else 0, rank := m.rank, lastAt := s.hall,
    interval := intervalNs m.interval }

/-- A source's Delay_Req (R32, R33); the model sends one for each sync it takes. With UDP on IPv6 none leaves a time port that may use no address
of its own yet (R371). -/
def State.delayReq (s : State) (m : PtpMsg) : State :=
  match m.src with
  | .fabric p => s.sendFab p .delayReq
  | .timePort q =>
    if m.udpPort.isSome then (match s.ndFrom (64 + q) with | some a => s.sendTime q (.delayReq m.dest a) | none => s)
    else s.sendTime q (.delayReq ptpMacDest (s.rd (TIM_PORT_MAC.mac q)))

/-- A sync taken: what its source has shown, TIM_OFFSET, and the Delay_Req. -/
def State.takeSync (s : State) (m : PtpMsg) : State :=
  let x := s.nextSource m
  let t := { s with time := { s.time with sources := x :: s.time.sources.filter fun y => y.src != m.src } }
  (((t.wr TIM_OFFSET.path_delay_ns m.pathDelayNs).wr TIM_OFFSET.offset_ns (twos 32 (s.ptpOffset m))).settleFabric.showSources).delayReq m

/-- The lock-ready sources higher than the one in use; every one with none in use. -/
def State.higherReady (s : State) : List TimeSource :=
  match s.inUse with
  | some u => s.readySources.filter fun x => decide (s.order x < s.order u)
  | none => s.readySources

/-- The fabric source in use has given way to another port (R32). -/
def State.fabricMoved (s : State) : Option TimeSource :=
  match s.inUse, s.fabricSource with
  | some u, some x => if s.order u = 2 ∧ u.src ≠ x.src then some x else none
  | _, _ => none

/-- The source of a message is the one in use. -/
def State.usesSource (s : State) (src : PtpSrc) : Bool := match s.inUse with | some u => u.src == src | none => false

/-- What a sync taken does in LOCKED, its offset being `off` (Table 2-2). Where the fabric port in use gives way to one whose master ranks
strictly better and that is not lock-ready yet, LOCKED is left as for a lost source; R32 and Table 2-2 name no state for it (DESIGN CHOICE,
log 46). -/
def State.syncLocked (s : State) (src : PtpSrc) (off : Int) : State :=
  if s.usesSource src ∧ 1000 < off.natAbs then s.leaveSource s.lowerReady
  else match s.highest s.higherReady, s.fabricMoved with
    | some x, _ => s.enterTime 0 (some x.src)
    | none, some x => if s.lockReady x then s.enterTime 0 (some x.src) else s.leaveSource s.readySources
    | none, none => if s.usesSource src then s.discipline off else s

/-- What a sync taken does in ACQUIRE; LOCKED is not entered while a time step is needed (R35). Where the fabric port in use gives way to
another, ACQUIRE is entered on that one, lock-ready or not (DESIGN CHOICE, log 46). -/
def State.syncAcquire (s : State) (src : PtpSrc) (off : Int) : State :=
  match s.highest s.higherReady, s.fabricMoved with
  | some x, _ => s.enterTime 0 (some x.src)
  | none, some x => s.enterTime 0 (some x.src)
  | none, none =>
    if s.usesSource src then
      let s := s.discipline off
      if (s.inUse.map (·.good)).getD 0 < 16 ∨ s.on TIM_STATUS.step_needed then s else s.enterTime 1 (some src)
    else s

/-- What a sync taken does in FREE_RUN: ACQUIRE on the source that delivered it, of fabric ports the one taken. -/
def State.syncFree (s : State) (src : PtpSrc) (off : Int) : State :=
  match src, s.fabricSource with
  | .fabric _, some x => if x.src = src then (s.enterTime 0 (some src)).discipline off else s.enterTime 0 (some x.src)
  | _, _ => (s.enterTime 0 (some src)).discipline off

/-- The crossing that a source's timestamps take (Table 11-2), and its unit. -/
def stampCrossing : PtpSrc → Nat × Nat
  | .timePort q => (7, q)
  | .fabric p => (6, p / 4)

/-- PTP_MESSAGE_RECEIVED: a valid sync of a source the module listens to (R30 to R34); its timestamps cross into the hall counter's domain. -/
def State.ptpMessage (s : State) (m : PtpMsg) : State :=
  let k := stampCrossing m.src
  if !s.up || !s.takesPtp m then s
  else if !s.passes k.1 k.2 then s.keep k.1 k.2 (.ptpMessageReceived m)
  else
    let off := s.ptpOffset m
    let s := s.takeSync m
    match s.rd TIM_STATUS.state with
    | 3 => s.syncFree m.src off
    | 2 => match s.highest s.readySources with | some x => s.enterTime 0 (some x.src) | none => s
    | 1 => s.syncLocked m.src off
    | _ => s.syncAcquire m.src off

def execPtpMessageReceived (msg : PtpMsg) (s : State) : Result := .next (s.ptpMessage msg)

/-- SYNC_LOSS: the source in use misses loss_intervals sync intervals (Table 2-2). In LOCKED a fabric port that is lost gives way to another
fabric port as to a lower source (R32). -/
def State.syncLoss (s : State) : State :=
  if !s.up then s
  else match s.inUse with
    | none => s
    | some u =>
      let t := { s with time := { s.time with sources := s.time.sources.filter fun x => x.src != u.src } }.settleFabric
      (t.leaveSource (if s.rd TIM_STATUS.state = 1 then t.readySources.filter fun x => decide (s.order u ≤ s.order x)
        else t.readySources)).showSources

def execSyncLoss (s : State) : Result := .next s.syncLoss

/-- HOLDOVER_EXPIRY: holdover_limit seconds after LOCKED was left (Table 2-2). -/
def State.holdoverExpiry (s : State) : State :=
  if s.up && s.rd TIM_STATUS.state == 2 then
    let due := s.time.lockedLeft.getD s.hall + s.rd TIM_CTRL.holdover_limit * 1000000000
    (({ s with hall := max s.hall due }).wr TIM_STATUS.holdover_expired 1).enterTime 3 none
  else s

def execHoldoverExpiry (s : State) : Result := .next s.holdoverExpiry

/-- PPS_EDGE (R31): with the assist inputs enabled, a second-boundary error above 100 ns is reported as a lost lock. The report is
TIM_STATUS.lock_lost alone, with no change of state and no event: R31 does not say what the report does, and Table 2-2 lets no state be
left for it (DESIGN CHOICE, log 46). -/
def execPpsEdge (errorNs : Nat) (s : State) : Result :=
  .next (if s.up && s.on TIM_CTRL.assist_en && decide (100 < errorNs) then s.wr TIM_STATUS.lock_lost 1 else s)

/-- TIME_PORT_LINK_UP (R31): the cable is measured by round-trip timing, at bring-up (P7) or later; what the port's source had shown
before its link went down counts no more; and with UDP on IPv6 the port probes its addresses (R33, R371). -/
def State.timePortUp (s : State) (q lengthDm : Nat) : State :=
  let s := if q = 0 then s.wr TIM_CABLE.port_a_len lengthDm else s.wr TIM_CABLE.port_b_len lengthDm
  let s := { s with time := { s.time with
    linkA := s.time.linkA || q == 0, linkB := s.time.linkB || q != 0,
    sources := s.time.sources.map fun (x : TimeSource) => if x.src = PtpSrc.timePort q then { x with offsets := [], syncs := 0, good := 0 } else x } }
  (if s.rd TIM_CTRL.transport = 1 then s.ndProbeAll (64 + q) else s).showSources

def execTimePortLinkUp (q lengthDm : Nat) (s : State) : Result :=
  .next (if s.rd CAL_BRINGUP.stage < 3 then s else s.timePortUp q lengthDm)

end Sys2Proof.Machine
end

