-- ==== Sys2Proof/Machine/Regio.lean ====
section
/-! DEFINITION. The configuration address space (R7 to R14, R352, R353): what a register reads as, the range rule and the effect of a
write, the configuration commands, and the registers' own operations. -/

namespace Sys2Proof.Machine

/-! ### Reading (R11, R14, R352) -/

/-- TIL_STATE of a tile. -/
def State.tileState (s : State) (t : Nat) : Nat :=
  let c := s.rd (TIL_STATE.context t)
  let p := s.partOf t
  let kept := s.gated (tileField t) (tileRow t) && !s.pwr.ungating.contains (tileField t * 6 + tileRow t)
  c * 2 ^ 17 + p.getD 0 * 2 ^ 12 + bit (p == some (s.cpart c) && s.cst c == stHold) * 2 ^ 5 + bit kept * 2 ^ 4 + s.runState t

/-- TIL_ID of a tile. -/
def State.tileId (s : State) (t : Nat) : Nat :=
  s.phys t * 2 ^ 33 + bit (!isF t) * 2 ^ 32 + tileField t * 2 ^ 12 + t

/-- A staged skip differs from the active one (R60). -/
def State.mapPending (s : State) (fd r : Nat) : Bool :=
  s.rd (TIL_ROW_MAP.staged_f_skip fd r) != s.rd (TIL_ROW_MAP.active_f_skip fd r) ||
    s.rd (TIL_ROW_MAP.staged_b_skip fd r) != s.rd (TIL_ROW_MAP.active_b_skip fd r)

/-- The bits of a field's row whose positions are unserved. -/
def State.rowUnserved (s : State) (fd r : Nat) : Nat :=
  (List.range 12).foldl (fun v c => v + bit (s.unserved (tileAt (fd % 7 * 12 + c) (fd / 7 * 6 + r))) * 2 ^ c) 0

/-- The bits set in a number of `n` bits. -/
def popcount (n v : Nat) : Nat := ((List.range n).filter fun i => bits v i 1 == 1).length

/-- TIL_WAFER_SPARES. -/
def State.waferSpares (s : State) : Nat :=
  let rows := (List.range 49).flatMap fun fd => (List.range 6).map fun r => (fd, r)
  let pending := (rows.filter fun q => s.mapPending q.1 q.2).length
  let lost := ((List.range 3528).filter s.unserved).length
  let failed := rows.foldl (fun n q => n + popcount 14
    (s.rd (TIL_ROW_HEALTH.tile_bad q.1 q.2) ||| s.rd (TIL_ROW_HEALTH.router_bad q.1 q.2))) 0
  let fused := rows.foldl (fun n q => n + popcount 14 (s.rd (TIL_ROW_HEALTH.fuse_bad q.1 q.2))) 0
  pending * 2 ^ 48 + lost * 2 ^ 32 + failed * 2 ^ 13 + fused

/-- PAR_FREE. -/
def State.freeAreas (s : State) : Nat :=
  let codes := (List.range 3528).map s.areaCode
  let n (k : Nat) : Nat := (codes.filter (· == k)).length
  let parts := ((List.range 32).filter fun p => s.rd (PAR_PART_CFG.state p) != 0).length
  n 3 * 2 ^ 32 + (n 0 + n 3) * 2 ^ 20 + parts * 2 ^ 12 + n 2

/-- SEQ_TABLE. -/
def State.seqTable (s : State) : Nat :=
  ((List.range 128).foldl (fun n c => n + s.rd (SEQ_CFG.quota c)) 0) * 2 ^ 16 + (16384 - (s.seqs.filter fun e => e.2.state != 0).length)

/-- The tile registers that read as zero on one flavour (R134, R154, R177, R267). -/
def bTileZero (off : Nat) : Bool := decide (0xE00 ≤ off) && decide (off ≤ 0xE38)
def fTileZero (off : Nat) : Bool :=
  off == 0x1048 || off == 0x1410 || off == 0x1418 || off == 0x1430 || off == 0x1438 || off == 0x1C00 || off == 0x1C08

/-- A logical-tile register. -/
def State.readTile (s : State) (t off a : Nat) : Nat :=
  if off = 0 then s.tileId t
  else if off = 8 then s.tileState t
  else if isF t then
    if fTileZero off then 0
    else if off = 0x1408 then setBits (setBits (setBits (s.reg a) 8 2 0) 3 1 0) 2 1 0
    else s.reg a
  else if bTileZero off then 0
  else s.reg a

/-- The value of a register as a configuration command reads it. -/
def State.readReg (s : State) (a : Nat) : Nat :=
  let off := addrOffset a
  let i := addrIndex a
  match addrSpace a with
  | 0 =>
    if a = TIM_HALL_NOW then s.hall
    else if a = TIM_SOURCES then s.showSources.reg a
    else if a = TIL_WAFER_SPARES then s.waferSpares
    else if a = PAR_FREE then s.freeAreas
    else if a = WGT_SCRUB then s.scrubWord
    else if a = SEQ_TABLE then s.seqTable
    else match (List.range 8).find? fun ch => a == CMD_CHAN_STATUS ch with
      | some ch => setBits (s.reg a) 16 11 (s.chan ch).queue.length
      | none => s.reg a
  | 1 => s.readTile i off a
  | 3 =>
    if 0x2000 ≤ off ∧ off < 0x2030 then setBits (s.reg a) 24 1 (bit (s.mapPending i ((off - 0x2000) / 8)))
    else if 0x2040 ≤ off ∧ off < 0x2070 then setBits (s.reg a) 48 12 (s.rowUnserved i ((off - 0x2040) / 8))
    else s.reg a
  | 5 => if off = 0x30 then setBits (s.reg a) 48 16 (if s.on (PRT_STATUS.lldp_valid i) then s.ttlLeft i else 0) else s.reg a
  | _ => s.reg a

/-! ### Addresses (R10, R62) -/

/-- A configuration address that R10 accepts. -/
def addrOk (a : Nat) : Bool :=
  decide (a < 2 ^ 44) && decide (addrIndex a < spaceCount (addrSpace a)) && addrOffset a % 8 == 0 &&
    (regAtOffset (addrSpace a) (addrOffset a)).isSome

/-- The crossing between the command engine and the register's unit is stopped: its transfers fail at once (R235). The registers of a tile
lie beyond crossing 0, those of a stack beyond 1 and those of a port beyond 2 (DEDUCED, log 55). -/
def State.cutOff (s : State) (a : Nat) : Bool :=
  let i := addrIndex a
  match addrSpace a with
  | 1 => (s.crossing 0 (s.phys i)).stopped
  | 2 => (s.crossing 0 i).stopped
  | 4 => (s.crossing 1 i).stopped
  | 5 => (s.crossing 2 (i / 4)).stopped
  | _ => false

/-- The status of an address, 0 when it can be reached; the 0x07xx status of an unserved position, and of one beyond a stopped crossing, is
not stated (open). -/
def State.addrStatus (s : State) (a : Nat) : Nat :=
  if !addrOk a then 0x0110
  else if addrSpace a = 1 ∧ s.unserved (addrIndex a) then 0x0700 + Config.unservedStatus.toNat
  else if s.cutOff a then 0x0700 + Config.crossingError.toNat
  else 0

/-- The first status of a list that is not 0. Where several entries of one command fail, R10, R62 and R353 do not say which status prevails:
the model answers with that of the first entry that fails (DESIGN CHOICE, log 45). -/
def firstStatus : List Nat → Nat
  | [] => 0
  | st :: l => if st ≠ 0 then st else firstStatus l

/-! ### The range rule of a register (R353) -/

/-- The fields of a value lie in the ranges that the register's Meanings state. -/
def rangesOk (a v : Nat) : Bool :=
  match regAtOffset (addrSpace a) (addrOffset a) with
  | some r => r.fields.all fun f => match f.acc, f.range with
    | .rw, some q => decide (q.1 ≤ bits v f.lo f.width) && decide (bits v f.lo f.width ≤ q.2)
    | _, _ => true
  | none => true

/-- TIM_ASYM's fields lie within ±500 ns (R50). -/
def asymOk (v : Nat) : Bool :=
  [sgn 16 (bits v 0 16), sgn 16 (bits v 16 16)].all fun x => decide (-500 ≤ x) && decide (x ≤ 500)

/-- A staged skip leaves no bad tile of its group mapped while it skips a good one (R59): columns `lo` to `lo + n - 1`. -/
def skipOk (bad lo n skip : Nat) : Bool :=
  bits bad (lo + skip) 1 == 1 || (List.range n).all fun c => c == skip || bits bad (lo + c) 1 == 0

/-- A write that changes an address or a prefix length of a port on which a stream is open (R371). -/
def State.portBusy (s : State) (a v : Nat) : Bool :=
  let off := addrOffset a
  let p := addrIndex a
  addrSpace a == 5 && s.fab.streams.any (fun x => x.port == p) &&
    ((off == 0 && bits v 32 8 != s.rd (PRT_CFG.prefix_len p)) || ((off == 0x20 || off == 0x28) && v % 2 ^ 64 != s.reg a))

/-- BIST may run on a physical tile (R436): it is skipped, or its position lies in no partition. -/
def State.bistFree (s : State) (pt : Nat) : Bool :=
  match s.logical pt with | some t => (s.partOf t).isNone | none => true

/-- The status of a write of a value to a register on a channel, 0 when it can be applied. -/
def State.writeStatus (s : State) (ch a v : Nat) : Nat :=
  let st := s.addrStatus a
  let off := addrOffset a
  let i := addrIndex a
  if st ≠ 0 then st
  else if addrSpace a = 0 ∧ 0x16100 ≤ off ∧ off < 0x16200 ∧ off % 0x20 = 0 ∧ ch ≠ 0 then 0x0602
  else if !rangesOk a v ∨ (a = TIM_ASYM ∧ !asymOk v) ∨
      (a = TIM_BOUNDARY ∧ s.rd TIM_TICK_CFG.period_us ≤ 2 * bits v 0 16) then 0x0111
  else if addrSpace a = 1 ∧ bTileZero off ∧ !isF i then 0x0111
  else if addrSpace a = 1 ∧ off = 0xC40 ∧ (if bits v 10 1 = 0 then 127 else 511) < bits v 0 10 then 0x0111
  else if addrSpace a = 3 ∧ 0x2000 ≤ off ∧ off < 0x2030 ∧
      !(skipOk (s.rowBad i ((off - 0x2000) / 8)) 0 5 (bits v 8 3) && skipOk (s.rowBad i ((off - 0x2000) / 8)) 5 9 (bits v 20 4)) then 0x0111
  else if s.portBusy a v then 0x0270
  else if addrSpace a = 2 ∧ off = 0x900 ∧ bits v 0 1 = 1 ∧ !s.bistFree i then 0x02A0
  else 0

/-! ### Writing -/

/-- A register's value after a write of `v` over `old` (Table 0-5): RW fields are set, W1C bits written 1 are cleared, and the others
stand. -/
def written (fields : List FieldSpec) (old v : Nat) : Nat :=
  fields.foldl (fun x f => match f.acc with
    | .rw => setBits x f.lo f.width (bits v f.lo f.width)
    | .w1c => setBits x f.lo f.width (bits old f.lo f.width - (bits old f.lo f.width &&& bits v f.lo f.width))
    | _ => x) old

/-- A tile register that TIL_COUNTER_CTRL.clear_all sets to zero: each counter of Tables 5-12 and the tables whose counters behave as
R115 states is one field of 64 bits. -/
def isCounter (off : Nat) : Bool :=
  match regAtOffset 1 off with
  | some r => (match r.fields with | [f] => f.lo == 0 && f.width == 64 && f.acc == .ro | _ => false)
  | none => false

/-- What a tile's counters would have gained up to now they do not gain: they stood meanwhile (R115), or have been cleared. -/
def State.countsFrom (s : State) (t : Nat) : State :=
  { s with
    net := { s.net with stirred := s.net.stirred.filter fun a => !(addrSpace a == 1 && addrIndex a == t && isCounter (addrOffset a)) },
    pwr := { s.pwr with limitSeen := s.pwr.limitSeen.map fun l => t :: l.filter (· != t) } }

/-- TIL_COUNTER_CTRL.clear_all of a tile. -/
def State.clearCounters (s : State) (t : Nat) : State :=
  { s with regs := s.regs.filter fun e => !(addrSpace e.1 == 1 && addrIndex e.1 == t && isCounter (addrOffset e.1)) }

/-- BWD_CTRL.clear_tags: the tags of the running context's share (R167). -/
def State.clearTags (s : State) (t : Nat) : State :=
  if (s.ctxOn t).isNone then s
  else
    let base := tileAddr (s.phys t) (tagOff + s.rd (BWD_CTRL.stat_base t))
    let limit := tileAddr (s.phys t) (tagOff + s.rd (BWD_CTRL.stat_limit t))
    s.clearMem fun a => decide (base ≤ a) && decide (a < limit)

/-- CAL_BIST_CTRL.start: the test runs, and clears the tile's SRAM and instruction memories. -/
def State.startBist (s : State) (pt : Nat) : State :=
  let base := tileAddr pt 0
  (s.wr (CAL_BIST_CTRL.running pt) 1).clearMem fun a => decide (base ≤ a) && decide (a < base + scaleOff)

/-- The action of a logical-tile register's write. clear_all acts while freeze is 1 as well, though R115 has no counter change then (DESIGN
CHOICE, log 67). -/
def State.actTile (s : State) (t off v old : Nat) : State :=
  if off = 0x400 ∧ bits v 8 1 = 1 then s.wr (TIL_NUM_STATUS.sat_count t) 0
  else if off = 0x10 ∧ bits v 32 1 = 1 then s.wr (TIL_SRAM_ECC.corrected_count t) 0
  else if off = 0x20 then
    let s := if bits v 1 1 = 1 ∧ bits old 1 1 = 0 then s.elapseTile t else s
    let s := if bits v 1 1 = 0 ∧ bits old 1 1 = 1 then s.countsFrom t else s
    if bits v 0 1 = 1 then (s.clearCounters t).countsFrom t else s
  else if off = 0xC40 then let s := s.seeQueue t; s.wr (ARY_QUEUE_DATA.low_water t) (s.rd (ARY_QUEUE_DATA.level t))
  else if off = 0x1400 ∧ bits v 0 1 = 1 then s.clearTags t
  else s

/-- The relay connections of a management port end. -/
def State.endRelays (s : State) (m : Nat) : State := s.wr (CMD_MGMT_STATUS.held m) 0

/-- What a write does beside setting the register's fields; `old` is the register's value before it. -/
def State.actWrite (s : State) (a v old : Nat) : State :=
  let off := addrOffset a
  let i := addrIndex a
  match addrSpace a with
  | 0 =>
    if a = TIM_CTRL then
      let s := s.showFabric.showSources
      if bits old 0 64 ≠ s.reg a ∧ s.rd TIM_CTRL.transport = 1 then (s.ndProbeAll 64).ndProbeAll 65 else s
    else if a = TIM_ASYM then { s with cal := { s.cal with asymWritten := true } }
    else if a = TIM_PORTA_ADDR_HI ∨ a = TIM_PORTA_ADDR_LO then (if v % 2 ^ 64 = old then s else s.ndProbe 64 (s.ndGlobal 64))
    else if a = TIM_PORTB_ADDR_HI ∨ a = TIM_PORTB_ADDR_LO then (if v % 2 ^ 64 = old then s else s.ndProbe 65 (s.ndGlobal 65))
    else if a = CMD_MGMT_CFG 0 ∨ a = CMD_MGMT_CFG 1 then
      (if bits v 32 8 = bits old 32 8 then s else s.endRelays ((off - 0x16400) / 0x40))
    else match (List.range 2).find? fun m => a == CMD_MGMT_ADDR_HI m || a == CMD_MGMT_ADDR_LO m with
      | some m => if v % 2 ^ 64 = old then s else (s.endRelays m).ndProbe (66 + m) (s.ndGlobal (66 + m))
      | none => s
  | 1 => s.actTile i off v old
  | 2 => if off = 0x900 ∧ bits v 0 1 = 1 then s.startBist i else s
  | 4 => if off = 8 ∧ bits v 32 1 = 1 then (s.wr (STK_ECC.corrected_count i) 0).wr (STK_ECC.uncorrected_count i) 0 else s
  | 5 =>
    if off = 0 then (if bits v 0 1 = 1 then s.enablePort i else s.disablePort i)
    else if (off = 0x20 ∨ off = 0x28) ∧ v % 2 ^ 64 ≠ old then s.ndProbe i (s.ndGlobal i)
    else s
  | _ => s

/-- One entry of a configuration write applied. -/
def State.applyEntry (s : State) (a v : Nat) : State :=
  match regAtOffset (addrSpace a) (addrOffset a) with
  | some r =>
    let old := s.reg a
    (s.setReg a (written r.fields old v)).actWrite a v old
  | none => s

/-- The status of a list of entries: that of the first that fails. -/
def State.entriesStatus (s : State) (ch : Nat) (l : List (Nat × Nat)) : Nat := firstStatus (l.map fun e => s.writeStatus ch e.1 e.2)

/-- Entries applied in order. -/
def State.applyEntries (s : State) (l : List (Nat × Nat)) : State := l.foldl (fun s e => s.applyEntry e.1 e.2) s

/-! ### The configuration commands -/

/-- CONFIGURATION_READ: each register as it is when it is read. -/
def execConfigurationRead (h : Hdr) (addrs : List Nat) (s : State) : Result :=
  .next (s.command (.configurationRead h addrs) h 0x0101 (h.length == 8 * addrs.length && decide (1 ≤ addrs.length) && decide (addrs.length ≤ 512)) .none
    (fun s => firstStatus (addrs.map s.addrStatus))
    fun s => let s := addrs.foldl State.observe s; s.reply h 0x0101 0 (addrs.flatMap fun a => leB 8 (s.readReg a)))

/-- The checks of a configuration write at acceptance. -/
def checkConfigurationWrite (ch head : Nat) (entries : List (Nat × Nat)) (s : State) : Nat :=
  if 1 < head then 0x0104 else s.entriesStatus ch entries

/-- A configuration write with its effect, or staged for order 10. -/
def doConfigurationWrite (h : Hdr) (head : Nat) (entries : List (Nat × Nat)) (s : State) : State :=
  if head = 1 then s.stage h 0x0102 (.configurationWrite h head entries) else (s.applyEntries entries).reply h 0x0102 0

/-- The length of a configuration write of `n` entries. -/
def writeLen (h : Hdr) (n : Nat) : Bool := h.length == 8 + 16 * n && decide (1 ≤ n) && decide (n ≤ 255)

/-- An unstaged write of one entry. -/
def State.writeOne (s : State) (h : Hdr) (a v : Nat) : State :=
  s.command (.configurationWrite h 0 [(a, v)]) h 0x0102 (writeLen h 1) .none (checkConfigurationWrite h.channel 0 [(a, v)])
    (doConfigurationWrite h 0 [(a, v)])

/-- CONFIGURATION_WRITE. -/
def execConfigurationWrite (h : Hdr) (head : Nat) (entries : List (Nat × Nat)) (s : State) : Result :=
  .next (s.command (.configurationWrite h head entries) h 0x0102 (writeLen h entries.length) .none
    (checkConfigurationWrite h.channel head entries) (doConfigurationWrite h head entries))

/-- A staged write at order 10: every entry checked again, then all applied, or none. -/
def State.applyWrite (s : State) (h : Hdr) (entries : List (Nat × Nat)) : State :=
  let st := s.entriesStatus h.channel entries
  if st ≠ 0 then s.reply h 0x0102 st else (s.applyEntries entries).reply h 0x0102 0

/-! ### Rows of one write each -/

def execTilNumStatusClearCount (h : Hdr) (tile value : Nat) (s : State) : Result :=
  .next (s.writeOne h (TIL_NUM_STATUS tile) (setBits value 8 1 1))
def execTilSramEccClearCount (h : Hdr) (tile value : Nat) (s : State) : Result :=
  .next (s.writeOne h (TIL_SRAM_ECC tile) (setBits value 32 1 1))
def execTilCounterCtrlClearAll (h : Hdr) (tile value : Nat) (s : State) : Result :=
  .next (s.writeOne h (TIL_COUNTER_CTRL tile) (setBits value 0 1 1))
def execAryQueueSelWrite (h : Hdr) (tile feeder queue : Nat) (s : State) : Result :=
  .next (s.writeOne h (ARY_QUEUE_SEL tile) (feeder % 2 * 2 ^ 10 + queue % 2 ^ 10))
def execBwdCtrlClearTags (h : Hdr) (tile : Nat) (s : State) : Result := .next (s.writeOne h (BWD_CTRL tile) 1)
def execStkEccClearCount (h : Hdr) (stack : Nat) (s : State) : Result := .next (s.writeOne h (STK_ECC stack) (2 ^ 32))
def execTilRowMapWrite (h : Hdr) (field row stagedF stagedB : Nat) (s : State) : Result :=
  .next (s.writeOne h (TIL_ROW_MAP field row) (stagedB % 16 * 2 ^ 20 + stagedF % 8 * 2 ^ 8))
def execCalBistCtrlStart (h : Hdr) (ptile : Nat) (s : State) : Result := .next (s.writeOne h (CAL_BIST_CTRL ptile) 1)
def execPortEnable (h : Hdr) (port value : Nat) (s : State) : Result := .next (s.writeOne h (PRT_CFG port) (setBits value 0 1 1))
def execPortDisable (h : Hdr) (port value : Nat) (s : State) : Result := .next (s.writeOne h (PRT_CFG port) (setBits value 0 1 0))
def execMgmtAddressWrite (h : Hdr) (m : Nat) (which : MgmtReg) (value : Nat) (s : State) : Result :=
  let a := match which with | .cfg => CMD_MGMT_CFG m | .addrHi => CMD_MGMT_ADDR_HI m | .addrLo => CMD_MGMT_ADDR_LO m
  .next (s.writeOne h a value)

/-- BIST_COMPLETE (R436): the result of the test; no bad bit is set. -/
def State.bistComplete (s : State) (pt failUnits : Nat) : State :=
  if s.on (CAL_BIST_CTRL.running pt) then
    ((s.wr (CAL_BIST_CTRL.running pt) 0).wr (CAL_BIST_CTRL.pass pt) (bit (failUnits % 256 == 0))).wr (CAL_BIST_CTRL.fail_unit pt) failUnits
  else s

def execBistComplete (ptile failUnits : Nat) (s : State) : Result := .next (if s.up then s.bistComplete ptile failUnits else s)

/-! ### Other reads (R8) -/

/-- TIME_STATUS. -/
def execTimeStatus (h : Hdr) (s : State) : Result :=
  .next (s.command (.timeStatus h) h 0x0703 (h.length == 0) .none (fun _ => 0) fun s =>
    s.reply h 0x0703 0 ([TIM_STATUS, TIM_OFFSET, TIM_HALL_NOW, TIM_TICK_NOW].flatMap fun a => leB 8 (s.readReg a)))

/-- The addresses of a counter snapshot. -/
def snapshotAddrs (space first count offset : Nat) : List Nat :=
  (List.range count).map fun i => space * 2 ^ 40 + (first + i) * 2 ^ 27 + offset

/-- The parameters of a snapshot name registers that exist. A space, an index or an offset that names none gives 0x0110, the status that R10
has for a configuration command, where R349's general status is 0x0104 (DESIGN CHOICE, log 67). R62 refuses configuration commands to an
unserved position and is silent on a snapshot: one of an unserved tile is answered with its registers and success (DESIGN CHOICE, log 67).
One that reaches beyond a stopped crossing fails (R235; log 55). -/
def checkCounterSnapshot (space first count offset : Nat) (s : State) : Nat :=
  if count = 0 ∨ 512 < count then 0x0104
  else if spaceCount space < first + count ∨ offset % 8 ≠ 0 ∨ (regAtOffset space offset).isNone then 0x0110
  else if (snapshotAddrs space first count offset).any s.cutOff then 0x0700 + Config.crossingError.toNat
  else 0

/-- COUNTER_SNAPSHOT. -/
def execCounterSnapshot (h : Hdr) (space first count offset : Nat) (s : State) : Result :=
  .next (s.command (.counterSnapshot h space first count offset) h 0x0801 (h.length == 32) .none
    (checkCounterSnapshot space first count offset) fun s =>
    let s := (snapshotAddrs space first count offset).foldl State.observe s
    s.reply h 0x0801 0 ((snapshotAddrs space first count offset).flatMap fun a => leB 8 (s.readReg a)))

end Sys2Proof.Machine
end

