-- ==== Sys2Proof/Machine/Job.lean ====
section
/-! DEFINITION. The job-start broadcast (R381 to R384), and control messages (R374). -/

namespace Sys2Proof.Machine

/-! ### Tree orders (R382) -/

/-- The depth of position `i` of a tree order of fan-out 8; `n` bounds it. -/
def treeDepth : Nat → Nat → Nat
  | 0, _ => 0
  | n + 1, i => if i = 0 then 0 else 1 + treeDepth n ((i - 1) / 8)

/-- Position `j` lies below position `i`; `n` bounds the depth. -/
def treeBelow : Nat → Nat → Nat → Bool
  | 0, _, _ => false
  | n + 1, i, j => j != 0 && ((j - 1) / 8 == i || treeBelow n i ((j - 1) / 8))

/-- The members that a member forwards to. -/
def treeChildren (order : List Nat) (m : Nat) : List Nat :=
  match order.idxOf? m with
  | some i => (List.range 8).filterMap fun k => order[8 * i + 1 + k]?
  | none => []

/-- The newest tree order that a member stands in. -/
def orderOf (orders : List (List Nat)) (m : Nat) : List Nat := (orders.find? fun o => o.contains m).getD []

/-- The members below a member in its tree order that have not moved to a newer one. -/
def membersBelow (orders : List (List Nat)) (m : Nat) : List Nat :=
  let o := orderOf orders m
  match o.idxOf? m with
  | some i => ((List.range o.length).zip o).filterMap fun e => if treeBelow 6 i e.1 && orderOf orders e.2 == o then some e.2 else none
  | none => []

/-! ### Arming a member (R381) -/

def checkJobStartArm (c bellwether areaBase areaUnits timeout : Nat) (s : State) : Nat :=
  if timeout = 0 ∨ 600 < timeout ∨ areaUnits = 0 ∨ s.stackSpace (s.cpart c) < 256 * (areaBase + areaUnits) then 0x0170
  else if s.fab.members.any fun m => m.ctx != c && m.bellwether == bellwether then 0x0371
  else 0

/-- JOB_START_ARM: a new arm replaces an earlier one and discards its delivery. -/
def doJobStartArm (h : Hdr) (bellwether areaBase areaUnits timeout : Nat) (s : State) : State :=
  let m : JobMember := {
    ctx := h.context, bellwether := bellwether, areaBase := areaBase, areaUnits := areaUnits, timeoutS := timeout }
  let s := { s with fab := { s.fab with members := m :: s.fab.members.filter fun x => x.ctx != h.context } }
  (s.modCtx h.context fun k => { k with rosterDigest := none }).reply h 0x0605 0

def fwJobStartArm (h : Hdr) (bellwether areaBase areaUnits commitTimeoutS : Nat) : Fw :=
  ⟨0x0605, h.length == 40, .context, checkJobStartArm h.context bellwether areaBase areaUnits commitTimeoutS,
    doJobStartArm h bellwether areaBase areaUnits commitTimeoutS, fun _ s => s⟩

def execJobStartArm (h : Hdr) (bellwether areaBase areaUnits commitTimeoutS : Nat) (s : State) : Result :=
  .next (s.fwCommand h (fwJobStartArm h bellwether areaBase areaUnits commitTimeoutS) (.jobStartArm h bellwether areaBase areaUnits commitTimeoutS))

/-! ### The bellwether (R382, R383) -/

def checkJobStartBroadcast (c rosterAddr members blobAddr blobLen : Nat) (s : State) : Nat :=
  let space := s.stackSpace (s.cpart c)
  if members = 0 ∨ 16384 < members ∨ blobLen = 0 ∨ 2 ^ 30 < blobLen ∨ space < 256 * rosterAddr + 32 * members ∨
      space < 256 * blobAddr + blobLen then 0x0170 else 0

/-- A broadcast replaced by its new value. -/
def State.setLead (s : State) (l : JobLead) : State :=
  { s with fab := { s.fab with leads := s.fab.leads.map fun x => if x.broadcast == l.broadcast then l else x } }

/-- A part of a delivery handed to a port for a member. -/
def State.sendPart (s : State) (peer : Nat) (p : DeliverPart) : State := s.sendHop peer p

/-- The bytes of a delivery's message ahead of its roster: the broadcast_id, the generation and the tree order (R382), which take 8, 4 and, each
member, 4 bytes, as JOB_ACK gives them (DESIGN CHOICE, log 32). -/
def deliverPrefix (order : List Nat) : Nat := 12 + 4 * order.length

/-- What one packet of a delivery carries of its roster and blob: the packet holds `m` bytes of the message from `at_`. -/
def partAt (p : DeliverPart) (m at_ : Nat) : DeliverPart :=
  let head := deliverPrefix p.treeOrder
  let from_ := at_ - head
  { p with offset := p.offset + from_, data := slice p.data from_ (at_ + m - head - from_) }

/-- A delivery's message, from its start, as packets of `m` bytes each. -/
def packetsOf (p : DeliverPart) (m : Nat) : List DeliverPart :=
  (List.range ((deliverPrefix p.treeOrder + p.data.length + m - 1) / m)).map fun i => partAt p m (m * i)

/-- A delivery's message handed to a port for a member, in packets of at most 8,192 bytes, each sequenced on its hop (R382, R373). -/
def State.sendParts (s : State) (peer : Nat) (p : DeliverPart) : State :=
  (packetsOf p (Max.max 256 (s.portPayload (s.ctrlPort peer) 0))).foldl (fun s q => s.sendPart peer q) s

/-- The whole delivery sent to one member, in a generation and with a tree order. -/
def State.deliverTo (s : State) (l : JobLead) (generation : Nat) (order : List Nat) (m : Nat) : State :=
  let blob := s.rdPart (s.cpart l.hdr.context) (256 * l.blobAddr) l.blobLen
  s.sendParts (rosterAddr l.roster m) {
    sender := rosterAddr l.roster 0, broadcastId := l.broadcast, generation := generation, treeOrder := order,
    rosterLen := l.roster.length, offset := 0, total := l.roster.length + l.blobLen, data := l.roster ++ blob }

/-- JOB_COMMIT sent to every member, once all have acknowledged (R384); with none to answer the command completes. -/
def State.commitIfAcked (s : State) (l : JobLead) : State :=
  if l.state ≠ 1 ∨ l.acked.length + 1 < l.members then s.setLead l
  else if l.members = 1 then (s.setLead { l with state := 3, answered := true }).reply l.hdr 0x0606 0
  else (List.range (l.members - 1)).foldl (fun s i => s.tell (rosterAddr l.roster (i + 1)) 0x12 (leB 8 l.broadcast ++ l.rosterDigest))
    (s.setLead { l with state := 2 })

/-- A generation starts: its deadlines by depth, and the delivery to the members at depth 1. -/
def State.startGeneration (s : State) (l : JobLead) (order : List Nat) : State :=
  let level := s.rd PRT_JOB.ack_level_ms * 1000000
  let due := ((List.range order.length).zip order).drop 1 |>.map fun e => (e.2, s.hall + treeDepth 6 e.1 * level)
  let l := { l with orders := order :: l.orders, due := l.due.filter (fun e => !order.contains e.1) ++ due }
  let s := (order.drop 1 |>.take 8).foldl (fun s m => s.deliverTo l (l.orders.length - 1) order m) s
  s.commitIfAcked l

/-- JOB_START_BROADCAST: pending until the members have answered (R346), generation 0 goes out in roster order. A poisoned line of the
roster or the object fails the command (R224). -/
def doJobStartBroadcast (h : Hdr) (rosterUnit members blobUnit blobLen : Nat) (s : State) : State :=
  let p := s.cpart h.context
  if s.partPoisoned p (256 * rosterUnit) (32 * members) || s.partPoisoned p (256 * blobUnit) blobLen then s.reply h 0x0606 readErrorStatus
  else
  let roster := s.rdPart p (256 * rosterUnit) (32 * members)
  let l : JobLead := {
    hdr := h, broadcast := s.fab.nextBroadcast, state := 1, orders := [], members := members, roster := roster,
    blobAddr := blobUnit, blobLen := blobLen, digest := sha256 (roster ++ s.rdPart p (256 * blobUnit) blobLen),
    rosterDigest := sha256 roster }
  let s := { s with fab := { s.fab with nextBroadcast := s.fab.nextBroadcast + 1, leads := l :: s.fab.leads } }
  let s := (s.readLines p (256 * rosterUnit) (32 * members)).readLines p (256 * blobUnit) blobLen
  (if members = 1 then s else s.reply h 0x0606 1).startGeneration l (List.range members)

def fwJobStartBroadcast (h : Hdr) (rosterAddr members blobAddr blobLen : Nat) : Fw :=
  ⟨0x0606, h.length == 32, .context, checkJobStartBroadcast h.context rosterAddr members blobAddr blobLen,
    doJobStartBroadcast h rosterAddr members blobAddr blobLen, fun _ s => s⟩

def execJobStartBroadcast (h : Hdr) (rosterAddr members blobAddr blobLen : Nat) (s : State) : Result :=
  .next (s.fwCommand h (fwJobStartBroadcast h rosterAddr members blobAddr blobLen) (.jobStartBroadcast h rosterAddr members blobAddr blobLen))

/-- Members fail, and the broadcast with them: no commit is sent, and the event names the members, as many as its detail holds (log 51). -/
def State.failMembers (s : State) (l : JobLead) (ms : List Nat) : State :=
  let c := l.hdr.context
  let l := { l with state := 4, failed := l.failed ++ ms, due := [], suspects := [], answered := true }
  ((s.setLead l).fault 0x3106 1 0 0 (some c) (some (s.cpart c)) ((ms.take 8).flatMap (leB 2))).reply l.hdr 0x0606 0x0572

/-- JOB_ACK: a member's acknowledgement counts whatever its generation; a digest that differs has the delivery sent again directly,
once. -/
def State.jobAck (s : State) (id m : Nat) (digest : Bytes) : State :=
  match s.fab.leads.find? fun l => l.broadcast == id with
  | none => s
  | some l =>
    if l.state ≠ 1 ∨ m = 0 ∨ l.members ≤ m ∨ l.acked.contains m then s
    else if digest = l.digest then
      s.commitIfAcked { l with acked := l.acked ++ [m], due := l.due.filter fun e => e.1 != m, suspects := l.suspects.filter fun e => e.1 != m }
    else if l.mismatch.contains m then s.failMembers l [m]
    else (s.setLead { l with mismatch := l.mismatch ++ [m] }).deliverTo l (l.orders.length - 1) [0, m] m

def execJobAck (peer id broadcastId generation member : Nat) (digest : Bytes) (s : State) : Result :=
  .next (s.ctrlOnce peer id (.jobAck peer id broadcastId generation member digest) fun s => s.jobAck broadcastId member digest)

/-- The earliest of a list of deadlines. -/
def earliest : List (Nat × Nat) → Option Nat
  | [] => none
  | e :: t => match earliest t with | some n => some (Min.min e.2 n) | none => some e.2

/-- ACK_LEVEL_DEADLINE: the broadcast's next deadline passes. Suspects due by it fail; members due by it become suspect, those
unacknowledged below them orphans, and the next generation starts, of at most 8. -/
def State.ackLevel (s : State) (id : Nat) : State :=
  match s.fab.leads.find? fun l => l.broadcast == id with
  | none => s
  | some l =>
    match earliest (l.due ++ l.suspects) with
    | none => s
    | some t =>
      let s := { s with hall := Max.max s.hall t }
      let dead := (l.suspects.filter fun e => decide (e.2 ≤ s.hall)).map (·.1)
      let sus := (l.due.filter fun e => decide (e.2 ≤ s.hall)).map (·.1)
      if dead ≠ [] then s.failMembers l dead
      else
        let below := sus.flatMap (membersBelow l.orders)
        let orphans := (List.range l.members).filter fun m => below.contains m && !sus.contains m && l.due.any fun e => e.1 == m
        if 8 ≤ l.orders.length ∧ orphans ≠ [] then s.failMembers l orphans
        else
          let level := s.rd PRT_JOB.ack_level_ms * 1000000
          let l : JobLead := { l with
            due := l.due.filter fun e => !sus.contains e.1 && !orphans.contains e.1,
            suspects := l.suspects ++ sus.map fun m => (m, s.hall + level) }
          let s := sus.foldl (fun (s : State) (m : Nat) => s.deliverTo l l.orders.length [0, m] m) s
          if 8 ≤ l.orders.length then s.setLead l else s.startGeneration l (0 :: orphans)

def execAckLevelDeadline (broadcastId : Nat) (s : State) : Result := .next (if s.up then s.ackLevel broadcastId else s)

/-- No commit message of a broadcast is outstanding any more and some member has not answered: the command completes with 0x0573 (R384). -/
def State.commitUnanswered (s : State) (id : Nat) : State :=
  match s.fab.leads.find? fun l => l.broadcast == id && l.state == 2 && !l.answered with
  | none => s
  | some l =>
    if s.fab.ctrlOut.any fun m => m.ctype == 0x12 && leAt m.body 0 8 == id then s
    else (s.setLead { l with answered := true }).reply l.hdr 0x0606 0x0573

/-- JOB_COMMIT_ACK: the member's commit is answered, and when every member has answered the command completes. -/
def State.jobCommitAck (s : State) (id m : Nat) : State :=
  match s.fab.leads.find? fun l => l.broadcast == id with
  | none => s
  | some l =>
    if l.state ≠ 2 ∨ m = 0 ∨ l.members ≤ m ∨ l.committed.contains m then s
    else
      let s := { s with fab := { s.fab with ctrlOut := s.fab.ctrlOut.filter fun x =>
        !(x.ctype == 0x12 && leAt x.body 0 8 == id && x.peer == rosterAddr l.roster m) } }
      let l := { l with committed := l.committed ++ [m] }
      if l.committed.length + 1 < l.members then (s.setLead l).commitUnanswered id
      else (s.setLead { l with state := 3, answered := true }).reply l.hdr 0x0606 0

def execJobCommitAck (peer id broadcastId member : Nat) (s : State) : Result :=
  .next (s.ctrlOnce peer id (.jobCommitAck peer id broadcastId member) fun s => s.jobCommitAck broadcastId member)

/-! ### The member (R382, R384) -/

/-- A member's entry replaced. -/
def State.setMember (s : State) (m : JobMember) : State :=
  { s with fab := { s.fab with members := s.fab.members.map fun x => if x.ctx == m.ctx then m else x } }

/-- This module's member number: the roster entry that holds the address of one of its ports; open where none does (free). -/
def State.ownMember (s : State) (roster : Bytes) : Nat × State :=
  match (List.range (roster.length / 32)).find? fun i => (List.range 64).any fun p => s.portAddr p == rosterAddr roster i with
  | some i => (i, s)
  | none => s.free 16

/-- The acknowledgement of a complete delivery. -/
def State.sendJobAck (s : State) (m : JobMember) (id generation : Nat) : State :=
  let o := s.ownMember (m.data.take m.rosterLen)
  o.2.tell m.bellwether 0x11 (leB 8 id ++ leB 4 generation ++ leB 4 o.1 ++ sha256 m.data)

/-- A part forwarded to the children of this member in the delivery's tree order, once the roster that names them is held; the parts
held before it then go with it, in packets of their own. -/
def State.forwardPart (s : State) (old : Bytes) (m : JobMember) (p : DeliverPart) : State :=
  if m.data.length < m.rosterLen then s
  else
    let roster := m.data.take m.rosterLen
    let o := s.ownMember roster
    (treeChildren p.treeOrder o.1).foldl (fun s k =>
      if old.length < m.rosterLen then s.sendParts (rosterAddr roster k) { p with offset := 0, data := m.data }
      else s.sendPart (rosterAddr roster k) p) o.2

/-- JOB_DELIVER: a part of the delivery of an armed bellwether. A delivery of a higher generation, or another one, replaces a partial
one; a complete delivery received again is acknowledged again and not rewritten. The blob is stored when the delivery is complete and
the area holds it. -/
def State.jobDeliver (s : State) (p : DeliverPart) : State :=
  match s.fab.members.find? fun m => m.bellwether == p.sender with
  | none => s
  | some m =>
    let same := m.broadcast == some p.broadcastId
    if m.committed || (same && m.discarded) || (same && decide (p.generation < m.generation)) then
      (if same && m.ackedAt.isSome && p.offset + p.data.length == p.total then s.sendJobAck m p.broadcastId p.generation else s)
    else if same && m.ackedAt.isSome then
      let s := s.forwardPart m.data m p
      if p.offset + p.data.length = p.total then s.sendJobAck m p.broadcastId p.generation else s
    else
      let held : JobMember := if same && m.generation == p.generation then m
        else { m with broadcast := some p.broadcastId, generation := p.generation, order := p.treeOrder, rosterLen := p.rosterLen, data := [],
                      total := p.total, ackedAt := none, discarded := false }
      if p.offset ≠ held.data.length ∨ held.total < held.data.length + p.data.length then s.setMember held
      else
        let next := { held with data := held.data ++ p.data }
        let s := (s.setMember next).forwardPart held.data next p
        if next.data.length < next.total ∨ 256 * m.areaUnits < next.total - next.rosterLen then s
        else
          let s := s.wrPart (s.cpart m.ctx) (256 * m.areaBase) (next.data.drop next.rosterLen)
          (s.setMember { next with ackedAt := some s.hall }).sendJobAck next p.broadcastId p.generation

/-- The parts of a hop that are in order take effect; `n` bounds them. -/
def State.passHop : Nat → State → Nat → State
  | 0, s, _ => s
  | n + 1, s, peer =>
    let x := s.hop peer
    match x.held.find? fun e => e.1 == x.expected with
    | some e => State.passHop n ((s.setHop { x with
        expected := (x.expected + 1) % 2 ^ 32, held := x.held.filter fun q => q.1 != e.1 }).jobDeliver e.2) peer
    | none => s

/-- JOB_DELIVER: a part that arrives on the hop from a peer, in the hop's sequence as DATA is (R382): a duplicate changes nothing, one
beyond a gap waits for it, and each is acknowledged (at once, DESIGN CHOICE, log 32). -/
def State.hopReceive (s : State) (peer psn : Nat) (p : DeliverPart) : State :=
  let x := s.hop peer
  let dup := psnBefore psn x.expected || x.held.any fun e => e.1 == psn
  let s := if dup then s.inc (PRT_MLADUB.dup_rx (s.ctrlPort peer)) 1 else s.setHop { x with held := insertHeld (·.1) (psn, p) x.held }
  let s := State.passHop (x.held.length + 1) s peer
  s.sendFab (s.ctrlPort peer) (.deliverAck peer (s.hop peer).expected (heldRanges ((s.hop peer).held.map (·.1))))

def execJobDeliver (peer psn : Nat) (part : DeliverPart) (s : State) : Result :=
  .next (s.arriveFor (s.ctrlPort peer) (.jobDeliver peer psn part) fun s => s.hopReceive peer psn part)

/-- The hall time at which a member's wait for its commit ends. -/
def JobMember.deadline (m : JobMember) (acked : Nat) : Nat := acked + m.timeoutS * 1000000000

/-- JOB_COMMIT: the delivery is committed and its roster digest recorded; a commit in the nanosecond of the time-out counts. -/
def State.jobCommit (s : State) (sender id : Nat) (digest : Bytes) : State :=
  match s.fab.members.find? fun m => m.bellwether == sender && m.broadcast == some id with
  | none => s
  | some m =>
    match m.ackedAt with
    | none => s
    | some t =>
      let roster := m.data.take m.rosterLen
      if m.discarded || decide (sha256 roster ≠ digest) || (!m.committed && decide (m.deadline t < s.hall)) then s
      else
        let o := (s.setMember { m with committed := true }).ownMember roster
        (o.2.modCtx m.ctx fun k => { k with rosterDigest := some digest }).tell sender 0x13 (leB 8 id ++ leB 4 o.1 ++ leB 4 0)

def execJobCommit (sender id broadcastId : Nat) (rosterDigest : Bytes) (s : State) : Result :=
  .next (s.ctrlOnce sender id (.jobCommit sender id broadcastId rosterDigest) fun s => s.jobCommit sender broadcastId rosterDigest)

/-- COMMIT_TIMEOUT: no commit commit_timeout_s after the member's own acknowledgement: the nanosecond of the deadline has passed, the
delivery is discarded, and fault 0x3107 raised. -/
def State.commitTimeout (s : State) (c : Nat) : State :=
  match s.fab.members.find? fun m => m.ctx == c with
  | none => s
  | some m =>
    match m.ackedAt with
    | none => s
    | some t =>
      if m.committed || m.discarded then s
      else
        let s := { s with hall := Max.max s.hall (m.deadline t + 1) }
        (s.setMember { m with discarded := true, data := [] }).fault 0x3107 1 0 0 (some c) (some (s.cpart c)) []

def execCommitTimeout (ctx : Nat) (s : State) : Result := .next (if s.up then s.commitTimeout ctx else s)

/-! ### Status (R384) -/

/-- The job-start status payload. -/
def jobStatus (id state generation acked committed failed : Nat) (named : List Nat) : Bytes :=
  leB 8 id ++ leB 1 state ++ leB 1 generation ++ leB 2 0 ++ leB 4 acked ++ leB 4 committed ++ leB 4 failed ++ (named.take 64).flatMap (leB 2)

/-- The state of a delivery with a roster digest, as the context's bellwether or member side holds it; idle with neither. -/
def State.jobStatusOf (s : State) (c : Nat) (digest : Bytes) : Bytes :=
  match s.fab.leads.find? fun l => l.hdr.context == c && l.rosterDigest == digest with
  | some l =>
    let rest := (List.range l.members).filter fun m => m != 0 && !l.committed.contains m
    let named := if l.state = 4 then l.failed else if l.state = 2 then rest else []
    jobStatus l.broadcast l.state (l.orders.length - 1) l.acked.length l.committed.length l.failed.length named
  | none =>
    match s.fab.members.find? fun m => m.ctx == c with
    | some m =>
      match m.broadcast with
      | some id =>
        if decide (m.data ≠ []) && sha256 (m.data.take m.rosterLen) != digest then jobStatus 0 0 0 0 0 0 []
        else jobStatus id (if m.discarded then 5 else if m.committed then 3 else 1) m.generation (bit m.ackedAt.isSome) (bit m.committed) 0 []
      | none => jobStatus 0 0 0 0 0 0 []
    | none => jobStatus 0 0 0 0 0 0 []

def fwJobStartStatus (h : Hdr) (rosterDigest : Bytes) : Fw :=
  ⟨0x0602, h.length == 32 && rosterDigest.length == 32, .context, fun _ => 0,
    fun s => s.reply h 0x0602 0 (s.jobStatusOf h.context rosterDigest), fun _ s => s⟩

def execJobStartStatus (h : Hdr) (rosterDigest : Bytes) (s : State) : Result :=
  .next (s.fwCommand h (fwJobStartStatus h rosterDigest) (.jobStartStatus h rosterDigest))

/-! ### Control messages (R374) -/

/-- What a control message of a type asks; the job-start and mirror messages have events of their own, which carry what they hold. -/
def State.controlAct (s : State) (peer ctype : Nat) (b : RedMsg) : State :=
  if ctype = 0x20 then s.voidRequest b
  else if ctype = 0x21 then s.verdictMsg b
  else if ctype = 0x22 then s.verdictQuery peer b
  else s

/-- CONTROL_MESSAGE_RECEIVED: answered with CTRL_ACK, and acted on once by its sender and id; a reserved type is discarded and counted. -/
def State.controlMessage (s : State) (peer id ctype : Nat) (b : RedMsg) : State :=
  let i : Instr := .controlMessageReceived peer id ctype b
  if !knownType ctype || ctype == 0x01 || ctype == 0x02 || ctype == 0x30 then
    s.arriveFor (s.ctrlPort peer) i fun s => s.inc (PRT_DISCARDS.bad_type (s.ctrlPort peer)) 1
  else if ctype = 0x20 ∨ ctype = 0x21 ∨ ctype = 0x22 then s.ctrlOnce peer id i fun s => s.controlAct peer ctype b
  else s

def execControlMessageReceived (peer id ctype : Nat) (body : RedMsg) (s : State) : Result := .next (s.controlMessage peer id ctype body)

/-- CTRL_RETRY_EXPIRY: an unanswered control message is sent again, up to 8 times. -/
def State.ctrlRetry (s : State) (id : Nat) : State :=
  match s.fab.ctrlOut.find? fun m => m.id == id with
  | none => s
  | some m =>
    let s := { s with hall := Max.max s.hall (m.sentAt + s.rd PRT_JOB.ctrl_retry_us * 1000) }
    if m.repeats < 8 then
      let n := { m with repeats := m.repeats + 1, sentAt := s.hall }
      let s := { s with fab := { s.fab with ctrlOut := s.fab.ctrlOut.map fun (x : CtrlOut) => if x.id == id then n else x } }
      if m.acked then s else s.sendFab (s.ctrlPort m.peer) (.ctrl m.peer id m.ctype m.body)
    else
      let s := { s with fab := { s.fab with ctrlOut := s.fab.ctrlOut.filter fun (x : CtrlOut) => x.id != id } }
      if m.ctype = 0x12 then s.commitUnanswered (leAt m.body 0 8) else s

def execCtrlRetryExpiry (id : Nat) (s : State) : Result := .next (if s.up then s.ctrlRetry id else s)

end Sys2Proof.Machine
end

