-- ==== Sys2Proof/Machine/Power.lean ====
section
/-! DEFINITION. Power and heat (chapter 18): sensors, the input filter, trips, the limiter, the emergency path, thermal gating and the
governor. Values are in mV, mA, m°C and Pa. -/

namespace Sys2Proof.Machine

/-! ### Faults of the service controller, and the removal of the rails (R390, R410, R449) -/

/-- The control-die rails are on, so that packets can leave. -/
def State.powered (s : State) : Bool := decide (2 ≤ s.rd CAL_BRINGUP.stage)

/-- A fault of the service controller is logged as it is detected (R449); while the rails are off it is only logged. Its report crosses to the
underlay network as an event (crossing 8): behind a wake, or while the crossing is stopped, it is counted and waits (R231, R235, R236). -/
def State.svcFault (s : State) (code cls space index : Nat) (detail : Bytes) : State :=
  let r := s.faultRecord code cls space index detail
  let s := r.2.logClass cls r.1
  if !s.powered then s
  else if s.passes 8 0 then s.reportFault code cls none none r.1
  else
    let x := s.crossing 8 0
    { s with pwr := { s.pwr with reports := s.pwr.reports ++ [(code, cls, r.1)] } }.setCrossing { x with ahead := (x.ahead + 1) % 2 ^ 32 }

/-- PWR_ENTRY0–3, PWR_STANDBY and THM_COOLANT, which show what the service controller measures from P0 on (Table 20-2). -/
def measuredOff (off : Nat) : Bool := (decide (0x19010 ≤ off) && decide (off < 0x19038)) || off == 0x1A010

/-- The fields that a removal of the rails leaves: fuses, and what the service controller and the root-of-trust flash keep. The mask of
the bits of a register that stand. -/
def keptMask (a : Nat) : Nat :=
  let off := addrOffset a
  if addrSpace a = 3 ∧ 0x2040 ≤ off ∧ off < 0x2070 then 0x3FFF
  else if addrSpace a = 5 ∧ off = 0x18 then 2 ^ 48 - 1
  else if addrSpace a = 2 ∧ off = 0x800 then 2 ^ 64 - 1
  else if addrSpace a = 15 ∧ off = 0 then 0x180
  else if addrSpace a = 15 ∧ off = 8 then 2 ^ 32 - 1
  else if addrSpace a = 15 ∧ ((0x10 ≤ off ∧ off < 0x50) ∨ off = 0x300) then 2 ^ 64 - 1
  else if addrSpace a = 0 ∧ (off = 0x1078 ∨ off = 0x1080 ∨ off = 0x18018 ∨ off = 0x1C008 ∨ off = 0x1C010) then 2 ^ 64 - 1
  else if addrSpace a = 0 ∧ measuredOff off then 2 ^ 64 - 1
  else if a = CAL_BRINGUP then 0xF0
  else if a = CMD_MGMT_MAC 0 ∨ a = CMD_MGMT_MAC 1 then 2 ^ 48 - 1
  else 0

/-- A row's skip map with its fuse values active and staged again. -/
def fuseRow (v : Nat) : Nat := setBits (setBits (setBits (setBits v 20 4 (bits v 12 4)) 16 4 (bits v 12 4)) 8 3 (bits v 0 3)) 4 3 (bits v 0 3)

/-- A register after the rails have gone. -/
def keptValue (a v : Nat) : Nat :=
  let off := addrOffset a
  if addrSpace a = 3 ∧ 0x2000 ≤ off ∧ off < 0x2030 then setBits (fuseRow v) 24 1 0
  else (v &&& keptMask a) + (regReset a - (regReset a &&& keptMask a))

/-- The state of a module whose rails have gone: what is kept, and the rest as after module reset. Debug is locked again, and the TAP reset,
which selects IDCODE (R427, R486; IEEE 1149.1, PRESUMED, log 71). -/
def State.unpowered (s : State) : State :=
  let t : State := {
    pins := { s.pins with powerGood := false, p7 := false, uciIdle := false, tap := .idcode },
    pwr := { sensors := s.pwr.sensors, volts := s.pwr.volts, micros := s.pwr.micros, excursion := s.pwr.excursion, within := s.pwr.within,
             imbalanced := s.pwr.imbalanced, beyond := s.pwr.beyond },
    cal := { s.cal with learn := none },
    sec := { keys := s.sec.keys, counter := s.sec.counter, fw := s.sec.fw, fuseBad := s.sec.fuseBad },
    faultLog := s.faultLog, fresh := s.fresh, pending := s.pending }
  let t := s.regs.foldl (fun (t : State) (e : Nat × W64) => t.setReg e.1 (keptValue e.1 e.2.toNat)) t
  t.loadAsym.showCal

/-- Every rail is removed, and the fault logged; it reaches no channel (R390, R449). -/
def State.removeRails (s : State) (code : Nat) (detail : Bytes) : State :=
  let r := s.faultRecord code 5 0 0 detail
  let t := r.2.unpowered.logFault r.1
  { t with pins := { t.pins with removing := s.powered || s.pins.removing } }

/-! ### Sensors (R403, R404, R409) -/

/-- Kind numbers, numbers of sensors, and valid ranges (Table 18-6). -/
def kindCode : SensorKind → Nat
  | .junction => 1 | .entryVoltage => 2 | .entryCurrent => 3 | .standbyVoltage => 4 | .standbyCurrent => 5 | .coolantTemp => 6
  | .coolantDp => 7 | .stackTemp => 8 | .portDieTemp => 9 | .controlDieTemp => 10
def kindCount : SensorKind → Nat
  | .junction => 4116 | .entryVoltage => 4 | .entryCurrent => 4 | .standbyVoltage => 1 | .standbyCurrent => 1 | .coolantTemp => 4
  | .coolantDp => 2 | .stackTemp => 12 | .portDieTemp => 16 | .controlDieTemp => 1
def kindRange : SensorKind → Int × Int
  | .junction => (0, 150000) | .entryVoltage => (0, 80000) | .entryCurrent => (-50000, 600000) | .standbyVoltage => (0, 20000)
  | .standbyCurrent => (0, 5000) | .coolantTemp => (0, 100000) | .coolantDp => (0, 1000000) | .stackTemp => (0, 150000)
  | .portDieTemp => (0, 150000) | .controlDieTemp => (0, 150000)

def sensorKey (k : SensorKind) (i : Nat) : Nat := 8192 * kindCode k + i
def State.sensor (s : State) (k : SensorKind) (i : Nat) : Sensor := Sparse.get {} s.pwr.sensors (sensorKey k i)
def State.setSensor (s : State) (k : SensorKind) (i : Nat) (x : Sensor) : State :=
  { s with pwr := { s.pwr with sensors := Sparse.put {} s.pwr.sensors (sensorKey k i) x } }

/-- A list of integers in rising order. -/
def sortInts : List Int → List Int
  | [] => []
  | x :: l =>
    let rec ins : List Int → List Int
      | [] => [x]
      | y :: t => if x ≤ y then x :: y :: t else y :: ins t
    ins (sortInts l)

/-- The median; of an even number, the mean of the middle two, rounded down. -/
def median (l : List Int) : Option Int :=
  let t := sortInts l
  let n := t.length
  if n = 0 then none
  else if n % 2 = 1 then t[n / 2]?
  else match t[n / 2 - 1]?, t[n / 2]? with | some a, some b => some ((a + b) / 2) | _, _ => none

/-- The value of a sensor in use; a junction sensor's has its calibrated offset. -/
def Sensor.value (x : Sensor) : Option Int := if x.faulted then none else median (x.samples.filterMap id)
def State.sensed (s : State) (k : SensorKind) (i : Nat) : Option Int :=
  let off : Int := if k = .junction then s.calInt8 4 i 0 * 250 else 0
  (s.sensor k i).value.map (· + off)

/-- A sample taken in: three invalid among the last five fault the sensor, five valid ones in a row bring it back. -/
def Sensor.take (x : Sensor) (k : SensorKind) (v : Int) : Sensor :=
  let ok := decide ((kindRange k).1 ≤ v) && decide (v ≤ (kindRange k).2)
  let l := ((if ok then some v else none) :: x.samples).take 5
  let bad := (l.filter (·.isNone)).length
  { x with samples := l, faulted := if x.faulted then !(bad == 0 && l.length == 5) else decide (3 ≤ bad) }

/-- A whole number of °C of a temperature in m°C. -/
def wholeC (t : Int) : Nat := (t / 1000).toNat

/-- The physical tiles of a region. -/
def regionTiles (r : Nat) : List Nat := (List.range 14).map fun c => 14 * r + c

/-- A region's value in m°C (R404): the largest valid median; gate_c where fewer than two sensors are left valid. A sensor not sampled yet
counts as valid and has no value (DESIGN CHOICE, log 37). -/
def State.regionValue (s : State) (r : Nat) : Option Int :=
  let tiles := regionTiles r
  if 13 ≤ (tiles.filter fun t => (s.sensor .junction t).faulted).length then some (1000 * s.rd THM_CFG.gate_c)
  else (tiles.filterMap (s.sensed .junction)).foldl (fun m v => some (match m with | some x => Max.max x v | none => v)) none

/-- The registers of a region, and the hottest region, follow the sensors. -/
def State.showRegion (s : State) (r : Nat) : State :=
  let fd := r / 6
  let row := r % 6
  let valid := (regionTiles r).filter fun t => !(s.sensor .junction t).faulted && !(s.sensor .junction t).samples.isEmpty
  let s := s.wr (THM_REGION.valid_sensors fd row) valid.length
  let s := match s.regionValue r with | some v => s.wr (THM_REGION.temp_c fd row) (wholeC v) | none => s
  let hot := (List.range 294).foldl (fun (b : Nat × Nat) q =>
    let t := s.rd (THM_REGION.temp_c (q / 6) (q % 6)); if b.1 < t then (t, q) else b) (0, 0)
  (s.wr THM_STATUS.hottest_c hot.1).wr THM_STATUS.hottest_region hot.2

/-- The detail of faults 0x3206 and 0x3207. -/
def thermalDetail (cond index : Nat) (v : Int) : Bytes := leB 1 cond ++ leB 1 0 ++ leB 2 index ++ leB 4 (twos 32 v)

/-- A warning, once for each excursion above its figure. -/
def State.warn (s : State) (k : SensorKind) (i : Nat) (limit : Int) (cond index : Nat) (flag : RF) : State :=
  match s.sensed k i with
  | none => s
  | some v =>
    let x := s.sensor k i
    if limit < v then
      if x.warned then s
      else ((s.setSensor k i { x with warned := true }).wr flag 1).svcFault 0x3207 1 0 0 (thermalDetail cond index v)
    else s.setSensor k i { x with warned := false }

/-- The register of a coolant temperature, and of a plate's differential pressure. -/
def coolantField : Nat → RF
  | 0 => THM_COOLANT.top_inlet_c | 1 => THM_COOLANT.top_outlet_c | 2 => THM_COOLANT.bottom_inlet_c | _ => THM_COOLANT.bottom_outlet_c
def pressureField (plate : Nat) : RF := if plate = 0 then THM_COOLANT.top_dp else THM_COOLANT.bottom_dp

/-- Entry `e` carries more than 35 % of the total input current (R389). -/
def State.unbalanced (s : State) (e : Nat) : Bool :=
  let total := (List.range 4).foldl (fun n i => n + ((s.sensed .entryCurrent i).getD 0)) (0 : Int)
  match s.sensed .entryCurrent e with
  | some i => decide (35 * total < 100 * i)
  | none => false

/-- An entry's imbalance excursion ends once it carries no more than 35 % (DEDUCED, log 59). -/
def State.endImbalance (s : State) : State :=
  { s with pwr := { s.pwr with imbalanced := s.pwr.imbalanced.filter s.unbalanced } }

/-- What a sensor's new value shows and warns of. -/
def State.showSensor (s : State) (k : SensorKind) (i : Nat) : State :=
  let v := s.sensed k i
  match k with
  | .junction => s.showRegion (i / 14)
  | .entryVoltage => match v with | some x => s.wr (PWR_ENTRY.voltage_mv i) x.toNat | none => s
  | .entryCurrent => (match v with | some x => s.wr (PWR_ENTRY.current_ma i) (twos 32 x) | none => s).endImbalance
  | .standbyVoltage => match (s.sensor k i).samples with | some x :: _ => s.wr PWR_STANDBY.voltage_mv x.toNat | _ => s
  | .standbyCurrent => match (s.sensor k i).samples with | some x :: _ => s.wr PWR_STANDBY.current_ma x.toNat | _ => s
  | .coolantTemp =>
    let s := match v with | some x => s.wr (coolantField i) (wholeC x) | none => s
    if i % 2 = 0 then s.warn k i 40000 5 (i / 2) THM_STATUS.inlet_high else s
  | .coolantDp =>
    match v with
    | some x =>
      let s := s.wr (pressureField i) (x / 100).toNat
      if x < s.minPressure i then s.wr THM_STATUS.flow_low 1 else s
    | none => s
  | .stackTemp =>
    let s := match v with | some x => s.wr (STK_STATUS.temp_c i) (wholeC x) | none => s
    s.warn k i 95000 2 i THM_STATUS.die_hot
  | .portDieTemp =>
    let hot := (List.range 16).foldl (fun (b : Nat × Nat) q => match s.sensed .portDieTemp q with
      | some x => if b.1 < wholeC x then (wholeC x, q) else b | none => b) (0, 0)
    ((s.wr THM_DIES.port_die_c hot.1).wr THM_DIES.port_die hot.2).warn k i 100000 3 i THM_STATUS.die_hot
  | .controlDieTemp =>
    let s := match v with | some x => s.wr THM_DIES.control_die_c (wholeC x) | none => s
    s.warn k i 100000 4 0 THM_STATUS.die_hot

/-- The unit whose sensor it is, as address space and index: a physical tile, a stack, else the wafer. -/
def sensorUnit (k : SensorKind) (i : Nat) : Nat × Nat :=
  match k with | .junction => (2, i) | .stackTemp => (4, i) | _ => (0, 0)

/-- SENSOR_SAMPLE. -/
def State.sensorSample (s : State) (k : SensorKind) (i : Nat) (v : Int) : State :=
  if !s.pins.standby ∨ kindCount k ≤ i then s
  else
    let old := s.sensor k i
    let new := old.take k v
    let s := s.setSensor k i new
    let s := if new.faulted && !old.faulted then
        let s := s.wr THM_STATUS.sensor_fault 1
        let s := if k = .junction then s.wr (THM_REGION.sensor_fault (i / 84) (i % 84 / 14)) 1 else s
        s.svcFault 0x3208 1 (sensorUnit k i).1 (sensorUnit k i).2 (leB 1 (kindCode k) ++ leB 1 0 ++ leB 2 i)
      else s
    s.showSensor k i

def execSensorSample (kind : SensorKind) (index : Nat) (value : Int) (s : State) : Result := .next (s.sensorSample kind index value)

/-! ### The input (R389, R390, R391, R403) -/

/-- The input voltage in mV: the median of the valid entries. -/
def State.inputMv (s : State) : Nat := ((median ((List.range 4).filterMap (s.sensed .entryVoltage))).getD 0).toNat

/-- The input power in µW: the sum of voltage times current over the entries with both. -/
def State.inputUw (s : State) : Int :=
  (List.range 4).foldl (fun n e => match s.sensed .entryVoltage e, s.sensed .entryCurrent e with
    | some v, some i => n + v * i | _, _ => n) 0

/-- The filtered input voltage (mV) and power (W): means over the last 10 µs. -/
def State.filteredMv (s : State) : Rat := ((s.pwr.volts.foldl (· + ·) 0 : Nat) : Rat) / ((Max.max 1 s.pwr.volts.length : Nat) : Rat)
def State.filteredW (s : State) : Rat :=
  let n : Int := s.pwr.micros.foldl (· + ·) 0
  (n : Rat) / ((1000000 * Max.max 1 s.pwr.micros.length : Nat) : Rat)

/-! ### Supply trips (R390) -/

/-- The current of an entry in mA. -/
def State.entryMa (s : State) (e : Nat) : Int := (s.sensed .entryCurrent e).getD 0

/-- Some entry voltage is known. -/
def State.voltKnown (s : State) : Bool := (List.range 4).any fun e => (s.sensed .entryVoltage e).isSome

/-- Fewer than two entry voltage sensors remain valid. -/
def State.voltsLost (s : State) : Bool :=
  decide (((List.range 4).filter fun e => !(s.sensor .entryVoltage e).faulted).length < 2)

/-- The thresholds of Table 18-1 in mV and mA and the debounce of a cause in microseconds: each somewhere within its tolerance (free). -/
def underMv : Nat := 37500 + Config.underTrip % 1001
def overMv : Nat := 61500 + Config.overTrip % 1001
def tripMa : Nat := 400000 + Config.currentTrip % 40001
def debounceUs (cause : Nat) : Nat :=
  if cause = 1 then 90 + Config.underDebounce % 21 else if cause = 2 then 18 + Config.overDebounce % 5 else 1000

/-- The entry medians are beyond the threshold of a cause (R403); for an over-current, at an entry. -/
def State.tripHolds (s : State) (cause entry : Nat) : Bool :=
  match cause with
  | 1 => s.voltKnown && decide (s.inputMv < underMv) | 2 => s.voltKnown && decide (overMv < s.inputMv)
  | 3 => decide (entry < 4) && decide ((tripMa : Int) < s.entryMa entry) | 4 => s.voltsLost
  | _ => false

/-- The causes that a debounce keeps, each with its entry (0xFF for none). -/
def debounced : List (Nat × Nat) := [(1, 0xFF), (2, 0xFF), (3, 0), (3, 1), (3, 2), (3, 3)]

/-- A microsecond passes: each cause has held for one more, or does not hold. -/
def State.debounce (s : State) : State :=
  { s with pwr := { s.pwr with beyond := (debounced.zip s.pwr.beyond).map fun e => if s.tripHolds e.1.1 e.1.2 then e.2 + 1 else 0 } }

/-- INPUT_FILTER_UPDATE: a voltage excursion begins at the first filtered value outside 40 to 60 V, and ends after 1 ms within. -/
def State.inputFilter (s : State) : State :=
  if !s.pins.standby then s
  else
    let s := s.debounce
    let now := s.pwr.filterAt + 1000
    let s := { s with
      hall := if s.up then Max.max s.hall now else s.hall,
      pwr := { s.pwr with
        volts := (s.inputMv :: s.pwr.volts).take 10, micros := (s.inputUw :: s.pwr.micros).take 10,
        filterAt := if s.up then Max.max s.hall now else 0 } }
    let s := s.wr PWR_STATUS.input_w (Min.min s.filteredW.floor.toNat 65535)
    let mv := s.filteredMv
    if mv < 40000 ∨ 60000 < mv then
      let s' := { s with pwr := { s.pwr with excursion := true, within := 0 } }
      if s.pwr.excursion then s' else (s'.wr PWR_STATUS.input_warn 1).svcFault 0x3201 1 0 0 []
    else if s.pwr.excursion then
      let n := s.pwr.within + 1
      { s with pwr := { s.pwr with excursion := decide (n < 1000), within := if n < 1000 then n else 0 } }
    else s

def execInputFilterUpdate (s : State) : Result := .next s.inputFilter

/-- ENTRY_IMBALANCE: one entry has carried more than 35 % of the input current for 1 s; once for each excursion (R389). -/
def State.entryImbalance (s : State) (e : Nat) : State :=
  if e < 4 ∧ s.pins.standby ∧ s.unbalanced e ∧ ¬ s.pwr.imbalanced.contains e then
    let s := { s with pwr := { s.pwr with imbalanced := e :: s.pwr.imbalanced } }
    (s.wr PWR_STATUS.imbalance 1).svcFault 0x3201 1 0 0 []
  else s

def execEntryImbalance (entry : Nat) (s : State) : Result := .next (s.entryImbalance entry)

/-- The cause and entry pair that a trip names: the row's, whose debounce has passed, or the lowest of those that hold in the same sample
for their debounce (log 37). -/
def State.tripCause (s : State) (cause entry : Nat) : Nat × Nat :=
  (((debounced.zip s.pwr.beyond).find? fun e =>
    decide (e.1.1 < cause) && s.tripHolds e.1.1 e.1.2 && decide (debounceUs e.1.1 ≤ e.2)).map (·.1)).getD (cause, if cause = 3 then entry else 0xFF)

/-- SUPPLY_TRIP: every rail is removed and fault 0x3202 logged, with the median that the trip went by. The service controller watches the
input from standby on (R390, R488). -/
def State.supplyTrip (s : State) (cause entry : Nat) : State :=
  if s.pins.standby && s.tripHolds cause entry then
    let c := s.tripCause cause entry
    s.removeRails 0x3202 (leB 1 c.1 ++ leB 1 c.2 ++ leB 2 0 ++ leB 4 (if c.1 = 3 then (s.entryMa c.2).toNat else s.inputMv) ++ leB 8 0)
  else s

def execSupplyTrip (cause entry : Nat) (s : State) : Result := .next (s.supplyTrip cause entry)

/-- EMERGENCY_OFF: the pin has been low for 10 µs; no rail is enabled while it is (R391, R431). -/
def State.emergencyOff (s : State) : State :=
  if s.pins.standby then
    let t := s.removeRails 0x3209 []
    { t with pins := { t.pins with emergencyLow := true } }
  else s

def execEmergencyOff (s : State) : Result := .next s.emergencyOff

/-- The value in use of the sensor that a trip condition goes by (R403). -/
def State.tripValue (s : State) (cond index : Nat) : Option Int :=
  match cond with
  | 1 => if index < 4116 then s.sensed .junction index else none
  | 2 => if index < 12 then s.sensed .stackTemp index else none
  | 3 => if index < 16 then s.sensed .portDieTemp index else none
  | 4 => if index = 0 then s.sensed .controlDieTemp 0 else none
  | 5 => if index < 2 then s.sensed .coolantTemp (2 * index) else none
  | 6 => if index < 2 then s.sensed .coolantDp index else none
  | _ => none

/-- It reaches its trip figure (Table 18-7). -/
def State.moduleTripHolds (s : State) (cond index : Nat) (v : Int) : Bool :=
  match cond with
  | 1 | 3 | 4 => decide (110000 ≤ v) | 2 => decide (105000 ≤ v) | 5 => decide (45000 ≤ v)
  | _ => decide (v < s.minPressure index)

/-- Rails are on: from the start of P2, or until the present instant (Table 20-1, R488). -/
def State.railsOn (s : State) : Bool := s.powered || s.pins.removing

/-- MODULE_THERMAL_TRIP; a low differential pressure trips only while rails are on (Table 18-7). -/
def State.moduleTrip (s : State) (cond index : Nat) : State :=
  match s.tripValue cond index with
  | some v =>
    if s.pins.standby && (cond != 6 || s.railsOn) && s.moduleTripHolds cond index v then s.removeRails 0x3206 (thermalDetail cond index v)
    else s
  | none => s

def execModuleThermalTrip (condition index : Nat) (s : State) : Result := .next (s.moduleTrip condition index)

/-! ### The limiter and droop (R399, R400) -/

/-- The limiter's periods are counted until each tile's PWR_LIMIT is next read. -/
def State.limiterMoves (s : State) : State := { s with pwr := { s.pwr with limitSeen := some [] } }

/-- Cycles that a tile was to count as held and has not, or counts less. -/
def State.slipLess (s : State) (c t n : Nat) : State :=
  let slip := s.rd (INS_SLIP.slip t)
  s.schedule c t (s.rd (INS_SCHED.step_cycle t) - Min.min n slip) (slip - n)

/-- The periods held of a word are counted in σ as it issues, at the level of then (R193, `State.limited`); as the level moves, those of the words
in force become more or fewer by an open number (free; log 37). -/
def State.limiterWords (s : State) (rise : Bool) : State :=
  (List.range 128).foldl (fun s c =>
    if s.cst c = stRunning ∧ (s.ctx c).step.isSome then
      (s.workTiles c).foldl (fun s t =>
        let r := s.free 32
        let k := r.1 % (7 * bits (s.engOf c t).word 496 16 + 1)
        if rise then r.2.slipBy c t k else r.2.slipLess c t k) s
    else s) s

/-- LIMITER_RISE: 20 µs over the cap raise the level by one. -/
def State.limiterRise (s : State) : State :=
  let l := s.rd PWR_STATUS.limiter_level
  if s.up && decide ((s.rd PWR_CFG.cap_w : Rat) < s.filteredW) && decide (l < 7) then
    let s := if l = 0 then s.wr PWR_STATUS.limiter_acted 1 else s
    let s := (s.wr PWR_STATUS.limiter_level (l + 1)).inc PWR_COUNTS.limiter_steps 1
    ({ s.limiterMoves with pwr := { s.limiterMoves.pwr with limited := true } }).limiterWords true
  else s

def execLimiterRise (s : State) : Result := .next s.limiterRise

/-- LIMITER_FALL: 100 µs below 97 % of the cap lower it by one. -/
def State.limiterFall (s : State) : State :=
  let l := s.rd PWR_STATUS.limiter_level
  if s.up && decide (s.filteredW < (97 * s.rd PWR_CFG.cap_w : Nat) / 100) && decide (0 < l) then
    (s.limiterMoves.wr PWR_STATUS.limiter_level (l - 1)).limiterWords false
  else s

def execLimiterFall (s : State) : Result := .next s.limiterFall

/-- DROOP_CLOCK_STRETCHING: the cycles lengthened count as droop cycles, and as slip of a step on the tile (R193). -/
def State.droop (s : State) (t n : Nat) : State :=
  if s.up && decide (t < 3528) && !s.gated (tileField t) (tileRow t) then
    let s := if s.on (TIL_COUNTER_CTRL.freeze t) then s else s.inc (PWR_DROOP.droop_cycles t) n
    match s.ctxOn t with
    | some c => if (s.ctx c).step.isSome && s.hasWork c t then
        s.slipBy c t n else s
    | none => s
  else s

def execDroopClockStretching (tile cycles : Nat) (s : State) : Result := .next (s.droop tile cycles)

/-! ### Thermal hold, gating and the emergency path (R330, R405 to R408) -/

/-- The counts of THM_STATUS follow the regions. -/
def State.showGated (s : State) : State :=
  let st := (List.range 294).map fun r => s.rd (THM_REGION.gate_state (r / 6) (r % 6))
  let n := (st.filter (· != 0)).length
  ((s.wr THM_STATUS.gated_count n).wr THM_STATUS.emerg_count (st.filter (· == 2)).length).wr THM_STATUS.any_gated (bit (n != 0))

/-- A runnable context with work in a gated region is held, no longer brought in (R330), and told: a breach whose amount the spec does not
state (free). -/
def State.holdContext (s : State) (c : Nat) : State :=
  let s := (s.modCtx c fun k => { k with heldFrom := s.cst c, step := k.step.map fun x => { x with held := true } }).wr (PAR_CTX_CFG.state c) stHold
  let p := s.cpart c
  let s := if (s.part p).incoming = some c then
      (s.wr (PAR_PART_STATUS.evicting p) 0).modPart p fun q => { q with incoming := none } else s
  let r := s.free 32
  r.2.breach c 4 1 6 r.1

/-- The contexts of every partition with work in a region that are runnable are held (R330); the running one is saved first. -/
def State.holdRegion (s : State) (r : Nat) : State :=
  (List.range 32).foldl (fun s p =>
    if !s.built p then s
    else
      let mine := (s.partCtxs p).filter fun c => s.runnable c && s.workIn c (r / 6) (r % 6)
      let s := match s.running p with | some c => if mine.contains c then s.switchOut p else s | none => s
      mine.foldl State.holdContext s) s

/-- A region gated: 1 thermally, 3 idle (R397, R406). -/
def State.gateRegion (s : State) (how r : Nat) : State :=
  ((s.holdRegion r).wr (THM_REGION.gate_state (r / 6) (r % 6)) how).inc (THM_REGION_COUNTS.gate_events (r / 6) (r % 6)) 1

/-- Fault 0x3203 reports a region gated under R405. -/
def State.reportGated (s : State) (r : Nat) : State := s.fault 0x3203 0 3 (r / 6) none none []

/-- No region that holds a context's work is gated. -/
def State.ungatedFor (s : State) (c : Nat) : Bool :=
  (s.partTiles (s.cpart c)).all fun t => !(s.hasWork c t && s.gated (tileField t) (tileRow t))

/-- A region ungated (R320, R330, R407): the clearing that waited for it is done, and the contexts held for it alone return. -/
def State.ungateRegion (s : State) (r : Nat) : State :=
  let s := s.wr (THM_REGION.gate_state (r / 6) (r % 6)) 0
  let mine (e : Nat × Nat × Nat) : Bool := e.1 / 14 == r
  let s := (s.lateClears.filter mine).foldl (fun (s : State) (e : Nat × Nat × Nat) => s.clearShareIn [e.1] e.2.1 e.2.2) s
  let s := { s with lateClears := s.lateClears.filter fun e => !mine e,
                    pwr := { s.pwr with ungating := s.pwr.ungating.filter (· != r) } }
  let s := s.downlinkReleases (r / 6) (r % 6)
  (List.range 128).foldl (fun s c =>
    if s.cst c = stHold ∧ s.ungatedFor c then
      s.wr (PAR_CTX_CFG.state c) (if (s.ctx c).heldFrom = stRunning then stResident else (s.ctx c).heldFrom)
    else s) s

/-- The gating threshold in m°C: 3 °C lower while the junction offsets are defaults (Table 20-4). -/
def State.gateAt (s : State) : Nat :=
  1000 * (s.rd THM_CFG.gate_c - (if (s.calData 4).isNone then 3 else 0))

/-- Regions with their readings in the order of R405: hottest or coldest first, ascending among equals. -/
def orderRegions (hot : Bool) : List (Nat × Nat) → List (Nat × Nat)
  | [] => []
  | x :: l =>
    let rec ins : List (Nat × Nat) → List (Nat × Nat)
      | [] => [x]
      | y :: t => if (if hot then y.2 ≤ x.2 else x.2 ≤ y.2) then x :: y :: t else y :: ins t
    ins (orderRegions hot l)

def State.gateState (s : State) (r : Nat) : Nat := s.rd (THM_REGION.gate_state (r / 6) (r % 6))

/-- The regions that a boundary gates and ungates, chosen from the readings of the boundary before it (R405). -/
def State.toGate (s : State) : List Nat :=
  (orderRegions true (s.pwr.readings.filter fun e => decide (s.gateAt ≤ e.2) && s.gateState e.1 == 0)).take (s.rd THM_CFG.max_gate) |>.map (·.1)
def State.toUngate (s : State) : List Nat :=
  let limit := 1000 * (s.rd THM_CFG.gate_c - s.rd THM_CFG.hyst_c)
  (orderRegions false (s.pwr.readings.filter fun e =>
    decide (e.2 ≤ limit) && (s.gateState e.1 == 1 || s.gateState e.1 == 2))).take (s.rd THM_CFG.max_gate) |>.map (·.1)

/-- UNGATING_START: 20 µs before the boundary, a region that it ungates is brought to its operating voltage. -/
def State.ungatingStart (s : State) (r : Nat) : State :=
  if s.up && s.toUngate.contains r && !s.pwr.ungating.contains r then
    { s with hall := Max.max s.hall (s.tickStart s.time.nextTick - 20000), pwr := { s.pwr with ungating := s.pwr.ungating ++ [r] } }
  else s

def execUngatingStart (region : Nat) (s : State) : Result := .next (s.ungatingStart region)

/-- REGION_EMERGENCY (R408): the region is gated at once; the context running there is torn down, the others with work there are held. A
region already gated tears nothing down, and raises its fault again each time that it reaches 103 °C. -/
def State.regionEmergency (s : State) (r : Nat) : State :=
  let hot : Bool := match s.regionValue r with | some v => decide (103000 ≤ v) | none => false
  if !(s.powered && decide (r < 294) && hot) then s
  else
    let fd := r / 6
    let row := r % 6
    let before := s.gateState r
    let s := ((s.wr (THM_REGION.gate_state fd row) 2).wr (THM_REGION.emergency fd row) 1).inc (THM_REGION_COUNTS.emergencies fd row) 1
    let s := if before = 0 then s.inc (THM_REGION_COUNTS.gate_events fd row) 1 else s
    let s := { s.wr THM_STATUS.emergency 1 with pwr := { s.pwr with readings := s.pwr.readings.filter fun e => e.1 != r } }
    let s := s.fault 0x3204 1 3 fd none none []
    let s := if before ≠ 0 then s
      else
        let s := (List.range 32).foldl (fun s p => match s.running p with
          | some c => if s.built p && s.workIn c fd row then s.fault 0x3205 2 3 fd (some c) (some p) [] else s
          | none => s) s
        s.holdRegion r
    s.showGated

def execRegionEmergency (region : Nat) (s : State) : Result := .next (s.regionEmergency region)

/-- The rails of a field are on: from the end of P4 until the field is lost (R432, R446). -/
def State.fieldPowered (s : State) (f : Nat) : Bool :=
  decide (5 ≤ s.rd CAL_BRINGUP.stage) && decide (f < 49) && !s.rdBit FLT_STATE.fields_lost f

/-- The tiles of a field lose what they hold: their memories, their engine state and their registers. What the field's own registers and
the physical tiles' show afterwards the spec does not say: they stand, a BIST in progress included (DESIGN CHOICE, log 61). -/
def State.dropField (s : State) (f : Nat) : State :=
  let mine (i : Nat) : Bool := if i < 3528 then tileField i == f else (i - 3528) / 84 == f
  let s := s.clearMem fun a => match tileOfAddr a with | some (pt, _) => pt / 84 == f | none => false
  let s := { s with eng := Sparse.drop (fun k => tileField (k % 4096) == f) s.eng }
  (s.regs.filter fun e => addrSpace e.1 == 1 && mine (addrIndex e.1)).foldl
    (fun (s : State) (e : Nat × W64) => s.setReg e.1 (regReset e.1)) s

/-- FIELD_CONVERTER_FAILURE (R66): every rail of the field goes, and with it what its tiles hold, and a class 4 fault is raised, whose code
the spec does not state (free). -/
def State.converterFailure (s : State) (f : Nat) : State :=
  if s.fieldPowered f then
    let r := s.free 16
    ((r.2.fault r.1 4 3 f none none []).loseFields [f] r.1).dropField f
  else s

def execFieldConverterFailure (field : Nat) (s : State) : Result := .next (s.converterFailure field)

/-! ### Calibration envelopes (R439, R440) -/

/-- The load in %, the hottest region in °C and the input voltage in 0.1 V, from the sensor values of the ending tick. -/
def State.operating (s : State) : Nat × Nat × Nat :=
  ((s.filteredW * 100 / 56000).floor.toNat, s.rd THM_STATUS.hottest_c, (s.filteredMv / 100).floor.toNat)

/-- A record's envelope holds the operating point. -/
def inEnvelope (r : Bytes) (q : Nat × Nat × Nat) : Bool :=
  decide (leAt r 4 1 ≤ q.1) && decide (q.1 ≤ leAt r 5 1) && decide (leAt r 6 1 ≤ q.2.1) && decide (q.2.1 ≤ leAt r 7 1) &&
    decide (leAt r 8 2 ≤ q.2.2) && decide (q.2.2 ≤ leAt r 10 2)

/-- Every record tested against its envelope. -/
def State.testEnvelopes (s : State) : State :=
  let q := s.operating
  let s := s.cal.records.foldl (fun (s : State) (r : Bytes) =>
    let k := recKind r
    if !recValid r then s
    else if inEnvelope r q then s.wrBit CAL_ENV.outside (k - 1) false
    else if s.calOutside k then s
    else (s.wrBit CAL_ENV.outside (k - 1) true).fault 0x3404 0 0 0 none none []) s
  s.wr PWR_STATUS.cal_envelope (bit (s.calOutside 1))

/-- A learned coefficient kept within 0.80 and 1.25 of its factory value. -/
def clampCoef (f c : Rat) : Rat := Max.max (f * 80 / 100) (Min.min (f * 125 / 100) c)

/-- The input power that factors and port traffic predict under coefficients (Table 18-3). -/
def predictW (c : Rat × Rat × Rat × Rat) (x : Rat × Rat × Rat) (traffic : Rat) : Rat :=
  (c.1 * x.1 + c.2.1 * x.2.1 + c.2.2.1 * x.2.2 + c.2.2.2 * traffic) / (92 / 100)

def widen (r : Nat × Nat) (v : Nat) : Nat × Nat := (Min.min r.1 v, Max.max r.2 v)

/-- The governor relearns a, s and l while kind 0x01 lies outside its envelope; what it learned is lost when it returns within. -/
def State.learnStep (s : State) : State :=
  if !s.calOutside 1 then { s with cal := { s.cal with learn := none } }.showCal
  else
    let q := s.operating
    let d := s.defaultCoefs
    let f := s.factoryCoefs
    let x := s.pwr.factors
    let old := s.cal.learn.getD ⟨d.1, d.2.1, d.2.2.1, (q.1, q.1), (q.2.1, q.2.1), (q.2.2, q.2.2)⟩
    let e := s.filteredW - predictW (old.a, old.s, old.l, d.2.2.2) x s.pwr.traffic
    let norm := x.1 * x.1 + x.2.1 * x.2.1 + x.2.2 * x.2.2
    let up (fc c xi : Rat) : Rat := if norm = 0 then c else clampCoef fc (c + (92 / 100) / 32 * e * xi / norm)
    let new : Learn := {
      a := up f.1 old.a x.1, s := up f.2.1 old.s x.2.1, l := up f.2.2.1 old.l x.2.2,
      load := widen old.load q.1, tj := widen old.tj q.2.1, vin := widen old.vin q.2.2 }
    ({ s with cal := { s.cal with learn := some new } }.showCal).inc CAL_LEARN1.updates 1

/-! ### The governor (R393 to R396) -/

/-- The tiles of a region that a partition covers. -/
def State.coverCount (s : State) (p r : Nat) : Nat :=
  let x := r / 6 % 7 * 12
  let y := r / 42 * 6 + r % 6
  let x0 := s.rd (PAR_PART_CFG.x0 p)
  let y0 := s.rd (PAR_PART_CFG.y0 p)
  if y0 ≤ y ∧ y < y0 + s.rd (PAR_PART_CFG.height p) then
    Min.min (x + 12) (x0 + s.rd (PAR_PART_CFG.width p)) - Max.max x x0
  else 0

/-- The built partitions in a region, with the tiles each covers, for every region that is not gated. -/
def State.coverage (s : State) : List (Nat × List (Nat × Nat)) :=
  let built := (List.range 32).filter s.built
  ((List.range 294).filter fun r => s.gateState r == 0).map fun r =>
    (r, (built.map fun p => (p, s.coverCount p r)).filter fun e => e.2 != 0)

/-- The clock of a partition in a table of clocks; 1,200 MHz where it lists none. -/
def clockOf (clocks : List (Nat × Nat)) (p : Nat) : Nat := ((clocks.find? fun e => e.1 == p).map (·.2)).getD 1200

/-- A region's set point in mV (R393). -/
def State.setPoint (s : State) (clocks : List (Nat × Nat)) (r : Nat) (parts : List (Nat × Nat)) : Int :=
  let f := parts.foldl (fun m e => Max.max m (clockOf clocks e.1)) 1200
  620 + 13 * ((f - 1200) / 50 : Nat) + s.calInt8 2 r 20

/-- The scaling factors x_a, x_s and x_l of Table 18-3 (1 at the dense all-tile peak). -/
def State.scaling (s : State) (cover : List (Nat × List (Nat × Nat))) (clocks : List (Nat × Nat)) (act : Nat → Rat) : Rat × Rat × Rat :=
  cover.foldl (fun (x : Rat × Rat × Rat) (e : Nat × List (Nat × Nat)) =>
    let v : Rat := (s.setPoint clocks e.1 e.2 : Rat) / 750
    let w := e.2.foldl (fun (n : Rat) q => n + q.2 * act q.1 * clockOf clocks q.1 / 1700) 0 / 3528
    (x.1 + w * v * v, x.2.1 + w, x.2.2 + 12 * v / 3528)) (0, 0, 0)

/-- The declared minimum clock of a partition's next context (Table 9-10). -/
def State.minClock (s : State) (next : Option Nat) : Nat :=
  match next.bind fun c => (s.ctx c).program with | some g => g.minClock | none => 1200

/-- A table of clocks with one changed. -/
def setClock (clocks : List (Nat × Nat)) (p f : Nat) : List (Nat × Nat) := clocks.map fun e => if e.1 = p then (p, f) else e

/-- A partition's clock raised step by step while the prediction keeps to the budget. -/
def raiseClock (ok : List (Nat × Nat) → Bool) (p : Nat) : Nat → List (Nat × Nat) → List (Nat × Nat)
  | 0, clocks => clocks
  | n + 1, clocks =>
    let f := clockOf clocks p + 50
    let new := setClock clocks p f
    if f ≤ 1700 ∧ ok new then raiseClock ok p n new else clocks

/-- A partition's clock lowered step by step, not below a floor, while the prediction exceeds the budget. -/
def lowerClock (ok : List (Nat × Nat) → Bool) (p floor : Nat) : Nat → List (Nat × Nat) → List (Nat × Nat)
  | 0, clocks => clocks
  | n + 1, clocks =>
    if !ok clocks ∧ floor ≤ clockOf clocks p - 50 ∧ 50 ≤ clockOf clocks p then
      lowerClock ok p floor n (setClock clocks p (clockOf clocks p - 50))
    else clocks

/-- Partitions in raising order: priority 0 first, then lower number. -/
def State.raisingOrder (s : State) : List Nat :=
  (List.range 8).flatMap fun k => (List.range 32).filter fun p => s.built p && s.rd (PAR_PART_CFG.priority p) == k

/-- The activity of a partition (R394): that of its next context over the last tick it ran, which its counters give in a way the spec
does not state (free, 0 to 1); full for a context with no history, none with no context. -/
def State.activities (s : State) (next : Nat → Option Nat) : List (Nat × Rat) × State :=
  ((List.range 32).filter s.built).foldl (fun (r : List (Nat × Rat) × State) p => match next p with
    | none => (r.1 ++ [(p, 0)], r.2)
    | some c => if (s.ctx c).ran then let f := r.2.free 16; (r.1 ++ [(p, (f.1 : Rat) / 65535)], f.2) else (r.1 ++ [(p, 1)], r.2)) ([], s)

/-- The port traffic that the rim's power scales with, 1 at the reference point of Table 18-3; the spec does not say how it is measured
(free, 0 to 1; log 18). A module with no fabric port UP has none. -/
def State.portTraffic (s : State) : Rat × State :=
  if (List.range 64).any s.portUp then let f := s.free 16; ((f.1 : Rat) / 65535, f.2) else (0, s)

/-- The breach of R396 for a partition whose clock lies below its next context's minimum. -/
def State.clockBreach (s : State) (p old oldMin : Nat) (next : Option Nat) : State :=
  let f := s.rd (PWR_PART_CLK.clock_mhz p)
  let m := s.rd (PWR_PART_CLK.min_clock_mhz p)
  let prev := (s.part p).nextCtx
  let s := s.modPart p fun q => { q with nextCtx := next }
  match next with
  | some c => if f < m ∧ (f < old ∨ next ≠ prev ∨ oldMin ≤ old ∨ oldMin < m) then s.breach c 5 1 5 ((m - f + 49) / 50) else s
  | none => s

/-- The governor at action 3; `next` gives the context that will run in each partition during the next tick. -/
def State.govern (s : State) (next : Nat → Option Nat) : State :=
  let s := s.learnStep
  let cover := s.coverage
  let a := s.activities next
  let tr := a.2.portTraffic
  let s := tr.2
  let act (p : Nat) : Rat := ((a.1.find? fun e => e.1 == p).map (·.2)).getD 0
  let coefs := s.coefs
  let predict (clocks : List (Nat × Nat)) : Rat := predictW coefs (s.scaling cover clocks act) tr.1
  let budget : Rat := (s.rd PWR_CFG.cap_w * (100 - s.rd PWR_CFG.margin_pct) : Nat) / 100
  let ok (clocks : List (Nat × Nat)) : Bool := decide (predict clocks ≤ budget)
  let order := s.raisingOrder
  let start := order.map fun p => (p, s.rd (PWR_PART_CLK.clock_mhz p))
  let raised := if s.pwr.limited then start else order.foldl (fun cl p => raiseClock ok p (s.rd PWR_CFG.raise_steps) cl) start
  let lower (floor : Nat → Nat) (cl : List (Nat × Nat)) : List (Nat × Nat) :=
    order.reverse.foldl (fun cl p => lowerClock ok p (floor p) 10 cl) cl
  let clocks := lower (fun _ => 1200) (lower (fun p => s.minClock (next p)) raised)
  let s := { s.wr PWR_STATUS.predicted_w (Min.min (predict clocks + 1 / 2).floor.toNat 65535) with
    pwr := { s.pwr with factors := s.scaling cover clocks act, traffic := tr.1, limited := s.rd PWR_STATUS.limiter_level != 0 } }
  let s := clocks.foldl (fun (s : State) (e : Nat × Nat) =>
    let p := e.1
    let old := s.rd (PWR_PART_CLK.clock_mhz p)
    let oldMin := s.rd (PWR_PART_CLK.min_clock_mhz p)
    let m := s.minClock (next p)
    let s := ((s.wr (PWR_PART_CLK.clock_mhz p) e.2).wr (PWR_PART_CLK.min_clock_mhz p) m).wr (PWR_PART_CLK.below_min p) (bit (decide (e.2 < m)))
    let s := if old ≠ e.2 then s.inc PWR_COUNTS.clock_changes 1 else s
    s.clockBreach p old oldMin (next p)) s
  (List.range 32).foldl (fun s p => if s.built p then s else s.setReg (PWR_PART_CLK p) (regReset (PWR_PART_CLK p))) s

/-! ### Commands (R398, R411) -/

/-- POWER_CAP_SET: the cap takes effect at action 3 of its boundary. -/
def fwPowerCapSet (h : Hdr) (capW : Nat) : Fw :=
  ⟨0x0B01, h.length == 8, .none, fun _ => if capW < 10000 ∨ 56000 < capW then 0x0104 else 0,
    fun s => s.stage h 0x0B01 (.powerCapSet h capW), fun _ s => s⟩

def execPowerCapSet (h : Hdr) (capW : Nat) (s : State) : Result :=
  .next (s.fwCommand h (fwPowerCapSet h capW) (.powerCapSet h capW))

def State.applyCap (s : State) (h : Hdr) (w : Nat) : State := (s.wr PWR_CFG.cap_w w).reply h 0x0B01 0

/-- The hottest and the coolest region in m°C, of those with a value. -/
def State.extremes (s : State) : Int × Int :=
  ((List.range 294).filterMap s.regionValue).foldl (fun (m : Option (Int × Int)) v => some (match m with
    | some x => (Max.max x.1 v, Min.min x.2 v) | none => (v, v))) none |>.getD (0, 0)

/-- The sensor-read reply (Table 18-8). -/
def State.sensorReport (s : State) : Bytes :=
  let four (k : SensorKind) (i : Nat) : Bytes := leB 4 (twos 32 ((s.sensed k i).getD 0))
  let x := s.extremes
  (List.range 4).flatMap (four .entryVoltage) ++ (List.range 4).flatMap (four .entryCurrent) ++
    leB 4 (s.rd PWR_STANDBY.voltage_mv) ++ leB 4 (s.rd PWR_STANDBY.current_ma) ++ leB 4 s.filteredW.floor.toNat ++
    leB 4 (s.rd PWR_CFG.cap_w) ++ (List.range 4).flatMap (four .coolantTemp) ++ (List.range 2).flatMap (four .coolantDp) ++
    leB 4 (twos 32 x.1) ++ leB 4 (twos 32 x.2) ++ (List.range 12).flatMap (fun k => leB 1 (s.rd (STK_STATUS.temp_c k))) ++ leB 4 0 ++
    leB 8 s.hall ++ leB 8 0

def fwSensorRead (h : Hdr) : Fw :=
  ⟨0x0802, h.length == 0, .none, fun _ => 0,
    fun s => s.reply h 0x0802 0 s.sensorReport, fun _ s => s⟩

def execSensorRead (h : Hdr) (s : State) : Result :=
  .next (s.fwCommand h (fwSensorRead h) (.sensorRead h))

/-- A bitmap of the regions that `p` picks: 37 bytes. -/
def regionBits (p : Nat → Bool) : Bytes :=
  (List.range 37).map fun i => BitVec.ofNat 8 ((List.range 8).foldl (fun v j => v + bit (decide (8 * i + j < 294) && p (8 * i + j)) * 2 ^ j) 0)

/-- The thermal-status reply (Table 18-9). -/
def State.thermalReport (s : State) : Bytes :=
  let temp (r : Nat) : Nat :=
    if 13 ≤ ((regionTiles r).filter fun t => (s.sensor .junction t).faulted).length then 0xFF else s.rd (THM_REGION.temp_c (r / 6) (r % 6))
  leB 8 s.hall ++ (List.range 294).flatMap (fun r => leB 1 (temp r)) ++ regionBits (fun r => s.gateState r != 0) ++
    regionBits fun r => s.gateState r == 2

def fwThermalStatus (h : Hdr) : Fw :=
  ⟨0x0B02, h.length == 0, .none, fun _ => 0,
    fun s => s.reply h 0x0B02 0 s.thermalReport, fun _ s => s⟩

def execThermalStatus (h : Hdr) (s : State) : Result :=
  .next (s.fwCommand h (fwThermalStatus h) (.thermalStatus h))

end Sys2Proof.Machine
end

