-- ==== Sys2Proof/Machine/Runtime.lean ====
section
/-! DEFINITION. The commands that the runtime firmware holds (R348): its reply, and its time-out. -/

namespace Sys2Proof.Machine

/-- What the runtime firmware does with a command, for the commands it executes (Table 16-3, column By: F), its
header taken through `g`. -/
def fwAs (g : Hdr → Hdr) : Instr → Option Fw
  | .calibrationRead h kind => some (fwCalibrationRead (g h) kind)
  | .calibrationWrite h record => some (fwCalibrationWrite (g h) record)
  | .calibrationCommit h => some (fwCalibrationCommit (g h))
  | .calibrationRestore h offset total data => some (fwCalibrationRestore (g h) offset total data)
  | .streamOpen h req => some (fwStreamOpen (g h) req)
  | .jobStartArm h bellwether areaBase areaUnits commitTimeoutS => some (fwJobStartArm (g h) bellwether areaBase areaUnits commitTimeoutS)
  | .jobStartBroadcast h rosterAddr members blobAddr blobLen => some (fwJobStartBroadcast (g h) rosterAddr members blobAddr blobLen)
  | .jobStartStatus h rosterDigest => some (fwJobStartStatus (g h) rosterDigest)
  | .partitionBuild h x0 y0 w ht prio stackMask slabBase slabCount creditPool => some (fwPartitionBuild (g h) x0 y0 w ht prio stackMask slabBase slabCount creditPool)
  | .partitionDissolve h => some (fwPartitionDissolve (g h))
  | .partitionRelocate h x0 y0 => some (fwPartitionRelocate (g h) x0 y0)
  | .contextCreate h slot role shareBase shareLines exclusive baseSeed creditFloor evictAddr latencyTarget reportEn => some (fwContextCreate (g h) slot role shareBase shareLines exclusive baseSeed creditFloor evictAddr latencyTarget reportEn)
  | .contextDestroy h => some (fwContextDestroy (g h))
  | .powerCapSet h capW => some (fwPowerCapSet (g h) capW)
  | .sensorRead h => some (fwSensorRead (g h))
  | .thermalStatus h => some (fwThermalStatus (g h))
  | .programOpen h len digest => some (fwProgramOpen (g h) len digest)
  | .programCommit h => some (fwProgramCommit (g h))
  | .traceEnable h base k => some (fwTraceEnable (g h) base k)
  | .rosterTree h descriptor => some (fwRosterTree (g h) descriptor)
  | .inputLogConfigure h base depth entryUnits inputAddr inWin keep => some (fwInputLogConfigure (g h) base depth entryUnits inputAddr inWin keep)
  | .inputLogRead h step source offset => some (fwInputLogRead (g h) step source offset)
  | .inputLogLoad h offset total data => some (fwInputLogLoad (g h) offset total data)
  | .mirrorConfigure h handle => some (fwMirrorConfigure (g h) handle)
  | .mirrorAccept h handle base depth entryUnits => some (fwMirrorAccept (g h) handle base depth entryUnits)
  | .measurementRead h => some (fwMeasurementRead (g h))
  | .measurementExtend h slot value => some (fwMeasurementExtend (g h) slot value)
  | .certificateRead h which offset => some (fwCertificateRead (g h) which offset)
  | .attestationQuote h nonce ctx session => some (fwAttestationQuote (g h) nonce ctx session (some h))
  | .quoteRead h id offset => some (fwQuoteRead (g h) id offset)
  | .sessionEstablishKey h => some (fwSessionEstablishKey (g h))
  | .sessionEstablishCiphertext h session bind ciphertext => some (fwSessionEstablishCiphertext (g h) session bind ciphertext)
  | .streamKeySet h session slot salt direction => some (fwStreamKeySet (g h) session slot salt direction)
  | .debugUnlockChallenge h level => some (fwDebugUnlockChallenge (g h) level)
  | .debugUnlockResponse h offset total data => some (fwDebugUnlockResponse (g h) offset total data)
  | .keyEnrolment h offset total data fuseOk => some (fwKeyEnrolment (g h) offset total data fuseOk)
  | .firmwareUpdateInstall h target addr len => some (fwFirmwareUpdateInstall (g h) target addr len)
  | .firmwareUpdateStage h addr offset total data => some (fwFirmwareUpdateStage (g h) addr offset total data)
  | .firmwareUpdateFloor h target fuseOk => some (fwFirmwareUpdateFloor (g h) target fuseOk)
  | .servingConfigure h values => some (fwServingConfigure (g h) values)
  | .ringConfigure h ring k base => some (fwRingConfigure (g h) ring k base)
  | .storageConnect h req => some (fwStorageConnect (g h) req)
  | .storageDisconnect h controller => some (fwStorageDisconnect (g h) controller)
  | .storageRead h req => some (fwStorageRead (g h) req)
  | .weightSetOpen h req => some (fwWeightSetOpen (g h) req)
  | .weightSetRelease h slot force => some (fwWeightSetRelease (g h) slot force)
  | .weightSetDigest h slot shard => some (fwWeightSetDigest (g h) slot shard)
  | .adapterLoad h entry rank scale tag shards stream => some (fwAdapterLoad (g h) entry rank scale tag shards stream)
  | .adapterDrop h entry => some (fwAdapterDrop (g h) entry)
  | _ => none

/-- What a held command has put on the boundary queue takes effect at the boundary that its acceptance gave it, or at the next where
that one has passed (R43). -/
def State.keepDue (s : State) (r : RtCmd) (h : Hdr) : State :=
  { s with cmd := { s.cmd with
    staged := s.cmd.staged.map fun (q : Staged) => if q.hdr = h ∧ q.op = r.op then { q with wait := r.due - s.time.nextTick } else q } }

/-- The firmware carries out a command it holds: its checks are made against the state then in force. -/
def State.carryOut (s : State) (r : RtCmd) (g : Hdr → Hdr) : State :=
  match fwAs g r.cmd with
  | some f => let st := f.check s; if st ≠ 0 then (f.onRefusal st s).reply (g r.hdr) r.op st else (f.act s).keepDue r (g r.hdr)
  | none => s

/-- A held command by its channel and tag. -/
def State.held? (s : State) (ch tag : Nat) : Option RtCmd := s.cmd.runtime.find? fun r => r.hdr.channel == ch && r.hdr.tag == tag

/-- The firmware holds a command no more. -/
def State.dropHeld (s : State) (ch tag : Nat) : State :=
  { s with cmd := { s.cmd with runtime := s.cmd.runtime.filter fun r => !(r.hdr.channel == ch && r.hdr.tag == tag) } }

/-- A held command comes through the crossing it takes: that is open, and no command stands before it there (R232, R235 to R237). -/
def State.comesThrough (s : State) (r : RtCmd) : Bool :=
  s.reaches r.op && (match fwCrossing r.op with
    | some c => s.cmd.runtime.find? (fun q => fwCrossing q.op == some c) == some r
    | none => true)

/-- RUNTIME_REPLY: the engine relays the reply, with the command's effect. A command whose deadline has passed meanwhile completes with
0x0502 and has none (R344). A reply that comes after the time-out finds no command. While the firmware is down it replies to nothing. -/
def State.runtimeReply (s : State) (ch tag : Nat) : State :=
  if !s.up || !s.on CMD_STATUS.runtime_up then s
  else match s.held? ch tag with
    | none => s
    | some r =>
      if !s.comesThrough r then s
      else
      let s := s.dropHeld ch tag
      if r.hdr.deadlineEn ∧ r.hdr.deadline < s.hall then s.reply r.hdr r.op 0x0502
      else s.carryOut r id

def execRuntimeReply (channel tag : Nat) (s : State) : Result := .next (s.runtimeReply channel tag)

/-- The header of a command that has completed without the firmware's reply: no command outstanding has its tag, a 32-bit number (Table 16-1),
so that every reply to it, at once or later, is discarded (R348). -/
def unanswerable (h : Hdr) : Hdr := { h with tag := h.tag + 2 ^ 32 }

/-- FW_TIMEOUT: fw_timeout ms have passed without a reply, and the command completes with 0x0503. Whether the firmware still carries it out
is unknown (free) where it reaches what does; its own replies are discarded. -/
def State.fwTimeout (s : State) (ch tag : Nat) : State :=
  if !s.up then s
  else match s.held? ch tag with
    | none => s
    | some r =>
      let through := s.comesThrough r
      let s := { s with hall := Max.max s.hall (r.since + s.rd CMD_CFG.fw_timeout * 1000000) }
      let s := (s.dropHeld ch tag).reply r.hdr r.op 0x0503
      let q := s.free 1
      if q.1 = 1 ∧ through = true then q.2.carryOut r unanswerable else q.2

def execFwTimeout (channel tag : Nat) (s : State) : Result := .next (s.fwTimeout channel tag)

/-- A command that has not taken effect and waits for no boundary, with its opcode and the state without it: one that waits for the runtime
firmware, a build, a controller's reads, or the signature of its quote. -/
def State.waitingFor (s : State) (p : Hdr → Bool) : Option (Nat × Hdr × State) :=
  ((s.cmd.runtime.find? fun r => p r.hdr).map fun r => (r.op, r.hdr, { s with cmd := { s.cmd with runtime := s.cmd.runtime.filter fun q => q != r } })) <|>
  ((s.wgt.builds.findSome? fun b => b.waiting.bind fun w => if p w.2 then some w else none).map fun w => (w.1, w.2, s.undoWait w)) <|>
  ((s.wgt.ctrls.findSome? fun x => x.leaving.bind fun h => if p h then some (x, h) else none).map fun x =>
    (0x040A, x.2, s.setController { x.1 with leaving := none })) <|>
  ((s.sec.waiting.find? fun q => p q.hdr).map fun q =>
    (0x0902, q.hdr, { s with sec := { s.sec with waiting := s.sec.waiting.filter fun y => y != q } }))

/-- COMMAND_DEADLINE_EXPIRY (R344): a command whose deadline passes before it takes effect completes with 0x0502 and has
no effect. A command on the boundary queue is judged at its boundary instead; one
already in effect is left alone. -/
def State.deadlineExpiry (s : State) (ch tag : Nat) : State :=
  match s.waitingFor fun h => h.channel == ch && h.tag == tag && h.deadlineEn with
  | some (op, h, t) => t.expire h op
  | none => s

def execCommandDeadlineExpiry (channel tag : Nat) (s : State) : Result := .next (s.deadlineExpiry channel tag)

end Sys2Proof.Machine
end

