-- ==== Sys2Proof/Machine/Boundary.lean ====
section
/-! DEFINITION. The tick boundary (R43 to R46, Table 2-4): its ten actions in order, and the drove prepared before it (R307). -/

namespace Sys2Proof.Machine

/-! ### The commands due -/

/-- The due commands that `pick` admits, each taken off the boundary queue and acted on, in order of acceptance (R345). -/
def State.runDue (s : State) (pick : State → Staged → Bool) (act : State → Staged → State) : State :=
  (s.cmd.staged.filter fun q => q.wait == 0).foldl (fun (s : State) (q : Staged) =>
    if s.cmd.staged.contains q && pick s q then act { s with cmd := { s.cmd with staged := s.cmd.staged.erase q } } q else s) s

/-- A tick-set command in effective-tick mode waits for its tick; every other due command is due at the present boundary. -/
def State.dueNow (s : State) (q : Staged) : Bool :=
  q.wait == 0 && (match q.cmd with | .tickSetEffective _ k _ => decide (k ≤ s.tick) | _ => true)

/-- A due command whose deadline has passed completes with 0x0502, and what it set at acceptance is undone (R344). -/
def State.expireStaged (s : State) (q : Staged) : State :=
  let c := q.hdr.context
  let s := match q.cmd with
    | .partitionBuild h .. => s.wr (PAR_PART_CFG.state h.partition) 0
    | .weightSetSwitch .. => s.noSwitch c
    | .trainingStep _ r => s.modCtx c fun k => { k with copies := k.copies.filter (· != r.step) }
    | .sequenceAdmit .. => s.inc (SEQ_COUNTS2.refused c) 1
    | _ => s
  s.reply q.hdr q.op 0x0502

def State.expireDue (s : State) : State :=
  s.runDue (fun s q => s.dueNow q && q.hdr.deadlineEn && decide (q.hdr.deadline < s.tickStart s.tick)) State.expireStaged

/-- The partition whose running context is in a serving step that the boundary finds unfinished (R46). -/
def State.holds (s : State) (p : Nat) : Bool :=
  match s.running p with
  | some c => (match (s.ctx c).step with | some r => !r.training | none => false)
  | none => false

/-- A context is in a serving step, running or switched out. -/
def State.midServe (s : State) (c : Nat) : Bool := match (s.ctx c).step with | some r => !r.training | none => false

/-! ### Action 1: the end of a context (R320, R347, R451) -/

/-- The commands that act on a context (checks 6 and 7 of Table 16-2). -/
def ctxScope (op : Nat) : Bool :=
  [3, 5, 6, 10, 12].contains (op / 256) || (op / 256 == 4 && decide (op < 0x0409)) || [0x0205, 0x0209, 0x0903, 0x0904].contains op

/-- The commands of a context that await their final reply complete with 0x0702, but the one that destroys it. -/
def State.dropCommands (s : State) (c : Nat) (keep : Option Hdr) : State :=
  let mine (op : Nat) (ctx : Nat) : Bool := ctx == c && ctxScope op
  let kept (ch tag : Nat) : Bool := match keep with | some h => h.channel == ch && h.tag == tag | none => false
  let s := (List.range 8).foldl (fun s ch =>
    ((s.chan ch).outst.filter fun o => mine o.op o.context && !kept ch o.tag).foldl (fun (s : State) (o : Outst) =>
      (if o.op = 0x0501 then s.inc (SEQ_COUNTS2.refused c) 1 else s).completeBy
        ⟨ch, o.tag, o.partition, o.context, 0, false, 0, false, true⟩ o.op 0x0702) s) s
  { s with cmd := {
      s.cmd with
      staged := s.cmd.staged.filter fun q => !mine q.op q.hdr.context,
      runtime := s.cmd.runtime.filter fun q => !mine q.op q.hdr.context } }

/-- A context's sequences, weight sets, adapters and storage reads end. -/
def State.dropServing (s : State) (c : Nat) : State :=
  let s := (s.seqsOf c).foldl (fun s e => s.retire e.1 5) s
  let s := (s.emptySlot c 0).emptySlot c 1
  let s := (s.noSwitch c).modCtx c fun _ => {}
  let s := { s with
    wgt := {
      s.wgt with
      builds := s.wgt.builds.filter fun b => b.ctx != c,
      ctrls := s.wgt.ctrls.map fun (k : Controller) => { k with jobs := k.jobs.filter fun j => j.hdr.context != c } },
    rings := s.rings.filter fun r => r.ctx != c,
    fab := { s.fab with members := s.fab.members.filter fun m => m.ctx != c, leads := s.fab.leads.filter fun l => l.hdr.context != c } }
  (List.range 8).foldl State.leaveController s.showAdapters

/-- The registers that show what a context was configured with, and what it waited for, are cleared (log 42). -/
def State.dropConfig (s : State) (c : Nat) : State :=
  let s := (confRegs c).flatten.foldl (fun s f => s.wr f 0) (s.wr (SEQ_CFG.serving c) 0)
  let s := (s.wr (SEQ_STATUS.lanes c) 0).showSeq c
  let s := (s.wr (RED_STATUS.verdict_wait c) 0).wr (RED_STATUS.consecutive_voids c) 0
  ((s.setReg (FLT_CTX_ILOG_BASE c) 0).setReg (FLT_CTX_ILOG_CFG c) 0).setReg (FLT_CTX_ILOG_WIN c) 0

/-- A context ends and becomes FREE: its share is cleared, but where it overlaps the share of a context that is not FREE; the exclusive
context's is cleared while the shares it overlaps lie in the stacks (R320). Its credits and area return. -/
def State.endContext (s : State) (c : Nat) (keep : Option Hdr) : State :=
  let p := s.cpart c
  let s := s.abandon c
  let clash := (s.partCtxs p).any fun d =>
    d != c && s.sharesOverlap c d && (!s.on (PAR_CTX_CFG.exclusive c) || s.inTiles d)
  let s := if clash then { s with eng := Sparse.drop (fun k => k / 4096 == c) s.eng } else s.clearShare c
  let s := ((s.dropServing c).dropConfig c).dropCommands c keep
  let s := s.dec (PAR_PART_CREDITS.floor_sum p) (s.rd (PAR_CTX_CREDIT.floor c))
  let s := ((s.setReg (PAR_CTX_CFG c) 0).setReg (PAR_CTX_CREDIT c) 0).endSecurity c
  s.wr (PAR_PART_CFG.contexts p) (s.partCtxs p).length

/-- A teardown completes (R451). -/
def State.completeTeardown (s : State) (c : Nat) : State := (s.endContext c none).wr (FLT_CTX_STATUS.torn_down c) 1

/-- CONTEXT_DESTROY at action 1: a context that runs, or is being brought in, leaves the partition's tiles first. -/
def State.applyDestroy (s : State) (h : Hdr) : State :=
  let c := h.context
  let p := s.cpart c
  let s := if s.running p = some c then
      ((s.wr (PAR_PART_STATUS.running_valid p) 0).wr (PAR_PART_STATUS.running p) 0).dropLines p else s
  let s := if (s.part p).incoming = some c then
      (s.wr (PAR_PART_STATUS.evicting p) 0).modPart p fun q => { q with incoming := none } else s
  (s.endContext c (some h)).reply h 0x0205 0

def State.action1 (s : State) (held : List Nat) : State :=
  let s := (List.range 128).foldl (fun s c => if s.cst c = stTeardown then s.completeTeardown c else s) s
  s.runDue (fun _ q => q.op == 0x0205 && !held.contains q.hdr.partition) fun s q => s.applyDestroy q.hdr

/-! ### Action 2: gating (R330, R397, R405 to R407) -/

/-- The rectangles that partition builds and relocations due at this boundary cover. -/
def State.comingRects (s : State) (held : List Nat) : List (Nat × Nat × Nat × Nat) :=
  (s.cmd.staged.filter fun q => q.wait == 0 && !held.contains q.hdr.partition).filterMap fun (q : Staged) => match q.cmd with
    | .partitionBuild _ x0 y0 w h .. => some (x0, y0, w, h)
    | .partitionRelocate g x0 y0 => some (x0, y0, s.rd (PAR_PART_CFG.width g.partition), s.rd (PAR_PART_CFG.height g.partition))
    | _ => none

/-- A region meets a rectangle. -/
def meetsRegion (r : Nat) (q : Nat × Nat × Nat × Nat) : Bool :=
  let x := r / 6 % 7 * 12
  let y := r / 42 * 6 + r % 6
  decide (x < q.1 + q.2.2.1) && decide (q.1 < x + 12) && decide (q.2.1 ≤ y) && decide (y < q.2.1 + q.2.2.2)

/-- A region has a logical position in a partition. -/
def State.regionUsed (s : State) (r : Nat) : Bool :=
  (List.range 32).any fun p => s.built p && (decide (0 < s.coverCount p r) || (match (s.part p).target with
    | some (x, y) => meetsRegion r (x, y, s.rd (PAR_PART_CFG.width p), s.rd (PAR_PART_CFG.height p))
    | none => false))

/-- A drove prepared for a context that gating holds is discarded (R307). -/
def State.dropHeldDroves (s : State) : State :=
  (List.range 128).foldl (fun s c =>
    if s.cst c = stHold ∧ (s.ctx c).drove.isSome then s.modCtx c fun k => { k with drove := none } else s) s

/-- Gating (R330). A region under an unfinished serving step is gated at this boundary all the same, and the running context is saved in mid step:
R46 moves the actions that are due for the partition, and the model does not count the gating of a region among them (DESIGN CHOICE, log 47). -/
def State.action2 (s : State) (held : List Nat) : State :=
  let cold := s.toUngate
  let coming := s.comingRects held
  let idle (r : Nat) : Bool := s.on PWR_CFG.idle_gate && !s.regionUsed r && !coming.any (meetsRegion r)
  let s := ((List.range 294).filter fun r => s.gateState r == 3 && !idle r).foldl State.ungateRegion s
  let hot := s.toGate
  let sleep := (List.range 294).filter fun r => s.gateState r == 0 && idle r && !hot.contains r
  let s := hot.foldl (State.gateRegion · 1) (cold.foldl State.ungateRegion s)
  (hot.foldl State.reportGated (sleep.foldl (State.gateRegion · 3) s)).dropHeldDroves.showGated

/-! ### Action 4: partitions and spare substitution (R60, R61, R315, R316, R331, R454) -/

/-- The logical tiles of a physical row. -/
def rowTiles (fd r : Nat) : List Nat := (List.range 12).map fun c => tileAt (fd % 7 * 12 + c) (fd / 7 * 6 + r)

/-- A context is active on a row: in a partition that covers a position of it, and not passed over (R60, R454). -/
def State.rowActive (s : State) (fd r : Nat) : Bool :=
  (List.range 32).any fun p => s.built p && (rowTiles fd r).any (s.covers p) &&
    (s.partCtxs p).any fun c => !s.on (FLT_CTX_STATUS.blocked c)

/-- The index under which a row's physical tile keeps its registers when the active skips are `f` and `b`: that of the logical tile it
serves, or, skipped, one beyond the logical tiles, which no address reaches. -/
def rowIndex (fd r f b pt : Nat) : Nat :=
  ((rowTiles fd r).find? fun t => physIdx fd r (physCol f b (tileCol t)) == pt).getD (3528 + pt)

/-- The registers of a row's tiles follow the tiles from the skips `f`, `b` to those in force, so that a logical address reaches the tile
that now serves it (R10). -/
def State.moveRow (s : State) (fd r f b : Nat) : State :=
  let moves := ((List.range 14).map fun pc => (rowIndex fd r f b (physIdx fd r pc),
    rowIndex fd r (s.rd (TIL_ROW_MAP.active_f_skip fd r)) (s.rd (TIL_ROW_MAP.active_b_skip fd r)) (physIdx fd r pc))).filter
      fun m => m.1 != m.2
  let mine := s.regs.filterMap fun e => if addrSpace e.1 = 1 then
      (moves.find? fun m => m.1 == addrIndex e.1).map fun m => (e, m.2) else none
  let s := mine.foldl (fun (s : State) (q : (Nat × W64) × Nat) => s.setReg q.1.1 (regReset q.1.1)) s
  mine.foldl (fun (s : State) (q : (Nat × W64) × Nat) => s.setReg (tileReg q.2 (addrOffset q.1.1)) q.1.2.toNat) s

/-- ROW_MAP_APPLY: the staged skips of a row become active, the tiles whose position changes are cleared, their registers follow them, and
a context whose share stood there becomes RELOAD. -/
def State.applyRowMap (s : State) (fd r : Nat) : State :=
  let tiles := rowTiles fd r
  let f := s.rd (TIL_ROW_MAP.active_f_skip fd r)
  let b := s.rd (TIL_ROW_MAP.active_b_skip fd r)
  let moved := tiles.filter fun t =>
    s.phys t % 14 != physCol (s.rd (TIL_ROW_MAP.staged_f_skip fd r)) (s.rd (TIL_ROW_MAP.staged_b_skip fd r)) (tileCol t)
  let old := moved.map s.phys
  let s := (s.wr (TIL_ROW_MAP.active_f_skip fd r) (s.rd (TIL_ROW_MAP.staged_f_skip fd r))).wr (TIL_ROW_MAP.active_b_skip fd r)
    (s.rd (TIL_ROW_MAP.staged_b_skip fd r))
  let s := (s.clearTiles moved (old ++ moved.map s.phys)).moveRow fd r f b
  let lost := (List.range 128).filter fun c => s.inTiles c && moved.any fun t => s.covers (s.cpart c) t && s.hasWork c t
  lost.foldl State.loseShare s

/-- Every row whose staged skips differ, whose region is not gated, and on which no context is active. -/
def State.rowMaps (s : State) : State :=
  (List.range 294).foldl (fun s q =>
    if s.mapPending (q / 6) (q % 6) && !s.gated (q / 6) (q % 6) && !s.rowActive (q / 6) (q % 6) then s.applyRowMap (q / 6) (q % 6) else s) s

/-- A partition covers an unserved position. -/
def State.coversUnserved (s : State) (p : Nat) : Bool := s.built p && (s.partTiles p).any s.unserved

/-- R454: the contexts of a partition that covers an unserved position are passed over, each told once by a breach whose amount is not
stated (free); they run again once every position is served. -/
def State.blockContexts (s : State) : State :=
  (List.range 32).foldl (fun s p =>
    if (s.partCtxs p).isEmpty then s
    else
      let bad := s.coversUnserved p
      (s.partCtxs p).foldl (fun s c =>
        if s.on (FLT_CTX_STATUS.blocked c) = bad then s
        else if bad then let f := (s.wr (FLT_CTX_STATUS.blocked c) 1).free 32; f.2.breach c 4 2 1 f.1
        else s.wr (FLT_CTX_STATUS.blocked c) 0) s) s

/-- Partitions whose relocation has copied everything are BUILT again (R331). -/
def State.endRelocations (s : State) : State :=
  (List.range 32).foldl (fun s p =>
    if s.rd (PAR_PART_CFG.state p) = 3 ∧ (s.part p).copied then
      (s.wr (PAR_PART_CFG.state p) 2).modPart p fun q => { q with copied := false }
    else s) s

/-- Action 4. A context first passed over at this boundary is blocked only after the row maps, so that it still counts as active for R60
here and a staged map of its row applies at the next boundary; R60 and R454 leave the order within the boundary open (DESIGN CHOICE,
log 47). -/
def State.action4 (s : State) (held : List Nat) : State :=
  let s := s.endRelocations.rowMaps
  let s := s.runDue (fun _ q => !held.contains q.hdr.partition && [0x0201, 0x0202, 0x0203].contains q.op) fun s q => match q.cmd with
    | .partitionBuild h x0 y0 w ht prio m b n pool => s.applyBuild h x0 y0 w ht prio m b n pool
    | .partitionDissolve h => s.applyDissolve h
    | .partitionRelocate h x0 y0 => s.applyRelocate h x0 y0
    | _ => s
  s.blockContexts

/-! ### Action 5: slices and pre-emption (R322 to R324) -/

/-- A due slice-table set or pre-empt command of a partition. -/
def sliceCmd (p : Nat) (q : Staged) : Bool := (q.op == 0x0206 || q.op == 0x0207) && q.hdr.partition == p

/-- The slice tables among due commands take effect, in order. -/
def State.applyTables (s : State) (l : List Staged) : State :=
  l.foldl (fun (s : State) q => match q.cmd with
    | .sliceTableSet h _ entries => s.applySliceTable h entries
    | _ => s) s

/-- The present slice at a boundary: a pre-emption in force counts one tick; else a new table takes effect, or a table still to come counts
none against the present one (R322), or the slice counts one. -/
def State.countPart (s : State) (p : Nat) (fresh coming : Bool) : State × Option Nat :=
  match (s.part p).preempt with
  | some (c, n) => s.countPreempt p c n
  | none => if fresh then s.newTable p else if coming then (s, none) else s.countSlice p

/-- Action 5 for one built partition: its due commands in order of acceptance (R345), the count of the present slice or pre-emption, then
the context to run. A pre-empt command whose check now fails completes with its status; one of a context that R454 passes over leaves the
partition running nothing. -/
def State.slicePart (s : State) (p : Nat) : State :=
  let due := s.cmd.staged.filter fun q => q.wait == 0 && sliceCmd p q
  let s := { s with cmd := { s.cmd with staged := s.cmd.staged.filter fun q => !(q.wait == 0 && sliceCmd p q) } }
  let tables := due.filter fun q => q.op == 0x0206
  match due.findSome? fun q => match q.cmd with | .contextPreEmpt h c ticks => some (h, c, ticks) | _ => none with
  | none =>
    let r := (s.applyTables tables).countPart p (!tables.isEmpty) false
    r.1.runChoice p r.2
  | some (h, c, ticks) =>
    let st := checkContextPreEmpt p c ticks s
    if st ≠ 0 then
      let r := (s.applyTables tables).countPart p (!tables.isEmpty) false
      (r.1.runChoice p r.2).reply h 0x0207 st
    else
      let first := due.takeWhile fun q => q.op == 0x0206
      let later := (due.dropWhile fun q => q.op == 0x0206).filter fun q => q.op == 0x0206
      let r := (s.applyTables first).countPart p (!first.isEmpty) (!later.isEmpty)
      let s := ((r.1.startPreempt p c ticks).reply h 0x0207 0).applyTables later
      s.runChoice p (if s.eligible c then some c else none)

/-- A partition whose serving step does not stop (R46): the boundary counts against its slice or pre-emption, ticks slipped included (R322),
and what is due there, a switch among it, waits for the first boundary at which no step is running. -/
def State.sliceHeld (s : State) (p : Nat) : State :=
  let left := s.rd (PAR_PART_STATUS.ticks_left p) - 1
  match (s.part p).preempt with
  | some (c, n) => (s.modPart p fun q => { q with preempt := some (c, n - 1) }).wr (PAR_PART_STATUS.ticks_left p) (n - 1)
  | none => if s.noSlices p then s else s.wr (PAR_PART_STATUS.ticks_left p) left

/-- The due slice and pre-empt commands of a partition that is not built complete with 0x0220; one that is RELOCATING takes its tables, and
its pre-empt commands wait until it is built again. Its slices count on, in a new table from its first entry, while it runs nothing (R322). -/
def State.sliceAway (s : State) (p : Nat) : State :=
  if s.rd (PAR_PART_CFG.state p) = 3 then
    let due (q : Staged) : Bool := q.wait == 0 && q.op == 0x0206 && q.hdr.partition == p
    let tables := s.cmd.staged.filter due
    (({ s with cmd := { s.cmd with staged := s.cmd.staged.filter fun q => !due q } }.applyTables tables).countPart p (!tables.isEmpty) false).1
  else
    let due (q : Staged) : Bool := q.wait == 0 && sliceCmd p q
    (s.cmd.staged.filter due).foldl (fun s q => s.reply q.hdr q.op 0x0220)
      { s with cmd := { s.cmd with staged := s.cmd.staged.filter fun q => !due q } }

/-- The running context of a partition may go on. -/
def State.goesOn (s : State) (p : Nat) : Bool := match s.running p with | some c => s.eligible c | none => false

/-- Action 5. A partition held by a serving step keeps its running context, unless R454 passes over it. -/
def State.action5 (s : State) (held : List Nat) : State :=
  (List.range 32).foldl (fun s p =>
    if s.rd (PAR_PART_CFG.state p) ≠ 2 then s.sliceAway p
    else if held.contains p && s.goesOn p then s.sliceHeld p
    else s.slicePart p) s

/-! ### Actions 6 to 9 -/

/-- The retirement or admission due for a context waits: its partition's step is unfinished, or its own serving step is (R46). -/
def State.waits (s : State) (held : List Nat) (c : Nat) : Bool := held.contains (s.cpart c) || s.midServe c

/-- A training step of the context is running, awaits its verdict, or is due for a repeat (R472); a step that is confirmed before it has ended
(R261) runs on. -/
def State.settling (s : State) (c : Nat) : Bool := (s.ctx c).train.isSome || (s.ctx c).step.any fun r => r.training

/-- Weight-set switches and forced releases, whether or not the context is running (R289, R293); a switch waits while a training step of
the context is unsettled (R472), and both while a serving step of the partition is unfinished (R46). -/
def State.action6 (s : State) (held : List Nat) : State :=
  s.runDue (fun s q => !held.contains (s.cpart q.hdr.context) && (q.op == 0x0405 || (q.op == 0x0404 && !s.settling q.hdr.context)))
    fun s q => match q.cmd with
    | .weightSetSwitch h slot => s.applySwitch h slot
    | .weightSetRelease h slot _ => s.applyRelease h slot
    | _ => s

/-- Deadlines, cancels and retirements (R304, R305). -/
def State.action7 (s : State) (held : List Nat) : State :=
  let s := s.seqs.foldl (fun s (e : Nat × Seq) => s.seqLate e.1) s
  let s := s.runDue (fun s q => q.op == 0x0502 && !s.waits held q.hdr.context) fun s q => match q.cmd with
    | .sequenceCancel h slot => s.applyCancel h slot
    | _ => s
  (List.range 128).foldl (fun s c => if (s.seqsOf c).isEmpty || s.waits held c then s else s.retireDue c) s

/-- Admissions. -/
def State.action8 (s : State) (held : List Nat) : State :=
  s.runDue (fun s q => q.op == 0x0501 && !s.waits held q.hdr.context) fun s q => match q.cmd with
    | .sequenceAdmit h r => s.applyAdmit h r
    | _ => s

/-- Actions 1 to 8, which a drove's preparation looks ahead to; before them the calibration records are tested, whose outcome they apply (R439). The
governor, at action 3, sees the contexts that actions 4 and 5 will
choose. -/
def State.actions (s : State) (held : List Nat) : State :=
  let s := (s.testEnvelopes.action1 held).action2 held
  let s := s.runDue (fun _ q => q.op == 0x0B01) fun s q => match q.cmd with | .powerCapSet h w => s.applyCap h w | _ => s
  let ahead := (s.action4 held).action5 held
  let next (p : Nat) : Option Nat := match (ahead.part p).incoming with | some c => some c | none => ahead.running p
  let s := ((s.govern next).action4 held).action5 held
  ((s.action6 held).action7 held).action8 held

/-- A training step due for a context whose input copy has not ended is reported once (R458). -/
def State.reportLate (s : State) (q : Staged) : State :=
  match q.cmd with
  | .trainingStep h r =>
    let c := h.context
    if (s.ctx c).copies.contains r.step && !(s.ctx c).lateSteps.contains r.step then
      (s.modCtx c fun k => { k with lateSteps := r.step :: k.lateSteps }).fault 0x3503 1 0 0 (some c) (some (s.cpart c)) []
    else s
  | _ => s

/-- A training step may start: its context runs and is in no step, no verdict is awaited (R262), and its inputs are copied. -/
def State.trainReady (s : State) (held : List Nat) (q : Staged) : Bool :=
  match q.cmd with
  | .trainingStep h r => !held.contains (s.cpart h.context) && s.canStep h.context && (s.ctx h.context).train.isNone &&
      !(s.ctx h.context).copies.contains r.step
  | _ => false

/-- Training steps and repeats start. -/
def State.startTrainings (s : State) (held : List Nat) : State :=
  let s := (s.cmd.staged.filter fun q => q.wait == 0).foldl State.reportLate s
  let s := s.runDue (State.trainReady · held ·) fun s q => match q.cmd with
    | .trainingStep h r => s.startTraining h r
    | _ => s
  (List.range 128).foldl (fun s c => match (s.ctx c).train with
    | some x => if x.voided && x.ended && s.canStep c && !held.contains (s.cpart c) then s.startRepeat c x else s
    | none => s) s

/-- The serving loop starts a step of every context that runs, is in no step and serves; every other sequence is charged the tick
(R310, R324, R470). -/
def State.startServings (s : State) (held : List Nat) : State :=
  (List.range 128).foldl (fun s c =>
    if s.canStep c && s.on (SEQ_CFG.serving c) && !held.contains (s.cpart c) then s.startServing c
    else
      let s := if (s.ctx c).drove.isSome then s.modCtx c fun k => { k with drove := none } else s
      s.chargeSeqs c fun _ => true) s

def State.action9 (s : State) (held : List Nat) : State := (s.startTrainings held).startServings held

/-! ### Action 10 and the boundary -/

/-- Time steps, tick-set changes, staged writes, and the calibration set: a restore before what was accepted with it (R443). -/
def State.action10 (s : State) : State :=
  let s := s.runDue (fun _ q => q.op == 0x0B06) fun s q => match q.cmd with
    | .calibrationRestore h _ _ f => s.applyCalRestore h f
    | _ => s
  s.runDue (fun s q => [0x0102, 0x0701, 0x0702, 0x0B04, 0x0B05].contains q.op && s.dueNow q) fun s q => match q.cmd with
    | .configurationWrite h _ entries => s.applyWrite h entries
    | .tickSetDirect h _ epoch us => s.applyTickDirect h epoch us
    | .tickSetEffective h k us => s.applyTickEffective h k us
    | .timeStep h off => s.applyTimeStep h off
    | .calibrationWrite h r => s.applyCalWrite h r
    | .calibrationCommit h => s.applyCalCommit h
    | _ => s

/-- The offset that the slewed counter has made up over `ns`, at 100 ppm (R35). -/
def slewed (off : Int) (ns : Nat) : Int :=
  let n : Int := ns / 10000
  if off < 0 then Min.min 0 (off + n) else Max.max 0 (off - n)

/-- The tick starts: hall time stands at its start, and the tick number advances (R36, R39). -/
def State.enterTick (s : State) : State :=
  let n := s.time.nextTick
  let now := Max.max s.hall (s.tickStart n)
  { s.wr TIM_TICK_NOW.tick n with
    hall := now, time := { s.time with nextTick := n + 1, slew := slewed s.time.slew (now - s.hall) } }

/-- The running context's drove was not prepared for the present boundary, at which the tick slipped (R307). -/
def State.setupSlip (s : State) (p : Nat) : Option Nat :=
  (s.running p).bind fun c => if s.on (SEQ_CFG.serving c) && (s.ctx c).step.isNone && (s.ctx c).slip != 0 then some c else none

/-- Each partition whose running context's serving step was unfinished at the boundary has slipped a tick, and so has one whose drove was
not prepared; every other's count starts again (R46, R47, R307); `late` names the partitions with the unfinished contexts. The context is
told of a missed target (R333), and the context whose step runs is torn down beyond the limit, a teardown that the next boundary completes
(R451). -/
def State.countSlips (s : State) (late : List (Nat × Nat)) : State :=
  (List.range 32).foldl (fun s p =>
    match late.find? fun e => e.1 == p with
    | some (_, c) =>
      let s := s.modPart p fun q => { q with slips := q.slips + 1 }
      let s := if (s.ctx c).step.isSome then (s.modCtx c fun k => { k with slip := k.slip + 1 }).latencyBreach c else s
      s.slipLimit p
    | none => match s.setupSlip p with
      | some c => (s.modPart p fun q => { q with slips := q.slips + 1 }).latencyBreach c
      | none => if (s.part p).slips = 0 then s else s.modPart p fun q => { q with slips := 0 }) s

/-- A failed prompt is remembered until its admission command takes effect or ends. -/
def State.dropFails (s : State) (c : Nat) : State :=
  let waits (k : Nat × Nat) : Bool := s.cmd.staged.any fun q => q.op == 0x0501 && q.hdr.channel == k.1 && q.hdr.tag == k.2
  s.modCtx c fun x => { x with promptFails := x.promptFails.filter waits }

/-- What the end of the actions leaves: the ticks of held contexts and gated regions, the contexts that run in the tick now begun, the
readings for the next boundary, and the commands one boundary nearer. Words that waited for credits come free by now are sent (R327). -/
def State.endBoundary (s : State) : State :=
  let s := s.payAll
  let s := (List.range 128).foldl (fun s c => if s.cst c = stHold then s.inc (PAR_CTX_STATUS.hold_ticks c) 1 else s) s
  let s := (List.range 294).foldl (fun s r =>
    if s.gateState r ≠ 0 then s.inc (THM_REGION_COUNTS.gated_ticks (r / 6) (r % 6)) 1 else s) s
  let s := (List.range 32).foldl (fun s p => match s.running p with
    | some c => s.modCtx c fun k => { k with ran := true }
    | none => s) s
  let s := (List.range 128).foldl (fun s c => if (s.ctx c).promptFails.isEmpty then s else s.dropFails c) s
  { s with
    pwr := { s.pwr with readings := (List.range 294).filterMap fun r => (s.regionValue r).map fun v => (r, v.toNat) },
    cmd := { s.cmd with staged := s.cmd.staged.map fun (q : Staged) => { q with wait := q.wait - 1 } } }

/-- TICK_BOUNDARY. Before POWER_GOOD only the tick advances, once hall time runs. -/
def State.boundary (s : State) : State :=
  if s.rd CAL_BRINGUP.stage < 4 then s
  else if !s.up then s.enterTick
  else
    let s := s.enterTick.expireDue
    let held := (List.range 32).filter s.holds
    let late := held.filterMap fun p => (s.running p).map fun c => (p, c)
    (((s.actions held).action9 held).countSlips late).action10.endBoundary

def execTickBoundary (s : State) : Result := .next s.boundary

/-- SLICE_EXPIRY (R322): the boundary that exhausts the current slice's count, at whose action 5 the partition switches to the next runnable
entry, or goes on with a fresh count. The row is that boundary: with ticks left, a pre-emption in force or no slice table it is none. -/
def State.sliceExpiry (s : State) (p : Nat) : State :=
  if s.rd (PAR_PART_CFG.state p) = 2 ∧ s.rd (PAR_PART_STATUS.ticks_left p) ≤ 1 ∧ (s.part p).preempt = none ∧ !s.noSlices p then
    s.boundary
  else s

def execSliceExpiry (p : Nat) (s : State) : Result := .next (if s.up then s.sliceExpiry p else s)

/-- The outcome that actions 1 to 8 of the next boundary will have (R307). -/
def State.lookAhead (s : State) : State :=
  let t := s.enterTick.expireDue
  t.actions ((List.range 32).filter t.holds)

/-- DROVE_PREPARATION: from the guard before the boundary, when the context's step has ended, the drove is formed from the outcome that
actions 1 to 8 will have. -/
def State.drovePreparation (s : State) (c : Nat) : State :=
  if !s.up || !s.on (SEQ_CFG.serving c) || (s.ctx c).step.isSome || s.cst c == stFree || s.cst c == stTeardown then s
  else
    let n := s.time.nextTick
    let s := { s with hall := Max.max s.hall (s.tickStart n - s.rd TIM_BOUNDARY.guard_us * 1000) }
    if s.lookAhead.running (s.cpart c) = some c then (s.dropFails c).prepare c n State.lookAhead else s

def execDrovePreparation (ctx : Nat) (s : State) : Result := .next (s.drovePreparation ctx)

end Sys2Proof.Machine
end

