-- ==== Sys2Proof/Machine/Bringup.lean ====
section
/-! DEFINITION. Bring-up (chapter 20) and the service connector (chapter 23): standby power, the power-up stages, POWER_GOOD, power-off and
module reset, the service operations, the TAP, and the fault log as it is read (R450). -/

namespace Sys2Proof.Machine

/-! ### The fault log (R449, R450) -/

/-- A fault-log read: its status and its payload, the prefix of 16 bytes and the records. -/
def State.readLog (s : State) (first count most : Nat) : Nat × Bytes :=
  let next := s.rd FLT_LOG_INDEX.next_index
  let oldest := next - s.faultLog.length
  if count = 0 ∨ most < count then (0x0104, [])
  else if first < oldest then (0x0211, [])
  else if next ≤ first then (0x0210, [])
  else
    let l := (s.faultLog.drop (first - oldest)).take count
    (0, leB 8 first ++ leB 4 l.length ++ leB 4 0 ++ l.flatten)

/-- FAULT_LOG_READ. -/
def execFaultLogRead (h : Hdr) (first count : Nat) (s : State) : Result :=
  .next (s.command (.faultLogRead h first count) h 0x0803 (h.length == 16) .none (fun _ => if count = 0 ∨ 127 < count then 0x0104 else 0)
    fun s => let r := s.readLog first count 127; s.reply h 0x0803 r.1 r.2)

/-! ### Standby power and the 48 V input (R430, R439, R449, R477) -/

/-- A record of a kind is missing from the set, or its digest fails. -/
def State.calBad (s : State) (k : Nat) : Bool := match s.calRecord k with | some r => !recValid r | none => true

/-- STANDBY_POWER_ARRIVAL, stage P0: the service controller runs, the fault log is empty, the calibration set is read, and sampling
starts. -/
def State.standbyArrival (s : State) : State :=
  if s.pins.standby then s
  else
    let s := { s with pins := { s.pins with standby := true }, faultLog := [] }
    let s := (s.setReg FLT_LOG_INDEX 0).setReg FLT_LOG_STATUS 0
    let s := (((List.range 7).map (· + 1)).filter s.calBad).foldl
      (fun s _ => (s.wr CAL_STATUS.corrupt 1).svcFault 0x3405 1 0 0 []) s
    s.loadAsym.showCal

def execStandbyPowerArrival (s : State) : Result := .next s.standbyArrival

/-- What the service controller measures shows its Reset value after a module reset, until it is next measured (R11). -/
def State.resetMeasured (s : State) : State :=
  ([PWR_STANDBY, THM_COOLANT] ++ (List.range 4).map PWR_ENTRY).foldl (fun s a => s.setReg a (regReset a)) s

/-- STANDBY_POWER_LOSS: the service controller stops, and with it every rail; its log and its readings are lost. Fuses and flash stand. -/
def State.standbyLoss (s : State) : State :=
  if !s.pins.standby then s
  else
    let t := s.unpowered
    let t := { t with pins := { t.pins with standby := false, replies := [] }, pwr := {}, faultLog := [] }
    [FLT_LOG_INDEX, FLT_LOG_STATUS, CAL_BRINGUP].foldl (fun s a => s.setReg a (regReset a)) t.resetMeasured

def execStandbyPowerLoss (s : State) : Result := .next s.standbyLoss

/-- INPUT_APPLIED: precharge starts at every entry, or starts again. -/
def execInputApplied (s : State) : Result :=
  .next { s with pins := { s.pins with applied := true, precharging := [0, 1, 2, 3] } }

/-- PRECHARGE_COMPLETE at an entry. -/
def execPrechargeComplete (entry : Nat) (s : State) : Result :=
  .next { s with pins := { s.pins with precharging := s.pins.precharging.filter (· != entry) } }

/-- The input counts as valid: precharge has ended at all four entries. -/
def State.inputValid (s : State) : Bool := s.pins.applied && s.pins.precharging.isEmpty

/-! ### The power-up sequence (R430 to R435, R420) -/

/-- Both plates' differential pressures are measured and reach their calibrated minimum (R71). -/
def State.flowOk (s : State) : Bool :=
  (List.range 2).all fun i => match s.sensed .coolantDp i with | some v => decide ((s.minPressure i : Int) ≤ v) | none => false

/-- The conditions of R431, as they stand. -/
def State.preconditions (s : State) : Bool :=
  let volts := (List.range 4).filterMap (s.sensed .entryVoltage)
  let inlet (i : Nat) : Bool := match s.sensed .coolantTemp i with | some v => decide (v ≤ 40000) | none => false
  !s.pins.emergencyLow && s.inputValid && decide (3 ≤ volts.length) && decide (40000 ≤ s.inputMv) && decide (s.inputMv ≤ 60000) &&
    s.flowOk && inlet 0 && inlet 2

/-- A power-on request: the sequence starts at P1. One made while a sequence runs, or while the module is up, has no effect; nor has one
while MODULE_RESET_N is low (DESIGN CHOICE, log 38). -/
def State.powerOn (s : State) : State :=
  if s.pins.standby && !s.pins.resetLow && s.rd CAL_BRINGUP.stage == 0 then
    { s.wr CAL_BRINGUP.stage 1 with pins := { s.pins with requested := s.hall } }
  else s

/-- The sequence is aborted at a stage: every rail is removed (R433). -/
def State.abortStage (s : State) (k : Nat) : State := (s.removeRails 0x3401 (leB 1 k)).wr CAL_BRINGUP.abort_stage k

/-- POWER_UP_PRECONDITIONS: they have not held for 100 ms within 60 s of the request; nothing is enabled. -/
def State.preconditionsFail (s : State) : State :=
  if s.rd CAL_BRINGUP.stage = 1 then
    ((s.wr CAL_BRINGUP.stage 0).svcFault 0x3401 5 0 0 (leB 1 1)).wr CAL_BRINGUP.abort_stage 1
  else s

def execPowerUpPreconditions (s : State) : Result := .next s.preconditionsFail

/-- The end of P2: R420 steps 1 to 4. With no trusted image accepted the mask ROM stays in recovery and the sequence goes no further. -/
def State.endP2 (s : State) : State :=
  match s.bootSlot 0 with
  | some k =>
    let s := if k = s.firstSlot 0 then s else s.fault 0x3301 1 15 0 none none []
    let s := (s.wr SEC_VERSION.tfw_version (s.slotVersion 0 k)).extend 0 (s.slotDigest 0 k)
    (((s.wr SEC_STATUS.tfw_slot k).wr SEC_STATUS.boot_state 1).certifyAttest).wr CAL_BRINGUP.stage 3
  | none => (s.fault 0x3301 1 15 0 none none []).wr SEC_STATUS.boot_state 3

/-- The end of P4: a field in which a rail fails has every rail off (R432). -/
def State.endP4 (s : State) (r : StageResult) : State :=
  let l := (r.fieldsFailed.filter fun f => decide (f < 49)).eraseDups
  let s := l.foldl (fun s f => (s.fault 0x3402 4 3 f none none []).loseFields [f] 0x3402) s
  (s.wr CAL_BRINGUP.fields_off l.length).wr CAL_BRINGUP.stage 5

/-- The indices of ARY_FUSE_SPARE are in range and strictly ascending (R64). -/
def spareOk (v : Nat) : Bool :=
  decide (bits v 0 8 < bits v 8 8) && decide (bits v 8 8 < 130) && decide (bits v 20 10 < bits v 30 10) &&
    decide (bits v 30 10 < bits v 40 10) && decide (bits v 40 10 < bits v 50 10) && decide (bits v 50 10 < 516)

/-- The end of P5: a tile whose spare fuses are out of order is bad, a bad bit set by the fuse load (R64, R453). -/
def State.endP5 (s : State) : State :=
  let bad := s.regs.filter fun e => addrSpace e.1 == 2 && addrOffset e.1 == 0x800 && !spareOk e.2.toNat
  (bad.foldl (fun (s : State) (e : Nat × W64) => s.markBad (addrIndex e.1) 0 true false) s).wr CAL_BRINGUP.stage 6

/-- The end of P6: the tiles that fail BIST, and the stacks present and trained with their rates (R219, R220, R434). -/
def State.endP6 (s : State) (r : StageResult) : State :=
  let routers := r.routerFails.filter fun t => decide (t < 4116)
  let tiles := r.tileFails.filter fun t => decide (t < 4116)
  let all := (tiles ++ routers).eraseDups
  let s := all.foldl (fun s t =>
    (s.fault 0x3403 1 2 t none none []).markBad t 0x3403 (tiles.contains t) (routers.contains t)) s
  let s := r.stackRates.foldl (fun (s : State) (e : Nat × Nat) =>
    if e.1 < 12 ∧ (e.2 = 1 ∨ e.2 = 2) then
      let s := (s.wrBit STK_PRESENT.present e.1 true).wr (STK_STATUS.rate e.1) e.2
      if e.2 = 1 then s.fault 0x2A13 1 4 e.1 none none [] else s
    else s) s
  (s.wr CAL_BRINGUP.bist_failed all.length).wr CAL_BRINGUP.stage 7

/-- The configuration image is signed by an enrolled class 1 key. -/
def State.configOk (s : State) (image : Bytes) : Bool :=
  s.sec.keys.any fun k => k.cls == 1 && !k.revoked && Config.configSigned k.key image

/-- R420 step 6: the configuration image, then the calibration set. -/
def State.loadConfig (s : State) (r : StageResult) : State :=
  let s := match r.configImage with
    | some b => if s.configOk b then { s.extend 2 (sha256 b) with relayTable := Config.relayTable b } else s.fault 0x3303 1 15 0 none none []
    | none => s
  s.extend 3 (sha256 (s.setHeader s.cal.records.length ++ s.cal.records.flatten))

/-- The management ports' links come up. -/
def State.mgmtUp (s : State) : State := (List.range 2).foldl (fun s m => (s.wr (CMD_MGMT_STATUS.link_up m) 1).ndProbeAll (66 + m)) s

/-- The end of P7: R420 steps 5 and 6 and the links. With no runtime image accepted the cores stay halted and the module is faulted (R433,
R447). -/
def State.endP7 (s : State) (r : StageResult) : State :=
  let s := match s.bootSlot 1 with
    | some k => s.startRuntime k
    | none => ((s.wr SEC_STATUS.boot_state 4).fault 0x3302 5 15 0 none none []).moduleFault 0x3302
  let s := (s.loadConfig r).mgmtUp
  { s with pins := { s.pins with p7 := true } }

/-- Rails may be enabled: both plates flow (R71) and EMERGENCY_OFF_N is high (R391). -/
def State.railsAllowed (s : State) : Bool := s.flowOk && !s.pins.emergencyLow

/-- P7 runs: from the end of P2, beside P3 to P6, until it ends (R430). -/
def State.p7Runs (s : State) : Bool := decide (3 ≤ s.rd CAL_BRINGUP.stage) && decide (s.rd CAL_BRINGUP.stage ≤ 7) && !s.pins.p7

/-- POWER_UP_STAGE_COMPLETE: the current stage, or P7 beside it, ends with its findings; after the current one the next starts. P2, P3 and P4,
which enable rails, go on only while rails may be enabled. -/
def State.stageComplete (s : State) (r : StageResult) : State :=
  let s := { s with pins := { s.pins with emergencyLow := r.emergencyLow } }
  let s' := { s with hall := s.hall + r.durationMs * 1000000 }
  if r.p7 then (if s.p7Runs then s'.endP7 r else s)
  else match s.rd CAL_BRINGUP.stage with
  | 1 => if s.preconditions then s'.wr CAL_BRINGUP.stage 2 else s
  | 2 => if s.rd SEC_STATUS.boot_state = 3 ∨ !s.railsAllowed then s else s'.endP2
  | 3 => if s.railsAllowed then s'.wr CAL_BRINGUP.stage 4 else s
  | 4 => if s.railsAllowed then s'.endP4 r else s
  | 5 => s'.endP5
  | 6 => s'.endP6 r
  | _ => s

def execPowerUpStageComplete (result : StageResult) (s : State) : Result := .next (s.stageComplete result)

/-- POWER_UP_STAGE_TIMEOUT: a stage other than P1 and P6 exceeds its maximum, P7 beside others included. Recovery waits for the UART. -/
def State.stageTimeout (s : State) (p7 : Bool) : State :=
  let k := s.rd CAL_BRINGUP.stage
  if p7 then (if s.p7Runs then s.abortStage 7 else s)
  else if (k = 2 ∧ s.rd SEC_STATUS.boot_state ≠ 3) ∨ k = 3 ∨ k = 4 ∨ k = 5 then s.abortStage k else s

def execPowerUpStageTimeout (p7 : Bool) (s : State) : Result := .next (s.stageTimeout p7)

/-- POWER_GOOD: P6 and P7 have completed and the runtime firmware runs. -/
def State.assertGood (s : State) : State :=
  if s.rd CAL_BRINGUP.stage = 7 ∧ s.pins.p7 ∧ s.on CMD_STATUS.runtime_up ∧ !s.on FLT_STATE.module_faulted then
    { (s.wr CAL_BRINGUP.stage 8).wr CAL_BRINGUP.duration_ms ((s.hall - s.pins.requested) / 1000000) with
      pins := { s.pins with powerGood := true } }
  else s

def execPowerGood (s : State) : Result := .next s.assertGood

/-! ### Power-off and module reset (R485, R488) -/

/-- MODULE_RESET_ASSERT: MODULE_RESET_N has been low for 10 µs. -/
def State.resetAssert (s : State) : State :=
  if s.pins.standby && !s.pins.resetLow then
    let t := (s.removeRails 0x3602 []).resetMeasured.wr CAL_BRINGUP.abort_stage 0xF
    { t with pins := { t.pins with resetLow := true } }
  else s

def execModuleResetAssert (s : State) : Result := .next s.resetAssert

/-- MODULE_RESET_RELEASE: the pin returns high, and the power-up sequence starts. -/
def State.resetRelease (s : State) : State :=
  if s.pins.resetLow then State.powerOn { s with pins := { s.pins with resetLow := false } } else s

def execModuleResetRelease (s : State) : Result := .next s.resetRelease

/-! ### Service operations (R487, Table 23-7) -/

def ifaceCode : SvcIface → Nat
  | .uart => 0 | .smbus => 1

/-- A reply frame. -/
def svcFrame (op tag status : Nat) (payload : Bytes) : Bytes :=
  let body := leB 1 op ++ leB 1 tag ++ leB 2 status ++ leB 2 payload.length ++ payload
  leB 1 0x5A ++ body ++ leB 4 (crc32c body).toNat

/-- The pin SMB_ALERT_N is low: a service reply waits (Table 23-6). -/
def State.smbAlertLow (s : State) : Bool := !s.pins.replies.isEmpty

/-- A request on an interface: discarded while a reply waits there; else `act` gives its status, its payload and the state. -/
def State.service (s : State) (i op tag : Nat) (act : State → Nat × Bytes × State) : State :=
  if !s.pins.standby || s.pins.replies.any (fun r => r.1 == i) then s
  else
    let r := act s
    { r.2.2 with pins := { r.2.2.pins with replies := r.2.2.pins.replies ++ [(i, svcFrame op tag r.1 r.2.1)] } }

/-- POWER_ON: the request starts the sequence, or is answered 0x02B0 while one runs or the module is up, and, so the model, while
MODULE_RESET_N is low (DESIGN CHOICE, log 38). -/
def execPowerOn (iface : SvcIface) (tag : Nat) (s : State) : Result :=
  .next (s.service (ifaceCode iface) 1 tag fun s =>
    (if s.rd CAL_BRINGUP.stage ≠ 0 ∨ s.pins.resetLow then 0x02B0 else 0, [], s.powerOn))

/-- POWER_OFF: the rails go, a sequence ends, and fault 0x3601 is logged. -/
def execPowerOff (iface : SvcIface) (tag : Nat) (s : State) : Result :=
  .next (s.service (ifaceCode iface) 2 tag fun s => (0, [], s.removeRails 0x3601 []))

/-- SERVICE_STATUS. -/
def execServiceStatus (iface : SvcIface) (tag : Nat) (s : State) : Result :=
  .next (s.service (ifaceCode iface) 3 tag fun s =>
    (0, [CAL_BRINGUP, PWR_STANDBY, THM_COOLANT, FLT_LOG_INDEX].flatMap (fun a => leB 8 (s.reg a)), s))

/-- SERVICE_FAULT_LOG_READ: up to 127 records, 7 over SMBus. -/
def execServiceFaultLogRead (iface : SvcIface) (tag first count : Nat) (s : State) : Result :=
  .next (s.service (ifaceCode iface) 4 tag fun s =>
    let r := s.readLog first count (if iface = .uart then 127 else 7)
    (r.1, r.2, s))

/-- A reply packet of the firmware-update command as the UART carries it (Table 16-1): its header and trailer. -/
def State.relayReply (s : State) (tag status : Nat) : Bytes :=
  let head := leB 1 1 ++ leB 1 (1 + 64 * bit s.timeUnlocked) ++ leB 2 0x0906 ++ leB 4 tag ++ leB 2 0 ++ leB 2 0 ++ leB 2 status ++ leB 2 0 ++
    leB 8 0 ++ leB 8 s.hall
  head ++ leB 4 (crc32c head).toNat

/-- TRUSTED_RELAY: a firmware-update command served by the trusted firmware while the runtime does not run, or by the mask ROM in
recovery, for target 0 only. The frame has its tag, and the packet in it another. Mode 0 takes the image's length in `total`. -/
def State.trustedRelay (s : State) (tag packetTag mode target addr off total : Nat) (data : Bytes) : State :=
  s.service 0 5 tag fun s =>
    let boot := s.rd SEC_STATUS.boot_state
    if s.on CMD_STATUS.runtime_up then (0x0290, [], s)
    else if boot = 0 then (0x0301, [], s)
    else if 1 < mode ∨ (boot = 3 ∧ target ≠ 0) then (0x0290, [], s)
    else
      let h : Hdr := {
        channel := 0, tag := packetTag, partition := 0, context := 0, length := 0, deadlineEn := false, deadline := 0, relayed := true,
        prompt := true }
      if s.cmd.runtime.any fun r => r.op == 0x0906 then (0, s.relayReply packetTag 0x0290, s)
      else
        let part := s.takePart h 0x0906 off total data
        let st := if mode = 0 then checkInstall target addr total s else if part.1 = .refused then 0x0190 else 0
        let t := if mode = 0 then (if st = 0 then s.fwInstall target addr total else secCount st s)
          else if st = 0 then part.2.stageBytes (addr + off) data else part.2
        (0, t.relayReply packetTag st, t)

def execTrustedRelay (tag packetTag mode target addr offset total : Nat) (data : Bytes) (s : State) : Result :=
  .next (s.trustedRelay tag packetTag mode target addr offset total data)

/-- A frame is whole and its CRC right; the payload over SMBus is at most 240 bytes (R487). -/
def frameOk (i : SvcIface) (f : Bytes) : Bool :=
  leAt f 0 1 == 0xA5 && f.length == 9 + leAt f 3 2 && decide (leAt f 3 2 ≤ if i = .uart then 4096 else 240) &&
    (crc32c (slice f 1 (4 + leAt f 3 2))).toNat == leAt f (f.length - 4) 4

/-- Table 23-7 assigns an op on an interface. -/
def frameOpAssigned (i : SvcIface) (op : Nat) : Bool := decide (1 ≤ op) && decide (op ≤ if i = .uart then 5 else 4)

/-- A service frame whose op Table 23-7 does not assign on its interface is answered with 0x0103; one whose CRC is bad is discarded. -/
def State.badFrame (s : State) (i : SvcIface) (f : Bytes) : State :=
  if frameOk i f && !frameOpAssigned i (leAt f 1 1) then s.service (ifaceCode i) (leAt f 1 1) (leAt f 2 1) fun s => (0x0103, [], s) else s

/-- OPCODE_UNASSIGNED: a packet on the link, or a frame at the service connector, for whose other ops the table has no row of its own (log
71). -/
def execOpcodeUnassigned (packet : Bytes) (service : Option SvcIface) (s : State) : Result :=
  .next (match service with | none => s.badPacket packet | some i => s.badFrame i packet)

/-- SERVICE_FRAME_TIMEOUT: an incomplete frame is discarded without a reply. -/
def execServiceFrameTimeout (_iface : SvcIface) (s : State) : Result := .next s

/-! ### The TAP (R427, R486) -/

/-- What IDCODE returns. -/
def idcode : BitVec 32 := 0x1B070C4B

/-- The data register that the TAP has between TDI and TDO, where it is the module's own: the identity, or the one bit of BYPASS, each as it
is captured (IEEE 1149.1). -/
def tapData : TapInstr → Option (List Bool)
  | .idcode => some ((List.range 32).map idcode.getLsbD)
  | .bypass => some [false]
  | _ => none

/-- The instruction that a loaded one selects at a debug level. -/
def tapSelect (level : Nat) : TapInstr → TapInstr
  | .idcode => .idcode
  | .sample => if level = 2 then .sample else .bypass
  | .extest => if level = 2 then .extest else .bypass
  | .other n => if n ≠ 0 ∧ n ≤ level then .other n else .bypass
  | .bypass => .bypass

/-- JTAG_INSTRUCTION: an instruction of the debug logic goes through crossing 11, whose wake restarts that logic while debug is unlocked; the
test access itself always runs (R236). -/
def State.jtag (s : State) (i : TapInstr) : State :=
  let sel := tapSelect (s.rd SEC_STATUS.debug_level) i
  if !s.pins.standby then s
  else match sel with
    | .other _ =>
      if s.clockStopped 11 && !s.cdc.through && !(s.crossing 11 0).stopped then (s.raiseWake 11 0).keep 11 0 (.jtagInstruction i)
      else if s.passes 11 0 then { s with pins := { s.pins with tap := sel } } else s.keep 11 0 (.jtagInstruction i)
    | _ => { s with pins := { s.pins with tap := sel } }

def execJtagInstruction (instr : TapInstr) (s : State) : Result := .next (s.jtag instr)

end Sys2Proof.Machine
end

