-- ==== Sys2Proof/Machine/Cdc.lean ====
section
/-! DEFINITION. Clock domain crossings (chapter 11): time-out, wake, wake failure and restart, with the action of Table 11-2 for
each crossing. -/

namespace Sys2Proof.Machine

/-- The crossings marked privileged in Table 11-2. -/
def privileged (c : Nat) : Bool := c == 3 || c == 4 || (decide (7 ≤ c) && decide (c ≤ 11))

/-- CDC_LAST records a time-out or a wake failure. -/
def State.crossingLast (s : State) (c : Nat) : State :=
  (s.wr CDC_LAST.crossing c).wr CDC_LAST.hall_low s.hall

/-- Fault `code` of crossing `c` with class 5 for the crossings on which the module depends: the module is faulted. -/
def State.crossingFault5 (s : State) (code : Nat) : State := (s.fault code 5 0 0 none none []).moduleFault code

/-- Crossing 0 of a physical tile: it is marked bad, and the context running there is torn down. -/
def State.downlinkStopped (s : State) (pt : Nat) : State :=
  let t := s.logical pt
  let s := s.wr CDC_LAST.physical_index pt
  let s := match t.bind s.ctxOn with
    | some c => s.fault 0x2B01 2 2 pt (some c) (some (s.cpart c)) []
    | none => s.fault 0x2B01 2 2 pt none none []
  s.markBad pt 0x2B01 true false

/-- Crossing 2 of a port die: every partition with a stream open on one of its ports, and the ports themselves. -/
def State.portDieStopped (s : State) (die : Nat) : State :=
  let mine (p : Nat) : Bool := s.fab.streams.any fun x => x.port / 4 == die && s.cpart x.ctx == p
  let s := ((List.range 32).filter mine).foldl (fun s p => s.fault 0x2B01 3 5 (4 * die) none (some p) []) s
  (List.range 4).foldl (fun s k => s.disablePort (4 * die + k)) s

/-- Crossing 5 of a tile: the context running there is torn down. -/
def State.tickStartStopped (s : State) (t : Nat) : State :=
  match s.ctxOn t with
  | some c => s.fault 0x2B01 2 1 t (some c) (some (s.cpart c)) []
  | none => s.fault 0x2B01 2 1 t none none []

/-- Crossing 7 of a time port: lock is lost when the port is the source in use. -/
def State.timePortStopped (s : State) (q : Nat) : State :=
  match s.inUse with
  | some u => if u.src = .timePort q then s.syncLoss else s
  | none => s

/-- The action of Table 11-2. `u` is the unit the crossing belongs to: a physical tile (0), a stack (1), a port die (2, 6), a logical
tile (5), a time port (7). -/
def State.crossingAction (s : State) (c u : Nat) : State :=
  match c with
  | 0 => s.downlinkStopped u
  | 1 => s.loseStack u
  | 2 => s.portDieStopped u
  | 5 => s.tickStartStopped u
  | 6 => s.fault 0x2B01 1 5 (4 * u) none none []
  | 7 => s.timePortStopped u
  | 11 => s.fault 0x2B01 1 0 0 none none []
  | _ => s.crossingFault5 0x2B01

/-- A crossing into a gated tile, which never times out. -/
def State.intoGated (s : State) (c u : Nat) : Bool :=
  (c == 0 && (decide (4116 ≤ u) || s.gated (u / 84) (u % 84 / 14))) || (c == 5 && s.gated (tileField u) (tileRow u))

/-- Firmware commands that wait on a crossing fail with an error (R234, R237), with a status of the 0x07xx group of which the spec names
no number (a free value, log 55). -/
def State.failHeld (s : State) (c : Nat) : State :=
  let l := s.cmd.runtime.filter fun r => fwCrossing r.op == some c
  let s := { s with cmd := { s.cmd with runtime := s.cmd.runtime.filter fun r => fwCrossing r.op != some c } }
  l.foldl (fun s r => s.reply r.hdr r.op (0x0700 + Config.crossingError.toNat)) s

/-- A crossing stops: the transfers that wait in it fail, while events counted stay counted (R231, R235). Command packets and firmware commands
are answered with an error; packets wait for crossing 4 where they wait for 3. What a peer, a master of hall time or a JTAG probe has sent is
lost: the spec gives the module no message that tells them, and a peer sends again what is not acknowledged (R374, R378). -/
def State.stopCrossing (s : State) (x : Crossing) : State :=
  let packets := if x.id = 3 ∨ x.id = 4 then (s.crossing 3 0).held else []
  let s := s.setCrossing { x with wake := none, stopped := true, held := x.held.filter isEvent }
  let s := if x.id = 4 then s.setCrossing { s.crossing 3 0 with held := [] } else s
  (packets.foldl (fun s i => s.failPacket i) s).failHeld x.id

/-- CROSSING_TIMEOUT (R234, R235): the crossing is stopped, what waits in it fails, and its action is taken. A crossing into a gated tile
never times out, nor does a privileged one while its receiving clock is stopped: it raises its wake (R236). One that is stopped already fails its
transfers at once and watches nothing. -/
def State.crossingTimeout (s : State) (c u : Nat) : State :=
  let x := s.crossing c u
  if !s.powered || decide (11 < c) || x.stopped || (privileged c && x.wake.isSome) || s.intoGated c u then s
  else if privileged c && s.clockStopped c then s.raiseWake c u
  else
    (((s.stopCrossing x).wrBit CDC_STOPPED.timed_out c true).crossingLast c).crossingAction c u

def execCrossingTimeout (crossing unit_ : Nat) (s : State) : Result := .next (s.crossingTimeout crossing unit_)

/-- CROSSING_WAKE (R236): a privileged crossing whose receiving clock is stopped raises its wake level; one that is already pending adds nothing.
The wake of crossing 11 reaches the debug logic only while debug is unlocked. -/
def State.crossingWake (s : State) (c u : Nat) : State :=
  if s.powered && privileged c && s.clockStopped c && !(s.crossing c u).stopped then s.raiseWake c u else s

def execCrossingWake (crossing unit_ : Nat) (s : State) : Result := .next (s.crossingWake crossing unit_)

/-- WAKE_TIMEOUT (R237): the woken clock has not restarted within wake_timeout of its wake; the transfers that waited for it fail, and the
crossing is stopped. -/
def State.wakeTimeout (s : State) (c u : Nat) : State :=
  let x := s.crossing c u
  match x.wake with
  | none => s
  | some since =>
    if !s.powered || decide (11 < c) then s
    else
      let s := { s with hall := Max.max s.hall (since + s.rd CDC_CFG.wake_timeout * 1000) }
      let s := ((s.stopCrossing x).wrBit CDC_STOPPED.wake_failed c true).crossingLast c
      if c = 11 then s.fault 0x2B02 1 0 0 none none [] else s.crossingFault5 0x2B02

def execWakeTimeout (crossing unit_ : Nat) (s : State) : Result := .next (s.wakeTimeout crossing unit_)

/-- The tick starts that crossing 5 of a tile has counted (R231): the tile's part of the step that runs begins. -/
def State.lateTick (s : State) (t n : Nat) : State :=
  match s.ctxOn t with
  | some c => match (s.ctx c).step with
    | some r => if n = 0 then s else s.startTile c t r.entry true
    | none => s
  | none => s

/-- The reports of the service controller that crossing 8 has counted are delivered, in order; their faults are logged already (R449). -/
def State.lateReports (s : State) : State :=
  s.pwr.reports.foldl (fun s f => s.reportFault f.1 f.2.1 none none f.2.2) { s with pwr := { s.pwr with reports := [] } }

/-- CROSSING_RESTART (R235, R236): both clocks run again; the crossing exchanges counters and clears stopped, and a wake is acknowledged. What
waits in it then goes through in order (log 55); tick starts and reports of the service controller counted meanwhile are delivered now. -/
def State.crossingRestart (s : State) (c u : Nat) : State :=
  if !s.powered || decide (11 < c) then s
  else
    let x := s.crossing c u
    let s := if c = 3 ∨ c = 4 then { s with pins := { s.pins with uciIdle := false } } else s
    let s := if c = 11 then { s with cdc := { s.cdc with debugRuns := s.rd SEC_STATUS.debug_level != 0 } } else s
    let s := s.setCrossing { x with stopped := false, wake := none, ahead := if c = 5 ∨ c = 8 then 0 else x.ahead }
    if c = 5 then s.lateTick u x.ahead else if c = 8 then s.lateReports else s

def execCrossingRestart (crossing unit_ : Nat) (s : State) : Result := .next (s.crossingRestart crossing unit_)

end Sys2Proof.Machine
end

