-- ==== Sys2Proof/Machine/Issue.lean ====
section
/-! DEFINITION. The compute stream in time (R181, R182, R192 to R195): the issue of the word that is due, rendezvous, the timeouts of its
waits, and the end of a tile's step. -/

namespace Sys2Proof.Machine

/-- A word whose semaphore and rendezvous let it through is held while a unit it names is busy, or issues (R182). A code error may be met
in the SRAM lines it sends (R101). -/
def State.issueOrHold (s : State) (c t w : Nat) (sram : SramEcc) : State :=
  let s := s.lastBeat t w
  if (s.engOf c t).busyFor w then s.heldCycle c t 2 (INS_BUSY_HOLD.busy_hold_cycles t)
  else
    let s := if (s.sendSpan c t w).isEmpty then s else s.sramEcc t sram
    if s.cst c ≠ stRunning then s else s.issueWord c t w

/-- COMPUTE_WORD_ISSUE: the word that is due issues, or is held for this cycle; a rendezvous word waits for its release. -/
def State.computeIssue (s : State) (t : Nat) (ecc : EccOutcome) (sram : SramEcc) : State :=
  match s.ctxOn t with
  | none => s
  | some c =>
    let e := s.engOf c t
    if !s.issuing c t || e.ended || s.rd (INS_STATUS.stream t) == 4 || s.rd (INS_STATUS.stream t) == 5 then s
    else
      let s := s.insEcc t ecc
      if s.rd (INS_STATUS.stream t) = 7 then s
      else
        let w := s.computeWord c t (s.rd (INS_STATUS.pc t))
        let sync := bits w 461 3
        if sync = 3 ∧ s.rd (insSem t (bits w 428 5)) < bits w 424 4 then
          (s.modEng c t fun e => { e with semWait := some (e.semWait.getD s.tick) }).heldCycle c t 3 (INS_SEM_WAIT.sem_wait_cycles t)
        else if (sync = 1 ∨ sync = 2) ∧ !e.released then
          (s.wr (INS_STATUS.stream t) (if sync = 1 then 5 else 4)).wr (INS_STATUS.rdv_id t) (bits w 433 8)
        else s.issueOrHold c t w sram

def execComputeWordIssue (tile : Nat) (ecc : EccOutcome) (sram : SramEcc) (s : State) : Result :=
  .next (if s.up then s.computeIssue tile ecc sram else s)

/-! ### Rendezvous (R192 to R195) -/

/-- RENDEZVOUS_ARRIVAL: the tile arrives at the rendezvous its word names, once quiesced where the word asks for it; a slip
above the word's slack is reported. -/
def State.rdvArrive (s : State) (t : Nat) : State :=
  match s.ctxOn t with
  | none => s
  | some c =>
    let e := s.engOf c t
    let st := s.rd (INS_STATUS.stream t)
    if !s.issuing c t || (st != 4 && st != 5) || e.rdvWait.isSome then s
    else if st = 4 ∧ !((s.settleArray t).engOf c t).quiet then (s.settleArray t).heldCycle c t 4 (INS_BUSY_HOLD.busy_hold_cycles t)
    else
      let w := s.computeWord c t (s.rd (INS_STATUS.pc t))
      let id := bits w 433 8
      let slip := s.rd (INS_SLIP.slip t)
      let slack := bits w 441 20
      let s := if st = 4 then s.settleArray t else s
      let s := (s.wr (INS_STATUS.stream t) 5).modEng c t fun e => { e with rdvWait := some s.tick }
      let s := s.modCtx c fun k => { k with arrivals := k.arrivals ++ [(id, t, slip, s.rd (INS_SCHED.step_cycle t))] }
      if slack < slip then
        let s := ((s.wr (INS_STATUS.overrun t) 1).wr (INS_SLIP.last_excess t) (slip - slack)).count t (INS_OVERRUNS.overruns t) 1
        s.fault 0x2901 1 1 t (some c) (some (s.cpart c)) (leB 2 id ++ leB 4 (slip - slack))
      else s

def execRendezvousArrival (tile : Nat) (s : State) : Result := .next (if s.up then s.rdvArrive tile else s)

/-- RENDEZVOUS_RELEASE: 240 cycles after the last arrival every participant's word issues, and its slip becomes the largest
carried less its slack, not below 0. A word that names a busy unit is held first (R182). -/
def State.rdvRelease (s : State) (c id : Nat) : State :=
  let here := (s.ctx c).arrivals.filter fun a => a.1 == id
  let need := match (s.ctx c).program with | some g => g.rendezvous.getD id 0 | none => 0
  if s.cst c ≠ stRunning ∨ need = 0 ∨ here.length < need then s
  else
    let most := here.foldl (fun m a => Max.max m a.2.2.1) 0
    let at_ := here.foldl (fun m a => Max.max m a.2.2.2) 0 + 240
    let s := s.modCtx c fun k => { k with arrivals := k.arrivals.filter fun a => a.1 != id }
    here.foldl (fun s a =>
      let t := a.2.1
      let w := s.computeWord c t (s.rd (INS_STATUS.pc t))
      let s := s.schedule c t at_ (most - bits w 441 20)
      let s := (s.count t (INS_RDV_WAIT.rdv_wait_cycles t) (at_ - a.2.2.2)).attribute c t (at_ - a.2.2.2)
      if s.rd (INS_STATUS.stream t) = 7 then s
      else
        let s := s.lastBeat t w
        if (s.engOf c t).busyFor w then
          (s.wr (INS_STATUS.stream t) 2).modEng c t fun e => { e with released := true, rdvWait := none }
        else
          let s := s.checkedRead c t (s.sendSpan c t w)
          if s.cst c ≠ stRunning then s else s.issueWord c t w) s

def execRendezvousRelease (ctx rdv : Nat) (s : State) : Result := .next (if s.up then s.rdvRelease ctx rdv else s)

/-- RENDEZVOUS_TIMEOUT (R195): an arrival has waited more than rdv_timeout ticks. -/
def State.rdvTimeout (s : State) (t : Nat) : State :=
  match (s.ctxOn t).bind fun c => (s.engOf c t).rdvWait with
  | some since =>
    if since + s.rd INS_CFG.rdv_timeout < s.tick then (s.wr (INS_STATUS.timeout t) 1).tileFault t 0x2903 2 else s
  | none => s

def execRendezvousTimeout (tile : Nat) (s : State) : Result := .next (if s.up then s.rdvTimeout tile else s)

/-- The compute stream's next word, or the access stream's, waits on a semaphore that does not hold enough. -/
def State.semShort (s : State) (c t : Nat) (access : Bool) : Bool :=
  if access then
    let w := s.accessWord c t (s.rd (INS_STATUS.access_pc t))
    awWaits w && s.rd (insSem t (awSem w)) == 0
  else
    let w := s.computeWord c t (s.rd (INS_STATUS.pc t))
    bits w 461 3 == 3 && decide (s.rd (insSem t (bits w 428 5)) < bits w 424 4)

/-- SEMAPHORE_WAIT_TIMEOUT (R195): a wait of the compute or the access stream that is not satisfied has lasted more than sem_timeout
ticks. -/
def State.semTimeout (s : State) (t : Nat) (access : Bool) : State :=
  match s.ctxOn t with
  | none => s
  | some c =>
    let e := s.engOf c t
    match if access then e.accWait else e.semWait with
    | some since =>
      if since + s.rd INS_CFG.sem_timeout < s.tick && s.semShort c t access then
        (s.wr (INS_STATUS.timeout t) 1).tileFault t 0x2904 2
      else s
    | none => s

def execSemaphoreWaitTimeout (tile : Nat) (access : Bool) (s : State) : Result :=
  .next (if s.up then s.semTimeout tile access else s)

/-- TILE_STEP_END (R184): the tile has issued its step-end word, its units are idle, and its access slice has ended. -/
def State.tileStepEnd (s : State) (t : Nat) : State :=
  match s.ctxOn t with
  | some c =>
    let s := s.settleArray t
    let e := s.engOf c t
    if s.issuing c t && e.ended && e.idle && s.on (INS_STATUS.ra_ended t) then s.wr (INS_STATUS.stream t) 6 else s
  | none => s

def execTileStepEnd (tile : Nat) (s : State) : Result := .next (if s.up then s.tileStepEnd tile else s)

end Sys2Proof.Machine
end

