-- ==== Sys2Proof/Machine/Dispatch.lean ====
section
/-! DEFINITION. The commands' meanings, one arm each. -/

namespace Sys2Proof.Machine

/-- The effect of one command on the state. -/
def exec (i : Instr) (s : State) : Host.Outcome State Fault Refusal :=
  match i with
  | .deviceIdentity h => Sys2Proof.Machine.execDeviceIdentity h s
  | .echo h data => Sys2Proof.Machine.execEcho h data s
  | .configurationRead h addrs => Sys2Proof.Machine.execConfigurationRead h addrs s
  | .configurationWrite h head entries => Sys2Proof.Machine.execConfigurationWrite h head entries s
  | .tilNumStatusClearCount h tile value => Sys2Proof.Machine.execTilNumStatusClearCount h tile value s
  | .tilSramEccClearCount h tile value => Sys2Proof.Machine.execTilSramEccClearCount h tile value s
  | .tilCounterCtrlClearAll h tile value => Sys2Proof.Machine.execTilCounterCtrlClearAll h tile value s
  | .aryQueueSelWrite h tile feeder queue => Sys2Proof.Machine.execAryQueueSelWrite h tile feeder queue s
  | .bwdCtrlClearTags h tile => Sys2Proof.Machine.execBwdCtrlClearTags h tile s
  | .stkEccClearCount h stack => Sys2Proof.Machine.execStkEccClearCount h stack s
  | .tilRowMapWrite h field row stagedF stagedB => Sys2Proof.Machine.execTilRowMapWrite h field row stagedF stagedB s
  | .calBistCtrlStart h ptile => Sys2Proof.Machine.execCalBistCtrlStart h ptile s
  | .bistComplete ptile failUnits => Sys2Proof.Machine.execBistComplete ptile failUnits s
  | .portEnable h port value => Sys2Proof.Machine.execPortEnable h port value s
  | .portDisable h port value => Sys2Proof.Machine.execPortDisable h port value s
  | .mgmtAddressWrite h m which value => Sys2Proof.Machine.execMgmtAddressWrite h m which value s
  | .partitionBuild h x0 y0 w ht prio stackMask slabBase slabCount creditPool => Sys2Proof.Machine.execPartitionBuild h x0 y0 w ht prio stackMask slabBase slabCount creditPool s
  | .partitionDissolve h => Sys2Proof.Machine.execPartitionDissolve h s
  | .partitionRelocate h x0 y0 => Sys2Proof.Machine.execPartitionRelocate h x0 y0 s
  | .relocationComplete p => Sys2Proof.Machine.execRelocationComplete p s
  | .contextCreate h slot role shareBase shareLines exclusive baseSeed creditFloor evictAddr latencyTarget reportEn => Sys2Proof.Machine.execContextCreate h slot role shareBase shareLines exclusive baseSeed creditFloor evictAddr latencyTarget reportEn s
  | .contextDestroy h => Sys2Proof.Machine.execContextDestroy h s
  | .sliceTableSet h n entries => Sys2Proof.Machine.execSliceTableSet h n entries s
  | .contextPreEmpt h ctx ticks => Sys2Proof.Machine.execContextPreEmpt h ctx ticks s
  | .freeAreaQuery h => Sys2Proof.Machine.execFreeAreaQuery h s
  | .slowdownRead h count => Sys2Proof.Machine.execSlowdownRead h count s
  | .programOpen h len digest => Sys2Proof.Machine.execProgramOpen h len digest s
  | .programData h offset data => Sys2Proof.Machine.execProgramData h offset data s
  | .programFetch h addr len => Sys2Proof.Machine.execProgramFetch h addr len s
  | .programCommit h => Sys2Proof.Machine.execProgramCommit h s
  | .weightSetOpen h req => Sys2Proof.Machine.execWeightSetOpen h req s
  | .storageRead h req => Sys2Proof.Machine.execStorageRead h req s
  | .storageReadData controller readId data => Sys2Proof.Machine.execStorageReadData controller readId data s
  | .storageReadTimeout controller readId => Sys2Proof.Machine.execStorageReadTimeout controller readId s
  | .storageConnectionLost controller => Sys2Proof.Machine.execStorageConnectionLost controller s
  | .weightSetCommit h slot => Sys2Proof.Machine.execWeightSetCommit h slot s
  | .buildTimeout ctx slot => Sys2Proof.Machine.execBuildTimeout ctx slot s
  | .weightSetSwitch h slot => Sys2Proof.Machine.execWeightSetSwitch h slot s
  | .weightSetRelease h slot force => Sys2Proof.Machine.execWeightSetRelease h slot force s
  | .weightSetDigest h slot shard => Sys2Proof.Machine.execWeightSetDigest h slot shard s
  | .adapterLoad h entry rank scale tag shards stream => Sys2Proof.Machine.execAdapterLoad h entry rank scale tag shards stream s
  | .adapterDrop h entry => Sys2Proof.Machine.execAdapterDrop h entry s
  | .storageConnect h req => Sys2Proof.Machine.execStorageConnect h req s
  | .storageDisconnect h controller => Sys2Proof.Machine.execStorageDisconnect h controller s
  | .shardArrival stream port => Sys2Proof.Machine.execShardArrival stream port s
  | .sequenceAdmit h req => Sys2Proof.Machine.execSequenceAdmit h req s
  | .sequenceCancel h slot => Sys2Proof.Machine.execSequenceCancel h slot s
  | .sequenceQuery h slot => Sys2Proof.Machine.execSequenceQuery h slot s
  | .sequenceDeadlineExpiry slot => Sys2Proof.Machine.execSequenceDeadlineExpiry slot s
  | .servingConfigure h values => Sys2Proof.Machine.execServingConfigure h values s
  | .ringConfigure h ring k base => Sys2Proof.Machine.execRingConfigure h ring k base s
  | .drovePreparation ctx => Sys2Proof.Machine.execDrovePreparation ctx s
  | .trainingStep h req => Sys2Proof.Machine.execTrainingStep h req s
  | .inputLogCopyComplete ctx => Sys2Proof.Machine.execInputLogCopyComplete ctx s
  | .rosterTree h descriptor => Sys2Proof.Machine.execRosterTree h descriptor s
  | .jobStartStatus h rosterDigest => Sys2Proof.Machine.execJobStartStatus h rosterDigest s
  | .inputLogRead h step source offset => Sys2Proof.Machine.execInputLogRead h step source offset s
  | .inputLogConfigure h base depth entryUnits inputAddr inWin keep => Sys2Proof.Machine.execInputLogConfigure h base depth entryUnits inputAddr inWin keep s
  | .inputLogLoad h offset total data => Sys2Proof.Machine.execInputLogLoad h offset total data s
  | .jobStartArm h bellwether areaBase areaUnits commitTimeoutS => Sys2Proof.Machine.execJobStartArm h bellwether areaBase areaUnits commitTimeoutS s
  | .jobStartBroadcast h rosterAddr members blobAddr blobLen => Sys2Proof.Machine.execJobStartBroadcast h rosterAddr members blobAddr blobLen s
  | .streamOpen h req => Sys2Proof.Machine.execStreamOpen h req s
  | .streamClose h handle => Sys2Proof.Machine.execStreamClose h handle s
  | .mirrorConfigure h handle => Sys2Proof.Machine.execMirrorConfigure h handle s
  | .mirrorAccept h handle base depth entryUnits => Sys2Proof.Machine.execMirrorAccept h handle base depth entryUnits s
  | .tickSetDirect h mode epoch periodUs => Sys2Proof.Machine.execTickSetDirect h mode epoch periodUs s
  | .tickSetEffective h k periodUs => Sys2Proof.Machine.execTickSetEffective h k periodUs s
  | .timeStep h offsetNs => Sys2Proof.Machine.execTimeStep h offsetNs s
  | .timeStatus h => Sys2Proof.Machine.execTimeStatus h s
  | .counterSnapshot h space first count offset => Sys2Proof.Machine.execCounterSnapshot h space first count offset s
  | .sensorRead h => Sys2Proof.Machine.execSensorRead h s
  | .faultLogRead h first count => Sys2Proof.Machine.execFaultLogRead h first count s
  | .measurementRead h => Sys2Proof.Machine.execMeasurementRead h s
  | .measurementExtend h slot value => Sys2Proof.Machine.execMeasurementExtend h slot value s
  | .certificateRead h which offset => Sys2Proof.Machine.execCertificateRead h which offset s
  | .attestationQuote h nonce ctx session => Sys2Proof.Machine.execAttestationQuote h nonce ctx session s
  | .quoteSigned => Sys2Proof.Machine.execQuoteSigned s
  | .quoteRead h id offset => Sys2Proof.Machine.execQuoteRead h id offset s
  | .sessionEstablishKey h => Sys2Proof.Machine.execSessionEstablishKey h s
  | .sessionEstablishCiphertext h session bind ciphertext => Sys2Proof.Machine.execSessionEstablishCiphertext h session bind ciphertext s
  | .sessionTimeout session => Sys2Proof.Machine.execSessionTimeout session s
  | .streamKeySet h session slot salt direction => Sys2Proof.Machine.execStreamKeySet h session slot salt direction s
  | .debugUnlockChallenge h level => Sys2Proof.Machine.execDebugUnlockChallenge h level s
  | .debugUnlockResponse h offset total data => Sys2Proof.Machine.execDebugUnlockResponse h offset total data s
  | .firmwareUpdateInstall h target addr len => Sys2Proof.Machine.execFirmwareUpdateInstall h target addr len s
  | .firmwareUpdateStage h addr offset total data => Sys2Proof.Machine.execFirmwareUpdateStage h addr offset total data s
  | .firmwareUpdateFloor h target fuseOk => Sys2Proof.Machine.execFirmwareUpdateFloor h target fuseOk s
  | .keyEnrolment h offset total data fuseOk => Sys2Proof.Machine.execKeyEnrolment h offset total data fuseOk s
  | .traceEnable h base k => Sys2Proof.Machine.execTraceEnable h base k s
  | .traceDisable h => Sys2Proof.Machine.execTraceDisable h s
  | .powerCapSet h capW => Sys2Proof.Machine.execPowerCapSet h capW s
  | .thermalStatus h => Sys2Proof.Machine.execThermalStatus h s
  | .calibrationRead h kind => Sys2Proof.Machine.execCalibrationRead h kind s
  | .calibrationWrite h record => Sys2Proof.Machine.execCalibrationWrite h record s
  | .calibrationCommit h => Sys2Proof.Machine.execCalibrationCommit h s
  | .calibrationRestore h offset total data => Sys2Proof.Machine.execCalibrationRestore h offset total data s
  | .resultRead h source ring start count => Sys2Proof.Machine.execResultRead h source ring start count s
  | .resultRelease h source ring upto => Sys2Proof.Machine.execResultRelease h source ring upto s
  | .retentionSet h ms => Sys2Proof.Machine.execRetentionSet h ms s
  | .resultRetentionExpiry ctx source ring => Sys2Proof.Machine.execResultRetentionExpiry ctx source ring s
  | .runtimeReply channel tag => Sys2Proof.Machine.execRuntimeReply channel tag s
  | .fwTimeout channel tag => Sys2Proof.Machine.execFwTimeout channel tag s
  | .commandDeadlineExpiry channel tag => Sys2Proof.Machine.execCommandDeadlineExpiry channel tag s
  | .returnTimeout channel => Sys2Proof.Machine.execReturnTimeout channel s
  | .relayConnection m clientKeyHash => Sys2Proof.Machine.execRelayConnection m clientKeyHash s
  | .tickBoundary => Sys2Proof.Machine.execTickBoundary s
  | .ungatingStart region => Sys2Proof.Machine.execUngatingStart region s
  | .sliceExpiry p => Sys2Proof.Machine.execSliceExpiry p s
  | .tickSlipLimit p => Sys2Proof.Machine.execTickSlipLimit p s
  | .latencyBreach ctx => Sys2Proof.Machine.execLatencyBreach ctx s
  | .evictionComplete p => Sys2Proof.Machine.execEvictionComplete p s
  | .fabricDrainTimeout ctx => Sys2Proof.Machine.execFabricDrainTimeout ctx s
  | .computeWordIssue tile ecc sram => Sys2Proof.Machine.execComputeWordIssue tile ecc sram s
  | .productStart tile ecc => Sys2Proof.Machine.execProductStart tile ecc s
  | .productComplete tile stalls => Sys2Proof.Machine.execProductComplete tile stalls s
  | .elementWiseStart tile ecc stalls => Sys2Proof.Machine.execElementWiseStart tile ecc stalls s
  | .rowEngineOperation tile ecc => Sys2Proof.Machine.execRowEngineOperation tile ecc s
  | .vectorOperation tile slot ecc => Sys2Proof.Machine.execVectorOperation tile slot ecc s
  | .wideningAdd tile slot ecc => Sys2Proof.Machine.execWideningAdd tile slot ecc s
  | .roundWithLedger tile slot ecc => Sys2Proof.Machine.execRoundWithLedger tile slot ecc s
  | .checksumResidues tile slot ecc => Sys2Proof.Machine.execChecksumResidues tile slot ecc s
  | .pruningUnit tile slot ecc => Sys2Proof.Machine.execPruningUnit tile slot ecc s
  | .mulePassStart tile ecc => Sys2Proof.Machine.execMulePassStart tile ecc s
  | .mulePanelComplete tile => Sys2Proof.Machine.execMulePanelComplete tile s
  | .mulePassComplete tile stalls => Sys2Proof.Machine.execMulePassComplete tile stalls s
  | .muleLoadComplete tile ecc => Sys2Proof.Machine.execMuleLoadComplete tile ecc s
  | .rendezvousArrival tile => Sys2Proof.Machine.execRendezvousArrival tile s
  | .rendezvousRelease ctx rdv => Sys2Proof.Machine.execRendezvousRelease ctx rdv s
  | .rendezvousTimeout tile => Sys2Proof.Machine.execRendezvousTimeout tile s
  | .semaphoreWaitTimeout tile access => Sys2Proof.Machine.execSemaphoreWaitTimeout tile access s
  | .accessWordIssue tile ecc => Sys2Proof.Machine.execAccessWordIssue tile ecc s
  | .accessWordComplete tile ecc => Sys2Proof.Machine.execAccessWordComplete tile ecc s
  | .tileStepEnd tile => Sys2Proof.Machine.execTileStepEnd tile s
  | .contextStepEnd ctx => Sys2Proof.Machine.execContextStepEnd ctx s
  | .downlinkLineReceive tile crcOk => Sys2Proof.Machine.execDownlinkLineReceive tile crcOk s
  | .downlinkRequestTimeout tile => Sys2Proof.Machine.execDownlinkRequestTimeout tile s
  | .meshLineReceive tile dir parityOk => Sys2Proof.Machine.execMeshLineReceive tile dir parityOk s
  | .expressEdgeDrop tile lane => Sys2Proof.Machine.execExpressEdgeDrop tile lane s
  | .stackRequest stack line write by_ ecc => Sys2Proof.Machine.execStackRequest stack line write by_ ecc s
  | .stackScrubUnit stack ecc badLine => Sys2Proof.Machine.execStackScrubUnit stack ecc badLine s
  | .stackLost stack => Sys2Proof.Machine.execStackLost stack s
  | .weightScrubShard readError1 readError2 => Sys2Proof.Machine.execWeightScrubShard readError1 readError2 s
  | .heartbeatTimeout ptile tileMissing routerMissing => Sys2Proof.Machine.execHeartbeatTimeout ptile tileMissing routerMissing s
  | .crossingTimeout crossing unit_ => Sys2Proof.Machine.execCrossingTimeout crossing unit_ s
  | .crossingWake crossing unit_ => Sys2Proof.Machine.execCrossingWake crossing unit_ s
  | .wakeTimeout crossing unit_ => Sys2Proof.Machine.execWakeTimeout crossing unit_ s
  | .crossingRestart crossing unit_ => Sys2Proof.Machine.execCrossingRestart crossing unit_ s
  | .ptpMessageReceived msg => Sys2Proof.Machine.execPtpMessageReceived msg s
  | .syncLoss => Sys2Proof.Machine.execSyncLoss s
  | .holdoverExpiry => Sys2Proof.Machine.execHoldoverExpiry s
  | .ppsEdge errorNs => Sys2Proof.Machine.execPpsEdge errorNs s
  | .timePortLinkUp q lengthDm => Sys2Proof.Machine.execTimePortLinkUp q lengthDm s
  | .cableMeasurement port lengthDm optical powerClassW => Sys2Proof.Machine.execCableMeasurement port lengthDm optical powerClassW s
  | .linkTrained port => Sys2Proof.Machine.execLinkTrained port s
  | .alignmentLoss port => Sys2Proof.Machine.execAlignmentLoss port s
  | .lldpTransmit port => Sys2Proof.Machine.execLldpTransmit port s
  | .lldpduReceived port chassis portId ttl tlv => Sys2Proof.Machine.execLldpduReceived port chassis portId ttl tlv s
  | .lldpTtlExpiry port => Sys2Proof.Machine.execLldpTtlExpiry port s
  | .neighbourDiscovery port kind => Sys2Proof.Machine.execNeighbourDiscovery port kind s
  | .dataReceived port pkt => Sys2Proof.Machine.execDataReceived port pkt s
  | .ackReceived ack => Sys2Proof.Machine.execAckReceived ack s
  | .ackDelayExpiry stream => Sys2Proof.Machine.execAckDelayExpiry stream s
  | .retransmissionTimeout stream psn peer => Sys2Proof.Machine.execRetransmissionTimeout stream psn peer s
  | .streamTimeout stream => Sys2Proof.Machine.execStreamTimeout stream s
  | .congestionPeriod stream => Sys2Proof.Machine.execCongestionPeriod stream s
  | .controlMessageReceived peer id ctype body => Sys2Proof.Machine.execControlMessageReceived peer id ctype body s
  | .ctrlAck peer id => Sys2Proof.Machine.execCtrlAck peer id s
  | .ctrlRetryExpiry id => Sys2Proof.Machine.execCtrlRetryExpiry id s
  | .jobDeliver peer psn part => Sys2Proof.Machine.execJobDeliver peer psn part s
  | .jobAck peer id broadcastId generation member digest => Sys2Proof.Machine.execJobAck peer id broadcastId generation member digest s
  | .ackLevelDeadline broadcastId => Sys2Proof.Machine.execAckLevelDeadline broadcastId s
  | .jobCommit sender id broadcastId rosterDigest => Sys2Proof.Machine.execJobCommit sender id broadcastId rosterDigest s
  | .jobCommitAck peer id broadcastId member => Sys2Proof.Machine.execJobCommitAck peer id broadcastId member s
  | .commitTimeout ctx => Sys2Proof.Machine.execCommitTimeout ctx s
  | .mirror stream step entry => Sys2Proof.Machine.execMirror stream step entry s
  | .mirrorAck peer id rosterDigest step digest => Sys2Proof.Machine.execMirrorAck peer id rosterDigest step digest s
  | .mirrorBehind ctx => Sys2Proof.Machine.execMirrorBehind ctx s
  | .contributionReceived ctx child step attempt => Sys2Proof.Machine.execContributionReceived ctx child step attempt s
  | .hopDeadlineExpiry ctx => Sys2Proof.Machine.execHopDeadlineExpiry ctx s
  | .voidRequest peer id msg => Sys2Proof.Machine.execVoidRequest peer id msg s
  | .rootDeadlineExpiry ctx => Sys2Proof.Machine.execRootDeadlineExpiry ctx s
  | .verdict peer id msg => Sys2Proof.Machine.execVerdict peer id msg s
  | .verdictQuery peer id msg => Sys2Proof.Machine.execVerdictQuery peer id msg s
  | .verdictTimeout ctx => Sys2Proof.Machine.execVerdictTimeout ctx s
  | .inputFilterUpdate => Sys2Proof.Machine.execInputFilterUpdate s
  | .sensorSample kind index value => Sys2Proof.Machine.execSensorSample kind index value s
  | .entryImbalance entry => Sys2Proof.Machine.execEntryImbalance entry s
  | .supplyTrip cause entry => Sys2Proof.Machine.execSupplyTrip cause entry s
  | .emergencyOff => Sys2Proof.Machine.execEmergencyOff s
  | .moduleThermalTrip condition index => Sys2Proof.Machine.execModuleThermalTrip condition index s
  | .regionEmergency region => Sys2Proof.Machine.execRegionEmergency region s
  | .limiterRise => Sys2Proof.Machine.execLimiterRise s
  | .limiterFall => Sys2Proof.Machine.execLimiterFall s
  | .droopClockStretching tile cycles => Sys2Proof.Machine.execDroopClockStretching tile cycles s
  | .fieldConverterFailure field => Sys2Proof.Machine.execFieldConverterFailure field s
  | .inputApplied => Sys2Proof.Machine.execInputApplied s
  | .prechargeComplete entry => Sys2Proof.Machine.execPrechargeComplete entry s
  | .standbyPowerArrival => Sys2Proof.Machine.execStandbyPowerArrival s
  | .powerOn iface tag => Sys2Proof.Machine.execPowerOn iface tag s
  | .powerUpPreconditions => Sys2Proof.Machine.execPowerUpPreconditions s
  | .powerUpStageTimeout p7 => Sys2Proof.Machine.execPowerUpStageTimeout p7 s
  | .powerUpStageComplete result => Sys2Proof.Machine.execPowerUpStageComplete result s
  | .powerGood => Sys2Proof.Machine.execPowerGood s
  | .powerOff iface tag => Sys2Proof.Machine.execPowerOff iface tag s
  | .moduleResetAssert => Sys2Proof.Machine.execModuleResetAssert s
  | .moduleResetRelease => Sys2Proof.Machine.execModuleResetRelease s
  | .serviceStatus iface tag => Sys2Proof.Machine.execServiceStatus iface tag s
  | .serviceFaultLogRead iface tag first count => Sys2Proof.Machine.execServiceFaultLogRead iface tag first count s
  | .trustedRelay tag packetTag mode target addr offset total data => Sys2Proof.Machine.execTrustedRelay tag packetTag mode target addr offset total data s
  | .serviceFrameTimeout iface => Sys2Proof.Machine.execServiceFrameTimeout iface s
  | .jtagInstruction instr => Sys2Proof.Machine.execJtagInstruction instr s
  | .standbyPowerLoss => Sys2Proof.Machine.execStandbyPowerLoss s
  | .opcodeUnassigned packet service => Sys2Proof.Machine.execOpcodeUnassigned packet service s
  | .linkLowPowerEntry => Sys2Proof.Machine.execLinkLowPowerEntry s
  | .linkAcceptsAgain channel => Sys2Proof.Machine.execLinkAcceptsAgain channel s
  | .runtimeRestart up => Sys2Proof.Machine.execRuntimeRestart up s
  | .relayConnectionEnd m channel packet => Sys2Proof.Machine.execRelayConnectionEnd m channel packet s

end Sys2Proof.Machine
end

