-- ==== Sys2Proof/Machine/Packet.lean ====
section
/-! DEFINITION. From the bytes of a command packet to the command (R342, R349): the header of Table 16-1, the opcode of Table 16-3 and the
payload that the command's rule lays out. The inverse direction, the packets the module sends, is `Packet.bytes`. -/

namespace Sys2Proof.Machine

/-- The payload of a packet: what stands between the header and the trailer. -/
def packetBody (p : Bytes) : Bytes := (p.drop 32).take (p.length - 36)

/-- The i-th 8-byte parameter of a payload (R349). -/
def param (b : Bytes) (i : Nat) : Nat := leAt b (8 * i) 8

/-- The 16-byte entries that follow a payload's first 8 bytes (R353 and the slice table). -/
def payloadEntries (b : Bytes) : List (Nat × Nat) := (List.range ((b.length - 8) / 16)).map fun i => (param b (2 * i + 1), param b (2 * i + 2))

/-- Weight-set open (Table 16-5). -/
def weightOpenOf (b : Bytes) : WeightOpen :=
  { tag := leAt b 0 8, shards := leAt b 8 4, stream := leAt b 12 2, slot := leAt b 14 1,
    sramWin := leAt b 16 4, sramLen := leAt b 20 4, sramBase := leAt b 24 4,
    scaleWin := leAt b 28 2, scaleLen := leAt b 30 2, scaleBase := leAt b 32 2,
    maskWin := leAt b 34 2, maskLen := leAt b 36 2, maskBase := leAt b 38 2,
    stackWin := leAt b 40 8, stackLen := leAt b 48 8, stackBase := leAt b 56 8 }

/-- Storage read (Table 16-5). -/
def storageReadOf (b : Bytes) : StorageReadReq :=
  { controller := leAt b 0 1, target := leAt b 1 1, index := leAt b 2 2, nsid := leAt b 4 4, lba := leAt b 8 8, blocks := leAt b 16 8 }

/-- Storage connect (Table 16-5). The address's 16 bytes stand in network order, as those of a stream's peer do (DEDUCED, log 72). -/
def storageConnOf (b : Bytes) : StorageConn :=
  { controller := leAt b 0 1, port := leAt b 1 1, tcpPort := leAt b 2 2, ioQueues := leAt b 4 1, depth := leAt b 5 1,
    address := beNum (slice b 8 16), subnqn := slice b 24 224 }

/-- Stream open (Table 16-5). -/
def streamOpenOf (b : Bytes) : StreamOpenReq :=
  { port := leAt b 0 1, direction := leAt b 1 1, kind := leAt b 2 1, protect := leAt b 3 1, keySlot := leAt b 4 2,
    peerUdp := leAt b 6 2, peerHandle := leAt b 8 2, peerAddr := beNum (slice b 16 16) }

/-- Training step (Table 16-5). -/
def trainOf (b : Bytes) : TrainReq :=
  { rosterDigest := slice b 0 32, step := leAt b 32 8, seed := leAt b 40 8, weightVersion := leAt b 48 8, deadlineNs := leAt b 56 4,
    entry := leAt b 60 1, share := leAt b 64 4, paramAddr := leAt b 72 8, params := slice b 80 48 }

/-- Sequence admit (R357): words 0 to 5 and 7 of Table 14-1. -/
def admitOf (b : Bytes) : AdmitReq :=
  { prio := bits (param b 0) 50 3, pin := bits (param b 0) 48 2, adapterEn := bits (param b 0) 47 1 == 1, adapter := bits (param b 0) 35 12,
    tag := param b 1, kvIndex := bits (param b 2) 40 14, limit := bits (param b 3) 32 32, promptLen := bits (param b 3) 0 32,
    deadlineTick := param b 4, ring := bits (param b 5) 56 8, promptAddr := bits (param b 5) 0 40,
    dropLate := bits (param b 6) 2 1 == 1, late := bits (param b 6) 3 1 == 1 }

/-- A command whose payload opens with a mode that its rule does not give: the form below stands for it, whose own parameter check answers
as for any parameter out of its range; a length that passes check 4 is set to that form's (DEDUCED, log 72). -/
def fitLength (h : Hdr) (n : Nat) : Hdr := if h.length % 8 = 0 ∧ h.length ≤ 4096 then { h with length := n } else h

/-- The security commands of two or three modes, by opcode and mode (chapter 19). -/
def securityCommand (op : Nat) (h : Hdr) (b : Bytes) : Option Instr :=
  match op, param b 0 with
  | 0x0901, 0 => some (.measurementRead h)
  | 0x0901, 1 => some (.measurementExtend h (param b 1) (slice b 16 32))
  | 0x0901, 2 => some (.certificateRead h (param b 1) (param b 2))
  | 0x0901, _ => some (.certificateRead (fitLength h 24) 2 0)
  | 0x0902, 0 => some (.attestationQuote h (slice b 8 32) (param b 5) (param b 6))
  | 0x0902, 1 => some (.quoteRead h (param b 1) (param b 2))
  | 0x0902, _ => some (.attestationQuote (fitLength h 56) (padTo 32 []) 128 0xFF)
  | 0x0903, 0 => some (.sessionEstablishKey h)
  | 0x0903, 1 => some (.sessionEstablishCiphertext h (param b 1) (param b 2) (b.drop 24))
  | 0x0903, _ => some (.sessionEstablishCiphertext (fitLength h 1112) 64 0 (padTo 1088 []))
  | 0x0904, _ => some (.streamKeySet h (param b 0) (param b 1) (param b 2) (param b 3))
  | 0x0905, 0 => some (.debugUnlockChallenge h (param b 1))
  | 0x0905, 1 => some (.debugUnlockResponse h (leAt b 8 4) (leAt b 12 4) (b.drop 16))
  | 0x0905, _ => some (.debugUnlockChallenge (fitLength h 16) 0)
  | 0x0906, 0 => some (.firmwareUpdateInstall h (param b 1) (param b 2) (param b 3))
  | 0x0906, 1 => some (.firmwareUpdateStage h (param b 1) (leAt b 16 4) (leAt b 20 4) (b.drop 24))
  | 0x0906, 2 => some (.firmwareUpdateFloor h (param b 1) true)
  | 0x0906, _ => some (.firmwareUpdateInstall (fitLength h 32) 2 0 0)
  | 0x0907, _ => some (.keyEnrolment h (leAt b 0 4) (leAt b 4 4) (b.drop 8) true)
  | _, _ => none

/-- The command that a payload spells under an opcode (Tables 16-3 and 16-5 and the rules they name). The rows that are special cases of a
configuration write arrive as one. -/
def commandOf (op : Nat) (h : Hdr) (b : Bytes) : Option Instr :=
  let a := param b
  match op with
  | 0x0001 => some (.deviceIdentity h)
  | 0x0002 => some (.echo h b)
  | 0x0101 => some (.configurationRead h ((List.range (b.length / 8)).map a))
  | 0x0102 => some (.configurationWrite h (a 0) (payloadEntries b))
  | 0x0201 => some (.partitionBuild h (a 0) (a 1) (a 2) (a 3) (a 4) (a 5) (a 6) (a 7) (a 8))
  | 0x0202 => some (.partitionDissolve h)
  | 0x0203 => some (.partitionRelocate h (a 0) (a 1))
  | 0x0204 => some (.contextCreate h (a 0) (a 1) (a 2) (a 3) (a 4) (a 5) (a 6) (a 7) (a 8) (a 9))
  | 0x0205 => some (.contextDestroy h)
  | 0x0206 => some (.sliceTableSet h (a 0) (payloadEntries b))
  | 0x0207 => some (.contextPreEmpt h (a 0) (a 1))
  | 0x0208 => some (.freeAreaQuery h)
  | 0x0209 => some (.slowdownRead h (a 0))
  | 0x0301 => some (.programOpen h (a 0) (slice b 8 32))
  | 0x0302 => some (.programData h (a 0) (b.drop 8))
  | 0x0303 => some (.programFetch h (a 0) (a 1))
  | 0x0304 => some (.programCommit h)
  | 0x0401 => some (.weightSetOpen h (weightOpenOf b))
  | 0x0402 => some (.storageRead h (storageReadOf b))
  | 0x0403 => some (.weightSetCommit h (a 0))
  | 0x0404 => some (.weightSetSwitch h (a 0))
  | 0x0405 => some (.weightSetRelease h (a 0) (a 1))
  | 0x0406 => some (.weightSetDigest h (a 0) (a 1))
  | 0x0407 => some (.adapterLoad h (a 0) (a 1) (a 2) (a 3) (a 4) (a 5))
  | 0x0408 => some (.adapterDrop h (a 0))
  | 0x0409 => some (.storageConnect h (storageConnOf b))
  | 0x040A => some (.storageDisconnect h (a 0))
  | 0x0501 => some (.sequenceAdmit h (admitOf b))
  | 0x0502 => some (.sequenceCancel h (a 0))
  | 0x0503 => some (.sequenceQuery h (a 0))
  | 0x0504 => some (.servingConfigure h ((List.range 11).map a))
  | 0x0505 => some (.ringConfigure h (a 0) (a 1) (a 2))
  | 0x0601 => some (.trainingStep h (trainOf b))
  | 0x0602 => some (.jobStartStatus h b)
  | 0x0603 => some (.rosterTree h b)
  | 0x0604 => some (.inputLogRead h (a 0) (a 1) (a 2))
  | 0x0605 => some (.jobStartArm h (beNum (slice b 0 16)) (a 2) (a 3) (a 4))
  | 0x0606 => some (.jobStartBroadcast h (a 0) (a 1) (a 2) (a 3))
  | 0x0607 => some (.streamOpen h (streamOpenOf b))
  | 0x0608 => some (.streamClose h (a 0))
  | 0x0609 => some (.mirrorConfigure h (a 0))
  | 0x060A => some (.mirrorAccept h (a 0) (a 1) (a 2) (a 3))
  | 0x060B => some (.inputLogConfigure h (a 0) (a 1) (a 2) (a 3) (a 4) (a 5))
  | 0x060C => some (.inputLogLoad h (leAt b 0 4) (leAt b 4 4) (b.drop 8))
  | 0x0701 => some (if a 0 = 1 then .tickSetEffective h (a 1) (a 2) else .tickSetDirect h (a 0) (a 1) (a 2))
  | 0x0702 => some (.timeStep h (sgn 64 (a 0)))
  | 0x0703 => some (.timeStatus h)
  | 0x0801 => some (.counterSnapshot h (a 0) (a 1) (a 2) (a 3))
  | 0x0802 => some (.sensorRead h)
  | 0x0803 => some (.faultLogRead h (a 0) (a 1))
  | 0x0A01 => some (.traceEnable h (a 0) (a 1))
  | 0x0A02 => some (.traceDisable h)
  | 0x0B01 => some (.powerCapSet h (a 0))
  | 0x0B02 => some (.thermalStatus h)
  | 0x0B03 => some (.calibrationRead h (a 0))
  | 0x0B04 => some (.calibrationWrite h b)
  | 0x0B05 => some (.calibrationCommit h)
  | 0x0B06 => some (.calibrationRestore h (leAt b 0 4) (leAt b 4 4) (b.drop 8))
  | 0x0C01 => some (.resultRead h (a 0) (a 1) (a 2) (a 3))
  | 0x0C02 => some (.resultRelease h (a 0) (a 1) (a 2))
  | 0x0C03 => some (.retentionSet h (a 0))
  | _ => securityCommand op h b

/-- The command that a packet's bytes are: one that fails checks 1 to 3 of Table 16-2 is the row of a packet that no command takes, and
every other the command of its opcode. What only the outside supplies (whether the firmware answers at once, a fuse that holds, a controller
that declines its digests) is taken as it goes when nothing fails (DESIGN CHOICE, log 72). -/
def packetCommand (p : Bytes) : Instr :=
  if packetCrcOk p && leAt p 0 1 == 1 then (commandOf (leAt p 2 2) (packetHdr p) (packetBody p)).getD (.opcodeUnassigned p none)
  else .opcodeUnassigned p none

end Sys2Proof.Machine
end

