-- ==== Sys2Proof/Machine/Step.lean ====
section
/-! DEFINITION. One step of the module: the command at the front of the queue takes effect; on an empty queue a
crossing delivers what waits in it (DESIGN CHOICE, log 55), or one nanosecond of hall time passes (DESIGN CHOICE, log 10). -/

namespace Sys2Proof.Machine

/-- The state with a command put at the front of its queue. -/
def State.withCommand (s : State) (i : Instr) : State := { s with pending := i :: s.pending }

/-- The state at whose link a command packet arrives: the command its bytes are stands at the front of the queue (R342, R343). -/
def State.withPacket (s : State) (p : Bytes) : State := s.withCommand (packetCommand p)

/-- The state with the command that a table word spells at the front of its queue; unchanged where the word spells none. -/
def State.withFetchWord (s : State) (nbits w : Nat) : State :=
  match decodeTableWord nbits w with
  | some i => s.withCommand i
  | none => s

/-- With no command waiting, what waits in a crossing that runs goes through, the first in line (R231, R232; log 55); else one nanosecond
passes. -/
def State.unattended (s : State) : Host.Outcome State Fault Refusal :=
  match s.nextHeld with
  | none => .next s.rest
  | some (x, i) =>
    match exec i (s.release x) with
    | .next t => .next t.delivered
    | o => o

/-- The next step. -/
def step (s : State) : Host.Outcome State Fault Refusal :=
  match s.pending with
  | [] => s.unattended
  | i :: rest => exec i { s with pending := rest }

end Sys2Proof.Machine
end

