-- ==== Sys2Proof/WellFormed.lean ====
section
/-! DEFINITION. Which commands are well formed: every header field fits its width in Table 16-1, and every unit that an event
or a command names exists (R9, Table 0-4). The checks that the module makes on a command's own parameters are no part of
this: a command that fails them is well formed, and is refused with a status. -/

namespace Sys2Proof

/-- The header's fields fit their widths (Table 16-1). -/
def Hdr.wf (h : Hdr) : Bool :=
  decide (h.channel < 8) && decide (h.tag < 2 ^ 32) && decide (h.partition < 32) && decide (h.context < 128) &&
    decide (h.length < 2 ^ 16) && decide (h.deadline < 2 ^ 64)

/-- The header of a command packet; none for an event. -/
def Instr.hdr? : Instr → Option Hdr
  | .deviceIdentity h => some h
  | .echo h _ => some h
  | .configurationRead h _ => some h
  | .configurationWrite h _ _ => some h
  | .tilNumStatusClearCount h _ _ => some h
  | .tilSramEccClearCount h _ _ => some h
  | .tilCounterCtrlClearAll h _ _ => some h
  | .aryQueueSelWrite h _ _ _ => some h
  | .bwdCtrlClearTags h _ => some h
  | .stkEccClearCount h _ => some h
  | .tilRowMapWrite h _ _ _ _ => some h
  | .calBistCtrlStart h _ => some h
  | .bistComplete _ _ => none
  | .portEnable h _ _ => some h
  | .portDisable h _ _ => some h
  | .mgmtAddressWrite h _ _ _ => some h
  | .partitionBuild h _ _ _ _ _ _ _ _ _ => some h
  | .partitionDissolve h => some h
  | .partitionRelocate h _ _ => some h
  | .relocationComplete _ => none
  | .contextCreate h _ _ _ _ _ _ _ _ _ _ => some h
  | .contextDestroy h => some h
  | .sliceTableSet h _ _ => some h
  | .contextPreEmpt h _ _ => some h
  | .freeAreaQuery h => some h
  | .slowdownRead h _ => some h
  | .programOpen h _ _ => some h
  | .programData h _ _ => some h
  | .programFetch h _ _ => some h
  | .programCommit h => some h
  | .weightSetOpen h _ => some h
  | .storageRead h _ => some h
  | .storageReadData _ _ _ => none
  | .storageReadTimeout _ _ => none
  | .storageConnectionLost _ => none
  | .weightSetCommit h _ => some h
  | .buildTimeout _ _ => none
  | .weightSetSwitch h _ => some h
  | .weightSetRelease h _ _ => some h
  | .weightSetDigest h _ _ => some h
  | .adapterLoad h _ _ _ _ _ _ => some h
  | .adapterDrop h _ => some h
  | .storageConnect h _ => some h
  | .storageDisconnect h _ => some h
  | .shardArrival _ _ => none
  | .sequenceAdmit h _ => some h
  | .sequenceCancel h _ => some h
  | .sequenceQuery h _ => some h
  | .sequenceDeadlineExpiry _ => none
  | .servingConfigure h _ => some h
  | .ringConfigure h _ _ _ => some h
  | .drovePreparation _ => none
  | .trainingStep h _ => some h
  | .inputLogCopyComplete _ => none
  | .rosterTree h _ => some h
  | .jobStartStatus h _ => some h
  | .inputLogRead h _ _ _ => some h
  | .inputLogConfigure h _ _ _ _ _ _ => some h
  | .inputLogLoad h _ _ _ => some h
  | .jobStartArm h _ _ _ _ => some h
  | .jobStartBroadcast h _ _ _ _ => some h
  | .streamOpen h _ => some h
  | .streamClose h _ => some h
  | .mirrorConfigure h _ => some h
  | .mirrorAccept h _ _ _ _ => some h
  | .tickSetDirect h _ _ _ => some h
  | .tickSetEffective h _ _ => some h
  | .timeStep h _ => some h
  | .timeStatus h => some h
  | .counterSnapshot h _ _ _ _ => some h
  | .sensorRead h => some h
  | .faultLogRead h _ _ => some h
  | .measurementRead h => some h
  | .measurementExtend h _ _ => some h
  | .certificateRead h _ _ => some h
  | .attestationQuote h _ _ _ => some h
  | .quoteSigned => none
  | .quoteRead h _ _ => some h
  | .sessionEstablishKey h => some h
  | .sessionEstablishCiphertext h _ _ _ => some h
  | .sessionTimeout _ => none
  | .streamKeySet h _ _ _ _ => some h
  | .debugUnlockChallenge h _ => some h
  | .debugUnlockResponse h _ _ _ => some h
  | .firmwareUpdateInstall h _ _ _ => some h
  | .firmwareUpdateStage h _ _ _ _ => some h
  | .firmwareUpdateFloor h _ _ => some h
  | .keyEnrolment h _ _ _ _ => some h
  | .traceEnable h _ _ => some h
  | .traceDisable h => some h
  | .powerCapSet h _ => some h
  | .thermalStatus h => some h
  | .calibrationRead h _ => some h
  | .calibrationWrite h _ => some h
  | .calibrationCommit h => some h
  | .calibrationRestore h _ _ _ => some h
  | .resultRead h _ _ _ _ => some h
  | .resultRelease h _ _ _ => some h
  | .retentionSet h _ => some h
  | .resultRetentionExpiry _ _ _ => none
  | .runtimeReply _ _ => none
  | .fwTimeout _ _ => none
  | .commandDeadlineExpiry _ _ => none
  | .returnTimeout _ => none
  | .relayConnection _ _ => none
  | .tickBoundary => none
  | .ungatingStart _ => none
  | .sliceExpiry _ => none
  | .tickSlipLimit _ => none
  | .latencyBreach _ => none
  | .evictionComplete _ => none
  | .fabricDrainTimeout _ => none
  | .computeWordIssue _ _ _ => none
  | .productStart _ _ => none
  | .productComplete _ _ => none
  | .elementWiseStart _ _ _ => none
  | .rowEngineOperation _ _ => none
  | .vectorOperation _ _ _ => none
  | .wideningAdd _ _ _ => none
  | .roundWithLedger _ _ _ => none
  | .checksumResidues _ _ _ => none
  | .pruningUnit _ _ _ => none
  | .mulePassStart _ _ => none
  | .mulePanelComplete _ => none
  | .mulePassComplete _ _ => none
  | .muleLoadComplete _ _ => none
  | .rendezvousArrival _ => none
  | .rendezvousRelease _ _ => none
  | .rendezvousTimeout _ => none
  | .semaphoreWaitTimeout _ _ => none
  | .accessWordIssue _ _ => none
  | .accessWordComplete _ _ => none
  | .tileStepEnd _ => none
  | .contextStepEnd _ => none
  | .downlinkLineReceive _ _ => none
  | .downlinkRequestTimeout _ => none
  | .meshLineReceive _ _ _ => none
  | .expressEdgeDrop _ _ => none
  | .stackRequest _ _ _ _ _ => none
  | .stackScrubUnit _ _ _ => none
  | .stackLost _ => none
  | .weightScrubShard _ _ => none
  | .heartbeatTimeout _ _ _ => none
  | .crossingTimeout _ _ => none
  | .crossingWake _ _ => none
  | .wakeTimeout _ _ => none
  | .crossingRestart _ _ => none
  | .ptpMessageReceived _ => none
  | .syncLoss => none
  | .holdoverExpiry => none
  | .ppsEdge _ => none
  | .timePortLinkUp _ _ => none
  | .cableMeasurement _ _ _ _ => none
  | .linkTrained _ => none
  | .alignmentLoss _ => none
  | .lldpTransmit _ => none
  | .lldpduReceived _ _ _ _ _ => none
  | .lldpTtlExpiry _ => none
  | .neighbourDiscovery _ _ => none
  | .dataReceived _ _ => none
  | .ackReceived _ => none
  | .ackDelayExpiry _ => none
  | .retransmissionTimeout _ _ _ => none
  | .streamTimeout _ => none
  | .congestionPeriod _ => none
  | .controlMessageReceived _ _ _ _ => none
  | .ctrlAck _ _ => none
  | .ctrlRetryExpiry _ => none
  | .jobDeliver _ _ _ => none
  | .jobAck _ _ _ _ _ _ => none
  | .ackLevelDeadline _ => none
  | .jobCommit _ _ _ _ => none
  | .jobCommitAck _ _ _ _ => none
  | .commitTimeout _ => none
  | .mirror _ _ _ => none
  | .mirrorAck _ _ _ _ _ => none
  | .mirrorBehind _ => none
  | .contributionReceived _ _ _ _ => none
  | .hopDeadlineExpiry _ => none
  | .voidRequest _ _ _ => none
  | .rootDeadlineExpiry _ => none
  | .verdict _ _ _ => none
  | .verdictQuery _ _ _ => none
  | .verdictTimeout _ => none
  | .inputFilterUpdate => none
  | .sensorSample _ _ _ => none
  | .entryImbalance _ => none
  | .supplyTrip _ _ => none
  | .emergencyOff => none
  | .moduleThermalTrip _ _ => none
  | .regionEmergency _ => none
  | .limiterRise => none
  | .limiterFall => none
  | .droopClockStretching _ _ => none
  | .fieldConverterFailure _ => none
  | .inputApplied => none
  | .prechargeComplete _ => none
  | .standbyPowerArrival => none
  | .powerOn _ _ => none
  | .powerUpPreconditions => none
  | .powerUpStageTimeout _ => none
  | .powerUpStageComplete _ => none
  | .powerGood => none
  | .powerOff _ _ => none
  | .moduleResetAssert => none
  | .moduleResetRelease => none
  | .serviceStatus _ _ => none
  | .serviceFaultLogRead _ _ _ _ => none
  | .trustedRelay _ _ _ _ _ _ _ _ => none
  | .serviceFrameTimeout _ => none
  | .jtagInstruction _ => none
  | .standbyPowerLoss => none
  | .opcodeUnassigned _ _ => none
  | .linkLowPowerEntry => none
  | .linkAcceptsAgain _ => none
  | .runtimeRestart _ => none
  | .relayConnectionEnd _ _ _ => none

/-- A command or event is well formed. -/
def Instr.wf : Instr → Bool
  | .deviceIdentity h => h.wf
  | .echo h _ => h.wf
  | .configurationRead h _ => h.wf
  | .configurationWrite h _ _ => h.wf
  | .tilNumStatusClearCount h tile _ => h.wf && decide (tile < 3528)
  | .tilSramEccClearCount h tile _ => h.wf && decide (tile < 3528)
  | .tilCounterCtrlClearAll h tile _ => h.wf && decide (tile < 3528)
  | .aryQueueSelWrite h tile feeder queue => h.wf && decide (tile < 3528) && decide (feeder < 2) && decide (queue < 64)
  | .bwdCtrlClearTags h tile => h.wf && decide (tile < 3528)
  | .stkEccClearCount h stack => h.wf && decide (stack < 12)
  | .tilRowMapWrite h field row _ _ => h.wf && decide (field < 49) && decide (row < 6)
  | .calBistCtrlStart h ptile => h.wf && decide (ptile < 4116)
  | .bistComplete ptile _ => decide (ptile < 4116)
  | .portEnable h port _ => h.wf && decide (port < 64)
  | .portDisable h port _ => h.wf && decide (port < 64)
  | .mgmtAddressWrite h m _ _ => h.wf && decide (m < 2)
  | .partitionBuild h _ _ _ _ _ _ _ _ _ => h.wf
  | .partitionDissolve h => h.wf
  | .partitionRelocate h _ _ => h.wf
  | .relocationComplete p => decide (p < 32)
  | .contextCreate h _ _ _ _ _ _ _ _ _ _ => h.wf
  | .contextDestroy h => h.wf
  | .sliceTableSet h _ _ => h.wf
  | .contextPreEmpt h ctx _ => h.wf && decide (ctx < 128)
  | .freeAreaQuery h => h.wf
  | .slowdownRead h _ => h.wf
  | .programOpen h _ digest => h.wf && decide (digest.length = 32)
  | .programData h _ _ => h.wf
  | .programFetch h _ _ => h.wf
  | .programCommit h => h.wf
  | .weightSetOpen h _ => h.wf
  | .storageRead h _ => h.wf
  | .storageReadData controller _ _ => decide (controller < 8)
  | .storageReadTimeout controller _ => decide (controller < 8)
  | .storageConnectionLost controller => decide (controller < 8)
  | .weightSetCommit h _ => h.wf
  | .buildTimeout ctx slot => decide (ctx < 128) && decide (slot < 4098)
  | .weightSetSwitch h _ => h.wf
  | .weightSetRelease h _ _ => h.wf
  | .weightSetDigest h _ _ => h.wf
  | .adapterLoad h _ _ _ _ _ _ => h.wf
  | .adapterDrop h _ => h.wf
  | .storageConnect h _ => h.wf
  | .storageDisconnect h controller => h.wf && decide (controller < 8)
  | .shardArrival stream port => decide (stream < 4096) && decide (port < 64)
  | .sequenceAdmit h _ => h.wf
  | .sequenceCancel h _ => h.wf
  | .sequenceQuery h _ => h.wf
  | .sequenceDeadlineExpiry _ => true
  | .servingConfigure h _ => h.wf
  | .ringConfigure h _ _ _ => h.wf
  | .drovePreparation ctx => decide (ctx < 128)
  | .trainingStep h _ => h.wf
  | .inputLogCopyComplete ctx => decide (ctx < 128)
  | .rosterTree h _ => h.wf
  | .jobStartStatus h rosterDigest => h.wf && decide (rosterDigest.length = 32)
  | .inputLogRead h _ _ _ => h.wf
  | .inputLogConfigure h _ _ _ _ _ _ => h.wf
  | .inputLogLoad h _ _ _ => h.wf
  | .jobStartArm h _ _ _ _ => h.wf
  | .jobStartBroadcast h _ _ _ _ => h.wf
  | .streamOpen h _ => h.wf
  | .streamClose h _ => h.wf
  | .mirrorConfigure h _ => h.wf
  | .mirrorAccept h _ _ _ _ => h.wf
  | .tickSetDirect h mode _ _ => h.wf && mode != 1
  | .tickSetEffective h _ _ => h.wf
  | .timeStep h _ => h.wf
  | .timeStatus h => h.wf
  | .counterSnapshot h _ _ _ _ => h.wf
  | .sensorRead h => h.wf
  | .faultLogRead h _ _ => h.wf
  | .measurementRead h => h.wf
  | .measurementExtend h _ _ => h.wf
  | .certificateRead h _ _ => h.wf
  | .attestationQuote h _ ctx _ => h.wf && decide (ctx < 128)
  | .quoteSigned => true
  | .quoteRead h _ _ => h.wf
  | .sessionEstablishKey h => h.wf
  | .sessionEstablishCiphertext h _ _ _ => h.wf
  | .sessionTimeout _ => true
  | .streamKeySet h _ _ _ _ => h.wf
  | .debugUnlockChallenge h _ => h.wf
  | .debugUnlockResponse h _ _ _ => h.wf
  | .firmwareUpdateInstall h _ _ _ => h.wf
  | .firmwareUpdateStage h _ _ _ _ => h.wf
  | .firmwareUpdateFloor h _ _ => h.wf
  | .keyEnrolment h _ _ _ _ => h.wf
  | .traceEnable h _ _ => h.wf
  | .traceDisable h => h.wf
  | .powerCapSet h _ => h.wf
  | .thermalStatus h => h.wf
  | .calibrationRead h _ => h.wf
  | .calibrationWrite h _ => h.wf
  | .calibrationCommit h => h.wf
  | .calibrationRestore h _ _ _ => h.wf
  | .resultRead h _ _ _ _ => h.wf
  | .resultRelease h _ _ _ => h.wf
  | .retentionSet h _ => h.wf
  | .resultRetentionExpiry ctx _ _ => decide (ctx < 128)
  | .runtimeReply channel _ => decide (channel < 8)
  | .fwTimeout channel _ => decide (channel < 8)
  | .commandDeadlineExpiry channel _ => decide (channel < 8)
  | .returnTimeout channel => decide (channel < 8)
  | .relayConnection m clientKeyHash => decide (m < 2) && decide (clientKeyHash.length = 32)
  | .tickBoundary => true
  | .ungatingStart region => decide (region < 294)
  | .sliceExpiry p => decide (p < 32)
  | .tickSlipLimit p => decide (p < 32)
  | .latencyBreach ctx => decide (ctx < 128)
  | .evictionComplete p => decide (p < 32)
  | .fabricDrainTimeout ctx => decide (ctx < 128)
  | .computeWordIssue tile _ _ => decide (tile < 3528)
  | .productStart tile _ => decide (tile < 3528)
  | .productComplete tile _ => decide (tile < 3528)
  | .elementWiseStart tile _ _ => decide (tile < 3528)
  | .rowEngineOperation tile _ => decide (tile < 3528)
  | .vectorOperation tile slot _ => decide (tile < 3528) && decide (slot < 2)
  | .wideningAdd tile slot _ => decide (tile < 3528) && decide (slot < 2)
  | .roundWithLedger tile slot _ => decide (tile < 3528) && decide (slot < 2)
  | .checksumResidues tile slot _ => decide (tile < 3528) && decide (slot < 2)
  | .pruningUnit tile slot _ => decide (tile < 3528) && decide (slot < 2)
  | .mulePassStart tile _ => decide (tile < 3528)
  | .mulePanelComplete tile => decide (tile < 3528)
  | .mulePassComplete tile _ => decide (tile < 3528)
  | .muleLoadComplete tile _ => decide (tile < 3528)
  | .rendezvousArrival tile => decide (tile < 3528)
  | .rendezvousRelease ctx _ => decide (ctx < 128)
  | .rendezvousTimeout tile => decide (tile < 3528)
  | .semaphoreWaitTimeout tile _ => decide (tile < 3528)
  | .accessWordIssue tile _ => decide (tile < 3528)
  | .accessWordComplete tile _ => decide (tile < 3528)
  | .tileStepEnd tile => decide (tile < 3528)
  | .contextStepEnd ctx => decide (ctx < 128)
  | .downlinkLineReceive tile _ => decide (tile < 3528)
  | .downlinkRequestTimeout tile => decide (tile < 3528)
  | .meshLineReceive tile dir _ => decide (tile < 3528) && decide (dir < 4)
  | .expressEdgeDrop tile lane => decide (tile < 3528) && decide (lane < 4)
  | .stackRequest stack line _ _ _ => decide (stack < 12) && decide (line < 500000000)
  | .stackScrubUnit stack _ _ => decide (stack < 12)
  | .stackLost stack => decide (stack < 12)
  | .weightScrubShard _ _ => true
  | .heartbeatTimeout ptile _ _ => decide (ptile < 4116)
  | .crossingTimeout crossing _ => decide (crossing < 12)
  | .crossingWake crossing _ => decide (crossing < 12)
  | .wakeTimeout crossing _ => decide (crossing < 12)
  | .crossingRestart crossing _ => decide (crossing < 12)
  | .ptpMessageReceived _ => true
  | .syncLoss => true
  | .holdoverExpiry => true
  | .ppsEdge _ => true
  | .timePortLinkUp q _ => decide (q < 2)
  | .cableMeasurement port _ _ _ => decide (port < 64)
  | .linkTrained port => decide (port < 64)
  | .alignmentLoss port => decide (port < 64)
  | .lldpTransmit port => decide (port < 64)
  | .lldpduReceived port _ _ _ _ => decide (port < 64)
  | .lldpTtlExpiry port => decide (port < 64)
  | .neighbourDiscovery port _ => decide (port < 68)
  | .dataReceived port _ => decide (port < 64)
  | .ackReceived _ => true
  | .ackDelayExpiry stream => decide (stream < 4096)
  | .retransmissionTimeout stream _ _ => decide (stream < 4096)
  | .streamTimeout stream => decide (stream < 4096)
  | .congestionPeriod stream => decide (stream < 4096)
  | .controlMessageReceived _ _ _ body => decide (body.rosterDigest.length = 32)
  | .ctrlAck _ _ => true
  | .ctrlRetryExpiry _ => true
  | .jobDeliver _ _ _ => true
  | .jobAck _ _ _ _ _ digest => decide (digest.length = 32)
  | .ackLevelDeadline _ => true
  | .jobCommit _ _ _ rosterDigest => decide (rosterDigest.length = 32)
  | .jobCommitAck _ _ _ _ => true
  | .commitTimeout ctx => decide (ctx < 128)
  | .mirror _ _ _ => true
  | .mirrorAck _ _ rosterDigest _ digest => decide (rosterDigest.length = 32) && decide (digest.length = 32)
  | .mirrorBehind ctx => decide (ctx < 128)
  | .contributionReceived ctx _ _ _ => decide (ctx < 128)
  | .hopDeadlineExpiry ctx => decide (ctx < 128)
  | .voidRequest _ _ msg => decide (msg.rosterDigest.length = 32)
  | .rootDeadlineExpiry ctx => decide (ctx < 128)
  | .verdict _ _ msg => decide (msg.rosterDigest.length = 32)
  | .verdictQuery _ _ msg => decide (msg.rosterDigest.length = 32)
  | .verdictTimeout ctx => decide (ctx < 128)
  | .inputFilterUpdate => true
  | .sensorSample _ _ _ => true
  | .entryImbalance _ => true
  | .supplyTrip _ _ => true
  | .emergencyOff => true
  | .moduleThermalTrip _ _ => true
  | .regionEmergency region => decide (region < 294)
  | .limiterRise => true
  | .limiterFall => true
  | .droopClockStretching tile _ => decide (tile < 3528)
  | .fieldConverterFailure field => decide (field < 49)
  | .inputApplied => true
  | .prechargeComplete _ => true
  | .standbyPowerArrival => true
  | .powerOn _ _ => true
  | .powerUpPreconditions => true
  | .powerUpStageTimeout _ => true
  | .powerUpStageComplete _ => true
  | .powerGood => true
  | .powerOff _ _ => true
  | .moduleResetAssert => true
  | .moduleResetRelease => true
  | .serviceStatus _ _ => true
  | .serviceFaultLogRead _ _ _ _ => true
  | .trustedRelay _ _ _ _ _ _ _ _ => true
  | .serviceFrameTimeout _ => true
  | .jtagInstruction _ => true
  | .standbyPowerLoss => true
  | .opcodeUnassigned packet service => match service with
    | none => decide (36 ≤ packet.length) && decide (packet.length ≤ 4132)
    | some _ => decide (9 ≤ packet.length) && decide (packet.length ≤ 4105)
  | .linkLowPowerEntry => true
  | .linkAcceptsAgain channel => decide (channel < 8)
  | .runtimeRestart _ => true
  | .relayConnectionEnd m channel _ => decide (m < 2) && decide (channel < 8)

end Sys2Proof
end

