-- ==== Sys2Proof/Laws/PerInstr.lean ====
section
/-! SUPPORT. What holds of every command as syntax, one lemma a constructor. -/

set_option Elab.async false

namespace Sys2Proof

/-- What a well-formed header gives: a channel, a partition and a context that exist. -/
theorem Hdr.wf_channel {h : Hdr} (w : h.wf = true) : h.channel < 8 ∧ h.partition < 32 ∧ h.context < 128 := by
  simp only [Hdr.wf, Bool.and_eq_true, decide_eq_true_eq] at w
  omega

end Sys2Proof

namespace Sys2Proof.Laws

/-- The header of a well-formed command packet names a channel, a partition and a context that exist. -/
def HeaderFits.Statement (i : Instr) : Prop :=
  i.wf = true → ∀ k, i.hdr? = some k → k.channel < 8 ∧ k.partition < 32 ∧ k.context < 128

end Sys2Proof.Laws

namespace Sys2Proof.Laws

theorem HeaderFits.deviceIdentity (h : Hdr) : HeaderFits.Statement (.deviceIdentity h) := by
  intro hw k hk; cases hk; exact Hdr.wf_channel hw

theorem HeaderFits.echo (h : Hdr) (data : Bytes) : HeaderFits.Statement (.echo h data) := by
  intro hw k hk; cases hk; exact Hdr.wf_channel hw

theorem HeaderFits.configurationRead (h : Hdr) (addrs : List Nat) : HeaderFits.Statement (.configurationRead h addrs) := by
  intro hw k hk; cases hk; exact Hdr.wf_channel hw

theorem HeaderFits.configurationWrite (h : Hdr) (head : Nat) (entries : List (Nat × Nat)) : HeaderFits.Statement (.configurationWrite h head entries) := by
  intro hw k hk; cases hk; exact Hdr.wf_channel hw

theorem HeaderFits.tilNumStatusClearCount (h : Hdr) (tile : Nat) (value : Nat) : HeaderFits.Statement (.tilNumStatusClearCount h tile value) := by
  intro hw k hk; simp only [Instr.wf, Bool.and_eq_true] at hw; cases hk; exact Hdr.wf_channel (by simp_all only)

theorem HeaderFits.tilSramEccClearCount (h : Hdr) (tile : Nat) (value : Nat) : HeaderFits.Statement (.tilSramEccClearCount h tile value) := by
  intro hw k hk; simp only [Instr.wf, Bool.and_eq_true] at hw; cases hk; exact Hdr.wf_channel (by simp_all only)

theorem HeaderFits.tilCounterCtrlClearAll (h : Hdr) (tile : Nat) (value : Nat) : HeaderFits.Statement (.tilCounterCtrlClearAll h tile value) := by
  intro hw k hk; simp only [Instr.wf, Bool.and_eq_true] at hw; cases hk; exact Hdr.wf_channel (by simp_all only)

theorem HeaderFits.aryQueueSelWrite (h : Hdr) (tile : Nat) (feeder : Nat) (queue : Nat) : HeaderFits.Statement (.aryQueueSelWrite h tile feeder queue) := by
  intro hw k hk; simp only [Instr.wf, Bool.and_eq_true] at hw; cases hk; exact Hdr.wf_channel (by simp_all only)

theorem HeaderFits.bwdCtrlClearTags (h : Hdr) (tile : Nat) : HeaderFits.Statement (.bwdCtrlClearTags h tile) := by
  intro hw k hk; simp only [Instr.wf, Bool.and_eq_true] at hw; cases hk; exact Hdr.wf_channel (by simp_all only)

theorem HeaderFits.stkEccClearCount (h : Hdr) (stack : Nat) : HeaderFits.Statement (.stkEccClearCount h stack) := by
  intro hw k hk; simp only [Instr.wf, Bool.and_eq_true] at hw; cases hk; exact Hdr.wf_channel (by simp_all only)

theorem HeaderFits.tilRowMapWrite (h : Hdr) (field : Nat) (row : Nat) (stagedF : Nat) (stagedB : Nat) : HeaderFits.Statement (.tilRowMapWrite h field row stagedF stagedB) := by
  intro hw k hk; simp only [Instr.wf, Bool.and_eq_true] at hw; cases hk; exact Hdr.wf_channel (by simp_all only)

theorem HeaderFits.calBistCtrlStart (h : Hdr) (ptile : Nat) : HeaderFits.Statement (.calBistCtrlStart h ptile) := by
  intro hw k hk; simp only [Instr.wf, Bool.and_eq_true] at hw; cases hk; exact Hdr.wf_channel (by simp_all only)

theorem HeaderFits.bistComplete (ptile : Nat) (failUnits : Nat) : HeaderFits.Statement (.bistComplete ptile failUnits) := by
  intro _ k hk; cases hk

theorem HeaderFits.portEnable (h : Hdr) (port : Nat) (value : Nat) : HeaderFits.Statement (.portEnable h port value) := by
  intro hw k hk; simp only [Instr.wf, Bool.and_eq_true] at hw; cases hk; exact Hdr.wf_channel (by simp_all only)

theorem HeaderFits.portDisable (h : Hdr) (port : Nat) (value : Nat) : HeaderFits.Statement (.portDisable h port value) := by
  intro hw k hk; simp only [Instr.wf, Bool.and_eq_true] at hw; cases hk; exact Hdr.wf_channel (by simp_all only)

theorem HeaderFits.mgmtAddressWrite (h : Hdr) (m : Nat) (which : MgmtReg) (value : Nat) : HeaderFits.Statement (.mgmtAddressWrite h m which value) := by
  intro hw k hk; simp only [Instr.wf, Bool.and_eq_true] at hw; cases hk; exact Hdr.wf_channel (by simp_all only)

theorem HeaderFits.partitionBuild (h : Hdr) (x0 : Nat) (y0 : Nat) (w : Nat) (ht : Nat) (prio : Nat) (stackMask : Nat) (slabBase : Nat) (slabCount : Nat) (creditPool : Nat) : HeaderFits.Statement (.partitionBuild h x0 y0 w ht prio stackMask slabBase slabCount creditPool) := by
  intro hw k hk; cases hk; exact Hdr.wf_channel hw

theorem HeaderFits.partitionDissolve (h : Hdr) : HeaderFits.Statement (.partitionDissolve h) := by
  intro hw k hk; cases hk; exact Hdr.wf_channel hw

theorem HeaderFits.partitionRelocate (h : Hdr) (x0 : Nat) (y0 : Nat) : HeaderFits.Statement (.partitionRelocate h x0 y0) := by
  intro hw k hk; cases hk; exact Hdr.wf_channel hw

theorem HeaderFits.relocationComplete (p : Nat) : HeaderFits.Statement (.relocationComplete p) := by
  intro _ k hk; cases hk

theorem HeaderFits.contextCreate (h : Hdr) (slot : Nat) (role : Nat) (shareBase : Nat) (shareLines : Nat) (exclusive : Nat) (baseSeed : Nat) (creditFloor : Nat) (evictAddr : Nat) (latencyTarget : Nat) (reportEn : Nat) : HeaderFits.Statement (.contextCreate h slot role shareBase shareLines exclusive baseSeed creditFloor evictAddr latencyTarget reportEn) := by
  intro hw k hk; cases hk; exact Hdr.wf_channel hw

theorem HeaderFits.contextDestroy (h : Hdr) : HeaderFits.Statement (.contextDestroy h) := by
  intro hw k hk; cases hk; exact Hdr.wf_channel hw

theorem HeaderFits.sliceTableSet (h : Hdr) (n : Nat) (entries : List (Nat × Nat)) : HeaderFits.Statement (.sliceTableSet h n entries) := by
  intro hw k hk; cases hk; exact Hdr.wf_channel hw

theorem HeaderFits.contextPreEmpt (h : Hdr) (ctx : Nat) (ticks : Nat) : HeaderFits.Statement (.contextPreEmpt h ctx ticks) := by
  intro hw k hk; simp only [Instr.wf, Bool.and_eq_true] at hw; cases hk; exact Hdr.wf_channel (by simp_all only)

theorem HeaderFits.freeAreaQuery (h : Hdr) : HeaderFits.Statement (.freeAreaQuery h) := by
  intro hw k hk; cases hk; exact Hdr.wf_channel hw

theorem HeaderFits.slowdownRead (h : Hdr) (count : Nat) : HeaderFits.Statement (.slowdownRead h count) := by
  intro hw k hk; cases hk; exact Hdr.wf_channel hw

theorem HeaderFits.programOpen (h : Hdr) (len : Nat) (digest : Bytes) : HeaderFits.Statement (.programOpen h len digest) := by
  intro hw k hk; simp only [Instr.wf, Bool.and_eq_true] at hw; cases hk; exact Hdr.wf_channel (by simp_all only)

theorem HeaderFits.programData (h : Hdr) (offset : Nat) (data : Bytes) : HeaderFits.Statement (.programData h offset data) := by
  intro hw k hk; cases hk; exact Hdr.wf_channel hw

theorem HeaderFits.programFetch (h : Hdr) (addr : Nat) (len : Nat) : HeaderFits.Statement (.programFetch h addr len) := by
  intro hw k hk; cases hk; exact Hdr.wf_channel hw

theorem HeaderFits.programCommit (h : Hdr) : HeaderFits.Statement (.programCommit h) := by
  intro hw k hk; cases hk; exact Hdr.wf_channel hw

theorem HeaderFits.weightSetOpen (h : Hdr) (req : WeightOpen) : HeaderFits.Statement (.weightSetOpen h req) := by
  intro hw k hk; cases hk; exact Hdr.wf_channel hw

theorem HeaderFits.storageRead (h : Hdr) (req : StorageReadReq) : HeaderFits.Statement (.storageRead h req) := by
  intro hw k hk; cases hk; exact Hdr.wf_channel hw

theorem HeaderFits.storageReadData (controller : Nat) (readId : Nat) (data : Bytes) : HeaderFits.Statement (.storageReadData controller readId data) := by
  intro _ k hk; cases hk

theorem HeaderFits.storageReadTimeout (controller : Nat) (readId : Nat) : HeaderFits.Statement (.storageReadTimeout controller readId) := by
  intro _ k hk; cases hk

theorem HeaderFits.storageConnectionLost (controller : Nat) : HeaderFits.Statement (.storageConnectionLost controller) := by
  intro _ k hk; cases hk

theorem HeaderFits.weightSetCommit (h : Hdr) (slot : Nat) : HeaderFits.Statement (.weightSetCommit h slot) := by
  intro hw k hk; cases hk; exact Hdr.wf_channel hw

theorem HeaderFits.buildTimeout (ctx : Nat) (slot : Nat) : HeaderFits.Statement (.buildTimeout ctx slot) := by
  intro _ k hk; cases hk

theorem HeaderFits.weightSetSwitch (h : Hdr) (slot : Nat) : HeaderFits.Statement (.weightSetSwitch h slot) := by
  intro hw k hk; cases hk; exact Hdr.wf_channel hw

theorem HeaderFits.weightSetRelease (h : Hdr) (slot : Nat) (force : Nat) : HeaderFits.Statement (.weightSetRelease h slot force) := by
  intro hw k hk; cases hk; exact Hdr.wf_channel hw

theorem HeaderFits.weightSetDigest (h : Hdr) (slot : Nat) (shard : Nat) : HeaderFits.Statement (.weightSetDigest h slot shard) := by
  intro hw k hk; cases hk; exact Hdr.wf_channel hw

theorem HeaderFits.adapterLoad (h : Hdr) (entry : Nat) (rank : Nat) (scale : Nat) (tag : Nat) (shards : Nat) (stream : Nat) : HeaderFits.Statement (.adapterLoad h entry rank scale tag shards stream) := by
  intro hw k hk; cases hk; exact Hdr.wf_channel hw

theorem HeaderFits.adapterDrop (h : Hdr) (entry : Nat) : HeaderFits.Statement (.adapterDrop h entry) := by
  intro hw k hk; cases hk; exact Hdr.wf_channel hw

theorem HeaderFits.storageConnect (h : Hdr) (req : StorageConn) : HeaderFits.Statement (.storageConnect h req) := by
  intro hw k hk; cases hk; exact Hdr.wf_channel hw

theorem HeaderFits.storageDisconnect (h : Hdr) (controller : Nat) : HeaderFits.Statement (.storageDisconnect h controller) := by
  intro hw k hk; simp only [Instr.wf, Bool.and_eq_true] at hw; cases hk; exact Hdr.wf_channel (by simp_all only)

theorem HeaderFits.shardArrival (stream : Nat) (port : Nat) : HeaderFits.Statement (.shardArrival stream port) := by
  intro _ k hk; cases hk

theorem HeaderFits.sequenceAdmit (h : Hdr) (req : AdmitReq) : HeaderFits.Statement (.sequenceAdmit h req) := by
  intro hw k hk; cases hk; exact Hdr.wf_channel hw

theorem HeaderFits.sequenceCancel (h : Hdr) (slot : Nat) : HeaderFits.Statement (.sequenceCancel h slot) := by
  intro hw k hk; cases hk; exact Hdr.wf_channel hw

theorem HeaderFits.sequenceQuery (h : Hdr) (slot : Nat) : HeaderFits.Statement (.sequenceQuery h slot) := by
  intro hw k hk; cases hk; exact Hdr.wf_channel hw

theorem HeaderFits.sequenceDeadlineExpiry (slot : Nat) : HeaderFits.Statement (.sequenceDeadlineExpiry slot) := by
  intro _ k hk; cases hk

theorem HeaderFits.servingConfigure (h : Hdr) (values : List Nat) : HeaderFits.Statement (.servingConfigure h values) := by
  intro hw k hk; cases hk; exact Hdr.wf_channel hw

theorem HeaderFits.ringConfigure (h : Hdr) (ring : Nat) (k : Nat) (base : Nat) : HeaderFits.Statement (.ringConfigure h ring k base) := by
  intro hw k hk; cases hk; exact Hdr.wf_channel hw

theorem HeaderFits.drovePreparation (ctx : Nat) : HeaderFits.Statement (.drovePreparation ctx) := by
  intro _ k hk; cases hk

theorem HeaderFits.trainingStep (h : Hdr) (req : TrainReq) : HeaderFits.Statement (.trainingStep h req) := by
  intro hw k hk; cases hk; exact Hdr.wf_channel hw

theorem HeaderFits.inputLogCopyComplete (ctx : Nat) : HeaderFits.Statement (.inputLogCopyComplete ctx) := by
  intro _ k hk; cases hk

theorem HeaderFits.rosterTree (h : Hdr) (descriptor : Bytes) : HeaderFits.Statement (.rosterTree h descriptor) := by
  intro hw k hk; cases hk; exact Hdr.wf_channel hw

theorem HeaderFits.jobStartStatus (h : Hdr) (rosterDigest : Bytes) : HeaderFits.Statement (.jobStartStatus h rosterDigest) := by
  intro hw k hk; simp only [Instr.wf, Bool.and_eq_true] at hw; cases hk; exact Hdr.wf_channel (by simp_all only)

theorem HeaderFits.inputLogRead (h : Hdr) (step : Nat) (source : Nat) (offset : Nat) : HeaderFits.Statement (.inputLogRead h step source offset) := by
  intro hw k hk; cases hk; exact Hdr.wf_channel hw

theorem HeaderFits.inputLogConfigure (h : Hdr) (base : Nat) (depth : Nat) (entryUnits : Nat) (inputAddr : Nat) (inWin : Nat) (keep : Nat) : HeaderFits.Statement (.inputLogConfigure h base depth entryUnits inputAddr inWin keep) := by
  intro hw k hk; cases hk; exact Hdr.wf_channel hw

theorem HeaderFits.inputLogLoad (h : Hdr) (offset : Nat) (total : Nat) (data : Bytes) : HeaderFits.Statement (.inputLogLoad h offset total data) := by
  intro hw k hk; cases hk; exact Hdr.wf_channel hw

theorem HeaderFits.jobStartArm (h : Hdr) (bellwether : Nat) (areaBase : Nat) (areaUnits : Nat) (commitTimeoutS : Nat) : HeaderFits.Statement (.jobStartArm h bellwether areaBase areaUnits commitTimeoutS) := by
  intro hw k hk; cases hk; exact Hdr.wf_channel hw

theorem HeaderFits.jobStartBroadcast (h : Hdr) (rosterAddr : Nat) (members : Nat) (blobAddr : Nat) (blobLen : Nat) : HeaderFits.Statement (.jobStartBroadcast h rosterAddr members blobAddr blobLen) := by
  intro hw k hk; cases hk; exact Hdr.wf_channel hw

theorem HeaderFits.streamOpen (h : Hdr) (req : StreamOpenReq) : HeaderFits.Statement (.streamOpen h req) := by
  intro hw k hk; cases hk; exact Hdr.wf_channel hw

theorem HeaderFits.streamClose (h : Hdr) (handle : Nat) : HeaderFits.Statement (.streamClose h handle) := by
  intro hw k hk; cases hk; exact Hdr.wf_channel hw

theorem HeaderFits.mirrorConfigure (h : Hdr) (handle : Nat) : HeaderFits.Statement (.mirrorConfigure h handle) := by
  intro hw k hk; cases hk; exact Hdr.wf_channel hw

theorem HeaderFits.mirrorAccept (h : Hdr) (handle : Nat) (base : Nat) (depth : Nat) (entryUnits : Nat) : HeaderFits.Statement (.mirrorAccept h handle base depth entryUnits) := by
  intro hw k hk; cases hk; exact Hdr.wf_channel hw

theorem HeaderFits.tickSetDirect (h : Hdr) (mode : Nat) (epoch : Nat) (periodUs : Nat) : HeaderFits.Statement (.tickSetDirect h mode epoch periodUs) := by
  intro hw k hk; simp only [Instr.wf, Bool.and_eq_true] at hw; cases hk; exact Hdr.wf_channel (by simp_all only)

theorem HeaderFits.tickSetEffective (h : Hdr) (k : Nat) (periodUs : Nat) : HeaderFits.Statement (.tickSetEffective h k periodUs) := by
  intro hw k hk; cases hk; exact Hdr.wf_channel hw

theorem HeaderFits.timeStep (h : Hdr) (offsetNs : Int) : HeaderFits.Statement (.timeStep h offsetNs) := by
  intro hw k hk; cases hk; exact Hdr.wf_channel hw

theorem HeaderFits.timeStatus (h : Hdr) : HeaderFits.Statement (.timeStatus h) := by
  intro hw k hk; cases hk; exact Hdr.wf_channel hw

theorem HeaderFits.counterSnapshot (h : Hdr) (space : Nat) (first : Nat) (count : Nat) (offset : Nat) : HeaderFits.Statement (.counterSnapshot h space first count offset) := by
  intro hw k hk; cases hk; exact Hdr.wf_channel hw

theorem HeaderFits.sensorRead (h : Hdr) : HeaderFits.Statement (.sensorRead h) := by
  intro hw k hk; cases hk; exact Hdr.wf_channel hw

theorem HeaderFits.faultLogRead (h : Hdr) (first : Nat) (count : Nat) : HeaderFits.Statement (.faultLogRead h first count) := by
  intro hw k hk; cases hk; exact Hdr.wf_channel hw

theorem HeaderFits.measurementRead (h : Hdr) : HeaderFits.Statement (.measurementRead h) := by
  intro hw k hk; cases hk; exact Hdr.wf_channel hw

theorem HeaderFits.measurementExtend (h : Hdr) (slot : Nat) (value : Bytes) : HeaderFits.Statement (.measurementExtend h slot value) := by
  intro hw k hk; cases hk; exact Hdr.wf_channel hw

theorem HeaderFits.certificateRead (h : Hdr) (which : Nat) (offset : Nat) : HeaderFits.Statement (.certificateRead h which offset) := by
  intro hw k hk; cases hk; exact Hdr.wf_channel hw

theorem HeaderFits.attestationQuote (h : Hdr) (nonce : Bytes) (ctx : Nat) (session : Nat) : HeaderFits.Statement (.attestationQuote h nonce ctx session) := by
  intro hw k hk; simp only [Instr.wf, Bool.and_eq_true] at hw; cases hk; exact Hdr.wf_channel (by simp_all only)

theorem HeaderFits.quoteSigned : HeaderFits.Statement .quoteSigned := by
  intro _ k hk; cases hk

theorem HeaderFits.quoteRead (h : Hdr) (id : Nat) (offset : Nat) : HeaderFits.Statement (.quoteRead h id offset) := by
  intro hw k hk; cases hk; exact Hdr.wf_channel hw

theorem HeaderFits.sessionEstablishKey (h : Hdr) : HeaderFits.Statement (.sessionEstablishKey h) := by
  intro hw k hk; cases hk; exact Hdr.wf_channel hw

theorem HeaderFits.sessionEstablishCiphertext (h : Hdr) (session : Nat) (bind : Nat) (ciphertext : Bytes) : HeaderFits.Statement (.sessionEstablishCiphertext h session bind ciphertext) := by
  intro hw k hk; cases hk; exact Hdr.wf_channel hw

theorem HeaderFits.sessionTimeout (session : Nat) : HeaderFits.Statement (.sessionTimeout session) := by
  intro _ k hk; cases hk

theorem HeaderFits.streamKeySet (h : Hdr) (session : Nat) (slot : Nat) (salt : Nat) (direction : Nat) : HeaderFits.Statement (.streamKeySet h session slot salt direction) := by
  intro hw k hk; cases hk; exact Hdr.wf_channel hw

theorem HeaderFits.debugUnlockChallenge (h : Hdr) (level : Nat) : HeaderFits.Statement (.debugUnlockChallenge h level) := by
  intro hw k hk; cases hk; exact Hdr.wf_channel hw

theorem HeaderFits.debugUnlockResponse (h : Hdr) (offset : Nat) (total : Nat) (data : Bytes) : HeaderFits.Statement (.debugUnlockResponse h offset total data) := by
  intro hw k hk; cases hk; exact Hdr.wf_channel hw

theorem HeaderFits.firmwareUpdateInstall (h : Hdr) (target : Nat) (addr : Nat) (len : Nat) : HeaderFits.Statement (.firmwareUpdateInstall h target addr len) := by
  intro hw k hk; cases hk; exact Hdr.wf_channel hw

theorem HeaderFits.firmwareUpdateStage (h : Hdr) (addr : Nat) (offset : Nat) (total : Nat) (data : Bytes) : HeaderFits.Statement (.firmwareUpdateStage h addr offset total data) := by
  intro hw k hk; cases hk; exact Hdr.wf_channel hw

theorem HeaderFits.firmwareUpdateFloor (h : Hdr) (target : Nat) (fuseOk : Bool) : HeaderFits.Statement (.firmwareUpdateFloor h target fuseOk) := by
  intro hw k hk; cases hk; exact Hdr.wf_channel hw

theorem HeaderFits.keyEnrolment (h : Hdr) (offset : Nat) (total : Nat) (data : Bytes) (fuseOk : Bool) : HeaderFits.Statement (.keyEnrolment h offset total data fuseOk) := by
  intro hw k hk; cases hk; exact Hdr.wf_channel hw

theorem HeaderFits.traceEnable (h : Hdr) (base : Nat) (k : Nat) : HeaderFits.Statement (.traceEnable h base k) := by
  intro hw k hk; cases hk; exact Hdr.wf_channel hw

theorem HeaderFits.traceDisable (h : Hdr) : HeaderFits.Statement (.traceDisable h) := by
  intro hw k hk; cases hk; exact Hdr.wf_channel hw

theorem HeaderFits.powerCapSet (h : Hdr) (capW : Nat) : HeaderFits.Statement (.powerCapSet h capW) := by
  intro hw k hk; cases hk; exact Hdr.wf_channel hw

theorem HeaderFits.thermalStatus (h : Hdr) : HeaderFits.Statement (.thermalStatus h) := by
  intro hw k hk; cases hk; exact Hdr.wf_channel hw

theorem HeaderFits.calibrationRead (h : Hdr) (kind : Nat) : HeaderFits.Statement (.calibrationRead h kind) := by
  intro hw k hk; cases hk; exact Hdr.wf_channel hw

theorem HeaderFits.calibrationWrite (h : Hdr) (record : Bytes) : HeaderFits.Statement (.calibrationWrite h record) := by
  intro hw k hk; cases hk; exact Hdr.wf_channel hw

theorem HeaderFits.calibrationCommit (h : Hdr) : HeaderFits.Statement (.calibrationCommit h) := by
  intro hw k hk; cases hk; exact Hdr.wf_channel hw

theorem HeaderFits.calibrationRestore (h : Hdr) (offset : Nat) (total : Nat) (data : Bytes) : HeaderFits.Statement (.calibrationRestore h offset total data) := by
  intro hw k hk; cases hk; exact Hdr.wf_channel hw

theorem HeaderFits.resultRead (h : Hdr) (source : Nat) (ring : Nat) (start : Nat) (count : Nat) : HeaderFits.Statement (.resultRead h source ring start count) := by
  intro hw k hk; cases hk; exact Hdr.wf_channel hw

theorem HeaderFits.resultRelease (h : Hdr) (source : Nat) (ring : Nat) (upto : Nat) : HeaderFits.Statement (.resultRelease h source ring upto) := by
  intro hw k hk; cases hk; exact Hdr.wf_channel hw

theorem HeaderFits.retentionSet (h : Hdr) (ms : Nat) : HeaderFits.Statement (.retentionSet h ms) := by
  intro hw k hk; cases hk; exact Hdr.wf_channel hw

theorem HeaderFits.resultRetentionExpiry (ctx : Nat) (source : Nat) (ring : Nat) : HeaderFits.Statement (.resultRetentionExpiry ctx source ring) := by
  intro _ k hk; cases hk

theorem HeaderFits.runtimeReply (channel : Nat) (tag : Nat) : HeaderFits.Statement (.runtimeReply channel tag) := by
  intro _ k hk; cases hk

theorem HeaderFits.fwTimeout (channel : Nat) (tag : Nat) : HeaderFits.Statement (.fwTimeout channel tag) := by
  intro _ k hk; cases hk

theorem HeaderFits.commandDeadlineExpiry (channel : Nat) (tag : Nat) : HeaderFits.Statement (.commandDeadlineExpiry channel tag) := by
  intro _ k hk; cases hk

theorem HeaderFits.returnTimeout (channel : Nat) : HeaderFits.Statement (.returnTimeout channel) := by
  intro _ k hk; cases hk

theorem HeaderFits.relayConnection (m : Nat) (clientKeyHash : Bytes) : HeaderFits.Statement (.relayConnection m clientKeyHash) := by
  intro _ k hk; cases hk

theorem HeaderFits.tickBoundary : HeaderFits.Statement .tickBoundary := by
  intro _ k hk; cases hk

theorem HeaderFits.ungatingStart (region : Nat) : HeaderFits.Statement (.ungatingStart region) := by
  intro _ k hk; cases hk

theorem HeaderFits.sliceExpiry (p : Nat) : HeaderFits.Statement (.sliceExpiry p) := by
  intro _ k hk; cases hk

theorem HeaderFits.tickSlipLimit (p : Nat) : HeaderFits.Statement (.tickSlipLimit p) := by
  intro _ k hk; cases hk

theorem HeaderFits.latencyBreach (ctx : Nat) : HeaderFits.Statement (.latencyBreach ctx) := by
  intro _ k hk; cases hk

theorem HeaderFits.evictionComplete (p : Nat) : HeaderFits.Statement (.evictionComplete p) := by
  intro _ k hk; cases hk

theorem HeaderFits.fabricDrainTimeout (ctx : Nat) : HeaderFits.Statement (.fabricDrainTimeout ctx) := by
  intro _ k hk; cases hk

theorem HeaderFits.computeWordIssue (tile : Nat) (ecc : EccOutcome) (sram : SramEcc) : HeaderFits.Statement (.computeWordIssue tile ecc sram) := by
  intro _ k hk; cases hk

theorem HeaderFits.productStart (tile : Nat) (ecc : SramEcc) : HeaderFits.Statement (.productStart tile ecc) := by
  intro _ k hk; cases hk

theorem HeaderFits.productComplete (tile : Nat) (stalls : Stalls) : HeaderFits.Statement (.productComplete tile stalls) := by
  intro _ k hk; cases hk

theorem HeaderFits.elementWiseStart (tile : Nat) (ecc : SramEcc) (stalls : Stalls) : HeaderFits.Statement (.elementWiseStart tile ecc stalls) := by
  intro _ k hk; cases hk

theorem HeaderFits.rowEngineOperation (tile : Nat) (ecc : SramEcc) : HeaderFits.Statement (.rowEngineOperation tile ecc) := by
  intro _ k hk; cases hk

theorem HeaderFits.vectorOperation (tile : Nat) (slot : Nat) (ecc : SramEcc) : HeaderFits.Statement (.vectorOperation tile slot ecc) := by
  intro _ k hk; cases hk

theorem HeaderFits.wideningAdd (tile : Nat) (slot : Nat) (ecc : SramEcc) : HeaderFits.Statement (.wideningAdd tile slot ecc) := by
  intro _ k hk; cases hk

theorem HeaderFits.roundWithLedger (tile : Nat) (slot : Nat) (ecc : SramEcc) : HeaderFits.Statement (.roundWithLedger tile slot ecc) := by
  intro _ k hk; cases hk

theorem HeaderFits.checksumResidues (tile : Nat) (slot : Nat) (ecc : SramEcc) : HeaderFits.Statement (.checksumResidues tile slot ecc) := by
  intro _ k hk; cases hk

theorem HeaderFits.pruningUnit (tile : Nat) (slot : Nat) (ecc : SramEcc) : HeaderFits.Statement (.pruningUnit tile slot ecc) := by
  intro _ k hk; cases hk

theorem HeaderFits.mulePassStart (tile : Nat) (ecc : SramEcc) : HeaderFits.Statement (.mulePassStart tile ecc) := by
  intro _ k hk; cases hk

theorem HeaderFits.mulePanelComplete (tile : Nat) : HeaderFits.Statement (.mulePanelComplete tile) := by
  intro _ k hk; cases hk

theorem HeaderFits.mulePassComplete (tile : Nat) (stalls : Stalls) : HeaderFits.Statement (.mulePassComplete tile stalls) := by
  intro _ k hk; cases hk

theorem HeaderFits.muleLoadComplete (tile : Nat) (ecc : SramEcc) : HeaderFits.Statement (.muleLoadComplete tile ecc) := by
  intro _ k hk; cases hk

theorem HeaderFits.rendezvousArrival (tile : Nat) : HeaderFits.Statement (.rendezvousArrival tile) := by
  intro _ k hk; cases hk

theorem HeaderFits.rendezvousRelease (ctx : Nat) (rdv : Nat) : HeaderFits.Statement (.rendezvousRelease ctx rdv) := by
  intro _ k hk; cases hk

theorem HeaderFits.rendezvousTimeout (tile : Nat) : HeaderFits.Statement (.rendezvousTimeout tile) := by
  intro _ k hk; cases hk

theorem HeaderFits.semaphoreWaitTimeout (tile : Nat) (access : Bool) : HeaderFits.Statement (.semaphoreWaitTimeout tile access) := by
  intro _ k hk; cases hk

theorem HeaderFits.accessWordIssue (tile : Nat) (ecc : EccOutcome) : HeaderFits.Statement (.accessWordIssue tile ecc) := by
  intro _ k hk; cases hk

theorem HeaderFits.accessWordComplete (tile : Nat) (ecc : SramEcc) : HeaderFits.Statement (.accessWordComplete tile ecc) := by
  intro _ k hk; cases hk

theorem HeaderFits.tileStepEnd (tile : Nat) : HeaderFits.Statement (.tileStepEnd tile) := by
  intro _ k hk; cases hk

theorem HeaderFits.contextStepEnd (ctx : Nat) : HeaderFits.Statement (.contextStepEnd ctx) := by
  intro _ k hk; cases hk

theorem HeaderFits.downlinkLineReceive (tile : Nat) (crcOk : Bool) : HeaderFits.Statement (.downlinkLineReceive tile crcOk) := by
  intro _ k hk; cases hk

theorem HeaderFits.downlinkRequestTimeout (tile : Nat) : HeaderFits.Statement (.downlinkRequestTimeout tile) := by
  intro _ k hk; cases hk

theorem HeaderFits.meshLineReceive (tile : Nat) (dir : Nat) (parityOk : Bool) : HeaderFits.Statement (.meshLineReceive tile dir parityOk) := by
  intro _ k hk; cases hk

theorem HeaderFits.expressEdgeDrop (tile : Nat) (lane : Nat) : HeaderFits.Statement (.expressEdgeDrop tile lane) := by
  intro _ k hk; cases hk

theorem HeaderFits.stackRequest (stack : Nat) (line : Nat) (write : Option Bytes) (by_ : Requester) (ecc : EccOutcome) : HeaderFits.Statement (.stackRequest stack line write by_ ecc) := by
  intro _ k hk; cases hk

theorem HeaderFits.stackScrubUnit (stack : Nat) (ecc : EccOutcome) (badLine : Nat) : HeaderFits.Statement (.stackScrubUnit stack ecc badLine) := by
  intro _ k hk; cases hk

theorem HeaderFits.stackLost (stack : Nat) : HeaderFits.Statement (.stackLost stack) := by
  intro _ k hk; cases hk

theorem HeaderFits.weightScrubShard (readError1 : Bool) (readError2 : Bool) : HeaderFits.Statement (.weightScrubShard readError1 readError2) := by
  intro _ k hk; cases hk

theorem HeaderFits.heartbeatTimeout (ptile : Nat) (tileMissing : Bool) (routerMissing : Bool) : HeaderFits.Statement (.heartbeatTimeout ptile tileMissing routerMissing) := by
  intro _ k hk; cases hk

theorem HeaderFits.crossingTimeout (crossing : Nat) (unit_ : Nat) : HeaderFits.Statement (.crossingTimeout crossing unit_) := by
  intro _ k hk; cases hk

theorem HeaderFits.crossingWake (crossing : Nat) (unit_ : Nat) : HeaderFits.Statement (.crossingWake crossing unit_) := by
  intro _ k hk; cases hk

theorem HeaderFits.wakeTimeout (crossing : Nat) (unit_ : Nat) : HeaderFits.Statement (.wakeTimeout crossing unit_) := by
  intro _ k hk; cases hk

theorem HeaderFits.crossingRestart (crossing : Nat) (unit_ : Nat) : HeaderFits.Statement (.crossingRestart crossing unit_) := by
  intro _ k hk; cases hk

theorem HeaderFits.ptpMessageReceived (msg : PtpMsg) : HeaderFits.Statement (.ptpMessageReceived msg) := by
  intro _ k hk; cases hk

theorem HeaderFits.syncLoss : HeaderFits.Statement .syncLoss := by
  intro _ k hk; cases hk

theorem HeaderFits.holdoverExpiry : HeaderFits.Statement .holdoverExpiry := by
  intro _ k hk; cases hk

theorem HeaderFits.ppsEdge (errorNs : Nat) : HeaderFits.Statement (.ppsEdge errorNs) := by
  intro _ k hk; cases hk

theorem HeaderFits.timePortLinkUp (q : Nat) (lengthDm : Nat) : HeaderFits.Statement (.timePortLinkUp q lengthDm) := by
  intro _ k hk; cases hk

theorem HeaderFits.cableMeasurement (port : Nat) (lengthDm : Option Nat) (optical : Bool) (powerClassW : Nat) : HeaderFits.Statement (.cableMeasurement port lengthDm optical powerClassW) := by
  intro _ k hk; cases hk

theorem HeaderFits.linkTrained (port : Nat) : HeaderFits.Statement (.linkTrained port) := by
  intro _ k hk; cases hk

theorem HeaderFits.alignmentLoss (port : Nat) : HeaderFits.Statement (.alignmentLoss port) := by
  intro _ k hk; cases hk

theorem HeaderFits.lldpTransmit (port : Nat) : HeaderFits.Statement (.lldpTransmit port) := by
  intro _ k hk; cases hk

theorem HeaderFits.lldpduReceived (port : Nat) (chassis : Nat) (portId : Bytes) (ttl : Nat) (tlv : Option CapTlv) : HeaderFits.Statement (.lldpduReceived port chassis portId ttl tlv) := by
  intro _ k hk; cases hk

theorem HeaderFits.lldpTtlExpiry (port : Nat) : HeaderFits.Statement (.lldpTtlExpiry port) := by
  intro _ k hk; cases hk

theorem HeaderFits.neighbourDiscovery (port : Nat) (kind : NdKind) : HeaderFits.Statement (.neighbourDiscovery port kind) := by
  intro _ k hk; cases hk

theorem HeaderFits.dataReceived (port : Nat) (pkt : MladubPkt) : HeaderFits.Statement (.dataReceived port pkt) := by
  intro _ k hk; cases hk

theorem HeaderFits.ackReceived (ack : AckBody) : HeaderFits.Statement (.ackReceived ack) := by
  intro _ k hk; cases hk

theorem HeaderFits.ackDelayExpiry (stream : Nat) : HeaderFits.Statement (.ackDelayExpiry stream) := by
  intro _ k hk; cases hk

theorem HeaderFits.retransmissionTimeout (stream : Nat) (psn : Nat) (peer : Option Nat) : HeaderFits.Statement (.retransmissionTimeout stream psn peer) := by
  intro _ k hk; cases hk

theorem HeaderFits.streamTimeout (stream : Nat) : HeaderFits.Statement (.streamTimeout stream) := by
  intro _ k hk; cases hk

theorem HeaderFits.congestionPeriod (stream : Nat) : HeaderFits.Statement (.congestionPeriod stream) := by
  intro _ k hk; cases hk

theorem HeaderFits.controlMessageReceived (peer : Nat) (id : Nat) (ctype : Nat) (body : RedMsg) : HeaderFits.Statement (.controlMessageReceived peer id ctype body) := by
  intro _ k hk; cases hk

theorem HeaderFits.ctrlAck (peer : Nat) (id : Nat) : HeaderFits.Statement (.ctrlAck peer id) := by
  intro _ k hk; cases hk

theorem HeaderFits.ctrlRetryExpiry (id : Nat) : HeaderFits.Statement (.ctrlRetryExpiry id) := by
  intro _ k hk; cases hk

theorem HeaderFits.jobDeliver (peer : Nat) (psn : Nat) (part : DeliverPart) : HeaderFits.Statement (.jobDeliver peer psn part) := by
  intro _ k hk; cases hk

theorem HeaderFits.jobAck (peer : Nat) (id : Nat) (broadcastId : Nat) (generation : Nat) (member : Nat) (digest : Bytes) : HeaderFits.Statement (.jobAck peer id broadcastId generation member digest) := by
  intro _ k hk; cases hk

theorem HeaderFits.ackLevelDeadline (broadcastId : Nat) : HeaderFits.Statement (.ackLevelDeadline broadcastId) := by
  intro _ k hk; cases hk

theorem HeaderFits.jobCommit (sender : Nat) (id : Nat) (broadcastId : Nat) (rosterDigest : Bytes) : HeaderFits.Statement (.jobCommit sender id broadcastId rosterDigest) := by
  intro _ k hk; cases hk

theorem HeaderFits.jobCommitAck (peer : Nat) (id : Nat) (broadcastId : Nat) (member : Nat) : HeaderFits.Statement (.jobCommitAck peer id broadcastId member) := by
  intro _ k hk; cases hk

theorem HeaderFits.commitTimeout (ctx : Nat) : HeaderFits.Statement (.commitTimeout ctx) := by
  intro _ k hk; cases hk

theorem HeaderFits.mirror (stream : Nat) (step : Nat) (entry : Bytes) : HeaderFits.Statement (.mirror stream step entry) := by
  intro _ k hk; cases hk

theorem HeaderFits.mirrorAck (peer : Nat) (id : Nat) (rosterDigest : Bytes) (step : Nat) (digest : Bytes) : HeaderFits.Statement (.mirrorAck peer id rosterDigest step digest) := by
  intro _ k hk; cases hk

theorem HeaderFits.mirrorBehind (ctx : Nat) : HeaderFits.Statement (.mirrorBehind ctx) := by
  intro _ k hk; cases hk

theorem HeaderFits.contributionReceived (ctx : Nat) (child : Nat) (step : Nat) (attempt : Nat) : HeaderFits.Statement (.contributionReceived ctx child step attempt) := by
  intro _ k hk; cases hk

theorem HeaderFits.hopDeadlineExpiry (ctx : Nat) : HeaderFits.Statement (.hopDeadlineExpiry ctx) := by
  intro _ k hk; cases hk

theorem HeaderFits.voidRequest (peer : Nat) (id : Nat) (msg : RedMsg) : HeaderFits.Statement (.voidRequest peer id msg) := by
  intro _ k hk; cases hk

theorem HeaderFits.rootDeadlineExpiry (ctx : Nat) : HeaderFits.Statement (.rootDeadlineExpiry ctx) := by
  intro _ k hk; cases hk

theorem HeaderFits.verdict (peer : Nat) (id : Nat) (msg : RedMsg) : HeaderFits.Statement (.verdict peer id msg) := by
  intro _ k hk; cases hk

theorem HeaderFits.verdictQuery (peer : Nat) (id : Nat) (msg : RedMsg) : HeaderFits.Statement (.verdictQuery peer id msg) := by
  intro _ k hk; cases hk

theorem HeaderFits.verdictTimeout (ctx : Nat) : HeaderFits.Statement (.verdictTimeout ctx) := by
  intro _ k hk; cases hk

theorem HeaderFits.inputFilterUpdate : HeaderFits.Statement .inputFilterUpdate := by
  intro _ k hk; cases hk

theorem HeaderFits.sensorSample (kind : SensorKind) (index : Nat) (value : Int) : HeaderFits.Statement (.sensorSample kind index value) := by
  intro _ k hk; cases hk

theorem HeaderFits.entryImbalance (entry : Nat) : HeaderFits.Statement (.entryImbalance entry) := by
  intro _ k hk; cases hk

theorem HeaderFits.supplyTrip (cause : Nat) (entry : Nat) : HeaderFits.Statement (.supplyTrip cause entry) := by
  intro _ k hk; cases hk

theorem HeaderFits.emergencyOff : HeaderFits.Statement .emergencyOff := by
  intro _ k hk; cases hk

theorem HeaderFits.moduleThermalTrip (condition : Nat) (index : Nat) : HeaderFits.Statement (.moduleThermalTrip condition index) := by
  intro _ k hk; cases hk

theorem HeaderFits.regionEmergency (region : Nat) : HeaderFits.Statement (.regionEmergency region) := by
  intro _ k hk; cases hk

theorem HeaderFits.limiterRise : HeaderFits.Statement .limiterRise := by
  intro _ k hk; cases hk

theorem HeaderFits.limiterFall : HeaderFits.Statement .limiterFall := by
  intro _ k hk; cases hk

theorem HeaderFits.droopClockStretching (tile : Nat) (cycles : Nat) : HeaderFits.Statement (.droopClockStretching tile cycles) := by
  intro _ k hk; cases hk

theorem HeaderFits.fieldConverterFailure (field : Nat) : HeaderFits.Statement (.fieldConverterFailure field) := by
  intro _ k hk; cases hk

theorem HeaderFits.inputApplied : HeaderFits.Statement .inputApplied := by
  intro _ k hk; cases hk

theorem HeaderFits.prechargeComplete (entry : Nat) : HeaderFits.Statement (.prechargeComplete entry) := by
  intro _ k hk; cases hk

theorem HeaderFits.standbyPowerArrival : HeaderFits.Statement .standbyPowerArrival := by
  intro _ k hk; cases hk

theorem HeaderFits.powerOn (iface : SvcIface) (tag : Nat) : HeaderFits.Statement (.powerOn iface tag) := by
  intro _ k hk; cases hk

theorem HeaderFits.powerUpPreconditions : HeaderFits.Statement .powerUpPreconditions := by
  intro _ k hk; cases hk

theorem HeaderFits.powerUpStageTimeout (p7 : Bool) : HeaderFits.Statement (.powerUpStageTimeout p7) := by
  intro _ k hk; cases hk

theorem HeaderFits.powerUpStageComplete (result : StageResult) : HeaderFits.Statement (.powerUpStageComplete result) := by
  intro _ k hk; cases hk

theorem HeaderFits.powerGood : HeaderFits.Statement .powerGood := by
  intro _ k hk; cases hk

theorem HeaderFits.powerOff (iface : SvcIface) (tag : Nat) : HeaderFits.Statement (.powerOff iface tag) := by
  intro _ k hk; cases hk

theorem HeaderFits.moduleResetAssert : HeaderFits.Statement .moduleResetAssert := by
  intro _ k hk; cases hk

theorem HeaderFits.moduleResetRelease : HeaderFits.Statement .moduleResetRelease := by
  intro _ k hk; cases hk

theorem HeaderFits.serviceStatus (iface : SvcIface) (tag : Nat) : HeaderFits.Statement (.serviceStatus iface tag) := by
  intro _ k hk; cases hk

theorem HeaderFits.serviceFaultLogRead (iface : SvcIface) (tag : Nat) (first : Nat) (count : Nat) : HeaderFits.Statement (.serviceFaultLogRead iface tag first count) := by
  intro _ k hk; cases hk

theorem HeaderFits.trustedRelay (tag : Nat) (packetTag : Nat) (mode : Nat) (target : Nat) (addr : Nat) (offset : Nat) (total : Nat) (data : Bytes) : HeaderFits.Statement (.trustedRelay tag packetTag mode target addr offset total data) := by
  intro _ k hk; cases hk

theorem HeaderFits.serviceFrameTimeout (iface : SvcIface) : HeaderFits.Statement (.serviceFrameTimeout iface) := by
  intro _ k hk; cases hk

theorem HeaderFits.jtagInstruction (instr : TapInstr) : HeaderFits.Statement (.jtagInstruction instr) := by
  intro _ k hk; cases hk

theorem HeaderFits.standbyPowerLoss : HeaderFits.Statement .standbyPowerLoss := by
  intro _ k hk; cases hk

theorem HeaderFits.opcodeUnassigned (packet : Bytes) (service : Option SvcIface) : HeaderFits.Statement (.opcodeUnassigned packet service) := by
  intro _ k hk; cases hk

theorem HeaderFits.linkLowPowerEntry : HeaderFits.Statement .linkLowPowerEntry := by
  intro _ k hk; cases hk

theorem HeaderFits.linkAcceptsAgain (channel : Nat) : HeaderFits.Statement (.linkAcceptsAgain channel) := by
  intro _ k hk; cases hk

theorem HeaderFits.runtimeRestart (up : Bool) : HeaderFits.Statement (.runtimeRestart up) := by
  intro _ k hk; cases hk

theorem HeaderFits.relayConnectionEnd (m : Nat) (channel : Nat) (packet : Option Bytes) : HeaderFits.Statement (.relayConnectionEnd m channel packet) := by
  intro _ k hk; cases hk

end Sys2Proof.Laws
end

