-- ==== Sys2Proof/Safety.lean ====
section
/-! DEFINITION. The terms the statements use: a sound state (the byte memory and the register file in their canonical form), and when a
packet passes the checks of intake. -/

namespace Sys2Proof.Machine

/-- The byte memory is in canonical form: addresses strictly rising, no byte listed at the value an unlisted byte reads. -/
def Memory.wf (m : List Host.Cell) : Bool := Sparse.wf (fun _ => (0 : Byte)) m

/-- The register file is in canonical form: addresses strictly rising, no register listed at its reset value. -/
def RegFile.wf (r : List (Nat × W64)) : Bool := Sparse.wf (fun a => BitVec.ofNat 64 (regReset a)) r

/-- Memory and registers are canonical, so that equal machines are equal data. -/
def State.Canon (s : State) : Prop := Memory.wf s.mem = true ∧ RegFile.wf s.regs = true

/-- The module when intake judges a packet that has arrived and taken its credit. -/
def State.taken (s : State) (h : Hdr) : State := (s.arrive h).takeCredit h

/-- The module when a packet's command has been accepted. -/
def State.accepted (s : State) (h : Hdr) (op : Nat) : State := (s.taken h).accept h op

/-- A packet reaches the command engine, which does not wait for the link to wake, over a connection that holds its channel where it is relayed,
finds a credit, and passes every check of Table 16-2 and the command's own. -/
abbrev State.admits (s : State) (h : Hdr) (op : Nat) (lenOk : Bool) (sc : Scope) (check : State → Nat) : Prop :=
  s.linkUp = true ∧ s.unrelayed h = false ∧ s.linkHolds = false ∧ (s.arrive h).overrun h = false ∧ (s.taken h).intake h op lenOk sc = 0 ∧ check (s.taken h) = 0

/-- The module when a command of the runtime firmware has been accepted: a stopped clock that it crosses into has woken for it. -/
def State.fwAccepted (s : State) (h : Hdr) (op : Nat) : State := ((s.taken h).wakeFor op true).accept h op

/-- No parameter of the command is checked beyond its length. -/
def noCheck (_ : State) : Nat := 0

/-- A command of the runtime firmware passes every check of intake but its own, no other update is in progress where it is an update command, the
firmware is up and reaches what carries the command out, with nothing before it that waits for the same crossing, and it answers promptly. -/
abbrev State.runsBefore (s : State) (h : Hdr) (f : Fw) (cmd : Instr) : Prop :=
  s.admits h f.op f.lenOk f.scope noCheck ∧ (s.taken h).on CMD_STATUS.runtime_up = true ∧ (s.taken h).installing f.op cmd = false ∧
    h.prompt = true ∧ (s.taken h).reaches f.op = true ∧ (s.taken h).waitsBehind f.op = false

/-- A command of the runtime firmware is admitted, no other update is in progress where it is an update command, the firmware is up and
reaches what carries the command out, with nothing before it that waits for the same crossing, and it answers promptly. -/
abbrev State.runs (s : State) (h : Hdr) (f : Fw) (cmd : Instr) : Prop :=
  s.admits h f.op f.lenOk f.scope f.check ∧ (s.taken h).on CMD_STATUS.runtime_up = true ∧ (s.taken h).installing f.op cmd = false ∧
    h.prompt = true ∧ (s.taken h).reaches f.op = true ∧ (s.taken h).waitsBehind f.op = false

/-- The packets that a channel has to send, those that wait for a place in its queue last. -/
def State.packets (s : State) (ch : Nat) : List Packet := (s.chan ch).queue ++ (s.chan ch).late

/-- The channel of `t` has one reply packet more to send than that of `s`. -/
def State.Replied (s t : State) (h : Hdr) (op status : Nat) (payload : Bytes) : Prop :=
  ∃ p : Packet, t.packets h.channel = s.packets h.channel ++ [p] ∧ p.event = false ∧ p.opcode = op ∧ p.tag = h.tag ∧
    p.status = status ∧ p.payload = payload

end Sys2Proof.Machine
end

