-- ==== Sys2Proof/Certificates/Slice0/Obligations.lean ====
section
/-! DEFINITION. The statements about the model, for the provers: the queue and the invariants, the command interface, then the commands
family by family. A statement of a command's completion names the state that the command leaves, through the shared operations whose
own effect other statements say. -/

open Sys2Proof Sys2Proof.Machine

/-! ### The queue and the invariants -/

/-- A step runs the command at the front of the queue, with the queue's rest. -/
def Obligations.StepRunsFrontCommand : Prop :=
  ∀ (c : Instr) (rest : List Instr) (s : State), step { s with pending := c :: rest } = exec c { s with pending := rest }

/-- On an empty queue, when nothing in a crossing can go through, one nanosecond of hall time passes (the model's choice, log 10): the memory
and the queue stand, and, where nothing waits at a port or for a credit, the fault log and, while the link does not sleep, the registers outside
the channels. What can go through a crossing does so first (the model's choice, log 55). -/
def Obligations.IdleStepPassesOneNanosecond : Prop :=
  ∀ s : State, s.pending = [] →
    (s.nextHeld = none → ∃ t, step s = .next t ∧ t.hall = s.hall + 1 ∧ t.mem = s.mem ∧ t.pending = [] ∧ t.pins.replies = [] ∧
      (s.fab.wait = [] → (s.fab.streams.all fun x => x.unacked.all fun k => !k.unpaid) = true →
        t.faultLog = s.faultLog ∧ (s.pins.uciIdle = false →
        ∀ a, (∀ ch < 8, a ≠ CMD_CHAN_EVENTS ch ∧ a ≠ CMD_CHAN_STATUS ch) → t.reg a = s.reg a))) ∧
    (∀ (x : Crossing) (i : Instr) (t : State), s.nextHeld = some (x, i) → exec i (s.release x) = .next t → step s = .next t.delivered)

/-- The queue is first in, first out: a step takes its front command and nothing else. One queue of all commands, in the order they come, is the
model's choice (log 1): the spec orders the commands of one channel, and none across channels. -/
def Obligations.QueueIsFirstInFirstOut : Prop := ∀ s t : State, step s = .next t → t.pending = s.pending.tail

/-- Every step keeps the byte memory and the register file canonical. -/
def Obligations.EveryStepKeepsCanon : Prop := ∀ s t : State, s.Canon → step s = .next t → t.Canon

/-- Every command ends in a next state: none faults and none is refused by the model. -/
def Obligations.EveryCommandRuns : Prop := ∀ (i : Instr) (s : State), ∃ t, exec i s = .next t

/-- The commands that reach a store to a byte memory. -/
def reachesMemory : Instr → Bool
  | .calBistCtrlStart .. | .checksumResidues .. | .computeWordIssue .. | .portEnable .. | .mulePanelComplete ..
  | .tilNumStatusClearCount .. | .aryQueueSelWrite .. | .shardArrival .. | .rendezvousRelease .. | .evictionComplete ..
  | .standbyPowerLoss | .tilRowMapWrite .. | .vectorOperation .. | .pruningUnit .. | .powerUpStageTimeout .. | .rowEngineOperation ..
  | .storageReadData .. | .powerOff .. | .contextStepEnd .. | .regionEmergency .. | .supplyTrip .. | .sliceExpiry .. | .configurationWrite ..
  | .mgmtAddressWrite .. | .elementWiseStart .. | .portDisable .. | .inputLogCopyComplete .. | .tilCounterCtrlClearAll ..
  | .productComplete .. | .accessWordComplete .. | .tickBoundary | .relocationComplete .. | .jobDeliver .. | .contextCreate ..
  | .bwdCtrlClearTags .. | .mirror .. | .tilSramEccClearCount .. | .stackRequest .. | .emergencyOff | .roundWithLedger ..
  | .inputLogLoad .. | .programCommit .. | .moduleResetAssert | .stkEccClearCount .. | .meshLineReceive .. | .moduleThermalTrip ..
  | .drovePreparation .. | .runtimeReply .. | .fwTimeout .. | .expressEdgeDrop .. | .fieldConverterFailure .. | .muleLoadComplete ..
  | .rendezvousArrival .. | .configurationRead .. | .counterSnapshot .. | .productStart .. | .tileStepEnd .. => true
  | _ => false

/-- A command outside `reachesMemory` leaves every byte of every memory as it was. -/
def Obligations.CommandsThatStoreNothing : Prop :=
  ∀ (i : Instr) (s t : State), reachesMemory i = false → exec i s = .next t → ∀ a, t.rdB a = s.rdB a

/-- The state after reset is canonical. -/
def Obligations.ResetCanonical : Prop := State.reset.Canon

/-- After reset every register reads the value its Reset column gives, no byte of a memory is listed, and no command waits. The model's choices:
every byte of a tile memory or of a stack reads zero (log 3); and of the fields that have no reset value of their own, a fuse field is zero, but
for the row map (staged and active skips, F column 4 and B column 8) and the array spares (rows 128 and 129, columns 512 to 515), a calibration
field is zero, and a kept field is what its meaning gives for standby power arriving, zero where it gives none (log 4). -/
def Obligations.ResetValues : Prop :=
  (∀ a, State.reset.reg a = regReset a % 2 ^ 64) ∧ (∀ a, State.reset.rdB a = 0) ∧ State.reset.pending = [] ∧
    State.reset.rd CAL_BRINGUP.stage = 0 ∧ State.reset.pins.powerGood = false

/-- A well-formed command's header fits its fields. -/
def Obligations.WellFormedHeaderFits : Prop := ∀ i : Instr, Sys2Proof.Laws.HeaderFits.Statement i

/-- What a peer sends to a fabric port comes in: the port is UP, its crossing passes, and its address is its own. -/
def comesIn (s : State) (p : Nat) : Prop :=
  s.up = true ∧ s.rd (PRT_STATUS.link_state p) = 3 ∧ s.passes 2 (p / 4) = true ∧ s.hears p = true

/-- A control message from a peer answered (R374); and, by its sender and id, taken for the first time. -/
def ctrlHeard (s : State) (peer id : Nat) : State := s.sendFab (s.ctrlPort peer) (.ctrlAck peer id)
def ctrlFirst (s : State) (peer id : Nat) : State :=
  let t := ctrlHeard s peer id
  { t with fab := { t.fab with ctrlSeen := (peer, id) :: t.fab.ctrlSeen } }

/-! ### The command interface -/

/-- The packets that no check beyond the third sees: while the module is not up, or a crossing of command intake is stopped, a packet changes
nothing, and so does a relayed one whose channel no connection holds; while the link sleeps or wakes it waits; one whose sender holds no credit
only sets the overrun flag; one with a bad trailer is discarded and its credit is owed; one of another version or of an unassigned opcode is
refused with 0x0101 or 0x0103. -/
def Obligations.PacketsNotTaken : Prop :=
  (∀ (i : Instr) (h : Hdr) (s : State), i.hdr? = some h → s.linkUp = false ∨ s.unrelayed h = true → exec i s = .next s) ∧
  (∀ (i : Instr) (h : Hdr) (s : State), i.hdr? = some h → s.linkUp = true → s.unrelayed h = false → s.linkHolds = true →
    ∃ j : Instr, exec i s = .next (s.holdPacket j)) ∧
  (∀ (i : Instr) (h : Hdr) (s : State), i.wf = true → i.hdr? = some h → s.linkUp = true → s.unrelayed h = false → s.linkHolds = false →
    (s.arrive h).overrun h = true → exec i s = .next ((s.arrive h).wr CMD_STATUS.overrun 1)) ∧
  (∀ (s : State) (p : Bytes), let h := packetHdr p
    (s.linkUp = false ∨ s.unrelayed h = true → exec (.opcodeUnassigned p none) s = .next s) ∧
    (s.linkUp = true → s.unrelayed h = false → packetCrcOk p = false ∨ leAt p 0 1 ≠ 1 ∨ opcodeAssigned (leAt p 2 2) = false →
      (s.linkHolds = true → exec (.opcodeUnassigned p none) s = .next (s.holdPacket (.opcodeUnassigned p none))) ∧
      (s.linkHolds = false → (s.arrive h).overrun h = true →
        exec (.opcodeUnassigned p none) s = .next ((s.arrive h).wr CMD_STATUS.overrun 1)) ∧
      (s.linkHolds = false → (s.arrive h).overrun h = false →
        (packetCrcOk p = false → ∃ t, exec (.opcodeUnassigned p none) s = .next t ∧
          (t.chan h.channel).owed = ((s.taken h).chan h.channel).owed + 1 ∧ t.packets h.channel = (s.taken h).packets h.channel) ∧
        (packetCrcOk p = true → exec (.opcodeUnassigned p none) s =
          .next ((s.taken h).refuse h (leAt p 2 2) (if leAt p 0 1 ≠ 1 then 0x0101 else 0x0103))))))

/-- Intake's checks 4 to 9 of Table 16-2 in their order, each with its status. A faulted module refuses with 0x0703 between checks 4 and 5,
but for the four commands that R447 admits and, where no runtime image was accepted, for the firmware's commands, which R420 completes with
0x0301 (the model's choice, log 71). -/
def Obligations.IntakeStatuses : Prop :=
  ∀ (s : State) (h : Hdr) (op : Nat) (ok : Bool) (sc : Scope),
    (ok = false ∨ h.length % 8 ≠ 0 ∨ 4096 < h.length → s.intake h op ok sc = 0x0102) ∧
    (ok = true → h.length % 8 = 0 → h.length ≤ 4096 →
      let passes : Prop := op ∈ [0x0001, 0x0101, 0x0703, 0x0803] ∨ (s.rd SEC_STATUS.boot_state = 4 ∧ op ∈ fwOps)
      (s.on FLT_STATE.module_faulted = true → ¬passes → s.intake h op ok sc = 0x0703) ∧
      (s.on FLT_STATE.module_faulted = false ∨ passes →
        (s.rdBit (CMD_CHAN_CFG.group_mask h.channel) (op / 256) = false → s.intake h op ok sc = 0x0602) ∧
        (s.rdBit (CMD_CHAN_CFG.group_mask h.channel) (op / 256) = true →
          (sc ≠ .none → s.rdBit (CMD_CHAN_CFG.partition_mask h.channel) h.partition = false → s.intake h op ok sc = 0x0601) ∧
          (sc = .none ∨ s.rdBit (CMD_CHAN_CFG.partition_mask h.channel) h.partition = true →
            (sc = .context → s.cst h.context = stFree ∨ s.cst h.context = stTeardown ∨ s.cpart h.context ≠ h.partition →
              s.intake h op ok sc = 0x0105) ∧
            (sc ≠ .context ∨ (s.cst h.context ≠ stFree ∧ s.cst h.context ≠ stTeardown ∧ s.cpart h.context = h.partition) →
              (((s.chan h.channel).outst.any fun o => o.tag == h.tag) = true → s.intake h op ok sc = 0x0106) ∧
              (((s.chan h.channel).outst.any fun o => o.tag == h.tag) = false →
                (h.deadlineEn = true → h.deadline < s.hall → s.intake h op ok sc = 0x0501) ∧
                (h.deadlineEn = false ∨ s.hall ≤ h.deadline → s.intake h op ok sc = 0)))))))

/-- A refused command has no effect but its count and its answer: it is counted in its channel's refused count, one packet with the status of
its check goes to that channel, and nothing else of the module changes: no other channel, no command outstanding or waiting, no byte of any
memory, no context, sequence, stream, build or security state, no record of the fault log, no pin, and of the registers only that channel's
counts and outstanding count. -/
def Obligations.RefusedCommandHasNoEffect : Prop :=
  ∀ (s : State) (h : Hdr) (op status : Nat), let t := s.refuse h op status
    (∃ p : Packet, t.packets h.channel = s.packets h.channel ++ [p] ∧ p.event = false ∧ p.opcode = op ∧
      p.tag = h.tag ∧ p.status = status ∧ p.credits = (s.chan h.channel).owed + 1 ∧ p.payload = []) ∧
    (s.Canon → t.rd (CMD_CHAN_COUNTS.refused h.channel) = min (s.rd (CMD_CHAN_COUNTS.refused h.channel) + 1) 65535) ∧
    (∃ (r : List (Nat × W64)) (l : List (Nat × Chan)), t = { s with regs := r, cmd := { s.cmd with chans := l } }) ∧
    (∀ ch : Nat, ch ≠ h.channel → t.chan ch = s.chan ch) ∧
    (∃ (q late : List Packet), t.chan h.channel = { s.chan h.channel with queue := q, late := late, owed := 0 }) ∧
    ∀ a, a ≠ CMD_CHAN_COUNTS h.channel → a ≠ CMD_CHAN_STATUS h.channel → t.reg a = s.reg a

/-- A packet that intake refuses is answered with the status of the check that failed, whatever the command, and so is one that passes intake
and fails a check of its own command; an update that comes while another is in progress is refused with 0x0290 (what is in progress, and that
it is asked for before the command's own check, are the model's choice, log 45). -/
def Obligations.IntakeRefuses : Prop :=
  ∀ (s : State) (h : Hdr) (op : Nat) (ok : Bool) (sc : Scope) (param : State → Nat) (effect : State → State) (f : Fw) (cmd : Instr),
    s.linkUp = true → s.unrelayed h = false → s.linkHolds = false → (s.arrive h).overrun h = false →
    let u := s.taken h
    (u.intake h op ok sc ≠ 0 → s.command cmd h op ok sc param effect = u.refuse h op (u.intake h op ok sc)) ∧
    (u.intake h op ok sc = 0 → param u ≠ 0 → s.command cmd h op ok sc param effect = u.refuse h op (param u)) ∧
    (u.intake h f.op f.lenOk f.scope ≠ 0 → s.fwCommand h f cmd = u.refuse h f.op (u.intake h f.op f.lenOk f.scope)) ∧
    (u.intake h f.op f.lenOk f.scope = 0 → u.on CMD_STATUS.runtime_up = true →
      (u.installing f.op cmd = true → s.fwCommand h f cmd = u.refuse h f.op 0x0290) ∧
      (u.installing f.op cmd = false → f.check u ≠ 0 → s.fwCommand h f cmd = (f.onRefusal (f.check u) u).refuse h f.op (f.check u)))

/-- The first reply to a command just accepted: one packet with the command's opcode, tag, partition and context, the status, the payload,
the hall time, and every credit owed with the command's own; it takes an ordinary place of the channel's queue, or, where none is free or
others wait, waits for one (the model's choice, log 64). A final reply ends the command, one of status 0x0001 leaves it outstanding with its
credit returned. -/
def Obligations.ReplyToAnAcceptedCommand : Prop :=
  ∀ (s : State) (h : Hdr) (op status : Nat) (payload : Bytes), ((s.chan h.channel).outst.any fun o => o.tag == h.tag) = false →
    let c := s.chan h.channel
    let d := ((s.accept h op).reply h op status payload).chan h.channel
    let p : Packet := ⟨false, op, h.tag, h.partition, h.context, status, c.owed + 1, status == 1, false, s.timeUnlocked, s.hall, 0, payload⟩
    (c.late = [] → ordinaryPlaces c.queue < 960 → d.queue = c.queue ++ [p] ∧ d.late = []) ∧
    (c.late ≠ [] ∨ 960 ≤ ordinaryPlaces c.queue → d.queue = c.queue ∧ d.late = c.late ++ [p]) ∧
    d.owed = 0 ∧ (status ≠ 1 → d.outst = c.outst) ∧
    (status = 1 → d.outst = c.outst ++ [⟨op, h.tag, h.partition, h.context, true, if h.deadlineEn then some h.deadline else none⟩])

/-- The credits that a packet returns leave its channel's outstanding count, and the channel owes none then: a refusal returns its own and every
credit owed, the first reply to an accepted command likewise, a later one and an event that finds a place every credit owed. A refusal is
counted. -/
def Obligations.ReplyReturnsCredits : Prop :=
  ∀ (s : State) (h : Hdr) (op status : Nat) (payload : Bytes) (dup : Bool), s.Canon →
    let c := s.chan h.channel
    let left (t : State) (n : Nat) : Prop :=
      t.rd (CMD_CHAN_STATUS.outstanding h.channel) = s.rd (CMD_CHAN_STATUS.outstanding h.channel) - n ∧ (t.chan h.channel).owed = 0
    left (s.refuse h op status) (c.owed + 1) ∧
    (s.refuse h op status).rd (CMD_CHAN_COUNTS.refused h.channel) = min (s.rd (CMD_CHAN_COUNTS.refused h.channel) + 1) 65535 ∧
    (∀ o : Outst, c.outst.find? (fun o => o.tag == h.tag && o.op == op) = some o → status ≠ 1 ∨ o.credited = false →
      left (s.reply h op status payload dup) (c.owed + if o.credited then 0 else 1)) ∧
    (∀ code cls part ctx : Nat, (if 2 ≤ cls then reservedPlaces c.queue < 64 else ordinaryPlaces c.queue < 960) →
      left (s.eventOn h.channel code cls part ctx payload) c.owed)

/-- An event finds a place in its channel's queue and takes the next sequence number with every credit owed; with no place it is lost and
counted. Class 2 and above have 64 places of their own, the rest 960. A channel that neither its mask nor, for a fault, its class admits takes
no event; channel 0 takes every fault of class 2 and above. -/
def Obligations.EventQueueing : Prop :=
  ∀ (s : State) (ch code cls part ctx : Nat) (payload : Bytes),
    let c := s.chan ch
    ((2 ≤ cls ∧ reservedPlaces c.queue < 64) ∨ (cls < 2 ∧ ordinaryPlaces c.queue < 960) →
      ((s.eventOn ch code cls part ctx payload).chan ch).queue = c.queue ++
        [⟨true, code, c.eventSeq, part, ctx, 0, c.owed, false, false, s.timeUnlocked, s.hall, cls, payload⟩] ∧
      ((s.eventOn ch code cls part ctx payload).chan ch).eventSeq = (c.eventSeq + 1) % 2 ^ 32) ∧
    ((2 ≤ cls ∧ 64 ≤ reservedPlaces c.queue) ∨ (cls < 2 ∧ 960 ≤ ordinaryPlaces c.queue) →
      ((s.eventOn ch code cls part ctx payload).chan ch).queue = c.queue ∧
      ((s.eventOn ch code cls part ctx payload).chan ch).lost = c.lost + 1) ∧
    (s.rdBit (CMD_CHAN_CFG.event_mask ch) (code - 1) = false → (ch ≠ 0 ∨ cls < 2 → s.takesEvent ch code (some cls) = false) ∧
      s.takesEvent ch code none = false) ∧
    (2 ≤ cls → s.takesEvent 0 code (some cls) = true)

/-! ### Completion: the commands of the command engine -/

/-- DEVICE_IDENTITY, ECHO, CONFIGURATION_READ, TIME_STATUS, COUNTER_SNAPSHOT and FAULT_LOG_READ, admitted, reply with what they read; a
register that time moves is brought up to date as it is read. -/
def Obligations.ReadCommandsComplete : Prop :=
  ∀ (s : State) (h : Hdr),
    (h.length = 0 → s.admits h 0x0001 true .none noCheck →
      exec (.deviceIdentity h) s = .next ((s.accepted h 0x0001).reply h 0x0001 0 (s.accepted h 0x0001).identity)) ∧
    (∀ data : Bytes, h.length = data.length → s.admits h 0x0002 true .none noCheck →
      exec (.echo h data) s = .next ((s.accepted h 0x0002).reply h 0x0002 0 data)) ∧
    (∀ addrs : List Nat, h.length = 8 * addrs.length → 1 ≤ addrs.length → addrs.length ≤ 512 → s.admits h 0x0101 true .none noCheck →
      (∀ a ∈ addrs, (s.taken h).addrStatus a = 0) →
      exec (.configurationRead h addrs) s = .next (
        let u := addrs.foldl State.observe (s.accepted h 0x0101)
        u.reply h 0x0101 0 (addrs.flatMap fun a => leB 8 (u.readReg a)))) ∧
    (h.length = 0 → s.admits h 0x0703 true .none noCheck →
      exec (.timeStatus h) s = .next ((s.accepted h 0x0703).reply h 0x0703 0
        (leB 8 ((s.accepted h 0x0703).readReg TIM_STATUS) ++ leB 8 ((s.accepted h 0x0703).readReg TIM_OFFSET) ++
          leB 8 s.hall ++ leB 8 ((s.accepted h 0x0703).readReg TIM_TICK_NOW)))) ∧
    (∀ space first count offset : Nat, h.length = 32 → s.admits h 0x0801 true .none (checkCounterSnapshot space first count offset) →
      exec (.counterSnapshot h space first count offset) s = .next (
        let addrs := (List.range count).map fun i => space * 2 ^ 40 + (first + i) * 2 ^ 27 + offset
        let u := addrs.foldl State.observe (s.accepted h 0x0801)
        u.reply h 0x0801 0 (addrs.flatMap fun a => leB 8 (u.readReg a)))) ∧
    (∀ first count : Nat, h.length = 16 → 1 ≤ count → count ≤ 127 → s.admits h 0x0803 true .none noCheck →
      exec (.faultLogRead h first count) s = .next ((s.accepted h 0x0803).reply h 0x0803
        ((s.accepted h 0x0803).readLog first count 127).1 ((s.accepted h 0x0803).readLog first count 127).2))

/-- A configuration write whose entries pass is applied at once, or, staged, put on the boundary queue; applied at order 10 it is checked
again. -/
def Obligations.ConfigurationWriteCompletes : Prop :=
  ∀ (s : State) (h : Hdr) (entries : List (Nat × Nat)), h.length = 8 + 16 * entries.length → 1 ≤ entries.length → entries.length ≤ 255 →
    s.admits h 0x0102 true .none (·.entriesStatus h.channel entries) →
    exec (.configurationWrite h 0 entries) s = .next (((s.accepted h 0x0102).applyEntries entries).reply h 0x0102 0) ∧
    exec (.configurationWrite h 1 entries) s =
      .next ((s.accepted h 0x0102).stage h 0x0102 (.configurationWrite h 1 entries)) ∧
    (s.entriesStatus h.channel entries = 0 → s.applyWrite h entries = (s.applyEntries entries).reply h 0x0102 0) ∧
    (s.entriesStatus h.channel entries ≠ 0 → s.applyWrite h entries = s.reply h 0x0102 (s.entriesStatus h.channel entries))

/-- The rows that are one write each, to a register whose write the module admits, write it. -/
def Obligations.RegisterWritesComplete : Prop :=
  ∀ (s : State) (h : Hdr) (i v : Nat), h.length = 24 →
    let writes (c : Instr) (a w : Nat) : Prop := s.admits h 0x0102 true .none (·.writeStatus h.channel a w) →
      exec c s = .next (((s.accepted h 0x0102).applyEntry a w).reply h 0x0102 0)
    writes (.tilNumStatusClearCount h i v) (TIL_NUM_STATUS i) (setBits v 8 1 1) ∧
    writes (.tilSramEccClearCount h i v) (TIL_SRAM_ECC i) (setBits v 32 1 1) ∧
    writes (.tilCounterCtrlClearAll h i v) (TIL_COUNTER_CTRL i) (setBits v 0 1 1) ∧
    (∀ q : Nat, writes (.aryQueueSelWrite h i v q) (ARY_QUEUE_SEL i) (v % 2 * 2 ^ 10 + q % 2 ^ 10)) ∧
    writes (.bwdCtrlClearTags h i) (BWD_CTRL i) 1 ∧
    writes (.stkEccClearCount h i) (STK_ECC i) (2 ^ 32) ∧
    (∀ r f b : Nat, writes (.tilRowMapWrite h i r f b) (TIL_ROW_MAP i r) (b % 16 * 2 ^ 20 + f % 8 * 2 ^ 8)) ∧
    writes (.calBistCtrlStart h i) (CAL_BIST_CTRL i) 1 ∧
    writes (.portEnable h i v) (PRT_CFG i) (setBits v 0 1 1) ∧
    writes (.portDisable h i v) (PRT_CFG i) (setBits v 0 1 0) ∧
    writes (.mgmtAddressWrite h i .cfg v) (CMD_MGMT_CFG i) v ∧
    writes (.mgmtAddressWrite h i .addrHi v) (CMD_MGMT_ADDR_HI i) v ∧
    writes (.mgmtAddressWrite h i .addrLo v) (CMD_MGMT_ADDR_LO i) v

/-- What a write leaves in a register of any number of fields that do not overlap: an RW field takes the written bits, a W1C field loses the
bits written 1, a read-only and a write-only field stand, and so does every bit of no field. -/
def Obligations.WriteRules : Prop :=
  ∀ (fields : List FieldSpec) (old v : Nat), old < 2 ^ 64 → (∀ f ∈ fields, f.lo + f.width ≤ 64) →
    fields.Pairwise (fun f g => f.lo + f.width ≤ g.lo ∨ g.lo + g.width ≤ f.lo) →
    (∀ f ∈ fields, bits (written fields old v) f.lo f.width = match f.acc with
      | .rw => bits v f.lo f.width
      | .w1c => bits old f.lo f.width - (bits old f.lo f.width &&& bits v f.lo f.width)
      | .ro | .wo => bits old f.lo f.width) ∧
    (∀ b : Nat, (∀ f ∈ fields, b < f.lo ∨ f.lo + f.width ≤ b) → bits (written fields old v) b 1 = bits old b 1) ∧
    written fields old v < 2 ^ 64

/-- A read, a slice table, a pre-empt, a free-area query, a program's data and fetch, a weight set's commit and switch: the commands of a
partition or a context that the command engine executes complete, or wait for their boundary with the reply 0x0001. -/
def Obligations.PartitionAndContextCommandsComplete : Prop :=
  ∀ (s : State) (h : Hdr),
    (∀ (n : Nat) (entries : List (Nat × Nat)), h.length = 8 + 16 * entries.length →
      s.admits h 0x0206 true .partition (checkSliceTableSet h.partition n entries) →
      exec (.sliceTableSet h n entries) s = .next ((s.accepted h 0x0206).stage h 0x0206 (.sliceTableSet h n entries))) ∧
    (∀ ctx ticks : Nat, h.length = 16 → s.admits h 0x0207 true .partition (checkContextPreEmpt h.partition ctx ticks) →
      exec (.contextPreEmpt h ctx ticks) s = .next ((s.accepted h 0x0207).stagePreempt h ctx ticks)) ∧
    (h.length = 0 → s.admits h 0x0208 true .none noCheck →
      exec (.freeAreaQuery h) s = .next ((s.accepted h 0x0208).reply h 0x0208 0 (s.accepted h 0x0208).areaMap)) ∧
    (∀ count : Nat, h.length = 8 → 1 ≤ count → count ≤ 16 → s.admits h 0x0209 true .context noCheck →
      exec (.slowdownRead h count) s =
        .next ((s.accepted h 0x0209).reply h 0x0209 0 ((s.ctx h.context).slowdown.take count).flatten)) ∧
    (∀ (offset : Nat) (data : Bytes) (m : OpenImage), h.length = 8 + data.length → 8 ≤ data.length → data.length ≤ 4088 →
      s.admits h 0x0302 true .context noCheck → (s.ctx h.context).image = some m → offset + data.length ≤ m.len →
      exec (.programData h offset data) s = .next (((s.accepted h 0x0302).modCtx h.context fun k =>
        { k with image := k.image.map fun i => i.put offset data }).reply h 0x0302 0)) ∧
    (∀ (addr len : Nat), h.length = 16 → s.admits h 0x0303 true .context (checkProgramFetch h.context addr len) →
      (s.accepted h 0x0303).partPoisoned ((s.accepted h 0x0303).cpart h.context) (256 * addr) len = false →
      exec (.programFetch h addr len) s = .next (
        let u := s.accepted h 0x0303
        let p := u.cpart h.context
        ((u.readLines p (256 * addr) len).modCtx h.context fun k =>
          { k with image := k.image.map fun m => m.put 0 (u.rdPart p (256 * addr) len) }).reply h 0x0303 0)) ∧
    (∀ slot : Nat, h.length = 8 → s.admits h 0x0403 true .context (checkWeightSetCommit h.context slot) →
      exec (.weightSetCommit h slot) s = .next (doWeightSetCommit h slot (s.accepted h 0x0403))) ∧
    (∀ slot : Nat, h.length = 8 → s.admits h 0x0404 true .context (checkWeightSetSwitch h.context slot) →
      exec (.weightSetSwitch h slot) s = .next (doWeightSetSwitch h slot (s.accepted h 0x0404)))

/-- The sequence, training, stream, tick, trace and result commands of the command engine complete, or wait for their boundary with the
reply 0x0001. -/
def Obligations.WorkCommandsComplete : Prop :=
  ∀ (s : State) (h : Hdr),
    (∀ slot : Nat, h.length = 8 → s.admits h 0x0502 true .context (checkSequence h.context slot) →
      exec (.sequenceCancel h slot) s = .next ((s.accepted h 0x0502).stage h 0x0502 (.sequenceCancel h slot))) ∧
    (∀ slot : Nat, h.length = 8 → s.admits h 0x0503 true .context (checkSequence h.context slot) →
      exec (.sequenceQuery h slot) s = .next ((s.accepted h 0x0503).reply h 0x0503 0 (seqBytes (s.seq slot) s.tick))) ∧
    (∀ req : TrainReq, h.length = 128 → s.admits h 0x0601 true .context (checkTrainingStep h.context req) →
      exec (.trainingStep h req) s = .next (doTrainingStep h req (s.accepted h 0x0601))) ∧
    (∀ (handle : Nat) (x : Stream), h.length = 8 → s.admits h 0x0608 true .context noCheck → handle ≤ 4095 → s.stream handle = some x →
      x.ctx = h.context → exec (.streamClose h handle) s = .next (
        let u := (s.accepted h 0x0608).closeStream x
        (u.payWaiting (u.cpart x.ctx)).reply h 0x0608 0)) ∧
    (∀ mode epoch us : Nat, h.length = 24 → s.admits h 0x0701 true .none (checkTickSetDirect mode us) →
      exec (.tickSetDirect h mode epoch us) s = .next ((s.accepted h 0x0701).stage h 0x0701 (.tickSetDirect h mode epoch us))) ∧
    (∀ k us : Nat, h.length = 24 → s.admits h 0x0701 true .none (checkTickSetEffective k us) →
      exec (.tickSetEffective h k us) s = .next ((s.accepted h 0x0701).stage h 0x0701 (.tickSetEffective h k us))) ∧
    (∀ off : Int, h.length = 8 → s.admits h 0x0702 true .none noCheck → (s.taken h).anyActive = false →
      exec (.timeStep h off) s = .next ((s.accepted h 0x0702).stage h 0x0702 (.timeStep h off))) ∧
    (h.length = 0 → s.admits h 0x0A02 true .context noCheck →
      exec (.traceDisable h) s = .next (((s.accepted h 0x0A02).stopTrace h.context).reply h 0x0A02 0)) ∧
    (∀ source ring start count : Nat, h.length = 32 → s.admits h 0x0C01 true .context (checkResultRead h.context source ring start count) →
      exec (.resultRead h source ring start count) s = .next (doResultRead h source ring start count (s.accepted h 0x0C01))) ∧
    (∀ (source ring upto : Nat) (r : Ring), h.length = 24 → s.admits h 0x0C02 true .context noCheck → source ≤ 1 → ring ≤ 255 →
      s.ring h.context source ring = some r → upto ≤ r.write →
      exec (.resultRelease h source ring upto) s = .next (((s.accepted h 0x0C02).setRing (r.releaseTo upto)).reply h 0x0C02 0)) ∧
    (∀ ms : Nat, h.length = 8 → s.admits h 0x0C03 true .context noCheck → ms ≤ 3600000 →
      exec (.retentionSet h ms) s =
        .next (((s.accepted h 0x0C03).wr (CMD_RESULT_CFG.retention_ms h.context) ms).reply h 0x0C03 0))

/-! ### Completion: the commands of the runtime firmware -/

/-- The partition and context commands of the firmware complete, or wait for their boundary: PARTITION_BUILD with the partition BUILDING
meanwhile. -/
def Obligations.PartitionFirmwareCommandsComplete : Prop :=
  ∀ (s : State) (h : Hdr),
    (∀ x0 y0 w ht prio m b n pool : Nat, s.runs h (fwPartitionBuild h x0 y0 w ht prio m b n pool) (.partitionBuild h x0 y0 w ht prio m b n pool) →
      exec (.partitionBuild h x0 y0 w ht prio m b n pool) s = .next (((s.fwAccepted h 0x0201).wr (PAR_PART_CFG.state h.partition) 1).stage
        h 0x0201 (.partitionBuild h x0 y0 w ht prio m b n pool))) ∧
    (s.runs h (fwPartitionDissolve h) (.partitionDissolve h) →
      exec (.partitionDissolve h) s = .next ((s.fwAccepted h 0x0202).stage h 0x0202 (.partitionDissolve h))) ∧
    (∀ x0 y0 : Nat, s.runs h (fwPartitionRelocate h x0 y0) (.partitionRelocate h x0 y0) →
      exec (.partitionRelocate h x0 y0) s = .next ((s.fwAccepted h 0x0203).stage h 0x0203 (.partitionRelocate h x0 y0))) ∧
    (∀ slot role base lines ex seed floor evict target report : Nat,
      s.runs h (fwContextCreate h slot role base lines ex seed floor evict target report) (.contextCreate h slot role base lines ex seed floor evict target report) →
      exec (.contextCreate h slot role base lines ex seed floor evict target report) s =
        .next (doContextCreate h slot role base lines ex seed floor evict target report (s.fwAccepted h 0x0204))) ∧
    (s.runs h (fwContextDestroy h) (.contextDestroy h) →
      exec (.contextDestroy h) s = .next ((s.fwAccepted h 0x0205).stage h 0x0205 (.contextDestroy h)))

/-- The program, weight-set and adapter commands of the firmware complete. A commit loads the image when it passes every check, and
else completes with the status of the check that failed. -/
def Obligations.ProgramAndWeightCommandsComplete : Prop :=
  ∀ (s : State) (h : Hdr),
    (∀ (len : Nat) (digest : Bytes), s.runs h (fwProgramOpen h len digest) (.programOpen h len digest) →
      exec (.programOpen h len digest) s = .next (((s.fwAccepted h 0x0301).modCtx h.context fun k =>
        { k with image := some ⟨len, digest, []⟩ }).reply h 0x0301 0)) ∧
    (∀ m : OpenImage, s.runs h (fwProgramCommit h) (.programCommit h) → (s.ctx h.context).image = some m → exec (.programCommit h) s = .next (
      let u := s.fwAccepted h 0x0304
      if u.imageStatus h.context m = 0 then (u.loadImage h.context m).reply h 0x0304 0 (imageMeasurement m)
      else u.reply h 0x0304 (u.imageStatus h.context m))) ∧
    (∀ r : WeightOpen, s.runs h (fwWeightSetOpen h r) (.weightSetOpen h r) →
      exec (.weightSetOpen h r) s = .next (doWeightSetOpen h r (s.fwAccepted h 0x0401))) ∧
    (∀ slot force : Nat, s.runs h (fwWeightSetRelease h slot force) (.weightSetRelease h slot force) →
      exec (.weightSetRelease h slot force) s = .next (doWeightSetRelease h slot force (s.fwAccepted h 0x0405))) ∧
    (∀ slot shard : Nat, s.runs h (fwWeightSetDigest h slot shard) (.weightSetDigest h slot shard) →
      exec (.weightSetDigest h slot shard) s = .next (doWeightSetDigest h slot shard (s.fwAccepted h 0x0406))) ∧
    (∀ entry rank scale tag shards stream : Nat, s.runs h (fwAdapterLoad h entry rank scale tag shards stream) (.adapterLoad h entry rank scale tag shards stream) →
      exec (.adapterLoad h entry rank scale tag shards stream) s =
        .next (doAdapterLoad h entry rank scale tag shards stream (s.fwAccepted h 0x0407))) ∧
    (∀ entry : Nat, s.runs h (fwAdapterDrop h entry) (.adapterDrop h entry) →
      exec (.adapterDrop h entry) s = .next (((((s.fwAccepted h 0x0408).dropBuild h.context (entry + 2)).showAdapters).modCtx h.context fun k =>
        { k with cache := k.cache.filter fun e => e.2 != entry }).reply h 0x0408 0))

/-- The storage, serving and trace commands of the firmware complete; a controller that declines PDU digests stays unconnected, with a status of
which the spec names no number (free, log 34), and a disconnect with reads still in progress waits for them. -/
def Obligations.StorageAndServingCommandsComplete : Prop :=
  ∀ (s : State) (h : Hdr),
    (∀ r : StorageConn, s.runs h (fwStorageConnect h r) (.storageConnect h r) →
      (r.declines = false → exec (.storageConnect h r) s = .next (((((s.fwAccepted h 0x0409).setController
        { (s.fwAccepted h 0x0409).controller r.controller with conn := some r }).showControllers).issueReads r.controller).reply h 0x0409 0)) ∧
      (r.declines = true → ∃ status : Nat, status ≠ 0 ∧
        exec (.storageConnect h r) s = .next ((s.fwAccepted h 0x0409).reply h 0x0409 status))) ∧
    (∀ k : Nat, s.runs h (fwStorageDisconnect h k) (.storageDisconnect h k) → ((s.fwAccepted h 0x040A).controller k).jobs = [] →
      exec (.storageDisconnect h k) s = .next (((s.fwAccepted h 0x040A).setController
        { (s.fwAccepted h 0x040A).controller k with leaving := some h }).leaveController k)) ∧
    (∀ k : Nat, s.runs h (fwStorageDisconnect h k) (.storageDisconnect h k) → ((s.fwAccepted h 0x040A).controller k).jobs ≠ [] →
      exec (.storageDisconnect h k) s = .next ((((s.fwAccepted h 0x040A).reply h 0x040A 1).setController
        { (s.fwAccepted h 0x040A).controller k with leaving := some h }).leaveController k)) ∧
    (∀ r : StorageReadReq, s.runs h (fwStorageRead h r) (.storageRead h r) →
      exec (.storageRead h r) s = .next (((s.fwAccepted h 0x0402).readBlocks h r r.lba r.blocks).reply h 0x0402 1)) ∧
    (∀ v : List Nat, s.runs h (fwServingConfigure h v) (.servingConfigure h v) →
      exec (.servingConfigure h v) s = .next (doServingConfigure h v (s.fwAccepted h 0x0504))) ∧
    (∀ n k base : Nat, s.runs h (fwRingConfigure h n k base) (.ringConfigure h n k base) →
      exec (.ringConfigure h n k base) s = .next ((if k = 0 then (s.fwAccepted h 0x0505).dropRing h.context 0 n
        else (s.fwAccepted h 0x0505).setRing { ctx := h.context, source := 0, ring := n, k := k, base := base, size := 32 }).reply h 0x0505 0)) ∧
    (∀ base k : Nat, s.runs h (fwTraceEnable h base k) (.traceEnable h base k) →
      exec (.traceEnable h base k) s = .next (((s.fwAccepted h 0x0A01).setRing
        { ctx := h.context, source := 1, ring := 0, k := k, base := base, size := 16 }).reply h 0x0A01 0))

/-- The roster, input-log, mirror, job-start and stream commands of the firmware complete. -/
def Obligations.RosterAndJobCommandsComplete : Prop :=
  ∀ (s : State) (h : Hdr),
    (∀ d : Bytes, s.runs h (fwRosterTree h d) (.rosterTree h d) →
      exec (.rosterTree h d) s = .next (((s.fwAccepted h 0x0603).modCtx h.context fun k => { k with node := some d }).reply h 0x0603 0)) ∧
    (∀ base depth units addr win keep : Nat, s.runs h (fwInputLogConfigure h base depth units addr win keep) (.inputLogConfigure h base depth units addr win keep) →
      exec (.inputLogConfigure h base depth units addr win keep) s =
        .next (doInputLogConfigure h base depth units addr win keep (s.fwAccepted h 0x060B))) ∧
    (∀ (step source offset : Nat) (b : Bytes), s.runs h (fwInputLogRead h step source offset) (.inputLogRead h step source offset) →
      (s.fwAccepted h 0x0604).namedEntry h.context step source = some b →
      (s.fwAccepted h 0x0604).entryPoisoned h.context step source = false → (s.fwAccepted h 0x0604).on (SEC_CTX.attested h.context) = false →
      exec (.inputLogRead h step source offset) s = .next ((s.fwAccepted h 0x0604).reply h 0x0604 0 (outPart b offset))) ∧
    (∀ (offset total : Nat) (data obj : Bytes) (t : State), s.runs h (fwInputLogLoad h offset total data) (.inputLogLoad h offset total data) →
      (s.fwAccepted h 0x060C).takePart h 0x060C offset total data = (.whole obj, t) →
      exec (.inputLogLoad h offset total data) s = .next (
        if t.rd (FLT_CTX_ILOG_CFG.depth h.context) = 0 then t.reply h 0x060C 0x0241 else t.loadEntry h obj)) ∧
    (∀ (offset total : Nat) (data : Bytes) (t : State), s.runs h (fwInputLogLoad h offset total data) (.inputLogLoad h offset total data) →
      (s.fwAccepted h 0x060C).takePart h 0x060C offset total data = (.more, t) →
      exec (.inputLogLoad h offset total data) s = .next (t.reply h 0x060C 0)) ∧
    (∀ handle : Nat, s.runs h (fwMirrorConfigure h handle) (.mirrorConfigure h handle) →
      exec (.mirrorConfigure h handle) s = .next (((s.fwAccepted h 0x0609).modCtx h.context fun k =>
        { k with mirror := some handle }).reply h 0x0609 0)) ∧
    (∀ handle base depth units : Nat, s.runs h (fwMirrorAccept h handle base depth units) (.mirrorAccept h handle base depth units) →
      exec (.mirrorAccept h handle base depth units) s = .next (((s.fwAccepted h 0x060A).modCtx h.context fun k =>
        { k with mirrorFrom := some handle, mirrorRing := some (base, if depth = 0 then 8 else depth, units) }).reply h 0x060A 0)) ∧
    (∀ b base units t : Nat, s.runs h (fwJobStartArm h b base units t) (.jobStartArm h b base units t) →
      exec (.jobStartArm h b base units t) s = .next (doJobStartArm h b base units t (s.fwAccepted h 0x0605))) ∧
    (∀ addr members blob len : Nat, s.runs h (fwJobStartBroadcast h addr members blob len) (.jobStartBroadcast h addr members blob len) →
      exec (.jobStartBroadcast h addr members blob len) s = .next (doJobStartBroadcast h addr members blob len (s.fwAccepted h 0x0606))) ∧
    (∀ d : Bytes, s.runs h (fwJobStartStatus h d) (.jobStartStatus h d) →
      exec (.jobStartStatus h d) s =
        .next ((s.fwAccepted h 0x0602).reply h 0x0602 0 ((s.fwAccepted h 0x0602).jobStatusOf h.context d))) ∧
    (∀ r : StreamOpenReq, s.runs h (fwStreamOpen h r) (.streamOpen h r) →
      exec (.streamOpen h r) s = .next (doStreamOpen h r (s.fwAccepted h 0x0607)))

/-- The power, thermal and calibration commands of the firmware complete, or wait for their boundary. -/
def Obligations.PowerAndCalibrationCommandsComplete : Prop :=
  ∀ (s : State) (h : Hdr),
    (∀ w : Nat, s.runs h (fwPowerCapSet h w) (.powerCapSet h w) →
      exec (.powerCapSet h w) s = .next ((s.fwAccepted h 0x0B01).stage h 0x0B01 (.powerCapSet h w))) ∧
    (s.runs h (fwSensorRead h) (.sensorRead h) →
      exec (.sensorRead h) s = .next ((s.fwAccepted h 0x0802).reply h 0x0802 0 (s.fwAccepted h 0x0802).sensorReport)) ∧
    (s.runs h (fwThermalStatus h) (.thermalStatus h) →
      exec (.thermalStatus h) s = .next ((s.fwAccepted h 0x0B02).reply h 0x0B02 0 (s.fwAccepted h 0x0B02).thermalReport)) ∧
    (∀ (kind : Nat) (r : Bytes), s.runs h (fwCalibrationRead h kind) (.calibrationRead h kind) → (s.fwAccepted h 0x0B03).calRecord kind = some r →
      exec (.calibrationRead h kind) s = .next ((s.fwAccepted h 0x0B03).reply h 0x0B03 0 (r.take 4096))) ∧
    (∀ r : Bytes, s.runs h (fwCalibrationWrite h r) (.calibrationWrite h r) →
      exec (.calibrationWrite h r) s = .next ((s.fwAccepted h 0x0B04).stage h 0x0B04 (.calibrationWrite h r))) ∧
    (s.runs h (fwCalibrationCommit h) (.calibrationCommit h) →
      exec (.calibrationCommit h) s = .next ((s.fwAccepted h 0x0B05).stage h 0x0B05 (.calibrationCommit h))) ∧
    (∀ (offset total : Nat) (data obj : Bytes) (t : State), s.runs h (fwCalibrationRestore h offset total data) (.calibrationRestore h offset total data) →
      (s.fwAccepted h 0x0B06).takePart h 0x0B06 offset total data = (.whole obj, t) →
      exec (.calibrationRestore h offset total data) s = .next (if t.checkCalFile obj = 0 then
        t.stage h 0x0B06 (.calibrationRestore h 0 obj.length obj) else t.secReply h 0x0B06 (t.checkCalFile obj)))

/-- The security commands complete when the trusted firmware's own checks pass. -/
def Obligations.SecurityCommandsComplete : Prop :=
  ∀ (s : State) (h : Hdr),
    (s.runs h (fwMeasurementRead h) (.measurementRead h) →
      exec (.measurementRead h) s =
        .next ((s.fwAccepted h 0x0901).secReply h 0x0901 0 ((List.range 16).flatMap (s.fwAccepted h 0x0901).slot))) ∧
    (∀ (k : Nat) (v : Bytes), s.runs h (fwMeasurementExtend h k v) (.measurementExtend h k v) → 6 ≤ k → k ≤ 15 →
      exec (.measurementExtend h k v) s = .next (((s.fwAccepted h 0x0901).extend k v).secReply h 0x0901 0)) ∧
    (∀ which offset : Nat, s.runs h (fwCertificateRead h which offset) (.certificateRead h which offset) → which ≤ 1 → offset ≤ ((s.fwAccepted h 0x0901).certificate which).length →
      exec (.certificateRead h which offset) s =
        .next ((s.fwAccepted h 0x0901).secReply h 0x0901 0 (outPart ((s.fwAccepted h 0x0901).certificate which) offset))) ∧
    (∀ (nonce : Bytes) (c session : Nat), s.runs h (fwAttestationQuote h nonce c session) (.attestationQuote h nonce c session) →
      checkQuote c session (s.fwAccepted h 0x0902) = 0 →
      exec (.attestationQuote h nonce c session) s = .next (({ s.fwAccepted h 0x0902 with sec := { (s.fwAccepted h 0x0902).sec with
        waiting := (s.fwAccepted h 0x0902).sec.waiting ++ [(⟨h, (s.fwAccepted h 0x0902).quoteBody nonce c session⟩ : QuoteReq)] } }).reply
          h 0x0902 1)) ∧
    (∀ (id offset : Nat) (quote : Bytes), s.runs h (fwQuoteRead h id offset) (.quoteRead h id offset) → checkQuoteRead id offset (s.fwAccepted h 0x0902) = 0 →
      ((s.fwAccepted h 0x0902).sec.quotes.find? fun q => q.1 == id) = some (id, quote) →
      exec (.quoteRead h id offset) s = .next ((s.fwAccepted h 0x0902).secReply h 0x0902 0 (outPart quote offset))) ∧
    (s.runs h (fwSessionEstablishKey h) (.sessionEstablishKey h) →
      exec (.sessionEstablishKey h) s = .next (doSessionKey h (s.fwAccepted h 0x0903))) ∧
    (∀ (session bind : Nat) (ct : Bytes), s.runs h (fwSessionEstablishCiphertext h session bind ct) (.sessionEstablishCiphertext h session bind ct) →
      checkSessionCiphertext h.context session bind (s.fwAccepted h 0x0903) = 0 →
      exec (.sessionEstablishCiphertext h session bind ct) s = .next (doSessionCiphertext h session bind ct (s.fwAccepted h 0x0903))) ∧
    (∀ session slot salt dir : Nat, s.runs h (fwStreamKeySet h session slot salt dir) (.streamKeySet h session slot salt dir) →
      checkStreamKeySet h.context session slot salt dir (s.fwAccepted h 0x0904) = 0 →
      exec (.streamKeySet h session slot salt dir) s = .next (doStreamKeySet h session slot salt dir (s.fwAccepted h 0x0904)))

/-- The debug-unlock, enrolment and firmware-update commands complete when what they carry verifies; a fuse that does not read back as written
faults the module, and no fuse is written again: an enrolment or a floor raise leaves the owner's hash, the floors and the debug disable as they
stood. The model's choices: the detail of fault 0x3305 (log 51), the free value that slot 4 is extended with (log 38), and a fuse mismatch as an
outcome that comes with the command, its status and what the fuse then reads (log 60). -/
def Obligations.UnlockAndUpdateCommandsComplete : Prop :=
  ∀ (s : State) (h : Hdr),
    (∀ level : Nat, s.runs h (fwDebugUnlockChallenge h level) (.debugUnlockChallenge h level) → 1 ≤ level → level ≤ 2 → (s.fwAccepted h 0x0905).unlockRefusal level = 0 →
      exec (.debugUnlockChallenge h level) s = .next (
        let r := (s.fwAccepted h 0x0905).freeBytes 32
        let ch := r.1 ++ leB 16 Config.serialNumber.toNat ++ leB 1 level ++ leB 7 0
        ({ r.2 with sec := { r.2.sec with challenge := some (level, ch, (s.fwAccepted h 0x0905).hall) } }).secReply h 0x0905 0 ch)) ∧
    (∀ (offset total : Nat) (data obj : Bytes) (t : State), s.runsBefore h (fwDebugUnlockResponse h offset total data)
        (.debugUnlockResponse h offset total data) → (s.taken h).takePart h 0x0905 offset total data = (.whole obj, t) →
      exec (.debugUnlockResponse h offset total data) s = .next (
        let u := ((s.fwAccepted h 0x0905).takePart h 0x0905 offset total data).2
        if t.unlockCheck obj ≠ 0 then (secCount (t.unlockCheck obj) t).refuse h 0x0905 (t.unlockCheck obj)
        else if u.unlockCheck obj ≠ 0 then (secCount (u.unlockCheck obj) u).reply h 0x0905 (u.unlockCheck obj) else u.unlock h obj)) ∧
    (∀ (t : State) (obj : Bytes) (level at_ : Nat) (ch : Bytes) (k : KeyEntry), t.sec.challenge = some (level, ch, at_) →
      t.debugKey obj = some k → obj.length = 16232 → leAt obj 16224 8 ≤ 31 → t.unlockRefusal level = 0 → t.hall ≤ at_ + sessionLimit →
      t.unlockCheck obj = (if Config.verifySignature k.key ch (obj.take 16224) then 0 else 0x0640) ∧
      t.unlock h obj =
        (((({ t.wr SEC_STATUS.debug_level (max level (t.rd SEC_STATUS.debug_level)) with
          sec := { t.sec with challenge := none } }).inc SEC_COUNTS.unlocks 1).extendFree 4).fault 0x3305 0 15 0 none none
            (leB 1 level ++ leB 1 (leAt obj 16224 8))).secReply h 0x0905 0) ∧
    (∀ (offset total : Nat) (data obj : Bytes) (ok : Bool) (t : State), s.runsBefore h (fwKeyEnrolment h offset total data ok)
        (.keyEnrolment h offset total data ok) → (s.taken h).takePart h 0x0907 offset total data = (.whole obj, t) →
      exec (.keyEnrolment h offset total data ok) s = .next (
        let u := ((s.fwAccepted h 0x0907).takePart h 0x0907 offset total data).2
        if t.enrolCheck obj ≠ 0 then (secCount (t.enrolCheck obj) t).refuse h 0x0907 (t.enrolCheck obj)
        else if u.enrolCheck obj ≠ 0 then (secCount (u.enrolCheck obj) u).reply h 0x0907 (u.enrolCheck obj) else u.enrol h ok obj)) ∧
    (∀ (t : State) (obj : Bytes), obj.length = 16304 → leAt obj 0 1 = 0 → t.on SEC_STATUS.owner_set = false → t.sec.fuseBad = false →
      t.sec.counter < leAt obj 8 8 →
      t.enrolCheck obj = (if !recordOk obj then 0x0190
        else if !Config.kyorisSigned t.rootHash (sha256 (obj.take 80)) (slice obj 80 16224) then 0x0640 else 0) ∧
      t.enrol h true obj = (t.enrolRecord obj).secReply h 0x0907 0) ∧
    (∀ target addr len : Nat, s.runs h (fwFirmwareUpdateInstall h target addr len) (.firmwareUpdateInstall h target addr len) →
      exec (.firmwareUpdateInstall h target addr len) s = .next (((s.fwAccepted h 0x0906).fwInstall target addr len).secReply h 0x0906 0)) ∧
    (∀ (addr offset total : Nat) (data : Bytes) (o : PartOutcome) (t : State), s.runs h (fwFirmwareUpdateStage h addr offset total data) (.firmwareUpdateStage h addr offset total data) →
      (s.fwAccepted h 0x0906).takePart h 0x0906 offset total data = (o, t) → o ≠ .refused →
      exec (.firmwareUpdateStage h addr offset total data) s = .next ((t.stageBytes (addr + offset) data).secReply h 0x0906 0)) ∧
    (∀ target : Nat, s.runs h (fwFirmwareUpdateFloor h target true) (.firmwareUpdateFloor h target true) → target ≤ 1 → (s.fwAccepted h 0x0906).sec.fuseBad = false →
      exec (.firmwareUpdateFloor h target true) s = .next (((s.fwAccepted h 0x0906).fwRaise target).secReply h 0x0906 0)) ∧
    (∀ target : Nat, s.runs h (fwFirmwareUpdateFloor h target false) (.firmwareUpdateFloor h target false) → target ≤ 1 → (s.fwAccepted h 0x0906).sec.fuseBad = false →
      s.Canon → ∃ u, exec (.firmwareUpdateFloor h target false) s = .next u ∧ u.sec.fuseBad = true ∧
        u.on FLT_STATE.module_faulted = true) ∧
    (s.sec.fuseBad = true → h.channel < 8 → ∀ (target offset total : Nat) (data : Bytes) (ok : Bool) (t : State),
      exec (.keyEnrolment h offset total data ok) s = .next t ∨ exec (.firmwareUpdateFloor h target ok) s = .next t →
      (∀ w < 8, t.rd (SEC_FUSE_HASH.hash w) = s.rd (SEC_FUSE_HASH.hash w)) ∧ t.rd SEC_STATUS.owner_set = s.rd SEC_STATUS.owner_set ∧
        t.rd SEC_STATUS.debug_disable = s.rd SEC_STATUS.debug_disable ∧ t.rd SEC_VERSION.tfw_floor = s.rd SEC_VERSION.tfw_floor ∧
        t.rd SEC_VERSION.rfw_floor = s.rd SEC_VERSION.rfw_floor)

/-- While the runtime firmware is not running, an F command that intake admits is accepted and completes with 0x0301, with no other effect. A
command that it has not answered within fw_timeout completes with 0x0503, and every reply to it that comes later is discarded. Whether the
firmware still carries it out is free (the model's choice, log 7); one that waits at a crossing, stopped, waking or behind an earlier command, it
does not (the model's inference, log 55). -/
def Obligations.RuntimeFirmwareSilent : Prop :=
  (∀ (s : State) (h : Hdr) (f : Fw) (c : Instr), fwAs id c = some f → c.hdr? = some h →
    s.linkUp = true → s.unrelayed h = false → s.linkHolds = false → (s.arrive h).overrun h = false →
    (s.taken h).intake h f.op f.lenOk f.scope = 0 → (s.taken h).on CMD_STATUS.runtime_up = false →
    exec c s = .next ((s.accepted h f.op).reply h f.op 0x0301)) ∧
  (∀ (s : State) (ch tag : Nat) (r : RtCmd), s.up = true → s.held? ch tag = some r →
    ∃ t : State, t = (({ s with hall := max s.hall (r.since + s.rd CMD_CFG.fw_timeout * 1000000) }).dropHeld ch tag).reply r.hdr r.op 0x0503 ∧
      exec (.fwTimeout ch tag) s =
        .next (if (t.free 1).1 = 1 ∧ s.comesThrough r = true then (t.free 1).2.carryOut r unanswerable else (t.free 1).2)) ∧
  (∀ (s : State) (h : Hdr) (op status : Nat) (payload : Bytes) (dup : Bool),
    ((s.chan h.channel).outst.any fun o => o.tag == h.tag && o.op == op) = false → s.reply h op status payload dup = s)

/-- An F command that the firmware does not answer promptly is held, with the pending reply 0x0001; its reply carries it out with the checks
made then, or, past its deadline, completes with 0x0502 and no effect; its deadline's expiry ends it with 0x0502. When its reply comes, and what is
checked then, are the model's choice (log 7), and so is which updates are in progress (log 45). -/
def Obligations.HeldCommands : Prop :=
  ∀ (s : State) (h : Hdr) (f : Fw) (c : Instr), fwAs id c = some f → c.hdr? = some h → s.admits h f.op f.lenOk f.scope f.check →
    (s.taken h).on CMD_STATUS.runtime_up = true → (s.taken h).installing f.op c = false → h.prompt = false →
    (∃ t, exec c s = .next t ∧ t.mem = s.mem ∧
      (∃ due : Nat, t.cmd.runtime = s.cmd.runtime ++ [⟨s.hall, due, f.op, h, c⟩]) ∧ s.Replied t h f.op 1 []) ∧
    (∀ (u : State) (r : RtCmd), u.up = true → u.on CMD_STATUS.runtime_up = true → u.held? h.channel h.tag = some r → r.cmd = c → r.hdr = h →
      r.op = f.op → u.comesThrough r = true →
      let v := u.dropHeld h.channel h.tag
      (h.deadlineEn = true → h.deadline < u.hall → exec (.runtimeReply h.channel h.tag) u = .next (v.reply h f.op 0x0502)) ∧
      (h.deadlineEn = false ∨ u.hall ≤ h.deadline → exec (.runtimeReply h.channel h.tag) u = .next (
        if f.check v = 0 then (f.act v).keepDue r h else (f.onRefusal (f.check v) v).reply h f.op (f.check v)))) ∧
    (∀ (u : State) (r : RtCmd), u.held? h.channel h.tag = some r → r.hdr.deadlineEn = true →
      (u.cmd.runtime.find? fun r => r.hdr.channel == h.channel && r.hdr.tag == h.tag && r.hdr.deadlineEn) = some r →
      exec (.commandDeadlineExpiry h.channel h.tag) u =
        .next (({ u with hall := max u.hall (r.hdr.deadline + 1), cmd := { u.cmd with
          runtime := u.cmd.runtime.filter fun q => q != r } } : State).reply r.hdr r.op 0x0502))

/-! ### Completion: what happens to the module -/

/-- The link and relay events: the channel that refuses packets stalls, drops its queued events below class 2 and owes the credits they would
have returned, and tells how many it lost in a place they leave; it accepts again and its packets leave; the link sleeps; a client of the relay
table takes a free channel, and gives it back, counted where a packet of its connection failed the runtime's check. A packet of an unassigned
opcode, or of another version, completes with its refusal, and one with a bad trailer CRC is discarded and counted. -/
def Obligations.LinkEventsComplete : Prop :=
  ∀ s : State, s.up = true →
    (∀ ch : Nat, (s.chan ch).queue ≠ [] → s.rdBit CMD_STATUS.stalled ch = false →
      exec (.returnTimeout ch) s = .next (
        let c := s.chan ch
        let gone := c.queue.filter fun p => p.event && decide (p.cls < 2)
        let back := (gone.map (·.credits)).sum
        let t := ((({ s with hall := s.hall + s.rd CMD_CFG.return_timeout * 1000000 }).wrBit CMD_STATUS.stalled ch true).inc
          (CMD_CHAN_EVENTS.events_lost ch) gone.length).inc (CMD_CHAN_STATUS.outstanding ch) back
        (t.setChan ch ({ c with
          queue := c.queue.filter (fun p => !(p.event && decide (p.cls < 2)))
          lost := c.lost + gone.length
          owed := c.owed + back } : Chan).refill).tellLost ch)) ∧
    (∀ ch : Nat, s.rdBit CMD_STATUS.stalled ch = true → (s.chan ch).lost = 0 →
      exec (.linkAcceptsAgain ch) s = .next (
        let t := s.wrBit CMD_STATUS.stalled ch false
        ({ t with cmd := { t.cmd with sent := t.cmd.sent ++ (s.chan ch).queue.map (Packet.bytes · ch) } }).setChan ch
          ({ s.chan ch with queue := [] } : Chan).refill)) ∧
    exec .linkLowPowerEntry s = .next { s with pins := { s.pins with uciIdle := true } } ∧
    (∀ (m : Nat) (key : Bytes) (ch : Nat), s.on CMD_STATUS.runtime_up = true → s.on (CMD_MGMT_STATUS.link_up m) = true →
      (s.relayTable.find? fun e => e.1 == key) = some (key, ch) →
      (1 ≤ ch → ch ≤ 7 → s.channelHeld ch = false →
        exec (.relayConnection m key) s = .next (s.wrBit (CMD_MGMT_STATUS.held m) ch true)) ∧
      (ch = 0 ∨ 7 < ch ∨ s.channelHeld ch = true →
        exec (.relayConnection m key) s = .next (s.inc (CMD_MGMT_COUNTS.refused m) 1))) ∧
    (∀ m ch : Nat, s.rdBit (CMD_MGMT_STATUS.held m) ch = true →
      exec (.relayConnectionEnd m ch none) s = .next (s.wrBit (CMD_MGMT_STATUS.held m) ch false) ∧
      (∀ p : Bytes,
        (p.length ≠ 36 + leAt p 10 2 ∨ bits (leAt p 8 2) 12 3 ≠ ch → exec (.relayConnectionEnd m ch (some p)) s =
          .next ((s.wrBit (CMD_MGMT_STATUS.held m) ch false).inc (CMD_MGMT_COUNTS.refused m) 1)) ∧
        (p.length = 36 + leAt p 10 2 → bits (leAt p 8 2) 12 3 = ch → exec (.relayConnectionEnd m ch (some p)) s = .next s))) ∧
    (∀ p : Bytes, let h := packetHdr p
      s.linkUp = true → s.unrelayed h = false → s.linkHolds = false → (s.arrive h).overrun h = false →
      (packetCrcOk p = true → leAt p 0 1 ≠ 1 ∨ opcodeAssigned (leAt p 2 2) = false →
        ∃ t, exec (.opcodeUnassigned p none) s = .next t ∧ t.mem = s.mem ∧
          s.Replied t h (leAt p 2 2) (if leAt p 0 1 ≠ 1 then 0x0101 else 0x0103) []) ∧
      (packetCrcOk p = false → ∃ t, exec (.opcodeUnassigned p none) s = .next t ∧ t.mem = s.mem ∧
        t.packets h.channel = s.packets h.channel))

/-- A fabric port's link: measured it trains, trained it is UP, probes its addresses (the model's choice, log 58), sends what its streams kept and
carries frames, whose counters then run; a loss of alignment takes an UP port back to training with fault 0x3102 and drops what waited there for
an address; behind a crossing that holds them both wait, counted where it has stopped (the model's choice, log 55); a cable end above 16 W is held
in low-power mode with fault 0x3603, and copper above 2.2 m is reported with fault 0x3101; of a measurement that fails the port shows no
length. -/
def Obligations.PortLinkStates : Prop :=
  ∀ (s : State) (p : Nat), s.up = true →
    (∀ (n w : Nat) (optical : Bool), s.rd (PRT_STATUS.link_state p) = 1 → w ≤ 16 →
      let t := ((((s.wr (PRT_STATUS.link_state p) 2).wr (PRT_STATUS.medium p) (if optical then 2 else 1)).wr (PRT_CABLE.measured p) 1).wr
        (PRT_CABLE.length_dm p) n)
      (optical = true ∨ n ≤ 22 → exec (.cableMeasurement p (some n) optical w) s = .next t) ∧
      (optical = false → 22 < n → exec (.cableMeasurement p (some n) optical w) s =
        .next ((t.wr (PRT_STATUS.long_cable p) 1).fault 0x3101 1 5 p none none []))) ∧
    (∀ (len : Option Nat) (w : Nat) (optical : Bool), s.rd (PRT_STATUS.link_state p) = 1 → 16 < w →
      exec (.cableMeasurement p len optical w) s = .next (
        let t := ((s.wr (PRT_STATUS.link_state p) 2).wr (PRT_STATUS.medium p) (if optical then 2 else 1)).wr (PRT_CABLE.measured p) 0
        ({ t with fab := { s.fab with lowPower := s.fab.lowPower ++ [p] } }).fault 0x3603 1 5 p none none [])) ∧
    (∀ (w : Nat) (optical : Bool), s.rd (PRT_STATUS.link_state p) = 1 → w ≤ 16 → exec (.cableMeasurement p none optical w) s = .next (
      ((s.wr (PRT_STATUS.link_state p) 2).wr (PRT_STATUS.medium p) (if optical then 2 else 1)).wr (PRT_CABLE.measured p) 0)) ∧
    (s.rd (PRT_STATUS.link_state p) = 2 → s.fab.lowPower.contains p = false → exec (.linkTrained p) s = .next (
      if s.passes 2 (p / 4) then (((s.wr (PRT_STATUS.link_state p) 3).showFabric.ndProbeAll p).portReturns p).linkCounts p
      else s.keep 2 (p / 4) (.linkTrained p))) ∧
    (s.fab.lowPower.contains p = true → s.passes 2 (p / 4) = true → exec (.linkTrained p) s = .next s) ∧
    (s.rd (PRT_STATUS.link_state p) = 3 → exec (.alignmentLoss p) s = .next (
      if s.passes 2 (p / 4) then
        ((((s.wr (PRT_STATUS.link_state p) 2).wr (PRT_STATUS.link_lost p) 1).dropWaiting p).showFabric).fault 0x3102 1 5 p none none []
      else s.keep 2 (p / 4) (.alignmentLoss p)))

/-- LLDP on an UP fabric port: the LLDPDU sent names the port and carries a TTL of four periods, with the capability fields that the spec leaves
open free (the model's choice, log 58); a partner's is kept until its TTL ends. Neighbour discovery on a fabric, time or management port that
carries IPv6, numbered 0 to 63, 64 and 65, and from 66 on (the model's choice, log 46): a solicitation of an address of the port's own is
answered, one of an address still being probed is not; a router is kept, and what waited for one leaves; 100 echo requests a second are answered,
by a time port and by an address not yet its own none; a Packet Too Big changes nothing; and an advertisement of an address under probe, for 1 s
(the model's choice, log 58), shows a duplicate. -/
def Obligations.PortNeighbours : Prop :=
  (∀ (s : State) (p : Nat), s.up = true → s.portUp p = true →
    (s.on (PRT_CFG.lldp_en p) = true → ∃ v : CapTlv, v.ptpOffered = false ∧
      exec (.lldpTransmit p) s = .next ((s.free 9).2.sendFab p (.lldp (s.rd (PRT_MAC.mac p)) (portText p) (4 * s.rd (PRT_CFG.lldp_tx_s p))
        Config.serialNumber.toNat (s.portAddr p) v))) ∧
    (∀ (chassis : Nat) (portId : Bytes) (ttl : Nat) (v : CapTlv), s.on (PRT_CFG.lldp_en p) = true →
      s.passes 2 (p / 4) = true → exec (.lldpduReceived p chassis portId ttl (some v)) s = .next (
        let u := { s with fab := { s.fab with partners := (p, portId, ttl, s.hall) :: s.fab.partners.filter fun e => e.1 != p } }
        let t := ((u.wr (PRT_PARTNER.partner_mac p) chassis).wr (PRT_PARTNER.ttl_left p) ttl).wr (PRT_STATUS.lldp_valid p) (bit (ttl != 0))
        (((t.wr (PRT_STATUS.partner_ptp p) (bit v.ptpOffered)).wr (PRT_STATUS.partner_ecn p) (bit v.ecnMarking)).wr
          (PRT_STATUS.partner_domain p) v.ptpDomain).showFabric)) ∧
    (s.on (PRT_STATUS.lldp_valid p) = true →
      exec (.lldpTtlExpiry p) s = .next
        (((({ s with hall := max s.hall (s.lapseTime p) }).wr (PRT_STATUS.lldp_valid p) 0).wr (PRT_PARTNER.ttl_left p) 0).showFabric))) ∧
  (∀ (s : State) (n : Nat), s.up = true → s.ndUp n = true → (n < 64 → s.passes 2 (n / 4) = true) →
    (∀ (a : Nat) (probe : Bool), a = linkLocal (s.ndMac n) ∨ (a = s.ndGlobal n ∧ a ≠ 0) → s.ndTentative n a = false →
      exec (.neighbourDiscovery n (.solicitation a probe)) s = .next (
        if 64 ≤ n ∧ n < 66 then s.sendTime (n - 64) (.advertisement a) else s.queueFab n (.advertisement a))) ∧
    (∀ a : Nat, s.ndTentative n a = true → exec (.neighbourDiscovery n (.solicitation a false)) s = .next s) ∧
    (∀ r : Nat, exec (.neighbourDiscovery n (.routerAdvertisement r)) s =
      .next (({ s with fab := { s.fab with routers := (n, r) :: s.fab.routers.filter fun e => e.1 != n } } : State).flushFab n)) ∧
    (∀ (id : Nat) (data : Bytes) (k : Nat), s.fab.echoes.find? (fun e => e.1 == n) = some (n, s.hall / 1000000000, k) →
      (k < 100 → n < 64 ∨ 66 ≤ n → s.hears n = true → exec (.neighbourDiscovery n (.echoRequest id data)) s =
        .next (({ s with fab := { s.fab with echoes := (n, s.hall / 1000000000, k + 1) :: s.fab.echoes.filter fun e => e.1 != n } }).queueFab n
          (.echoReply id data))) ∧
      (100 ≤ k ∨ (64 ≤ n ∧ n < 66) ∨ s.hears n = false → exec (.neighbourDiscovery n (.echoRequest id data)) s = .next s)) ∧
    exec (.neighbourDiscovery n .packetTooBig) s = .next s ∧
    (∀ (a : Nat) (e : Probe), e ∈ s.fab.probes → e.port = n → e.addr = a → s.hall < e.since + 1000000000 →
      ∃ t, exec (.neighbourDiscovery n (.advertisement a)) s = .next t ∧ { e with taken := true } ∈ t.fab.probes))

/-- A Mladub packet for a receive stream of the port is taken by it; a port whose address is not yet its own takes none (the model's choice, log
58); one with an extension header, one whose UDP part is wrong and one of an
unknown type are counted and discarded. Every packet with a congestion mark is counted. -/
def Obligations.DataPackets : Prop :=
  ∀ (s : State) (p : Nat) (k : MladubPkt), s.up = true → s.rd (PRT_STATUS.link_state p) = 3 → s.passes 2 (p / 4) = true →
    (s.hears p = false → exec (.dataReceived p k) s = .next s) ∧
    (s.hears p = true → k.extHeader = true → exec (.dataReceived p k) s = .next (s.inc (PRT_DISCARDS.ext_discards p) 1)) ∧
    (s.hears p = true → k.extHeader = false →
      let u := if k.ce then s.inc (PRT_ECN.ce_rx p) 1 else s
      (k.udpOk = false → exec (.dataReceived p k) s = .next (u.inc (PRT_DISCARDS.udp_discards p) 1)) ∧
      (k.udpOk = true → knownType k.ptype = false → exec (.dataReceived p k) s = .next (u.inc (PRT_DISCARDS.bad_type p) 1)) ∧
      (∀ x : Stream, k.udpOk = true → k.ptype = 0x01 ∨ k.ptype = 0x30 → s.stream k.dstStream = some x → x.direction = 1 → x.port = p →
        x.peerHandle = k.srcStream → x.prot = true ∨ k.isProtected = false → exec (.dataReceived p k) s = .next (u.takePacket x k)))

/-- What a stream does with a packet in hand: a wrong tag is counted and discarded, a repeat is counted and acknowledged, one in order passes
its bytes on, unless they are of a contribution of another attempt than the one the context runs, and one that finds the reorder buffer full is
dropped and counted. -/
def Obligations.StreamTakesPackets : Prop :=
  ∀ (s : State) (x : Stream) (k : MladubPkt),
    (badAuth x k = true → x.rejects < 15 →
      s.takePacket x k = (s.inc (PRT_MLADUB.auth_fail x.port) 1).setStream { x with rejects := x.rejects + 1 }) ∧
    (badAuth x k = true → 15 ≤ x.rejects → s.takePacket x k =
      ((s.inc (PRT_MLADUB.auth_fail x.port) 1).setStream { x with rejects := x.rejects + 1 }).fault 0x3104 2 5 x.port (some x.ctx)
        (some (((s.inc (PRT_MLADUB.auth_fail x.port) 1).setStream { x with rejects := x.rejects + 1 }).cpart x.ctx)) []) ∧
    (x.prot = false → k.ce = false →
      (psnBefore k.psn x.expected = true → s.takePacket x k = (s.inc (PRT_MLADUB.dup_rx x.port) 1).sendAck x) ∧
      (psnBefore k.psn x.expected = false → (x.held.any fun q => q.psn == k.psn) = false →
        (16 * 2 ^ 20 < s.bufferUsed x.port + k.payload.length →
          s.takePacket x k = (s.inc (PRT_MLADUB.rx_no_buffer x.port) 1).setStream x) ∧
        (s.bufferUsed x.port + k.payload.length ≤ 16 * 2 ^ 20 → x.held = [] → k.psn = x.expected → x.kind = 0 → x.sinceAck = 0 →
          s.takePacket x k = s.setStream { x with
            held := [], expected := (x.expected + 1) % 2 ^ 32, ready := if s.freshFor x k.of_ then x.ready ++ k.payload else x.ready,
            arrived := s.hall, sinceAck := 1, oldest := s.hall, progress := s.hall })))

/-- The stream events: an acknowledgement returns the credits of what it covers, measures the round trip, lowers the rate where it reports
marks, sends again what three later packets overtook, and sends what waited for a credit; a delayed one is sent; an unanswered packet is sent
again at half the rate and, after eight times, breaks the stream; a stream without progress breaks; a period with marks is over, and one without
raises the rate. An acknowledgement, and a packet not acknowledged, of a job-start hop likewise. -/
def Obligations.StreamEventsComplete : Prop :=
  ∀ s : State, s.up = true →
    (∀ (h : Nat) (x : Stream), s.stream h = some x →
      (∀ a : AckBody, a.peer = none → a.stream = h → x.direction = 0 → s.rd (PRT_STATUS.link_state x.port) = 3 →
        s.passes 2 (x.port / 4) = true → s.hears x.port = true → exec (.ackReceived a) s = .next (
          let got (p : TxPkt) : Bool := psnBefore p.psn a.ackPsn || a.ranges.any fun r => !psnBefore p.psn r.1 && !psnBefore r.2 p.psn
          let done := x.unacked.filter got
          let left := x.unacked.filter fun p => !got p
          let t := s.giveCredits x.ctx (done.map (·.credits)).sum
          let y : Stream := { x with
            unacked := left
            progress := if done.isEmpty then x.progress else s.hall
            srtt := Config.smoothRtt x.srtt a.rttNs
            rttvar := Config.rttVariation x.srtt x.rttvar a.rttNs }
          let later (p : TxPkt) : Nat := a.ranges.foldl (fun n r =>
            n + (if psnBefore p.psn r.1 then (r.2 + 2 ^ 32 - r.1) % 2 ^ 32 + 1 else 0)) 0
          let v := t.setStream (if a.ceCount ≠ 0 then t.congested y else y)
          ((left.filter fun p => !p.fast && !p.unpaid && decide (3 ≤ later p)).foldl (fun u p =>
            match u.stream h with | some z => u.resend z p.psn true | none => u) v).payWaiting (v.cpart x.ctx))) ∧
      (x.direction = 1 → x.sinceAck ≠ 0 → s.portUp x.port = true → exec (.ackDelayExpiry h) s =
        .next (({ s with hall := max s.hall (x.oldest + s.rd PRT_GLOBAL.ack_delay_us * 1000) }).sendAck x)) ∧
      (∀ (psn : Nat) (p : TxPkt), (x.unacked.find? fun q => q.psn == psn) = some p → p.unpaid = false → s.portUp x.port = true →
        let t := { s with hall := max s.hall (p.sentAt + s.rto x p) }
        let y := { x with rate := s.clampRate (x.rate / 2) }
        (8 ≤ p.resends → exec (.retransmissionTimeout h psn none) s = .next ((t.setStream y).breakStream y)) ∧
        (p.resends < 8 → exec (.retransmissionTimeout h psn none) s = .next (
          let q := { p with resends := p.resends + 1, sentAt := t.hall, fast := false }
          let r := (t.setStream y).sendData y q true
          let z := { r.2 with unacked := r.2.unacked.map fun u => if u.psn == psn then q else u }
          let u := (r.1.inc (PRT_MLADUB.retransmits x.port) 1).setStream z
          if z.spent then u.breakStream z else u))) ∧
      (s.streamWaits x = true → exec (.streamTimeout h) s =
        .next (({ s with hall := max s.hall (x.progress + s.rd PRT_GLOBAL.stream_timeout_ms * 1000000) }).breakStream x |>.payWaiting (s.cpart x.ctx))) ∧
      (s.streamWaits x = false → exec (.streamTimeout h) s = .next s) ∧
      (x.ece = true → exec (.congestionPeriod h) s = .next (s.setStream { x with ece := false })) ∧
      (x.ece = false → exec (.congestionPeriod h) s = .next (s.setStream { x with
        alpha := (15 / 16) * x.alpha, periods := x.periods + 1,
        rate := s.clampRate (if x.periods < 5 then (x.rate + x.preCut) / 2 else x.rate + s.rd PRT_CC.rai) }))) ∧
    (∀ (a : AckBody) (peer : Nat), a.peer = some peer → s.rd (PRT_STATUS.link_state (s.ctrlPort peer)) = 3 →
      s.passes 2 (s.ctrlPort peer / 4) = true → s.hears (s.ctrlPort peer) = true → exec (.ackReceived a) s = .next (
        let x := s.hop peer
        let left := x.unacked.filter fun k => !ackHas a k.psn
        (left.filter fun k => !k.fast && decide (3 ≤ ackLater a k.psn)).foldl (fun u k => u.repeatHop peer k true)
          (s.setHop { x with
            unacked := left
            srtt := Config.smoothRtt x.srtt a.rttNs
            rttvar := Config.rttVariation x.srtt x.rttvar a.rttNs }))) ∧
    (∀ (h peer psn : Nat) (k : HopPkt), ((s.hop peer).unacked.find? fun e => e.psn == psn) = some k → s.portUp (s.ctrlPort peer) = true →
      let t := { s with hall := max s.hall (k.sentAt + s.rtoOf (s.hop peer).srtt (s.hop peer).rttvar k.resends) }
      (k.resends < 8 → exec (.retransmissionTimeout h psn (some peer)) s = .next (
        let q := { k with resends := k.resends + 1, sentAt := t.hall, fast := false }
        ((t.setHop { s.hop peer with unacked := (s.hop peer).unacked.map fun e => if e.psn = psn then q else e }).sendFab
          (s.ctrlPort peer) (.deliver peer psn k.part)).inc (PRT_MLADUB.retransmits (s.ctrlPort peer)) 1)) ∧
      (8 ≤ k.resends → exec (.retransmissionTimeout h psn (some peer)) s =
        .next (t.setHop { s.hop peer with unacked := (s.hop peer).unacked.filter fun e => e.psn != psn })))

/-- The time unit: a sync of a time port in FREE_RUN is what its source has shown, with its offset corrected by the path delay and the
asymmetry, 0 without a record and a write, and starts ACQUIRE on it; the loss of the source in use leaves its state; HOLDOVER ends in FREE_RUN; a
bad second boundary is a lost lock; a time port's cable is measured. The sign of the asymmetry, that a bad second boundary is no more than a lost
lock, and that a source's first sync is not a missed one are the model's choice (log 46). -/
def Obligations.TimeEventsComplete : Prop :=
  ∀ s : State, s.up = true →
    (∀ (m : PtpMsg) (q : Nat), m.src = .timePort q → s.takesPtp m = true → s.passes 7 q = true → s.rd TIM_STATUS.state = 3 →
      s.time.sources.find? (fun x => x.src == m.src) = none →
      let asym : Int := if !s.cal.asymWritten && (s.calData 6).isNone then 0
        else sgn 16 (s.rd (if q = 0 then TIM_ASYM.port_a_asym_ns else TIM_ASYM.port_b_asym_ns))
      let off := m.rawNs - m.pathDelayNs - asym
      (s.takeSync m).time.sources =
        ⟨m.src, [off], 1, if off.natAbs ≤ 25 then 1 else 0, m.rank, s.hall, intervalNs m.interval⟩ ::
          s.time.sources.filter (fun x => x.src != m.src) ∧
      exec (.ptpMessageReceived m) s = .next (((s.takeSync m).enterTime 0 (some m.src)).discipline off)) ∧
    (∀ u : TimeSource, s.inUse = some u → exec .syncLoss s = .next (
        let t := ({ s with time := { s.time with sources := s.time.sources.filter fun x => x.src != u.src } } : State).settleFabric
        (t.leaveSource (if s.rd TIM_STATUS.state = 1 then t.readySources.filter fun x => decide (s.order u ≤ s.order x)
          else t.readySources)).showSources)) ∧
    (s.rd TIM_STATUS.state = 2 → exec .holdoverExpiry s = .next ((({ s with
      hall := max s.hall (s.time.lockedLeft.getD s.hall + s.rd TIM_CTRL.holdover_limit * 1000000000) }).wr
        TIM_STATUS.holdover_expired 1).enterTime 3 none)) ∧
    (∀ e : Nat, s.on TIM_CTRL.assist_en = true →
      (100 < e → exec (.ppsEdge e) s = .next (s.wr TIM_STATUS.lock_lost 1)) ∧ (e ≤ 100 → exec (.ppsEdge e) s = .next s)) ∧
    (∀ n : Nat, (∃ t, exec (.timePortLinkUp 0 n) s = .next t ∧ t.time.linkA = true ∧ t.time.linkB = s.time.linkB ∧
        t.rd TIM_CABLE.port_a_len = (s.wr TIM_CABLE.port_a_len n).rd TIM_CABLE.port_a_len) ∧
      (∃ t, exec (.timePortLinkUp 1 n) s = .next t ∧ t.time.linkB = true ∧ t.time.linkA = s.time.linkA ∧
        t.rd TIM_CABLE.port_b_len = (s.wr TIM_CABLE.port_b_len n).rd TIM_CABLE.port_b_len))

/-- The clock crossings: a time-out stops the crossing, fails what waits in it, but for counted events, which stay, and takes its action of
Table 11-2; never one into a gated tile, and a privileged one whose receiving clock is stopped raises its wake; a privileged one is woken
once; a wake that fails stops it; a restart lets it run, and tick starts and reports counted meanwhile are delivered; a stopped crossing
takes no transfer and goes on counting events; a second time-out of one already stopped does nothing. A firmware command that waits on the crossing
completes with a status of which the spec names no number (the model's choice: free, log 55). -/
def Obligations.CrossingEventsComplete : Prop :=
  ∀ (s : State) (c u : Nat), s.powered = true → c ≤ 11 →
    let x := s.crossing c u
    (x.stopped = true → exec (.crossingTimeout c u) s = .next s) ∧
    (x.stopped = false → privileged c = false ∨ (x.wake = none ∧ s.clockStopped c = false) → s.intoGated c u = false →
      exec (.crossingTimeout c u) s =
        .next ((((s.stopCrossing x).wrBit CDC_STOPPED.timed_out c true).crossingLast c).crossingAction c u)) ∧
    (c ≠ 3 → c ≠ 4 →
      let t := s.setCrossing { x with wake := none, stopped := true, held := x.held.filter isEvent }
      ((s.cmd.runtime.any fun r => fwCrossing r.op == some c) = false → s.stopCrossing x = t) ∧
      (∀ r : RtCmd, s.cmd.runtime = [r] → fwCrossing r.op = some c →
        s.stopCrossing x = ({ t with cmd := { t.cmd with runtime := [] } }).reply r.hdr r.op (0x0700 + Config.crossingError.toNat))) ∧
    (u < 4116 → s.gated (u / 84) (u % 84 / 14) = true → exec (.crossingTimeout 0 u) s = .next s) ∧
    (s.gated (tileField u) (tileRow u) = true → exec (.crossingTimeout 5 u) s = .next s) ∧
    (privileged c = true → x.stopped = false → x.wake = none → s.intoGated c u = false → s.clockStopped c = true →
      exec (.crossingTimeout c u) s = .next (s.raiseWake c u)) ∧
    (privileged c = true → s.clockStopped c = true → x.stopped = false →
      (x.wake = none → exec (.crossingWake c u) s =
        .next ((s.setCrossing { x with wake := some s.hall }).inc CDC_WAKES.wakes 1)) ∧
      (x.wake.isSome = true → exec (.crossingWake c u) s = .next s)) ∧
    (∀ since : Nat, x.wake = some since → exec (.wakeTimeout c u) s = .next (
      let t := ({ s with hall := max s.hall (since + s.rd CDC_CFG.wake_timeout * 1000) }).stopCrossing x
      let t := (t.wrBit CDC_STOPPED.wake_failed c true).crossingLast c
      if c = 11 then t.fault 0x2B02 1 0 0 none none [] else t.crossingFault5 0x2B02)) ∧
    (privileged c = true → s.clockStopped c = false → exec (.crossingWake c u) s = .next s) ∧
    (c ≠ 3 → c ≠ 4 → c ≠ 5 → c ≠ 8 → c ≠ 11 → exec (.crossingRestart c u) s = .next (s.setCrossing { x with stopped := false, wake := none })) ∧
    (c = 3 ∨ c = 4 → exec (.crossingRestart c u) s =
      .next (({ s with pins := { s.pins with uciIdle := false } }).setCrossing { x with stopped := false, wake := none })) ∧
    (c = 11 → exec (.crossingRestart c u) s = .next (({ s with cdc := { s.cdc with debugRuns := s.rd SEC_STATUS.debug_level != 0 } } :
      State).setCrossing { x with stopped := false, wake := none })) ∧
    (c = 5 → exec (.crossingRestart c u) s =
      .next ((s.setCrossing { x with stopped := false, wake := none, ahead := 0 }).lateTick u x.ahead)) ∧
    (c = 8 → exec (.crossingRestart c u) s = .next (s.setCrossing { x with stopped := false, wake := none, ahead := 0 }).lateReports) ∧
    (x.stopped = true → ∀ i : Instr, (isEvent i = false → s.keep c u i = s) ∧
      (isEvent i = true → (s.keep c u i).crossing c u = { x with ahead := (x.ahead + 1) % 2 ^ 32, held := x.held ++ [i] }))

/-- The partition events: the boundary at which a slice's count ends is a tick's; an eviction completes, and starts its context unless it is
blocked, but waits while a tile of the partition is gated, and a relocation while one of its new tiles is (the model's choice, log 62); a partition
that slips past its limit is reported with a code of which the spec names no number (free, log 15), and a context past its latency target with a
breach, whose resource fields the spec leaves open (log 16); the fabric words of a switched-out context are cancelled at drain_us, to issue again,
and its saved registers show none outstanding. -/
def Obligations.PartitionEventsComplete : Prop :=
  ∀ (s : State) (p c : Nat), s.up = true →
    (s.rd (PAR_PART_CFG.state p) = 2 → s.rd (PAR_PART_STATUS.ticks_left p) ≤ 1 → (s.part p).preempt = none → s.noSlices p = false →
      exec (.sliceExpiry p) s = exec .tickBoundary s) ∧
    ((s.part p).incoming = some c → s.movesWait p = true →
      ((s.partCtxs p).filter fun d => d != c && s.inTiles d && s.on (PAR_CTX_CFG.exclusive d) != s.on (PAR_CTX_CFG.exclusive c)).any s.draining =
        false → exec (.evictionComplete p) s = .next (s.waitFor (s.partTiles p))) ∧
    ((s.part p).incoming = some c → s.movesWait p = false → s.on (PAR_CTX_CFG.exclusive c) = true → s.cst c = stEvicted →
      ((s.partCtxs p).filter fun d => d != c && s.inTiles d && !s.on (PAR_CTX_CFG.exclusive d)) = [] →
      exec (.evictionComplete p) s = .next (
        let u := ((s.readBack c).wr (PAR_PART_STATUS.evicting p) 0).modPart p fun q => { q with incoming := none }
        if u.eligible c then u.startRun p c else u)) ∧
    (∀ x0 y0 : Nat, (s.part p).target = some (x0, y0) → s.rd (PAR_PART_CFG.state p) = 3 → (s.part p).copied = false →
      let into := (s.partTiles p).map (s.relocated p x0 y0)
      ((∃ t ∈ into, s.gated (tileField t) (tileRow t) = true) → exec (.relocationComplete p) s = .next (s.waitFor into)) ∧
      ((∀ t ∈ into, s.gated (tileField t) (tileRow t) = false) → s.partCtxs p = [] →
        exec (.relocationComplete p) s = .next (((((s.copyShares p x0 y0).wr (PAR_PART_CFG.x0 p) x0).wr (PAR_PART_CFG.y0 p) y0).modPart p
          fun q => { q with target := none, copied := true }).notice p 0 2 p 0))) ∧
    (s.running p = some c → (s.ctx c).step.isSome = true → s.rd TIM_BOUNDARY.skip_limit < (s.part p).slips →
      exec (.tickSlipLimit p) s = .next ((s.free 16).2.fault (s.free 16).1 2 0 0 (some c) (some p) [])) ∧
    (s.cst c ≠ 0 → s.rd (PAR_CTX_CFG.latency_target c) ≠ 0 → s.rd (PAR_CTX_CFG.latency_target c) < (s.ctx c).slip →
      (s.ctx c).breached = false → ∃ resource : Nat, exec (.latencyBreach c) s = .next (((s.free 8).2.modCtx c fun k =>
        { k with breached := true }).breach c 5 (1 + (s.free 8).1 % 5) resource (s.ctx c).slip)) ∧
    (let p := s.cpart c
      let words := (s.partTiles p).flatMap fun t => (s.engOf c t).flight.filter AccessFlight.outside
      (s.cst c = stTeardown → exec (.fabricDrainTimeout c) s = .next s) ∧
      (words ≠ [] → s.cst c ≠ stRunning → s.cst c ≠ stTeardown → exec (.fabricDrainTimeout c) s = .next (
        let held := words.foldl (fun n f => n + awCredits (AccessFlight.word f)) 0
        let t : State := (({ s with hall := s.hall + s.rd PAR_CFG.drain_us * 1000 }).returnCredits c held).wr
          (PAR_CTX_STATUS.drain_cancelled c) 1
        (((t.partTiles p).foldl (fun (u : State) i => u.modEng c i fun e =>
          let stay := e.flight.filter fun f => !f.outside
          { e with
            flight := stay
            reissue := e.reissue ++ (e.flight.filter AccessFlight.outside).map (·.word)
            saved := e.saved.map fun q => if q.1 = 0x1820 then (q.1, BitVec.ofNat 64 (setBits q.2.toNat 24 16 stay.length)) else q })
          t).showDraining c).fault 0x2F02 0 0 0 (some c) (some p) [])))

/-- A boundary's actions run in the order of Table 2-4, with the partitions whose running context's serving step is unfinished held, and their
slips counted; before POWER_GOOD a boundary only advances the tick, to the number and the start of the next; a physical tile's BIST ends with its
result in its register, and sets no bad bit. -/
def Obligations.BoundaryCompletes : Prop :=
  ∀ s : State,
    (s.up = true → exec .tickBoundary s = .next (
      let t : State := s.enterTick.expireDue
      let held := (List.range 32).filter t.holds
      let late := held.filterMap fun p => (t.running p).map fun c => (p, c)
      (((t.actions held).action9 held).countSlips late).action10.endBoundary)) ∧
    (4 ≤ s.rd CAL_BRINGUP.stage → s.up = false → ∃ t, exec .tickBoundary s = .next t ∧ t = s.enterTick ∧
      t.hall = max s.hall (s.tickStart s.time.nextTick) ∧ t.time.nextTick = s.time.nextTick + 1 ∧ t.mem = s.mem ∧
      ∀ a, a ≠ TIM_TICK_NOW → t.reg a = s.reg a) ∧
    (∀ pt units : Nat, s.up = true → s.on (CAL_BIST_CTRL.running pt) = true → exec (.bistComplete pt units) s =
      .next (((s.wr (CAL_BIST_CTRL.running pt) 0).wr (CAL_BIST_CTRL.pass pt) (bit (units % 256 == 0))).wr (CAL_BIST_CTRL.fail_unit pt) units))

/-- The compute stream of a tile: a wait on a semaphore below its amount holds the word for a cycle, a rendezvous word that is not released
waits to arrive, and any other word is held by a busy unit for a cycle, or issues. The word may find that a running product has issued its
last beat (`State.lastBeat`). -/
def Obligations.ComputeWordIssues : Prop :=
  ∀ (s : State) (t c line : Nat), s.up = true → s.ctxOn t = some c → s.issuing c t = true → (s.engOf c t).ended = false →
    s.rd (INS_STATUS.stream t) ≠ 4 → s.rd (INS_STATUS.stream t) ≠ 5 →
    let w := s.computeWord c t (s.rd (INS_STATUS.pc t))
    let u := s.lastBeat t w
    let issue := exec (.computeWordIssue t .clean ⟨.clean, line⟩) s
    (bits w 461 3 = 3 → s.rd (insSem t (bits w 428 5)) < bits w 424 4 → issue =
      .next ((s.modEng c t fun e => { e with semWait := some (e.semWait.getD s.tick) }).heldCycle c t 3 (INS_SEM_WAIT.sem_wait_cycles t))) ∧
    (bits w 461 3 = 1 ∨ bits w 461 3 = 2 → (s.engOf c t).released = false → issue =
      .next ((s.wr (INS_STATUS.stream t) (if bits w 461 3 = 1 then 5 else 4)).wr (INS_STATUS.rdv_id t) (bits w 433 8))) ∧
    ((bits w 461 3 ≠ 1 ∧ bits w 461 3 ≠ 2) ∨ (s.engOf c t).released = true →
      bits w 461 3 ≠ 3 ∨ bits w 424 4 ≤ s.rd (insSem t (bits w 428 5)) →
      ((u.engOf c t).busyFor w = true → issue = .next (u.heldCycle c t 2 (INS_BUSY_HOLD.busy_hold_cycles t))) ∧
      ((u.engOf c t).busyFor w = false → u.cst c = stRunning → issue = .next (u.issueWord c t w)))

/-- The rendezvous of a tile: it arrives with its slip, and a slip above the word's slack is reported; one of a single participant is
released 240 cycles after it arrived, with the slack taken from the slip, and the word issues or is held by a busy unit, or a code error in the
lines it sends (a read whose code check is open, the model's choice, log 66) tears its context down; it times out; a wait on a semaphore that is
not satisfied times out; the step of a tile whose units are idle ends. The detail of the report, fault 0x2901, is laid out by the model (log
51). -/
def Obligations.StreamSynchronisationCompletes : Prop :=
  ∀ (s : State) (t c : Nat), s.up = true → s.ctxOn t = some c →
    (s.issuing c t = true → s.rd (INS_STATUS.stream t) = 5 → (s.engOf c t).rdvWait = none →
      let w := s.computeWord c t (s.rd (INS_STATUS.pc t))
      let slip := s.rd (INS_SLIP.slip t)
      let u := ((s.wr (INS_STATUS.stream t) 5).modEng c t fun e => { e with rdvWait := some s.tick }).modCtx c fun k =>
        { k with arrivals := k.arrivals ++ [(bits w 433 8, t, slip, s.rd (INS_SCHED.step_cycle t))] }
      (slip ≤ bits w 441 20 → exec (.rendezvousArrival t) s = .next u) ∧
      (bits w 441 20 < slip → exec (.rendezvousArrival t) s = .next (
        (((u.wr (INS_STATUS.overrun t) 1).wr (INS_SLIP.last_excess t) (slip - bits w 441 20)).count t (INS_OVERRUNS.overruns t) 1).fault 0x2901
          1 1 t (some c) (some (u.cpart c)) (leB 2 (bits w 433 8) ++ leB 4 (slip - bits w 441 20))))) ∧
    (∀ (id : Nat) (g : Program), s.cst c = stRunning → (s.ctx c).program = some g → g.rendezvous.getD id 0 = 1 →
      (s.ctx c).arrivals = [(id, t, s.rd (INS_SLIP.slip t), s.rd (INS_SCHED.step_cycle t))] → s.rd (INS_STATUS.stream t) = 5 →
      s.Canon → t < 3528 →
      let w := s.computeWord c t (s.rd (INS_STATUS.pc t))
      ∃ u : State, u.mem = s.mem ∧ u.rd (INS_SLIP.slip t) = s.rd (INS_SLIP.slip t) - bits w 441 20 ∧
        u.rd (INS_SCHED.step_cycle t) = (s.rd (INS_SCHED.step_cycle t) + 240) % 2 ^ 32 ∧ exec (.rendezvousRelease c id) s = .next (
          let v := u.lastBeat t w
          if (v.engOf c t).busyFor w then
            (v.wr (INS_STATUS.stream t) 2).modEng c t fun e => { e with released := true, rdvWait := none }
          else
            let x := v.checkedRead c t (v.sendSpan c t w)
            if x.cst c ≠ stRunning then x else x.issueWord c t w)) ∧
    (∀ since : Nat, (s.engOf c t).rdvWait = some since → since + s.rd INS_CFG.rdv_timeout < s.tick →
      exec (.rendezvousTimeout t) s = .next ((s.wr (INS_STATUS.timeout t) 1).tileFault t 0x2903 2)) ∧
    (∀ since : Nat, (s.engOf c t).semWait = some since → since + s.rd INS_CFG.sem_timeout < s.tick → s.semShort c t false = true →
      exec (.semaphoreWaitTimeout t false) s = .next ((s.wr (INS_STATUS.timeout t) 1).tileFault t 0x2904 2)) ∧
    (∀ since : Nat, (s.engOf c t).accWait = some since → since + s.rd INS_CFG.sem_timeout < s.tick → s.semShort c t true = true →
      exec (.semaphoreWaitTimeout t true) s = .next ((s.wr (INS_STATUS.timeout t) 1).tileFault t 0x2904 2)) ∧
    (s.issuing c t = true → (s.engOf c t).ended = true → (s.engOf c t).idle = true → s.on (INS_STATUS.ra_ended t) = true →
      exec (.tileStepEnd t) s = .next (s.wr (INS_STATUS.stream t) 6))

/-- The access stream of a tile: an end word within the window issues and ends the stream; the oldest word in flight completes when it is ready;
a stack read puts the stack's bytes in SRAM, and an SRAM write puts the lines in the stack, once their lines are counted; over a stopped crossing
of the tile nothing moves (the model's inference, log 55). -/
def Obligations.AccessWordsComplete : Prop :=
  ∀ (s : State) (t c : Nat), s.up = true → s.ctxOn t = some c →
    ((s.ctx c).step.isSome = true → s.hasWork c t = true → s.gated (tileField t) (tileRow t) = false → s.rd (INS_STATUS.stream t) ≠ 7 →
      s.on (INS_STATUS.ra_ended t) = false → (s.engOf c t).reissue = [] →
      let w := s.accessWord c t (s.rd (INS_STATUS.access_pc t))
      let window : Nat := match (s.ctx c).program with | some g => g.window | none => 0
      awWaits w = false → awOp w = 8 → awAt w ≤ s.rd (INS_SCHED.sched_cycle t) + window → s.accessFault c w = 0 →
      ∃ u : State, exec (.accessWordIssue t .clean) s = .next u ∧ u.mem = s.mem ∧
        (s.Canon → t < 3528 → u.on (INS_STATUS.ra_ended t) = true)) ∧
    (∀ (f : AccessFlight) (rest : List AccessFlight) (ecc : SramEcc), (s.engOf c t).flight = f :: rest → s.accessReady c f = true →
      exec (.accessWordComplete t ecc) s = .next (s.completeHead c t f rest ecc)) ∧
    (∀ (w : Nat) (of_ : Option (Nat × Nat)),
      let u := (s.wordTraffic c t w).wordLines t w
      (s.crossing 0 (s.phys t)).stopped = false →
      (awOp w = 1 → s.accessMove c t ⟨w, false, false, of_⟩ =
        let r := u.rdUnits c (awRemote w) (awLen w)
        r.2.wrSram c t (32 * awSram w) r.1) ∧
      (awOp w = 2 → s.accessMove c t ⟨w, false, false, of_⟩ =
        u.wrUnits c (awRemote w) ((List.range (awLen w)).map fun i => u.rdLine c t (awSram w / 8 + i)))) ∧
    (∀ (w : Nat) (of_ : Option (Nat × Nat)), (s.crossing 0 (s.phys t)).stopped = true → s.accessMove c t ⟨w, false, false, of_⟩ = s)

/-- A product and an element-wise operation of the array. A product starts with its mode and its slip shown once its feeders hold its first
beats, and its feeders read on; it runs to its last beat once its operands have come, and frees the array; its last result, out of the drain,
ends it with its counters. An element-wise operation starts once the drain has written every earlier result, and comes an open part of its
way. -/
def Obligations.ArrayOperationsComplete : Prop :=
  ∀ (s : State) (t c : Nat) (p : Product), s.up = true → s.ctxOn t = some c →
    (∀ line : Nat, (s.engOf c t).product? 1 = some p → p.op.started = false → s.rd (INS_STATUS.stream t) ≠ 7 →
      (p.ready (s.operands c t p) = true → s.productFault c t p = 0 → s.cst c = stRunning →
        exec (.productStart t ⟨.clean, line⟩) s = .next (
          let rate := if p.wide then 2 else if isMx p.a.fmt || isMx p.b.fmt then 3 else 1
          let u := ((((s.wr (ARY_STATUS.rate t) rate).wr (ARY_STATUS.acc_sel t) 0).wr (SPR_STATUS.mode t) p.sp).wr (BWD_STATUS.tmode t)
            p.tmode).wr (BWD_STATUS.freeze_active t) (bit p.freeze)
          let x := u.startSlip c t p
          let v := (x.2.wr (ARY_STATUS.array_slip t) x.1).modEng c t fun e =>
            { e with ary := some { p.op with started := true, slip := x.1 }, freeze := u.freezeNow c t p 0 }
          let o := v.operands c t p
          ((v.refill c t false (p.firstLines o false)).refill c t true (p.firstLines o true)).pump c t)) ∧
      (p.ready (s.operands c t p) = false →
        exec (.productStart t ⟨.clean, line⟩) s = .next (s.inc (ARY_STATUS.array_slip t) 1))) ∧
    (∀ stalls : Stalls, (s.engOf c t).tails = [] → (s.engOf c t).running? = some p →
      (p.ew = true ∨ p.total ≤ (s.operands c t p).both → exec (.productComplete t stalls) s =
        .next ((s.runArray c t p.total).oldestEnds c t stalls)) ∧
      (p.ew = false → (s.operands c t p).both < p.total → exec (.productComplete t stalls) s = .next s)) ∧
    (∀ (stalls : Stalls) (x : Tail) (rest : List Tail), (s.engOf c t).tails ≠ [] →
      let u := s.tileSends c t
      (u.engOf c t).tails = x :: rest →
      ((u.engOf c t).oldestOut = true → exec (.productComplete t stalls) s =
        .next (((u.productEnd c t x stalls).countStalls t stalls).tileSends c t)) ∧
      ((u.engOf c t).oldestOut = false → exec (.productComplete t stalls) s = .next u)) ∧
    (∀ (line : Nat) (stalls : Stalls), (s.engOf c t).product? 2 = some p → p.op.started = false →
      ((s.engOf c t).tails = [] → (s.engOf c t).outDrain = [] → s.sramFaults c p.ewSpan = 0 → s.cst c = stRunning →
        exec (.elementWiseStart t ⟨.clean, line⟩ stalls) s = .next (
          (((s.countStalls t stalls).wr (ARY_STATUS.ew_mode t) 1).modEng c t fun e =>
            { e with ary := some { p.op with started := true } }).arrayMoves c t)) ∧
      ((s.engOf c t).tails ≠ [] ∨ (s.engOf c t).outDrain ≠ [] → exec (.elementWiseStart t ⟨.clean, line⟩ stalls) s =
        .next ((s.count t (ARY_DRAIN_FULL.drain_full_cycles t) 1).inc (ARY_STATUS.array_slip t) 1)))

/-- The row and vector engines, the reduction operations and the pruning unit: a row operation whose ranges lie in the share runs its rows and
frees the engine, and one whose ranges do not raises their fault; a vector copy (vop 0x09), the record of a finite payload, the first input of
an accumulator set that its record covers, a rounding within the share, and a pruning operation run. The model's choices: the place of an MX or B16
vector's scales or exponents (log 20), the bit of vimm that marks a carry block (log 29), the side descriptors of packing and of pruning with the
places of a mask set's blocks (logs 31 and 53). -/
def Obligations.EngineOperationsComplete : Prop :=
  ∀ (s : State) (t c line : Nat) (o : TileOp), s.up = true → s.ctxOn t = some c → s.cst c = stRunning →
    let ecc : SramEcc := ⟨.clean, line⟩
    ((s.engOf c t).row = some o → s.sramFaults c (rowSpan o) = 0 → exec (.rowEngineOperation t ecc) s = .next (
      let u := s.rowsTo c t o (bits o.desc 96 16)
      if u.cst c ≠ stRunning then u else u.rowDone c t)) ∧
    ((s.engOf c t).row = some o → s.sramFaults c (rowSpan o) ≠ 0 → exec (.rowEngineOperation t ecc) s =
      .next (s.tileFault t (s.sramFaults c (rowSpan o)) 2)) ∧
    (∀ slot : Nat, (s.vecOp t slot fun op => op != 0 && decide (op < 0x30)) = some (c, o) →
      let fi := o.vfield slot 276 4
      let n := bits o.desc 165 24
      vop o.word slot = 9 →
      s.sramFaults c [linesOf (32 * bits o.desc 229 20) (vecBytes fi n), linesOf (32 * bits o.desc 209 20) 0,
        linesOf (32 * bits o.desc 189 20) (vecBytes fi n)] = 0 →
      exec (.vectorOperation t slot ecc) s = .next ((s.wrSram c t (32 * bits o.desc 189 20)
        (s.rdSram c t (32 * bits o.desc 229 20) (vecBytes fi n))).modEng c t fun e => e.vecDone slot)) ∧
    (∀ slot : Nat, s.vecOp t slot (· == 0x32) = some (c, o) →
      let fi := o.vfield slot 276 4
      let n := bits o.desc 165 24
      let a := 32 * bits o.desc 229 20
      let d := 32 * bits o.desc 189 20
      s.sramFaults c ([linesOf a (blockBytes fi n), linesOf d 32] ++ s.sideSpan c t o) = 0 →
      let q := s.packed c t o fi a n
      let u := s.modEng c t fun e => e.vecDone slot
      (q.2 = 0 → exec (.checksumResidues t slot ecc) s = .next u) ∧
      (q.2 ≠ 0 → (originRecord fi q.2 q.1).nonfinite = false → exec (.checksumResidues t slot ecc) s =
        .next ((if sideDesc o = 0 then u else u.wrSram c t a q.1).wrSram c t d (originRecord fi q.2 q.1).bytes))) ∧
    (∀ slot : Nat,
      (s.vecOp t slot (· == 0x30) = some (c, o) →
        let fi := o.vfield slot 276 4
        let n := bits o.desc 165 24
        let a := 32 * bits o.desc 229 20
        let size := blockBytes fi n
        let k := o.vfield slot 244 16 % 2
        let b := s.rdSram c t a size
        let rc := SumRecord.of (s.rdSram c t (a + size) 32)
        s.sramFaults c [linesOf a (size + 32)] = 0 → ((s.engOf c t).acc k).inputs = 0 → ((s.engOf c t).acc k).sectors = 0 →
        rc.covers fi n b = true →
        let r := ((s.engOf c t).acc k).add (redClass (o.vfield slot 272 4)) fi n b (blockDecode fi n b) rc
        exec (.wideningAdd t slot ecc) s = .next ((((s.setAcc c t k r.1).count t (RED_REGRID.regrid_roundings t) r.2.1).numFlags t r.2.2
          0).modEng c t fun e => e.vecDone slot)) ∧
      (s.vecOp t slot (· == 0x31) = some (c, o) →
        let cls := redClass (o.vfield slot 272 4)
        let n := bits o.desc 165 24
        let carry := bits (o.vfield slot 244 16) 1 1 == 1
        s.sramFaults c [linesOf (32 * bits o.desc 189 20) (blockBytes (classFmt cls) n + 32), linesOf (32 * bits o.desc 209 20)
          (if carry then blockBytes (carryFmt cls) n + 32 else 0)] = 0 →
        ((s.engOf c t).acc (o.vfield slot 244 16 % 2)).inputs = 0 →
        exec (.roundWithLedger t slot ecc) s = .next (s.roundLedger t slot ecc)) ∧
      (s.vecOp t slot (· == 0x38) = some (c, o) → s.pruneFault c t o (s.pruneOp c t slot o) = 0 →
        exec (.pruningUnit t slot ecc) s = .next (
          let u := (s.pruneTo c t slot o (bits o.desc 165 24)).modEng c t fun e => e.vecDone slot
          u.wr (SPR_STATUS.prune_active t) (bit (((u.engOf c t).vec (1 - slot)).any fun q => vop q.word (1 - slot) == 0x38)))))

/-- The mule of an F-tile: a pass begins once its set has no loads before it, and its down phase runs; its panels are formed, it ends and the
queued pass follows and is shown, and a load brings what it names. What the code check finds in the lines that a panel reads is open (the model's
choice, log 66). -/
def Obligations.MuleCompletes : Prop :=
  ∀ (s : State) (t c line : Nat), s.up = true → s.ctxOn t = some c → s.cst c = stRunning →
    let e := s.engOf c t
    (∀ p : MulePass, e.mule.active = some p → p.begun = false → e.mule.waitsForSet p = false → s.mulePassFault c t e.mule p = 0 →
      exec (.mulePassStart t ⟨.clean, line⟩) s = .next (
        (((((s.setEng c t { e with mule := { e.mule with active := some { p with begun := true }, escapes := 0, hv := none } }).wr
          (MVP_STATUS.desc t) p.entry).wr (MVP_STATUS.set_sel t) p.set).wr (MVP_STATUS.panel t) p.panel).wr (MVP_STATUS.phase t) 2).runDown
            c t)) ∧
    (∀ p : MulePass, e.mule.active = some p → p.begun = false → e.mule.waitsForSet p = true →
      exec (.mulePassStart t ⟨.clean, line⟩) s = .next (s.count t (MVP_SET_WAIT.set_wait_cycles t) 1)) ∧
    (∀ p : MulePass, e.mule.active = some p → p.begun = true → p.panel < mdPanels (e.mule.descOf p.entry) → e.outMule = [] →
      extOn (e.mule.extOf p.entry) = false → exec (.mulePanelComplete t) s = .next (
        let d := e.mule.descOf p.entry
        let r := s.checkedRead c t (s.panelSpan c t e.mule p)
        if r.cst c ≠ stRunning then r
        else
          let u := r.runDown c t
          let m := (u.engOf c t).mule
          let cells := (List.range (mdVectors d)).map fun v => (List.range 48).map fun l => u.muleCell c t m p l v
          let v := u.modEng c t fun e => { e with mule := { e.mule with
            active := some { p with panel := p.panel + 1 }, escapes := m.escapes } }
          ((v.numFlags t ((cells.flatMap id).foldl (fun f x => f ||| x.2) 0) 0).wr (MVP_STATUS.panel t) (p.panel + 1)).panelOut c t d p.panel
            (cells.map fun v => v.map (·.1)))) ∧
    (∀ (p : MulePass), e.mule.active = some p → p.begun = true → p.panel < mdPanels (e.mule.descOf p.entry) → e.outMule ≠ [] →
      exec (.mulePanelComplete t) s = .next (s.count t (MVP_OUT_FULL.out_full_cycles t) 1)) ∧
    (∀ (p : MulePass) (stalls : Stalls), e.mule.active = some p → p.begun = true → mdPanels (e.mule.descOf p.entry) ≤ p.panel →
      e.mule.maxRank p = 0 → exec (.mulePassComplete t stalls) s = .next (
        let d := e.mule.descOf p.entry
        let u := s.setEng c t { e with mule := { e.mule with active := e.mule.queued, queued := none, hv := none } }
        let u := ((u.wr (MVP_STATUS.active t) (bit e.mule.queued.isSome)).wr (MVP_STATUS.queued t) 0).wr (MVP_STATUS.phase t) 0
        let u := u.showPass t e.mule.queued
        let u := (u.count t (MVP_PASSES.passes t) 1).count t (MVP_ADAPTER.adapter_cycles t) 0
        let u := u.count t (MVP_BEATS.beat_cycles t) ((mdPanels d * mdBeats d + e.mule.escapes) * (48 / mdLines d))
        u.count t (MVP_BANK_WAIT.bank_wait_cycles t) stalls.wait1)) ∧
    (∀ w k : Nat, (e.mule.loads.find? fun l => !e.mule.loadBlocked l) = some (w, k) → bits w 333 3 = 2 →
      s.sramFault c (linesOf (32 * bits w 304 20) 32).1 (linesOf (32 * bits w 304 20) 32).2 = 0 →
      exec (.muleLoadComplete t ⟨.clean, line⟩) s = .next (
        let desc := Sparse.put 0 e.mule.desc (bits w 329 4) (ofLe (s.rdSram c t (32 * bits w 304 20) 32))
        s.setEng c t { e with mule := { e.mule with loads := e.mule.loads.erase (w, k), desc := desc } }))

/-- The on-wafer links: a line in a mesh buffer leaves, waits (for room, or for an output that names its input) or fails its parity; a
lane's line is dropped at the edge; a down-link line waits in its field node while its tile is gated, is counted, is sent again three times,
and then marks its tile bad; the oldest request without reply completes without data, against the context that issued it. -/
def Obligations.NetworkEventsComplete : Prop :=
  ∀ (s : State) (t d c : Nat), s.up = true → s.ctxOn t = some c →
    (∀ (line : Bytes) (rest : List Bytes), s.meshIn t d = line :: rest → exec (.meshLineReceive t d false) s =
      .next ((((s.setMeshIn t d rest).wr (NET_RT_STATUS.link_parity t) 1).wr (NET_RT_STATUS.parity_dir t) d).tileFault t 0x2A04 2)) ∧
    (∀ (line : Bytes) (rest : List Bytes), s.meshIn t d = line :: rest → s.outputsOf t (d + 1) ≠ [] →
      ((s.outputsOf t (d + 1)).all fun o => s.hasRoom c t o) = true →
      exec (.meshLineReceive t d true) s = .next (
        let v := (s.setMeshIn t d rest).putOut c t (s.outputsOf t (d + 1)) line
        let v := match v.neighbour? t d with | some u => v.tileSends c u | none => v
        if (v.engOf c t).outDrain.isEmpty then v else v.tileSends c t)) ∧
    (∀ (line : Bytes) (rest : List Bytes), s.meshIn t d = line :: rest → s.outputsOf t (d + 1) = [] →
      exec (.meshLineReceive t d true) s = .next (match s.neighbour? t d with
        | some u => s.count u (NET_MESH_WAIT.mesh_wait_cycles u (opposite d)) 1
        | none => s)) ∧
    (∀ (line : Bytes) (rest : List Bytes), s.meshIn t d = line :: rest → s.outputsOf t (d + 1) ≠ [] →
      ((s.outputsOf t (d + 1)).all fun o => s.hasRoom c t o) = false → exec (.meshLineReceive t d true) s = .next (
        (((s.outputsOf t (d + 1)).filter fun o => !s.hasRoom c t o).filter (· < 4)).foldl (fun (v : State) o =>
          v.count t (NET_MESH_WAIT.mesh_wait_cycles t o) 1) s)) ∧
    (∀ e : Nat × List (Nat × Bytes), (s.net.express.find? fun e => e.1 % 4 == d && (s.neighbour? (e.1 / 4) d).isNone && e.2.any fun x =>
        x.1 == t) = some e → exec (.expressEdgeDrop t d) s = .next (
      let u := ((s.setLane (e.1 / 4) d ((e.2.takeWhile fun x => x.1 != t) ++ (e.2.dropWhile fun x => x.1 != t).drop 1)).wr
        (NET_RT_STATUS.edge_drop t) 1).tileFault t 0x2A01 2
      match u.ctxOn t with | some c => u.lanesFlow c | none => u)) ∧
    (s.gated (tileField t) (tileRow t) = true →
      ∀ ok : Bool, exec (.downlinkLineReceive t ok) s = .next (
        let u := (s.inc (NET_UL_WAIT.ul_wait (tileField t) 4) 1).stir (NET_UL_WAIT.ul_wait (tileField t) 4).addr
        { u with net := { u.net with waiting := s.net.waiting ++ [(t, ok)] } })) ∧
    (s.gated (tileField t) (tileRow t) = false → s.unserved t = false → (s.crossing 0 (s.phys t)).stopped = false →
      let set (v : State) (n : Nat) : State := { v with net := { v.net with resends := Sparse.put 0 v.net.resends t n } }
      exec (.downlinkLineReceive t true) s = .next (set (s.count t (NET_DL_IN.dl_lines_in t) 1) 0) ∧
      (Sparse.get 0 s.net.resends t < 3 → exec (.downlinkLineReceive t false) s =
        .next (set (s.count t (NET_DL_RETRY.dl_retries t) 1) (Sparse.get 0 s.net.resends t + 1))) ∧
      (3 ≤ Sparse.get 0 s.net.resends t → exec (.downlinkLineReceive t false) s = .next (
        let v := ((set s 0).wr (NET_RT_STATUS.dl_error t) 1).tileFault t 0x2A02 2
        v.markBad (((set s 0).wr (NET_RT_STATUS.dl_error t) 1).phys t) 0x2A02 true false))) ∧
    (∀ k : Nat, s.oldestIssuer t = some k → exec (.downlinkRequestTimeout t) s = .next (
      ((({ s with hall := s.hall + s.rd NET_CFG.ul_timeout * 1000 }).modEng k t fun e => { e with flight := failRequest e.flight }).wr
        (NET_RT_STATUS.dl_timeout t) 1).fault 0x2A03 2 1 t (some k) (some (s.cpart k)) []))

/-- The stacks: a line travels over the underlay network and counts at its stack; written, it is in memory and no longer poisoned, read, it is
checked; a unit is scrubbed, and one that fails is reported with its number as the detail of fault 0x2A11 (laid out by the model, log 51); a stack
that no partition uses is lost; and the watchdog of a physical tile that runs no context. -/
def Obligations.StackEventsComplete : Prop :=
  ∀ (s : State) (k line : Nat), s.up = true → s.stackIn k = true → line < 500000000 →
    (∀ (b : Bytes) (r : Requester) (e : EccOutcome), exec (.stackRequest k line (some b) r e) s = .next (
      let w := s.requestWay k true r
      let t := (w.stackCount k 1 true (w.requesterPart r)).wrBytes (stackAddr k (256 * line)) (padTo 256 b)
      { t with poisoned := s.poisoned.filter (· != poisonKey k line) })) ∧
    (∀ r : Requester, let w := s.requestWay k false r
      let u := w.stackCount k 1 false (w.requesterPart r)
      (s.poisoned.contains (poisonKey k line) = false →
        exec (.stackRequest k line none r .clean) s = .next u ∧
        exec (.stackRequest k line none r .corrected) s = .next (u.eccCorrected k line) ∧
        exec (.stackRequest k line none r .uncorrectable) s = .next ((u.poison k line).readFault k r)) ∧
      (s.poisoned.contains (poisonKey k line) = true →
        ∀ e : EccOutcome, exec (.stackRequest k line none r e) s = .next (u.readFault k r))) ∧
    (∀ (n : Nat) (p : Option Nat), s.Canon → (s.stackCount k n false p).rd (STK_RD_LINES.read_lines k) = min (s.rd (STK_RD_LINES.read_lines k) + n) (2 ^ 64 - 1)) ∧
    (∀ bad : Nat, s.on (STK_SCRUB.scrub_en k) = true →
      let t := s.wr (STK_SCRUB.progress k) (if s.rd (STK_SCRUB.progress k) + 1 < 31250000 then s.rd (STK_SCRUB.progress k) + 1 else 0)
      exec (.stackScrubUnit k .clean bad) s = .next t ∧
      exec (.stackScrubUnit k .uncorrectable bad) s =
        .next ((t.poison k (16 * s.rd (STK_SCRUB.progress k) + bad % 16)).fault 0x2A11 1 4 k none none
          (leB 4 (s.rd (STK_SCRUB.progress k))))) ∧
    (((List.range 32).filter fun p => ((s.wrBit STK_PRESENT.failed k true).wr (STK_STATUS.lost k) 1).built p &&
        bits (((s.wrBit STK_PRESENT.failed k true).wr (STK_STATUS.lost k) 1).rd (STK_PART_MAP.stack_mask p)) k 1 == 1) = [] →
      exec (.stackLost k) s = .next ((s.wrBit STK_PRESENT.failed k true).wr (STK_STATUS.lost k) 1)) ∧
    (∀ (pt : Nat) (r : Bool), s.gated (pt / 84) (pt % 84 / 14) = false →
      let t := { s with hall := s.hall + s.rd FLT_CFG.wd_us * 1000 }
      (t.logical pt).bind t.ctxOn = none → exec (.heartbeatTimeout pt true r) s = .next (t.markBad pt 0x3501 true r))

/-- The serving and weight events: a sequence admitted waits for its boundary; a Read's last data completes its command, and data over a
stopped crossing waits; a Read unanswered is issued again on a connected controller, then fails its command; a lost connection is reported;
a build without shards times out; a shard is refused, counted as stale, or lands; a shard due is scrubbed; a late sequence is reported once;
a context's step ends; records outlive their retention. The model's choices: the status and the retries of storage reads (log 34), the entry a step
starts at and how a drove is prepared (log 35), and the detail 0x0150 of fault 0x2D05 (log 51). -/
def Obligations.ServingAndWeightEventsComplete : Prop :=
  ∀ (s : State) (c : Nat),
    (∀ (h : Hdr) (r : AdmitReq), h.length = 56 → s.admits h 0x0501 true .context (checkSequenceAdmit h.context r) →
      checkSequenceAdmit h.context r s = 0 →
      exec (.sequenceAdmit h r) s = .next ((s.accepted h 0x0501).stage h 0x0501 (.sequenceAdmit h r))) ∧
    (s.up = true →
      (∀ (k id : Nat) (data : Bytes) (j : StorageJob) (conn : StorageConn) (r : NvmeRead), s.jobOf k id = some j →
        (s.controller k).conn = some conn → j.reads.find? (fun q => q.id == id && q.queue.isSome && q.sent) = some r →
        (s.passes 2 (conn.port / 4) = true → exec (.storageReadData k id data) s = .next (
          let size := nsBlock k j.req.nsid
          let j := { j with reads := j.reads.filter fun q => q.id != id, data := j.data ++ [(r.first, padTo (r.blocks * size) data)] }
          let j := gather (j.data.length + 1) size j
          let q := State.feedShards conn.port size (j.file.length / 128 + 1) s j
          let u := (q.1.setJob k j.id (if q.2.reads.isEmpty then none else some q.2)).issueReads k
          if u.reading k j.hdr then u else (u.reply j.hdr 0x0402 0).leaveController k)) ∧
        (s.passes 2 (conn.port / 4) = false → exec (.storageReadData k id data) s =
          .next (s.keep 2 (conn.port / 4) (.storageReadData k id data)))) ∧
      (∀ (k id : Nat) (j : StorageJob) (r : NvmeRead), s.jobOf k id = some j →
        j.reads.find? (fun q => q.id == id && (q.queue.isSome || (s.controller k).conn.isNone)) = some r →
        let t := { s with hall := max s.hall (r.since + s.rd WGT_CFG.storage_timeout * 1000000) }
        (r.again = false → (s.controller k).conn.isSome = true → exec (.storageReadTimeout k id) s =
          .next ((t.inc WGT_STORAGE.reissues 1).issueRead k { r with again := true, queue := none, old := r.queue })) ∧
        (r.again = true ∨ (s.controller k).conn = none → exec (.storageReadTimeout k id) s = .next (
          let u := t.inc WGT_STORAGE.timeouts 1
          let u := u.setController { u.controller k with jobs := (u.controller k).jobs.filter fun y => y.hdr != j.hdr }
          let u := u.endSource j.hdr.context (storageSource j.hdr)
          (((u.reply j.hdr 0x0402 0x0551).storageFault (some j.hdr.context)).leaveController k).issueReads k))) ∧
      (∀ k : Nat, (s.controller k).conn.isSome = true → exec (.storageConnectionLost k) s =
        .next (((s.setController { s.controller k with conn := none }).showControllers).storageFault none)) ∧
      (∀ (slot op : Nat) (b : Build) (h : Hdr), s.build c slot = some b → b.waiting = some (op, h) →
        exec (.buildTimeout c slot) s = .next (
          (({ s with hall := max s.hall (b.last + s.rd WGT_CFG.build_timeout * 1000000000) }).setBuild { b with waiting := none }).reply
            h op 0x0550)) ∧
      (∀ (x : Stream) (k port : Nat) (m : Bytes) (rest : List Bytes) (t : ShardTarget), s.stream k = some x → x.msgs = m :: rest →
        s.streamTarget k port = some t →
        let d := m.take 128
        let v := s.setStream { x with msgs := rest }
        (v.descriptorOk t d = false → exec (.shardArrival k port) s =
          .next ((v.endArrival t d k).shardFault t port 0x2D05 (if refusedFormat d then leB 2 0x0150 else []))) ∧
        (v.descriptorOk t d = true → v.targetVersion t ≠ some (sdVersion d) →
          exec (.shardArrival k port) s = .next ((v.endArrival t d k).inc (WGT_COUNTS.stale_shards t.ctx) 1)) ∧
        (v.descriptorOk t d = true → v.targetVersion t = some (sdVersion d) →
          (v.targetLanded t).find? (fun x => x.tensor == sdTensor d && x.index == sdIndex d) = none →
          (match t with | .load b _ => v.taking b | .stream _ => true) = true →
          (m.drop 128).length = sdLen d → sha256 (m.drop 128) = sdDigest d → sdFlags d % 2 = 0 →
          exec (.shardArrival k port) s = .next ((v.endArrival t d k).land t port d (m.drop 128)))) ∧
      (∀ (p : Nat × Nat × Nat × Nat) (e1 e2 : Bool), s.nextScrub = some p → s.on WGT_CFG.scrub_en = true → s.wgt.scrubDue ≤ s.tick →
        ∃ t : State, exec (.weightScrubShard e1 e2) s = .next t ∧ t.wgt.scrub = some p ∧
          t.wgt.scrubDue = s.tick + 2 ^ s.rd WGT_CFG.scrub_exp) ∧
      (∀ i : Nat, (s.seq i).state ≠ 0 → (s.seq i).deadlineTick < s.tick → (s.seq i).late = false → exec (.sequenceDeadlineExpiry i) s =
        .next ((s.modSeq i fun q => { q with late := true }).fault 0x2E02 0 0 0 (some (s.seq i).ctx) (some (s.cpart (s.seq i).ctx)) [])) ∧
      (s.on (SEQ_CFG.serving c) = true → (s.ctx c).step = none → s.cst c ≠ stFree → s.cst c ≠ stTeardown →
        let u := { s with hall := max s.hall (s.tickStart s.time.nextTick - s.rd TIM_BOUNDARY.guard_us * 1000) }
        let t := u.enterTick.expireDue
        let after := t.actions ((List.range 32).filter t.holds)
        (after.running (u.cpart c) = some c → exec (.drovePreparation c) s =
          .next ((u.dropFails c).prepare c s.time.nextTick State.lookAhead)) ∧
        (after.running (u.cpart c) ≠ some c → exec (.drovePreparation c) s = .next u)) ∧
      (∀ r : StepRun, (s.ctx c).step = some r → s.cst c = stRunning → s.running (s.cpart c) = some c → s.allEnded c = true →
        (∀ (k : Nat) (l : List Nat), r.more = k :: l → exec (.contextStepEnd c) s =
          .next ((s.modCtx c fun x => { x with step := some { r with set := some k, more := l, run := 1 } }).startEntry c r.entry false)) ∧
        (r.more = [] → exec (.contextStepEnd c) s = .next (
          let t := ((s.stepEvent c r).reportStep c r).modCtx c fun k => { k with step := none, slip := 0, breached := false }
          if r.training then t.attemptEnd c r else t.collect c r))) ∧
      (∀ (source n : Nat) (r : Ring) (e : Nat × Nat) (l : List (Nat × Nat)), s.ring c source n = some r → r.times = e :: l →
        s.rd (CMD_RESULT_CFG.retention_ms c) ≠ 0 → exec (.resultRetentionExpiry c source n) s = .next (
          let keep := s.rd (CMD_RESULT_CFG.retention_ms c) * 1000000
          let t := { s with hall := max s.hall (e.2 + keep) }
          let due := (r.times.filter fun e => decide (e.2 + keep ≤ t.hall)).map (·.1)
          due.foldl (fun s i => s.expireRecord r i) (t.setRing (r.releaseTo (due.foldl (fun m i => max m (i + 1)) r.release))))))

/-- The training events: an input copy ends with its digest in the entry; a contribution is taken in time, and one late or missing is reported
with its member as the fault's detail (laid out by the model, log 51) and its attempt's void asked for; the root voids, a hop passes the request
up; a verdict of the running attempt takes effect, and so does, at a member held since its void, a later attempt's void or abandonment (the
model's inference, log 70); any other is counted as stale, and so is a contribution; the root answers a query; a verdict is asked for, then lost; a
mirrored entry is stored, acknowledged, or behind. What a peer sends as a control message, to a port that hears it and that its crossing passes,
is answered on that peer's port (the model's choice, log 32), and acts once. -/
def Obligations.TrainingEventsComplete : Prop :=
  ∀ (s : State) (c : Nat), s.up = true →
    (∀ (step : Nat) (rest : List Nat), (s.ctx c).copies = step :: rest →
      let n := inputBytes (s.rd (FLT_CTX_ILOG_CFG.entry_units c))
      let from_ := 256 * (s.ctx c).ilogInput
      (s.partPoisoned (s.cpart c) from_ n = false → exec (.inputLogCopyComplete c) s = .next (
        let data := s.rdPart (s.cpart c) from_ n
        let t := (s.readLines (s.cpart c) from_ n).wrPart (s.cpart c) (256 * s.ilogSlot c step + 256) data
        ((t.wrPart (s.cpart c) (256 * s.ilogSlot c step + 144) (sha256 data)).wr (FLT_CTX_ILOG_STEP.copied_step c) step).modCtx c fun k =>
          { k with copies := rest, lateSteps := k.lateSteps.filter (· != step) })) ∧
      (s.partPoisoned (s.cpart c) from_ n = true → exec (.inputLogCopyComplete c) s =
        .next ((s.copyFails c step).modCtx c fun k => { k with copies := rest, lateSteps := k.lateSteps.filter (· != step) }))) ∧
    (∀ (n : Bytes) (x : Train), (s.ctx c).node = some n → (s.ctx c).train = some x → x.voided = false →
      (∀ child : Nat,
        (s.lastStamp c child ≤ s.hopDeadline c n → exec (.contributionReceived c child x.req.step x.attempt) s =
          .next (s.modTrain c fun x => { x with got := if x.got.contains child then x.got else x.got ++ [child] })) ∧
        (s.hopDeadline c n < s.lastStamp c child → exec (.contributionReceived c child x.req.step x.attempt) s =
          .next (s.missed c 1 (nodeChild n child))) ∧
        (∀ step attempt : Nat, step ≠ x.req.step ∨ attempt ≠ x.attempt →
          exec (.contributionReceived c child step attempt) s = .next (s.inc (RED_COUNTS.stale_discards c) 1))) ∧
      exec (.hopDeadlineExpiry c) s = .next ((missingChildren n x).foldl (fun s i => s.missed c 2 (nodeChild n i))
        { s with hall := max s.hall (s.hopDeadline c n) }) ∧
      (nodeIsRoot n = true → missingChildren n x = [] → exec (.rootDeadlineExpiry c) s = .next (
        ({ s with hall := max s.hall (s.rd (RED_DEADLINE.deadline_ns c)) }).fault 0x2C04 1 0 0 (some c) (some (s.cpart c))
          (leB 2 (nodeMember n)) |>.askVoid c 1 (nodeMember n))) ∧
      (nodeIsRoot n = true → ∀ (i : Nat) (l : List Nat), missingChildren n x = i :: l → exec (.rootDeadlineExpiry c) s =
        .next (({ s with hall := max s.hall (s.rd (RED_DEADLINE.deadline_ns c)) }).missed c 2 (nodeChild n i))) ∧
      (nodeIsRoot n = false → x.queried = none → exec (.verdictTimeout c) s = .next (
        let t := { s with hall := max s.hall (s.rd (RED_DEADLINE.deadline_ns c) + 1000 * nodeWait n) }
        let t := t.modTrain c fun x => { x with queried := some t.hall }
        t.tell (rosterAddr (t.rosterOf c) 0) 0x22 (redBody (nodeDigest n) [x.req.step, x.attempt]))) ∧
      (∀ q : Nat, nodeIsRoot n = false → x.queried = some q → exec (.verdictTimeout c) s = .next (
        let t := { s with hall := max s.hall (q + 1000 * nodeWait n) }
        (t.wr (RED_STATUS.verdict_lost c) 1).fault 0x2C05 2 0 0 (some c) (some (t.cpart c)) [])) ∧
      (∀ m : RedMsg, s.ctxOfRoster m.rosterDigest = some c → x.req.step = m.step → x.attempt = m.attempt →
        (nodeIsRoot n = true → s.voidRequest m = s.giveVerdict c x 2 m.cause m.named) ∧
        s.verdictMsg m = ((s.modTrain c fun _ => x).wr (RED_STATUS.attempt c) x.attempt).takeVerdict c x m.verdict m.cause m.named)) ∧
    (∀ (x : Train) (m : RedMsg), s.ctxOfRoster m.rosterDigest = some c → (s.ctx c).train = some x → x.voided = true → x.req.step = m.step →
      (x.attempt < m.attempt → m.verdict ≠ 1 → s.verdictMsg m =
        let y := { x with attempt := m.attempt }
        ((s.modTrain c fun _ => y).wr (RED_STATUS.attempt c) m.attempt).takeVerdict c y m.verdict m.cause m.named) ∧
      (m.attempt ≤ x.attempt ∨ m.verdict = 1 → s.verdictMsg m = s.inc (RED_COUNTS.stale_discards c) 1)) ∧
    (∀ (n : Bytes) (a : Nat) (m : RedMsg), (s.ctx c).node = some n → s.ctxOfRoster m.rosterDigest = some c → nodeIsRoot n = false →
      s.memberAddr c (nodeParent n) = some a →
      s.voidRequest m = s.tell a 0x20 (redBody m.rosterDigest [m.step, m.attempt, m.member, m.cause, m.named])) ∧
    (∀ m : RedMsg, s.ctxOfRoster m.rosterDigest = some c → (s.ctx c).train = none →
      s.verdictMsg m = s.inc (RED_COUNTS.stale_discards c) 1) ∧
    (∀ (a : Nat) (m : RedMsg) (v : Verdict), s.ctxOfRoster m.rosterDigest = some c →
      (s.ctx c).verdicts.find? (fun v => v.step == m.step && v.attempt == m.attempt) = some v →
      s.verdictQuery a m = s.tell a 0x21 (redBody m.rosterDigest [v.step, v.attempt, v.verdict, v.cause, v.named])) ∧
    (∀ (roster digest : Bytes) (m : MirrorOut), s.ctxOfRoster roster = some c → (s.ctx c).mirrorOut = some m →
      (m.digest = digest → s.mirrorAck roster m.step digest = s.modCtx c fun k => { k with mirrorOut := none }) ∧
      (m.digest ≠ digest → m.again = false → s.mirrorAck roster m.step digest =
        (s.modCtx c fun k => { k with mirrorOut := some { m with again := true } }).sendMirror c (s.ilogEntry c m.step))) ∧
    (∀ peer id : Nat, comesIn s (s.ctrlPort peer) →
      (s.fab.ctrlSeen.contains (peer, id) = false →
        (∀ m : RedMsg, exec (.voidRequest peer id m) s = .next ((ctrlFirst s peer id).voidRequest m) ∧
          exec (.verdict peer id m) s = .next ((ctrlFirst s peer id).verdictMsg m) ∧
          exec (.verdictQuery peer id m) s = .next ((ctrlFirst s peer id).verdictQuery peer m)) ∧
        ∀ (roster digest : Bytes) (step : Nat), exec (.mirrorAck peer id roster step digest) s =
          .next ((ctrlFirst s peer id).mirrorAck roster step digest)) ∧
      (s.fab.ctrlSeen.contains (peer, id) = true →
        (∀ m : RedMsg, exec (.voidRequest peer id m) s = .next (ctrlHeard s peer id) ∧
          exec (.verdict peer id m) s = .next (ctrlHeard s peer id) ∧
          exec (.verdictQuery peer id m) s = .next (ctrlHeard s peer id)) ∧
        ∀ (roster digest : Bytes) (step : Nat), exec (.mirrorAck peer id roster step digest) s = .next (ctrlHeard s peer id))) ∧
    (∀ (handle step base depth units : Nat) (entry : Bytes) (x : Stream), s.stream handle = some x → comesIn s x.port → x.kind = 2 →
      x.direction = 1 → (s.ctx x.ctx).mirrorFrom = some handle → (s.ctx x.ctx).mirrorRing = some (base, depth, units) →
      exec (.mirror handle step entry) s = .next (
        let a := 256 * (base + step % max 1 depth * units)
        let t := s.wrPart (s.cpart x.ctx) a (entry.take (256 * units))
        t.tell x.peerAddr 0x31 (padTo 32 (slice entry 32 32) ++ leB 8 step ++
          sha256 (t.rdPart (t.cpart x.ctx) a (min entry.length (256 * units)))))) ∧
    (∀ m : MirrorOut, (s.ctx c).mirrorOut = some m →
      let t := ({ s with hall := max s.hall m.deadline }).modCtx c fun k => { k with mirrorOut := none }
      (∀ x : Stream, t.mirrorStream c = some x → exec (.mirrorBehind c) s =
        .next ((t.wr (PRT_STATUS.mirror_behind x.port) 1).fault 0x3105 1 5 x.port (some c) (some (t.cpart c)) [])) ∧
      (t.mirrorStream c = none → exec (.mirrorBehind c) s = .next (t.fault 0x3105 1 0 0 (some c) (some (t.cpart c)) [])))

/-- The job-start broadcast and control messages: a message is acknowledged and acted on once by its sender and id, a repeat only acknowledged;
one unanswered is sent again; a part of a delivery in its hop's order takes effect and is acknowledged, and the first starts the delivery; a
member's right acknowledgement counts; a level's deadline makes suspects; a commit is recorded and answered, and one that never comes discards
the delivery. The port of a control message (`ctrlPort`), a hop's acknowledgement at once, and which member of a roster is the module's own are the
model's choice (log 32), and so is the member list of fault 0x3106 (log 51). -/
def Obligations.JobEventsComplete : Prop :=
  ∀ s : State, s.up = true →
    let heard := ctrlHeard s
    let once := ctrlFirst s
    let new (peer id : Nat) : Prop := comesIn s (s.ctrlPort peer) ∧ s.fab.ctrlSeen.contains (peer, id) = false
    (∀ (peer id : Nat) (b : RedMsg), comesIn s (s.ctrlPort peer) →
      (s.fab.ctrlSeen.contains (peer, id) = true →
        exec (.controlMessageReceived peer id 0x20 b) s = .next (heard peer id) ∧
        (∀ (k g m : Nat) (d : Bytes), exec (.jobAck peer id k g m d) s = .next (heard peer id)) ∧
        (∀ (k : Nat) (d : Bytes), exec (.jobCommit peer id k d) s = .next (heard peer id)) ∧
        (∀ k m : Nat, exec (.jobCommitAck peer id k m) s = .next (heard peer id))) ∧
      (new peer id → exec (.controlMessageReceived peer id 0x20 b) s = .next ((once peer id).voidRequest b)) ∧
      exec (.ctrlAck peer id) s = .next { s with fab := { s.fab with ctrlOut :=
        (s.fab.ctrlOut.filter fun m => !(m.id == id && m.peer == peer && m.ctype != 0x12)).map fun (m : CtrlOut) =>
          if m.id = id ∧ m.peer = peer then { m with acked := true } else m } }) ∧
    (∀ (id : Nat) (m : CtrlOut), s.fab.ctrlOut.find? (fun m => m.id == id) = some m →
      let t := { s with hall := max s.hall (m.sentAt + s.rd PRT_JOB.ctrl_retry_us * 1000) }
      (m.repeats < 8 → exec (.ctrlRetryExpiry id) s = .next (
        let n := { m with repeats := m.repeats + 1, sentAt := t.hall }
        let v := { t with fab := { t.fab with ctrlOut := t.fab.ctrlOut.map fun (x : CtrlOut) => if x.id == id then n else x } }
        if m.acked then v else v.sendFab (v.ctrlPort m.peer) (.ctrl m.peer id m.ctype m.body))) ∧
      (8 ≤ m.repeats → m.ctype ≠ 0x12 → exec (.ctrlRetryExpiry id) s =
        .next { t with fab := { t.fab with ctrlOut := t.fab.ctrlOut.filter fun (x : CtrlOut) => x.id != id } }) ∧
      (8 ≤ m.repeats → m.ctype = 0x12 → exec (.ctrlRetryExpiry id) s = .next (
        ({ t with fab := { t.fab with ctrlOut := t.fab.ctrlOut.filter fun (x : CtrlOut) => x.id != id } }).commitUnanswered
          (leAt m.body 0 8)))) ∧
    (∀ (peer : Nat) (p : DeliverPart), let x := s.hop peer
      comesIn s (s.ctrlPort peer) → x.held = [] → x.expected < 2 ^ 32 →
      (exec (.jobDeliver peer x.expected p) s = .next (
        let v := (s.setHop { x with expected := (x.expected + 1) % 2 ^ 32, held := [] }).jobDeliver p
        v.sendFab (v.ctrlPort peer) (.deliverAck peer (v.hop peer).expected (heldRanges ((v.hop peer).held.map (·.1)))))) ∧
      (∀ psn : Nat, psnBefore psn x.expected = true → exec (.jobDeliver peer psn p) s = .next (
        let v := s.inc (PRT_MLADUB.dup_rx (s.ctrlPort peer)) 1
        v.sendFab (v.ctrlPort peer) (.deliverAck peer x.expected [])))) ∧
    (∀ (p : DeliverPart) (m : JobMember), s.fab.members.find? (fun m => m.bellwether == p.sender) = some m → m.committed = false →
      m.broadcast = none → p.offset = 0 → p.data.length < p.total →
      let held : JobMember := { m with
        broadcast := some p.broadcastId, generation := p.generation, order := p.treeOrder, rosterLen := p.rosterLen, data := p.data,
        total := p.total, ackedAt := none, discarded := false }
      s.jobDeliver p = (s.setMember held).forwardPart [] held p) ∧
    (∀ (l : JobLead), s.fab.leads.find? (fun x => x.broadcast == l.broadcast) = some l →
      (∀ (peer id g m : Nat) (digest : Bytes), new peer id → l.state = 1 → m ≠ 0 → m < l.members → l.acked.contains m = false →
        (digest = l.digest → exec (.jobAck peer id l.broadcast g m digest) s = .next ((once peer id).commitIfAcked { l with
          acked := l.acked ++ [m], due := l.due.filter fun e => e.1 != m, suspects := l.suspects.filter fun e => e.1 != m })) ∧
        (digest ≠ l.digest → l.mismatch.contains m = true → exec (.jobAck peer id l.broadcast g m digest) s =
          .next ((once peer id).failMembers l [m])) ∧
        (digest ≠ l.digest → l.mismatch.contains m = false → exec (.jobAck peer id l.broadcast g m digest) s =
          .next (((once peer id).setLead { l with mismatch := l.mismatch ++ [m] }).deliverTo l (l.orders.length - 1) [0, m] m))) ∧
      (∀ t : Nat, earliest (l.due ++ l.suspects) = some t →
        let u := { s with hall := max s.hall t }
        let dead := (l.suspects.filter fun e => decide (e.2 ≤ u.hall)).map (·.1)
        dead ≠ [] → exec (.ackLevelDeadline l.broadcast) s = .next (u.failMembers l dead)) ∧
      (∀ t m : Nat, l.due = [(m, t)] → l.suspects = [] → membersBelow l.orders m = [] → l.orders.length = 8 →
        let u := { s with hall := max s.hall t }
        let x := { l with due := [], suspects := [(m, u.hall + u.rd PRT_JOB.ack_level_ms * 1000000)] }
        exec (.ackLevelDeadline l.broadcast) s = .next ((u.deliverTo x 8 [0, m] m).setLead x)) ∧
      (∀ peer id m : Nat, new peer id → l.state = 2 → m ≠ 0 → m < l.members → l.committed.contains m = false →
        let u := once peer id
        let v := { u with fab := { u.fab with ctrlOut := u.fab.ctrlOut.filter fun x =>
          !(x.ctype == 0x12 && leAt x.body 0 8 == l.broadcast && x.peer == rosterAddr l.roster m) } }
        (l.committed.length + 2 < l.members → exec (.jobCommitAck peer id l.broadcast m) s =
          .next ((v.setLead { l with committed := l.committed ++ [m] }).commitUnanswered l.broadcast)) ∧
        (l.members ≤ l.committed.length + 2 → exec (.jobCommitAck peer id l.broadcast m) s =
          .next ((v.setLead { l with committed := l.committed ++ [m], state := 3, answered := true }).reply l.hdr 0x0606 0)))) ∧
    (∀ (sender id k t : Nat) (m : JobMember), new sender id →
      s.fab.members.find? (fun m => m.bellwether == sender && m.broadcast == some k) = some m →
      m.ackedAt = some t → m.discarded = false → s.hall ≤ m.deadline t →
      exec (.jobCommit sender id k (sha256 (m.data.take m.rosterLen))) s = .next (
        let o := ((once sender id).setMember { m with committed := true }).ownMember (m.data.take m.rosterLen)
        (o.2.modCtx m.ctx fun k => { k with rosterDigest := some (sha256 (m.data.take m.rosterLen)) }).tell sender 0x13
          (leB 8 k ++ leB 4 o.1 ++ leB 4 0))) ∧
    (∀ (c t : Nat) (m : JobMember), s.fab.members.find? (fun m => m.ctx == c) = some m → m.ackedAt = some t → m.committed = false →
      m.discarded = false → exec (.commitTimeout c) s = .next (
        let u := { s with hall := max s.hall (m.deadline t + 1) }
        (u.setMember { m with discarded := true, data := [] }).fault 0x3107 1 0 0 (some c) (some (u.cpart c)) []))

/-- The power events: a sensor's first sample is kept and shown; the input filter is updated and an excursion warned of once; an entry
imbalance is reported once; emergency off, a supply trip and a module trip, which go by the values that the sensors show, remove every rail, a
low differential pressure only while a rail is on; the limiter rises and falls; droop stretching slips a tile's context; a region begins to ungate; a
converter failure loses its field, from stage P5 on; a region's emergency gates it, and is reported again when it stands gated. The trusted
firmware's own events: a quote is signed, or ends past its deadline, a session times out, the runtime firmware stops, and starts from the slot that
boots. The model's choices: the free code of a converter's loss (log 15), the trip thresholds, the values and which sensor shows them (log 37), the
pin EMERGENCY_OFF_N as a field of its own (log 38), and where an excursion or an imbalance ends, once for which it warns (log 59). -/
def Obligations.PowerEventsComplete : Prop :=
  ∀ s : State,
    (s.pins.standby = true →
      (∀ (i : Nat) (v : Int), i < 4 → 0 ≤ v → v ≤ 80000 → (s.sensor .entryVoltage i) = {} →
        exec (.sensorSample .entryVoltage i v) s = .next ((s.setSensor .entryVoltage i { samples := [some v] }).showSensor .entryVoltage i)) ∧
      (s.up = false → s.pwr.excursion = false →
        let t := s.debounce
        let t := { t with pwr := { t.pwr with
          volts := (t.inputMv :: t.pwr.volts).take 10, micros := (t.inputUw :: t.pwr.micros).take 10, filterAt := 0 } }
        let t := t.wr PWR_STATUS.input_w (min t.filteredW.floor.toNat 65535)
        (40000 ≤ t.filteredMv → t.filteredMv ≤ 60000 → exec .inputFilterUpdate s = .next t) ∧
        (t.filteredMv < 40000 ∨ 60000 < t.filteredMv →
          exec .inputFilterUpdate s = .next (
            (({ t with pwr := { t.pwr with excursion := true, within := 0 } }).wr PWR_STATUS.input_warn 1).svcFault 0x3201 1 0 0 []))) ∧
      (∀ (e : Nat) (i : Int), e < 4 → s.sensed .entryCurrent e = some i →
        35 * ((List.range 4).foldl (fun n i => n + ((s.sensed .entryCurrent i).getD 0)) (0 : Int)) < 100 * i →
        (s.pwr.imbalanced.contains e = false → exec (.entryImbalance e) s = .next (
          (({ s with pwr := { s.pwr with imbalanced := e :: s.pwr.imbalanced } }).wr PWR_STATUS.imbalance 1).svcFault 0x3201 1 0 0 [])) ∧
        (s.pwr.imbalanced.contains e = true → exec (.entryImbalance e) s = .next s)) ∧
      exec .emergencyOff s = .next (
        let t := s.removeRails 0x3209 []
        { t with pins := { t.pins with emergencyLow := true } }) ∧
      (∀ cause entry : Nat, s.tripHolds cause entry = true → exec (.supplyTrip cause entry) s = .next (
        let c := s.tripCause cause entry
        s.removeRails 0x3202 (leB 1 c.1 ++ leB 1 c.2 ++ leB 2 0 ++ leB 4 (if c.1 = 3 then (s.entryMa c.2).toNat else s.inputMv) ++ leB 8 0))) ∧
      (∀ (cond i : Nat) (v : Int), s.tripValue cond i = some v → cond ≠ 6 ∨ s.railsOn = true → s.moduleTripHolds cond i v = true →
        exec (.moduleThermalTrip cond i) s = .next (s.removeRails 0x3206 (thermalDetail cond i v)))) ∧
    (s.up = true →
      ((s.rd PWR_CFG.cap_w : Rat) < s.filteredW → s.rd PWR_STATUS.limiter_level < 7 → exec .limiterRise s = .next (
        let l := s.rd PWR_STATUS.limiter_level
        let u := if l = 0 then s.wr PWR_STATUS.limiter_acted 1 else s
        let t := (u.wr PWR_STATUS.limiter_level (l + 1)).inc PWR_COUNTS.limiter_steps 1
        ({ t with pwr := { t.pwr with limitSeen := some [], limited := true } }).limiterWords true)) ∧
      (s.filteredW < ((97 * s.rd PWR_CFG.cap_w : Nat) : Rat) / 100 → 0 < s.rd PWR_STATUS.limiter_level →
        exec .limiterFall s = .next ((({ s with pwr := { s.pwr with limitSeen := some [] } }).wr PWR_STATUS.limiter_level
          (s.rd PWR_STATUS.limiter_level - 1)).limiterWords false)) ∧
      (∀ t n : Nat, t < 3528 → s.gated (tileField t) (tileRow t) = false →
        let u := if s.on (TIL_COUNTER_CTRL.freeze t) then s else s.inc (PWR_DROOP.droop_cycles t) n
        (∀ c : Nat, u.ctxOn t = some c → ((u.ctx c).step.isSome && u.hasWork c t) = true →
          exec (.droopClockStretching t n) s = .next (u.slipBy c t n)) ∧
        (u.ctxOn t = none → exec (.droopClockStretching t n) s = .next u)) ∧
      (∀ r : Nat, s.toUngate.contains r = true → s.pwr.ungating.contains r = false → exec (.ungatingStart r) s = .next {
        s with hall := max s.hall (s.tickStart s.time.nextTick - 20000), pwr := { s.pwr with ungating := s.pwr.ungating ++ [r] } }) ∧
      (∀ (q : QuoteReq) (rest : List QuoteReq), s.sec.waiting = q :: rest → exec .quoteSigned s = .next (
        let quote := q.body ++ seedsSign (deviceSeeds (ascii "KGW7 attest" ++ s.slot 0)) (sha256 q.body)
        if q.hdr.deadlineEn = true ∧ q.hdr.deadline < s.hall then
          ({ s with sec := { s.sec with waiting := rest } } : State).reply q.hdr 0x0902 0x0502
        else (({ s with sec := { s.sec with
          waiting := rest, nextQuote := s.sec.nextQuote + 1, quotes := ((s.sec.nextQuote, quote) :: s.sec.quotes).take 8 } }).inc
            SEC_COUNTS.quotes 1).reply q.hdr 0x0902 0 (leB 8 s.sec.nextQuote))) ∧
      (∀ (id : Nat) (x : Session), s.session id = some x → x.secret = none →
        exec (.sessionTimeout id) s = .next (({ s with hall := max s.hall (x.openedAt + sessionLimit) }).closeSession x)) ∧
      (∃ t : State, exec (.runtimeRestart false) s = .next t ∧ (s.Canon → t.on CMD_STATUS.runtime_up = false)) ∧
      exec (.runtimeRestart true) s = .next (match s.bootSlot 1 with
        | some k => ((((s.wr SEC_VERSION.rfw_version (s.slotVersion 1 k)).extend 1 (s.slotDigest 1 k)).wr SEC_STATUS.runtime_slot k).wr
            SEC_STATUS.boot_state 2).wr CMD_STATUS.runtime_up 1
        | none => s)) ∧
    (∀ f < 49, 5 ≤ s.rd CAL_BRINGUP.stage → s.rdBit FLT_STATE.fields_lost f = false → exec (.fieldConverterFailure f) s =
      .next ((((s.free 16).2.fault (s.free 16).1 4 3 f none none []).loseFields [f] (s.free 16).1).dropField f)) ∧
    (∀ (r : Nat) (v : Int), s.powered = true → r < 294 → s.regionValue r = some v → 103000 ≤ v →
      let t := ((s.wr (THM_REGION.gate_state (r / 6) (r % 6)) 2).wr (THM_REGION.emergency (r / 6) (r % 6)) 1).inc
        (THM_REGION_COUNTS.emergencies (r / 6) (r % 6)) 1
      let hot (t : State) : State :=
        let u := t.wr THM_STATUS.emergency 1
        ({ u with pwr := { u.pwr with readings := u.pwr.readings.filter fun e => e.1 != r } }).fault 0x3204 1 3 (r / 6) none none []
      (s.gateState r ≠ 0 → exec (.regionEmergency r) s = .next (hot t).showGated) ∧
      (s.gateState r = 0 → exec (.regionEmergency r) s = .next (
        let u := hot (t.inc (THM_REGION_COUNTS.gate_events (r / 6) (r % 6)) 1)
        (((List.range 32).foldl (fun (v : State) p => match v.running p with
          | some c => if v.built p && v.workIn c (r / 6) (r % 6) then v.fault 0x3205 2 3 (r / 6) (some c) (some p) [] else v
          | none => v) u).holdRegion r).showGated)))

/-- Bring-up and the service connector: standby power starts the log and the calibration set; a power-on starts the sequence, its stages
advance, P7 beside P3 to P6, while the coolant flows and EMERGENCY_OFF_N is high, and it ends in POWER_GOOD; a failed precondition, a stage over
its time, a power-off and a module reset end it; the service connector is answered. What the outside gives a stage, which values a reset keeps, and
what holds while EMERGENCY_OFF_N or the reset pin is low are the model's choice (log 38); so is the row under which a service frame of an
unassigned op stands (log 71). -/
def Obligations.BringUpAndServiceComplete : Prop :=
  ∀ s : State,
    (s.pins.standby = false → exec .standbyPowerArrival s = .next (
      let u := { s with pins := { s.pins with standby := true }, faultLog := [] }
      let u := (u.setReg FLT_LOG_INDEX 0).setReg FLT_LOG_STATUS 0
      ((((List.range 7).map (· + 1)).filter u.calBad).foldl (fun s _ => (s.wr CAL_STATUS.corrupt 1).svcFault 0x3405 1 0 0 [])
        u).loadAsym.showCal)) ∧
    (s.pins.standby = true → ∃ t : State, exec .standbyPowerLoss s = .next t ∧ t.pins.standby = false ∧ t.faultLog = [] ∧
      t.pins.powerGood = false ∧ t.mem = []) ∧
    exec .inputApplied s = .next { s with pins := { s.pins with applied := true, precharging := [0, 1, 2, 3] } } ∧
    (∀ e : Nat, exec (.prechargeComplete e) s =
      .next { s with pins := { s.pins with precharging := s.pins.precharging.filter (· != e) } }) ∧
    (∀ (i : SvcIface) (tag : Nat), s.pins.standby = true → (s.pins.replies.any fun r => r.1 == ifaceCode i) = false →
      let reply (op status : Nat) : List (Nat × Bytes) := [(ifaceCode i, svcFrame op tag status [])]
      (s.pins.resetLow = false → s.rd CAL_BRINGUP.stage = 0 → exec (.powerOn i tag) s = .next { s.wr CAL_BRINGUP.stage 1 with
        pins := { s.pins with requested := s.hall, replies := s.pins.replies ++ reply 1 0 } }) ∧
      (s.rd CAL_BRINGUP.stage ≠ 0 ∨ s.pins.resetLow = true → exec (.powerOn i tag) s =
        .next { s with pins := { s.pins with replies := s.pins.replies ++ reply 1 0x02B0 } }) ∧
      (let t := s.removeRails 0x3601 []
       exec (.powerOff i tag) s = .next { t with pins := { t.pins with replies := t.pins.replies ++ reply 2 0 } })) ∧
    (s.rd CAL_BRINGUP.stage = 1 → exec .powerUpPreconditions s =
      .next (((s.wr CAL_BRINGUP.stage 0).svcFault 0x3401 5 0 0 (leB 1 1)).wr CAL_BRINGUP.abort_stage 1)) ∧
    (∀ k : Nat, s.rd CAL_BRINGUP.stage = k → (k = 2 ∧ s.rd SEC_STATUS.boot_state ≠ 3) ∨ k = 3 ∨ k = 4 ∨ k = 5 →
      exec (.powerUpStageTimeout false) s = .next ((s.removeRails 0x3401 (leB 1 k)).wr CAL_BRINGUP.abort_stage k)) ∧
    (3 ≤ s.rd CAL_BRINGUP.stage → s.rd CAL_BRINGUP.stage ≤ 7 → s.pins.p7 = false →
      exec (.powerUpStageTimeout true) s = .next ((s.removeRails 0x3401 (leB 1 7)).wr CAL_BRINGUP.abort_stage 7)) ∧
    (∀ r : StageResult, let u := { s with pins := { s.pins with emergencyLow := r.emergencyLow } }
      let t := { u with hall := u.hall + r.durationMs * 1000000 }
      let done := exec (.powerUpStageComplete r) s
      (r.p7 = false →
        (s.rd CAL_BRINGUP.stage = 1 → u.preconditions = true → done = .next (t.wr CAL_BRINGUP.stage 2)) ∧
        (s.rd CAL_BRINGUP.stage = 1 → u.preconditions = false → done = .next u) ∧
        (s.rd CAL_BRINGUP.stage = 2 → s.rd SEC_STATUS.boot_state ≠ 3 → u.railsAllowed = true → done = .next (match t.bootSlot 0 with
          | some k =>
            let v := if k = t.firstSlot 0 then t else t.fault 0x3301 1 15 0 none none []
            let v := (v.wr SEC_VERSION.tfw_version (v.slotVersion 0 k)).extend 0 (v.slotDigest 0 k)
            (((v.wr SEC_STATUS.tfw_slot k).wr SEC_STATUS.boot_state 1).certifyAttest).wr CAL_BRINGUP.stage 3
          | none => (t.fault 0x3301 1 15 0 none none []).wr SEC_STATUS.boot_state 3)) ∧
        (s.rd CAL_BRINGUP.stage = 3 → u.railsAllowed = true → done = .next (t.wr CAL_BRINGUP.stage 4)) ∧
        (s.rd CAL_BRINGUP.stage = 2 ∨ s.rd CAL_BRINGUP.stage = 3 ∨ s.rd CAL_BRINGUP.stage = 4 → u.railsAllowed = false → done = .next u) ∧
        (s.rd CAL_BRINGUP.stage = 4 → u.railsAllowed = true → r.fieldsFailed = [] →
          done = .next ((t.wr CAL_BRINGUP.fields_off 0).wr CAL_BRINGUP.stage 5)) ∧
        (s.rd CAL_BRINGUP.stage = 6 → r.tileFails = [] → r.routerFails = [] → r.stackRates = [] →
          done = .next ((t.wr CAL_BRINGUP.bist_failed 0).wr CAL_BRINGUP.stage 7))) ∧
      (r.p7 = true → 3 ≤ s.rd CAL_BRINGUP.stage → s.rd CAL_BRINGUP.stage ≤ 7 → s.pins.p7 = false →
        let v := match t.bootSlot 1 with
          | some k => t.startRuntime k
          | none => ((t.wr SEC_STATUS.boot_state 4).fault 0x3302 5 15 0 none none []).moduleFault 0x3302
        let w := (v.loadConfig r).mgmtUp
        done = .next { w with pins := { w.pins with p7 := true } })) ∧
    (s.rd CAL_BRINGUP.stage = 7 → s.pins.p7 = true → s.on CMD_STATUS.runtime_up = true → s.on FLT_STATE.module_faulted = false → exec .powerGood s =
      .next { (s.wr CAL_BRINGUP.stage 8).wr CAL_BRINGUP.duration_ms ((s.hall - s.pins.requested) / 1000000) with
        pins := { s.pins with powerGood := true } }) ∧
    (s.pins.standby = true → s.pins.resetLow = false → ∃ t : State,
      t = (s.removeRails 0x3602 []).resetMeasured.wr CAL_BRINGUP.abort_stage 0xF ∧
        exec .moduleResetAssert s = .next { t with pins := { t.pins with resetLow := true } }) ∧
    (s.pins.standby = true → s.pins.resetLow = true → s.rd CAL_BRINGUP.stage = 0 → exec .moduleResetRelease s =
      .next { s.wr CAL_BRINGUP.stage 1 with pins := { s.pins with resetLow := false, requested := s.hall } }) ∧
    (∀ (i : SvcIface) (tag : Nat), s.pins.standby = true → (s.pins.replies.any fun r => r.1 == ifaceCode i) = false →
      exec (.serviceStatus i tag) s = .next { s with pins := { s.pins with replies := s.pins.replies ++ [(ifaceCode i, svcFrame 3 tag 0
        ([CAL_BRINGUP, PWR_STANDBY, THM_COOLANT, FLT_LOG_INDEX].flatMap fun a => leB 8 (s.reg a)))] } } ∧
      (∀ first count : Nat, exec (.serviceFaultLogRead i tag first count) s = .next { s with pins := { s.pins with
        replies := s.pins.replies ++ [(ifaceCode i, svcFrame 4 tag (s.readLog first count (if i = .uart then 127 else 7)).1
          (s.readLog first count (if i = .uart then 127 else 7)).2)] } }) ∧
      (∀ (ptag target addr off total : Nat) (data : Bytes), i = .uart → s.on CMD_STATUS.runtime_up = false → s.rd SEC_STATUS.boot_state = 1 →
        let answer (t : State) (b : Bytes) : State := { t with pins := { t.pins with replies := t.pins.replies ++ [(0, svcFrame 5 tag 0 b)] } }
        let h : Hdr := ⟨0, ptag, 0, 0, 0, false, 0, true, true⟩
        let q := s.takePart h 0x0906 off total data
        exec (.trustedRelay tag ptag 2 target addr off total data) s =
          .next { s with pins := { s.pins with replies := s.pins.replies ++ [(0, svcFrame 5 tag 0x0290 [])] } } ∧
        ((s.cmd.runtime.any fun r => r.op == 0x0906) = true →
          exec (.trustedRelay tag ptag 1 target addr off total data) s = .next (answer s (s.relayReply ptag 0x0290))) ∧
        ((s.cmd.runtime.any fun r => r.op == 0x0906) = false →
          (q.1 ≠ .refused → exec (.trustedRelay tag ptag 1 target addr off total data) s = .next (
            let t := q.2.stageBytes (addr + off) data
            answer t (t.relayReply ptag 0))) ∧
          (q.1 = .refused → exec (.trustedRelay tag ptag 1 target addr off total data) s =
            .next (answer q.2 (q.2.relayReply ptag 0x0190))))) ∧
      (∀ f : Bytes, frameOk i f = true → frameOpAssigned i (leAt f 1 1) = false → exec (.opcodeUnassigned f (some i)) s =
        .next { s with pins := { s.pins with
          replies := s.pins.replies ++ [(ifaceCode i, svcFrame (leAt f 1 1) (leAt f 2 1) 0x0103 [])] } })) ∧
    (∀ i : SvcIface, exec (.serviceFrameTimeout i) s = .next s) ∧
    (∀ x : TapInstr, s.pins.standby = true →
      let sel := tapSelect (s.rd SEC_STATUS.debug_level) x
      let wakes : Prop := s.clockStopped 11 = true ∧ s.cdc.through = false ∧ (s.crossing 11 0).stopped = false
      ((∀ n : Nat, sel ≠ .other n) ∨ (¬wakes ∧ s.passes 11 0 = true) →
        exec (.jtagInstruction x) s = .next { s with pins := { s.pins with tap := sel } }) ∧
      (∀ n : Nat, sel = .other n → wakes → exec (.jtagInstruction x) s = .next ((s.raiseWake 11 0).keep 11 0 (.jtagInstruction x))) ∧
      (∀ n : Nat, sel = .other n → ¬wakes → s.passes 11 0 = false →
        exec (.jtagInstruction x) s = .next (s.keep 11 0 (.jtagInstruction x))))

/-! ### Replies, fault records and teardown -/

/-- The free-area query answers a two-bit code for every position, four a byte from bit 0 upward, and PAR_FREE holds the totals. -/
def Obligations.FreeAreaMap : Prop :=
  ∀ (s : State) (h : Hdr), h.length = 0 → s.admits h 0x0208 true .none noCheck → ∃ m : Bytes,
    exec (.freeAreaQuery h) s = .next ((s.accepted h 0x0208).reply h 0x0208 0 (m ++ leB 6 0)) ∧ m.length = 882 ∧
    (let u := s.accepted h 0x0208
     (∀ t < 3528, (leAt m (t / 4) 1 / 4 ^ (t % 4)) % 4 =
        if u.unserved t then 2 else if (u.partOf t).isSome then 1 else if u.gated (tileField t) (tileRow t) then 3 else 0) ∧
     bits (u.readReg PAR_FREE) 0 12 = ((List.range 3528).filter u.unserved).length ∧
     bits (u.readReg PAR_FREE) 20 12 = ((List.range 3528).filter fun t => !u.unserved t && (u.partOf t).isNone).length ∧
     bits (u.readReg PAR_FREE) 32 12 = ((List.range 3528).filter fun t =>
       !u.unserved t && (u.partOf t).isNone && u.gated (tileField t) (tileRow t)).length)

/-- The device identity reply is the payload of Table 16-4, field by field. -/
def Obligations.DeviceIdentity : Prop :=
  ∀ (s : State) (h : Hdr), h.length = 0 → s.admits h 0x0001 true .none noCheck → ∃ b : Bytes,
    exec (.deviceIdentity h) s = .next ((s.accepted h 0x0001).reply h 0x0001 0 b) ∧ b.length = 64 ∧
    (let u := s.accepted h 0x0001
     slice b 0 16 = padTo 16 (ascii "KGW7-A48") ∧ leAt b 16 2 = 0x00B0 ∧ slice b 18 1 = ascii "A" ∧ leAt b 19 5 = 0 ∧
     leAt b 24 4 = u.rd SEC_VERSION.tfw_version ∧
     leAt b 28 4 = (if u.on CMD_STATUS.runtime_up then u.rd SEC_VERSION.rfw_version else 0) ∧
     leAt b 32 16 = Config.serialNumber.toNat ∧ leAt b 48 2 = ((List.range 3528).filter fun t => !u.unserved t).length ∧
     leAt b 50 2 = u.rd STK_PRESENT.present ∧ leAt b 52 12 = 0)

/-- A fault event carries its fault record on every channel that takes it with room, and the record is, field by field: the code, the class,
the detecting unit, the tick, and the detail where its layout is stated, for 0x2F01 the breach payload. Where the spec names what the detail of a
code holds and not its layout, 0x2901, 0x2A11, 0x2C01, 0x2C04, 0x2D05, 0x3106 and 0x3305, the layout is the model's (log 51), and so is the padding
with zeros; any other detail is free (log 6). -/
def Obligations.FaultRecords : Prop :=
  ∀ (s : State) (code cls space index : Nat) (detail : Bytes), code < 2 ^ 16 → cls < 2 ^ 8 → space < 2 ^ 8 → index < 2 ^ 32 →
    let b := (s.faultRecord code cls space index detail).1
    b.length = 32 ∧ leAt b 0 2 = code ∧ leAt b 2 1 = cls ∧ leAt b 3 1 = space ∧ leAt b 4 4 = index ∧ leAt b 8 8 = s.tick ∧
    (detailStated code = true → slice b 16 16 = padTo 16 detail) ∧
    (∀ (ctx part : Option Nat) (ch : Nat), ch < 8 → s.takesEvent ch 3 (some cls) = true →
      (if 2 ≤ cls then reservedPlaces (s.chan ch).queue < 64 else ordinaryPlaces (s.chan ch).queue < 960) →
      ∃ k : Packet, ((s.fault code cls space index ctx part detail).chan ch).queue = (s.chan ch).queue ++ [k] ∧ k.event = true ∧
        k.opcode = 3 ∧ k.payload = b) ∧
    ∀ tick lost cause resource part amount : Nat, (breachPayload tick lost cause resource part amount).length = 16 ∧
      slice (s.faultRecord 0x2F01 1 0 0 (breachPayload tick lost cause resource part amount)).1 16 16 =
        breachPayload tick lost cause resource part amount

/-- A fault-log read: below the oldest held index it completes with 0x0211, at or above the next with 0x0210, and else it returns the records
from the first index onward behind their prefix. The service connector reads the same log. -/
def Obligations.FaultLogReadOutcomes : Prop :=
  ∀ (s : State) (first count : Nat), 1 ≤ count →
    let next (t : State) : Nat := t.rd FLT_LOG_INDEX.next_index
    let oldest (t : State) : Nat := next t - t.faultLog.length
    let answer (t : State) : Bytes :=
      let l := (t.faultLog.drop (first - oldest t)).take count
      leB 8 first ++ leB 4 l.length ++ leB 4 0 ++ l.flatten
    (∀ h : Hdr, h.length = 16 → count ≤ 127 → s.admits h 0x0803 true .none noCheck →
      let u := s.accepted h 0x0803
      u.faultLog = s.faultLog ∧
      (first < oldest u → exec (.faultLogRead h first count) s = .next (u.reply h 0x0803 0x0211 [])) ∧
      (oldest u ≤ first → next u ≤ first → exec (.faultLogRead h first count) s = .next (u.reply h 0x0803 0x0210 [])) ∧
      (oldest u ≤ first → first < next u → exec (.faultLogRead h first count) s = .next (u.reply h 0x0803 0 (answer u)))) ∧
    (∀ (i : SvcIface) (tag : Nat), count ≤ (if i = .uart then 127 else 7) → s.pins.standby = true →
      (s.pins.replies.any fun r => r.1 == ifaceCode i) = false →
      let replied (status : Nat) (b : Bytes) : State :=
        { s with pins := { s.pins with replies := s.pins.replies ++ [(ifaceCode i, svcFrame 4 tag status b)] } }
      (first < oldest s → exec (.serviceFaultLogRead i tag first count) s = .next (replied 0x0211 [])) ∧
      (oldest s ≤ first → next s ≤ first → exec (.serviceFaultLogRead i tag first count) s = .next (replied 0x0210 [])) ∧
      (oldest s ≤ first → first < next s → exec (.serviceFaultLogRead i tag first count) s = .next (replied 0 (answer s))))

/-- A class 2 fault moves its context to TEARDOWN, with itself as the cause, and moves no other context; against a context already in
TEARDOWN the first cause stands. -/
def Obligations.ContextFaultTearsDownOne : Prop :=
  ∀ (s : State) (c code space index : Nat) (part : Option Nat) (detail : Bytes), s.Canon → c < 128 → code < 2 ^ 16 →
    let t := s.fault code 2 space index (some c) part detail
    (s.cst c ≠ stFree → s.cst c ≠ stTeardown → t.cst c = stTeardown ∧ t.rd (FLT_CTX_STATUS.cause_code c) = code ∧
      t.rd (FLT_CTX_STATUS.cause_class c) = 2) ∧
    (s.cst c = stTeardown → t.cst c = stTeardown ∧ t.rd (FLT_CTX_STATUS.cause_code c) = s.rd (FLT_CTX_STATUS.cause_code c)) ∧
    ∀ d < 128, d ≠ c → t.cst d = s.cst d

/-- A context created shows its configuration in its registers: RESIDENT, or EVICTED where an overlapping share is in tile memory, with its
retention at 60,000 ms and the counts of an earlier holder of its number at zero. -/
def Obligations.ContextCreateShows : Prop :=
  ∀ (s : State) (h : Hdr) (slot role base lines ex seed floor evict target report : Nat), s.Canon → h.context < 128 → h.partition < 32 →
    seed < 2 ^ 64 → evict < 2 ^ 40 →
    s.runs h (fwContextCreate h slot role base lines ex seed floor evict target report) (.contextCreate h slot role base lines ex seed floor evict target report) →
    let c := h.context
    let u := s.fwAccepted h 0x0204
    let clash := (u.partCtxs h.partition).any fun d => u.inTiles d &&
      overlap base lines (u.rd (PAR_CTX_CFG.share_base d)) (u.rd (PAR_CTX_CFG.share_lines d))
    ∃ t : State, exec (.contextCreate h slot role base lines ex seed floor evict target report) s = .next t ∧
      t.cst c = (if clash then stEvicted else stResident) ∧ t.cpart c = h.partition ∧ t.rd (PAR_CTX_CFG.slot c) = slot ∧
      t.rd (PAR_CTX_CFG.role c) = role ∧ t.rd (PAR_CTX_CFG.exclusive c) = ex ∧ t.rd (PAR_CTX_CFG.report_en c) = report ∧
      t.rd (PAR_CTX_CFG.share_base c) = base ∧ t.rd (PAR_CTX_CFG.share_lines c) = lines ∧
      t.rd (PAR_CTX_CFG.latency_target c) = target ∧ t.reg (PAR_CTX_SEED c) = seed ∧ t.rd (PAR_CTX_EVICT.evict_addr c) = evict ∧
      t.rd (PAR_CTX_CREDIT.floor c) = floor ∧ t.rd (CMD_RESULT_CFG.retention_ms c) = 60000 ∧ t.reg (CMD_RESULT_STATUS c) = 0
end

