-- ==== Sys2Proof/Laws/Kept.lean ====
section
/-! SUPPORT. A property of the machine that every operation keeps: what a step can do, said once. -/

set_option Elab.async false

namespace Sys2Proof.Machine

/-- A property of the module that looks at its registers, its byte memory and its queue alone, and that every register write keeps; where
`m` holds, also every byte stored, byte cleared, and the loss of the rails. -/
structure Kept (m : Prop) (P : State → Prop) : Prop where
  other : ∀ s t : State, t.regs = s.regs → t.mem = s.mem → t.pending = s.pending → P s → P t
  setReg : ∀ s a v, P s → P (s.setReg a v)
  wrB : m → ∀ s a v, P s → P (s.wrB a v)
  dropMem : m → ∀ s p, P s → P (s.clearMem p)
  dropRegs : ∀ (s : State) p, P s → P { s with regs := s.regs.filter p }
  bare : m → ∀ s t : State, t.regs = [] → t.mem = [] → t.pending = s.pending → P s → P t

theorem Kept.upd {m : Prop} {P : State → Prop} (hP : Kept m P) {s : State} {a1 a2 a3 a4 a5 a6 a7 a8 a9 a10 a11 a12 a13 a14 a15 a16 a17 a18 a19 a20 a21} (h : P s) :
    P (State.mk s.regs s.mem a1 a2 a3 a4 a5 a6 a7 a8 a9 a10 a11 a12 a13 a14 a15 a16 a17 a18 a19 a20 a21 s.pending) :=
  hP.other s _ rfl rfl rfl h

/-- What a command of the runtime firmware carries out, and what its refusal leaves besides, keep a property. -/
structure Fw.Keeps (P : State → Prop) (f : Fw) : Prop where
  act : ∀ b, P b → P (f.act b)
  onRefusal : ∀ n b, P b → P (f.onRefusal n b)

theorem ite_kept {P : State → Prop} {c : Prop} [Decidable c] {a b : State} (ha : P a) (hb : P b) : P (if c then a else b) := by
  split <;> assumption

theorem foldl_kept {α : Type} {P : State → Prop} {f : State → α → State} {l : List α} {s : State} (h : P s)
    (hf : ∀ s x, P s → P (f s x)) : P (l.foldl f s) := by
  induction l generalizing s with
  | nil => exact h
  | cons x t ih => exact ih (hf s x h)

theorem foldl_fst_kept {α β : Type} {P : State → Prop} {f : State × β → α → State × β} {l : List α} {s : State × β} (h : P s.1)
    (hf : ∀ s x, P s.1 → P (f s x).1) : P (l.foldl f s).1 := by
  induction l generalizing s with
  | nil => exact h
  | cons x t ih => exact ih (hf s x h)

theorem foldl_snd_kept {α β : Type} {P : State → Prop} {f : β × State → α → β × State} {l : List α} {s : β × State} (h : P s.2)
    (hf : ∀ s x, P s.2 → P (f s x).2) : P (l.foldl f s).2 := by
  induction l generalizing s with
  | nil => exact h
  | cons x t ih => exact ih (hf s x h)

end Sys2Proof.Machine
end

