-- ==== Sys2Proof/Laws/KeptUnits.lean ====
section
/-! SUPPORT. What every operation keeps, by unit: the command interface, shares, fabric ports, tile memories, on-wafer networks, and result rings. -/

set_option Elab.async false
set_option linter.unusedTactic false
set_option linter.unreachableTactic false

namespace Sys2Proof.Machine

/-! ### Ops -/

theorem State.wr_kept {m : Prop} {P : State → Prop} (hP : Kept m P) : ∀ s x2 x3, P s → P (State.wr s x2 x3) := by
  intros
  unfold State.wr
  repeat' (first
    | with_reducible assumption
    | intro _
    | with_reducible apply hP.setReg
    | with_reducible apply ite_kept (P := P)
    | with_reducible apply foldl_kept (P := P)
    | with_reducible apply foldl_fst_kept (P := P)
    | with_reducible apply foldl_snd_kept (P := P)
    | split
    | dsimp only
    | with_reducible apply hP.upd)

theorem State.inc_kept {m : Prop} {P : State → Prop} (hP : Kept m P) : ∀ s x2 x3, P s → P (State.inc s x2 x3) := by
  intros
  unfold State.inc
  repeat' (first
    | with_reducible assumption
    | intro _
    | with_reducible apply State.wr_kept hP
    | with_reducible apply ite_kept (P := P)
    | with_reducible apply foldl_kept (P := P)
    | with_reducible apply foldl_fst_kept (P := P)
    | with_reducible apply foldl_snd_kept (P := P)
    | split
    | dsimp only
    | with_reducible apply hP.upd)

theorem State.dec_kept {m : Prop} {P : State → Prop} (hP : Kept m P) : ∀ s x2 x3, P s → P (State.dec s x2 x3) := by
  intros
  unfold State.dec
  repeat' (first
    | with_reducible assumption
    | intro _
    | with_reducible apply State.wr_kept hP
    | with_reducible apply ite_kept (P := P)
    | with_reducible apply foldl_kept (P := P)
    | with_reducible apply foldl_fst_kept (P := P)
    | with_reducible apply foldl_snd_kept (P := P)
    | split
    | dsimp only
    | with_reducible apply hP.upd)

theorem State.wrBit_kept {m : Prop} {P : State → Prop} (hP : Kept m P) : ∀ s x2 x3 x4, P s → P (State.wrBit s x2 x3 x4) := by
  intros
  unfold State.wrBit
  repeat' (first
    | with_reducible assumption
    | intro _
    | with_reducible apply State.wr_kept hP
    | with_reducible apply ite_kept (P := P)
    | with_reducible apply foldl_kept (P := P)
    | with_reducible apply foldl_fst_kept (P := P)
    | with_reducible apply foldl_snd_kept (P := P)
    | split
    | dsimp only
    | with_reducible apply hP.upd)

theorem State.wrBytes_kept {P : State → Prop} (hP : Kept True P) : ∀ s a b, P s → P (State.wrBytes s a b) := by
  intro s a b h
  induction b generalizing s a with
  | nil => exact h
  | cons v t ih => exact ih _ _ (hP.wrB trivial _ _ _ h)

theorem State.free_kept {m : Prop} {P : State → Prop} (hP : Kept m P) : ∀ s x2, P s → P (State.free s x2).2 := by
  intros
  unfold State.free
  repeat' (first
    | with_reducible assumption
    | intro _
    | with_reducible apply ite_kept (P := P)
    | with_reducible apply foldl_kept (P := P)
    | with_reducible apply foldl_fst_kept (P := P)
    | with_reducible apply foldl_snd_kept (P := P)
    | split
    | dsimp only
    | with_reducible apply hP.upd)

theorem State.setChan_kept {m : Prop} {P : State → Prop} (hP : Kept m P) : ∀ s x2 x3, P s → P (State.setChan s x2 x3) := by
  intros
  unfold State.setChan
  repeat' (first
    | with_reducible assumption
    | intro _
    | with_reducible apply ite_kept (P := P)
    | with_reducible apply foldl_kept (P := P)
    | with_reducible apply foldl_fst_kept (P := P)
    | with_reducible apply foldl_snd_kept (P := P)
    | split
    | dsimp only
    | with_reducible apply hP.upd)

theorem State.setCtx_kept {m : Prop} {P : State → Prop} (hP : Kept m P) : ∀ s x2 x3, P s → P (State.setCtx s x2 x3) := by
  intros
  unfold State.setCtx
  repeat' (first
    | with_reducible assumption
    | intro _
    | with_reducible apply ite_kept (P := P)
    | with_reducible apply foldl_kept (P := P)
    | with_reducible apply foldl_fst_kept (P := P)
    | with_reducible apply foldl_snd_kept (P := P)
    | split
    | dsimp only
    | with_reducible apply hP.upd)

theorem State.modCtx_kept {m : Prop} {P : State → Prop} (hP : Kept m P) : ∀ s x2 x3, P s → P (State.modCtx s x2 x3) := by
  intros
  unfold State.modCtx
  repeat' (first
    | with_reducible assumption
    | intro _
    | with_reducible apply State.setCtx_kept hP
    | with_reducible apply ite_kept (P := P)
    | with_reducible apply foldl_kept (P := P)
    | with_reducible apply foldl_fst_kept (P := P)
    | with_reducible apply foldl_snd_kept (P := P)
    | split
    | dsimp only
    | with_reducible apply hP.upd)

theorem State.setPart_kept {m : Prop} {P : State → Prop} (hP : Kept m P) : ∀ s x2 x3, P s → P (State.setPart s x2 x3) := by
  intros
  unfold State.setPart
  repeat' (first
    | with_reducible assumption
    | intro _
    | with_reducible apply ite_kept (P := P)
    | with_reducible apply foldl_kept (P := P)
    | with_reducible apply foldl_fst_kept (P := P)
    | with_reducible apply foldl_snd_kept (P := P)
    | split
    | dsimp only
    | with_reducible apply hP.upd)

theorem State.modPart_kept {m : Prop} {P : State → Prop} (hP : Kept m P) : ∀ s x2 x3, P s → P (State.modPart s x2 x3) := by
  intros
  unfold State.modPart
  repeat' (first
    | with_reducible assumption
    | intro _
    | with_reducible apply State.setPart_kept hP
    | with_reducible apply ite_kept (P := P)
    | with_reducible apply foldl_kept (P := P)
    | with_reducible apply foldl_fst_kept (P := P)
    | with_reducible apply foldl_snd_kept (P := P)
    | split
    | dsimp only
    | with_reducible apply hP.upd)

theorem State.setEng_kept {m : Prop} {P : State → Prop} (hP : Kept m P) : ∀ s x2 x3 x4, P s → P (State.setEng s x2 x3 x4) := by
  intros
  unfold State.setEng
  repeat' (first
    | with_reducible assumption
    | intro _
    | with_reducible apply ite_kept (P := P)
    | with_reducible apply foldl_kept (P := P)
    | with_reducible apply foldl_fst_kept (P := P)
    | with_reducible apply foldl_snd_kept (P := P)
    | split
    | dsimp only
    | with_reducible apply hP.upd)

theorem State.modEng_kept {m : Prop} {P : State → Prop} (hP : Kept m P) : ∀ s x2 x3 x4, P s → P (State.modEng s x2 x3 x4) := by
  intros
  unfold State.modEng
  repeat' (first
    | with_reducible assumption
    | intro _
    | with_reducible apply State.setEng_kept hP
    | with_reducible apply ite_kept (P := P)
    | with_reducible apply foldl_kept (P := P)
    | with_reducible apply foldl_fst_kept (P := P)
    | with_reducible apply foldl_snd_kept (P := P)
    | split
    | dsimp only
    | with_reducible apply hP.upd)

theorem State.putReply_kept {m : Prop} {P : State → Prop} (hP : Kept m P) : ∀ s x2 x3 x4 x5 x6 x7 x8, P s → P (State.putReply s x2 x3 x4 x5 x6 x7 x8) := by
  intros
  unfold State.putReply
  repeat' (first
    | with_reducible assumption
    | intro _
    | with_reducible apply State.dec_kept hP
    | with_reducible apply State.setChan_kept hP
    | with_reducible apply ite_kept (P := P)
    | with_reducible apply foldl_kept (P := P)
    | with_reducible apply foldl_fst_kept (P := P)
    | with_reducible apply foldl_snd_kept (P := P)
    | split
    | dsimp only
    | with_reducible apply hP.upd)

theorem State.sendReply_kept {m : Prop} {P : State → Prop} (hP : Kept m P) : ∀ s x2 x3 x4 x5 x6 x7, P s → P (State.sendReply s x2 x3 x4 x5 x6 x7) := by
  intros
  unfold State.sendReply
  repeat' (first
    | with_reducible assumption
    | intro _
    | with_reducible apply State.putReply_kept hP
    | with_reducible apply ite_kept (P := P)
    | with_reducible apply foldl_kept (P := P)
    | with_reducible apply foldl_fst_kept (P := P)
    | with_reducible apply foldl_snd_kept (P := P)
    | split
    | dsimp only
    | with_reducible apply hP.upd)

theorem State.reply_kept {m : Prop} {P : State → Prop} (hP : Kept m P) : ∀ s x2 x3 x4 x5 x6, P s → P (State.reply s x2 x3 x4 x5 x6) := by
  intros
  unfold State.reply
  repeat' (first
    | with_reducible assumption
    | intro _
    | with_reducible apply State.putReply_kept hP
    | with_reducible apply ite_kept (P := P)
    | with_reducible apply foldl_kept (P := P)
    | with_reducible apply foldl_fst_kept (P := P)
    | with_reducible apply foldl_snd_kept (P := P)
    | split
    | dsimp only
    | with_reducible apply hP.upd)

theorem State.eventOn_kept {m : Prop} {P : State → Prop} (hP : Kept m P) : ∀ s x2 x3 x4 x5 x6 x7, P s → P (State.eventOn s x2 x3 x4 x5 x6 x7) := by
  intros
  unfold State.eventOn
  repeat' (first
    | with_reducible assumption
    | intro _
    | with_reducible apply State.inc_kept hP
    | with_reducible apply State.setChan_kept hP
    | with_reducible apply State.dec_kept hP
    | with_reducible apply ite_kept (P := P)
    | with_reducible apply foldl_kept (P := P)
    | with_reducible apply foldl_fst_kept (P := P)
    | with_reducible apply foldl_snd_kept (P := P)
    | split
    | dsimp only
    | with_reducible apply hP.upd)

theorem State.eventAs_kept {m : Prop} {P : State → Prop} (hP : Kept m P) : ∀ s x2 x3 x4 x5 x6 x7, P s → P (State.eventAs s x2 x3 x4 x5 x6 x7) := by
  intros
  unfold State.eventAs
  repeat' (first
    | with_reducible assumption
    | intro _
    | with_reducible apply State.eventOn_kept hP
    | with_reducible apply ite_kept (P := P)
    | with_reducible apply foldl_kept (P := P)
    | with_reducible apply foldl_fst_kept (P := P)
    | with_reducible apply foldl_snd_kept (P := P)
    | split
    | dsimp only
    | with_reducible apply hP.upd)

theorem State.event_kept {m : Prop} {P : State → Prop} (hP : Kept m P) : ∀ s x2 x3 x4 x5 x6, P s → P (State.event s x2 x3 x4 x5 x6) := by
  intros
  unfold State.event
  repeat' (first
    | with_reducible assumption
    | intro _
    | with_reducible apply State.eventAs_kept hP
    | with_reducible apply ite_kept (P := P)
    | with_reducible apply foldl_kept (P := P)
    | with_reducible apply foldl_fst_kept (P := P)
    | with_reducible apply foldl_snd_kept (P := P)
    | split
    | dsimp only
    | with_reducible apply hP.upd)

theorem State.completeBy_kept {m : Prop} {P : State → Prop} (hP : Kept m P) : ∀ s x2 x3 x4, P s → P (State.completeBy s x2 x3 x4) := by
  intros
  unfold State.completeBy
  repeat' (first
    | with_reducible assumption
    | intro _
    | with_reducible apply State.reply_kept hP
    | with_reducible apply State.event_kept hP
    | with_reducible apply ite_kept (P := P)
    | with_reducible apply foldl_kept (P := P)
    | with_reducible apply foldl_fst_kept (P := P)
    | with_reducible apply foldl_snd_kept (P := P)
    | split
    | dsimp only
    | with_reducible apply hP.upd)

theorem State.notice_kept {m : Prop} {P : State → Prop} (hP : Kept m P) : ∀ s x2 x3 x4 x5 x6, P s → P (State.notice s x2 x3 x4 x5 x6) := by
  intros
  unfold State.notice
  repeat' (first
    | with_reducible assumption
    | intro _
    | with_reducible apply State.event_kept hP
    | with_reducible apply ite_kept (P := P)
    | with_reducible apply foldl_kept (P := P)
    | with_reducible apply foldl_fst_kept (P := P)
    | with_reducible apply foldl_snd_kept (P := P)
    | split
    | dsimp only
    | with_reducible apply hP.upd)

theorem State.logFault_kept {m : Prop} {P : State → Prop} (hP : Kept m P) : ∀ s x2, P s → P (State.logFault s x2) := by
  intros
  unfold State.logFault
  repeat' (first
    | with_reducible assumption
    | intro _
    | with_reducible apply State.wr_kept hP
    | with_reducible apply State.inc_kept hP
    | with_reducible apply ite_kept (P := P)
    | with_reducible apply foldl_kept (P := P)
    | with_reducible apply foldl_fst_kept (P := P)
    | with_reducible apply foldl_snd_kept (P := P)
    | split
    | dsimp only
    | with_reducible apply hP.upd)

theorem State.faultRecord_kept {m : Prop} {P : State → Prop} (hP : Kept m P) : ∀ s x2 x3 x4 x5 x6, P s → P (State.faultRecord s x2 x3 x4 x5 x6).2 := by
  intros
  unfold State.faultRecord
  repeat' (first
    | with_reducible assumption
    | intro _
    | with_reducible apply State.free_kept hP
    | with_reducible apply ite_kept (P := P)
    | with_reducible apply foldl_kept (P := P)
    | with_reducible apply foldl_fst_kept (P := P)
    | with_reducible apply foldl_snd_kept (P := P)
    | split
    | dsimp only
    | with_reducible apply hP.upd)

theorem State.abandon_kept {m : Prop} {P : State → Prop} (hP : Kept m P) : ∀ s x2, P s → P (State.abandon s x2) := by
  intros
  unfold State.abandon
  repeat' (first
    | with_reducible assumption
    | intro _
    | with_reducible apply State.dec_kept hP
    | with_reducible apply State.wr_kept hP
    | with_reducible apply State.modCtx_kept hP
    | with_reducible apply ite_kept (P := P)
    | with_reducible apply foldl_kept (P := P)
    | with_reducible apply foldl_fst_kept (P := P)
    | with_reducible apply foldl_snd_kept (P := P)
    | split
    | dsimp only
    | with_reducible apply hP.upd)

theorem State.dropLines_kept {m : Prop} {P : State → Prop} (hP : Kept m P) : ∀ s x2, P s → P (State.dropLines s x2) := by
  intros
  unfold State.dropLines
  repeat' (first
    | with_reducible assumption
    | intro _
    | with_reducible apply ite_kept (P := P)
    | with_reducible apply foldl_kept (P := P)
    | with_reducible apply foldl_fst_kept (P := P)
    | with_reducible apply foldl_snd_kept (P := P)
    | split
    | dsimp only
    | with_reducible apply hP.upd)

theorem State.stopTile_kept {m : Prop} {P : State → Prop} (hP : Kept m P) : ∀ s x2, P s → P (State.stopTile s x2) := by
  intros
  unfold State.stopTile
  repeat' (first
    | with_reducible assumption
    | intro _
    | with_reducible apply State.wr_kept hP
    | with_reducible apply ite_kept (P := P)
    | with_reducible apply foldl_kept (P := P)
    | with_reducible apply foldl_fst_kept (P := P)
    | with_reducible apply foldl_snd_kept (P := P)
    | split
    | dsimp only
    | with_reducible apply hP.upd)

theorem State.tearDown_kept {m : Prop} {P : State → Prop} (hP : Kept m P) : ∀ s x2 x3 x4, P s → P (State.tearDown s x2 x3 x4) := by
  intros
  unfold State.tearDown
  repeat' (first
    | with_reducible assumption
    | intro _
    | with_reducible apply State.wr_kept hP
    | with_reducible apply State.stopTile_kept hP
    | with_reducible apply State.dropLines_kept hP
    | with_reducible apply State.modPart_kept hP
    | with_reducible apply State.abandon_kept hP
    | with_reducible apply ite_kept (P := P)
    | with_reducible apply foldl_kept (P := P)
    | with_reducible apply foldl_fst_kept (P := P)
    | with_reducible apply foldl_snd_kept (P := P)
    | split
    | dsimp only
    | with_reducible apply hP.upd)

theorem State.logClass_kept {m : Prop} {P : State → Prop} (hP : Kept m P) : ∀ s x2 x3, P s → P (State.logClass s x2 x3) := by
  intros
  unfold State.logClass
  repeat' (first
    | with_reducible assumption
    | intro _
    | with_reducible apply State.logFault_kept hP
    | with_reducible apply ite_kept (P := P)
    | with_reducible apply foldl_kept (P := P)
    | with_reducible apply foldl_fst_kept (P := P)
    | with_reducible apply foldl_snd_kept (P := P)
    | split
    | dsimp only
    | with_reducible apply hP.upd)

theorem State.reportFault_kept {m : Prop} {P : State → Prop} (hP : Kept m P) : ∀ s x2 x3 x4 x5 x6, P s → P (State.reportFault s x2 x3 x4 x5 x6) := by
  intros
  unfold State.reportFault
  repeat' (first
    | with_reducible assumption
    | intro _
    | with_reducible apply hP.setReg
    | with_reducible apply State.inc_kept hP
    | with_reducible apply State.event_kept hP
    | with_reducible apply State.tearDown_kept hP
    | with_reducible apply ite_kept (P := P)
    | with_reducible apply foldl_kept (P := P)
    | with_reducible apply foldl_fst_kept (P := P)
    | with_reducible apply foldl_snd_kept (P := P)
    | split
    | dsimp only
    | with_reducible apply hP.upd)

theorem State.fault_kept {m : Prop} {P : State → Prop} (hP : Kept m P) : ∀ s x2 x3 x4 x5 x6 x7 x8, P s → P (State.fault s x2 x3 x4 x5 x6 x7 x8) := by
  intros
  unfold State.fault
  repeat' (first
    | with_reducible assumption
    | intro _
    | with_reducible apply State.faultRecord_kept hP
    | with_reducible apply State.logClass_kept hP
    | with_reducible apply State.reportFault_kept hP
    | with_reducible apply ite_kept (P := P)
    | with_reducible apply foldl_kept (P := P)
    | with_reducible apply foldl_fst_kept (P := P)
    | with_reducible apply foldl_snd_kept (P := P)
    | split
    | dsimp only
    | with_reducible apply hP.upd)

theorem State.tileFault_kept {m : Prop} {P : State → Prop} (hP : Kept m P) : ∀ s x2 x3 x4, P s → P (State.tileFault s x2 x3 x4) := by
  intros
  unfold State.tileFault
  repeat' (first
    | with_reducible assumption
    | intro _
    | with_reducible apply State.fault_kept hP
    | with_reducible apply ite_kept (P := P)
    | with_reducible apply foldl_kept (P := P)
    | with_reducible apply foldl_fst_kept (P := P)
    | with_reducible apply foldl_snd_kept (P := P)
    | split
    | dsimp only
    | with_reducible apply hP.upd)

theorem State.loseFields_kept {m : Prop} {P : State → Prop} (hP : Kept m P) : ∀ s x2 x3, P s → P (State.loseFields s x2 x3) := by
  intros
  unfold State.loseFields
  repeat' (first
    | with_reducible assumption
    | intro _
    | with_reducible apply State.wrBit_kept hP
    | with_reducible apply State.tearDown_kept hP
    | with_reducible apply ite_kept (P := P)
    | with_reducible apply foldl_kept (P := P)
    | with_reducible apply foldl_fst_kept (P := P)
    | with_reducible apply foldl_snd_kept (P := P)
    | split
    | dsimp only
    | with_reducible apply hP.upd)

theorem State.moduleFault_kept {m : Prop} {P : State → Prop} (hP : Kept m P) : ∀ s x2, P s → P (State.moduleFault s x2) := by
  intros
  unfold State.moduleFault
  repeat' (first
    | with_reducible assumption
    | intro _
    | with_reducible apply State.wr_kept hP
    | with_reducible apply State.tearDown_kept hP
    | with_reducible apply ite_kept (P := P)
    | with_reducible apply foldl_kept (P := P)
    | with_reducible apply foldl_fst_kept (P := P)
    | with_reducible apply foldl_snd_kept (P := P)
    | split
    | dsimp only
    | with_reducible apply hP.upd)

theorem State.breach_kept {m : Prop} {P : State → Prop} (hP : Kept m P) : ∀ s x2 x3 x4 x5 x6, P s → P (State.breach s x2 x3 x4 x5 x6) := by
  intros
  unfold State.breach
  repeat' (first
    | with_reducible assumption
    | intro _
    | with_reducible apply State.wr_kept hP
    | with_reducible apply State.inc_kept hP
    | with_reducible apply State.fault_kept hP
    | with_reducible apply ite_kept (P := P)
    | with_reducible apply foldl_kept (P := P)
    | with_reducible apply foldl_fst_kept (P := P)
    | with_reducible apply foldl_snd_kept (P := P)
    | split
    | dsimp only
    | with_reducible apply hP.upd)

theorem State.markBad_kept {m : Prop} {P : State → Prop} (hP : Kept m P) : ∀ s x2 x3 x4 x5, P s → P (State.markBad s x2 x3 x4 x5) := by
  intros
  unfold State.markBad
  repeat' (first
    | with_reducible assumption
    | intro _
    | with_reducible apply State.wrBit_kept hP
    | with_reducible apply State.fault_kept hP
    | with_reducible apply ite_kept (P := P)
    | with_reducible apply foldl_kept (P := P)
    | with_reducible apply foldl_fst_kept (P := P)
    | with_reducible apply foldl_snd_kept (P := P)
    | split
    | dsimp only
    | with_reducible apply hP.upd)

/-! ### Cross -/

theorem State.showCrossing_kept {m : Prop} {P : State → Prop} (hP : Kept m P) : ∀ s x2, P s → P (State.showCrossing s x2) := by
  intros
  unfold State.showCrossing
  repeat' (first
    | with_reducible assumption
    | intro _
    | with_reducible apply State.wrBit_kept hP
    | with_reducible apply ite_kept (P := P)
    | with_reducible apply foldl_kept (P := P)
    | with_reducible apply foldl_fst_kept (P := P)
    | with_reducible apply foldl_snd_kept (P := P)
    | split
    | dsimp only
    | with_reducible apply hP.upd)

theorem State.setCrossing_kept {m : Prop} {P : State → Prop} (hP : Kept m P) : ∀ s x2, P s → P (State.setCrossing s x2) := by
  intros
  unfold State.setCrossing
  repeat' (first
    | with_reducible assumption
    | intro _
    | with_reducible apply State.showCrossing_kept hP
    | with_reducible apply ite_kept (P := P)
    | with_reducible apply foldl_kept (P := P)
    | with_reducible apply foldl_fst_kept (P := P)
    | with_reducible apply foldl_snd_kept (P := P)
    | split
    | dsimp only
    | with_reducible apply hP.upd)

theorem State.keep_kept {m : Prop} {P : State → Prop} (hP : Kept m P) : ∀ s x2 x3 x4, P s → P (State.keep s x2 x3 x4) := by
  intros
  unfold State.keep
  repeat' (first
    | with_reducible assumption
    | intro _
    | with_reducible apply State.setCrossing_kept hP
    | with_reducible apply ite_kept (P := P)
    | with_reducible apply foldl_kept (P := P)
    | with_reducible apply foldl_fst_kept (P := P)
    | with_reducible apply foldl_snd_kept (P := P)
    | split
    | dsimp only
    | with_reducible apply hP.upd)

theorem State.raiseWake_kept {m : Prop} {P : State → Prop} (hP : Kept m P) : ∀ s x2 x3, P s → P (State.raiseWake s x2 x3) := by
  intros
  unfold State.raiseWake
  repeat' (first
    | with_reducible assumption
    | intro _
    | with_reducible apply State.setCrossing_kept hP
    | with_reducible apply State.inc_kept hP
    | with_reducible apply ite_kept (P := P)
    | with_reducible apply foldl_kept (P := P)
    | with_reducible apply foldl_fst_kept (P := P)
    | with_reducible apply foldl_snd_kept (P := P)
    | split
    | dsimp only
    | with_reducible apply hP.upd)

theorem State.wakeLink_kept {m : Prop} {P : State → Prop} (hP : Kept m P) : ∀ s, P s → P (State.wakeLink s) := by
  intros
  unfold State.wakeLink
  repeat' (first
    | with_reducible assumption
    | intro _
    | with_reducible apply State.raiseWake_kept hP
    | with_reducible apply ite_kept (P := P)
    | with_reducible apply foldl_kept (P := P)
    | with_reducible apply foldl_fst_kept (P := P)
    | with_reducible apply foldl_snd_kept (P := P)
    | split
    | dsimp only
    | with_reducible apply hP.upd)

theorem State.holdPacket_kept {m : Prop} {P : State → Prop} (hP : Kept m P) : ∀ s x2, P s → P (State.holdPacket s x2) := by
  intros
  unfold State.holdPacket
  repeat' (first
    | with_reducible assumption
    | intro _
    | with_reducible apply State.wakeLink_kept hP
    | with_reducible apply State.keep_kept hP
    | with_reducible apply ite_kept (P := P)
    | with_reducible apply foldl_kept (P := P)
    | with_reducible apply foldl_fst_kept (P := P)
    | with_reducible apply foldl_snd_kept (P := P)
    | split
    | dsimp only
    | with_reducible apply hP.upd)

theorem State.release_kept {m : Prop} {P : State → Prop} (hP : Kept m P) : ∀ s x2, P s → P (State.release s x2) := by
  intros
  unfold State.release
  repeat' (first
    | with_reducible assumption
    | intro _
    | with_reducible apply State.setCrossing_kept hP
    | with_reducible apply ite_kept (P := P)
    | with_reducible apply foldl_kept (P := P)
    | with_reducible apply foldl_fst_kept (P := P)
    | with_reducible apply foldl_snd_kept (P := P)
    | split
    | dsimp only
    | with_reducible apply hP.upd)

theorem State.delivered_kept {m : Prop} {P : State → Prop} (hP : Kept m P) : ∀ s, P s → P (State.delivered s) := by
  intros
  unfold State.delivered
  repeat' (first
    | with_reducible assumption
    | intro _
    | with_reducible apply ite_kept (P := P)
    | with_reducible apply foldl_kept (P := P)
    | with_reducible apply foldl_fst_kept (P := P)
    | with_reducible apply foldl_snd_kept (P := P)
    | split
    | dsimp only
    | with_reducible apply hP.upd)

/-! ### Cmd -/

theorem State.arrive_kept {m : Prop} {P : State → Prop} (hP : Kept m P) : ∀ s x2, P s → P (State.arrive s x2) := by
  intros
  unfold State.arrive
  repeat' (first
    | with_reducible assumption
    | intro _
    | with_reducible apply State.inc_kept hP
    | with_reducible apply ite_kept (P := P)
    | with_reducible apply foldl_kept (P := P)
    | with_reducible apply foldl_fst_kept (P := P)
    | with_reducible apply foldl_snd_kept (P := P)
    | split
    | dsimp only
    | with_reducible apply hP.upd)

theorem State.takeCredit_kept {m : Prop} {P : State → Prop} (hP : Kept m P) : ∀ s x2, P s → P (State.takeCredit s x2) := by
  intros
  unfold State.takeCredit
  repeat' (first
    | with_reducible assumption
    | intro _
    | with_reducible apply State.wr_kept hP
    | with_reducible apply ite_kept (P := P)
    | with_reducible apply foldl_kept (P := P)
    | with_reducible apply foldl_fst_kept (P := P)
    | with_reducible apply foldl_snd_kept (P := P)
    | split
    | dsimp only
    | with_reducible apply hP.upd)

theorem State.refuse_kept {m : Prop} {P : State → Prop} (hP : Kept m P) : ∀ s x2 x3 x4, P s → P (State.refuse s x2 x3 x4) := by
  intros
  unfold State.refuse
  repeat' (first
    | with_reducible assumption
    | intro _
    | with_reducible apply State.inc_kept hP
    | with_reducible apply State.sendReply_kept hP
    | with_reducible apply ite_kept (P := P)
    | with_reducible apply foldl_kept (P := P)
    | with_reducible apply foldl_fst_kept (P := P)
    | with_reducible apply foldl_snd_kept (P := P)
    | split
    | dsimp only
    | with_reducible apply hP.upd)

theorem State.accept_kept {m : Prop} {P : State → Prop} (hP : Kept m P) : ∀ s x2 x3, P s → P (State.accept s x2 x3) := by
  intros
  unfold State.accept
  repeat' (first
    | with_reducible assumption
    | intro _
    | with_reducible apply State.inc_kept hP
    | with_reducible apply State.setChan_kept hP
    | with_reducible apply ite_kept (P := P)
    | with_reducible apply foldl_kept (P := P)
    | with_reducible apply foldl_fst_kept (P := P)
    | with_reducible apply foldl_snd_kept (P := P)
    | split
    | dsimp only
    | with_reducible apply hP.upd)

theorem State.command_kept {m : Prop} {P : State → Prop} (hP : Kept m P) : ∀ s cmd h op (lenOk : Bool) sc (param : State → Nat) (effect : State → State),
    (∀ s, P s → P (effect s)) → P s → P (State.command s cmd h op lenOk sc param effect) := by
  intro s cmd h op lenOk sc param effect he hs
  have h1 := State.arrive_kept hP s h hs
  have h2 := State.takeCredit_kept hP _ h h1
  unfold State.command
  exact ite_kept (P := P) hs (ite_kept (P := P) (State.holdPacket_kept hP _ _ hs) (ite_kept (P := P) (State.wr_kept hP _ _ _ h1)
    (ite_kept (P := P) (State.refuse_kept hP _ _ _ _ h2) (ite_kept (P := P) (State.refuse_kept hP _ _ _ _ h2)
      (he _ (State.accept_kept hP _ _ _ h2))))))

theorem State.wakeFor_kept {m : Prop} {P : State → Prop} (hP : Kept m P) : ∀ s x2 x3, P s → P (State.wakeFor s x2 x3) := by
  intros
  unfold State.wakeFor
  repeat' (first
    | with_reducible assumption
    | intro _
    | with_reducible apply State.inc_kept hP
    | with_reducible apply State.raiseWake_kept hP
    | with_reducible apply ite_kept (P := P)
    | with_reducible apply foldl_kept (P := P)
    | with_reducible apply foldl_fst_kept (P := P)
    | with_reducible apply foldl_snd_kept (P := P)
    | split
    | dsimp only
    | with_reducible apply hP.upd)

theorem State.fwCommand_kept {m : Prop} {P : State → Prop} (hP : Kept m P) : ∀ s h (f : Fw) cmd,
    P s → f.Keeps P → P (State.fwCommand s h f cmd) := by
  intro s h f cmd hs hf
  have h1 := State.arrive_kept hP s h hs
  have h2 := State.takeCredit_kept hP _ h h1
  have h3 := State.accept_kept hP _ h f.op h2
  have h4 (w) := State.accept_kept hP _ h f.op (State.wakeFor_kept hP _ f.op w h2)
  unfold State.fwCommand
  exact ite_kept (P := P) hs (ite_kept (P := P) (State.holdPacket_kept hP _ _ hs) (ite_kept (P := P) (State.wr_kept hP _ _ _ h1)
    (ite_kept (P := P) (State.refuse_kept hP _ _ _ _ h2) (ite_kept (P := P) (State.reply_kept hP _ _ _ _ _ _ h3)
      (ite_kept (P := P) (State.refuse_kept hP _ _ _ _ h2) (ite_kept (P := P) (State.refuse_kept hP _ _ _ _ (hf.onRefusal _ _ h2))
        (ite_kept (P := P) (hf.act _ (h4 true)) (hP.upd (State.reply_kept hP _ _ _ _ _ _ (h4 false))))))))))

theorem State.stage_kept {m : Prop} {P : State → Prop} (hP : Kept m P) : ∀ s x2 x3 x4, P s → P (State.stage s x2 x3 x4) := by
  intros
  unfold State.stage
  repeat' (first
    | with_reducible assumption
    | intro _
    | with_reducible apply State.reply_kept hP
    | with_reducible apply ite_kept (P := P)
    | with_reducible apply foldl_kept (P := P)
    | with_reducible apply foldl_fst_kept (P := P)
    | with_reducible apply foldl_snd_kept (P := P)
    | split
    | dsimp only
    | with_reducible apply hP.upd)

theorem execDeviceIdentity_kept {m : Prop} {P : State → Prop} (hP : Kept m P) : ∀ x1 s, P s → ∀ t, execDeviceIdentity x1 s = .next t → P t := by
  intros
  rename_i e
  unfold execDeviceIdentity at e
  cases e
  repeat' (first
    | with_reducible assumption
    | intro _
    | with_reducible apply State.command_kept hP
    | with_reducible apply State.reply_kept hP
    | with_reducible apply ite_kept (P := P)
    | with_reducible apply foldl_kept (P := P)
    | with_reducible apply foldl_fst_kept (P := P)
    | with_reducible apply foldl_snd_kept (P := P)
    | split
    | dsimp only
    | with_reducible apply hP.upd)

theorem execEcho_kept {m : Prop} {P : State → Prop} (hP : Kept m P) : ∀ x1 x2 s, P s → ∀ t, execEcho x1 x2 s = .next t → P t := by
  intros
  rename_i e
  unfold execEcho at e
  cases e
  repeat' (first
    | with_reducible assumption
    | intro _
    | with_reducible apply State.command_kept hP
    | with_reducible apply State.reply_kept hP
    | with_reducible apply ite_kept (P := P)
    | with_reducible apply foldl_kept (P := P)
    | with_reducible apply foldl_fst_kept (P := P)
    | with_reducible apply foldl_snd_kept (P := P)
    | split
    | dsimp only
    | with_reducible apply hP.upd)

theorem State.badPacket_kept {m : Prop} {P : State → Prop} (hP : Kept m P) : ∀ s x2, P s → P (State.badPacket s x2) := by
  intros
  unfold State.badPacket
  repeat' (first
    | with_reducible assumption
    | intro _
    | with_reducible apply State.holdPacket_kept hP
    | with_reducible apply State.arrive_kept hP
    | with_reducible apply State.wr_kept hP
    | with_reducible apply State.takeCredit_kept hP
    | with_reducible apply State.inc_kept hP
    | with_reducible apply State.setChan_kept hP
    | with_reducible apply State.refuse_kept hP
    | with_reducible apply ite_kept (P := P)
    | with_reducible apply foldl_kept (P := P)
    | with_reducible apply foldl_fst_kept (P := P)
    | with_reducible apply foldl_snd_kept (P := P)
    | split
    | dsimp only
    | with_reducible apply hP.upd)

theorem secCount_kept {m : Prop} {P : State → Prop} (hP : Kept m P) : ∀ x1 s, P s → P (secCount x1 s) := by
  intros
  unfold secCount
  repeat' (first
    | with_reducible assumption
    | intro _
    | with_reducible apply State.inc_kept hP
    | with_reducible apply ite_kept (P := P)
    | with_reducible apply foldl_kept (P := P)
    | with_reducible apply foldl_fst_kept (P := P)
    | with_reducible apply foldl_snd_kept (P := P)
    | split
    | dsimp only
    | with_reducible apply hP.upd)

theorem State.failPacket_kept {m : Prop} {P : State → Prop} (hP : Kept m P) : ∀ s x2, P s → P (State.failPacket s x2) := by
  intros
  unfold State.failPacket
  repeat' (first
    | with_reducible assumption
    | intro _
    | with_reducible apply State.arrive_kept hP
    | with_reducible apply State.wr_kept hP
    | with_reducible apply State.takeCredit_kept hP
    | with_reducible apply State.refuse_kept hP
    | with_reducible apply ite_kept (P := P)
    | with_reducible apply foldl_kept (P := P)
    | with_reducible apply foldl_fst_kept (P := P)
    | with_reducible apply foldl_snd_kept (P := P)
    | split
    | dsimp only
    | with_reducible apply hP.upd)

theorem State.expire_kept {m : Prop} {P : State → Prop} (hP : Kept m P) : ∀ s x2 x3, P s → P (State.expire s x2 x3) := by
  intros
  unfold State.expire
  repeat' (first
    | with_reducible assumption
    | intro _
    | with_reducible apply State.reply_kept hP
    | with_reducible apply ite_kept (P := P)
    | with_reducible apply foldl_kept (P := P)
    | with_reducible apply foldl_fst_kept (P := P)
    | with_reducible apply foldl_snd_kept (P := P)
    | split
    | dsimp only
    | with_reducible apply hP.upd)

theorem State.tellLost_kept {m : Prop} {P : State → Prop} (hP : Kept m P) : ∀ s x2, P s → P (State.tellLost s x2) := by
  intros
  unfold State.tellLost
  repeat' (first
    | with_reducible assumption
    | intro _
    | with_reducible apply State.setChan_kept hP
    | with_reducible apply State.eventOn_kept hP
    | with_reducible apply ite_kept (P := P)
    | with_reducible apply foldl_kept (P := P)
    | with_reducible apply foldl_fst_kept (P := P)
    | with_reducible apply foldl_snd_kept (P := P)
    | split
    | dsimp only
    | with_reducible apply hP.upd)

theorem State.drain_kept {m : Prop} {P : State → Prop} (hP : Kept m P) : ∀ s x2, P s → P (State.drain s x2) := by
  intros
  unfold State.drain
  repeat' (first
    | with_reducible assumption
    | intro _
    | with_reducible apply State.setChan_kept hP
    | with_reducible apply State.tellLost_kept hP
    | with_reducible apply ite_kept (P := P)
    | with_reducible apply foldl_kept (P := P)
    | with_reducible apply foldl_fst_kept (P := P)
    | with_reducible apply foldl_snd_kept (P := P)
    | split
    | dsimp only
    | with_reducible apply hP.upd)

theorem State.idle_kept {m : Prop} {P : State → Prop} (hP : Kept m P) : ∀ s, P s → P (State.idle s) := by
  intros
  unfold State.idle
  repeat' (first
    | with_reducible assumption
    | intro _
    | with_reducible apply State.wakeLink_kept hP
    | with_reducible apply State.drain_kept hP
    | with_reducible apply ite_kept (P := P)
    | with_reducible apply foldl_kept (P := P)
    | with_reducible apply foldl_fst_kept (P := P)
    | with_reducible apply foldl_snd_kept (P := P)
    | split
    | dsimp only
    | with_reducible apply hP.upd)

theorem State.returnTimeout_kept {m : Prop} {P : State → Prop} (hP : Kept m P) : ∀ s x2, P s → P (State.returnTimeout s x2) := by
  intros
  unfold State.returnTimeout
  repeat' (first
    | with_reducible assumption
    | intro _
    | with_reducible apply State.event_kept hP
    | with_reducible apply State.wrBit_kept hP
    | with_reducible apply State.inc_kept hP
    | with_reducible apply State.setChan_kept hP
    | with_reducible apply State.tellLost_kept hP
    | with_reducible apply ite_kept (P := P)
    | with_reducible apply foldl_kept (P := P)
    | with_reducible apply foldl_fst_kept (P := P)
    | with_reducible apply foldl_snd_kept (P := P)
    | split
    | dsimp only
    | with_reducible apply hP.upd)

theorem execReturnTimeout_kept {m : Prop} {P : State → Prop} (hP : Kept m P) : ∀ x1 s, P s → ∀ t, execReturnTimeout x1 s = .next t → P t := by
  intros
  rename_i e
  unfold execReturnTimeout at e
  cases e
  repeat' (first
    | with_reducible assumption
    | intro _
    | with_reducible apply State.returnTimeout_kept hP
    | with_reducible apply ite_kept (P := P)
    | with_reducible apply foldl_kept (P := P)
    | with_reducible apply foldl_fst_kept (P := P)
    | with_reducible apply foldl_snd_kept (P := P)
    | split
    | dsimp only
    | with_reducible apply hP.upd)

theorem State.linkAccepts_kept {m : Prop} {P : State → Prop} (hP : Kept m P) : ∀ s x2, P s → P (State.linkAccepts s x2) := by
  intros
  unfold State.linkAccepts
  repeat' (first
    | with_reducible assumption
    | intro _
    | with_reducible apply State.wrBit_kept hP
    | with_reducible apply State.tellLost_kept hP
    | with_reducible apply State.drain_kept hP
    | with_reducible apply ite_kept (P := P)
    | with_reducible apply foldl_kept (P := P)
    | with_reducible apply foldl_fst_kept (P := P)
    | with_reducible apply foldl_snd_kept (P := P)
    | split
    | dsimp only
    | with_reducible apply hP.upd)

theorem execLinkAcceptsAgain_kept {m : Prop} {P : State → Prop} (hP : Kept m P) : ∀ x1 s, P s → ∀ t, execLinkAcceptsAgain x1 s = .next t → P t := by
  intros
  rename_i e
  unfold execLinkAcceptsAgain at e
  cases e
  repeat' (first
    | with_reducible assumption
    | intro _
    | with_reducible apply State.linkAccepts_kept hP
    | with_reducible apply ite_kept (P := P)
    | with_reducible apply foldl_kept (P := P)
    | with_reducible apply foldl_fst_kept (P := P)
    | with_reducible apply foldl_snd_kept (P := P)
    | split
    | dsimp only
    | with_reducible apply hP.upd)

theorem execLinkLowPowerEntry_kept {m : Prop} {P : State → Prop} (hP : Kept m P) : ∀ s, P s → ∀ t, execLinkLowPowerEntry s = .next t → P t := by
  intros
  rename_i e
  unfold execLinkLowPowerEntry at e
  cases e
  repeat' (first
    | with_reducible assumption
    | intro _
    | with_reducible apply ite_kept (P := P)
    | with_reducible apply foldl_kept (P := P)
    | with_reducible apply foldl_fst_kept (P := P)
    | with_reducible apply foldl_snd_kept (P := P)
    | split
    | dsimp only
    | with_reducible apply hP.upd)

theorem State.relayConnect_kept {m : Prop} {P : State → Prop} (hP : Kept m P) : ∀ s x2 x3, P s → P (State.relayConnect s x2 x3) := by
  intros
  unfold State.relayConnect
  repeat' (first
    | with_reducible assumption
    | intro _
    | with_reducible apply State.wrBit_kept hP
    | with_reducible apply State.inc_kept hP
    | with_reducible apply ite_kept (P := P)
    | with_reducible apply foldl_kept (P := P)
    | with_reducible apply foldl_fst_kept (P := P)
    | with_reducible apply foldl_snd_kept (P := P)
    | split
    | dsimp only
    | with_reducible apply hP.upd)

theorem execRelayConnection_kept {m : Prop} {P : State → Prop} (hP : Kept m P) : ∀ x1 x2 s, P s → ∀ t, execRelayConnection x1 x2 s = .next t → P t := by
  intros
  rename_i e
  unfold execRelayConnection at e
  cases e
  repeat' (first
    | with_reducible assumption
    | intro _
    | with_reducible apply State.relayConnect_kept hP
    | with_reducible apply ite_kept (P := P)
    | with_reducible apply foldl_kept (P := P)
    | with_reducible apply foldl_fst_kept (P := P)
    | with_reducible apply foldl_snd_kept (P := P)
    | split
    | dsimp only
    | with_reducible apply hP.upd)

theorem State.relayEnd_kept {m : Prop} {P : State → Prop} (hP : Kept m P) : ∀ s x2 x3 x4, P s → P (State.relayEnd s x2 x3 x4) := by
  intros
  unfold State.relayEnd
  repeat' (first
    | with_reducible assumption
    | intro _
    | with_reducible apply State.wrBit_kept hP
    | with_reducible apply State.inc_kept hP
    | with_reducible apply ite_kept (P := P)
    | with_reducible apply foldl_kept (P := P)
    | with_reducible apply foldl_fst_kept (P := P)
    | with_reducible apply foldl_snd_kept (P := P)
    | split
    | dsimp only
    | with_reducible apply hP.upd)

theorem execRelayConnectionEnd_kept {m : Prop} {P : State → Prop} (hP : Kept m P) : ∀ x1 x2 x3 s, P s → ∀ t, execRelayConnectionEnd x1 x2 x3 s = .next t → P t := by
  intros
  rename_i e
  unfold execRelayConnectionEnd at e
  cases e
  repeat' (first
    | with_reducible assumption
    | intro _
    | with_reducible apply State.relayEnd_kept hP
    | with_reducible apply ite_kept (P := P)
    | with_reducible apply foldl_kept (P := P)
    | with_reducible apply foldl_fst_kept (P := P)
    | with_reducible apply foldl_snd_kept (P := P)
    | split
    | dsimp only
    | with_reducible apply hP.upd)

/-! ### Underlay -/

theorem State.count_kept {m : Prop} {P : State → Prop} (hP : Kept m P) : ∀ s x2 x3 x4, P s → P (State.count s x2 x3 x4) := by
  intros
  unfold State.count
  repeat' (first
    | with_reducible assumption
    | intro _
    | with_reducible apply State.inc_kept hP
    | with_reducible apply ite_kept (P := P)
    | with_reducible apply foldl_kept (P := P)
    | with_reducible apply foldl_fst_kept (P := P)
    | with_reducible apply foldl_snd_kept (P := P)
    | split
    | dsimp only
    | with_reducible apply hP.upd)

theorem State.stir_kept {m : Prop} {P : State → Prop} (hP : Kept m P) : ∀ s x2, P s → P (State.stir s x2) := by
  intros
  unfold State.stir
  repeat' (first
    | with_reducible assumption
    | intro _
    | with_reducible apply ite_kept (P := P)
    | with_reducible apply foldl_kept (P := P)
    | with_reducible apply foldl_fst_kept (P := P)
    | with_reducible apply foldl_snd_kept (P := P)
    | split
    | dsimp only
    | with_reducible apply hP.upd)

theorem State.contends_kept {m : Prop} {P : State → Prop} (hP : Kept m P) : ∀ s x2 x3, P s → P (State.contends s x2 x3) := by
  intros
  unfold State.contends
  repeat' (first
    | with_reducible assumption
    | intro _
    | with_reducible apply State.stir_kept hP
    | with_reducible apply ite_kept (P := P)
    | with_reducible apply foldl_kept (P := P)
    | with_reducible apply foldl_fst_kept (P := P)
    | with_reducible apply foldl_snd_kept (P := P)
    | split
    | dsimp only
    | with_reducible apply hP.upd)

theorem State.underlay_kept {m : Prop} {P : State → Prop} (hP : Kept m P) : ∀ s x2 x3 x4 x5, P s → P (State.underlay s x2 x3 x4 x5) := by
  intros
  unfold State.underlay
  repeat' (first
    | with_reducible assumption
    | intro _
    | with_reducible apply State.inc_kept hP
    | with_reducible apply State.stir_kept hP
    | with_reducible apply ite_kept (P := P)
    | with_reducible apply foldl_kept (P := P)
    | with_reducible apply foldl_fst_kept (P := P)
    | with_reducible apply foldl_snd_kept (P := P)
    | split
    | dsimp only
    | with_reducible apply hP.upd)

/-! ### Share -/

theorem State.clearShareIn_kept {P : State → Prop} (hP : Kept True P) : ∀ s x2 x3 x4, P s → P (State.clearShareIn s x2 x3 x4) := by
  intros
  unfold State.clearShareIn
  repeat' (first
    | with_reducible assumption
    | intro _
    | with_reducible apply (hP.dropMem trivial)
    | with_reducible apply ite_kept (P := P)
    | with_reducible apply foldl_kept (P := P)
    | with_reducible apply foldl_fst_kept (P := P)
    | with_reducible apply foldl_snd_kept (P := P)
    | split
    | dsimp only
    | with_reducible apply hP.upd)

theorem State.clearEngineRegs_kept {m : Prop} {P : State → Prop} (hP : Kept m P) : ∀ s x2, P s → P (State.clearEngineRegs s x2) := by
  intros
  unfold State.clearEngineRegs
  repeat' (first
    | with_reducible assumption
    | intro _
    | with_reducible apply hP.setReg
    | with_reducible apply ite_kept (P := P)
    | with_reducible apply foldl_kept (P := P)
    | with_reducible apply foldl_fst_kept (P := P)
    | with_reducible apply foldl_snd_kept (P := P)
    | split
    | dsimp only
    | with_reducible apply hP.upd)

theorem State.showDraining_kept {m : Prop} {P : State → Prop} (hP : Kept m P) : ∀ s x2, P s → P (State.showDraining s x2) := by
  intros
  unfold State.showDraining
  repeat' (first
    | with_reducible assumption
    | intro _
    | with_reducible apply State.wr_kept hP
    | with_reducible apply ite_kept (P := P)
    | with_reducible apply foldl_kept (P := P)
    | with_reducible apply foldl_fst_kept (P := P)
    | with_reducible apply foldl_snd_kept (P := P)
    | split
    | dsimp only
    | with_reducible apply hP.upd)

theorem State.takeCredits_kept {m : Prop} {P : State → Prop} (hP : Kept m P) : ∀ s x2 x3, P s → P (State.takeCredits s x2 x3) := by
  intros
  unfold State.takeCredits
  repeat' (first
    | with_reducible assumption
    | intro _
    | with_reducible apply State.wr_kept hP
    | with_reducible apply ite_kept (P := P)
    | with_reducible apply foldl_kept (P := P)
    | with_reducible apply foldl_fst_kept (P := P)
    | with_reducible apply foldl_snd_kept (P := P)
    | split
    | dsimp only
    | with_reducible apply hP.upd)

theorem State.giveCredits_kept {m : Prop} {P : State → Prop} (hP : Kept m P) : ∀ s x2 x3, P s → P (State.giveCredits s x2 x3) := by
  intros
  unfold State.giveCredits
  repeat' (first
    | with_reducible assumption
    | intro _
    | with_reducible apply State.dec_kept hP
    | with_reducible apply ite_kept (P := P)
    | with_reducible apply foldl_kept (P := P)
    | with_reducible apply foldl_fst_kept (P := P)
    | with_reducible apply foldl_snd_kept (P := P)
    | split
    | dsimp only
    | with_reducible apply hP.upd)

theorem State.cancelWords_kept {m : Prop} {P : State → Prop} (hP : Kept m P) : ∀ s x2 x3, P s → P (State.cancelWords s x2 x3) := by
  intros
  unfold State.cancelWords
  repeat' (first
    | with_reducible assumption
    | intro _
    | with_reducible apply State.modEng_kept hP
    | with_reducible apply State.giveCredits_kept hP
    | with_reducible apply State.showDraining_kept hP
    | with_reducible apply ite_kept (P := P)
    | with_reducible apply foldl_kept (P := P)
    | with_reducible apply foldl_fst_kept (P := P)
    | with_reducible apply foldl_snd_kept (P := P)
    | split
    | dsimp only
    | with_reducible apply hP.upd)

theorem State.clearTiles_kept {P : State → Prop} (hP : Kept True P) : ∀ s x2 x3, P s → P (State.clearTiles s x2 x3) := by
  intros
  unfold State.clearTiles
  repeat' (first
    | with_reducible assumption
    | intro _
    | with_reducible apply (hP.dropMem trivial)
    | with_reducible apply State.cancelWords_kept hP
    | with_reducible apply State.clearEngineRegs_kept hP
    | with_reducible apply ite_kept (P := P)
    | with_reducible apply foldl_kept (P := P)
    | with_reducible apply foldl_fst_kept (P := P)
    | with_reducible apply foldl_snd_kept (P := P)
    | split
    | dsimp only
    | with_reducible apply hP.upd)

theorem State.clearShare_kept {P : State → Prop} (hP : Kept True P) : ∀ s x2, P s → P (State.clearShare s x2) := by
  intros
  unfold State.clearShare
  repeat' (first
    | with_reducible assumption
    | intro _
    | with_reducible apply State.clearShareIn_kept hP
    | with_reducible apply State.cancelWords_kept hP
    | with_reducible apply ite_kept (P := P)
    | with_reducible apply foldl_kept (P := P)
    | with_reducible apply foldl_fst_kept (P := P)
    | with_reducible apply foldl_snd_kept (P := P)
    | split
    | dsimp only
    | with_reducible apply hP.upd)

theorem State.unpoison_kept {m : Prop} {P : State → Prop} (hP : Kept m P) : ∀ s x2 x3 x4, P s → P (State.unpoison s x2 x3 x4) := by
  intros
  unfold State.unpoison
  repeat' (first
    | with_reducible assumption
    | intro _
    | with_reducible apply ite_kept (P := P)
    | with_reducible apply foldl_kept (P := P)
    | with_reducible apply foldl_fst_kept (P := P)
    | with_reducible apply foldl_snd_kept (P := P)
    | split
    | dsimp only
    | with_reducible apply hP.upd)

theorem State.stackCount_kept {m : Prop} {P : State → Prop} (hP : Kept m P) : ∀ s x2 x3 x4 x5, P s → P (State.stackCount s x2 x3 x4 x5) := by
  intros
  unfold State.stackCount
  repeat' (first
    | with_reducible assumption
    | intro _
    | with_reducible apply State.inc_kept hP
    | with_reducible apply State.stir_kept hP
    | with_reducible apply ite_kept (P := P)
    | with_reducible apply foldl_kept (P := P)
    | with_reducible apply foldl_fst_kept (P := P)
    | with_reducible apply foldl_snd_kept (P := P)
    | split
    | dsimp only
    | with_reducible apply hP.upd)

theorem State.countLines_kept {m : Prop} {P : State → Prop} (hP : Kept m P) : ∀ s x2 x3 x4 x5, P s → P (State.countLines s x2 x3 x4 x5) := by
  intros
  unfold State.countLines
  repeat' (first
    | with_reducible assumption
    | intro _
    | with_reducible apply State.stackCount_kept hP
    | with_reducible apply ite_kept (P := P)
    | with_reducible apply foldl_kept (P := P)
    | with_reducible apply foldl_fst_kept (P := P)
    | with_reducible apply foldl_snd_kept (P := P)
    | split
    | dsimp only
    | with_reducible apply hP.upd)

theorem State.linesVia_kept {m : Prop} {P : State → Prop} (hP : Kept m P) : ∀ s x2 x3 x4 x5 x6 x7, P s → P (State.linesVia s x2 x3 x4 x5 x6 x7) := by
  intros
  unfold State.linesVia
  repeat' (first
    | with_reducible assumption
    | intro _
    | with_reducible apply State.underlay_kept hP
    | with_reducible apply ite_kept (P := P)
    | with_reducible apply foldl_kept (P := P)
    | with_reducible apply foldl_fst_kept (P := P)
    | with_reducible apply foldl_snd_kept (P := P)
    | split
    | dsimp only
    | with_reducible apply hP.upd)

theorem State.readLines_kept {m : Prop} {P : State → Prop} (hP : Kept m P) : ∀ s x2 x3 x4, P s → P (State.readLines s x2 x3 x4) := by
  intros
  unfold State.readLines
  repeat' (first
    | with_reducible assumption
    | intro _
    | with_reducible apply State.countLines_kept hP
    | with_reducible apply State.linesVia_kept hP
    | with_reducible apply ite_kept (P := P)
    | with_reducible apply foldl_kept (P := P)
    | with_reducible apply foldl_fst_kept (P := P)
    | with_reducible apply foldl_snd_kept (P := P)
    | split
    | dsimp only
    | with_reducible apply hP.upd)

theorem State.putPart_kept {P : State → Prop} (hP : Kept True P) : ∀ s p a b, P s → P (State.putPart s p a b) := by
  intro s p a b h
  induction b generalizing s a with
  | nil => exact h
  | cons v t ih => exact ih _ _ (hP.wrB trivial _ _ _ h)

theorem State.wrPart_kept {P : State → Prop} (hP : Kept True P) : ∀ s x2 x3 x4 x5, P s → P (State.wrPart s x2 x3 x4 x5) := by
  intros
  unfold State.wrPart
  repeat' (first
    | with_reducible assumption
    | intro _
    | with_reducible apply State.putPart_kept hP
    | with_reducible apply State.unpoison_kept hP
    | with_reducible apply State.countLines_kept hP
    | with_reducible apply State.linesVia_kept hP
    | with_reducible apply ite_kept (P := P)
    | with_reducible apply foldl_kept (P := P)
    | with_reducible apply foldl_fst_kept (P := P)
    | with_reducible apply foldl_snd_kept (P := P)
    | split
    | dsimp only
    | with_reducible apply hP.upd)

theorem State.clearPart_kept {P : State → Prop} (hP : Kept True P) : ∀ s x2 x3 x4, P s → P (State.clearPart s x2 x3 x4) := by
  intros
  unfold State.clearPart
  repeat' (first
    | with_reducible assumption
    | intro _
    | with_reducible apply (hP.dropMem trivial)
    | with_reducible apply State.unpoison_kept hP
    | with_reducible apply ite_kept (P := P)
    | with_reducible apply foldl_kept (P := P)
    | with_reducible apply foldl_fst_kept (P := P)
    | with_reducible apply foldl_snd_kept (P := P)
    | split
    | dsimp only
    | with_reducible apply hP.upd)

theorem State.zeroPart_kept {P : State → Prop} (hP : Kept True P) : ∀ s x2 x3 x4, P s → P (State.zeroPart s x2 x3 x4) := by
  intros
  unfold State.zeroPart
  repeat' (first
    | with_reducible assumption
    | intro _
    | with_reducible apply State.clearPart_kept hP
    | with_reducible apply State.countLines_kept hP
    | with_reducible apply State.linesVia_kept hP
    | with_reducible apply ite_kept (P := P)
    | with_reducible apply foldl_kept (P := P)
    | with_reducible apply foldl_fst_kept (P := P)
    | with_reducible apply foldl_snd_kept (P := P)
    | split
    | dsimp only
    | with_reducible apply hP.upd)

theorem State.poisonFault_kept {m : Prop} {P : State → Prop} (hP : Kept m P) : ∀ s x2 x3 x4, P s → P (State.poisonFault s x2 x3 x4) := by
  intros
  unfold State.poisonFault
  repeat' (first
    | with_reducible assumption
    | intro _
    | with_reducible apply State.fault_kept hP
    | with_reducible apply ite_kept (P := P)
    | with_reducible apply foldl_kept (P := P)
    | with_reducible apply foldl_fst_kept (P := P)
    | with_reducible apply foldl_snd_kept (P := P)
    | split
    | dsimp only
    | with_reducible apply hP.upd)

theorem State.shareTraffic_kept {m : Prop} {P : State → Prop} (hP : Kept m P) : ∀ s x2 x3 x4, P s → P (State.shareTraffic s x2 x3 x4) := by
  intros
  unfold State.shareTraffic
  repeat' (first
    | with_reducible assumption
    | intro _
    | with_reducible apply State.linesVia_kept hP
    | with_reducible apply State.count_kept hP
    | with_reducible apply ite_kept (P := P)
    | with_reducible apply foldl_kept (P := P)
    | with_reducible apply foldl_fst_kept (P := P)
    | with_reducible apply foldl_snd_kept (P := P)
    | split
    | dsimp only
    | with_reducible apply hP.upd)

theorem State.writeOut_kept {P : State → Prop} (hP : Kept True P) : ∀ s x2, P s → P (State.writeOut s x2) := by
  intros
  unfold State.writeOut
  repeat' (first
    | with_reducible assumption
    | intro _
    | with_reducible apply State.clearPart_kept hP
    | with_reducible apply State.countLines_kept hP
    | with_reducible apply (hP.wrB trivial)
    | with_reducible apply State.shareTraffic_kept hP
    | with_reducible apply State.wr_kept hP
    | with_reducible apply State.inc_kept hP
    | with_reducible apply ite_kept (P := P)
    | with_reducible apply foldl_kept (P := P)
    | with_reducible apply foldl_fst_kept (P := P)
    | with_reducible apply foldl_snd_kept (P := P)
    | split
    | dsimp only
    | with_reducible apply hP.upd)

theorem State.unpackShare_kept {P : State → Prop} (hP : Kept True P) : ∀ s x2, P s → P (State.unpackShare s x2) := by
  intros
  unfold State.unpackShare
  repeat' (first
    | with_reducible assumption
    | intro _
    | with_reducible apply State.clearShareIn_kept hP
    | with_reducible apply State.countLines_kept hP
    | with_reducible apply (hP.wrB trivial)
    | with_reducible apply State.shareTraffic_kept hP
    | with_reducible apply State.wr_kept hP
    | with_reducible apply ite_kept (P := P)
    | with_reducible apply foldl_kept (P := P)
    | with_reducible apply foldl_fst_kept (P := P)
    | with_reducible apply foldl_snd_kept (P := P)
    | split
    | dsimp only
    | with_reducible apply hP.upd)

theorem State.readBack_kept {P : State → Prop} (hP : Kept True P) : ∀ s x2, P s → P (State.readBack s x2) := by
  intros
  unfold State.readBack
  repeat' (first
    | with_reducible assumption
    | intro _
    | with_reducible apply State.poisonFault_kept hP
    | with_reducible apply State.unpackShare_kept hP
    | with_reducible apply ite_kept (P := P)
    | with_reducible apply foldl_kept (P := P)
    | with_reducible apply foldl_fst_kept (P := P)
    | with_reducible apply foldl_snd_kept (P := P)
    | split
    | dsimp only
    | with_reducible apply hP.upd)

theorem State.moveTraffic_kept {m : Prop} {P : State → Prop} (hP : Kept m P) : ∀ s x2 x3 x4, P s → P (State.moveTraffic s x2 x3 x4) := by
  intros
  unfold State.moveTraffic
  repeat' (first
    | with_reducible assumption
    | intro _
    | with_reducible apply State.underlay_kept hP
    | with_reducible apply State.count_kept hP
    | with_reducible apply ite_kept (P := P)
    | with_reducible apply foldl_kept (P := P)
    | with_reducible apply foldl_fst_kept (P := P)
    | with_reducible apply foldl_snd_kept (P := P)
    | split
    | dsimp only
    | with_reducible apply hP.upd)

theorem State.copyShares_kept {P : State → Prop} (hP : Kept True P) : ∀ s x2 x3 x4, P s → P (State.copyShares s x2 x3 x4) := by
  intros
  unfold State.copyShares
  repeat' (first
    | with_reducible assumption
    | intro _
    | with_reducible apply State.clearTiles_kept hP
    | with_reducible apply State.clearShareIn_kept hP
    | with_reducible apply (hP.wrB trivial)
    | with_reducible apply State.moveTraffic_kept hP
    | with_reducible apply ite_kept (P := P)
    | with_reducible apply foldl_kept (P := P)
    | with_reducible apply foldl_fst_kept (P := P)
    | with_reducible apply foldl_snd_kept (P := P)
    | split
    | dsimp only
    | with_reducible apply hP.upd)

theorem State.saveRegs_kept {m : Prop} {P : State → Prop} (hP : Kept m P) : ∀ s x2, P s → P (State.saveRegs s x2) := by
  intros
  unfold State.saveRegs
  repeat' (first
    | with_reducible assumption
    | intro _
    | with_reducible apply State.modEng_kept hP
    | with_reducible apply ite_kept (P := P)
    | with_reducible apply foldl_kept (P := P)
    | with_reducible apply foldl_fst_kept (P := P)
    | with_reducible apply foldl_snd_kept (P := P)
    | split
    | dsimp only
    | with_reducible apply hP.upd)

theorem State.restoreRegs_kept {m : Prop} {P : State → Prop} (hP : Kept m P) : ∀ s x2, P s → P (State.restoreRegs s x2) := by
  intros
  unfold State.restoreRegs
  repeat' (first
    | with_reducible assumption
    | intro _
    | with_reducible apply hP.setReg
    | with_reducible apply State.wr_kept hP
    | with_reducible apply ite_kept (P := P)
    | with_reducible apply foldl_kept (P := P)
    | with_reducible apply foldl_fst_kept (P := P)
    | with_reducible apply foldl_snd_kept (P := P)
    | split
    | dsimp only
    | with_reducible apply hP.upd)

/-! ### Fabric -/

theorem State.sendTime_kept {m : Prop} {P : State → Prop} (hP : Kept m P) : ∀ s x2 x3, P s → P (State.sendTime s x2 x3) := by
  intros
  unfold State.sendTime
  repeat' (first
    | with_reducible assumption
    | intro _
    | with_reducible apply ite_kept (P := P)
    | with_reducible apply foldl_kept (P := P)
    | with_reducible apply foldl_fst_kept (P := P)
    | with_reducible apply foldl_snd_kept (P := P)
    | split
    | dsimp only
    | with_reducible apply hP.upd)

theorem State.queueFab_kept {m : Prop} {P : State → Prop} (hP : Kept m P) : ∀ s x2 x3, P s → P (State.queueFab s x2 x3) := by
  intros
  unfold State.queueFab
  repeat' (first
    | with_reducible assumption
    | intro _
    | with_reducible apply ite_kept (P := P)
    | with_reducible apply foldl_kept (P := P)
    | with_reducible apply foldl_fst_kept (P := P)
    | with_reducible apply foldl_snd_kept (P := P)
    | split
    | dsimp only
    | with_reducible apply hP.upd)

theorem State.ndAdvertise_kept {m : Prop} {P : State → Prop} (hP : Kept m P) : ∀ s x2 x3, P s → P (State.ndAdvertise s x2 x3) := by
  intros
  unfold State.ndAdvertise
  repeat' (first
    | with_reducible assumption
    | intro _
    | with_reducible apply State.sendTime_kept hP
    | with_reducible apply State.queueFab_kept hP
    | with_reducible apply ite_kept (P := P)
    | with_reducible apply foldl_kept (P := P)
    | with_reducible apply foldl_fst_kept (P := P)
    | with_reducible apply foldl_snd_kept (P := P)
    | split
    | dsimp only
    | with_reducible apply hP.upd)

theorem State.ndSolicit_kept {m : Prop} {P : State → Prop} (hP : Kept m P) : ∀ s x2 x3 x4, P s → P (State.ndSolicit s x2 x3 x4) := by
  intros
  unfold State.ndSolicit
  repeat' (first
    | with_reducible assumption
    | intro _
    | with_reducible apply State.sendTime_kept hP
    | with_reducible apply State.queueFab_kept hP
    | with_reducible apply ite_kept (P := P)
    | with_reducible apply foldl_kept (P := P)
    | with_reducible apply foldl_fst_kept (P := P)
    | with_reducible apply foldl_snd_kept (P := P)
    | split
    | dsimp only
    | with_reducible apply hP.upd)

theorem State.ndProbe_kept {m : Prop} {P : State → Prop} (hP : Kept m P) : ∀ s x2 x3, P s → P (State.ndProbe s x2 x3) := by
  intros
  unfold State.ndProbe
  repeat' (first
    | with_reducible assumption
    | intro _
    | with_reducible apply State.ndSolicit_kept hP
    | with_reducible apply ite_kept (P := P)
    | with_reducible apply foldl_kept (P := P)
    | with_reducible apply foldl_fst_kept (P := P)
    | with_reducible apply foldl_snd_kept (P := P)
    | split
    | dsimp only
    | with_reducible apply hP.upd)

theorem State.ndProbeAll_kept {m : Prop} {P : State → Prop} (hP : Kept m P) : ∀ s x2, P s → P (State.ndProbeAll s x2) := by
  intros
  unfold State.ndProbeAll
  repeat' (first
    | with_reducible assumption
    | intro _
    | with_reducible apply State.ndProbe_kept hP
    | with_reducible apply ite_kept (P := P)
    | with_reducible apply foldl_kept (P := P)
    | with_reducible apply foldl_fst_kept (P := P)
    | with_reducible apply foldl_snd_kept (P := P)
    | split
    | dsimp only
    | with_reducible apply hP.upd)

theorem State.ndResolve_kept {m : Prop} {P : State → Prop} (hP : Kept m P) : ∀ s x2 x3, P s → P (State.ndResolve s x2 x3) := by
  intros
  unfold State.ndResolve
  repeat' (first
    | with_reducible assumption
    | intro _
    | with_reducible apply State.ndSolicit_kept hP
    | with_reducible apply ite_kept (P := P)
    | with_reducible apply foldl_kept (P := P)
    | with_reducible apply foldl_fst_kept (P := P)
    | with_reducible apply foldl_snd_kept (P := P)
    | split
    | dsimp only
    | with_reducible apply hP.upd)

theorem State.putFab_kept {m : Prop} {P : State → Prop} (hP : Kept m P) : ∀ s x2 x3, P s → P (State.putFab s x2 x3) := by
  intros
  unfold State.putFab
  repeat' (first
    | with_reducible assumption
    | intro _
    | with_reducible apply State.ndResolve_kept hP
    | with_reducible apply State.queueFab_kept hP
    | with_reducible apply ite_kept (P := P)
    | with_reducible apply foldl_kept (P := P)
    | with_reducible apply foldl_fst_kept (P := P)
    | with_reducible apply foldl_snd_kept (P := P)
    | split
    | dsimp only
    | with_reducible apply hP.upd)

theorem State.flushFab_kept {m : Prop} {P : State → Prop} (hP : Kept m P) : ∀ s x2, P s → P (State.flushFab s x2) := by
  intros
  unfold State.flushFab
  repeat' (first
    | with_reducible assumption
    | intro _
    | with_reducible apply State.putFab_kept hP
    | with_reducible apply ite_kept (P := P)
    | with_reducible apply foldl_kept (P := P)
    | with_reducible apply foldl_fst_kept (P := P)
    | with_reducible apply foldl_snd_kept (P := P)
    | split
    | dsimp only
    | with_reducible apply hP.upd)

theorem State.flushPorts_kept {m : Prop} {P : State → Prop} (hP : Kept m P) : ∀ s, P s → P (State.flushPorts s) := by
  intros
  unfold State.flushPorts
  repeat' (first
    | with_reducible assumption
    | intro _
    | with_reducible apply State.flushFab_kept hP
    | with_reducible apply ite_kept (P := P)
    | with_reducible apply foldl_kept (P := P)
    | with_reducible apply foldl_fst_kept (P := P)
    | with_reducible apply foldl_snd_kept (P := P)
    | split
    | dsimp only
    | with_reducible apply hP.upd)

theorem State.sendFab_kept {m : Prop} {P : State → Prop} (hP : Kept m P) : ∀ s x2 x3, P s → P (State.sendFab s x2 x3) := by
  intros
  unfold State.sendFab
  repeat' (first
    | with_reducible assumption
    | intro _
    | with_reducible apply State.flushFab_kept hP
    | with_reducible apply State.putFab_kept hP
    | with_reducible apply ite_kept (P := P)
    | with_reducible apply foldl_kept (P := P)
    | with_reducible apply foldl_fst_kept (P := P)
    | with_reducible apply foldl_snd_kept (P := P)
    | split
    | dsimp only
    | with_reducible apply hP.upd)

theorem State.dropWaiting_kept {m : Prop} {P : State → Prop} (hP : Kept m P) : ∀ s x2, P s → P (State.dropWaiting s x2) := by
  intros
  unfold State.dropWaiting
  repeat' (first
    | with_reducible assumption
    | intro _
    | with_reducible apply ite_kept (P := P)
    | with_reducible apply foldl_kept (P := P)
    | with_reducible apply foldl_fst_kept (P := P)
    | with_reducible apply foldl_snd_kept (P := P)
    | split
    | dsimp only
    | with_reducible apply hP.upd)

theorem State.arriveAt_kept {m : Prop} {P : State → Prop} (hP : Kept m P) : ∀ s p i (act : State → State),
    P s → (∀ b, P b → P (act b)) → P (State.arriveAt s p i act) := by
  intro s p i act hs ha
  exact ite_kept (P := P) hs (ite_kept (P := P) (State.keep_kept hP _ _ _ _ hs) (ha _ hs))

theorem State.arriveFor_kept {m : Prop} {P : State → Prop} (hP : Kept m P) : ∀ s p i (act : State → State),
    P s → (∀ b, P b → P (act b)) → P (State.arriveFor s p i act) := by
  intro s p i act hs ha
  exact State.arriveAt_kept hP _ _ _ _ hs fun b hb => ite_kept (P := P) (ha b hb) hb

theorem State.ndSeen_kept {m : Prop} {P : State → Prop} (hP : Kept m P) : ∀ s x2 x3, P s → P (State.ndSeen s x2 x3) := by
  intros
  unfold State.ndSeen
  repeat' (first
    | with_reducible assumption
    | intro _
    | with_reducible apply State.flushFab_kept hP
    | with_reducible apply ite_kept (P := P)
    | with_reducible apply foldl_kept (P := P)
    | with_reducible apply foldl_fst_kept (P := P)
    | with_reducible apply foldl_snd_kept (P := P)
    | split
    | dsimp only
    | with_reducible apply hP.upd)

theorem State.echo_kept {m : Prop} {P : State → Prop} (hP : Kept m P) : ∀ s x2 x3 x4, P s → P (State.echo s x2 x3 x4) := by
  intros
  unfold State.echo
  repeat' (first
    | with_reducible assumption
    | intro _
    | with_reducible apply State.queueFab_kept hP
    | with_reducible apply ite_kept (P := P)
    | with_reducible apply foldl_kept (P := P)
    | with_reducible apply foldl_fst_kept (P := P)
    | with_reducible apply foldl_snd_kept (P := P)
    | split
    | dsimp only
    | with_reducible apply hP.upd)

theorem State.neighbourAt_kept {m : Prop} {P : State → Prop} (hP : Kept m P) : ∀ s x2 x3, P s → P (State.neighbourAt s x2 x3) := by
  intros
  unfold State.neighbourAt
  repeat' (first
    | with_reducible assumption
    | intro _
    | with_reducible apply State.ndSeen_kept hP
    | with_reducible apply State.ndAdvertise_kept hP
    | with_reducible apply State.flushFab_kept hP
    | with_reducible apply State.echo_kept hP
    | with_reducible apply ite_kept (P := P)
    | with_reducible apply foldl_kept (P := P)
    | with_reducible apply foldl_fst_kept (P := P)
    | with_reducible apply foldl_snd_kept (P := P)
    | split
    | dsimp only
    | with_reducible apply hP.upd)

theorem State.neighbour_kept {m : Prop} {P : State → Prop} (hP : Kept m P) : ∀ s x2 x3, P s → P (State.neighbour s x2 x3) := by
  intros
  unfold State.neighbour
  repeat' (first
    | with_reducible assumption
    | intro _
    | with_reducible apply State.arriveAt_kept hP
    | with_reducible apply State.neighbourAt_kept hP
    | with_reducible apply ite_kept (P := P)
    | with_reducible apply foldl_kept (P := P)
    | with_reducible apply foldl_fst_kept (P := P)
    | with_reducible apply foldl_snd_kept (P := P)
    | split
    | dsimp only
    | with_reducible apply hP.upd)

theorem execNeighbourDiscovery_kept {m : Prop} {P : State → Prop} (hP : Kept m P) : ∀ x1 x2 s, P s → ∀ t, execNeighbourDiscovery x1 x2 s = .next t → P t := by
  intros
  rename_i e
  unfold execNeighbourDiscovery at e
  cases e
  repeat' (first
    | with_reducible assumption
    | intro _
    | with_reducible apply State.neighbour_kept hP
    | with_reducible apply ite_kept (P := P)
    | with_reducible apply foldl_kept (P := P)
    | with_reducible apply foldl_fst_kept (P := P)
    | with_reducible apply foldl_snd_kept (P := P)
    | split
    | dsimp only
    | with_reducible apply hP.upd)

theorem State.showFabric_kept {m : Prop} {P : State → Prop} (hP : Kept m P) : ∀ s, P s → P (State.showFabric s) := by
  intros
  unfold State.showFabric
  repeat' (first
    | with_reducible assumption
    | intro _
    | with_reducible apply State.wr_kept hP
    | with_reducible apply ite_kept (P := P)
    | with_reducible apply foldl_kept (P := P)
    | with_reducible apply foldl_fst_kept (P := P)
    | with_reducible apply foldl_snd_kept (P := P)
    | split
    | dsimp only
    | with_reducible apply hP.upd)

theorem State.enablePort_kept {m : Prop} {P : State → Prop} (hP : Kept m P) : ∀ s x2, P s → P (State.enablePort s x2) := by
  intros
  unfold State.enablePort
  repeat' (first
    | with_reducible assumption
    | intro _
    | with_reducible apply State.wr_kept hP
    | with_reducible apply ite_kept (P := P)
    | with_reducible apply foldl_kept (P := P)
    | with_reducible apply foldl_fst_kept (P := P)
    | with_reducible apply foldl_snd_kept (P := P)
    | split
    | dsimp only
    | with_reducible apply hP.upd)

theorem State.disablePort_kept {m : Prop} {P : State → Prop} (hP : Kept m P) : ∀ s x2, P s → P (State.disablePort s x2) := by
  intros
  unfold State.disablePort
  repeat' (first
    | with_reducible assumption
    | intro _
    | with_reducible apply State.wr_kept hP
    | with_reducible apply State.dropWaiting_kept hP
    | with_reducible apply State.showFabric_kept hP
    | with_reducible apply ite_kept (P := P)
    | with_reducible apply foldl_kept (P := P)
    | with_reducible apply foldl_fst_kept (P := P)
    | with_reducible apply foldl_snd_kept (P := P)
    | split
    | dsimp only
    | with_reducible apply hP.upd)

theorem State.cableMeasured_kept {m : Prop} {P : State → Prop} (hP : Kept m P) : ∀ s x2 x3 x4 x5, P s → P (State.cableMeasured s x2 x3 x4 x5) := by
  intros
  unfold State.cableMeasured
  repeat' (first
    | with_reducible assumption
    | intro _
    | with_reducible apply State.wr_kept hP
    | with_reducible apply State.fault_kept hP
    | with_reducible apply ite_kept (P := P)
    | with_reducible apply foldl_kept (P := P)
    | with_reducible apply foldl_fst_kept (P := P)
    | with_reducible apply foldl_snd_kept (P := P)
    | split
    | dsimp only
    | with_reducible apply hP.upd)

theorem execCableMeasurement_kept {m : Prop} {P : State → Prop} (hP : Kept m P) : ∀ x1 x2 x3 x4 s, P s → ∀ t, execCableMeasurement x1 x2 x3 x4 s = .next t → P t := by
  intros
  rename_i e
  unfold execCableMeasurement at e
  cases e
  repeat' (first
    | with_reducible assumption
    | intro _
    | with_reducible apply State.cableMeasured_kept hP
    | with_reducible apply ite_kept (P := P)
    | with_reducible apply foldl_kept (P := P)
    | with_reducible apply foldl_fst_kept (P := P)
    | with_reducible apply foldl_snd_kept (P := P)
    | split
    | dsimp only
    | with_reducible apply hP.upd)

theorem State.alignmentLoss_kept {m : Prop} {P : State → Prop} (hP : Kept m P) : ∀ s x2, P s → P (State.alignmentLoss s x2) := by
  intros
  unfold State.alignmentLoss
  repeat' (first
    | with_reducible assumption
    | intro _
    | with_reducible apply State.keep_kept hP
    | with_reducible apply State.wr_kept hP
    | with_reducible apply State.dropWaiting_kept hP
    | with_reducible apply State.showFabric_kept hP
    | with_reducible apply State.fault_kept hP
    | with_reducible apply ite_kept (P := P)
    | with_reducible apply foldl_kept (P := P)
    | with_reducible apply foldl_fst_kept (P := P)
    | with_reducible apply foldl_snd_kept (P := P)
    | split
    | dsimp only
    | with_reducible apply hP.upd)

theorem execAlignmentLoss_kept {m : Prop} {P : State → Prop} (hP : Kept m P) : ∀ x1 s, P s → ∀ t, execAlignmentLoss x1 s = .next t → P t := by
  intros
  rename_i e
  unfold execAlignmentLoss at e
  cases e
  repeat' (first
    | with_reducible assumption
    | intro _
    | with_reducible apply State.alignmentLoss_kept hP
    | with_reducible apply ite_kept (P := P)
    | with_reducible apply foldl_kept (P := P)
    | with_reducible apply foldl_fst_kept (P := P)
    | with_reducible apply foldl_snd_kept (P := P)
    | split
    | dsimp only
    | with_reducible apply hP.upd)

theorem State.lldpSend_kept {m : Prop} {P : State → Prop} (hP : Kept m P) : ∀ s x2, P s → P (State.lldpSend s x2) := by
  intros
  unfold State.lldpSend
  repeat' (first
    | with_reducible assumption
    | intro _
    | with_reducible apply State.free_kept hP
    | with_reducible apply State.sendFab_kept hP
    | with_reducible apply ite_kept (P := P)
    | with_reducible apply foldl_kept (P := P)
    | with_reducible apply foldl_fst_kept (P := P)
    | with_reducible apply foldl_snd_kept (P := P)
    | split
    | dsimp only
    | with_reducible apply hP.upd)

theorem execLldpTransmit_kept {m : Prop} {P : State → Prop} (hP : Kept m P) : ∀ x1 s, P s → ∀ t, execLldpTransmit x1 s = .next t → P t := by
  intros
  rename_i e
  unfold execLldpTransmit at e
  cases e
  repeat' (first
    | with_reducible assumption
    | intro _
    | with_reducible apply State.lldpSend_kept hP
    | with_reducible apply ite_kept (P := P)
    | with_reducible apply foldl_kept (P := P)
    | with_reducible apply foldl_fst_kept (P := P)
    | with_reducible apply foldl_snd_kept (P := P)
    | split
    | dsimp only
    | with_reducible apply hP.upd)

theorem State.takeLldpdu_kept {m : Prop} {P : State → Prop} (hP : Kept m P) : ∀ s x2 x3 x4 x5 x6, P s → P (State.takeLldpdu s x2 x3 x4 x5 x6) := by
  intros
  unfold State.takeLldpdu
  repeat' (first
    | with_reducible assumption
    | intro _
    | with_reducible apply State.wr_kept hP
    | with_reducible apply State.showFabric_kept hP
    | with_reducible apply ite_kept (P := P)
    | with_reducible apply foldl_kept (P := P)
    | with_reducible apply foldl_fst_kept (P := P)
    | with_reducible apply foldl_snd_kept (P := P)
    | split
    | dsimp only
    | with_reducible apply hP.upd)

theorem State.lldpdu_kept {m : Prop} {P : State → Prop} (hP : Kept m P) : ∀ s x2 x3 x4 x5 x6, P s → P (State.lldpdu s x2 x3 x4 x5 x6) := by
  intros
  unfold State.lldpdu
  repeat' (first
    | with_reducible assumption
    | intro _
    | with_reducible apply State.arriveAt_kept hP
    | with_reducible apply State.takeLldpdu_kept hP
    | with_reducible apply ite_kept (P := P)
    | with_reducible apply foldl_kept (P := P)
    | with_reducible apply foldl_fst_kept (P := P)
    | with_reducible apply foldl_snd_kept (P := P)
    | split
    | dsimp only
    | with_reducible apply hP.upd)

theorem execLldpduReceived_kept {m : Prop} {P : State → Prop} (hP : Kept m P) : ∀ x1 x2 x3 x4 x5 s, P s → ∀ t, execLldpduReceived x1 x2 x3 x4 x5 s = .next t → P t := by
  intros
  rename_i e
  unfold execLldpduReceived at e
  cases e
  repeat' (first
    | with_reducible assumption
    | intro _
    | with_reducible apply State.lldpdu_kept hP
    | with_reducible apply ite_kept (P := P)
    | with_reducible apply foldl_kept (P := P)
    | with_reducible apply foldl_fst_kept (P := P)
    | with_reducible apply foldl_snd_kept (P := P)
    | split
    | dsimp only
    | with_reducible apply hP.upd)

theorem State.lldpLapse_kept {m : Prop} {P : State → Prop} (hP : Kept m P) : ∀ s x2, P s → P (State.lldpLapse s x2) := by
  intros
  unfold State.lldpLapse
  repeat' (first
    | with_reducible assumption
    | intro _
    | with_reducible apply State.wr_kept hP
    | with_reducible apply State.showFabric_kept hP
    | with_reducible apply ite_kept (P := P)
    | with_reducible apply foldl_kept (P := P)
    | with_reducible apply foldl_fst_kept (P := P)
    | with_reducible apply foldl_snd_kept (P := P)
    | split
    | dsimp only
    | with_reducible apply hP.upd)

theorem execLldpTtlExpiry_kept {m : Prop} {P : State → Prop} (hP : Kept m P) : ∀ x1 s, P s → ∀ t, execLldpTtlExpiry x1 s = .next t → P t := by
  intros
  rename_i e
  unfold execLldpTtlExpiry at e
  cases e
  repeat' (first
    | with_reducible assumption
    | intro _
    | with_reducible apply State.lldpLapse_kept hP
    | with_reducible apply ite_kept (P := P)
    | with_reducible apply foldl_kept (P := P)
    | with_reducible apply foldl_fst_kept (P := P)
    | with_reducible apply foldl_snd_kept (P := P)
    | split
    | dsimp only
    | with_reducible apply hP.upd)

theorem State.setStream_kept {m : Prop} {P : State → Prop} (hP : Kept m P) : ∀ s x2, P s → P (State.setStream s x2) := by
  intros
  unfold State.setStream
  repeat' (first
    | with_reducible assumption
    | intro _
    | with_reducible apply ite_kept (P := P)
    | with_reducible apply foldl_kept (P := P)
    | with_reducible apply foldl_fst_kept (P := P)
    | with_reducible apply foldl_snd_kept (P := P)
    | split
    | dsimp only
    | with_reducible apply hP.upd)

theorem State.endWords_kept {m : Prop} {P : State → Prop} (hP : Kept m P) : ∀ s x2 x3, P s → P (State.endWords s x2 x3) := by
  intros
  unfold State.endWords
  repeat' (first
    | with_reducible assumption
    | intro _
    | with_reducible apply State.giveCredits_kept hP
    | with_reducible apply State.showDraining_kept hP
    | with_reducible apply ite_kept (P := P)
    | with_reducible apply foldl_kept (P := P)
    | with_reducible apply foldl_fst_kept (P := P)
    | with_reducible apply foldl_snd_kept (P := P)
    | split
    | dsimp only
    | with_reducible apply hP.upd)

theorem State.endSource_kept {m : Prop} {P : State → Prop} (hP : Kept m P) : ∀ s x2 x3, P s → P (State.endSource s x2 x3) := by
  intros
  unfold State.endSource
  repeat' (first
    | with_reducible assumption
    | intro _
    | with_reducible apply State.modCtx_kept hP
    | with_reducible apply ite_kept (P := P)
    | with_reducible apply foldl_kept (P := P)
    | with_reducible apply foldl_fst_kept (P := P)
    | with_reducible apply foldl_snd_kept (P := P)
    | split
    | dsimp only
    | with_reducible apply hP.upd)

theorem State.closeStream_kept {m : Prop} {P : State → Prop} (hP : Kept m P) : ∀ s x2, P s → P (State.closeStream s x2) := by
  intros
  unfold State.closeStream
  repeat' (first
    | with_reducible assumption
    | intro _
    | with_reducible apply State.modCtx_kept hP
    | with_reducible apply State.giveCredits_kept hP
    | with_reducible apply State.dec_kept hP
    | with_reducible apply State.endSource_kept hP
    | with_reducible apply State.endWords_kept hP
    | with_reducible apply ite_kept (P := P)
    | with_reducible apply foldl_kept (P := P)
    | with_reducible apply foldl_fst_kept (P := P)
    | with_reducible apply foldl_snd_kept (P := P)
    | split
    | dsimp only
    | with_reducible apply hP.upd)

theorem State.breakStream_kept {m : Prop} {P : State → Prop} (hP : Kept m P) : ∀ s x2, P s → P (State.breakStream s x2) := by
  intros
  unfold State.breakStream
  repeat' (first
    | with_reducible assumption
    | intro _
    | with_reducible apply State.closeStream_kept hP
    | with_reducible apply State.fault_kept hP
    | with_reducible apply ite_kept (P := P)
    | with_reducible apply foldl_kept (P := P)
    | with_reducible apply foldl_fst_kept (P := P)
    | with_reducible apply foldl_snd_kept (P := P)
    | split
    | dsimp only
    | with_reducible apply hP.upd)

theorem doStreamOpen_kept {m : Prop} {P : State → Prop} (hP : Kept m P) : ∀ x1 x2 s, P s → P (doStreamOpen x1 x2 s) := by
  intros
  unfold doStreamOpen
  repeat' (first
    | with_reducible assumption
    | intro _
    | with_reducible apply State.inc_kept hP
    | with_reducible apply State.reply_kept hP
    | with_reducible apply ite_kept (P := P)
    | with_reducible apply foldl_kept (P := P)
    | with_reducible apply foldl_fst_kept (P := P)
    | with_reducible apply foldl_snd_kept (P := P)
    | split
    | dsimp only
    | with_reducible apply hP.upd)

theorem fwStreamOpen_kept {m : Prop} {P : State → Prop} (hP : Kept m P) : ∀ x1 x2, Fw.Keeps P (fwStreamOpen x1 x2) := by
  intros
  unfold fwStreamOpen
  repeat' (first
    | with_reducible assumption
    | intro _
    | with_reducible apply doStreamOpen_kept hP
    | with_reducible apply secCount_kept hP
    | with_reducible apply ite_kept (P := P)
    | with_reducible apply foldl_kept (P := P)
    | with_reducible apply foldl_fst_kept (P := P)
    | with_reducible apply foldl_snd_kept (P := P)
    | split
    | dsimp only
    | with_reducible apply Fw.Keeps.mk
    | with_reducible apply hP.upd)

theorem execStreamOpen_kept {m : Prop} {P : State → Prop} (hP : Kept m P) : ∀ x1 x2 s, P s → ∀ t, execStreamOpen x1 x2 s = .next t → P t := by
  intros
  rename_i e
  unfold execStreamOpen at e
  cases e
  repeat' (first
    | with_reducible assumption
    | intro _
    | with_reducible apply State.fwCommand_kept hP
    | with_reducible apply fwStreamOpen_kept hP
    | with_reducible apply ite_kept (P := P)
    | with_reducible apply foldl_kept (P := P)
    | with_reducible apply foldl_fst_kept (P := P)
    | with_reducible apply foldl_snd_kept (P := P)
    | split
    | dsimp only
    | with_reducible apply hP.upd)

theorem State.sendData_kept {m : Prop} {P : State → Prop} (hP : Kept m P) : ∀ s x2 x3 x4, P s → P (State.sendData s x2 x3 x4).1 := by
  intros
  unfold State.sendData
  repeat' (first
    | with_reducible assumption
    | intro _
    | with_reducible apply State.sendFab_kept hP
    | with_reducible apply ite_kept (P := P)
    | with_reducible apply foldl_kept (P := P)
    | with_reducible apply foldl_fst_kept (P := P)
    | with_reducible apply foldl_snd_kept (P := P)
    | split
    | dsimp only
    | with_reducible apply hP.upd)

theorem State.sendPackets_kept {m : Prop} {P : State → Prop} (hP : Kept m P) : ∀ f n s x o d, P s → P (State.sendPackets f n s x o d).1 := by
  intro f n s x o d h
  induction n generalizing s x o d with
  | zero => exact h
  | succ n ih =>
    unfold State.sendPackets
    extract_lets m here rest unpaid p r y z w
    have hr : P r.1 := by
      show P (if unpaid then (s, x) else s.sendData x p false).1
      split
      · exact h
      · exact State.sendData_kept hP _ _ _ _ h
    have hz : P w := State.takeCredits_kept hP _ _ _ hr
    split
    · exact hz
    · exact ih _ _ _ _ hz

theorem State.sendMessage_kept {m : Prop} {P : State → Prop} (hP : Kept m P) : ∀ s x2 x3 x4, P s → P (State.sendMessage s x2 x3 x4) := by
  intros
  unfold State.sendMessage
  repeat' (first
    | with_reducible assumption
    | intro _
    | with_reducible apply State.sendPackets_kept hP
    | with_reducible apply State.setStream_kept hP
    | with_reducible apply State.breakStream_kept hP
    | with_reducible apply ite_kept (P := P)
    | with_reducible apply foldl_kept (P := P)
    | with_reducible apply foldl_fst_kept (P := P)
    | with_reducible apply foldl_snd_kept (P := P)
    | split
    | dsimp only
    | with_reducible apply hP.upd)

theorem State.resend_kept {m : Prop} {P : State → Prop} (hP : Kept m P) : ∀ s x2 x3 x4, P s → P (State.resend s x2 x3 x4) := by
  intros
  unfold State.resend
  repeat' (first
    | with_reducible assumption
    | intro _
    | with_reducible apply State.breakStream_kept hP
    | with_reducible apply State.sendData_kept hP
    | with_reducible apply State.inc_kept hP
    | with_reducible apply State.setStream_kept hP
    | with_reducible apply ite_kept (P := P)
    | with_reducible apply foldl_kept (P := P)
    | with_reducible apply foldl_fst_kept (P := P)
    | with_reducible apply foldl_snd_kept (P := P)
    | split
    | dsimp only
    | with_reducible apply hP.upd)

theorem State.sendKept_kept {m : Prop} {P : State → Prop} (hP : Kept m P) : ∀ s x2 x3, P s → P (State.sendKept s x2 x3) := by
  intros
  unfold State.sendKept
  repeat' (first
    | with_reducible assumption
    | intro _
    | with_reducible apply State.takeCredits_kept hP
    | with_reducible apply State.sendData_kept hP
    | with_reducible apply State.setStream_kept hP
    | with_reducible apply State.breakStream_kept hP
    | with_reducible apply ite_kept (P := P)
    | with_reducible apply foldl_kept (P := P)
    | with_reducible apply foldl_fst_kept (P := P)
    | with_reducible apply foldl_snd_kept (P := P)
    | split
    | dsimp only
    | with_reducible apply hP.upd)

theorem State.payWaiting_kept {m : Prop} {P : State → Prop} (hP : Kept m P) : ∀ s x2, P s → P (State.payWaiting s x2) := by
  intros
  unfold State.payWaiting
  repeat' (first
    | with_reducible assumption
    | intro _
    | with_reducible apply State.sendKept_kept hP
    | with_reducible apply ite_kept (P := P)
    | with_reducible apply foldl_kept (P := P)
    | with_reducible apply foldl_fst_kept (P := P)
    | with_reducible apply foldl_snd_kept (P := P)
    | split
    | dsimp only
    | with_reducible apply hP.upd)

theorem State.returnCredits_kept {m : Prop} {P : State → Prop} (hP : Kept m P) : ∀ s x2 x3, P s → P (State.returnCredits s x2 x3) := by
  intros
  unfold State.returnCredits
  repeat' (first
    | with_reducible assumption
    | intro _
    | with_reducible apply State.giveCredits_kept hP
    | with_reducible apply State.payWaiting_kept hP
    | with_reducible apply ite_kept (P := P)
    | with_reducible apply foldl_kept (P := P)
    | with_reducible apply foldl_fst_kept (P := P)
    | with_reducible apply foldl_snd_kept (P := P)
    | split
    | dsimp only
    | with_reducible apply hP.upd)

theorem State.payAll_kept {m : Prop} {P : State → Prop} (hP : Kept m P) : ∀ s, P s → P (State.payAll s) := by
  intros
  unfold State.payAll
  repeat' (first
    | with_reducible assumption
    | intro _
    | with_reducible apply State.payWaiting_kept hP
    | with_reducible apply ite_kept (P := P)
    | with_reducible apply foldl_kept (P := P)
    | with_reducible apply foldl_fst_kept (P := P)
    | with_reducible apply foldl_snd_kept (P := P)
    | split
    | dsimp only
    | with_reducible apply hP.upd)

theorem State.rest_kept {m : Prop} {P : State → Prop} (hP : Kept m P) : ∀ s, P s → P (State.rest s) := by
  intros
  unfold State.rest
  repeat' (first
    | with_reducible assumption
    | intro _
    | with_reducible apply State.idle_kept hP
    | with_reducible apply State.flushPorts_kept hP
    | with_reducible apply State.payAll_kept hP
    | with_reducible apply ite_kept (P := P)
    | with_reducible apply foldl_kept (P := P)
    | with_reducible apply foldl_fst_kept (P := P)
    | with_reducible apply foldl_snd_kept (P := P)
    | split
    | dsimp only
    | with_reducible apply hP.upd)

theorem execStreamClose_kept {m : Prop} {P : State → Prop} (hP : Kept m P) : ∀ x1 x2 s, P s → ∀ t, execStreamClose x1 x2 s = .next t → P t := by
  intros
  rename_i e
  unfold execStreamClose at e
  cases e
  repeat' (first
    | with_reducible assumption
    | intro _
    | with_reducible apply State.command_kept hP
    | with_reducible apply State.closeStream_kept hP
    | with_reducible apply State.payWaiting_kept hP
    | with_reducible apply State.reply_kept hP
    | with_reducible apply ite_kept (P := P)
    | with_reducible apply foldl_kept (P := P)
    | with_reducible apply foldl_fst_kept (P := P)
    | with_reducible apply foldl_snd_kept (P := P)
    | split
    | dsimp only
    | with_reducible apply hP.upd)

theorem State.portReturns_kept {m : Prop} {P : State → Prop} (hP : Kept m P) : ∀ s x2, P s → P (State.portReturns s x2) := by
  intros
  unfold State.portReturns
  repeat' (first
    | with_reducible assumption
    | intro _
    | with_reducible apply State.sendKept_kept hP
    | with_reducible apply State.resend_kept hP
    | with_reducible apply ite_kept (P := P)
    | with_reducible apply foldl_kept (P := P)
    | with_reducible apply foldl_fst_kept (P := P)
    | with_reducible apply foldl_snd_kept (P := P)
    | split
    | dsimp only
    | with_reducible apply hP.upd)

theorem State.linkCounts_kept {m : Prop} {P : State → Prop} (hP : Kept m P) : ∀ s x2, P s → P (State.linkCounts s x2) := by
  intros
  unfold State.linkCounts
  repeat' (first
    | with_reducible assumption
    | intro _
    | with_reducible apply State.stir_kept hP
    | with_reducible apply ite_kept (P := P)
    | with_reducible apply foldl_kept (P := P)
    | with_reducible apply foldl_fst_kept (P := P)
    | with_reducible apply foldl_snd_kept (P := P)
    | split
    | dsimp only
    | with_reducible apply hP.upd)

theorem State.linkTrained_kept {m : Prop} {P : State → Prop} (hP : Kept m P) : ∀ s x2, P s → P (State.linkTrained s x2) := by
  intros
  unfold State.linkTrained
  repeat' (first
    | with_reducible assumption
    | intro _
    | with_reducible apply State.keep_kept hP
    | with_reducible apply State.wr_kept hP
    | with_reducible apply State.showFabric_kept hP
    | with_reducible apply State.ndProbeAll_kept hP
    | with_reducible apply State.portReturns_kept hP
    | with_reducible apply State.linkCounts_kept hP
    | with_reducible apply ite_kept (P := P)
    | with_reducible apply foldl_kept (P := P)
    | with_reducible apply foldl_fst_kept (P := P)
    | with_reducible apply foldl_snd_kept (P := P)
    | split
    | dsimp only
    | with_reducible apply hP.upd)

theorem execLinkTrained_kept {m : Prop} {P : State → Prop} (hP : Kept m P) : ∀ x1 s, P s → ∀ t, execLinkTrained x1 s = .next t → P t := by
  intros
  rename_i e
  unfold execLinkTrained at e
  cases e
  repeat' (first
    | with_reducible assumption
    | intro _
    | with_reducible apply State.linkTrained_kept hP
    | with_reducible apply ite_kept (P := P)
    | with_reducible apply foldl_kept (P := P)
    | with_reducible apply foldl_fst_kept (P := P)
    | with_reducible apply foldl_snd_kept (P := P)
    | split
    | dsimp only
    | with_reducible apply hP.upd)

theorem State.setHop_kept {m : Prop} {P : State → Prop} (hP : Kept m P) : ∀ s x2, P s → P (State.setHop s x2) := by
  intros
  unfold State.setHop
  repeat' (first
    | with_reducible assumption
    | intro _
    | with_reducible apply ite_kept (P := P)
    | with_reducible apply foldl_kept (P := P)
    | with_reducible apply foldl_fst_kept (P := P)
    | with_reducible apply foldl_snd_kept (P := P)
    | split
    | dsimp only
    | with_reducible apply hP.upd)

theorem State.sendHop_kept {m : Prop} {P : State → Prop} (hP : Kept m P) : ∀ s x2 x3, P s → P (State.sendHop s x2 x3) := by
  intros
  unfold State.sendHop
  repeat' (first
    | with_reducible assumption
    | intro _
    | with_reducible apply State.setHop_kept hP
    | with_reducible apply State.sendFab_kept hP
    | with_reducible apply ite_kept (P := P)
    | with_reducible apply foldl_kept (P := P)
    | with_reducible apply foldl_fst_kept (P := P)
    | with_reducible apply foldl_snd_kept (P := P)
    | split
    | dsimp only
    | with_reducible apply hP.upd)

theorem State.repeatHop_kept {m : Prop} {P : State → Prop} (hP : Kept m P) : ∀ s x2 x3 x4, P s → P (State.repeatHop s x2 x3 x4) := by
  intros
  unfold State.repeatHop
  repeat' (first
    | with_reducible assumption
    | intro _
    | with_reducible apply State.setHop_kept hP
    | with_reducible apply State.sendFab_kept hP
    | with_reducible apply State.inc_kept hP
    | with_reducible apply ite_kept (P := P)
    | with_reducible apply foldl_kept (P := P)
    | with_reducible apply foldl_fst_kept (P := P)
    | with_reducible apply foldl_snd_kept (P := P)
    | split
    | dsimp only
    | with_reducible apply hP.upd)

theorem State.resendHop_kept {m : Prop} {P : State → Prop} (hP : Kept m P) : ∀ s x2 x3, P s → P (State.resendHop s x2 x3) := by
  intros
  unfold State.resendHop
  repeat' (first
    | with_reducible assumption
    | intro _
    | with_reducible apply State.repeatHop_kept hP
    | with_reducible apply ite_kept (P := P)
    | with_reducible apply foldl_kept (P := P)
    | with_reducible apply foldl_fst_kept (P := P)
    | with_reducible apply foldl_snd_kept (P := P)
    | split
    | dsimp only
    | with_reducible apply hP.upd)

theorem State.ackStream_kept {m : Prop} {P : State → Prop} (hP : Kept m P) : ∀ s x2, P s → P (State.ackStream s x2) := by
  intros
  unfold State.ackStream
  repeat' (first
    | with_reducible assumption
    | intro _
    | with_reducible apply State.giveCredits_kept hP
    | with_reducible apply State.setStream_kept hP
    | with_reducible apply State.resend_kept hP
    | with_reducible apply State.payWaiting_kept hP
    | with_reducible apply ite_kept (P := P)
    | with_reducible apply foldl_kept (P := P)
    | with_reducible apply foldl_fst_kept (P := P)
    | with_reducible apply foldl_snd_kept (P := P)
    | split
    | dsimp only
    | with_reducible apply hP.upd)

theorem State.ackHop_kept {m : Prop} {P : State → Prop} (hP : Kept m P) : ∀ s x2 x3, P s → P (State.ackHop s x2 x3) := by
  intros
  unfold State.ackHop
  repeat' (first
    | with_reducible assumption
    | intro _
    | with_reducible apply State.setHop_kept hP
    | with_reducible apply State.repeatHop_kept hP
    | with_reducible apply ite_kept (P := P)
    | with_reducible apply foldl_kept (P := P)
    | with_reducible apply foldl_fst_kept (P := P)
    | with_reducible apply foldl_snd_kept (P := P)
    | split
    | dsimp only
    | with_reducible apply hP.upd)

theorem State.ackReceived_kept {m : Prop} {P : State → Prop} (hP : Kept m P) : ∀ s x2, P s → P (State.ackReceived s x2) := by
  intros
  unfold State.ackReceived
  repeat' (first
    | with_reducible assumption
    | intro _
    | with_reducible apply State.arriveFor_kept hP
    | with_reducible apply State.ackHop_kept hP
    | with_reducible apply State.ackStream_kept hP
    | with_reducible apply ite_kept (P := P)
    | with_reducible apply foldl_kept (P := P)
    | with_reducible apply foldl_fst_kept (P := P)
    | with_reducible apply foldl_snd_kept (P := P)
    | split
    | dsimp only
    | with_reducible apply hP.upd)

theorem execAckReceived_kept {m : Prop} {P : State → Prop} (hP : Kept m P) : ∀ x1 s, P s → ∀ t, execAckReceived x1 s = .next t → P t := by
  intros
  rename_i e
  unfold execAckReceived at e
  cases e
  repeat' (first
    | with_reducible assumption
    | intro _
    | with_reducible apply State.ackReceived_kept hP
    | with_reducible apply ite_kept (P := P)
    | with_reducible apply foldl_kept (P := P)
    | with_reducible apply foldl_fst_kept (P := P)
    | with_reducible apply foldl_snd_kept (P := P)
    | split
    | dsimp only
    | with_reducible apply hP.upd)

theorem State.retransmission_kept {m : Prop} {P : State → Prop} (hP : Kept m P) : ∀ s x2 x3, P s → P (State.retransmission s x2 x3) := by
  intros
  unfold State.retransmission
  repeat' (first
    | with_reducible assumption
    | intro _
    | with_reducible apply State.setStream_kept hP
    | with_reducible apply State.resend_kept hP
    | with_reducible apply ite_kept (P := P)
    | with_reducible apply foldl_kept (P := P)
    | with_reducible apply foldl_fst_kept (P := P)
    | with_reducible apply foldl_snd_kept (P := P)
    | split
    | dsimp only
    | with_reducible apply hP.upd)

theorem execRetransmissionTimeout_kept {m : Prop} {P : State → Prop} (hP : Kept m P) : ∀ x1 x2 x3 s, P s → ∀ t, execRetransmissionTimeout x1 x2 x3 s = .next t → P t := by
  intros
  rename_i e
  unfold execRetransmissionTimeout at e
  cases e
  repeat' (first
    | with_reducible assumption
    | intro _
    | with_reducible apply State.resendHop_kept hP
    | with_reducible apply State.retransmission_kept hP
    | with_reducible apply ite_kept (P := P)
    | with_reducible apply foldl_kept (P := P)
    | with_reducible apply foldl_fst_kept (P := P)
    | with_reducible apply foldl_snd_kept (P := P)
    | split
    | dsimp only
    | with_reducible apply hP.upd)

theorem State.streamTimeout_kept {m : Prop} {P : State → Prop} (hP : Kept m P) : ∀ s x2, P s → P (State.streamTimeout s x2) := by
  intros
  unfold State.streamTimeout
  repeat' (first
    | with_reducible assumption
    | intro _
    | with_reducible apply State.breakStream_kept hP
    | with_reducible apply State.payWaiting_kept hP
    | with_reducible apply ite_kept (P := P)
    | with_reducible apply foldl_kept (P := P)
    | with_reducible apply foldl_fst_kept (P := P)
    | with_reducible apply foldl_snd_kept (P := P)
    | split
    | dsimp only
    | with_reducible apply hP.upd)

theorem execStreamTimeout_kept {m : Prop} {P : State → Prop} (hP : Kept m P) : ∀ x1 s, P s → ∀ t, execStreamTimeout x1 s = .next t → P t := by
  intros
  rename_i e
  unfold execStreamTimeout at e
  cases e
  repeat' (first
    | with_reducible assumption
    | intro _
    | with_reducible apply State.streamTimeout_kept hP
    | with_reducible apply ite_kept (P := P)
    | with_reducible apply foldl_kept (P := P)
    | with_reducible apply foldl_fst_kept (P := P)
    | with_reducible apply foldl_snd_kept (P := P)
    | split
    | dsimp only
    | with_reducible apply hP.upd)

theorem State.congestionPeriod_kept {m : Prop} {P : State → Prop} (hP : Kept m P) : ∀ s x2, P s → P (State.congestionPeriod s x2) := by
  intros
  unfold State.congestionPeriod
  repeat' (first
    | with_reducible assumption
    | intro _
    | with_reducible apply State.setStream_kept hP
    | with_reducible apply ite_kept (P := P)
    | with_reducible apply foldl_kept (P := P)
    | with_reducible apply foldl_fst_kept (P := P)
    | with_reducible apply foldl_snd_kept (P := P)
    | split
    | dsimp only
    | with_reducible apply hP.upd)

theorem execCongestionPeriod_kept {m : Prop} {P : State → Prop} (hP : Kept m P) : ∀ x1 s, P s → ∀ t, execCongestionPeriod x1 s = .next t → P t := by
  intros
  rename_i e
  unfold execCongestionPeriod at e
  cases e
  repeat' (first
    | with_reducible assumption
    | intro _
    | with_reducible apply State.congestionPeriod_kept hP
    | with_reducible apply ite_kept (P := P)
    | with_reducible apply foldl_kept (P := P)
    | with_reducible apply foldl_fst_kept (P := P)
    | with_reducible apply foldl_snd_kept (P := P)
    | split
    | dsimp only
    | with_reducible apply hP.upd)

theorem State.sendAck_kept {m : Prop} {P : State → Prop} (hP : Kept m P) : ∀ s x2, P s → P (State.sendAck s x2) := by
  intros
  unfold State.sendAck
  repeat' (first
    | with_reducible assumption
    | intro _
    | with_reducible apply State.sendFab_kept hP
    | with_reducible apply State.setStream_kept hP
    | with_reducible apply ite_kept (P := P)
    | with_reducible apply foldl_kept (P := P)
    | with_reducible apply foldl_fst_kept (P := P)
    | with_reducible apply foldl_snd_kept (P := P)
    | split
    | dsimp only
    | with_reducible apply hP.upd)

theorem State.takePacket_kept {m : Prop} {P : State → Prop} (hP : Kept m P) : ∀ s x2 x3, P s → P (State.takePacket s x2 x3) := by
  intros
  unfold State.takePacket
  repeat' (first
    | with_reducible assumption
    | intro _
    | with_reducible apply State.inc_kept hP
    | with_reducible apply State.setStream_kept hP
    | with_reducible apply State.fault_kept hP
    | with_reducible apply State.sendAck_kept hP
    | with_reducible apply ite_kept (P := P)
    | with_reducible apply foldl_kept (P := P)
    | with_reducible apply foldl_fst_kept (P := P)
    | with_reducible apply foldl_snd_kept (P := P)
    | split
    | dsimp only
    | with_reducible apply hP.upd)

theorem State.takeMladub_kept {m : Prop} {P : State → Prop} (hP : Kept m P) : ∀ s x2 x3, P s → P (State.takeMladub s x2 x3) := by
  intros
  unfold State.takeMladub
  repeat' (first
    | with_reducible assumption
    | intro _
    | with_reducible apply State.inc_kept hP
    | with_reducible apply State.takePacket_kept hP
    | with_reducible apply ite_kept (P := P)
    | with_reducible apply foldl_kept (P := P)
    | with_reducible apply foldl_fst_kept (P := P)
    | with_reducible apply foldl_snd_kept (P := P)
    | split
    | dsimp only
    | with_reducible apply hP.upd)

theorem State.dataReceived_kept {m : Prop} {P : State → Prop} (hP : Kept m P) : ∀ s x2 x3, P s → P (State.dataReceived s x2 x3) := by
  intros
  unfold State.dataReceived
  repeat' (first
    | with_reducible assumption
    | intro _
    | with_reducible apply State.arriveFor_kept hP
    | with_reducible apply State.takeMladub_kept hP
    | with_reducible apply ite_kept (P := P)
    | with_reducible apply foldl_kept (P := P)
    | with_reducible apply foldl_fst_kept (P := P)
    | with_reducible apply foldl_snd_kept (P := P)
    | split
    | dsimp only
    | with_reducible apply hP.upd)

theorem execDataReceived_kept {m : Prop} {P : State → Prop} (hP : Kept m P) : ∀ x1 x2 s, P s → ∀ t, execDataReceived x1 x2 s = .next t → P t := by
  intros
  rename_i e
  unfold execDataReceived at e
  cases e
  repeat' (first
    | with_reducible assumption
    | intro _
    | with_reducible apply State.dataReceived_kept hP
    | with_reducible apply ite_kept (P := P)
    | with_reducible apply foldl_kept (P := P)
    | with_reducible apply foldl_fst_kept (P := P)
    | with_reducible apply foldl_snd_kept (P := P)
    | split
    | dsimp only
    | with_reducible apply hP.upd)

theorem State.ackDelay_kept {m : Prop} {P : State → Prop} (hP : Kept m P) : ∀ s x2, P s → P (State.ackDelay s x2) := by
  intros
  unfold State.ackDelay
  repeat' (first
    | with_reducible assumption
    | intro _
    | with_reducible apply State.sendAck_kept hP
    | with_reducible apply ite_kept (P := P)
    | with_reducible apply foldl_kept (P := P)
    | with_reducible apply foldl_fst_kept (P := P)
    | with_reducible apply foldl_snd_kept (P := P)
    | split
    | dsimp only
    | with_reducible apply hP.upd)

theorem execAckDelayExpiry_kept {m : Prop} {P : State → Prop} (hP : Kept m P) : ∀ x1 s, P s → ∀ t, execAckDelayExpiry x1 s = .next t → P t := by
  intros
  rename_i e
  unfold execAckDelayExpiry at e
  cases e
  repeat' (first
    | with_reducible assumption
    | intro _
    | with_reducible apply State.ackDelay_kept hP
    | with_reducible apply ite_kept (P := P)
    | with_reducible apply foldl_kept (P := P)
    | with_reducible apply foldl_fst_kept (P := P)
    | with_reducible apply foldl_snd_kept (P := P)
    | split
    | dsimp only
    | with_reducible apply hP.upd)

theorem State.sendCtrl_kept {m : Prop} {P : State → Prop} (hP : Kept m P) : ∀ s x2 x3 x4 x5, P s → P (State.sendCtrl s x2 x3 x4 x5) := by
  intros
  unfold State.sendCtrl
  repeat' (first
    | with_reducible assumption
    | intro _
    | with_reducible apply State.sendFab_kept hP
    | with_reducible apply ite_kept (P := P)
    | with_reducible apply foldl_kept (P := P)
    | with_reducible apply foldl_fst_kept (P := P)
    | with_reducible apply foldl_snd_kept (P := P)
    | split
    | dsimp only
    | with_reducible apply hP.upd)

theorem State.ctrlOnce_kept {m : Prop} {P : State → Prop} (hP : Kept m P) : ∀ s peer id i (act : State → State),
    P s → (∀ b, P b → P (act b)) → P (State.ctrlOnce s peer id i act) := by
  intro s peer id i act hs ha
  exact State.arriveFor_kept hP _ _ _ _ hs fun b hb =>
    ite_kept (P := P) (State.sendFab_kept hP _ _ _ hb) (ha _ (hP.upd (State.sendFab_kept hP _ _ _ hb)))

theorem State.stopRepeats_kept {m : Prop} {P : State → Prop} (hP : Kept m P) : ∀ s x2 x3, P s → P (State.stopRepeats s x2 x3) := by
  intros
  unfold State.stopRepeats
  repeat' (first
    | with_reducible assumption
    | intro _
    | with_reducible apply ite_kept (P := P)
    | with_reducible apply foldl_kept (P := P)
    | with_reducible apply foldl_fst_kept (P := P)
    | with_reducible apply foldl_snd_kept (P := P)
    | split
    | dsimp only
    | with_reducible apply hP.upd)

theorem State.ctrlAcked_kept {m : Prop} {P : State → Prop} (hP : Kept m P) : ∀ s x2 x3, P s → P (State.ctrlAcked s x2 x3) := by
  intros
  unfold State.ctrlAcked
  repeat' (first
    | with_reducible assumption
    | intro _
    | with_reducible apply State.arriveFor_kept hP
    | with_reducible apply State.stopRepeats_kept hP
    | with_reducible apply ite_kept (P := P)
    | with_reducible apply foldl_kept (P := P)
    | with_reducible apply foldl_fst_kept (P := P)
    | with_reducible apply foldl_snd_kept (P := P)
    | split
    | dsimp only
    | with_reducible apply hP.upd)

theorem execCtrlAck_kept {m : Prop} {P : State → Prop} (hP : Kept m P) : ∀ x1 x2 s, P s → ∀ t, execCtrlAck x1 x2 s = .next t → P t := by
  intros
  rename_i e
  unfold execCtrlAck at e
  cases e
  repeat' (first
    | with_reducible assumption
    | intro _
    | with_reducible apply State.ctrlAcked_kept hP
    | with_reducible apply ite_kept (P := P)
    | with_reducible apply foldl_kept (P := P)
    | with_reducible apply foldl_fst_kept (P := P)
    | with_reducible apply foldl_snd_kept (P := P)
    | split
    | dsimp only
    | with_reducible apply hP.upd)

/-! ### TileMem -/

theorem State.numFlags_kept {m : Prop} {P : State → Prop} (hP : Kept m P) : ∀ s x2 x3 x4, P s → P (State.numFlags s x2 x3 x4) := by
  intros
  unfold State.numFlags
  repeat' (first
    | with_reducible assumption
    | intro _
    | with_reducible apply hP.setReg
    | with_reducible apply State.inc_kept hP
    | with_reducible apply ite_kept (P := P)
    | with_reducible apply foldl_kept (P := P)
    | with_reducible apply foldl_fst_kept (P := P)
    | with_reducible apply foldl_snd_kept (P := P)
    | split
    | dsimp only
    | with_reducible apply hP.upd)

theorem State.schedule_kept {m : Prop} {P : State → Prop} (hP : Kept m P) : ∀ s x2 x3 x4 x5, P s → P (State.schedule s x2 x3 x4 x5) := by
  intros
  unfold State.schedule
  repeat' (first
    | with_reducible assumption
    | intro _
    | with_reducible apply State.wr_kept hP
    | with_reducible apply ite_kept (P := P)
    | with_reducible apply foldl_kept (P := P)
    | with_reducible apply foldl_fst_kept (P := P)
    | with_reducible apply foldl_snd_kept (P := P)
    | split
    | dsimp only
    | with_reducible apply hP.upd)

theorem State.slipBy_kept {m : Prop} {P : State → Prop} (hP : Kept m P) : ∀ s x2 x3 x4, P s → P (State.slipBy s x2 x3 x4) := by
  intros
  unfold State.slipBy
  repeat' (first
    | with_reducible assumption
    | intro _
    | with_reducible apply State.schedule_kept hP
    | with_reducible apply ite_kept (P := P)
    | with_reducible apply foldl_kept (P := P)
    | with_reducible apply foldl_fst_kept (P := P)
    | with_reducible apply foldl_snd_kept (P := P)
    | split
    | dsimp only
    | with_reducible apply hP.upd)

theorem State.limited_kept {m : Prop} {P : State → Prop} (hP : Kept m P) : ∀ s x2 x3 x4, P s → P (State.limited s x2 x3 x4) := by
  intros
  unfold State.limited
  repeat' (first
    | with_reducible assumption
    | intro _
    | with_reducible apply State.free_kept hP
    | with_reducible apply State.slipBy_kept hP
    | with_reducible apply State.count_kept hP
    | with_reducible apply ite_kept (P := P)
    | with_reducible apply foldl_kept (P := P)
    | with_reducible apply foldl_fst_kept (P := P)
    | with_reducible apply foldl_snd_kept (P := P)
    | split
    | dsimp only
    | with_reducible apply hP.upd)

theorem State.sramEccOf_kept {m : Prop} {P : State → Prop} (hP : Kept m P) : ∀ s x2 x3 x4, P s → P (State.sramEccOf s x2 x3 x4) := by
  intros
  unfold State.sramEccOf
  repeat' (first
    | with_reducible assumption
    | intro _
    | with_reducible apply State.wr_kept hP
    | with_reducible apply State.inc_kept hP
    | with_reducible apply State.fault_kept hP
    | with_reducible apply ite_kept (P := P)
    | with_reducible apply foldl_kept (P := P)
    | with_reducible apply foldl_fst_kept (P := P)
    | with_reducible apply foldl_snd_kept (P := P)
    | split
    | dsimp only
    | with_reducible apply hP.upd)

theorem State.sramEcc_kept {m : Prop} {P : State → Prop} (hP : Kept m P) : ∀ s x2 x3, P s → P (State.sramEcc s x2 x3) := by
  intros
  unfold State.sramEcc
  repeat' (first
    | with_reducible assumption
    | intro _
    | with_reducible apply State.sramEccOf_kept hP
    | with_reducible apply ite_kept (P := P)
    | with_reducible apply foldl_kept (P := P)
    | with_reducible apply foldl_fst_kept (P := P)
    | with_reducible apply foldl_snd_kept (P := P)
    | split
    | dsimp only
    | with_reducible apply hP.upd)

theorem State.openEcc_kept {m : Prop} {P : State → Prop} (hP : Kept m P) : ∀ s x2 x3, P s → P (State.openEcc s x2 x3).2 := by
  intros
  unfold State.openEcc
  repeat' (first
    | with_reducible assumption
    | intro _
    | with_reducible apply State.free_kept hP
    | with_reducible apply ite_kept (P := P)
    | with_reducible apply foldl_kept (P := P)
    | with_reducible apply foldl_fst_kept (P := P)
    | with_reducible apply foldl_snd_kept (P := P)
    | split
    | dsimp only
    | with_reducible apply hP.upd)

theorem State.checkedRead_kept {m : Prop} {P : State → Prop} (hP : Kept m P) : ∀ s x2 x3 x4, P s → P (State.checkedRead s x2 x3 x4) := by
  intros
  unfold State.checkedRead
  repeat' (first
    | with_reducible assumption
    | intro _
    | with_reducible apply State.openEcc_kept hP
    | with_reducible apply State.sramEccOf_kept hP
    | with_reducible apply ite_kept (P := P)
    | with_reducible apply foldl_kept (P := P)
    | with_reducible apply foldl_fst_kept (P := P)
    | with_reducible apply foldl_snd_kept (P := P)
    | split
    | dsimp only
    | with_reducible apply hP.upd)

theorem State.checkShare_kept {m : Prop} {P : State → Prop} (hP : Kept m P) : ∀ s x2, P s → P (State.checkShare s x2) := by
  intros
  unfold State.checkShare
  repeat' (first
    | with_reducible assumption
    | intro _
    | with_reducible apply State.openEcc_kept hP
    | with_reducible apply State.sramEccOf_kept hP
    | with_reducible apply ite_kept (P := P)
    | with_reducible apply foldl_kept (P := P)
    | with_reducible apply foldl_fst_kept (P := P)
    | with_reducible apply foldl_snd_kept (P := P)
    | split
    | dsimp only
    | with_reducible apply hP.upd)

theorem State.wrSram_kept {P : State → Prop} (hP : Kept True P) : ∀ s c t a b, P s → P (State.wrSram s c t a b) := by
  intro s c t a b h
  induction b generalizing s a with
  | nil => exact h
  | cons v t ih => exact ih _ _ (hP.wrB trivial _ _ _ h)

theorem State.takeDraws_kept {m : Prop} {P : State → Prop} (hP : Kept m P) : ∀ s x2 x3 x4 x5 x6 x7, P s → P (State.takeDraws s x2 x3 x4 x5 x6 x7).2 := by
  intros
  unfold State.takeDraws
  repeat' (first
    | with_reducible assumption
    | intro _
    | with_reducible apply State.setEng_kept hP
    | with_reducible apply ite_kept (P := P)
    | with_reducible apply foldl_kept (P := P)
    | with_reducible apply foldl_fst_kept (P := P)
    | with_reducible apply foldl_snd_kept (P := P)
    | split
    | dsimp only
    | with_reducible apply hP.upd)

theorem State.putVec_kept {P : State → Prop} (hP : Kept True P) : ∀ s x2 x3 x4 x5 x6 x7 x8 x9 x10, P s → P (State.putVec s x2 x3 x4 x5 x6 x7 x8 x9 x10) := by
  intros
  unfold State.putVec
  repeat' (first
    | with_reducible assumption
    | intro _
    | with_reducible apply State.takeDraws_kept hP
    | with_reducible apply State.numFlags_kept hP
    | with_reducible apply State.wrSram_kept hP
    | with_reducible apply ite_kept (P := P)
    | with_reducible apply foldl_kept (P := P)
    | with_reducible apply foldl_fst_kept (P := P)
    | with_reducible apply foldl_snd_kept (P := P)
    | split
    | dsimp only
    | with_reducible apply hP.upd)

theorem State.setStat_kept {P : State → Prop} (hP : Kept True P) : ∀ s x2 x3 x4 x5, P s → P (State.setStat s x2 x3 x4 x5) := by
  intros
  unfold State.setStat
  repeat' (first
    | with_reducible assumption
    | intro _
    | with_reducible apply State.wrBytes_kept hP
    | with_reducible apply ite_kept (P := P)
    | with_reducible apply foldl_kept (P := P)
    | with_reducible apply foldl_fst_kept (P := P)
    | with_reducible apply foldl_snd_kept (P := P)
    | split
    | dsimp only
    | with_reducible apply hP.upd)

/-! ### Product -/

theorem State.drainBlock_kept {P : State → Prop} (hP : Kept True P) : ∀ s x2 x3 x4 x5 x6 x7 x8 x9 x10, P s → P (State.drainBlock s x2 x3 x4 x5 x6 x7 x8 x9 x10) := by
  intros
  unfold State.drainBlock
  repeat' (first
    | with_reducible assumption
    | intro _
    | with_reducible apply State.takeDraws_kept hP
    | with_reducible apply State.numFlags_kept hP
    | with_reducible apply State.count_kept hP
    | with_reducible apply State.drain_kept hP
    | with_reducible apply State.wrSram_kept hP
    | with_reducible apply State.modEng_kept hP
    | with_reducible apply ite_kept (P := P)
    | with_reducible apply foldl_kept (P := P)
    | with_reducible apply foldl_fst_kept (P := P)
    | with_reducible apply foldl_snd_kept (P := P)
    | split
    | dsimp only
    | with_reducible apply hP.upd)

theorem State.count24_kept {m : Prop} {P : State → Prop} (hP : Kept m P) : ∀ s x2 x3 x4 x5 x6 x7, P s → P (State.count24 s x2 x3 x4 x5 x6 x7) := by
  intros
  unfold State.count24
  repeat' (first
    | with_reducible assumption
    | intro _
    | with_reducible apply State.count_kept hP
    | with_reducible apply State.wr_kept hP
    | with_reducible apply State.tileFault_kept hP
    | with_reducible apply ite_kept (P := P)
    | with_reducible apply foldl_kept (P := P)
    | with_reducible apply foldl_fst_kept (P := P)
    | with_reducible apply foldl_snd_kept (P := P)
    | split
    | dsimp only
    | with_reducible apply hP.upd)

theorem State.countWindow_kept {m : Prop} {P : State → Prop} (hP : Kept m P) : ∀ s x2 x3 x4 x5, P s → P (State.countWindow s x2 x3 x4 x5) := by
  intros
  unfold State.countWindow
  repeat' (first
    | with_reducible assumption
    | intro _
    | with_reducible apply State.count_kept hP
    | with_reducible apply ite_kept (P := P)
    | with_reducible apply foldl_kept (P := P)
    | with_reducible apply foldl_fst_kept (P := P)
    | with_reducible apply foldl_snd_kept (P := P)
    | split
    | dsimp only
    | with_reducible apply hP.upd)

theorem State.meetSparse_kept {m : Prop} {P : State → Prop} (hP : Kept m P) : ∀ s x2 x3 x4 x5 x6 x7 x8, P s → P (State.meetSparse s x2 x3 x4 x5 x6 x7 x8) := by
  intros
  unfold State.meetSparse
  repeat' (first
    | with_reducible assumption
    | intro _
    | with_reducible apply State.count24_kept hP
    | with_reducible apply State.wr_kept hP
    | with_reducible apply State.tileFault_kept hP
    | with_reducible apply State.countWindow_kept hP
    | with_reducible apply ite_kept (P := P)
    | with_reducible apply foldl_kept (P := P)
    | with_reducible apply foldl_fst_kept (P := P)
    | with_reducible apply foldl_snd_kept (P := P)
    | split
    | dsimp only
    | with_reducible apply hP.upd)

theorem State.advanceBlock_kept {P : State → Prop} (hP : Kept True P) : ∀ s x2 x3 x4 x5 x6 x7, P s → P (State.advanceBlock s x2 x3 x4 x5 x6 x7) := by
  intros
  unfold State.advanceBlock
  repeat' (first
    | with_reducible assumption
    | intro _
    | with_reducible apply State.wr_kept hP
    | with_reducible apply State.modEng_kept hP
    | with_reducible apply State.count_kept hP
    | with_reducible apply State.meetSparse_kept hP
    | with_reducible apply State.numFlags_kept hP
    | with_reducible apply State.drain_kept hP
    | with_reducible apply State.drainBlock_kept hP
    | with_reducible apply ite_kept (P := P)
    | with_reducible apply foldl_kept (P := P)
    | with_reducible apply foldl_fst_kept (P := P)
    | with_reducible apply foldl_snd_kept (P := P)
    | split
    | dsimp only
    | with_reducible apply hP.upd)

theorem State.ewBlock_kept {P : State → Prop} (hP : Kept True P) : ∀ s x2 x3 x4 x5, P s → P (State.ewBlock s x2 x3 x4 x5) := by
  intros
  unfold State.ewBlock
  repeat' (first
    | with_reducible assumption
    | intro _
    | with_reducible apply State.numFlags_kept hP
    | with_reducible apply State.modEng_kept hP
    | with_reducible apply State.drainBlock_kept hP
    | with_reducible apply ite_kept (P := P)
    | with_reducible apply foldl_kept (P := P)
    | with_reducible apply foldl_fst_kept (P := P)
    | with_reducible apply foldl_snd_kept (P := P)
    | split
    | dsimp only
    | with_reducible apply hP.upd)

theorem State.advanceRun_kept {P : State → Prop} (hP : Kept True P) : ∀ s x2 x3 x4 x5 x6 x7, P s → P (State.advanceRun s x2 x3 x4 x5 x6 x7) := by
  intros
  unfold State.advanceRun
  repeat' (first
    | with_reducible assumption
    | intro _
    | with_reducible apply State.count_kept hP
    | with_reducible apply State.modEng_kept hP
    | with_reducible apply State.ewBlock_kept hP
    | with_reducible apply State.advanceBlock_kept hP
    | with_reducible apply ite_kept (P := P)
    | with_reducible apply foldl_kept (P := P)
    | with_reducible apply foldl_fst_kept (P := P)
    | with_reducible apply foldl_snd_kept (P := P)
    | split
    | dsimp only
    | with_reducible apply hP.upd)

theorem State.readOn_kept {m : Prop} {P : State → Prop} (hP : Kept m P) : ∀ s x2 x3 x4 x5, P s → P (State.readOn s x2 x3 x4 x5) := by
  intros
  unfold State.readOn
  repeat' (first
    | with_reducible assumption
    | intro _
    | with_reducible apply State.checkedRead_kept hP
    | with_reducible apply State.modEng_kept hP
    | with_reducible apply State.count_kept hP
    | with_reducible apply ite_kept (P := P)
    | with_reducible apply foldl_kept (P := P)
    | with_reducible apply foldl_fst_kept (P := P)
    | with_reducible apply foldl_snd_kept (P := P)
    | split
    | dsimp only
    | with_reducible apply hP.upd)

theorem State.readFor_kept {m : Prop} {P : State → Prop} (hP : Kept m P) : ∀ s x2 x3 x4 x5 x6, P s → P (State.readFor s x2 x3 x4 x5 x6) := by
  intros
  unfold State.readFor
  repeat' (first
    | with_reducible assumption
    | intro _
    | with_reducible apply State.readOn_kept hP
    | with_reducible apply State.checkedRead_kept hP
    | with_reducible apply ite_kept (P := P)
    | with_reducible apply foldl_kept (P := P)
    | with_reducible apply foldl_fst_kept (P := P)
    | with_reducible apply foldl_snd_kept (P := P)
    | split
    | dsimp only
    | with_reducible apply hP.upd)

theorem State.advance_kept {P : State → Prop} (hP : Kept True P) : ∀ s x2 x3 x4 x5 x6, P s → P (State.advance s x2 x3 x4 x5 x6) := by
  intros
  unfold State.advance
  repeat' (first
    | with_reducible assumption
    | intro _
    | with_reducible apply State.count_kept hP
    | with_reducible apply State.readFor_kept hP
    | with_reducible apply State.advanceRun_kept hP
    | with_reducible apply ite_kept (P := P)
    | with_reducible apply foldl_kept (P := P)
    | with_reducible apply foldl_fst_kept (P := P)
    | with_reducible apply foldl_snd_kept (P := P)
    | split
    | dsimp only
    | with_reducible apply hP.upd)

theorem State.refill_kept {m : Prop} {P : State → Prop} (hP : Kept m P) : ∀ s x2 x3 x4 x5, P s → P (State.refill s x2 x3 x4 x5) := by
  intros
  unfold State.refill
  repeat' (first
    | with_reducible assumption
    | intro _
    | with_reducible apply State.free_kept hP
    | with_reducible apply State.readOn_kept hP
    | with_reducible apply ite_kept (P := P)
    | with_reducible apply foldl_kept (P := P)
    | with_reducible apply foldl_fst_kept (P := P)
    | with_reducible apply foldl_snd_kept (P := P)
    | split
    | dsimp only
    | with_reducible apply hP.upd)

theorem State.refills_kept {m : Prop} {P : State → Prop} (hP : Kept m P) : ∀ s x2 x3 x4, P s → P (State.refills s x2 x3 x4) := by
  intros
  unfold State.refills
  repeat' (first
    | with_reducible assumption
    | intro _
    | with_reducible apply State.refill_kept hP
    | with_reducible apply ite_kept (P := P)
    | with_reducible apply foldl_kept (P := P)
    | with_reducible apply foldl_fst_kept (P := P)
    | with_reducible apply foldl_snd_kept (P := P)
    | split
    | dsimp only
    | with_reducible apply hP.upd)

theorem State.dropQueues_kept {m : Prop} {P : State → Prop} (hP : Kept m P) : ∀ s x2 x3, P s → P (State.dropQueues s x2 x3) := by
  intros
  unfold State.dropQueues
  repeat' (first
    | with_reducible assumption
    | intro _
    | with_reducible apply State.modEng_kept hP
    | with_reducible apply ite_kept (P := P)
    | with_reducible apply foldl_kept (P := P)
    | with_reducible apply foldl_fst_kept (P := P)
    | with_reducible apply foldl_snd_kept (P := P)
    | split
    | dsimp only
    | with_reducible apply hP.upd)

theorem State.arrayTo_kept {P : State → Prop} (hP : Kept True P) : ∀ s x2 x3 x4, P s → P (State.arrayTo s x2 x3 x4) := by
  intros
  unfold State.arrayTo
  repeat' (first
    | with_reducible assumption
    | intro _
    | with_reducible apply State.advance_kept hP
    | with_reducible apply State.refills_kept hP
    | with_reducible apply ite_kept (P := P)
    | with_reducible apply foldl_kept (P := P)
    | with_reducible apply foldl_fst_kept (P := P)
    | with_reducible apply foldl_snd_kept (P := P)
    | split
    | dsimp only
    | with_reducible apply hP.upd)

theorem State.pump_kept {P : State → Prop} (hP : Kept True P) : ∀ s x2 x3, P s → P (State.pump s x2 x3) := by
  intros
  unfold State.pump
  repeat' (first
    | with_reducible assumption
    | intro _
    | with_reducible apply State.arrayTo_kept hP
    | with_reducible apply ite_kept (P := P)
    | with_reducible apply foldl_kept (P := P)
    | with_reducible apply foldl_fst_kept (P := P)
    | with_reducible apply foldl_snd_kept (P := P)
    | split
    | dsimp only
    | with_reducible apply hP.upd)

theorem State.feedLineIn_kept {P : State → Prop} (hP : Kept True P) : ∀ s x2 x3 x4 x5, P s → P (State.feedLineIn s x2 x3 x4 x5) := by
  intros
  unfold State.feedLineIn
  repeat' (first
    | with_reducible assumption
    | intro _
    | with_reducible apply State.modEng_kept hP
    | with_reducible apply State.count_kept hP
    | with_reducible apply State.pump_kept hP
    | with_reducible apply ite_kept (P := P)
    | with_reducible apply foldl_kept (P := P)
    | with_reducible apply foldl_fst_kept (P := P)
    | with_reducible apply foldl_snd_kept (P := P)
    | split
    | dsimp only
    | with_reducible apply hP.upd)

/-! ### Net -/

theorem State.setMeshIn_kept {m : Prop} {P : State → Prop} (hP : Kept m P) : ∀ s x2 x3 x4, P s → P (State.setMeshIn s x2 x3 x4) := by
  intros
  unfold State.setMeshIn
  repeat' (first
    | with_reducible assumption
    | intro _
    | with_reducible apply ite_kept (P := P)
    | with_reducible apply foldl_kept (P := P)
    | with_reducible apply foldl_fst_kept (P := P)
    | with_reducible apply foldl_snd_kept (P := P)
    | split
    | dsimp only
    | with_reducible apply hP.upd)

theorem State.setLane_kept {m : Prop} {P : State → Prop} (hP : Kept m P) : ∀ s x2 x3 x4, P s → P (State.setLane s x2 x3 x4) := by
  intros
  unfold State.setLane
  repeat' (first
    | with_reducible assumption
    | intro _
    | with_reducible apply ite_kept (P := P)
    | with_reducible apply foldl_kept (P := P)
    | with_reducible apply foldl_fst_kept (P := P)
    | with_reducible apply foldl_snd_kept (P := P)
    | split
    | dsimp only
    | with_reducible apply hP.upd)

theorem State.deliver_kept {P : State → Prop} (hP : Kept True P) : ∀ s x2 x3 x4 x5 x6 x7, P s → P (State.deliver s x2 x3 x4 x5 x6 x7) := by
  intros
  unfold State.deliver
  repeat' (first
    | with_reducible assumption
    | intro _
    | with_reducible apply State.tileFault_kept hP
    | with_reducible apply State.contends_kept hP
    | with_reducible apply State.wrSram_kept hP
    | with_reducible apply State.feedLineIn_kept hP
    | with_reducible apply State.modEng_kept hP
    | with_reducible apply ite_kept (P := P)
    | with_reducible apply foldl_kept (P := P)
    | with_reducible apply foldl_fst_kept (P := P)
    | with_reducible apply foldl_snd_kept (P := P)
    | split
    | dsimp only
    | with_reducible apply hP.upd)

theorem State.putOut_kept {P : State → Prop} (hP : Kept True P) : ∀ s x2 x3 x4 x5, P s → P (State.putOut s x2 x3 x4 x5) := by
  intros
  unfold State.putOut
  repeat' (first
    | with_reducible assumption
    | intro _
    | with_reducible apply State.deliver_kept hP
    | with_reducible apply State.modEng_kept hP
    | with_reducible apply State.setMeshIn_kept hP
    | with_reducible apply ite_kept (P := P)
    | with_reducible apply foldl_kept (P := P)
    | with_reducible apply foldl_fst_kept (P := P)
    | with_reducible apply foldl_snd_kept (P := P)
    | split
    | dsimp only
    | with_reducible apply hP.upd)

theorem State.lanePut_kept {P : State → Prop} (hP : Kept True P) : ∀ s x2 x3 x4 x5 x6, P s → P (State.lanePut s x2 x3 x4 x5 x6) := by
  intros
  unfold State.lanePut
  repeat' (first
    | with_reducible assumption
    | intro _
    | with_reducible apply State.deliver_kept hP
    | with_reducible apply State.modEng_kept hP
    | with_reducible apply State.setLane_kept hP
    | with_reducible apply ite_kept (P := P)
    | with_reducible apply foldl_kept (P := P)
    | with_reducible apply foldl_fst_kept (P := P)
    | with_reducible apply foldl_snd_kept (P := P)
    | split
    | dsimp only
    | with_reducible apply hP.upd)

theorem State.laneMoves_kept {P : State → Prop} (hP : Kept True P) : ∀ c d t n s, P s → P (State.laneMoves c d t n s) := by
  intro c d t n s h
  induction n generalizing s with
  | zero => exact h
  | succ n ih =>
    unfold State.laneMoves
    split
    · exact ih _ (State.lanePut_kept hP _ _ _ _ _ _ (State.setLane_kept hP _ _ _ _ h))
    · exact h

theorem State.seamPassed_kept {m : Prop} {P : State → Prop} (hP : Kept m P) : ∀ s x2 x3, P s → P (State.seamPassed s x2 x3) := by
  intros
  unfold State.seamPassed
  repeat' (first
    | with_reducible assumption
    | intro _
    | with_reducible apply State.stir_kept hP
    | with_reducible apply ite_kept (P := P)
    | with_reducible apply foldl_kept (P := P)
    | with_reducible apply foldl_fst_kept (P := P)
    | with_reducible apply foldl_snd_kept (P := P)
    | split
    | dsimp only
    | with_reducible apply hP.upd)

theorem State.injectLines_kept {P : State → Prop} (hP : Kept True P) : ∀ c d t n s, P s → P (State.injectLines c d t n s) := by
  intro c d t n s h
  induction n generalizing s with
  | zero => exact h
  | succ n ih =>
    unfold State.injectLines
    dsimp only
    split
    · exact h
    · split
      · exact h
      · split
        · exact ih _ (State.seamPassed_kept hP _ _ _ (State.lanePut_kept hP _ _ _ _ _ _ (State.modEng_kept hP _ _ _ _ h)))
        · exact State.stir_kept hP _ _ h
        · exact State.stir_kept hP _ _ h

theorem State.lanesFlow_kept {P : State → Prop} (hP : Kept True P) : ∀ s x2, P s → P (State.lanesFlow s x2) := by
  intros
  unfold State.lanesFlow
  repeat' (first
    | with_reducible assumption
    | intro _
    | with_reducible apply State.laneMoves_kept hP
    | with_reducible apply State.injectLines_kept hP
    | with_reducible apply ite_kept (P := P)
    | with_reducible apply foldl_kept (P := P)
    | with_reducible apply foldl_fst_kept (P := P)
    | with_reducible apply foldl_snd_kept (P := P)
    | split
    | dsimp only
    | with_reducible apply hP.upd)

theorem State.meshSend_kept {P : State → Prop} (hP : Kept True P) : ∀ c t src n s, P s → P (State.meshSend c t src n s) := by
  intro c t src n s h
  induction n generalizing s with
  | zero => exact h
  | succ n ih =>
    unfold State.meshSend
    dsimp only
    repeat' split
    · exact h
    · exact foldl_kept (P := P) h fun _ _ hs => State.stir_kept hP _ _ hs
    · exact ih _ (State.putOut_kept hP _ _ _ _ _ (State.modEng_kept hP _ _ _ _ h))
    · exact h

theorem State.tileSends_kept {P : State → Prop} (hP : Kept True P) : ∀ s x2 x3, P s → P (State.tileSends s x2 x3) := by
  intros
  unfold State.tileSends
  repeat' (first
    | with_reducible assumption
    | intro _
    | with_reducible apply State.meshSend_kept hP
    | with_reducible apply State.lanesFlow_kept hP
    | with_reducible apply State.pump_kept hP
    | with_reducible apply ite_kept (P := P)
    | with_reducible apply foldl_kept (P := P)
    | with_reducible apply foldl_fst_kept (P := P)
    | with_reducible apply foldl_snd_kept (P := P)
    | split
    | dsimp only
    | with_reducible apply hP.upd)

theorem State.meshReceive_kept {P : State → Prop} (hP : Kept True P) : ∀ s x2 x3 x4, P s → P (State.meshReceive s x2 x3 x4) := by
  intros
  unfold State.meshReceive
  repeat' (first
    | with_reducible assumption
    | intro _
    | with_reducible apply State.rest_kept hP
    | with_reducible apply State.setMeshIn_kept hP
    | with_reducible apply State.wr_kept hP
    | with_reducible apply State.tileFault_kept hP
    | with_reducible apply State.count_kept hP
    | with_reducible apply State.putOut_kept hP
    | with_reducible apply State.tileSends_kept hP
    | with_reducible apply ite_kept (P := P)
    | with_reducible apply foldl_kept (P := P)
    | with_reducible apply foldl_fst_kept (P := P)
    | with_reducible apply foldl_snd_kept (P := P)
    | split
    | dsimp only
    | with_reducible apply hP.upd)

theorem execMeshLineReceive_kept {P : State → Prop} (hP : Kept True P) : ∀ x1 x2 x3 s, P s → ∀ t, execMeshLineReceive x1 x2 x3 s = .next t → P t := by
  intros
  rename_i e
  unfold execMeshLineReceive at e
  cases e
  repeat' (first
    | with_reducible assumption
    | intro _
    | with_reducible apply State.meshReceive_kept hP
    | with_reducible apply ite_kept (P := P)
    | with_reducible apply foldl_kept (P := P)
    | with_reducible apply foldl_fst_kept (P := P)
    | with_reducible apply foldl_snd_kept (P := P)
    | split
    | dsimp only
    | with_reducible apply hP.upd)

theorem State.meshFlow_kept {P : State → Prop} (hP : Kept True P) : ∀ c n s, P s → P (State.meshFlow c n s) := by
  intro c n s h
  induction n generalizing s with
  | zero => exact h
  | succ n ih =>
    unfold State.meshFlow
    split
    · exact ih _ (State.meshReceive_kept hP _ _ _ _ h)
    · exact h

theorem State.emptyNets_kept {P : State → Prop} (hP : Kept True P) : ∀ s x2, P s → P (State.emptyNets s x2) := by
  intros
  unfold State.emptyNets
  repeat' (first
    | with_reducible assumption
    | intro _
    | with_reducible apply State.meshFlow_kept hP
    | with_reducible apply State.lanesFlow_kept hP
    | with_reducible apply State.modCtx_kept hP
    | with_reducible apply State.dropLines_kept hP
    | with_reducible apply ite_kept (P := P)
    | with_reducible apply foldl_kept (P := P)
    | with_reducible apply foldl_fst_kept (P := P)
    | with_reducible apply foldl_snd_kept (P := P)
    | split
    | dsimp only
    | with_reducible apply hP.upd)

theorem State.refillNets_kept {m : Prop} {P : State → Prop} (hP : Kept m P) : ∀ s x2, P s → P (State.refillNets s x2) := by
  intros
  unfold State.refillNets
  repeat' (first
    | with_reducible assumption
    | intro _
    | with_reducible apply State.setMeshIn_kept hP
    | with_reducible apply State.setLane_kept hP
    | with_reducible apply State.modCtx_kept hP
    | with_reducible apply ite_kept (P := P)
    | with_reducible apply foldl_kept (P := P)
    | with_reducible apply foldl_fst_kept (P := P)
    | with_reducible apply foldl_snd_kept (P := P)
    | split
    | dsimp only
    | with_reducible apply hP.upd)

theorem State.edgeDrop_kept {P : State → Prop} (hP : Kept True P) : ∀ s x2 x3, P s → P (State.edgeDrop s x2 x3) := by
  intros
  unfold State.edgeDrop
  repeat' (first
    | with_reducible assumption
    | intro _
    | with_reducible apply State.setLane_kept hP
    | with_reducible apply State.wr_kept hP
    | with_reducible apply State.tileFault_kept hP
    | with_reducible apply State.lanesFlow_kept hP
    | with_reducible apply ite_kept (P := P)
    | with_reducible apply foldl_kept (P := P)
    | with_reducible apply foldl_fst_kept (P := P)
    | with_reducible apply foldl_snd_kept (P := P)
    | split
    | dsimp only
    | with_reducible apply hP.upd)

theorem execExpressEdgeDrop_kept {P : State → Prop} (hP : Kept True P) : ∀ x1 x2 s, P s → ∀ t, execExpressEdgeDrop x1 x2 s = .next t → P t := by
  intros
  rename_i e
  unfold execExpressEdgeDrop at e
  cases e
  repeat' (first
    | with_reducible assumption
    | intro _
    | with_reducible apply State.edgeDrop_kept hP
    | with_reducible apply ite_kept (P := P)
    | with_reducible apply foldl_kept (P := P)
    | with_reducible apply foldl_fst_kept (P := P)
    | with_reducible apply foldl_snd_kept (P := P)
    | split
    | dsimp only
    | with_reducible apply hP.upd)

theorem State.downlinkArrives_kept {m : Prop} {P : State → Prop} (hP : Kept m P) : ∀ s x2 x3, P s → P (State.downlinkArrives s x2 x3) := by
  intros
  unfold State.downlinkArrives
  repeat' (first
    | with_reducible assumption
    | intro _
    | with_reducible apply State.count_kept hP
    | with_reducible apply State.wr_kept hP
    | with_reducible apply State.tileFault_kept hP
    | with_reducible apply State.markBad_kept hP
    | with_reducible apply ite_kept (P := P)
    | with_reducible apply foldl_kept (P := P)
    | with_reducible apply foldl_fst_kept (P := P)
    | with_reducible apply foldl_snd_kept (P := P)
    | split
    | dsimp only
    | with_reducible apply hP.upd)

theorem State.downlinkLine_kept {m : Prop} {P : State → Prop} (hP : Kept m P) : ∀ s x2 x3, P s → P (State.downlinkLine s x2 x3) := by
  intros
  unfold State.downlinkLine
  repeat' (first
    | with_reducible assumption
    | intro _
    | with_reducible apply State.inc_kept hP
    | with_reducible apply State.stir_kept hP
    | with_reducible apply State.downlinkArrives_kept hP
    | with_reducible apply ite_kept (P := P)
    | with_reducible apply foldl_kept (P := P)
    | with_reducible apply foldl_fst_kept (P := P)
    | with_reducible apply foldl_snd_kept (P := P)
    | split
    | dsimp only
    | with_reducible apply hP.upd)

theorem State.unpark_kept {P : State → Prop} (hP : Kept True P) : ∀ s x2, P s → P (State.unpark s x2) := by
  intros
  unfold State.unpark
  repeat' (first
    | with_reducible assumption
    | intro _
    | with_reducible apply State.wrBytes_kept hP
    | with_reducible apply State.count_kept hP
    | with_reducible apply ite_kept (P := P)
    | with_reducible apply foldl_kept (P := P)
    | with_reducible apply foldl_fst_kept (P := P)
    | with_reducible apply foldl_snd_kept (P := P)
    | split
    | dsimp only
    | with_reducible apply hP.upd)

theorem State.downlinkReleases_kept {P : State → Prop} (hP : Kept True P) : ∀ s x2 x3, P s → P (State.downlinkReleases s x2 x3) := by
  intros
  unfold State.downlinkReleases
  repeat' (first
    | with_reducible assumption
    | intro _
    | with_reducible apply State.unpark_kept hP
    | with_reducible apply State.downlinkArrives_kept hP
    | with_reducible apply ite_kept (P := P)
    | with_reducible apply foldl_kept (P := P)
    | with_reducible apply foldl_fst_kept (P := P)
    | with_reducible apply foldl_snd_kept (P := P)
    | split
    | dsimp only
    | with_reducible apply hP.upd)

theorem execDownlinkLineReceive_kept {m : Prop} {P : State → Prop} (hP : Kept m P) : ∀ x1 x2 s, P s → ∀ t, execDownlinkLineReceive x1 x2 s = .next t → P t := by
  intros
  rename_i e
  unfold execDownlinkLineReceive at e
  cases e
  repeat' (first
    | with_reducible assumption
    | intro _
    | with_reducible apply State.downlinkLine_kept hP
    | with_reducible apply ite_kept (P := P)
    | with_reducible apply foldl_kept (P := P)
    | with_reducible apply foldl_fst_kept (P := P)
    | with_reducible apply foldl_snd_kept (P := P)
    | split
    | dsimp only
    | with_reducible apply hP.upd)

theorem State.downlinkTimeout_kept {m : Prop} {P : State → Prop} (hP : Kept m P) : ∀ s x2, P s → P (State.downlinkTimeout s x2) := by
  intros
  unfold State.downlinkTimeout
  repeat' (first
    | with_reducible assumption
    | intro _
    | with_reducible apply State.modEng_kept hP
    | with_reducible apply State.wr_kept hP
    | with_reducible apply State.fault_kept hP
    | with_reducible apply ite_kept (P := P)
    | with_reducible apply foldl_kept (P := P)
    | with_reducible apply foldl_fst_kept (P := P)
    | with_reducible apply foldl_snd_kept (P := P)
    | split
    | dsimp only
    | with_reducible apply hP.upd)

theorem execDownlinkRequestTimeout_kept {m : Prop} {P : State → Prop} (hP : Kept m P) : ∀ x1 s, P s → ∀ t, execDownlinkRequestTimeout x1 s = .next t → P t := by
  intros
  rename_i e
  unfold execDownlinkRequestTimeout at e
  cases e
  repeat' (first
    | with_reducible assumption
    | intro _
    | with_reducible apply State.downlinkTimeout_kept hP
    | with_reducible apply ite_kept (P := P)
    | with_reducible apply foldl_kept (P := P)
    | with_reducible apply foldl_fst_kept (P := P)
    | with_reducible apply foldl_snd_kept (P := P)
    | split
    | dsimp only
    | with_reducible apply hP.upd)

theorem State.poison_kept {m : Prop} {P : State → Prop} (hP : Kept m P) : ∀ s x2 x3, P s → P (State.poison s x2 x3) := by
  intros
  unfold State.poison
  repeat' (first
    | with_reducible assumption
    | intro _
    | with_reducible apply State.wr_kept hP
    | with_reducible apply State.inc_kept hP
    | with_reducible apply ite_kept (P := P)
    | with_reducible apply foldl_kept (P := P)
    | with_reducible apply foldl_fst_kept (P := P)
    | with_reducible apply foldl_snd_kept (P := P)
    | split
    | dsimp only
    | with_reducible apply hP.upd)

theorem State.eccCorrected_kept {m : Prop} {P : State → Prop} (hP : Kept m P) : ∀ s x2 x3, P s → P (State.eccCorrected s x2 x3) := by
  intros
  unfold State.eccCorrected
  repeat' (first
    | with_reducible assumption
    | intro _
    | with_reducible apply State.wr_kept hP
    | with_reducible apply State.inc_kept hP
    | with_reducible apply ite_kept (P := P)
    | with_reducible apply foldl_kept (P := P)
    | with_reducible apply foldl_fst_kept (P := P)
    | with_reducible apply foldl_snd_kept (P := P)
    | split
    | dsimp only
    | with_reducible apply hP.upd)

theorem State.readFault_kept {m : Prop} {P : State → Prop} (hP : Kept m P) : ∀ s x2 x3, P s → P (State.readFault s x2 x3) := by
  intros
  unfold State.readFault
  repeat' (first
    | with_reducible assumption
    | intro _
    | with_reducible apply State.fault_kept hP
    | with_reducible apply ite_kept (P := P)
    | with_reducible apply foldl_kept (P := P)
    | with_reducible apply foldl_fst_kept (P := P)
    | with_reducible apply foldl_snd_kept (P := P)
    | split
    | dsimp only
    | with_reducible apply hP.upd)

theorem State.requestWay_kept {m : Prop} {P : State → Prop} (hP : Kept m P) : ∀ s x2 x3 x4, P s → P (State.requestWay s x2 x3 x4) := by
  intros
  unfold State.requestWay
  repeat' (first
    | with_reducible assumption
    | intro _
    | with_reducible apply State.underlay_kept hP
    | with_reducible apply State.free_kept hP
    | with_reducible apply ite_kept (P := P)
    | with_reducible apply foldl_kept (P := P)
    | with_reducible apply foldl_fst_kept (P := P)
    | with_reducible apply foldl_snd_kept (P := P)
    | split
    | dsimp only
    | with_reducible apply hP.upd)

theorem State.stackRequest_kept {P : State → Prop} (hP : Kept True P) : ∀ s x2 x3 x4 x5 x6, P s → P (State.stackRequest s x2 x3 x4 x5 x6) := by
  intros
  unfold State.stackRequest
  repeat' (first
    | with_reducible assumption
    | intro _
    | with_reducible apply State.requestWay_kept hP
    | with_reducible apply State.stackCount_kept hP
    | with_reducible apply State.wrBytes_kept hP
    | with_reducible apply State.readFault_kept hP
    | with_reducible apply State.eccCorrected_kept hP
    | with_reducible apply State.poison_kept hP
    | with_reducible apply ite_kept (P := P)
    | with_reducible apply foldl_kept (P := P)
    | with_reducible apply foldl_fst_kept (P := P)
    | with_reducible apply foldl_snd_kept (P := P)
    | split
    | dsimp only
    | with_reducible apply hP.upd)

theorem execStackRequest_kept {P : State → Prop} (hP : Kept True P) : ∀ x1 x2 x3 x4 x5 s, P s → ∀ t, execStackRequest x1 x2 x3 x4 x5 s = .next t → P t := by
  intros
  rename_i e
  unfold execStackRequest at e
  cases e
  repeat' (first
    | with_reducible assumption
    | intro _
    | with_reducible apply State.stackRequest_kept hP
    | with_reducible apply ite_kept (P := P)
    | with_reducible apply foldl_kept (P := P)
    | with_reducible apply foldl_fst_kept (P := P)
    | with_reducible apply foldl_snd_kept (P := P)
    | split
    | dsimp only
    | with_reducible apply hP.upd)

theorem State.scrubUnit_kept {m : Prop} {P : State → Prop} (hP : Kept m P) : ∀ s x2 x3 x4, P s → P (State.scrubUnit s x2 x3 x4) := by
  intros
  unfold State.scrubUnit
  repeat' (first
    | with_reducible assumption
    | intro _
    | with_reducible apply State.wr_kept hP
    | with_reducible apply State.eccCorrected_kept hP
    | with_reducible apply State.poison_kept hP
    | with_reducible apply State.fault_kept hP
    | with_reducible apply ite_kept (P := P)
    | with_reducible apply foldl_kept (P := P)
    | with_reducible apply foldl_fst_kept (P := P)
    | with_reducible apply foldl_snd_kept (P := P)
    | split
    | dsimp only
    | with_reducible apply hP.upd)

theorem execStackScrubUnit_kept {m : Prop} {P : State → Prop} (hP : Kept m P) : ∀ x1 x2 x3 s, P s → ∀ t, execStackScrubUnit x1 x2 x3 s = .next t → P t := by
  intros
  rename_i e
  unfold execStackScrubUnit at e
  cases e
  repeat' (first
    | with_reducible assumption
    | intro _
    | with_reducible apply State.scrubUnit_kept hP
    | with_reducible apply ite_kept (P := P)
    | with_reducible apply foldl_kept (P := P)
    | with_reducible apply foldl_fst_kept (P := P)
    | with_reducible apply foldl_snd_kept (P := P)
    | split
    | dsimp only
    | with_reducible apply hP.upd)

theorem State.loseStack_kept {m : Prop} {P : State → Prop} (hP : Kept m P) : ∀ s x2, P s → P (State.loseStack s x2) := by
  intros
  unfold State.loseStack
  repeat' (first
    | with_reducible assumption
    | intro _
    | with_reducible apply State.wrBit_kept hP
    | with_reducible apply State.wr_kept hP
    | with_reducible apply State.fault_kept hP
    | with_reducible apply ite_kept (P := P)
    | with_reducible apply foldl_kept (P := P)
    | with_reducible apply foldl_fst_kept (P := P)
    | with_reducible apply foldl_snd_kept (P := P)
    | split
    | dsimp only
    | with_reducible apply hP.upd)

theorem execStackLost_kept {m : Prop} {P : State → Prop} (hP : Kept m P) : ∀ x1 s, P s → ∀ t, execStackLost x1 s = .next t → P t := by
  intros
  rename_i e
  unfold execStackLost at e
  cases e
  repeat' (first
    | with_reducible assumption
    | intro _
    | with_reducible apply State.loseStack_kept hP
    | with_reducible apply ite_kept (P := P)
    | with_reducible apply foldl_kept (P := P)
    | with_reducible apply foldl_fst_kept (P := P)
    | with_reducible apply foldl_snd_kept (P := P)
    | split
    | dsimp only
    | with_reducible apply hP.upd)

theorem State.heartbeat_kept {m : Prop} {P : State → Prop} (hP : Kept m P) : ∀ s x2 x3 x4, P s → P (State.heartbeat s x2 x3 x4) := by
  intros
  unfold State.heartbeat
  repeat' (first
    | with_reducible assumption
    | intro _
    | with_reducible apply State.fault_kept hP
    | with_reducible apply State.markBad_kept hP
    | with_reducible apply ite_kept (P := P)
    | with_reducible apply foldl_kept (P := P)
    | with_reducible apply foldl_fst_kept (P := P)
    | with_reducible apply foldl_snd_kept (P := P)
    | split
    | dsimp only
    | with_reducible apply hP.upd)

theorem execHeartbeatTimeout_kept {m : Prop} {P : State → Prop} (hP : Kept m P) : ∀ x1 x2 x3 s, P s → ∀ t, execHeartbeatTimeout x1 x2 x3 s = .next t → P t := by
  intros
  rename_i e
  unfold execHeartbeatTimeout at e
  cases e
  repeat' (first
    | with_reducible assumption
    | intro _
    | with_reducible apply State.heartbeat_kept hP
    | with_reducible apply ite_kept (P := P)
    | with_reducible apply foldl_kept (P := P)
    | with_reducible apply foldl_fst_kept (P := P)
    | with_reducible apply foldl_snd_kept (P := P)
    | split
    | dsimp only
    | with_reducible apply hP.upd)

/-! ### Ring -/

theorem State.setRing_kept {m : Prop} {P : State → Prop} (hP : Kept m P) : ∀ s x2, P s → P (State.setRing s x2) := by
  intros
  unfold State.setRing
  repeat' (first
    | with_reducible assumption
    | intro _
    | with_reducible apply ite_kept (P := P)
    | with_reducible apply foldl_kept (P := P)
    | with_reducible apply foldl_fst_kept (P := P)
    | with_reducible apply foldl_snd_kept (P := P)
    | split
    | dsimp only
    | with_reducible apply hP.upd)

theorem State.dropRing_kept {m : Prop} {P : State → Prop} (hP : Kept m P) : ∀ s x2 x3 x4, P s → P (State.dropRing s x2 x3 x4) := by
  intros
  unfold State.dropRing
  repeat' (first
    | with_reducible assumption
    | intro _
    | with_reducible apply ite_kept (P := P)
    | with_reducible apply foldl_kept (P := P)
    | with_reducible apply foldl_fst_kept (P := P)
    | with_reducible apply foldl_snd_kept (P := P)
    | split
    | dsimp only
    | with_reducible apply hP.upd)

theorem State.ringPut_kept {P : State → Prop} (hP : Kept True P) : ∀ s x2 x3, P s → P (State.ringPut s x2 x3) := by
  intros
  unfold State.ringPut
  repeat' (first
    | with_reducible assumption
    | intro _
    | with_reducible apply State.wrPart_kept hP
    | with_reducible apply State.setRing_kept hP
    | with_reducible apply ite_kept (P := P)
    | with_reducible apply foldl_kept (P := P)
    | with_reducible apply foldl_fst_kept (P := P)
    | with_reducible apply foldl_snd_kept (P := P)
    | split
    | dsimp only
    | with_reducible apply hP.upd)

theorem State.trace_kept {P : State → Prop} (hP : Kept True P) : ∀ s x2 x3, P s → P (State.trace s x2 x3) := by
  intros
  unfold State.trace
  repeat' (first
    | with_reducible assumption
    | intro _
    | with_reducible apply State.inc_kept hP
    | with_reducible apply State.ringPut_kept hP
    | with_reducible apply ite_kept (P := P)
    | with_reducible apply foldl_kept (P := P)
    | with_reducible apply foldl_fst_kept (P := P)
    | with_reducible apply foldl_snd_kept (P := P)
    | split
    | dsimp only
    | with_reducible apply hP.upd)

end Sys2Proof.Machine
end

