-- ==== Sys2Proof/Laws/KeptWork.lean ====
section
/-! SUPPORT. What every operation keeps, by unit: the instruction streams, program load, weights and storage. -/

set_option Elab.async false
set_option linter.unusedTactic false
set_option linter.unreachableTactic false

namespace Sys2Proof.Machine

/-! ### Stream -/

theorem State.attribute_kept {m : Prop} {P : State → Prop} (hP : Kept m P) : ∀ s x2 x3 x4, P s → P (State.attribute s x2 x3 x4) := by
  intros
  unfold State.attribute
  repeat' (first
    | with_reducible assumption
    | intro _
    | with_reducible apply State.free_kept hP
    | with_reducible apply State.modEng_kept hP
    | with_reducible apply ite_kept (P := P)
    | with_reducible apply foldl_kept (P := P)
    | with_reducible apply foldl_fst_kept (P := P)
    | with_reducible apply foldl_snd_kept (P := P)
    | split
    | dsimp only
    | with_reducible apply hP.upd)

theorem State.heldCycle_kept {m : Prop} {P : State → Prop} (hP : Kept m P) : ∀ s x2 x3 x4 x5, P s → P (State.heldCycle s x2 x3 x4 x5) := by
  intros
  unfold State.heldCycle
  repeat' (first
    | with_reducible assumption
    | intro _
    | with_reducible apply State.wr_kept hP
    | with_reducible apply State.slipBy_kept hP
    | with_reducible apply State.count_kept hP
    | with_reducible apply State.attribute_kept hP
    | with_reducible apply State.limited_kept hP
    | with_reducible apply ite_kept (P := P)
    | with_reducible apply foldl_kept (P := P)
    | with_reducible apply foldl_fst_kept (P := P)
    | with_reducible apply foldl_snd_kept (P := P)
    | split
    | dsimp only
    | with_reducible apply hP.upd)

theorem State.semTake_kept {m : Prop} {P : State → Prop} (hP : Kept m P) : ∀ s x2 x3 x4 x5, P s → P (State.semTake s x2 x3 x4 x5) := by
  intros
  unfold State.semTake
  repeat' (first
    | with_reducible assumption
    | intro _
    | with_reducible apply State.dec_kept hP
    | with_reducible apply State.modEng_kept hP
    | with_reducible apply ite_kept (P := P)
    | with_reducible apply foldl_kept (P := P)
    | with_reducible apply foldl_fst_kept (P := P)
    | with_reducible apply foldl_snd_kept (P := P)
    | split
    | dsimp only
    | with_reducible apply hP.upd)

theorem State.semSignal_kept {m : Prop} {P : State → Prop} (hP : Kept m P) : ∀ s x2 x3 x4, P s → P (State.semSignal s x2 x3 x4) := by
  intros
  unfold State.semSignal
  repeat' (first
    | with_reducible assumption
    | intro _
    | with_reducible apply State.wr_kept hP
    | with_reducible apply State.tileFault_kept hP
    | with_reducible apply ite_kept (P := P)
    | with_reducible apply foldl_kept (P := P)
    | with_reducible apply foldl_fst_kept (P := P)
    | with_reducible apply foldl_snd_kept (P := P)
    | split
    | dsimp only
    | with_reducible apply hP.upd)

theorem State.advancePc_kept {m : Prop} {P : State → Prop} (hP : Kept m P) : ∀ s x2 x3 x4, P s → P (State.advancePc s x2 x3 x4) := by
  intros
  unfold State.advancePc
  repeat' (first
    | with_reducible assumption
    | intro _
    | with_reducible apply State.modEng_kept hP
    | with_reducible apply State.wr_kept hP
    | with_reducible apply ite_kept (P := P)
    | with_reducible apply foldl_kept (P := P)
    | with_reducible apply foldl_fst_kept (P := P)
    | with_reducible apply foldl_snd_kept (P := P)
    | split
    | dsimp only
    | with_reducible apply hP.upd)

theorem State.applySettings_kept {m : Prop} {P : State → Prop} (hP : Kept m P) : ∀ s x2 x3 x4, P s → P (State.applySettings s x2 x3 x4) := by
  intros
  unfold State.applySettings
  repeat' (first
    | with_reducible assumption
    | intro _
    | with_reducible apply hP.setReg
    | with_reducible apply State.setEng_kept hP
    | with_reducible apply State.tileFault_kept hP
    | with_reducible apply ite_kept (P := P)
    | with_reducible apply foldl_kept (P := P)
    | with_reducible apply foldl_fst_kept (P := P)
    | with_reducible apply foldl_snd_kept (P := P)
    | split
    | dsimp only
    | with_reducible apply hP.upd)

theorem State.showPass_kept {m : Prop} {P : State → Prop} (hP : Kept m P) : ∀ s x2 x3, P s → P (State.showPass s x2 x3) := by
  intros
  unfold State.showPass
  repeat' (first
    | with_reducible assumption
    | intro _
    | with_reducible apply State.wr_kept hP
    | with_reducible apply ite_kept (P := P)
    | with_reducible apply foldl_kept (P := P)
    | with_reducible apply foldl_fst_kept (P := P)
    | with_reducible apply foldl_snd_kept (P := P)
    | split
    | dsimp only
    | with_reducible apply hP.upd)

theorem State.startUnits_kept {m : Prop} {P : State → Prop} (hP : Kept m P) : ∀ s x2 x3 x4, P s → P (State.startUnits s x2 x3 x4) := by
  intros
  unfold State.startUnits
  repeat' (first
    | with_reducible assumption
    | intro _
    | with_reducible apply State.drain_kept hP
    | with_reducible apply State.contends_kept hP
    | with_reducible apply State.setEng_kept hP
    | with_reducible apply State.refill_kept hP
    | with_reducible apply State.wr_kept hP
    | with_reducible apply State.showPass_kept hP
    | with_reducible apply State.wrBit_kept hP
    | with_reducible apply ite_kept (P := P)
    | with_reducible apply foldl_kept (P := P)
    | with_reducible apply foldl_fst_kept (P := P)
    | with_reducible apply foldl_snd_kept (P := P)
    | split
    | dsimp only
    | with_reducible apply hP.upd)

theorem State.issueWord_kept {P : State → Prop} (hP : Kept True P) : ∀ s x2 x3 x4, P s → P (State.issueWord s x2 x3 x4) := by
  intros
  unfold State.issueWord
  repeat' (first
    | with_reducible assumption
    | intro _
    | with_reducible apply State.semTake_kept hP
    | with_reducible apply State.semSignal_kept hP
    | with_reducible apply State.trace_kept hP
    | with_reducible apply State.applySettings_kept hP
    | with_reducible apply State.startUnits_kept hP
    | with_reducible apply State.advancePc_kept hP
    | with_reducible apply State.schedule_kept hP
    | with_reducible apply State.limited_kept hP
    | with_reducible apply State.wr_kept hP
    | with_reducible apply State.tileSends_kept hP
    | with_reducible apply ite_kept (P := P)
    | with_reducible apply foldl_kept (P := P)
    | with_reducible apply foldl_fst_kept (P := P)
    | with_reducible apply foldl_snd_kept (P := P)
    | split
    | dsimp only
    | with_reducible apply hP.upd)

theorem State.insEcc_kept {m : Prop} {P : State → Prop} (hP : Kept m P) : ∀ s x2 x3, P s → P (State.insEcc s x2 x3) := by
  intros
  unfold State.insEcc
  repeat' (first
    | with_reducible assumption
    | intro _
    | with_reducible apply State.inc_kept hP
    | with_reducible apply State.wr_kept hP
    | with_reducible apply State.tileFault_kept hP
    | with_reducible apply ite_kept (P := P)
    | with_reducible apply foldl_kept (P := P)
    | with_reducible apply foldl_fst_kept (P := P)
    | with_reducible apply foldl_snd_kept (P := P)
    | split
    | dsimp only
    | with_reducible apply hP.upd)

/-! ### Access -/

theorem State.rdUnits_kept {m : Prop} {P : State → Prop} (hP : Kept m P) : ∀ s x2 x3 x4, P s → P (State.rdUnits s x2 x3 x4).2 := by
  intros
  unfold State.rdUnits
  repeat' (first
    | with_reducible assumption
    | intro _
    | with_reducible apply State.inc_kept hP
    | with_reducible apply ite_kept (P := P)
    | with_reducible apply foldl_kept (P := P)
    | with_reducible apply foldl_fst_kept (P := P)
    | with_reducible apply foldl_snd_kept (P := P)
    | split
    | dsimp only
    | with_reducible apply hP.upd)

theorem State.wrUnits_kept {P : State → Prop} (hP : Kept True P) : ∀ s x2 x3 x4, P s → P (State.wrUnits s x2 x3 x4) := by
  intros
  unfold State.wrUnits
  repeat' (first
    | with_reducible assumption
    | intro _
    | with_reducible apply State.wrPart_kept hP
    | with_reducible apply State.inc_kept hP
    | with_reducible apply ite_kept (P := P)
    | with_reducible apply foldl_kept (P := P)
    | with_reducible apply foldl_fst_kept (P := P)
    | with_reducible apply foldl_snd_kept (P := P)
    | split
    | dsimp only
    | with_reducible apply hP.upd)

theorem State.requestsWait_kept {m : Prop} {P : State → Prop} (hP : Kept m P) : ∀ s x2 x3 x4, P s → P (State.requestsWait s x2 x3 x4) := by
  intros
  unfold State.requestsWait
  repeat' (first
    | with_reducible assumption
    | intro _
    | with_reducible apply State.stir_kept hP
    | with_reducible apply State.free_kept hP
    | with_reducible apply State.count_kept hP
    | with_reducible apply ite_kept (P := P)
    | with_reducible apply foldl_kept (P := P)
    | with_reducible apply foldl_fst_kept (P := P)
    | with_reducible apply foldl_snd_kept (P := P)
    | split
    | dsimp only
    | with_reducible apply hP.upd)

theorem State.accessIssue_kept {m : Prop} {P : State → Prop} (hP : Kept m P) : ∀ s x2 x3, P s → P (State.accessIssue s x2 x3) := by
  intros
  unfold State.accessIssue
  repeat' (first
    | with_reducible assumption
    | intro _
    | with_reducible apply State.insEcc_kept hP
    | with_reducible apply State.modEng_kept hP
    | with_reducible apply State.count_kept hP
    | with_reducible apply State.tileFault_kept hP
    | with_reducible apply State.dec_kept hP
    | with_reducible apply State.takeCredits_kept hP
    | with_reducible apply State.wr_kept hP
    | with_reducible apply State.schedule_kept hP
    | with_reducible apply State.requestsWait_kept hP
    | with_reducible apply State.contends_kept hP
    | with_reducible apply ite_kept (P := P)
    | with_reducible apply foldl_kept (P := P)
    | with_reducible apply foldl_fst_kept (P := P)
    | with_reducible apply foldl_snd_kept (P := P)
    | split
    | dsimp only
    | with_reducible apply hP.upd)

theorem execAccessWordIssue_kept {m : Prop} {P : State → Prop} (hP : Kept m P) : ∀ x1 x2 s, P s → ∀ t, execAccessWordIssue x1 x2 s = .next t → P t := by
  intros
  rename_i e
  unfold execAccessWordIssue at e
  cases e
  repeat' (first
    | with_reducible assumption
    | intro _
    | with_reducible apply State.accessIssue_kept hP
    | with_reducible apply ite_kept (P := P)
    | with_reducible apply foldl_kept (P := P)
    | with_reducible apply foldl_fst_kept (P := P)
    | with_reducible apply foldl_snd_kept (P := P)
    | split
    | dsimp only
    | with_reducible apply hP.upd)

theorem State.wrStore_kept {P : State → Prop} (hP : Kept True P) : ∀ s x2 x3 x4 x5 x6, P s → P (State.wrStore s x2 x3 x4 x5 x6) := by
  intros
  unfold State.wrStore
  repeat' (first
    | with_reducible assumption
    | intro _
    | with_reducible apply (hP.wrB trivial)
    | with_reducible apply ite_kept (P := P)
    | with_reducible apply foldl_kept (P := P)
    | with_reducible apply foldl_fst_kept (P := P)
    | with_reducible apply foldl_snd_kept (P := P)
    | split
    | dsimp only
    | with_reducible apply hP.upd)

theorem State.wrSide_kept {P : State → Prop} (hP : Kept True P) : ∀ s x2 x3 x4 x5 x6, P s → P (State.wrSide s x2 x3 x4 x5 x6) := by
  intros
  unfold State.wrSide
  repeat' (first
    | with_reducible assumption
    | intro _
    | with_reducible apply State.wrSram_kept hP
    | with_reducible apply State.wrStore_kept hP
    | with_reducible apply ite_kept (P := P)
    | with_reducible apply foldl_kept (P := P)
    | with_reducible apply foldl_fst_kept (P := P)
    | with_reducible apply foldl_snd_kept (P := P)
    | split
    | dsimp only
    | with_reducible apply hP.upd)

theorem State.stackLine_kept {m : Prop} {P : State → Prop} (hP : Kept m P) : ∀ s x2 x3 x4 x5, P s → P (State.stackLine s x2 x3 x4 x5) := by
  intros
  unfold State.stackLine
  repeat' (first
    | with_reducible assumption
    | intro _
    | with_reducible apply State.underlay_kept hP
    | with_reducible apply State.stackCount_kept hP
    | with_reducible apply ite_kept (P := P)
    | with_reducible apply foldl_kept (P := P)
    | with_reducible apply foldl_fst_kept (P := P)
    | with_reducible apply foldl_snd_kept (P := P)
    | split
    | dsimp only
    | with_reducible apply hP.upd)

theorem State.wordTraffic_kept {m : Prop} {P : State → Prop} (hP : Kept m P) : ∀ s x2 x3 x4, P s → P (State.wordTraffic s x2 x3 x4) := by
  intros
  unfold State.wordTraffic
  repeat' (first
    | with_reducible assumption
    | intro _
    | with_reducible apply State.stackLine_kept hP
    | with_reducible apply State.underlay_kept hP
    | with_reducible apply ite_kept (P := P)
    | with_reducible apply foldl_kept (P := P)
    | with_reducible apply foldl_fst_kept (P := P)
    | with_reducible apply foldl_snd_kept (P := P)
    | split
    | dsimp only
    | with_reducible apply hP.upd)

theorem State.wordLines_kept {m : Prop} {P : State → Prop} (hP : Kept m P) : ∀ s x2 x3, P s → P (State.wordLines s x2 x3) := by
  intros
  unfold State.wordLines
  repeat' (first
    | with_reducible assumption
    | intro _
    | with_reducible apply State.count_kept hP
    | with_reducible apply ite_kept (P := P)
    | with_reducible apply foldl_kept (P := P)
    | with_reducible apply foldl_fst_kept (P := P)
    | with_reducible apply foldl_snd_kept (P := P)
    | split
    | dsimp only
    | with_reducible apply hP.upd)

theorem State.accessMove_kept {P : State → Prop} (hP : Kept True P) : ∀ s x2 x3 x4, P s → P (State.accessMove s x2 x3 x4) := by
  intros
  unfold State.accessMove
  repeat' (first
    | with_reducible assumption
    | intro _
    | with_reducible apply State.wordTraffic_kept hP
    | with_reducible apply State.wordLines_kept hP
    | with_reducible apply State.rdUnits_kept hP
    | with_reducible apply State.wrSram_kept hP
    | with_reducible apply State.wrUnits_kept hP
    | with_reducible apply State.wrStore_kept hP
    | with_reducible apply State.wrSide_kept hP
    | with_reducible apply State.setStream_kept hP
    | with_reducible apply State.sendMessage_kept hP
    | with_reducible apply ite_kept (P := P)
    | with_reducible apply foldl_kept (P := P)
    | with_reducible apply foldl_fst_kept (P := P)
    | with_reducible apply foldl_snd_kept (P := P)
    | split
    | dsimp only
    | with_reducible apply hP.upd)

theorem State.drainWord_kept {P : State → Prop} (hP : Kept True P) : ∀ s x2 x3 x4, P s → P (State.drainWord s x2 x3 x4) := by
  intros
  unfold State.drainWord
  repeat' (first
    | with_reducible assumption
    | intro _
    | with_reducible apply State.checkedRead_kept hP
    | with_reducible apply State.accessMove_kept hP
    | with_reducible apply State.returnCredits_kept hP
    | with_reducible apply State.modEng_kept hP
    | with_reducible apply State.showDraining_kept hP
    | with_reducible apply ite_kept (P := P)
    | with_reducible apply foldl_kept (P := P)
    | with_reducible apply foldl_fst_kept (P := P)
    | with_reducible apply foldl_snd_kept (P := P)
    | split
    | dsimp only
    | with_reducible apply hP.upd)

theorem State.gatedWaits_kept {m : Prop} {P : State → Prop} (hP : Kept m P) : ∀ s x2, P s → P (State.gatedWaits s x2) := by
  intros
  unfold State.gatedWaits
  repeat' (first
    | with_reducible assumption
    | intro _
    | with_reducible apply State.stir_kept hP
    | with_reducible apply ite_kept (P := P)
    | with_reducible apply foldl_kept (P := P)
    | with_reducible apply foldl_fst_kept (P := P)
    | with_reducible apply foldl_snd_kept (P := P)
    | split
    | dsimp only
    | with_reducible apply hP.upd)

theorem State.completeHead_kept {P : State → Prop} (hP : Kept True P) : ∀ s x2 x3 x4 x5 x6, P s → P (State.completeHead s x2 x3 x4 x5 x6) := by
  intros
  unfold State.completeHead
  repeat' (first
    | with_reducible assumption
    | intro _
    | with_reducible apply State.sramEcc_kept hP
    | with_reducible apply State.tileFault_kept hP
    | with_reducible apply State.accessMove_kept hP
    | with_reducible apply State.returnCredits_kept hP
    | with_reducible apply State.modEng_kept hP
    | with_reducible apply State.rest_kept hP
    | with_reducible apply State.wr_kept hP
    | with_reducible apply State.semSignal_kept hP
    | with_reducible apply ite_kept (P := P)
    | with_reducible apply foldl_kept (P := P)
    | with_reducible apply foldl_fst_kept (P := P)
    | with_reducible apply foldl_snd_kept (P := P)
    | split
    | dsimp only
    | with_reducible apply hP.upd)

theorem State.accessComplete_kept {P : State → Prop} (hP : Kept True P) : ∀ s x2 x3, P s → P (State.accessComplete s x2 x3) := by
  intros
  unfold State.accessComplete
  repeat' (first
    | with_reducible assumption
    | intro _
    | with_reducible apply State.drain_kept hP
    | with_reducible apply State.drainWord_kept hP
    | with_reducible apply State.gatedWaits_kept hP
    | with_reducible apply State.rest_kept hP
    | with_reducible apply State.completeHead_kept hP
    | with_reducible apply ite_kept (P := P)
    | with_reducible apply foldl_kept (P := P)
    | with_reducible apply foldl_fst_kept (P := P)
    | with_reducible apply foldl_snd_kept (P := P)
    | split
    | dsimp only
    | with_reducible apply hP.upd)

theorem State.settleStack_kept {P : State → Prop} (hP : Kept True P) : ∀ s x2 x3, P s → P (State.settleStack s x2 x3) := by
  intros
  unfold State.settleStack
  repeat' (first
    | with_reducible assumption
    | intro _
    | with_reducible apply State.openEcc_kept hP
    | with_reducible apply State.completeHead_kept hP
    | with_reducible apply State.checkedRead_kept hP
    | with_reducible apply State.tileFault_kept hP
    | with_reducible apply State.accessMove_kept hP
    | with_reducible apply State.modEng_kept hP
    | with_reducible apply ite_kept (P := P)
    | with_reducible apply foldl_kept (P := P)
    | with_reducible apply foldl_fst_kept (P := P)
    | with_reducible apply foldl_snd_kept (P := P)
    | split
    | dsimp only
    | with_reducible apply hP.upd)

theorem execAccessWordComplete_kept {P : State → Prop} (hP : Kept True P) : ∀ x1 x2 s, P s → ∀ t, execAccessWordComplete x1 x2 s = .next t → P t := by
  intros
  rename_i e
  unfold execAccessWordComplete at e
  cases e
  repeat' (first
    | with_reducible assumption
    | intro _
    | with_reducible apply State.accessComplete_kept hP
    | with_reducible apply ite_kept (P := P)
    | with_reducible apply foldl_kept (P := P)
    | with_reducible apply foldl_fst_kept (P := P)
    | with_reducible apply foldl_snd_kept (P := P)
    | split
    | dsimp only
    | with_reducible apply hP.upd)

/-! ### Prog -/

theorem doProgramOpen_kept {m : Prop} {P : State → Prop} (hP : Kept m P) : ∀ x1 x2 x3 s, P s → P (doProgramOpen x1 x2 x3 s) := by
  intros
  unfold doProgramOpen
  repeat' (first
    | with_reducible assumption
    | intro _
    | with_reducible apply State.modCtx_kept hP
    | with_reducible apply State.reply_kept hP
    | with_reducible apply ite_kept (P := P)
    | with_reducible apply foldl_kept (P := P)
    | with_reducible apply foldl_fst_kept (P := P)
    | with_reducible apply foldl_snd_kept (P := P)
    | split
    | dsimp only
    | with_reducible apply hP.upd)

theorem fwProgramOpen_kept {m : Prop} {P : State → Prop} (hP : Kept m P) : ∀ x1 x2 x3, Fw.Keeps P (fwProgramOpen x1 x2 x3) := by
  intros
  unfold fwProgramOpen
  repeat' (first
    | with_reducible assumption
    | intro _
    | with_reducible apply doProgramOpen_kept hP
    | with_reducible apply ite_kept (P := P)
    | with_reducible apply foldl_kept (P := P)
    | with_reducible apply foldl_fst_kept (P := P)
    | with_reducible apply foldl_snd_kept (P := P)
    | split
    | dsimp only
    | with_reducible apply Fw.Keeps.mk
    | with_reducible apply hP.upd)

theorem execProgramOpen_kept {m : Prop} {P : State → Prop} (hP : Kept m P) : ∀ x1 x2 x3 s, P s → ∀ t, execProgramOpen x1 x2 x3 s = .next t → P t := by
  intros
  rename_i e
  unfold execProgramOpen at e
  cases e
  repeat' (first
    | with_reducible assumption
    | intro _
    | with_reducible apply State.fwCommand_kept hP
    | with_reducible apply fwProgramOpen_kept hP
    | with_reducible apply ite_kept (P := P)
    | with_reducible apply foldl_kept (P := P)
    | with_reducible apply foldl_fst_kept (P := P)
    | with_reducible apply foldl_snd_kept (P := P)
    | split
    | dsimp only
    | with_reducible apply hP.upd)

theorem execProgramData_kept {m : Prop} {P : State → Prop} (hP : Kept m P) : ∀ x1 x2 x3 s, P s → ∀ t, execProgramData x1 x2 x3 s = .next t → P t := by
  intros
  rename_i e
  unfold execProgramData at e
  cases e
  repeat' (first
    | with_reducible assumption
    | intro _
    | with_reducible apply State.command_kept hP
    | with_reducible apply State.modCtx_kept hP
    | with_reducible apply State.reply_kept hP
    | with_reducible apply ite_kept (P := P)
    | with_reducible apply foldl_kept (P := P)
    | with_reducible apply foldl_fst_kept (P := P)
    | with_reducible apply foldl_snd_kept (P := P)
    | split
    | dsimp only
    | with_reducible apply hP.upd)

theorem execProgramFetch_kept {m : Prop} {P : State → Prop} (hP : Kept m P) : ∀ x1 x2 x3 s, P s → ∀ t, execProgramFetch x1 x2 x3 s = .next t → P t := by
  intros
  rename_i e
  unfold execProgramFetch at e
  cases e
  repeat' (first
    | with_reducible assumption
    | intro _
    | with_reducible apply State.command_kept hP
    | with_reducible apply State.reply_kept hP
    | with_reducible apply State.readLines_kept hP
    | with_reducible apply State.modCtx_kept hP
    | with_reducible apply ite_kept (P := P)
    | with_reducible apply foldl_kept (P := P)
    | with_reducible apply foldl_fst_kept (P := P)
    | with_reducible apply foldl_snd_kept (P := P)
    | split
    | dsimp only
    | with_reducible apply hP.upd)

theorem State.storeShare_kept {P : State → Prop} (hP : Kept True P) : ∀ s x2 x3 x4 x5, P s → P (State.storeShare s x2 x3 x4 x5) := by
  intros
  unfold State.storeShare
  repeat' (first
    | with_reducible assumption
    | intro _
    | with_reducible apply State.putPart_kept hP
    | with_reducible apply State.unpoison_kept hP
    | with_reducible apply State.stir_kept hP
    | with_reducible apply State.wrBytes_kept hP
    | with_reducible apply ite_kept (P := P)
    | with_reducible apply foldl_kept (P := P)
    | with_reducible apply foldl_fst_kept (P := P)
    | with_reducible apply foldl_snd_kept (P := P)
    | split
    | dsimp only
    | with_reducible apply hP.upd)

theorem State.shareLines_kept {m : Prop} {P : State → Prop} (hP : Kept m P) : ∀ s x2 x3 x4 x5 x6, P s → P (State.shareLines s x2 x3 x4 x5 x6) := by
  intros
  unfold State.shareLines
  repeat' (first
    | with_reducible assumption
    | intro _
    | with_reducible apply State.countLines_kept hP
    | with_reducible apply State.linesVia_kept hP
    | with_reducible apply State.underlay_kept hP
    | with_reducible apply State.contends_kept hP
    | with_reducible apply State.count_kept hP
    | with_reducible apply ite_kept (P := P)
    | with_reducible apply foldl_kept (P := P)
    | with_reducible apply foldl_fst_kept (P := P)
    | with_reducible apply foldl_snd_kept (P := P)
    | split
    | dsimp only
    | with_reducible apply hP.upd)

theorem State.writeShare_kept {P : State → Prop} (hP : Kept True P) : ∀ s x2 x3 x4 x5, P s → P (State.writeShare s x2 x3 x4 x5) := by
  intros
  unfold State.writeShare
  repeat' (first
    | with_reducible assumption
    | intro _
    | with_reducible apply State.storeShare_kept hP
    | with_reducible apply State.shareLines_kept hP
    | with_reducible apply ite_kept (P := P)
    | with_reducible apply foldl_kept (P := P)
    | with_reducible apply foldl_fst_kept (P := P)
    | with_reducible apply foldl_snd_kept (P := P)
    | split
    | dsimp only
    | with_reducible apply hP.upd)

theorem State.writeSlice_kept {P : State → Prop} (hP : Kept True P) : ∀ s x2 x3 x4 x5 x6, P s → P (State.writeSlice s x2 x3 x4 x5 x6) := by
  intros
  unfold State.writeSlice
  repeat' (first
    | with_reducible assumption
    | intro _
    | with_reducible apply State.writeShare_kept hP
    | with_reducible apply ite_kept (P := P)
    | with_reducible apply foldl_kept (P := P)
    | with_reducible apply foldl_fst_kept (P := P)
    | with_reducible apply foldl_snd_kept (P := P)
    | split
    | dsimp only
    | with_reducible apply hP.upd)

theorem State.loadImage_kept {P : State → Prop} (hP : Kept True P) : ∀ s x2 x3, P s → P (State.loadImage s x2 x3) := by
  intros
  unfold State.loadImage
  repeat' (first
    | with_reducible assumption
    | intro _
    | with_reducible apply State.writeSlice_kept hP
    | with_reducible apply State.modCtx_kept hP
    | with_reducible apply State.wr_kept hP
    | with_reducible apply ite_kept (P := P)
    | with_reducible apply foldl_kept (P := P)
    | with_reducible apply foldl_fst_kept (P := P)
    | with_reducible apply foldl_snd_kept (P := P)
    | split
    | dsimp only
    | with_reducible apply hP.upd)

theorem doProgramCommit_kept {P : State → Prop} (hP : Kept True P) : ∀ x1 s, P s → P (doProgramCommit x1 s) := by
  intros
  unfold doProgramCommit
  repeat' (first
    | with_reducible assumption
    | intro _
    | with_reducible apply State.reply_kept hP
    | with_reducible apply State.loadImage_kept hP
    | with_reducible apply ite_kept (P := P)
    | with_reducible apply foldl_kept (P := P)
    | with_reducible apply foldl_fst_kept (P := P)
    | with_reducible apply foldl_snd_kept (P := P)
    | split
    | dsimp only
    | with_reducible apply hP.upd)

theorem fwProgramCommit_kept {P : State → Prop} (hP : Kept True P) : ∀ x1, Fw.Keeps P (fwProgramCommit x1) := by
  intros
  unfold fwProgramCommit
  repeat' (first
    | with_reducible assumption
    | intro _
    | with_reducible apply doProgramCommit_kept hP
    | with_reducible apply ite_kept (P := P)
    | with_reducible apply foldl_kept (P := P)
    | with_reducible apply foldl_fst_kept (P := P)
    | with_reducible apply foldl_snd_kept (P := P)
    | split
    | dsimp only
    | with_reducible apply Fw.Keeps.mk
    | with_reducible apply hP.upd)

theorem execProgramCommit_kept {P : State → Prop} (hP : Kept True P) : ∀ x1 s, P s → ∀ t, execProgramCommit x1 s = .next t → P t := by
  intros
  rename_i e
  unfold execProgramCommit at e
  cases e
  repeat' (first
    | with_reducible assumption
    | intro _
    | with_reducible apply State.fwCommand_kept hP
    | with_reducible apply fwProgramCommit_kept hP
    | with_reducible apply ite_kept (P := P)
    | with_reducible apply foldl_kept (P := P)
    | with_reducible apply foldl_fst_kept (P := P)
    | with_reducible apply foldl_snd_kept (P := P)
    | split
    | dsimp only
    | with_reducible apply hP.upd)

/-! ### Weights -/

theorem State.setBuild_kept {m : Prop} {P : State → Prop} (hP : Kept m P) : ∀ s x2, P s → P (State.setBuild s x2) := by
  intros
  unfold State.setBuild
  repeat' (first
    | with_reducible assumption
    | intro _
    | with_reducible apply ite_kept (P := P)
    | with_reducible apply foldl_kept (P := P)
    | with_reducible apply foldl_fst_kept (P := P)
    | with_reducible apply foldl_snd_kept (P := P)
    | split
    | dsimp only
    | with_reducible apply hP.upd)

theorem State.modBuild_kept {m : Prop} {P : State → Prop} (hP : Kept m P) : ∀ s x2 x3 x4, P s → P (State.modBuild s x2 x3 x4) := by
  intros
  unfold State.modBuild
  repeat' (first
    | with_reducible assumption
    | intro _
    | with_reducible apply State.setBuild_kept hP
    | with_reducible apply ite_kept (P := P)
    | with_reducible apply foldl_kept (P := P)
    | with_reducible apply foldl_fst_kept (P := P)
    | with_reducible apply foldl_snd_kept (P := P)
    | split
    | dsimp only
    | with_reducible apply hP.upd)

theorem State.dropBuild_kept {m : Prop} {P : State → Prop} (hP : Kept m P) : ∀ s x2 x3, P s → P (State.dropBuild s x2 x3) := by
  intros
  unfold State.dropBuild
  repeat' (first
    | with_reducible assumption
    | intro _
    | with_reducible apply ite_kept (P := P)
    | with_reducible apply foldl_kept (P := P)
    | with_reducible apply foldl_fst_kept (P := P)
    | with_reducible apply foldl_snd_kept (P := P)
    | split
    | dsimp only
    | with_reducible apply hP.upd)

theorem State.emptySlot_kept {m : Prop} {P : State → Prop} (hP : Kept m P) : ∀ s x2 x3, P s → P (State.emptySlot s x2 x3) := by
  intros
  unfold State.emptySlot
  repeat' (first
    | with_reducible assumption
    | intro _
    | with_reducible apply State.wr_kept hP
    | with_reducible apply State.dropBuild_kept hP
    | with_reducible apply State.modCtx_kept hP
    | with_reducible apply ite_kept (P := P)
    | with_reducible apply foldl_kept (P := P)
    | with_reducible apply foldl_fst_kept (P := P)
    | with_reducible apply foldl_snd_kept (P := P)
    | split
    | dsimp only
    | with_reducible apply hP.upd)

theorem State.showAdapters_kept {m : Prop} {P : State → Prop} (hP : Kept m P) : ∀ s, P s → P (State.showAdapters s) := by
  intros
  unfold State.showAdapters
  repeat' (first
    | with_reducible assumption
    | intro _
    | with_reducible apply State.wr_kept hP
    | with_reducible apply ite_kept (P := P)
    | with_reducible apply foldl_kept (P := P)
    | with_reducible apply foldl_fst_kept (P := P)
    | with_reducible apply foldl_snd_kept (P := P)
    | split
    | dsimp only
    | with_reducible apply hP.upd)

theorem State.noSwitch_kept {m : Prop} {P : State → Prop} (hP : Kept m P) : ∀ s x2, P s → P (State.noSwitch s x2) := by
  intros
  unfold State.noSwitch
  repeat' (first
    | with_reducible assumption
    | intro _
    | with_reducible apply State.wr_kept hP
    | with_reducible apply ite_kept (P := P)
    | with_reducible apply foldl_kept (P := P)
    | with_reducible apply foldl_fst_kept (P := P)
    | with_reducible apply foldl_snd_kept (P := P)
    | split
    | dsimp only
    | with_reducible apply hP.upd)

theorem State.cancelSwitch_kept {m : Prop} {P : State → Prop} (hP : Kept m P) : ∀ s x2, P s → P (State.cancelSwitch s x2) := by
  intros
  unfold State.cancelSwitch
  repeat' (first
    | with_reducible assumption
    | intro _
    | with_reducible apply State.noSwitch_kept hP
    | with_reducible apply State.completeBy_kept hP
    | with_reducible apply ite_kept (P := P)
    | with_reducible apply foldl_kept (P := P)
    | with_reducible apply foldl_fst_kept (P := P)
    | with_reducible apply foldl_snd_kept (P := P)
    | split
    | dsimp only
    | with_reducible apply hP.upd)

theorem State.putRun_kept {P : State → Prop} (hP : Kept True P) : ∀ s x2 x3 x4, P s → P (State.putRun s x2 x3 x4) := by
  intros
  unfold State.putRun
  repeat' (first
    | with_reducible assumption
    | intro _
    | with_reducible apply State.putPart_kept hP
    | with_reducible apply State.unpoison_kept hP
    | with_reducible apply State.storeShare_kept hP
    | with_reducible apply ite_kept (P := P)
    | with_reducible apply foldl_kept (P := P)
    | with_reducible apply foldl_fst_kept (P := P)
    | with_reducible apply foldl_snd_kept (P := P)
    | split
    | dsimp only
    | with_reducible apply hP.upd)

theorem State.runTraffic_kept {m : Prop} {P : State → Prop} (hP : Kept m P) : ∀ s x2 x3 x4, P s → P (State.runTraffic s x2 x3 x4) := by
  intros
  unfold State.runTraffic
  repeat' (first
    | with_reducible assumption
    | intro _
    | with_reducible apply State.countLines_kept hP
    | with_reducible apply State.linesVia_kept hP
    | with_reducible apply State.shareLines_kept hP
    | with_reducible apply ite_kept (P := P)
    | with_reducible apply foldl_kept (P := P)
    | with_reducible apply foldl_fst_kept (P := P)
    | with_reducible apply foldl_snd_kept (P := P)
    | split
    | dsimp only
    | with_reducible apply hP.upd)

theorem State.runRead_kept {m : Prop} {P : State → Prop} (hP : Kept m P) : ∀ s x2 x3, P s → P (State.runRead s x2 x3) := by
  intros
  unfold State.runRead
  repeat' (first
    | with_reducible assumption
    | intro _
    | with_reducible apply State.readLines_kept hP
    | with_reducible apply State.underlay_kept hP
    | with_reducible apply State.count_kept hP
    | with_reducible apply ite_kept (P := P)
    | with_reducible apply foldl_kept (P := P)
    | with_reducible apply foldl_fst_kept (P := P)
    | with_reducible apply foldl_snd_kept (P := P)
    | split
    | dsimp only
    | with_reducible apply hP.upd)

theorem State.putRuns_kept {P : State → Prop} (hP : Kept True P) : ∀ c l b s, P s → P (State.putRuns c l b s) := by
  intro c l b s h
  induction l generalizing s b with
  | nil => exact h
  | cons r l ih => exact ih _ _ (State.putRun_kept hP _ _ _ _ h)

theorem State.modTarget_kept {m : Prop} {P : State → Prop} (hP : Kept m P) : ∀ s x2 x3, P s → P (State.modTarget s x2 x3) := by
  intros
  unfold State.modTarget
  repeat' (first
    | with_reducible assumption
    | intro _
    | with_reducible apply State.modBuild_kept hP
    | with_reducible apply State.modCtx_kept hP
    | with_reducible apply ite_kept (P := P)
    | with_reducible apply foldl_kept (P := P)
    | with_reducible apply foldl_fst_kept (P := P)
    | with_reducible apply foldl_snd_kept (P := P)
    | split
    | dsimp only
    | with_reducible apply hP.upd)

theorem State.undoWait_kept {m : Prop} {P : State → Prop} (hP : Kept m P) : ∀ s x2, P s → P (State.undoWait s x2) := by
  intros
  unfold State.undoWait
  repeat' (first
    | with_reducible assumption
    | intro _
    | with_reducible apply State.showAdapters_kept hP
    | with_reducible apply ite_kept (P := P)
    | with_reducible apply foldl_kept (P := P)
    | with_reducible apply foldl_fst_kept (P := P)
    | with_reducible apply foldl_snd_kept (P := P)
    | split
    | dsimp only
    | with_reducible apply hP.upd)

theorem State.settle_kept {m : Prop} {P : State → Prop} (hP : Kept m P) : ∀ s x2 x3, P s → P (State.settle s x2 x3) := by
  intros
  unfold State.settle
  repeat' (first
    | with_reducible assumption
    | intro _
    | with_reducible apply State.undoWait_kept hP
    | with_reducible apply State.reply_kept hP
    | with_reducible apply State.setBuild_kept hP
    | with_reducible apply State.wr_kept hP
    | with_reducible apply ite_kept (P := P)
    | with_reducible apply foldl_kept (P := P)
    | with_reducible apply foldl_fst_kept (P := P)
    | with_reducible apply foldl_snd_kept (P := P)
    | split
    | dsimp only
    | with_reducible apply hP.upd)

theorem State.shardFault_kept {m : Prop} {P : State → Prop} (hP : Kept m P) : ∀ s x2 x3 x4 x5, P s → P (State.shardFault s x2 x3 x4 x5) := by
  intros
  unfold State.shardFault
  repeat' (first
    | with_reducible assumption
    | intro _
    | with_reducible apply State.wr_kept hP
    | with_reducible apply State.fault_kept hP
    | with_reducible apply State.modBuild_kept hP
    | with_reducible apply State.settle_kept hP
    | with_reducible apply ite_kept (P := P)
    | with_reducible apply foldl_kept (P := P)
    | with_reducible apply foldl_fst_kept (P := P)
    | with_reducible apply foldl_snd_kept (P := P)
    | split
    | dsimp only
    | with_reducible apply hP.upd)

theorem State.freeBytes_kept {m : Prop} {P : State → Prop} (hP : Kept m P) : ∀ n s, P s → P (State.freeBytes n s).2 := by
  intro n s h
  induction n generalizing s with
  | zero => exact h
  | succ n ih => exact ih _ (State.free_kept hP _ _ h)

theorem State.scramble_kept {P : State → Prop} (hP : Kept True P) : ∀ s x2 x3, P s → P (State.scramble s x2 x3) := by
  intros
  unfold State.scramble
  repeat' (first
    | with_reducible assumption
    | intro _
    | with_reducible apply State.freeBytes_kept hP
    | with_reducible apply State.putRun_kept hP
    | with_reducible apply ite_kept (P := P)
    | with_reducible apply foldl_kept (P := P)
    | with_reducible apply foldl_fst_kept (P := P)
    | with_reducible apply foldl_snd_kept (P := P)
    | split
    | dsimp only
    | with_reducible apply hP.upd)

theorem State.ingestSeed_kept {m : Prop} {P : State → Prop} (hP : Kept m P) : ∀ s x2 x3, P s → P (State.ingestSeed s x2 x3).2 := by
  intros
  unfold State.ingestSeed
  repeat' (first
    | with_reducible assumption
    | intro _
    | with_reducible apply State.free_kept hP
    | with_reducible apply ite_kept (P := P)
    | with_reducible apply foldl_kept (P := P)
    | with_reducible apply foldl_fst_kept (P := P)
    | with_reducible apply foldl_snd_kept (P := P)
    | split
    | dsimp only
    | with_reducible apply hP.upd)

theorem State.setIngestLanes_kept {m : Prop} {P : State → Prop} (hP : Kept m P) : ∀ s x2 x3, P s → P (State.setIngestLanes s x2 x3) := by
  intros
  unfold State.setIngestLanes
  repeat' (first
    | with_reducible assumption
    | intro _
    | with_reducible apply State.modBuild_kept hP
    | with_reducible apply State.modCtx_kept hP
    | with_reducible apply ite_kept (P := P)
    | with_reducible apply foldl_kept (P := P)
    | with_reducible apply foldl_fst_kept (P := P)
    | with_reducible apply foldl_snd_kept (P := P)
    | split
    | dsimp only
    | with_reducible apply hP.upd)

theorem State.ingestDraws_kept {m : Prop} {P : State → Prop} (hP : Kept m P) : ∀ s x2 x3 x4, P s → P (State.ingestDraws s x2 x3 x4).2 := by
  intros
  unfold State.ingestDraws
  repeat' (first
    | with_reducible assumption
    | intro _
    | with_reducible apply State.ingestSeed_kept hP
    | with_reducible apply State.setIngestLanes_kept hP
    | with_reducible apply ite_kept (P := P)
    | with_reducible apply foldl_kept (P := P)
    | with_reducible apply foldl_fst_kept (P := P)
    | with_reducible apply foldl_snd_kept (P := P)
    | split
    | dsimp only
    | with_reducible apply hP.upd)

theorem State.ingestFlags_kept {m : Prop} {P : State → Prop} (hP : Kept m P) : ∀ s x2 x3 x4, P s → P (State.ingestFlags s x2 x3 x4) := by
  intros
  unfold State.ingestFlags
  repeat' (first
    | with_reducible assumption
    | intro _
    | with_reducible apply State.numFlags_kept hP
    | with_reducible apply ite_kept (P := P)
    | with_reducible apply foldl_kept (P := P)
    | with_reducible apply foldl_fst_kept (P := P)
    | with_reducible apply foldl_snd_kept (P := P)
    | split
    | dsimp only
    | with_reducible apply hP.upd)

theorem State.residentOf_kept {m : Prop} {P : State → Prop} (hP : Kept m P) : ∀ s x2 x3 x4 x5, P s → P (State.residentOf s x2 x3 x4 x5).2 := by
  intros
  unfold State.residentOf
  repeat' (first
    | with_reducible assumption
    | intro _
    | with_reducible apply State.ingestDraws_kept hP
    | with_reducible apply State.free_kept hP
    | with_reducible apply State.ingestFlags_kept hP
    | with_reducible apply ite_kept (P := P)
    | with_reducible apply foldl_kept (P := P)
    | with_reducible apply foldl_fst_kept (P := P)
    | with_reducible apply foldl_snd_kept (P := P)
    | split
    | dsimp only
    | with_reducible apply hP.upd)

theorem State.land_kept {P : State → Prop} (hP : Kept True P) : ∀ s x2 x3 x4 x5, P s → P (State.land s x2 x3 x4 x5) := by
  intros
  unfold State.land
  repeat' (first
    | with_reducible assumption
    | intro _
    | with_reducible apply State.poisonFault_kept hP
    | with_reducible apply State.countLines_kept hP
    | with_reducible apply State.linesVia_kept hP
    | with_reducible apply State.residentOf_kept hP
    | with_reducible apply State.inc_kept hP
    | with_reducible apply State.putRuns_kept hP
    | with_reducible apply State.runTraffic_kept hP
    | with_reducible apply State.modBuild_kept hP
    | with_reducible apply State.settle_kept hP
    | with_reducible apply State.setStream_kept hP
    | with_reducible apply State.modTarget_kept hP
    | with_reducible apply ite_kept (P := P)
    | with_reducible apply foldl_kept (P := P)
    | with_reducible apply foldl_fst_kept (P := P)
    | with_reducible apply foldl_snd_kept (P := P)
    | split
    | dsimp only
    | with_reducible apply hP.upd)

theorem State.endArrival_kept {m : Prop} {P : State → Prop} (hP : Kept m P) : ∀ s x2 x3 x4, P s → P (State.endArrival s x2 x3 x4) := by
  intros
  unfold State.endArrival
  repeat' (first
    | with_reducible assumption
    | intro _
    | with_reducible apply State.modTarget_kept hP
    | with_reducible apply ite_kept (P := P)
    | with_reducible apply foldl_kept (P := P)
    | with_reducible apply foldl_fst_kept (P := P)
    | with_reducible apply foldl_snd_kept (P := P)
    | split
    | dsimp only
    | with_reducible apply hP.upd)

theorem State.digestMissed_kept {m : Prop} {P : State → Prop} (hP : Kept m P) : ∀ s t port d source (ask : State → State),
    P s → (∀ b, P b → P (ask b)) → P (State.digestMissed s t port d source ask) := by
  intro s t port d source ask hs ha
  unfold State.digestMissed
  have he := State.endArrival_kept hP s t d source hs
  exact ite_kept (P := P) (ha _ (State.modTarget_kept hP _ _ _ (State.inc_kept hP _ _ _ he)))
    (State.shardFault_kept hP _ _ _ _ _ he)

theorem State.ingest_kept {P : State → Prop} (hP : Kept True P) : ∀ s t port d payload source (ask : State → State),
    P s → (∀ b, P b → P (ask b)) → P (State.ingest s t port d payload source ask) := by
  intro s t port d payload source ask hs ha
  unfold State.ingest
  dsimp only
  repeat' (first
    | with_reducible assumption
    | with_reducible apply State.shardFault_kept hP
    | with_reducible refine State.digestMissed_kept hP _ _ _ _ _ _ ?_ ha
    | with_reducible apply State.land_kept hP
    | with_reducible apply State.scramble_kept hP
    | with_reducible apply State.endArrival_kept hP
    | with_reducible apply State.modTarget_kept hP
    | with_reducible apply State.inc_kept hP
    | split)

theorem State.shardArrival_kept {P : State → Prop} (hP : Kept True P) : ∀ s handle port, P s → P (State.shardArrival s handle port) := by
  intro s handle port h
  unfold State.shardArrival
  split
  · split
    · exact h
    · exact State.ingest_kept hP _ _ _ _ _ _ _ (State.setStream_kept hP _ _ h) fun _ hb => State.sendFab_kept hP _ _ _ hb
  · exact h

theorem execShardArrival_kept {P : State → Prop} (hP : Kept True P) : ∀ x1 x2 s, P s → ∀ t, execShardArrival x1 x2 s = .next t → P t := by
  intros
  rename_i e
  unfold execShardArrival at e
  cases e
  repeat' (first
    | with_reducible assumption
    | intro _
    | with_reducible apply State.shardArrival_kept hP
    | with_reducible apply ite_kept (P := P)
    | with_reducible apply foldl_kept (P := P)
    | with_reducible apply foldl_fst_kept (P := P)
    | with_reducible apply foldl_snd_kept (P := P)
    | split
    | dsimp only
    | with_reducible apply hP.upd)

theorem doWeightSetOpen_kept {m : Prop} {P : State → Prop} (hP : Kept m P) : ∀ x1 x2 s, P s → P (doWeightSetOpen x1 x2 s) := by
  intros
  unfold doWeightSetOpen
  repeat' (first
    | with_reducible assumption
    | intro _
    | with_reducible apply State.wr_kept hP
    | with_reducible apply hP.setReg
    | with_reducible apply State.setBuild_kept hP
    | with_reducible apply State.reply_kept hP
    | with_reducible apply ite_kept (P := P)
    | with_reducible apply foldl_kept (P := P)
    | with_reducible apply foldl_fst_kept (P := P)
    | with_reducible apply foldl_snd_kept (P := P)
    | split
    | dsimp only
    | with_reducible apply hP.upd)

theorem fwWeightSetOpen_kept {m : Prop} {P : State → Prop} (hP : Kept m P) : ∀ x1 x2, Fw.Keeps P (fwWeightSetOpen x1 x2) := by
  intros
  unfold fwWeightSetOpen
  repeat' (first
    | with_reducible assumption
    | intro _
    | with_reducible apply doWeightSetOpen_kept hP
    | with_reducible apply ite_kept (P := P)
    | with_reducible apply foldl_kept (P := P)
    | with_reducible apply foldl_fst_kept (P := P)
    | with_reducible apply foldl_snd_kept (P := P)
    | split
    | dsimp only
    | with_reducible apply Fw.Keeps.mk
    | with_reducible apply hP.upd)

theorem execWeightSetOpen_kept {m : Prop} {P : State → Prop} (hP : Kept m P) : ∀ x1 x2 s, P s → ∀ t, execWeightSetOpen x1 x2 s = .next t → P t := by
  intros
  rename_i e
  unfold execWeightSetOpen at e
  cases e
  repeat' (first
    | with_reducible assumption
    | intro _
    | with_reducible apply State.fwCommand_kept hP
    | with_reducible apply fwWeightSetOpen_kept hP
    | with_reducible apply ite_kept (P := P)
    | with_reducible apply foldl_kept (P := P)
    | with_reducible apply foldl_fst_kept (P := P)
    | with_reducible apply foldl_snd_kept (P := P)
    | split
    | dsimp only
    | with_reducible apply hP.upd)

theorem doWeightSetCommit_kept {m : Prop} {P : State → Prop} (hP : Kept m P) : ∀ x1 x2 s, P s → P (doWeightSetCommit x1 x2 s) := by
  intros
  unfold doWeightSetCommit
  repeat' (first
    | with_reducible assumption
    | intro _
    | with_reducible apply State.reply_kept hP
    | with_reducible apply State.modBuild_kept hP
    | with_reducible apply State.settle_kept hP
    | with_reducible apply ite_kept (P := P)
    | with_reducible apply foldl_kept (P := P)
    | with_reducible apply foldl_fst_kept (P := P)
    | with_reducible apply foldl_snd_kept (P := P)
    | split
    | dsimp only
    | with_reducible apply hP.upd)

theorem execWeightSetCommit_kept {m : Prop} {P : State → Prop} (hP : Kept m P) : ∀ x1 x2 s, P s → ∀ t, execWeightSetCommit x1 x2 s = .next t → P t := by
  intros
  rename_i e
  unfold execWeightSetCommit at e
  cases e
  repeat' (first
    | with_reducible assumption
    | intro _
    | with_reducible apply State.command_kept hP
    | with_reducible apply doWeightSetCommit_kept hP
    | with_reducible apply ite_kept (P := P)
    | with_reducible apply foldl_kept (P := P)
    | with_reducible apply foldl_fst_kept (P := P)
    | with_reducible apply foldl_snd_kept (P := P)
    | split
    | dsimp only
    | with_reducible apply hP.upd)

theorem State.buildTimeout_kept {m : Prop} {P : State → Prop} (hP : Kept m P) : ∀ s x2 x3, P s → P (State.buildTimeout s x2 x3) := by
  intros
  unfold State.buildTimeout
  repeat' (first
    | with_reducible assumption
    | intro _
    | with_reducible apply State.setBuild_kept hP
    | with_reducible apply State.reply_kept hP
    | with_reducible apply ite_kept (P := P)
    | with_reducible apply foldl_kept (P := P)
    | with_reducible apply foldl_fst_kept (P := P)
    | with_reducible apply foldl_snd_kept (P := P)
    | split
    | dsimp only
    | with_reducible apply hP.upd)

theorem execBuildTimeout_kept {m : Prop} {P : State → Prop} (hP : Kept m P) : ∀ x1 x2 s, P s → ∀ t, execBuildTimeout x1 x2 s = .next t → P t := by
  intros
  rename_i e
  unfold execBuildTimeout at e
  cases e
  repeat' (first
    | with_reducible assumption
    | intro _
    | with_reducible apply State.buildTimeout_kept hP
    | with_reducible apply ite_kept (P := P)
    | with_reducible apply foldl_kept (P := P)
    | with_reducible apply foldl_fst_kept (P := P)
    | with_reducible apply foldl_snd_kept (P := P)
    | split
    | dsimp only
    | with_reducible apply hP.upd)

theorem doWeightSetSwitch_kept {m : Prop} {P : State → Prop} (hP : Kept m P) : ∀ x1 x2 s, P s → P (doWeightSetSwitch x1 x2 s) := by
  intros
  unfold doWeightSetSwitch
  repeat' (first
    | with_reducible assumption
    | intro _
    | with_reducible apply State.cancelSwitch_kept hP
    | with_reducible apply State.reply_kept hP
    | with_reducible apply State.wr_kept hP
    | with_reducible apply State.stage_kept hP
    | with_reducible apply ite_kept (P := P)
    | with_reducible apply foldl_kept (P := P)
    | with_reducible apply foldl_fst_kept (P := P)
    | with_reducible apply foldl_snd_kept (P := P)
    | split
    | dsimp only
    | with_reducible apply hP.upd)

theorem execWeightSetSwitch_kept {m : Prop} {P : State → Prop} (hP : Kept m P) : ∀ x1 x2 s, P s → ∀ t, execWeightSetSwitch x1 x2 s = .next t → P t := by
  intros
  rename_i e
  unfold execWeightSetSwitch at e
  cases e
  repeat' (first
    | with_reducible assumption
    | intro _
    | with_reducible apply State.command_kept hP
    | with_reducible apply doWeightSetSwitch_kept hP
    | with_reducible apply ite_kept (P := P)
    | with_reducible apply foldl_kept (P := P)
    | with_reducible apply foldl_fst_kept (P := P)
    | with_reducible apply foldl_snd_kept (P := P)
    | split
    | dsimp only
    | with_reducible apply hP.upd)

theorem State.applySwitch_kept {m : Prop} {P : State → Prop} (hP : Kept m P) : ∀ s x2 x3, P s → P (State.applySwitch s x2 x3) := by
  intros
  unfold State.applySwitch
  repeat' (first
    | with_reducible assumption
    | intro _
    | with_reducible apply State.noSwitch_kept hP
    | with_reducible apply State.reply_kept hP
    | with_reducible apply State.wr_kept hP
    | with_reducible apply State.emptySlot_kept hP
    | with_reducible apply ite_kept (P := P)
    | with_reducible apply foldl_kept (P := P)
    | with_reducible apply foldl_fst_kept (P := P)
    | with_reducible apply foldl_snd_kept (P := P)
    | split
    | dsimp only
    | with_reducible apply hP.upd)

theorem doWeightSetRelease_kept {m : Prop} {P : State → Prop} (hP : Kept m P) : ∀ x1 x2 x3 s, P s → P (doWeightSetRelease x1 x2 x3 s) := by
  intros
  unfold doWeightSetRelease
  repeat' (first
    | with_reducible assumption
    | intro _
    | with_reducible apply State.stage_kept hP
    | with_reducible apply State.emptySlot_kept hP
    | with_reducible apply State.reply_kept hP
    | with_reducible apply ite_kept (P := P)
    | with_reducible apply foldl_kept (P := P)
    | with_reducible apply foldl_fst_kept (P := P)
    | with_reducible apply foldl_snd_kept (P := P)
    | split
    | dsimp only
    | with_reducible apply hP.upd)

theorem fwWeightSetRelease_kept {m : Prop} {P : State → Prop} (hP : Kept m P) : ∀ x1 x2 x3, Fw.Keeps P (fwWeightSetRelease x1 x2 x3) := by
  intros
  unfold fwWeightSetRelease
  repeat' (first
    | with_reducible assumption
    | intro _
    | with_reducible apply doWeightSetRelease_kept hP
    | with_reducible apply ite_kept (P := P)
    | with_reducible apply foldl_kept (P := P)
    | with_reducible apply foldl_fst_kept (P := P)
    | with_reducible apply foldl_snd_kept (P := P)
    | split
    | dsimp only
    | with_reducible apply Fw.Keeps.mk
    | with_reducible apply hP.upd)

theorem execWeightSetRelease_kept {m : Prop} {P : State → Prop} (hP : Kept m P) : ∀ x1 x2 x3 s, P s → ∀ t, execWeightSetRelease x1 x2 x3 s = .next t → P t := by
  intros
  rename_i e
  unfold execWeightSetRelease at e
  cases e
  repeat' (first
    | with_reducible assumption
    | intro _
    | with_reducible apply State.fwCommand_kept hP
    | with_reducible apply fwWeightSetRelease_kept hP
    | with_reducible apply ite_kept (P := P)
    | with_reducible apply foldl_kept (P := P)
    | with_reducible apply foldl_fst_kept (P := P)
    | with_reducible apply foldl_snd_kept (P := P)
    | split
    | dsimp only
    | with_reducible apply hP.upd)

theorem State.applyRelease_kept {m : Prop} {P : State → Prop} (hP : Kept m P) : ∀ s x2 x3, P s → P (State.applyRelease s x2 x3) := by
  intros
  unfold State.applyRelease
  repeat' (first
    | with_reducible assumption
    | intro _
    | with_reducible apply State.reply_kept hP
    | with_reducible apply State.wr_kept hP
    | with_reducible apply State.emptySlot_kept hP
    | with_reducible apply State.notice_kept hP
    | with_reducible apply ite_kept (P := P)
    | with_reducible apply foldl_kept (P := P)
    | with_reducible apply foldl_fst_kept (P := P)
    | with_reducible apply foldl_snd_kept (P := P)
    | split
    | dsimp only
    | with_reducible apply hP.upd)

theorem doWeightSetDigest_kept {m : Prop} {P : State → Prop} (hP : Kept m P) : ∀ x1 x2 x3 s, P s → P (doWeightSetDigest x1 x2 x3 s) := by
  intros
  unfold doWeightSetDigest
  repeat' (first
    | with_reducible assumption
    | intro _
    | with_reducible apply State.reply_kept hP
    | with_reducible apply ite_kept (P := P)
    | with_reducible apply foldl_kept (P := P)
    | with_reducible apply foldl_fst_kept (P := P)
    | with_reducible apply foldl_snd_kept (P := P)
    | split
    | dsimp only
    | with_reducible apply hP.upd)

theorem fwWeightSetDigest_kept {m : Prop} {P : State → Prop} (hP : Kept m P) : ∀ x1 x2 x3, Fw.Keeps P (fwWeightSetDigest x1 x2 x3) := by
  intros
  unfold fwWeightSetDigest
  repeat' (first
    | with_reducible assumption
    | intro _
    | with_reducible apply doWeightSetDigest_kept hP
    | with_reducible apply ite_kept (P := P)
    | with_reducible apply foldl_kept (P := P)
    | with_reducible apply foldl_fst_kept (P := P)
    | with_reducible apply foldl_snd_kept (P := P)
    | split
    | dsimp only
    | with_reducible apply Fw.Keeps.mk
    | with_reducible apply hP.upd)

theorem execWeightSetDigest_kept {m : Prop} {P : State → Prop} (hP : Kept m P) : ∀ x1 x2 x3 s, P s → ∀ t, execWeightSetDigest x1 x2 x3 s = .next t → P t := by
  intros
  rename_i e
  unfold execWeightSetDigest at e
  cases e
  repeat' (first
    | with_reducible assumption
    | intro _
    | with_reducible apply State.fwCommand_kept hP
    | with_reducible apply fwWeightSetDigest_kept hP
    | with_reducible apply ite_kept (P := P)
    | with_reducible apply foldl_kept (P := P)
    | with_reducible apply foldl_fst_kept (P := P)
    | with_reducible apply foldl_snd_kept (P := P)
    | split
    | dsimp only
    | with_reducible apply hP.upd)

theorem doAdapterLoad_kept {m : Prop} {P : State → Prop} (hP : Kept m P) : ∀ x1 x2 x3 x4 x5 x6 x7 s, P s → P (doAdapterLoad x1 x2 x3 x4 x5 x6 x7 s) := by
  intros
  unfold doAdapterLoad
  repeat' (first
    | with_reducible assumption
    | intro _
    | with_reducible apply State.setBuild_kept hP
    | with_reducible apply State.showAdapters_kept hP
    | with_reducible apply State.reply_kept hP
    | with_reducible apply ite_kept (P := P)
    | with_reducible apply foldl_kept (P := P)
    | with_reducible apply foldl_fst_kept (P := P)
    | with_reducible apply foldl_snd_kept (P := P)
    | split
    | dsimp only
    | with_reducible apply hP.upd)

theorem fwAdapterLoad_kept {m : Prop} {P : State → Prop} (hP : Kept m P) : ∀ x1 x2 x3 x4 x5 x6 x7, Fw.Keeps P (fwAdapterLoad x1 x2 x3 x4 x5 x6 x7) := by
  intros
  unfold fwAdapterLoad
  repeat' (first
    | with_reducible assumption
    | intro _
    | with_reducible apply doAdapterLoad_kept hP
    | with_reducible apply ite_kept (P := P)
    | with_reducible apply foldl_kept (P := P)
    | with_reducible apply foldl_fst_kept (P := P)
    | with_reducible apply foldl_snd_kept (P := P)
    | split
    | dsimp only
    | with_reducible apply Fw.Keeps.mk
    | with_reducible apply hP.upd)

theorem execAdapterLoad_kept {m : Prop} {P : State → Prop} (hP : Kept m P) : ∀ x1 x2 x3 x4 x5 x6 x7 s, P s → ∀ t, execAdapterLoad x1 x2 x3 x4 x5 x6 x7 s = .next t → P t := by
  intros
  rename_i e
  unfold execAdapterLoad at e
  cases e
  repeat' (first
    | with_reducible assumption
    | intro _
    | with_reducible apply State.fwCommand_kept hP
    | with_reducible apply fwAdapterLoad_kept hP
    | with_reducible apply ite_kept (P := P)
    | with_reducible apply foldl_kept (P := P)
    | with_reducible apply foldl_fst_kept (P := P)
    | with_reducible apply foldl_snd_kept (P := P)
    | split
    | dsimp only
    | with_reducible apply hP.upd)

theorem fwAdapterDrop_kept {m : Prop} {P : State → Prop} (hP : Kept m P) : ∀ x1 x2, Fw.Keeps P (fwAdapterDrop x1 x2) := by
  intros
  unfold fwAdapterDrop
  repeat' (first
    | with_reducible assumption
    | intro _
    | with_reducible apply State.dropBuild_kept hP
    | with_reducible apply State.showAdapters_kept hP
    | with_reducible apply State.modCtx_kept hP
    | with_reducible apply State.reply_kept hP
    | with_reducible apply ite_kept (P := P)
    | with_reducible apply foldl_kept (P := P)
    | with_reducible apply foldl_fst_kept (P := P)
    | with_reducible apply foldl_snd_kept (P := P)
    | split
    | dsimp only
    | with_reducible apply Fw.Keeps.mk
    | with_reducible apply hP.upd)

theorem execAdapterDrop_kept {m : Prop} {P : State → Prop} (hP : Kept m P) : ∀ x1 x2 s, P s → ∀ t, execAdapterDrop x1 x2 s = .next t → P t := by
  intros
  rename_i e
  unfold execAdapterDrop at e
  cases e
  repeat' (first
    | with_reducible assumption
    | intro _
    | with_reducible apply State.fwCommand_kept hP
    | with_reducible apply fwAdapterDrop_kept hP
    | with_reducible apply ite_kept (P := P)
    | with_reducible apply foldl_kept (P := P)
    | with_reducible apply foldl_fst_kept (P := P)
    | with_reducible apply foldl_snd_kept (P := P)
    | split
    | dsimp only
    | with_reducible apply hP.upd)

theorem State.scrubFailed_kept {m : Prop} {P : State → Prop} (hP : Kept m P) : ∀ s x2 x3, P s → P (State.scrubFailed s x2 x3) := by
  intros
  unfold State.scrubFailed
  repeat' (first
    | with_reducible assumption
    | intro _
    | with_reducible apply State.inc_kept hP
    | with_reducible apply State.wr_kept hP
    | with_reducible apply State.cancelSwitch_kept hP
    | with_reducible apply State.notice_kept hP
    | with_reducible apply State.fault_kept hP
    | with_reducible apply ite_kept (P := P)
    | with_reducible apply foldl_kept (P := P)
    | with_reducible apply foldl_fst_kept (P := P)
    | with_reducible apply foldl_snd_kept (P := P)
    | split
    | dsimp only
    | with_reducible apply hP.upd)

theorem State.scrubShard_kept {m : Prop} {P : State → Prop} (hP : Kept m P) : ∀ s x2 x3, P s → P (State.scrubShard s x2 x3) := by
  intros
  unfold State.scrubShard
  repeat' (first
    | with_reducible assumption
    | intro _
    | with_reducible apply State.inc_kept hP
    | with_reducible apply State.runRead_kept hP
    | with_reducible apply State.scrubFailed_kept hP
    | with_reducible apply ite_kept (P := P)
    | with_reducible apply foldl_kept (P := P)
    | with_reducible apply foldl_fst_kept (P := P)
    | with_reducible apply foldl_snd_kept (P := P)
    | split
    | dsimp only
    | with_reducible apply hP.upd)

theorem execWeightScrubShard_kept {m : Prop} {P : State → Prop} (hP : Kept m P) : ∀ x1 x2 s, P s → ∀ t, execWeightScrubShard x1 x2 s = .next t → P t := by
  intros
  rename_i e
  unfold execWeightScrubShard at e
  cases e
  repeat' (first
    | with_reducible assumption
    | intro _
    | with_reducible apply State.scrubShard_kept hP
    | with_reducible apply ite_kept (P := P)
    | with_reducible apply foldl_kept (P := P)
    | with_reducible apply foldl_fst_kept (P := P)
    | with_reducible apply foldl_snd_kept (P := P)
    | split
    | dsimp only
    | with_reducible apply hP.upd)

/-! ### Storage -/

theorem State.setController_kept {m : Prop} {P : State → Prop} (hP : Kept m P) : ∀ s x2, P s → P (State.setController s x2) := by
  intros
  unfold State.setController
  repeat' (first
    | with_reducible assumption
    | intro _
    | with_reducible apply ite_kept (P := P)
    | with_reducible apply foldl_kept (P := P)
    | with_reducible apply foldl_fst_kept (P := P)
    | with_reducible apply foldl_snd_kept (P := P)
    | split
    | dsimp only
    | with_reducible apply hP.upd)

theorem State.showControllers_kept {m : Prop} {P : State → Prop} (hP : Kept m P) : ∀ s, P s → P (State.showControllers s) := by
  intros
  unfold State.showControllers
  repeat' (first
    | with_reducible assumption
    | intro _
    | with_reducible apply State.wr_kept hP
    | with_reducible apply ite_kept (P := P)
    | with_reducible apply foldl_kept (P := P)
    | with_reducible apply foldl_fst_kept (P := P)
    | with_reducible apply foldl_snd_kept (P := P)
    | split
    | dsimp only
    | with_reducible apply hP.upd)

theorem State.setRead_kept {m : Prop} {P : State → Prop} (hP : Kept m P) : ∀ s x2 x3, P s → P (State.setRead s x2 x3) := by
  intros
  unfold State.setRead
  repeat' (first
    | with_reducible assumption
    | intro _
    | with_reducible apply State.setController_kept hP
    | with_reducible apply ite_kept (P := P)
    | with_reducible apply foldl_kept (P := P)
    | with_reducible apply foldl_fst_kept (P := P)
    | with_reducible apply foldl_snd_kept (P := P)
    | split
    | dsimp only
    | with_reducible apply hP.upd)

theorem State.issueRead_kept {m : Prop} {P : State → Prop} (hP : Kept m P) : ∀ s x2 x3, P s → P (State.issueRead s x2 x3) := by
  intros
  unfold State.issueRead
  repeat' (first
    | with_reducible assumption
    | intro _
    | with_reducible apply State.setRead_kept hP
    | with_reducible apply ite_kept (P := P)
    | with_reducible apply foldl_kept (P := P)
    | with_reducible apply foldl_fst_kept (P := P)
    | with_reducible apply foldl_snd_kept (P := P)
    | split
    | dsimp only
    | with_reducible apply hP.upd)

theorem State.issueReads_kept {m : Prop} {P : State → Prop} (hP : Kept m P) : ∀ s x2, P s → P (State.issueReads s x2) := by
  intros
  unfold State.issueReads
  repeat' (first
    | with_reducible assumption
    | intro _
    | with_reducible apply State.issueRead_kept hP
    | with_reducible apply ite_kept (P := P)
    | with_reducible apply foldl_kept (P := P)
    | with_reducible apply foldl_fst_kept (P := P)
    | with_reducible apply foldl_snd_kept (P := P)
    | split
    | dsimp only
    | with_reducible apply hP.upd)

theorem fwStorageConnect_kept {m : Prop} {P : State → Prop} (hP : Kept m P) : ∀ x1 x2, Fw.Keeps P (fwStorageConnect x1 x2) := by
  intros
  unfold fwStorageConnect
  repeat' (first
    | with_reducible assumption
    | intro _
    | with_reducible apply State.reply_kept hP
    | with_reducible apply State.setController_kept hP
    | with_reducible apply State.showControllers_kept hP
    | with_reducible apply State.issueReads_kept hP
    | with_reducible apply ite_kept (P := P)
    | with_reducible apply foldl_kept (P := P)
    | with_reducible apply foldl_fst_kept (P := P)
    | with_reducible apply foldl_snd_kept (P := P)
    | split
    | dsimp only
    | with_reducible apply Fw.Keeps.mk
    | with_reducible apply hP.upd)

theorem execStorageConnect_kept {m : Prop} {P : State → Prop} (hP : Kept m P) : ∀ x1 x2 s, P s → ∀ t, execStorageConnect x1 x2 s = .next t → P t := by
  intros
  rename_i e
  unfold execStorageConnect at e
  cases e
  repeat' (first
    | with_reducible assumption
    | intro _
    | with_reducible apply State.fwCommand_kept hP
    | with_reducible apply fwStorageConnect_kept hP
    | with_reducible apply ite_kept (P := P)
    | with_reducible apply foldl_kept (P := P)
    | with_reducible apply foldl_fst_kept (P := P)
    | with_reducible apply foldl_snd_kept (P := P)
    | split
    | dsimp only
    | with_reducible apply hP.upd)

theorem State.leaveController_kept {m : Prop} {P : State → Prop} (hP : Kept m P) : ∀ s x2, P s → P (State.leaveController s x2) := by
  intros
  unfold State.leaveController
  repeat' (first
    | with_reducible assumption
    | intro _
    | with_reducible apply State.setController_kept hP
    | with_reducible apply State.reply_kept hP
    | with_reducible apply State.showControllers_kept hP
    | with_reducible apply ite_kept (P := P)
    | with_reducible apply foldl_kept (P := P)
    | with_reducible apply foldl_fst_kept (P := P)
    | with_reducible apply foldl_snd_kept (P := P)
    | split
    | dsimp only
    | with_reducible apply hP.upd)

theorem fwStorageDisconnect_kept {m : Prop} {P : State → Prop} (hP : Kept m P) : ∀ x1 x2, Fw.Keeps P (fwStorageDisconnect x1 x2) := by
  intros
  unfold fwStorageDisconnect
  repeat' (first
    | with_reducible assumption
    | intro _
    | with_reducible apply State.reply_kept hP
    | with_reducible apply State.setController_kept hP
    | with_reducible apply State.leaveController_kept hP
    | with_reducible apply ite_kept (P := P)
    | with_reducible apply foldl_kept (P := P)
    | with_reducible apply foldl_fst_kept (P := P)
    | with_reducible apply foldl_snd_kept (P := P)
    | split
    | dsimp only
    | with_reducible apply Fw.Keeps.mk
    | with_reducible apply hP.upd)

theorem execStorageDisconnect_kept {m : Prop} {P : State → Prop} (hP : Kept m P) : ∀ x1 x2 s, P s → ∀ t, execStorageDisconnect x1 x2 s = .next t → P t := by
  intros
  rename_i e
  unfold execStorageDisconnect at e
  cases e
  repeat' (first
    | with_reducible assumption
    | intro _
    | with_reducible apply State.fwCommand_kept hP
    | with_reducible apply fwStorageDisconnect_kept hP
    | with_reducible apply ite_kept (P := P)
    | with_reducible apply foldl_kept (P := P)
    | with_reducible apply foldl_fst_kept (P := P)
    | with_reducible apply foldl_snd_kept (P := P)
    | split
    | dsimp only
    | with_reducible apply hP.upd)

theorem State.readBlocks_kept {m : Prop} {P : State → Prop} (hP : Kept m P) : ∀ s x2 x3 x4 x5, P s → P (State.readBlocks s x2 x3 x4 x5) := by
  intros
  unfold State.readBlocks
  repeat' (first
    | with_reducible assumption
    | intro _
    | with_reducible apply State.setController_kept hP
    | with_reducible apply State.issueReads_kept hP
    | with_reducible apply ite_kept (P := P)
    | with_reducible apply foldl_kept (P := P)
    | with_reducible apply foldl_fst_kept (P := P)
    | with_reducible apply foldl_snd_kept (P := P)
    | split
    | dsimp only
    | with_reducible apply hP.upd)

theorem doStorageRead_kept {m : Prop} {P : State → Prop} (hP : Kept m P) : ∀ x1 x2 s, P s → P (doStorageRead x1 x2 s) := by
  intros
  unfold doStorageRead
  repeat' (first
    | with_reducible assumption
    | intro _
    | with_reducible apply State.readBlocks_kept hP
    | with_reducible apply State.reply_kept hP
    | with_reducible apply ite_kept (P := P)
    | with_reducible apply foldl_kept (P := P)
    | with_reducible apply foldl_fst_kept (P := P)
    | with_reducible apply foldl_snd_kept (P := P)
    | split
    | dsimp only
    | with_reducible apply hP.upd)

theorem fwStorageRead_kept {m : Prop} {P : State → Prop} (hP : Kept m P) : ∀ x1 x2, Fw.Keeps P (fwStorageRead x1 x2) := by
  intros
  unfold fwStorageRead
  repeat' (first
    | with_reducible assumption
    | intro _
    | with_reducible apply doStorageRead_kept hP
    | with_reducible apply ite_kept (P := P)
    | with_reducible apply foldl_kept (P := P)
    | with_reducible apply foldl_fst_kept (P := P)
    | with_reducible apply foldl_snd_kept (P := P)
    | split
    | dsimp only
    | with_reducible apply Fw.Keeps.mk
    | with_reducible apply hP.upd)

theorem execStorageRead_kept {m : Prop} {P : State → Prop} (hP : Kept m P) : ∀ x1 x2 s, P s → ∀ t, execStorageRead x1 x2 s = .next t → P t := by
  intros
  rename_i e
  unfold execStorageRead at e
  cases e
  repeat' (first
    | with_reducible assumption
    | intro _
    | with_reducible apply State.fwCommand_kept hP
    | with_reducible apply fwStorageRead_kept hP
    | with_reducible apply ite_kept (P := P)
    | with_reducible apply foldl_kept (P := P)
    | with_reducible apply foldl_fst_kept (P := P)
    | with_reducible apply foldl_snd_kept (P := P)
    | split
    | dsimp only
    | with_reducible apply hP.upd)

theorem State.feedShards_kept {P : State → Prop} (hP : Kept True P) : ∀ p z n s j, P s → P (State.feedShards p z n s j).1 := by
  intro p z n s j h
  induction n generalizing s j with
  | zero => exact h
  | succ n ih =>
    unfold State.feedShards
    dsimp only
    repeat' (first
      | with_reducible assumption
      | with_reducible apply State.shardFault_kept hP
      | with_reducible apply ih
      | with_reducible refine State.ingest_kept hP _ _ _ _ _ _ _ ?_ (fun _ hb => ?_)
      | with_reducible apply State.readBlocks_kept hP
      | split)

theorem State.setJob_kept {m : Prop} {P : State → Prop} (hP : Kept m P) : ∀ s x2 x3 x4, P s → P (State.setJob s x2 x3 x4) := by
  intros
  unfold State.setJob
  repeat' (first
    | with_reducible assumption
    | intro _
    | with_reducible apply State.setController_kept hP
    | with_reducible apply ite_kept (P := P)
    | with_reducible apply foldl_kept (P := P)
    | with_reducible apply foldl_fst_kept (P := P)
    | with_reducible apply foldl_snd_kept (P := P)
    | split
    | dsimp only
    | with_reducible apply hP.upd)

theorem State.readData_kept {P : State → Prop} (hP : Kept True P) : ∀ s x2 x3 x4, P s → P (State.readData s x2 x3 x4) := by
  intros
  unfold State.readData
  repeat' (first
    | with_reducible assumption
    | intro _
    | with_reducible apply State.keep_kept hP
    | with_reducible apply State.feedShards_kept hP
    | with_reducible apply State.setJob_kept hP
    | with_reducible apply State.issueReads_kept hP
    | with_reducible apply State.reply_kept hP
    | with_reducible apply State.leaveController_kept hP
    | with_reducible apply ite_kept (P := P)
    | with_reducible apply foldl_kept (P := P)
    | with_reducible apply foldl_fst_kept (P := P)
    | with_reducible apply foldl_snd_kept (P := P)
    | split
    | dsimp only
    | with_reducible apply hP.upd)

theorem execStorageReadData_kept {P : State → Prop} (hP : Kept True P) : ∀ x1 x2 x3 s, P s → ∀ t, execStorageReadData x1 x2 x3 s = .next t → P t := by
  intros
  rename_i e
  unfold execStorageReadData at e
  cases e
  repeat' (first
    | with_reducible assumption
    | intro _
    | with_reducible apply State.readData_kept hP
    | with_reducible apply ite_kept (P := P)
    | with_reducible apply foldl_kept (P := P)
    | with_reducible apply foldl_fst_kept (P := P)
    | with_reducible apply foldl_snd_kept (P := P)
    | split
    | dsimp only
    | with_reducible apply hP.upd)

theorem State.storageFault_kept {m : Prop} {P : State → Prop} (hP : Kept m P) : ∀ s x2, P s → P (State.storageFault s x2) := by
  intros
  unfold State.storageFault
  repeat' (first
    | with_reducible assumption
    | intro _
    | with_reducible apply State.fault_kept hP
    | with_reducible apply ite_kept (P := P)
    | with_reducible apply foldl_kept (P := P)
    | with_reducible apply foldl_fst_kept (P := P)
    | with_reducible apply foldl_snd_kept (P := P)
    | split
    | dsimp only
    | with_reducible apply hP.upd)

theorem State.readTimeout_kept {m : Prop} {P : State → Prop} (hP : Kept m P) : ∀ s x2 x3, P s → P (State.readTimeout s x2 x3) := by
  intros
  unfold State.readTimeout
  repeat' (first
    | with_reducible assumption
    | intro _
    | with_reducible apply State.inc_kept hP
    | with_reducible apply State.issueRead_kept hP
    | with_reducible apply State.setController_kept hP
    | with_reducible apply State.endSource_kept hP
    | with_reducible apply State.reply_kept hP
    | with_reducible apply State.storageFault_kept hP
    | with_reducible apply State.leaveController_kept hP
    | with_reducible apply State.issueReads_kept hP
    | with_reducible apply ite_kept (P := P)
    | with_reducible apply foldl_kept (P := P)
    | with_reducible apply foldl_fst_kept (P := P)
    | with_reducible apply foldl_snd_kept (P := P)
    | split
    | dsimp only
    | with_reducible apply hP.upd)

theorem execStorageReadTimeout_kept {m : Prop} {P : State → Prop} (hP : Kept m P) : ∀ x1 x2 s, P s → ∀ t, execStorageReadTimeout x1 x2 s = .next t → P t := by
  intros
  rename_i e
  unfold execStorageReadTimeout at e
  cases e
  repeat' (first
    | with_reducible assumption
    | intro _
    | with_reducible apply State.readTimeout_kept hP
    | with_reducible apply ite_kept (P := P)
    | with_reducible apply foldl_kept (P := P)
    | with_reducible apply foldl_fst_kept (P := P)
    | with_reducible apply foldl_snd_kept (P := P)
    | split
    | dsimp only
    | with_reducible apply hP.upd)

theorem State.connectionLost_kept {m : Prop} {P : State → Prop} (hP : Kept m P) : ∀ s x2, P s → P (State.connectionLost s x2) := by
  intros
  unfold State.connectionLost
  repeat' (first
    | with_reducible assumption
    | intro _
    | with_reducible apply State.setController_kept hP
    | with_reducible apply State.showControllers_kept hP
    | with_reducible apply State.storageFault_kept hP
    | with_reducible apply ite_kept (P := P)
    | with_reducible apply foldl_kept (P := P)
    | with_reducible apply foldl_fst_kept (P := P)
    | with_reducible apply foldl_snd_kept (P := P)
    | split
    | dsimp only
    | with_reducible apply hP.upd)

theorem execStorageConnectionLost_kept {m : Prop} {P : State → Prop} (hP : Kept m P) : ∀ x1 s, P s → ∀ t, execStorageConnectionLost x1 s = .next t → P t := by
  intros
  rename_i e
  unfold execStorageConnectionLost at e
  cases e
  repeat' (first
    | with_reducible assumption
    | intro _
    | with_reducible apply State.connectionLost_kept hP
    | with_reducible apply ite_kept (P := P)
    | with_reducible apply foldl_kept (P := P)
    | with_reducible apply foldl_fst_kept (P := P)
    | with_reducible apply foldl_snd_kept (P := P)
    | split
    | dsimp only
    | with_reducible apply hP.upd)

/-! ### Steps -/

theorem State.startTile_kept {m : Prop} {P : State → Prop} (hP : Kept m P) : ∀ s x2 x3 x4 x5, P s → P (State.startTile s x2 x3 x4 x5) := by
  intros
  unfold State.startTile
  repeat' (first
    | with_reducible assumption
    | intro _
    | with_reducible apply State.wr_kept hP
    | with_reducible apply State.modEng_kept hP
    | with_reducible apply State.schedule_kept hP
    | with_reducible apply ite_kept (P := P)
    | with_reducible apply foldl_kept (P := P)
    | with_reducible apply foldl_fst_kept (P := P)
    | with_reducible apply foldl_snd_kept (P := P)
    | split
    | dsimp only
    | with_reducible apply hP.upd)

theorem State.startEntry_kept {m : Prop} {P : State → Prop} (hP : Kept m P) : ∀ s x2 x3 x4, P s → P (State.startEntry s x2 x3 x4) := by
  intros
  unfold State.startEntry
  repeat' (first
    | with_reducible assumption
    | intro _
    | with_reducible apply State.wr_kept hP
    | with_reducible apply State.setCrossing_kept hP
    | with_reducible apply State.startTile_kept hP
    | with_reducible apply ite_kept (P := P)
    | with_reducible apply foldl_kept (P := P)
    | with_reducible apply foldl_fst_kept (P := P)
    | with_reducible apply foldl_snd_kept (P := P)
    | split
    | dsimp only
    | with_reducible apply hP.upd)

theorem State.startStep_kept {m : Prop} {P : State → Prop} (hP : Kept m P) : ∀ s x2 x3, P s → P (State.startStep s x2 x3) := by
  intros
  unfold State.startStep
  repeat' (first
    | with_reducible assumption
    | intro _
    | with_reducible apply State.modCtx_kept hP
    | with_reducible apply State.startEntry_kept hP
    | with_reducible apply ite_kept (P := P)
    | with_reducible apply foldl_kept (P := P)
    | with_reducible apply foldl_fst_kept (P := P)
    | with_reducible apply foldl_snd_kept (P := P)
    | split
    | dsimp only
    | with_reducible apply hP.upd)

theorem State.slowdownRecord_kept {m : Prop} {P : State → Prop} (hP : Kept m P) : ∀ s x2 x3, P s → P (State.slowdownRecord s x2 x3).2 := by
  intros
  unfold State.slowdownRecord
  repeat' (first
    | with_reducible assumption
    | intro _
    | with_reducible apply State.schedule_kept hP
    | with_reducible apply State.free_kept hP
    | with_reducible apply ite_kept (P := P)
    | with_reducible apply foldl_kept (P := P)
    | with_reducible apply foldl_fst_kept (P := P)
    | with_reducible apply foldl_snd_kept (P := P)
    | split
    | dsimp only
    | with_reducible apply hP.upd)

theorem State.reportStep_kept {m : Prop} {P : State → Prop} (hP : Kept m P) : ∀ s x2 x3, P s → P (State.reportStep s x2 x3) := by
  intros
  unfold State.reportStep
  repeat' (first
    | with_reducible assumption
    | intro _
    | with_reducible apply State.slowdownRecord_kept hP
    | with_reducible apply State.modCtx_kept hP
    | with_reducible apply State.event_kept hP
    | with_reducible apply ite_kept (P := P)
    | with_reducible apply foldl_kept (P := P)
    | with_reducible apply foldl_fst_kept (P := P)
    | with_reducible apply foldl_snd_kept (P := P)
    | split
    | dsimp only
    | with_reducible apply hP.upd)

theorem State.stepEvent_kept {m : Prop} {P : State → Prop} (hP : Kept m P) : ∀ s x2 x3, P s → P (State.stepEvent s x2 x3) := by
  intros
  unfold State.stepEvent
  repeat' (first
    | with_reducible assumption
    | intro _
    | with_reducible apply State.event_kept hP
    | with_reducible apply ite_kept (P := P)
    | with_reducible apply foldl_kept (P := P)
    | with_reducible apply foldl_fst_kept (P := P)
    | with_reducible apply foldl_snd_kept (P := P)
    | split
    | dsimp only
    | with_reducible apply hP.upd)

/-! ### Parts -/

theorem State.setAssembly_kept {m : Prop} {P : State → Prop} (hP : Kept m P) : ∀ s x2 x3 x4, P s → P (State.setAssembly s x2 x3 x4) := by
  intros
  unfold State.setAssembly
  repeat' (first
    | with_reducible assumption
    | intro _
    | with_reducible apply ite_kept (P := P)
    | with_reducible apply foldl_kept (P := P)
    | with_reducible apply foldl_fst_kept (P := P)
    | with_reducible apply foldl_snd_kept (P := P)
    | split
    | dsimp only
    | with_reducible apply hP.upd)

theorem State.takePart_kept {m : Prop} {P : State → Prop} (hP : Kept m P) : ∀ s x2 x3 x4 x5 x6, P s → P (State.takePart s x2 x3 x4 x5 x6).2 := by
  intros
  unfold State.takePart
  repeat' (first
    | with_reducible assumption
    | intro _
    | with_reducible apply State.setAssembly_kept hP
    | with_reducible apply ite_kept (P := P)
    | with_reducible apply foldl_kept (P := P)
    | with_reducible apply foldl_fst_kept (P := P)
    | with_reducible apply foldl_snd_kept (P := P)
    | split
    | dsimp only
    | with_reducible apply hP.upd)

theorem Fw.discarding_kept {m : Prop} {P : State → Prop} (hP : Kept m P) : ∀ w (f : State → State), Fw.Keeps P w → (∀ b, P b → P (f b)) → Fw.Keeps P (Fw.discarding w f) := by
  intro w f hw hf
  exact ⟨hw.act, fun n b hb => hw.onRefusal n _ (hf b hb)⟩

theorem partFw_kept {m : Prop} {P : State → Prop} (hP : Kept m P) : ∀ h op (lenOk : Bool) sc off total data (judge : State → Bytes → Nat) (act : State → Bytes → State) (count : Nat → State → State),
    (∀ b o, P b → P (act b o)) → (∀ n b, P b → P (count n b)) → Fw.Keeps P (partFw h op lenOk sc off total data judge act count) := by
  intro h op lenOk sc off total data judge act count ha hc
  refine ⟨fun b hb => ?_, fun n b hb => hc _ _ (State.takePart_kept hP _ _ _ _ _ _ hb)⟩
  have h1 := State.takePart_kept hP b h op off total data hb
  unfold partFw
  dsimp only
  split
  · exact State.reply_kept hP _ _ _ _ _ _ h1
  · exact State.reply_kept hP _ _ _ _ _ _ h1
  · exact ite_kept (P := P) (State.reply_kept hP _ _ _ _ _ _ (hc _ _ h1)) (ha _ _ h1)

theorem State.seal_kept {m : Prop} {P : State → Prop} (hP : Kept m P) : ∀ s x2 x3 x4, P s → P (State.seal s x2 x3 x4).2 := by
  intros
  unfold State.seal
  repeat' (first
    | with_reducible assumption
    | intro _
    | with_reducible apply ite_kept (P := P)
    | with_reducible apply foldl_kept (P := P)
    | with_reducible apply foldl_fst_kept (P := P)
    | with_reducible apply foldl_snd_kept (P := P)
    | split
    | dsimp only
    | with_reducible apply hP.upd)

end Sys2Proof.Machine
end

