-- ==== Sys2Proof/Laws/KeptJobs.lean ====
section
/-! SUPPORT. What every operation keeps, by unit: training, serving, the tile engines, job start and results. -/

set_option Elab.async false
set_option linter.unusedTactic false
set_option linter.unreachableTactic false

namespace Sys2Proof.Machine

/-! ### Roster -/

theorem fwRosterTree_kept {m : Prop} {P : State → Prop} (hP : Kept m P) : ∀ x1 x2, Fw.Keeps P (fwRosterTree x1 x2) := by
  intros
  unfold fwRosterTree
  repeat' (first
    | with_reducible assumption
    | intro _
    | with_reducible apply State.modCtx_kept hP
    | with_reducible apply State.reply_kept hP
    | with_reducible apply ite_kept (P := P)
    | with_reducible apply foldl_kept (P := P)
    | with_reducible apply foldl_fst_kept (P := P)
    | with_reducible apply foldl_snd_kept (P := P)
    | split
    | dsimp only
    | with_reducible apply Fw.Keeps.mk
    | with_reducible apply hP.upd)

theorem execRosterTree_kept {m : Prop} {P : State → Prop} (hP : Kept m P) : ∀ x1 x2 s, P s → ∀ t, execRosterTree x1 x2 s = .next t → P t := by
  intros
  rename_i e
  unfold execRosterTree at e
  cases e
  repeat' (first
    | with_reducible assumption
    | intro _
    | with_reducible apply State.fwCommand_kept hP
    | with_reducible apply fwRosterTree_kept hP
    | with_reducible apply ite_kept (P := P)
    | with_reducible apply foldl_kept (P := P)
    | with_reducible apply foldl_fst_kept (P := P)
    | with_reducible apply foldl_snd_kept (P := P)
    | split
    | dsimp only
    | with_reducible apply hP.upd)

theorem State.tell_kept {m : Prop} {P : State → Prop} (hP : Kept m P) : ∀ s x2 x3 x4, P s → P (State.tell s x2 x3 x4) := by
  intros
  unfold State.tell
  repeat' (first
    | with_reducible assumption
    | intro _
    | with_reducible apply State.sendCtrl_kept hP
    | with_reducible apply ite_kept (P := P)
    | with_reducible apply foldl_kept (P := P)
    | with_reducible apply foldl_fst_kept (P := P)
    | with_reducible apply foldl_snd_kept (P := P)
    | split
    | dsimp only
    | with_reducible apply hP.upd)

theorem State.memberAt_kept {m : Prop} {P : State → Prop} (hP : Kept m P) : ∀ s x2 x3, P s → P (State.memberAt s x2 x3).2 := by
  intros
  unfold State.memberAt
  repeat' (first
    | with_reducible assumption
    | intro _
    | with_reducible apply State.free_kept hP
    | with_reducible apply ite_kept (P := P)
    | with_reducible apply foldl_kept (P := P)
    | with_reducible apply foldl_fst_kept (P := P)
    | with_reducible apply foldl_snd_kept (P := P)
    | split
    | dsimp only
    | with_reducible apply hP.upd)

theorem State.modTrain_kept {m : Prop} {P : State → Prop} (hP : Kept m P) : ∀ s x2 x3, P s → P (State.modTrain s x2 x3) := by
  intros
  unfold State.modTrain
  repeat' (first
    | with_reducible assumption
    | intro _
    | with_reducible apply State.modCtx_kept hP
    | with_reducible apply ite_kept (P := P)
    | with_reducible apply foldl_kept (P := P)
    | with_reducible apply foldl_fst_kept (P := P)
    | with_reducible apply foldl_snd_kept (P := P)
    | split
    | dsimp only
    | with_reducible apply hP.upd)

theorem State.toChildren_kept {m : Prop} {P : State → Prop} (hP : Kept m P) : ∀ s x2 x3, P s → P (State.toChildren s x2 x3) := by
  intros
  unfold State.toChildren
  repeat' (first
    | with_reducible assumption
    | intro _
    | with_reducible apply State.tell_kept hP
    | with_reducible apply ite_kept (P := P)
    | with_reducible apply foldl_kept (P := P)
    | with_reducible apply foldl_fst_kept (P := P)
    | with_reducible apply foldl_snd_kept (P := P)
    | split
    | dsimp only
    | with_reducible apply hP.upd)

theorem State.killFabric_kept {m : Prop} {P : State → Prop} (hP : Kept m P) : ∀ s x2, P s → P (State.killFabric s x2) := by
  intros
  unfold State.killFabric
  repeat' (first
    | with_reducible assumption
    | intro _
    | with_reducible apply State.endWords_kept hP
    | with_reducible apply ite_kept (P := P)
    | with_reducible apply foldl_kept (P := P)
    | with_reducible apply foldl_fst_kept (P := P)
    | with_reducible apply foldl_snd_kept (P := P)
    | split
    | dsimp only
    | with_reducible apply hP.upd)

theorem State.confirmed_kept {m : Prop} {P : State → Prop} (hP : Kept m P) : ∀ s x2 x3, P s → P (State.confirmed s x2 x3) := by
  intros
  unfold State.confirmed
  repeat' (first
    | with_reducible assumption
    | intro _
    | with_reducible apply State.wr_kept hP
    | with_reducible apply State.inc_kept hP
    | with_reducible apply State.modCtx_kept hP
    | with_reducible apply State.reply_kept hP
    | with_reducible apply ite_kept (P := P)
    | with_reducible apply foldl_kept (P := P)
    | with_reducible apply foldl_fst_kept (P := P)
    | with_reducible apply foldl_snd_kept (P := P)
    | split
    | dsimp only
    | with_reducible apply hP.upd)

theorem State.dropChildren_kept {m : Prop} {P : State → Prop} (hP : Kept m P) : ∀ s x2, P s → P (State.dropChildren s x2) := by
  intros
  unfold State.dropChildren
  repeat' (first
    | with_reducible assumption
    | intro _
    | with_reducible apply State.setStream_kept hP
    | with_reducible apply ite_kept (P := P)
    | with_reducible apply foldl_kept (P := P)
    | with_reducible apply foldl_fst_kept (P := P)
    | with_reducible apply foldl_snd_kept (P := P)
    | split
    | dsimp only
    | with_reducible apply hP.upd)

theorem State.voided_kept {m : Prop} {P : State → Prop} (hP : Kept m P) : ∀ s x2 x3 x4, P s → P (State.voided s x2 x3 x4) := by
  intros
  unfold State.voided
  repeat' (first
    | with_reducible assumption
    | intro _
    | with_reducible apply State.wr_kept hP
    | with_reducible apply State.inc_kept hP
    | with_reducible apply State.killFabric_kept hP
    | with_reducible apply State.dropChildren_kept hP
    | with_reducible apply State.payWaiting_kept hP
    | with_reducible apply State.modTrain_kept hP
    | with_reducible apply State.modCtx_kept hP
    | with_reducible apply ite_kept (P := P)
    | with_reducible apply foldl_kept (P := P)
    | with_reducible apply foldl_fst_kept (P := P)
    | with_reducible apply foldl_snd_kept (P := P)
    | split
    | dsimp only
    | with_reducible apply hP.upd)

theorem State.abandonStep_kept {m : Prop} {P : State → Prop} (hP : Kept m P) : ∀ s x2 x3 x4 x5, P s → P (State.abandonStep s x2 x3 x4 x5) := by
  intros
  unfold State.abandonStep
  repeat' (first
    | with_reducible assumption
    | intro _
    | with_reducible apply State.voided_kept hP
    | with_reducible apply State.wr_kept hP
    | with_reducible apply State.reply_kept hP
    | with_reducible apply State.fault_kept hP
    | with_reducible apply ite_kept (P := P)
    | with_reducible apply foldl_kept (P := P)
    | with_reducible apply foldl_fst_kept (P := P)
    | with_reducible apply foldl_snd_kept (P := P)
    | split
    | dsimp only
    | with_reducible apply hP.upd)

theorem State.takeVerdict_kept {m : Prop} {P : State → Prop} (hP : Kept m P) : ∀ s x2 x3 x4 x5 x6, P s → P (State.takeVerdict s x2 x3 x4 x5 x6) := by
  intros
  unfold State.takeVerdict
  repeat' (first
    | with_reducible assumption
    | intro _
    | with_reducible apply State.toChildren_kept hP
    | with_reducible apply State.confirmed_kept hP
    | with_reducible apply State.voided_kept hP
    | with_reducible apply State.abandonStep_kept hP
    | with_reducible apply ite_kept (P := P)
    | with_reducible apply foldl_kept (P := P)
    | with_reducible apply foldl_fst_kept (P := P)
    | with_reducible apply foldl_snd_kept (P := P)
    | split
    | dsimp only
    | with_reducible apply hP.upd)

theorem State.sendGradient_kept {m : Prop} {P : State → Prop} (hP : Kept m P) : ∀ s x2 x3, P s → P (State.sendGradient s x2 x3) := by
  intros
  unfold State.sendGradient
  repeat' (first
    | with_reducible assumption
    | intro _
    | with_reducible apply State.sendMessage_kept hP
    | with_reducible apply ite_kept (P := P)
    | with_reducible apply foldl_kept (P := P)
    | with_reducible apply foldl_fst_kept (P := P)
    | with_reducible apply foldl_snd_kept (P := P)
    | split
    | dsimp only
    | with_reducible apply hP.upd)

theorem State.giveVerdict_kept {m : Prop} {P : State → Prop} (hP : Kept m P) : ∀ s x2 x3 x4 x5 x6, P s → P (State.giveVerdict s x2 x3 x4 x5 x6) := by
  intros
  unfold State.giveVerdict
  repeat' (first
    | with_reducible assumption
    | intro _
    | with_reducible apply State.sendGradient_kept hP
    | with_reducible apply State.modCtx_kept hP
    | with_reducible apply State.takeVerdict_kept hP
    | with_reducible apply ite_kept (P := P)
    | with_reducible apply foldl_kept (P := P)
    | with_reducible apply foldl_fst_kept (P := P)
    | with_reducible apply foldl_snd_kept (P := P)
    | split
    | dsimp only
    | with_reducible apply hP.upd)

theorem State.askVoid_kept {m : Prop} {P : State → Prop} (hP : Kept m P) : ∀ s x2 x3 x4, P s → P (State.askVoid s x2 x3 x4) := by
  intros
  unfold State.askVoid
  repeat' (first
    | with_reducible assumption
    | intro _
    | with_reducible apply State.voided_kept hP
    | with_reducible apply State.giveVerdict_kept hP
    | with_reducible apply State.tell_kept hP
    | with_reducible apply ite_kept (P := P)
    | with_reducible apply foldl_kept (P := P)
    | with_reducible apply foldl_fst_kept (P := P)
    | with_reducible apply foldl_snd_kept (P := P)
    | split
    | dsimp only
    | with_reducible apply hP.upd)

theorem State.askOwnVoid_kept {m : Prop} {P : State → Prop} (hP : Kept m P) : ∀ s x2 x3, P s → P (State.askOwnVoid s x2 x3) := by
  intros
  unfold State.askOwnVoid
  repeat' (first
    | with_reducible assumption
    | intro _
    | with_reducible apply State.askVoid_kept hP
    | with_reducible apply ite_kept (P := P)
    | with_reducible apply foldl_kept (P := P)
    | with_reducible apply foldl_fst_kept (P := P)
    | with_reducible apply foldl_snd_kept (P := P)
    | split
    | dsimp only
    | with_reducible apply hP.upd)

theorem State.voidRequest_kept {m : Prop} {P : State → Prop} (hP : Kept m P) : ∀ s x2, P s → P (State.voidRequest s x2) := by
  intros
  unfold State.voidRequest
  repeat' (first
    | with_reducible assumption
    | intro _
    | with_reducible apply State.voided_kept hP
    | with_reducible apply State.giveVerdict_kept hP
    | with_reducible apply State.tell_kept hP
    | with_reducible apply ite_kept (P := P)
    | with_reducible apply foldl_kept (P := P)
    | with_reducible apply foldl_fst_kept (P := P)
    | with_reducible apply foldl_snd_kept (P := P)
    | split
    | dsimp only
    | with_reducible apply hP.upd)

theorem execVoidRequest_kept {m : Prop} {P : State → Prop} (hP : Kept m P) : ∀ x1 x2 x3 s, P s → ∀ t, execVoidRequest x1 x2 x3 s = .next t → P t := by
  intros
  rename_i e
  unfold execVoidRequest at e
  cases e
  repeat' (first
    | with_reducible assumption
    | intro _
    | with_reducible apply State.ctrlOnce_kept hP
    | with_reducible apply State.voidRequest_kept hP
    | with_reducible apply ite_kept (P := P)
    | with_reducible apply foldl_kept (P := P)
    | with_reducible apply foldl_fst_kept (P := P)
    | with_reducible apply foldl_snd_kept (P := P)
    | split
    | dsimp only
    | with_reducible apply hP.upd)

theorem State.verdictMsg_kept {m : Prop} {P : State → Prop} (hP : Kept m P) : ∀ s x2, P s → P (State.verdictMsg s x2) := by
  intros
  unfold State.verdictMsg
  repeat' (first
    | with_reducible assumption
    | intro _
    | with_reducible apply State.modTrain_kept hP
    | with_reducible apply State.wr_kept hP
    | with_reducible apply State.takeVerdict_kept hP
    | with_reducible apply State.inc_kept hP
    | with_reducible apply ite_kept (P := P)
    | with_reducible apply foldl_kept (P := P)
    | with_reducible apply foldl_fst_kept (P := P)
    | with_reducible apply foldl_snd_kept (P := P)
    | split
    | dsimp only
    | with_reducible apply hP.upd)

theorem execVerdict_kept {m : Prop} {P : State → Prop} (hP : Kept m P) : ∀ x1 x2 x3 s, P s → ∀ t, execVerdict x1 x2 x3 s = .next t → P t := by
  intros
  rename_i e
  unfold execVerdict at e
  cases e
  repeat' (first
    | with_reducible assumption
    | intro _
    | with_reducible apply State.ctrlOnce_kept hP
    | with_reducible apply State.verdictMsg_kept hP
    | with_reducible apply ite_kept (P := P)
    | with_reducible apply foldl_kept (P := P)
    | with_reducible apply foldl_fst_kept (P := P)
    | with_reducible apply foldl_snd_kept (P := P)
    | split
    | dsimp only
    | with_reducible apply hP.upd)

theorem State.verdictQuery_kept {m : Prop} {P : State → Prop} (hP : Kept m P) : ∀ s x2 x3, P s → P (State.verdictQuery s x2 x3) := by
  intros
  unfold State.verdictQuery
  repeat' (first
    | with_reducible assumption
    | intro _
    | with_reducible apply State.tell_kept hP
    | with_reducible apply ite_kept (P := P)
    | with_reducible apply foldl_kept (P := P)
    | with_reducible apply foldl_fst_kept (P := P)
    | with_reducible apply foldl_snd_kept (P := P)
    | split
    | dsimp only
    | with_reducible apply hP.upd)

theorem execVerdictQuery_kept {m : Prop} {P : State → Prop} (hP : Kept m P) : ∀ x1 x2 x3 s, P s → ∀ t, execVerdictQuery x1 x2 x3 s = .next t → P t := by
  intros
  rename_i e
  unfold execVerdictQuery at e
  cases e
  repeat' (first
    | with_reducible assumption
    | intro _
    | with_reducible apply State.ctrlOnce_kept hP
    | with_reducible apply State.verdictQuery_kept hP
    | with_reducible apply ite_kept (P := P)
    | with_reducible apply foldl_kept (P := P)
    | with_reducible apply foldl_fst_kept (P := P)
    | with_reducible apply foldl_snd_kept (P := P)
    | split
    | dsimp only
    | with_reducible apply hP.upd)

theorem State.verdictTimeout_kept {m : Prop} {P : State → Prop} (hP : Kept m P) : ∀ s x2, P s → P (State.verdictTimeout s x2) := by
  intros
  unfold State.verdictTimeout
  repeat' (first
    | with_reducible assumption
    | intro _
    | with_reducible apply State.voided_kept hP
    | with_reducible apply State.modTrain_kept hP
    | with_reducible apply State.tell_kept hP
    | with_reducible apply State.wr_kept hP
    | with_reducible apply State.fault_kept hP
    | with_reducible apply ite_kept (P := P)
    | with_reducible apply foldl_kept (P := P)
    | with_reducible apply foldl_fst_kept (P := P)
    | with_reducible apply foldl_snd_kept (P := P)
    | split
    | dsimp only
    | with_reducible apply hP.upd)

theorem execVerdictTimeout_kept {m : Prop} {P : State → Prop} (hP : Kept m P) : ∀ x1 s, P s → ∀ t, execVerdictTimeout x1 s = .next t → P t := by
  intros
  rename_i e
  unfold execVerdictTimeout at e
  cases e
  repeat' (first
    | with_reducible assumption
    | intro _
    | with_reducible apply State.verdictTimeout_kept hP
    | with_reducible apply ite_kept (P := P)
    | with_reducible apply foldl_kept (P := P)
    | with_reducible apply foldl_fst_kept (P := P)
    | with_reducible apply foldl_snd_kept (P := P)
    | split
    | dsimp only
    | with_reducible apply hP.upd)

theorem State.missed_kept {m : Prop} {P : State → Prop} (hP : Kept m P) : ∀ s x2 x3 x4, P s → P (State.missed s x2 x3 x4) := by
  intros
  unfold State.missed
  repeat' (first
    | with_reducible assumption
    | intro _
    | with_reducible apply State.memberAt_kept hP
    | with_reducible apply State.fault_kept hP
    | with_reducible apply State.askVoid_kept hP
    | with_reducible apply ite_kept (P := P)
    | with_reducible apply foldl_kept (P := P)
    | with_reducible apply foldl_fst_kept (P := P)
    | with_reducible apply foldl_snd_kept (P := P)
    | split
    | dsimp only
    | with_reducible apply hP.upd)

theorem State.contribution_kept {m : Prop} {P : State → Prop} (hP : Kept m P) : ∀ s x2 x3 x4 x5, P s → P (State.contribution s x2 x3 x4 x5) := by
  intros
  unfold State.contribution
  repeat' (first
    | with_reducible assumption
    | intro _
    | with_reducible apply State.voided_kept hP
    | with_reducible apply State.modTrain_kept hP
    | with_reducible apply State.missed_kept hP
    | with_reducible apply State.inc_kept hP
    | with_reducible apply ite_kept (P := P)
    | with_reducible apply foldl_kept (P := P)
    | with_reducible apply foldl_fst_kept (P := P)
    | with_reducible apply foldl_snd_kept (P := P)
    | split
    | dsimp only
    | with_reducible apply hP.upd)

theorem execContributionReceived_kept {m : Prop} {P : State → Prop} (hP : Kept m P) : ∀ x1 x2 x3 x4 s, P s → ∀ t, execContributionReceived x1 x2 x3 x4 s = .next t → P t := by
  intros
  rename_i e
  unfold execContributionReceived at e
  cases e
  repeat' (first
    | with_reducible assumption
    | intro _
    | with_reducible apply State.contribution_kept hP
    | with_reducible apply ite_kept (P := P)
    | with_reducible apply foldl_kept (P := P)
    | with_reducible apply foldl_fst_kept (P := P)
    | with_reducible apply foldl_snd_kept (P := P)
    | split
    | dsimp only
    | with_reducible apply hP.upd)

theorem State.hopExpiry_kept {m : Prop} {P : State → Prop} (hP : Kept m P) : ∀ s x2, P s → P (State.hopExpiry s x2) := by
  intros
  unfold State.hopExpiry
  repeat' (first
    | with_reducible assumption
    | intro _
    | with_reducible apply State.voided_kept hP
    | with_reducible apply State.missed_kept hP
    | with_reducible apply ite_kept (P := P)
    | with_reducible apply foldl_kept (P := P)
    | with_reducible apply foldl_fst_kept (P := P)
    | with_reducible apply foldl_snd_kept (P := P)
    | split
    | dsimp only
    | with_reducible apply hP.upd)

theorem execHopDeadlineExpiry_kept {m : Prop} {P : State → Prop} (hP : Kept m P) : ∀ x1 s, P s → ∀ t, execHopDeadlineExpiry x1 s = .next t → P t := by
  intros
  rename_i e
  unfold execHopDeadlineExpiry at e
  cases e
  repeat' (first
    | with_reducible assumption
    | intro _
    | with_reducible apply State.hopExpiry_kept hP
    | with_reducible apply ite_kept (P := P)
    | with_reducible apply foldl_kept (P := P)
    | with_reducible apply foldl_fst_kept (P := P)
    | with_reducible apply foldl_snd_kept (P := P)
    | split
    | dsimp only
    | with_reducible apply hP.upd)

theorem State.rootExpiry_kept {m : Prop} {P : State → Prop} (hP : Kept m P) : ∀ s x2, P s → P (State.rootExpiry s x2) := by
  intros
  unfold State.rootExpiry
  repeat' (first
    | with_reducible assumption
    | intro _
    | with_reducible apply State.voided_kept hP
    | with_reducible apply State.missed_kept hP
    | with_reducible apply State.fault_kept hP
    | with_reducible apply State.askVoid_kept hP
    | with_reducible apply ite_kept (P := P)
    | with_reducible apply foldl_kept (P := P)
    | with_reducible apply foldl_fst_kept (P := P)
    | with_reducible apply foldl_snd_kept (P := P)
    | split
    | dsimp only
    | with_reducible apply hP.upd)

theorem execRootDeadlineExpiry_kept {m : Prop} {P : State → Prop} (hP : Kept m P) : ∀ x1 s, P s → ∀ t, execRootDeadlineExpiry x1 s = .next t → P t := by
  intros
  rename_i e
  unfold execRootDeadlineExpiry at e
  cases e
  repeat' (first
    | with_reducible assumption
    | intro _
    | with_reducible apply State.rootExpiry_kept hP
    | with_reducible apply ite_kept (P := P)
    | with_reducible apply foldl_kept (P := P)
    | with_reducible apply foldl_fst_kept (P := P)
    | with_reducible apply foldl_snd_kept (P := P)
    | split
    | dsimp only
    | with_reducible apply hP.upd)

theorem State.attemptEnd_kept {m : Prop} {P : State → Prop} (hP : Kept m P) : ∀ s x2 x3, P s → P (State.attemptEnd s x2 x3) := by
  intros
  unfold State.attemptEnd
  repeat' (first
    | with_reducible assumption
    | intro _
    | with_reducible apply State.wr_kept hP
    | with_reducible apply State.inc_kept hP
    | with_reducible apply State.modTrain_kept hP
    | with_reducible apply State.voided_kept hP
    | with_reducible apply State.giveVerdict_kept hP
    | with_reducible apply State.rootExpiry_kept hP
    | with_reducible apply ite_kept (P := P)
    | with_reducible apply foldl_kept (P := P)
    | with_reducible apply foldl_fst_kept (P := P)
    | with_reducible apply foldl_snd_kept (P := P)
    | split
    | dsimp only
    | with_reducible apply hP.upd)

theorem State.markSlot_kept {m : Prop} {P : State → Prop} (hP : Kept m P) : ∀ s x2 x3 x4, P s → P (State.markSlot s x2 x3 x4) := by
  intros
  unfold State.markSlot
  repeat' (first
    | with_reducible assumption
    | intro _
    | with_reducible apply State.modCtx_kept hP
    | with_reducible apply ite_kept (P := P)
    | with_reducible apply foldl_kept (P := P)
    | with_reducible apply foldl_fst_kept (P := P)
    | with_reducible apply foldl_snd_kept (P := P)
    | split
    | dsimp only
    | with_reducible apply hP.upd)

theorem doInputLogConfigure_kept {m : Prop} {P : State → Prop} (hP : Kept m P) : ∀ x1 x2 x3 x4 x5 x6 x7 s, P s → P (doInputLogConfigure x1 x2 x3 x4 x5 x6 x7 s) := by
  intros
  unfold doInputLogConfigure
  repeat' (first
    | with_reducible assumption
    | intro _
    | with_reducible apply hP.setReg
    | with_reducible apply State.keep_kept hP
    | with_reducible apply State.modCtx_kept hP
    | with_reducible apply State.reply_kept hP
    | with_reducible apply ite_kept (P := P)
    | with_reducible apply foldl_kept (P := P)
    | with_reducible apply foldl_fst_kept (P := P)
    | with_reducible apply foldl_snd_kept (P := P)
    | split
    | dsimp only
    | with_reducible apply hP.upd)

theorem fwInputLogConfigure_kept {m : Prop} {P : State → Prop} (hP : Kept m P) : ∀ x1 x2 x3 x4 x5 x6 x7, Fw.Keeps P (fwInputLogConfigure x1 x2 x3 x4 x5 x6 x7) := by
  intros
  unfold fwInputLogConfigure
  repeat' (first
    | with_reducible assumption
    | intro _
    | with_reducible apply State.keep_kept hP
    | with_reducible apply doInputLogConfigure_kept hP
    | with_reducible apply ite_kept (P := P)
    | with_reducible apply foldl_kept (P := P)
    | with_reducible apply foldl_fst_kept (P := P)
    | with_reducible apply foldl_snd_kept (P := P)
    | split
    | dsimp only
    | with_reducible apply Fw.Keeps.mk
    | with_reducible apply hP.upd)

theorem execInputLogConfigure_kept {m : Prop} {P : State → Prop} (hP : Kept m P) : ∀ x1 x2 x3 x4 x5 x6 x7 s, P s → ∀ t, execInputLogConfigure x1 x2 x3 x4 x5 x6 x7 s = .next t → P t := by
  intros
  rename_i e
  unfold execInputLogConfigure at e
  cases e
  repeat' (first
    | with_reducible assumption
    | intro _
    | with_reducible apply State.fwCommand_kept hP
    | with_reducible apply fwInputLogConfigure_kept hP
    | with_reducible apply State.keep_kept hP
    | with_reducible apply ite_kept (P := P)
    | with_reducible apply foldl_kept (P := P)
    | with_reducible apply foldl_fst_kept (P := P)
    | with_reducible apply foldl_snd_kept (P := P)
    | split
    | dsimp only
    | with_reducible apply hP.upd)

theorem fwInputLogRead_kept {m : Prop} {P : State → Prop} (hP : Kept m P) : ∀ x1 x2 x3 x4, Fw.Keeps P (fwInputLogRead x1 x2 x3 x4) := by
  intros
  unfold fwInputLogRead
  repeat' (first
    | with_reducible assumption
    | intro _
    | with_reducible apply State.reply_kept hP
    | with_reducible apply State.seal_kept hP
    | with_reducible apply ite_kept (P := P)
    | with_reducible apply foldl_kept (P := P)
    | with_reducible apply foldl_fst_kept (P := P)
    | with_reducible apply foldl_snd_kept (P := P)
    | split
    | dsimp only
    | with_reducible apply Fw.Keeps.mk
    | with_reducible apply hP.upd)

theorem execInputLogRead_kept {m : Prop} {P : State → Prop} (hP : Kept m P) : ∀ x1 x2 x3 x4 s, P s → ∀ t, execInputLogRead x1 x2 x3 x4 s = .next t → P t := by
  intros
  rename_i e
  unfold execInputLogRead at e
  cases e
  repeat' (first
    | with_reducible assumption
    | intro _
    | with_reducible apply State.fwCommand_kept hP
    | with_reducible apply fwInputLogRead_kept hP
    | with_reducible apply ite_kept (P := P)
    | with_reducible apply foldl_kept (P := P)
    | with_reducible apply foldl_fst_kept (P := P)
    | with_reducible apply foldl_snd_kept (P := P)
    | split
    | dsimp only
    | with_reducible apply hP.upd)

theorem State.loadEntry_kept {P : State → Prop} (hP : Kept True P) : ∀ s x2 x3, P s → P (State.loadEntry s x2 x3) := by
  intros
  unfold State.loadEntry
  repeat' (first
    | with_reducible assumption
    | intro _
    | with_reducible apply State.markSlot_kept hP
    | with_reducible apply State.reply_kept hP
    | with_reducible apply State.wrPart_kept hP
    | with_reducible apply ite_kept (P := P)
    | with_reducible apply foldl_kept (P := P)
    | with_reducible apply foldl_fst_kept (P := P)
    | with_reducible apply foldl_snd_kept (P := P)
    | split
    | dsimp only
    | with_reducible apply hP.upd)

theorem fwInputLogLoad_kept {P : State → Prop} (hP : Kept True P) : ∀ x1 x2 x3 x4, Fw.Keeps P (fwInputLogLoad x1 x2 x3 x4) := by
  intros
  unfold fwInputLogLoad
  repeat' (first
    | with_reducible assumption
    | intro _
    | with_reducible apply partFw_kept hP
    | with_reducible apply State.loadEntry_kept hP
    | with_reducible apply ite_kept (P := P)
    | with_reducible apply foldl_kept (P := P)
    | with_reducible apply foldl_fst_kept (P := P)
    | with_reducible apply foldl_snd_kept (P := P)
    | split
    | dsimp only
    | with_reducible apply Fw.Keeps.mk
    | with_reducible apply hP.upd)

theorem execInputLogLoad_kept {P : State → Prop} (hP : Kept True P) : ∀ x1 x2 x3 x4 s, P s → ∀ t, execInputLogLoad x1 x2 x3 x4 s = .next t → P t := by
  intros
  rename_i e
  unfold execInputLogLoad at e
  cases e
  repeat' (first
    | with_reducible assumption
    | intro _
    | with_reducible apply State.fwCommand_kept hP
    | with_reducible apply fwInputLogLoad_kept hP
    | with_reducible apply ite_kept (P := P)
    | with_reducible apply foldl_kept (P := P)
    | with_reducible apply foldl_fst_kept (P := P)
    | with_reducible apply foldl_snd_kept (P := P)
    | split
    | dsimp only
    | with_reducible apply hP.upd)

theorem doTrainingStep_kept {m : Prop} {P : State → Prop} (hP : Kept m P) : ∀ x1 x2 s, P s → P (doTrainingStep x1 x2 s) := by
  intros
  unfold doTrainingStep
  repeat' (first
    | with_reducible assumption
    | intro _
    | with_reducible apply State.markSlot_kept hP
    | with_reducible apply State.modCtx_kept hP
    | with_reducible apply State.stage_kept hP
    | with_reducible apply ite_kept (P := P)
    | with_reducible apply foldl_kept (P := P)
    | with_reducible apply foldl_fst_kept (P := P)
    | with_reducible apply foldl_snd_kept (P := P)
    | split
    | dsimp only
    | with_reducible apply hP.upd)

theorem execTrainingStep_kept {m : Prop} {P : State → Prop} (hP : Kept m P) : ∀ x1 x2 s, P s → ∀ t, execTrainingStep x1 x2 s = .next t → P t := by
  intros
  rename_i e
  unfold execTrainingStep at e
  cases e
  repeat' (first
    | with_reducible assumption
    | intro _
    | with_reducible apply State.command_kept hP
    | with_reducible apply doTrainingStep_kept hP
    | with_reducible apply ite_kept (P := P)
    | with_reducible apply foldl_kept (P := P)
    | with_reducible apply foldl_fst_kept (P := P)
    | with_reducible apply foldl_snd_kept (P := P)
    | split
    | dsimp only
    | with_reducible apply hP.upd)

theorem State.copyFails_kept {m : Prop} {P : State → Prop} (hP : Kept m P) : ∀ s x2 x3, P s → P (State.copyFails s x2 x3) := by
  intros
  unfold State.copyFails
  repeat' (first
    | with_reducible assumption
    | intro _
    | with_reducible apply State.reply_kept hP
    | with_reducible apply ite_kept (P := P)
    | with_reducible apply foldl_kept (P := P)
    | with_reducible apply foldl_fst_kept (P := P)
    | with_reducible apply foldl_snd_kept (P := P)
    | split
    | dsimp only
    | with_reducible apply hP.upd)

theorem State.copyComplete_kept {P : State → Prop} (hP : Kept True P) : ∀ s x2, P s → P (State.copyComplete s x2) := by
  intros
  unfold State.copyComplete
  repeat' (first
    | with_reducible assumption
    | intro _
    | with_reducible apply State.rest_kept hP
    | with_reducible apply State.modCtx_kept hP
    | with_reducible apply State.copyFails_kept hP
    | with_reducible apply State.readLines_kept hP
    | with_reducible apply State.wrPart_kept hP
    | with_reducible apply State.wr_kept hP
    | with_reducible apply ite_kept (P := P)
    | with_reducible apply foldl_kept (P := P)
    | with_reducible apply foldl_fst_kept (P := P)
    | with_reducible apply foldl_snd_kept (P := P)
    | split
    | dsimp only
    | with_reducible apply hP.upd)

theorem execInputLogCopyComplete_kept {P : State → Prop} (hP : Kept True P) : ∀ x1 s, P s → ∀ t, execInputLogCopyComplete x1 s = .next t → P t := by
  intros
  rename_i e
  unfold execInputLogCopyComplete at e
  cases e
  repeat' (first
    | with_reducible assumption
    | intro _
    | with_reducible apply State.copyComplete_kept hP
    | with_reducible apply ite_kept (P := P)
    | with_reducible apply foldl_kept (P := P)
    | with_reducible apply foldl_fst_kept (P := P)
    | with_reducible apply foldl_snd_kept (P := P)
    | split
    | dsimp only
    | with_reducible apply hP.upd)

theorem State.sendMirror_kept {m : Prop} {P : State → Prop} (hP : Kept m P) : ∀ s x2 x3, P s → P (State.sendMirror s x2 x3) := by
  intros
  unfold State.sendMirror
  repeat' (first
    | with_reducible assumption
    | intro _
    | with_reducible apply State.sendMessage_kept hP
    | with_reducible apply ite_kept (P := P)
    | with_reducible apply foldl_kept (P := P)
    | with_reducible apply foldl_fst_kept (P := P)
    | with_reducible apply foldl_snd_kept (P := P)
    | split
    | dsimp only
    | with_reducible apply hP.upd)

theorem State.startAttempt_kept {P : State → Prop} (hP : Kept True P) : ∀ s x2 x3, P s → P (State.startAttempt s x2 x3) := by
  intros
  unfold State.startAttempt
  repeat' (first
    | with_reducible assumption
    | intro _
    | with_reducible apply hP.setReg
    | with_reducible apply State.wr_kept hP
    | with_reducible apply State.wrPart_kept hP
    | with_reducible apply State.modCtx_kept hP
    | with_reducible apply State.startStep_kept hP
    | with_reducible apply ite_kept (P := P)
    | with_reducible apply foldl_kept (P := P)
    | with_reducible apply foldl_fst_kept (P := P)
    | with_reducible apply foldl_snd_kept (P := P)
    | split
    | dsimp only
    | with_reducible apply hP.upd)

theorem State.startTraining_kept {P : State → Prop} (hP : Kept True P) : ∀ s x2 x3, P s → P (State.startTraining s x2 x3) := by
  intros
  unfold State.startTraining
  repeat' (first
    | with_reducible assumption
    | intro _
    | with_reducible apply State.wrPart_kept hP
    | with_reducible apply State.markSlot_kept hP
    | with_reducible apply State.sendMirror_kept hP
    | with_reducible apply State.modCtx_kept hP
    | with_reducible apply State.startAttempt_kept hP
    | with_reducible apply ite_kept (P := P)
    | with_reducible apply foldl_kept (P := P)
    | with_reducible apply foldl_fst_kept (P := P)
    | with_reducible apply foldl_snd_kept (P := P)
    | split
    | dsimp only
    | with_reducible apply hP.upd)

theorem State.startRepeat_kept {P : State → Prop} (hP : Kept True P) : ∀ s x2 x3, P s → P (State.startRepeat s x2 x3) := by
  intros
  unfold State.startRepeat
  repeat' (first
    | with_reducible assumption
    | intro _
    | with_reducible apply State.fault_kept hP
    | with_reducible apply State.startAttempt_kept hP
    | with_reducible apply State.voided_kept hP
    | with_reducible apply ite_kept (P := P)
    | with_reducible apply foldl_kept (P := P)
    | with_reducible apply foldl_fst_kept (P := P)
    | with_reducible apply foldl_snd_kept (P := P)
    | split
    | dsimp only
    | with_reducible apply hP.upd)

theorem fwMirrorConfigure_kept {m : Prop} {P : State → Prop} (hP : Kept m P) : ∀ x1 x2, Fw.Keeps P (fwMirrorConfigure x1 x2) := by
  intros
  unfold fwMirrorConfigure
  repeat' (first
    | with_reducible assumption
    | intro _
    | with_reducible apply State.modCtx_kept hP
    | with_reducible apply State.reply_kept hP
    | with_reducible apply ite_kept (P := P)
    | with_reducible apply foldl_kept (P := P)
    | with_reducible apply foldl_fst_kept (P := P)
    | with_reducible apply foldl_snd_kept (P := P)
    | split
    | dsimp only
    | with_reducible apply Fw.Keeps.mk
    | with_reducible apply hP.upd)

theorem execMirrorConfigure_kept {m : Prop} {P : State → Prop} (hP : Kept m P) : ∀ x1 x2 s, P s → ∀ t, execMirrorConfigure x1 x2 s = .next t → P t := by
  intros
  rename_i e
  unfold execMirrorConfigure at e
  cases e
  repeat' (first
    | with_reducible assumption
    | intro _
    | with_reducible apply State.fwCommand_kept hP
    | with_reducible apply fwMirrorConfigure_kept hP
    | with_reducible apply ite_kept (P := P)
    | with_reducible apply foldl_kept (P := P)
    | with_reducible apply foldl_fst_kept (P := P)
    | with_reducible apply foldl_snd_kept (P := P)
    | split
    | dsimp only
    | with_reducible apply hP.upd)

theorem fwMirrorAccept_kept {m : Prop} {P : State → Prop} (hP : Kept m P) : ∀ x1 x2 x3 x4 x5, Fw.Keeps P (fwMirrorAccept x1 x2 x3 x4 x5) := by
  intros
  unfold fwMirrorAccept
  repeat' (first
    | with_reducible assumption
    | intro _
    | with_reducible apply State.modCtx_kept hP
    | with_reducible apply State.reply_kept hP
    | with_reducible apply ite_kept (P := P)
    | with_reducible apply foldl_kept (P := P)
    | with_reducible apply foldl_fst_kept (P := P)
    | with_reducible apply foldl_snd_kept (P := P)
    | split
    | dsimp only
    | with_reducible apply Fw.Keeps.mk
    | with_reducible apply hP.upd)

theorem execMirrorAccept_kept {m : Prop} {P : State → Prop} (hP : Kept m P) : ∀ x1 x2 x3 x4 x5 s, P s → ∀ t, execMirrorAccept x1 x2 x3 x4 x5 s = .next t → P t := by
  intros
  rename_i e
  unfold execMirrorAccept at e
  cases e
  repeat' (first
    | with_reducible assumption
    | intro _
    | with_reducible apply State.fwCommand_kept hP
    | with_reducible apply fwMirrorAccept_kept hP
    | with_reducible apply ite_kept (P := P)
    | with_reducible apply foldl_kept (P := P)
    | with_reducible apply foldl_fst_kept (P := P)
    | with_reducible apply foldl_snd_kept (P := P)
    | split
    | dsimp only
    | with_reducible apply hP.upd)

theorem State.mirrorEntry_kept {P : State → Prop} (hP : Kept True P) : ∀ s x2 x3 x4, P s → P (State.mirrorEntry s x2 x3 x4) := by
  intros
  unfold State.mirrorEntry
  repeat' (first
    | with_reducible assumption
    | intro _
    | with_reducible apply State.wrPart_kept hP
    | with_reducible apply State.tell_kept hP
    | with_reducible apply ite_kept (P := P)
    | with_reducible apply foldl_kept (P := P)
    | with_reducible apply foldl_fst_kept (P := P)
    | with_reducible apply foldl_snd_kept (P := P)
    | split
    | dsimp only
    | with_reducible apply hP.upd)

theorem execMirror_kept {P : State → Prop} (hP : Kept True P) : ∀ x1 x2 x3 s, P s → ∀ t, execMirror x1 x2 x3 s = .next t → P t := by
  intros
  rename_i e
  unfold execMirror at e
  cases e
  repeat' (first
    | with_reducible assumption
    | intro _
    | with_reducible apply State.arriveFor_kept hP
    | with_reducible apply State.mirrorEntry_kept hP
    | with_reducible apply ite_kept (P := P)
    | with_reducible apply foldl_kept (P := P)
    | with_reducible apply foldl_fst_kept (P := P)
    | with_reducible apply foldl_snd_kept (P := P)
    | split
    | dsimp only
    | with_reducible apply hP.upd)

theorem State.mirrorAck_kept {m : Prop} {P : State → Prop} (hP : Kept m P) : ∀ s x2 x3 x4, P s → P (State.mirrorAck s x2 x3 x4) := by
  intros
  unfold State.mirrorAck
  repeat' (first
    | with_reducible assumption
    | intro _
    | with_reducible apply State.modCtx_kept hP
    | with_reducible apply State.sendMirror_kept hP
    | with_reducible apply ite_kept (P := P)
    | with_reducible apply foldl_kept (P := P)
    | with_reducible apply foldl_fst_kept (P := P)
    | with_reducible apply foldl_snd_kept (P := P)
    | split
    | dsimp only
    | with_reducible apply hP.upd)

theorem execMirrorAck_kept {m : Prop} {P : State → Prop} (hP : Kept m P) : ∀ x1 x2 x3 x4 x5 s, P s → ∀ t, execMirrorAck x1 x2 x3 x4 x5 s = .next t → P t := by
  intros
  rename_i e
  unfold execMirrorAck at e
  cases e
  repeat' (first
    | with_reducible assumption
    | intro _
    | with_reducible apply State.ctrlOnce_kept hP
    | with_reducible apply State.mirrorAck_kept hP
    | with_reducible apply ite_kept (P := P)
    | with_reducible apply foldl_kept (P := P)
    | with_reducible apply foldl_fst_kept (P := P)
    | with_reducible apply foldl_snd_kept (P := P)
    | split
    | dsimp only
    | with_reducible apply hP.upd)

theorem State.mirrorBehind_kept {m : Prop} {P : State → Prop} (hP : Kept m P) : ∀ s x2, P s → P (State.mirrorBehind s x2) := by
  intros
  unfold State.mirrorBehind
  repeat' (first
    | with_reducible assumption
    | intro _
    | with_reducible apply State.modCtx_kept hP
    | with_reducible apply State.wr_kept hP
    | with_reducible apply State.fault_kept hP
    | with_reducible apply ite_kept (P := P)
    | with_reducible apply foldl_kept (P := P)
    | with_reducible apply foldl_fst_kept (P := P)
    | with_reducible apply foldl_snd_kept (P := P)
    | split
    | dsimp only
    | with_reducible apply hP.upd)

theorem execMirrorBehind_kept {m : Prop} {P : State → Prop} (hP : Kept m P) : ∀ x1 s, P s → ∀ t, execMirrorBehind x1 s = .next t → P t := by
  intros
  rename_i e
  unfold execMirrorBehind at e
  cases e
  repeat' (first
    | with_reducible assumption
    | intro _
    | with_reducible apply State.mirrorBehind_kept hP
    | with_reducible apply ite_kept (P := P)
    | with_reducible apply foldl_kept (P := P)
    | with_reducible apply foldl_fst_kept (P := P)
    | with_reducible apply foldl_snd_kept (P := P)
    | split
    | dsimp only
    | with_reducible apply hP.upd)

/-! ### Serve -/

theorem State.setSeq_kept {m : Prop} {P : State → Prop} (hP : Kept m P) : ∀ s x2 x3, P s → P (State.setSeq s x2 x3) := by
  intros
  unfold State.setSeq
  repeat' (first
    | with_reducible assumption
    | intro _
    | with_reducible apply ite_kept (P := P)
    | with_reducible apply foldl_kept (P := P)
    | with_reducible apply foldl_fst_kept (P := P)
    | with_reducible apply foldl_snd_kept (P := P)
    | split
    | dsimp only
    | with_reducible apply hP.upd)

theorem State.modSeq_kept {m : Prop} {P : State → Prop} (hP : Kept m P) : ∀ s x2 x3, P s → P (State.modSeq s x2 x3) := by
  intros
  unfold State.modSeq
  repeat' (first
    | with_reducible assumption
    | intro _
    | with_reducible apply State.setSeq_kept hP
    | with_reducible apply ite_kept (P := P)
    | with_reducible apply foldl_kept (P := P)
    | with_reducible apply foldl_fst_kept (P := P)
    | with_reducible apply foldl_snd_kept (P := P)
    | split
    | dsimp only
    | with_reducible apply hP.upd)

theorem State.showSeq_kept {m : Prop} {P : State → Prop} (hP : Kept m P) : ∀ s x2, P s → P (State.showSeq s x2) := by
  intros
  unfold State.showSeq
  repeat' (first
    | with_reducible assumption
    | intro _
    | with_reducible apply State.wr_kept hP
    | with_reducible apply ite_kept (P := P)
    | with_reducible apply foldl_kept (P := P)
    | with_reducible apply foldl_fst_kept (P := P)
    | with_reducible apply foldl_snd_kept (P := P)
    | split
    | dsimp only
    | with_reducible apply hP.upd)

theorem State.reserveRing_kept {m : Prop} {P : State → Prop} (hP : Kept m P) : ∀ s x2 x3 x4, P s → P (State.reserveRing s x2 x3 x4) := by
  intros
  unfold State.reserveRing
  repeat' (first
    | with_reducible assumption
    | intro _
    | with_reducible apply State.setRing_kept hP
    | with_reducible apply ite_kept (P := P)
    | with_reducible apply foldl_kept (P := P)
    | with_reducible apply foldl_fst_kept (P := P)
    | with_reducible apply foldl_snd_kept (P := P)
    | split
    | dsimp only
    | with_reducible apply hP.upd)

theorem State.sequenceAdmit_kept {m : Prop} {P : State → Prop} (hP : Kept m P) : ∀ s x2 x3, P s → P (State.sequenceAdmit s x2 x3) := by
  intros
  unfold State.sequenceAdmit
  repeat' (first
    | with_reducible assumption
    | intro _
    | with_reducible apply State.command_kept hP
    | with_reducible apply State.stage_kept hP
    | with_reducible apply State.inc_kept hP
    | with_reducible apply ite_kept (P := P)
    | with_reducible apply foldl_kept (P := P)
    | with_reducible apply foldl_fst_kept (P := P)
    | with_reducible apply foldl_snd_kept (P := P)
    | split
    | dsimp only
    | with_reducible apply hP.upd)

theorem execSequenceAdmit_kept {m : Prop} {P : State → Prop} (hP : Kept m P) : ∀ x1 x2 s, P s → ∀ t, execSequenceAdmit x1 x2 s = .next t → P t := by
  intros
  rename_i e
  unfold execSequenceAdmit at e
  cases e
  repeat' (first
    | with_reducible assumption
    | intro _
    | with_reducible apply State.sequenceAdmit_kept hP
    | with_reducible apply ite_kept (P := P)
    | with_reducible apply foldl_kept (P := P)
    | with_reducible apply foldl_fst_kept (P := P)
    | with_reducible apply foldl_snd_kept (P := P)
    | split
    | dsimp only
    | with_reducible apply hP.upd)

theorem State.applyAdmit_kept {m : Prop} {P : State → Prop} (hP : Kept m P) : ∀ s x2 x3, P s → P (State.applyAdmit s x2 x3) := by
  intros
  unfold State.applyAdmit
  repeat' (first
    | with_reducible assumption
    | intro _
    | with_reducible apply State.inc_kept hP
    | with_reducible apply State.reply_kept hP
    | with_reducible apply State.wr_kept hP
    | with_reducible apply State.setSeq_kept hP
    | with_reducible apply State.modCtx_kept hP
    | with_reducible apply State.reserveRing_kept hP
    | with_reducible apply State.showSeq_kept hP
    | with_reducible apply ite_kept (P := P)
    | with_reducible apply foldl_kept (P := P)
    | with_reducible apply foldl_fst_kept (P := P)
    | with_reducible apply foldl_snd_kept (P := P)
    | split
    | dsimp only
    | with_reducible apply hP.upd)

theorem execSequenceCancel_kept {m : Prop} {P : State → Prop} (hP : Kept m P) : ∀ x1 x2 s, P s → ∀ t, execSequenceCancel x1 x2 s = .next t → P t := by
  intros
  rename_i e
  unfold execSequenceCancel at e
  cases e
  repeat' (first
    | with_reducible assumption
    | intro _
    | with_reducible apply State.command_kept hP
    | with_reducible apply State.stage_kept hP
    | with_reducible apply ite_kept (P := P)
    | with_reducible apply foldl_kept (P := P)
    | with_reducible apply foldl_fst_kept (P := P)
    | with_reducible apply foldl_snd_kept (P := P)
    | split
    | dsimp only
    | with_reducible apply hP.upd)

theorem State.applyCancel_kept {m : Prop} {P : State → Prop} (hP : Kept m P) : ∀ s x2 x3, P s → P (State.applyCancel s x2 x3) := by
  intros
  unfold State.applyCancel
  repeat' (first
    | with_reducible assumption
    | intro _
    | with_reducible apply State.reply_kept hP
    | with_reducible apply State.modSeq_kept hP
    | with_reducible apply ite_kept (P := P)
    | with_reducible apply foldl_kept (P := P)
    | with_reducible apply foldl_fst_kept (P := P)
    | with_reducible apply foldl_snd_kept (P := P)
    | split
    | dsimp only
    | with_reducible apply hP.upd)

theorem execSequenceQuery_kept {m : Prop} {P : State → Prop} (hP : Kept m P) : ∀ x1 x2 s, P s → ∀ t, execSequenceQuery x1 x2 s = .next t → P t := by
  intros
  rename_i e
  unfold execSequenceQuery at e
  cases e
  repeat' (first
    | with_reducible assumption
    | intro _
    | with_reducible apply State.command_kept hP
    | with_reducible apply State.reply_kept hP
    | with_reducible apply ite_kept (P := P)
    | with_reducible apply foldl_kept (P := P)
    | with_reducible apply foldl_fst_kept (P := P)
    | with_reducible apply foldl_snd_kept (P := P)
    | split
    | dsimp only
    | with_reducible apply hP.upd)

theorem State.seqLate_kept {m : Prop} {P : State → Prop} (hP : Kept m P) : ∀ s x2, P s → P (State.seqLate s x2) := by
  intros
  unfold State.seqLate
  repeat' (first
    | with_reducible assumption
    | intro _
    | with_reducible apply State.modSeq_kept hP
    | with_reducible apply State.fault_kept hP
    | with_reducible apply ite_kept (P := P)
    | with_reducible apply foldl_kept (P := P)
    | with_reducible apply foldl_fst_kept (P := P)
    | with_reducible apply foldl_snd_kept (P := P)
    | split
    | dsimp only
    | with_reducible apply hP.upd)

theorem execSequenceDeadlineExpiry_kept {m : Prop} {P : State → Prop} (hP : Kept m P) : ∀ x1 s, P s → ∀ t, execSequenceDeadlineExpiry x1 s = .next t → P t := by
  intros
  rename_i e
  unfold execSequenceDeadlineExpiry at e
  cases e
  repeat' (first
    | with_reducible assumption
    | intro _
    | with_reducible apply State.seqLate_kept hP
    | with_reducible apply ite_kept (P := P)
    | with_reducible apply foldl_kept (P := P)
    | with_reducible apply foldl_fst_kept (P := P)
    | with_reducible apply foldl_snd_kept (P := P)
    | split
    | dsimp only
    | with_reducible apply hP.upd)

theorem State.ringAppend_kept {P : State → Prop} (hP : Kept True P) : ∀ s x2 x3 x4, P s → P (State.ringAppend s x2 x3 x4) := by
  intros
  unfold State.ringAppend
  repeat' (first
    | with_reducible assumption
    | intro _
    | with_reducible apply State.ringPut_kept hP
    | with_reducible apply ite_kept (P := P)
    | with_reducible apply foldl_kept (P := P)
    | with_reducible apply foldl_fst_kept (P := P)
    | with_reducible apply foldl_snd_kept (P := P)
    | split
    | dsimp only
    | with_reducible apply hP.upd)

theorem State.retire_kept {P : State → Prop} (hP : Kept True P) : ∀ s x2 x3, P s → P (State.retire s x2 x3) := by
  intros
  unfold State.retire
  repeat' (first
    | with_reducible assumption
    | intro _
    | with_reducible apply State.ringAppend_kept hP
    | with_reducible apply State.setSeq_kept hP
    | with_reducible apply State.inc_kept hP
    | with_reducible apply State.dec_kept hP
    | with_reducible apply State.emptySlot_kept hP
    | with_reducible apply State.showSeq_kept hP
    | with_reducible apply ite_kept (P := P)
    | with_reducible apply foldl_kept (P := P)
    | with_reducible apply foldl_fst_kept (P := P)
    | with_reducible apply foldl_snd_kept (P := P)
    | split
    | dsimp only
    | with_reducible apply hP.upd)

theorem State.retireDue_kept {P : State → Prop} (hP : Kept True P) : ∀ s x2, P s → P (State.retireDue s x2) := by
  intros
  unfold State.retireDue
  repeat' (first
    | with_reducible assumption
    | intro _
    | with_reducible apply State.retire_kept hP
    | with_reducible apply ite_kept (P := P)
    | with_reducible apply foldl_kept (P := P)
    | with_reducible apply foldl_fst_kept (P := P)
    | with_reducible apply foldl_snd_kept (P := P)
    | split
    | dsimp only
    | with_reducible apply hP.upd)

theorem doServingConfigure_kept {m : Prop} {P : State → Prop} (hP : Kept m P) : ∀ x1 x2 s, P s → P (doServingConfigure x1 x2 s) := by
  intros
  unfold doServingConfigure
  repeat' (first
    | with_reducible assumption
    | intro _
    | with_reducible apply State.wr_kept hP
    | with_reducible apply State.modCtx_kept hP
    | with_reducible apply State.reply_kept hP
    | with_reducible apply ite_kept (P := P)
    | with_reducible apply foldl_kept (P := P)
    | with_reducible apply foldl_fst_kept (P := P)
    | with_reducible apply foldl_snd_kept (P := P)
    | split
    | dsimp only
    | with_reducible apply hP.upd)

theorem fwServingConfigure_kept {m : Prop} {P : State → Prop} (hP : Kept m P) : ∀ x1 x2, Fw.Keeps P (fwServingConfigure x1 x2) := by
  intros
  unfold fwServingConfigure
  repeat' (first
    | with_reducible assumption
    | intro _
    | with_reducible apply doServingConfigure_kept hP
    | with_reducible apply ite_kept (P := P)
    | with_reducible apply foldl_kept (P := P)
    | with_reducible apply foldl_fst_kept (P := P)
    | with_reducible apply foldl_snd_kept (P := P)
    | split
    | dsimp only
    | with_reducible apply Fw.Keeps.mk
    | with_reducible apply hP.upd)

theorem execServingConfigure_kept {m : Prop} {P : State → Prop} (hP : Kept m P) : ∀ x1 x2 s, P s → ∀ t, execServingConfigure x1 x2 s = .next t → P t := by
  intros
  rename_i e
  unfold execServingConfigure at e
  cases e
  repeat' (first
    | with_reducible assumption
    | intro _
    | with_reducible apply State.fwCommand_kept hP
    | with_reducible apply fwServingConfigure_kept hP
    | with_reducible apply ite_kept (P := P)
    | with_reducible apply foldl_kept (P := P)
    | with_reducible apply foldl_fst_kept (P := P)
    | with_reducible apply foldl_snd_kept (P := P)
    | split
    | dsimp only
    | with_reducible apply hP.upd)

theorem doRingConfigure_kept {m : Prop} {P : State → Prop} (hP : Kept m P) : ∀ x1 x2 x3 x4 s, P s → P (doRingConfigure x1 x2 x3 x4 s) := by
  intros
  unfold doRingConfigure
  repeat' (first
    | with_reducible assumption
    | intro _
    | with_reducible apply State.dropRing_kept hP
    | with_reducible apply State.setRing_kept hP
    | with_reducible apply State.reply_kept hP
    | with_reducible apply ite_kept (P := P)
    | with_reducible apply foldl_kept (P := P)
    | with_reducible apply foldl_fst_kept (P := P)
    | with_reducible apply foldl_snd_kept (P := P)
    | split
    | dsimp only
    | with_reducible apply hP.upd)

theorem fwRingConfigure_kept {m : Prop} {P : State → Prop} (hP : Kept m P) : ∀ x1 x2 x3 x4, Fw.Keeps P (fwRingConfigure x1 x2 x3 x4) := by
  intros
  unfold fwRingConfigure
  repeat' (first
    | with_reducible assumption
    | intro _
    | with_reducible apply doRingConfigure_kept hP
    | with_reducible apply ite_kept (P := P)
    | with_reducible apply foldl_kept (P := P)
    | with_reducible apply foldl_fst_kept (P := P)
    | with_reducible apply foldl_snd_kept (P := P)
    | split
    | dsimp only
    | with_reducible apply Fw.Keeps.mk
    | with_reducible apply hP.upd)

theorem execRingConfigure_kept {m : Prop} {P : State → Prop} (hP : Kept m P) : ∀ x1 x2 x3 x4 s, P s → ∀ t, execRingConfigure x1 x2 x3 x4 s = .next t → P t := by
  intros
  rename_i e
  unfold execRingConfigure at e
  cases e
  repeat' (first
    | with_reducible assumption
    | intro _
    | with_reducible apply State.fwCommand_kept hP
    | with_reducible apply fwRingConfigure_kept hP
    | with_reducible apply ite_kept (P := P)
    | with_reducible apply foldl_kept (P := P)
    | with_reducible apply foldl_fst_kept (P := P)
    | with_reducible apply foldl_snd_kept (P := P)
    | split
    | dsimp only
    | with_reducible apply hP.upd)

theorem State.markPrompt_kept {m : Prop} {P : State → Prop} (hP : Kept m P) : ∀ s x2 x3 x4, P s → P (State.markPrompt s x2 x3 x4) := by
  intros
  unfold State.markPrompt
  repeat' (first
    | with_reducible assumption
    | intro _
    | with_reducible apply State.modSeq_kept hP
    | with_reducible apply State.modCtx_kept hP
    | with_reducible apply ite_kept (P := P)
    | with_reducible apply foldl_kept (P := P)
    | with_reducible apply foldl_fst_kept (P := P)
    | with_reducible apply foldl_snd_kept (P := P)
    | split
    | dsimp only
    | with_reducible apply hP.upd)

theorem State.formGood_kept {m : Prop} {P : State → Prop} (hP : Kept m P) : ∀ a c n s, P s → P (State.formGood a c n s).1 := by
  intro a c n s h
  induction n generalizing s with
  | zero => exact h
  | succ n ih =>
    unfold State.formGood
    dsimp only
    split
    · exact h
    · exact ih _ (State.fault_kept hP _ _ _ _ _ _ _ _ (State.wr_kept hP _ _ _ (State.markPrompt_kept hP _ _ _ _ h)))

theorem State.writeAdapters_kept {P : State → Prop} (hP : Kept True P) : ∀ s x2 x3 x4 x5, P s → P (State.writeAdapters s x2 x3 x4 x5) := by
  intros
  unfold State.writeAdapters
  repeat' (first
    | with_reducible assumption
    | intro _
    | with_reducible apply State.writeShare_kept hP
    | with_reducible apply ite_kept (P := P)
    | with_reducible apply foldl_kept (P := P)
    | with_reducible apply foldl_fst_kept (P := P)
    | with_reducible apply foldl_snd_kept (P := P)
    | split
    | dsimp only
    | with_reducible apply hP.upd)

theorem State.writeDrove_kept {P : State → Prop} (hP : Kept True P) : ∀ s x2 x3 x4 x5, P s → P (State.writeDrove s x2 x3 x4 x5) := by
  intros
  unfold State.writeDrove
  repeat' (first
    | with_reducible assumption
    | intro _
    | with_reducible apply State.readLines_kept hP
    | with_reducible apply State.count_kept hP
    | with_reducible apply State.wrPart_kept hP
    | with_reducible apply State.zeroPart_kept hP
    | with_reducible apply ite_kept (P := P)
    | with_reducible apply foldl_kept (P := P)
    | with_reducible apply foldl_fst_kept (P := P)
    | with_reducible apply foldl_snd_kept (P := P)
    | split
    | dsimp only
    | with_reducible apply hP.upd)

theorem State.prepare_kept {P : State → Prop} (hP : Kept True P) : ∀ s x2 x3 x4, P s → P (State.prepare s x2 x3 x4) := by
  intros
  unfold State.prepare
  repeat' (first
    | with_reducible assumption
    | intro _
    | with_reducible apply State.formGood_kept hP
    | with_reducible apply State.poisonFault_kept hP
    | with_reducible apply State.writeAdapters_kept hP
    | with_reducible apply State.writeDrove_kept hP
    | with_reducible apply State.modCtx_kept hP
    | with_reducible apply ite_kept (P := P)
    | with_reducible apply foldl_kept (P := P)
    | with_reducible apply foldl_fst_kept (P := P)
    | with_reducible apply foldl_snd_kept (P := P)
    | split
    | dsimp only
    | with_reducible apply hP.upd)

theorem State.chargeSeqs_kept {m : Prop} {P : State → Prop} (hP : Kept m P) : ∀ s x2 x3, P s → P (State.chargeSeqs s x2 x3) := by
  intros
  unfold State.chargeSeqs
  repeat' (first
    | with_reducible assumption
    | intro _
    | with_reducible apply State.modSeq_kept hP
    | with_reducible apply ite_kept (P := P)
    | with_reducible apply foldl_kept (P := P)
    | with_reducible apply foldl_fst_kept (P := P)
    | with_reducible apply foldl_snd_kept (P := P)
    | split
    | dsimp only
    | with_reducible apply hP.upd)

theorem State.takeDrove_kept {m : Prop} {P : State → Prop} (hP : Kept m P) : ∀ s x2 x3, P s → P (State.takeDrove s x2 x3) := by
  intros
  unfold State.takeDrove
  repeat' (first
    | with_reducible assumption
    | intro _
    | with_reducible apply State.modSeq_kept hP
    | with_reducible apply State.reserveRing_kept hP
    | with_reducible apply State.wr_kept hP
    | with_reducible apply State.modCtx_kept hP
    | with_reducible apply State.showSeq_kept hP
    | with_reducible apply ite_kept (P := P)
    | with_reducible apply foldl_kept (P := P)
    | with_reducible apply foldl_fst_kept (P := P)
    | with_reducible apply foldl_snd_kept (P := P)
    | split
    | dsimp only
    | with_reducible apply hP.upd)

theorem State.startDrove_kept {m : Prop} {P : State → Prop} (hP : Kept m P) : ∀ s x2 x3, P s → P (State.startDrove s x2 x3) := by
  intros
  unfold State.startDrove
  repeat' (first
    | with_reducible assumption
    | intro _
    | with_reducible apply State.takeDrove_kept hP
    | with_reducible apply State.chargeSeqs_kept hP
    | with_reducible apply State.modCtx_kept hP
    | with_reducible apply State.startStep_kept hP
    | with_reducible apply ite_kept (P := P)
    | with_reducible apply foldl_kept (P := P)
    | with_reducible apply foldl_fst_kept (P := P)
    | with_reducible apply foldl_snd_kept (P := P)
    | split
    | dsimp only
    | with_reducible apply hP.upd)

theorem State.startServing_kept {m : Prop} {P : State → Prop} (hP : Kept m P) : ∀ s x2, P s → P (State.startServing s x2) := by
  intros
  unfold State.startServing
  repeat' (first
    | with_reducible assumption
    | intro _
    | with_reducible apply State.takeDrove_kept hP
    | with_reducible apply State.modCtx_kept hP
    | with_reducible apply State.chargeSeqs_kept hP
    | with_reducible apply State.startDrove_kept hP
    | with_reducible apply State.inc_kept hP
    | with_reducible apply ite_kept (P := P)
    | with_reducible apply foldl_kept (P := P)
    | with_reducible apply foldl_fst_kept (P := P)
    | with_reducible apply foldl_snd_kept (P := P)
    | split
    | dsimp only
    | with_reducible apply hP.upd)

theorem State.collectLane_kept {P : State → Prop} (hP : Kept True P) : ∀ s x2 x3 x4 x5, P s → P (State.collectLane s x2 x3 x4 x5) := by
  intros
  unfold State.collectLane
  repeat' (first
    | with_reducible assumption
    | intro _
    | with_reducible apply State.poisonFault_kept hP
    | with_reducible apply State.readLines_kept hP
    | with_reducible apply State.modSeq_kept hP
    | with_reducible apply State.count_kept hP
    | with_reducible apply State.reserveRing_kept hP
    | with_reducible apply State.wr_kept hP
    | with_reducible apply State.fault_kept hP
    | with_reducible apply State.ringAppend_kept hP
    | with_reducible apply ite_kept (P := P)
    | with_reducible apply foldl_kept (P := P)
    | with_reducible apply foldl_fst_kept (P := P)
    | with_reducible apply foldl_snd_kept (P := P)
    | split
    | dsimp only
    | with_reducible apply hP.upd)

theorem State.tellRings_kept {m : Prop} {P : State → Prop} (hP : Kept m P) : ∀ s x2, P s → P (State.tellRings s x2) := by
  intros
  unfold State.tellRings
  repeat' (first
    | with_reducible assumption
    | intro _
    | with_reducible apply State.setRing_kept hP
    | with_reducible apply State.event_kept hP
    | with_reducible apply ite_kept (P := P)
    | with_reducible apply foldl_kept (P := P)
    | with_reducible apply foldl_fst_kept (P := P)
    | with_reducible apply foldl_snd_kept (P := P)
    | split
    | dsimp only
    | with_reducible apply hP.upd)

theorem State.collect_kept {P : State → Prop} (hP : Kept True P) : ∀ s x2 x3, P s → P (State.collect s x2 x3) := by
  intros
  unfold State.collect
  repeat' (first
    | with_reducible assumption
    | intro _
    | with_reducible apply State.collectLane_kept hP
    | with_reducible apply State.tellRings_kept hP
    | with_reducible apply ite_kept (P := P)
    | with_reducible apply foldl_kept (P := P)
    | with_reducible apply foldl_fst_kept (P := P)
    | with_reducible apply foldl_snd_kept (P := P)
    | split
    | dsimp only
    | with_reducible apply hP.upd)

theorem State.contextStepEnd_kept {P : State → Prop} (hP : Kept True P) : ∀ s x2, P s → P (State.contextStepEnd s x2) := by
  intros
  unfold State.contextStepEnd
  repeat' (first
    | with_reducible assumption
    | intro _
    | with_reducible apply State.rest_kept hP
    | with_reducible apply State.modCtx_kept hP
    | with_reducible apply State.startEntry_kept hP
    | with_reducible apply State.stepEvent_kept hP
    | with_reducible apply State.reportStep_kept hP
    | with_reducible apply State.attemptEnd_kept hP
    | with_reducible apply State.collect_kept hP
    | with_reducible apply ite_kept (P := P)
    | with_reducible apply foldl_kept (P := P)
    | with_reducible apply foldl_fst_kept (P := P)
    | with_reducible apply foldl_snd_kept (P := P)
    | split
    | dsimp only
    | with_reducible apply hP.upd)

theorem execContextStepEnd_kept {P : State → Prop} (hP : Kept True P) : ∀ x1 s, P s → ∀ t, execContextStepEnd x1 s = .next t → P t := by
  intros
  rename_i e
  unfold execContextStepEnd at e
  cases e
  repeat' (first
    | with_reducible assumption
    | intro _
    | with_reducible apply State.contextStepEnd_kept hP
    | with_reducible apply ite_kept (P := P)
    | with_reducible apply foldl_kept (P := P)
    | with_reducible apply foldl_fst_kept (P := P)
    | with_reducible apply foldl_snd_kept (P := P)
    | split
    | dsimp only
    | with_reducible apply hP.upd)

/-! ### Array -/

theorem State.startSlip_kept {m : Prop} {P : State → Prop} (hP : Kept m P) : ∀ s x2 x3 x4, P s → P (State.startSlip s x2 x3 x4).2 := by
  intros
  unfold State.startSlip
  repeat' (first
    | with_reducible assumption
    | intro _
    | with_reducible apply State.free_kept hP
    | with_reducible apply ite_kept (P := P)
    | with_reducible apply foldl_kept (P := P)
    | with_reducible apply foldl_fst_kept (P := P)
    | with_reducible apply foldl_snd_kept (P := P)
    | split
    | dsimp only
    | with_reducible apply hP.upd)

theorem State.beginProduct_kept {P : State → Prop} (hP : Kept True P) : ∀ s x2 x3 x4, P s → P (State.beginProduct s x2 x3 x4) := by
  intros
  unfold State.beginProduct
  repeat' (first
    | with_reducible assumption
    | intro _
    | with_reducible apply State.wr_kept hP
    | with_reducible apply State.startSlip_kept hP
    | with_reducible apply State.modEng_kept hP
    | with_reducible apply State.refill_kept hP
    | with_reducible apply State.pump_kept hP
    | with_reducible apply ite_kept (P := P)
    | with_reducible apply foldl_kept (P := P)
    | with_reducible apply foldl_fst_kept (P := P)
    | with_reducible apply foldl_snd_kept (P := P)
    | split
    | dsimp only
    | with_reducible apply hP.upd)

theorem State.productStart_kept {P : State → Prop} (hP : Kept True P) : ∀ s x2 x3, P s → P (State.productStart s x2 x3) := by
  intros
  unfold State.productStart
  repeat' (first
    | with_reducible assumption
    | intro _
    | with_reducible apply State.inc_kept hP
    | with_reducible apply State.wr_kept hP
    | with_reducible apply State.tileFault_kept hP
    | with_reducible apply State.sramEcc_kept hP
    | with_reducible apply State.beginProduct_kept hP
    | with_reducible apply ite_kept (P := P)
    | with_reducible apply foldl_kept (P := P)
    | with_reducible apply foldl_fst_kept (P := P)
    | with_reducible apply foldl_snd_kept (P := P)
    | split
    | dsimp only
    | with_reducible apply hP.upd)

theorem execProductStart_kept {P : State → Prop} (hP : Kept True P) : ∀ x1 x2 s, P s → ∀ t, execProductStart x1 x2 s = .next t → P t := by
  intros
  rename_i e
  unfold execProductStart at e
  cases e
  repeat' (first
    | with_reducible assumption
    | intro _
    | with_reducible apply State.productStart_kept hP
    | with_reducible apply ite_kept (P := P)
    | with_reducible apply foldl_kept (P := P)
    | with_reducible apply foldl_fst_kept (P := P)
    | with_reducible apply foldl_snd_kept (P := P)
    | split
    | dsimp only
    | with_reducible apply hP.upd)

theorem State.endArray_kept {m : Prop} {P : State → Prop} (hP : Kept m P) : ∀ s x2 x3, P s → P (State.endArray s x2 x3) := by
  intros
  unfold State.endArray
  repeat' (first
    | with_reducible assumption
    | intro _
    | with_reducible apply State.rest_kept hP
    | with_reducible apply State.count_kept hP
    | with_reducible apply State.modEng_kept hP
    | with_reducible apply State.wr_kept hP
    | with_reducible apply ite_kept (P := P)
    | with_reducible apply foldl_kept (P := P)
    | with_reducible apply foldl_fst_kept (P := P)
    | with_reducible apply foldl_snd_kept (P := P)
    | split
    | dsimp only
    | with_reducible apply hP.upd)

theorem State.arrayLoop_kept {P : State → Prop} (hP : Kept True P) : ∀ c t upto n s, P s → P (State.arrayLoop c t upto n s) := by
  intro c t upto n s h
  induction n generalizing s with
  | zero => exact h
  | succ n ih =>
    have hx := State.tileSends_kept hP _ c t (State.arrayTo_kept hP s c t upto h)
    exact ite_kept (P := P) hx (ih _ hx)

theorem State.runArray_kept {P : State → Prop} (hP : Kept True P) : ∀ s x2 x3 x4, P s → P (State.runArray s x2 x3 x4) := by
  intros
  unfold State.runArray
  repeat' (first
    | with_reducible assumption
    | intro _
    | with_reducible apply State.arrayLoop_kept hP
    | with_reducible apply State.endArray_kept hP
    | with_reducible apply ite_kept (P := P)
    | with_reducible apply foldl_kept (P := P)
    | with_reducible apply foldl_fst_kept (P := P)
    | with_reducible apply foldl_snd_kept (P := P)
    | split
    | dsimp only
    | with_reducible apply hP.upd)

theorem State.arrayMoves_kept {P : State → Prop} (hP : Kept True P) : ∀ s x2 x3, P s → P (State.arrayMoves s x2 x3) := by
  intros
  unfold State.arrayMoves
  repeat' (first
    | with_reducible assumption
    | intro _
    | with_reducible apply State.free_kept hP
    | with_reducible apply State.runArray_kept hP
    | with_reducible apply ite_kept (P := P)
    | with_reducible apply foldl_kept (P := P)
    | with_reducible apply foldl_fst_kept (P := P)
    | with_reducible apply foldl_snd_kept (P := P)
    | split
    | dsimp only
    | with_reducible apply hP.upd)

theorem State.productEnd_kept {m : Prop} {P : State → Prop} (hP : Kept m P) : ∀ s x2 x3 x4 x5, P s → P (State.productEnd s x2 x3 x4 x5) := by
  intros
  unfold State.productEnd
  repeat' (first
    | with_reducible assumption
    | intro _
    | with_reducible apply State.modEng_kept hP
    | with_reducible apply State.wr_kept hP
    | with_reducible apply State.count_kept hP
    | with_reducible apply ite_kept (P := P)
    | with_reducible apply foldl_kept (P := P)
    | with_reducible apply foldl_fst_kept (P := P)
    | with_reducible apply foldl_snd_kept (P := P)
    | split
    | dsimp only
    | with_reducible apply hP.upd)

theorem State.countStalls_kept {m : Prop} {P : State → Prop} (hP : Kept m P) : ∀ s x2 x3, P s → P (State.countStalls s x2 x3) := by
  intros
  unfold State.countStalls
  repeat' (first
    | with_reducible assumption
    | intro _
    | with_reducible apply State.count_kept hP
    | with_reducible apply ite_kept (P := P)
    | with_reducible apply foldl_kept (P := P)
    | with_reducible apply foldl_fst_kept (P := P)
    | with_reducible apply foldl_snd_kept (P := P)
    | split
    | dsimp only
    | with_reducible apply hP.upd)

theorem State.oldestEnds_kept {P : State → Prop} (hP : Kept True P) : ∀ s x2 x3 x4, P s → P (State.oldestEnds s x2 x3 x4) := by
  intros
  unfold State.oldestEnds
  repeat' (first
    | with_reducible assumption
    | intro _
    | with_reducible apply State.productEnd_kept hP
    | with_reducible apply State.countStalls_kept hP
    | with_reducible apply State.tileSends_kept hP
    | with_reducible apply ite_kept (P := P)
    | with_reducible apply foldl_kept (P := P)
    | with_reducible apply foldl_fst_kept (P := P)
    | with_reducible apply foldl_snd_kept (P := P)
    | split
    | dsimp only
    | with_reducible apply hP.upd)

theorem State.productComplete_kept {P : State → Prop} (hP : Kept True P) : ∀ s x2 x3, P s → P (State.productComplete s x2 x3) := by
  intros
  unfold State.productComplete
  repeat' (first
    | with_reducible assumption
    | intro _
    | with_reducible apply State.tileSends_kept hP
    | with_reducible apply State.oldestEnds_kept hP
    | with_reducible apply State.runArray_kept hP
    | with_reducible apply ite_kept (P := P)
    | with_reducible apply foldl_kept (P := P)
    | with_reducible apply foldl_fst_kept (P := P)
    | with_reducible apply foldl_snd_kept (P := P)
    | split
    | dsimp only
    | with_reducible apply hP.upd)

theorem execProductComplete_kept {P : State → Prop} (hP : Kept True P) : ∀ x1 x2 s, P s → ∀ t, execProductComplete x1 x2 s = .next t → P t := by
  intros
  rename_i e
  unfold execProductComplete at e
  cases e
  repeat' (first
    | with_reducible assumption
    | intro _
    | with_reducible apply State.productComplete_kept hP
    | with_reducible apply ite_kept (P := P)
    | with_reducible apply foldl_kept (P := P)
    | with_reducible apply foldl_fst_kept (P := P)
    | with_reducible apply foldl_snd_kept (P := P)
    | split
    | dsimp only
    | with_reducible apply hP.upd)

theorem State.lastBeat_kept {P : State → Prop} (hP : Kept True P) : ∀ s x2 x3, P s → P (State.lastBeat s x2 x3) := by
  intros
  unfold State.lastBeat
  repeat' (first
    | with_reducible assumption
    | intro _
    | with_reducible apply State.endArray_kept hP
    | with_reducible apply State.free_kept hP
    | with_reducible apply State.runArray_kept hP
    | with_reducible apply ite_kept (P := P)
    | with_reducible apply foldl_kept (P := P)
    | with_reducible apply foldl_fst_kept (P := P)
    | with_reducible apply foldl_snd_kept (P := P)
    | split
    | dsimp only
    | with_reducible apply hP.upd)

theorem State.settleArray_kept {P : State → Prop} (hP : Kept True P) : ∀ s x2, P s → P (State.settleArray s x2) := by
  intros
  unfold State.settleArray
  repeat' (first
    | with_reducible assumption
    | intro _
    | with_reducible apply State.runArray_kept hP
    | with_reducible apply ite_kept (P := P)
    | with_reducible apply foldl_kept (P := P)
    | with_reducible apply foldl_fst_kept (P := P)
    | with_reducible apply foldl_snd_kept (P := P)
    | split
    | dsimp only
    | with_reducible apply hP.upd)

theorem State.elementWise_kept {P : State → Prop} (hP : Kept True P) : ∀ s x2 x3 x4, P s → P (State.elementWise s x2 x3 x4) := by
  intros
  unfold State.elementWise
  repeat' (first
    | with_reducible assumption
    | intro _
    | with_reducible apply State.runArray_kept hP
    | with_reducible apply State.count_kept hP
    | with_reducible apply State.inc_kept hP
    | with_reducible apply State.tileFault_kept hP
    | with_reducible apply State.sramEcc_kept hP
    | with_reducible apply State.countStalls_kept hP
    | with_reducible apply State.wr_kept hP
    | with_reducible apply State.modEng_kept hP
    | with_reducible apply State.arrayMoves_kept hP
    | with_reducible apply ite_kept (P := P)
    | with_reducible apply foldl_kept (P := P)
    | with_reducible apply foldl_fst_kept (P := P)
    | with_reducible apply foldl_snd_kept (P := P)
    | split
    | dsimp only
    | with_reducible apply hP.upd)

theorem execElementWiseStart_kept {P : State → Prop} (hP : Kept True P) : ∀ x1 x2 x3 s, P s → ∀ t, execElementWiseStart x1 x2 x3 s = .next t → P t := by
  intros
  rename_i e
  unfold execElementWiseStart at e
  cases e
  repeat' (first
    | with_reducible assumption
    | intro _
    | with_reducible apply State.elementWise_kept hP
    | with_reducible apply ite_kept (P := P)
    | with_reducible apply foldl_kept (P := P)
    | with_reducible apply foldl_fst_kept (P := P)
    | with_reducible apply foldl_snd_kept (P := P)
    | split
    | dsimp only
    | with_reducible apply hP.upd)

/-! ### Issue -/

theorem State.issueOrHold_kept {P : State → Prop} (hP : Kept True P) : ∀ s x2 x3 x4 x5, P s → P (State.issueOrHold s x2 x3 x4 x5) := by
  intros
  unfold State.issueOrHold
  repeat' (first
    | with_reducible assumption
    | intro _
    | with_reducible apply State.lastBeat_kept hP
    | with_reducible apply State.heldCycle_kept hP
    | with_reducible apply State.sramEcc_kept hP
    | with_reducible apply State.issueWord_kept hP
    | with_reducible apply ite_kept (P := P)
    | with_reducible apply foldl_kept (P := P)
    | with_reducible apply foldl_fst_kept (P := P)
    | with_reducible apply foldl_snd_kept (P := P)
    | split
    | dsimp only
    | with_reducible apply hP.upd)

theorem State.computeIssue_kept {P : State → Prop} (hP : Kept True P) : ∀ s x2 x3 x4, P s → P (State.computeIssue s x2 x3 x4) := by
  intros
  unfold State.computeIssue
  repeat' (first
    | with_reducible assumption
    | intro _
    | with_reducible apply State.insEcc_kept hP
    | with_reducible apply State.modEng_kept hP
    | with_reducible apply State.heldCycle_kept hP
    | with_reducible apply State.wr_kept hP
    | with_reducible apply State.issueOrHold_kept hP
    | with_reducible apply ite_kept (P := P)
    | with_reducible apply foldl_kept (P := P)
    | with_reducible apply foldl_fst_kept (P := P)
    | with_reducible apply foldl_snd_kept (P := P)
    | split
    | dsimp only
    | with_reducible apply hP.upd)

theorem execComputeWordIssue_kept {P : State → Prop} (hP : Kept True P) : ∀ x1 x2 x3 s, P s → ∀ t, execComputeWordIssue x1 x2 x3 s = .next t → P t := by
  intros
  rename_i e
  unfold execComputeWordIssue at e
  cases e
  repeat' (first
    | with_reducible assumption
    | intro _
    | with_reducible apply State.computeIssue_kept hP
    | with_reducible apply ite_kept (P := P)
    | with_reducible apply foldl_kept (P := P)
    | with_reducible apply foldl_fst_kept (P := P)
    | with_reducible apply foldl_snd_kept (P := P)
    | split
    | dsimp only
    | with_reducible apply hP.upd)

theorem State.rdvArrive_kept {P : State → Prop} (hP : Kept True P) : ∀ s x2, P s → P (State.rdvArrive s x2) := by
  intros
  unfold State.rdvArrive
  repeat' (first
    | with_reducible assumption
    | intro _
    | with_reducible apply State.settleArray_kept hP
    | with_reducible apply State.heldCycle_kept hP
    | with_reducible apply State.wr_kept hP
    | with_reducible apply State.modEng_kept hP
    | with_reducible apply State.modCtx_kept hP
    | with_reducible apply State.count_kept hP
    | with_reducible apply State.fault_kept hP
    | with_reducible apply ite_kept (P := P)
    | with_reducible apply foldl_kept (P := P)
    | with_reducible apply foldl_fst_kept (P := P)
    | with_reducible apply foldl_snd_kept (P := P)
    | split
    | dsimp only
    | with_reducible apply hP.upd)

theorem execRendezvousArrival_kept {P : State → Prop} (hP : Kept True P) : ∀ x1 s, P s → ∀ t, execRendezvousArrival x1 s = .next t → P t := by
  intros
  rename_i e
  unfold execRendezvousArrival at e
  cases e
  repeat' (first
    | with_reducible assumption
    | intro _
    | with_reducible apply State.rdvArrive_kept hP
    | with_reducible apply ite_kept (P := P)
    | with_reducible apply foldl_kept (P := P)
    | with_reducible apply foldl_fst_kept (P := P)
    | with_reducible apply foldl_snd_kept (P := P)
    | split
    | dsimp only
    | with_reducible apply hP.upd)

theorem State.rdvRelease_kept {P : State → Prop} (hP : Kept True P) : ∀ s x2 x3, P s → P (State.rdvRelease s x2 x3) := by
  intros
  unfold State.rdvRelease
  repeat' (first
    | with_reducible assumption
    | intro _
    | with_reducible apply State.modCtx_kept hP
    | with_reducible apply State.schedule_kept hP
    | with_reducible apply State.count_kept hP
    | with_reducible apply State.attribute_kept hP
    | with_reducible apply State.lastBeat_kept hP
    | with_reducible apply State.wr_kept hP
    | with_reducible apply State.modEng_kept hP
    | with_reducible apply State.checkedRead_kept hP
    | with_reducible apply State.issueWord_kept hP
    | with_reducible apply ite_kept (P := P)
    | with_reducible apply foldl_kept (P := P)
    | with_reducible apply foldl_fst_kept (P := P)
    | with_reducible apply foldl_snd_kept (P := P)
    | split
    | dsimp only
    | with_reducible apply hP.upd)

theorem execRendezvousRelease_kept {P : State → Prop} (hP : Kept True P) : ∀ x1 x2 s, P s → ∀ t, execRendezvousRelease x1 x2 s = .next t → P t := by
  intros
  rename_i e
  unfold execRendezvousRelease at e
  cases e
  repeat' (first
    | with_reducible assumption
    | intro _
    | with_reducible apply State.rdvRelease_kept hP
    | with_reducible apply ite_kept (P := P)
    | with_reducible apply foldl_kept (P := P)
    | with_reducible apply foldl_fst_kept (P := P)
    | with_reducible apply foldl_snd_kept (P := P)
    | split
    | dsimp only
    | with_reducible apply hP.upd)

theorem State.rdvTimeout_kept {m : Prop} {P : State → Prop} (hP : Kept m P) : ∀ s x2, P s → P (State.rdvTimeout s x2) := by
  intros
  unfold State.rdvTimeout
  repeat' (first
    | with_reducible assumption
    | intro _
    | with_reducible apply State.wr_kept hP
    | with_reducible apply State.tileFault_kept hP
    | with_reducible apply ite_kept (P := P)
    | with_reducible apply foldl_kept (P := P)
    | with_reducible apply foldl_fst_kept (P := P)
    | with_reducible apply foldl_snd_kept (P := P)
    | split
    | dsimp only
    | with_reducible apply hP.upd)

theorem execRendezvousTimeout_kept {m : Prop} {P : State → Prop} (hP : Kept m P) : ∀ x1 s, P s → ∀ t, execRendezvousTimeout x1 s = .next t → P t := by
  intros
  rename_i e
  unfold execRendezvousTimeout at e
  cases e
  repeat' (first
    | with_reducible assumption
    | intro _
    | with_reducible apply State.rdvTimeout_kept hP
    | with_reducible apply ite_kept (P := P)
    | with_reducible apply foldl_kept (P := P)
    | with_reducible apply foldl_fst_kept (P := P)
    | with_reducible apply foldl_snd_kept (P := P)
    | split
    | dsimp only
    | with_reducible apply hP.upd)

theorem State.semTimeout_kept {m : Prop} {P : State → Prop} (hP : Kept m P) : ∀ s x2 x3, P s → P (State.semTimeout s x2 x3) := by
  intros
  unfold State.semTimeout
  repeat' (first
    | with_reducible assumption
    | intro _
    | with_reducible apply State.wr_kept hP
    | with_reducible apply State.tileFault_kept hP
    | with_reducible apply ite_kept (P := P)
    | with_reducible apply foldl_kept (P := P)
    | with_reducible apply foldl_fst_kept (P := P)
    | with_reducible apply foldl_snd_kept (P := P)
    | split
    | dsimp only
    | with_reducible apply hP.upd)

theorem execSemaphoreWaitTimeout_kept {m : Prop} {P : State → Prop} (hP : Kept m P) : ∀ x1 x2 s, P s → ∀ t, execSemaphoreWaitTimeout x1 x2 s = .next t → P t := by
  intros
  rename_i e
  unfold execSemaphoreWaitTimeout at e
  cases e
  repeat' (first
    | with_reducible assumption
    | intro _
    | with_reducible apply State.semTimeout_kept hP
    | with_reducible apply ite_kept (P := P)
    | with_reducible apply foldl_kept (P := P)
    | with_reducible apply foldl_fst_kept (P := P)
    | with_reducible apply foldl_snd_kept (P := P)
    | split
    | dsimp only
    | with_reducible apply hP.upd)

theorem State.tileStepEnd_kept {P : State → Prop} (hP : Kept True P) : ∀ s x2, P s → P (State.tileStepEnd s x2) := by
  intros
  unfold State.tileStepEnd
  repeat' (first
    | with_reducible assumption
    | intro _
    | with_reducible apply State.settleArray_kept hP
    | with_reducible apply State.idle_kept hP
    | with_reducible apply State.wr_kept hP
    | with_reducible apply ite_kept (P := P)
    | with_reducible apply foldl_kept (P := P)
    | with_reducible apply foldl_fst_kept (P := P)
    | with_reducible apply foldl_snd_kept (P := P)
    | split
    | dsimp only
    | with_reducible apply hP.upd)

theorem execTileStepEnd_kept {P : State → Prop} (hP : Kept True P) : ∀ x1 s, P s → ∀ t, execTileStepEnd x1 s = .next t → P t := by
  intros
  rename_i e
  unfold execTileStepEnd at e
  cases e
  repeat' (first
    | with_reducible assumption
    | intro _
    | with_reducible apply State.tileStepEnd_kept hP
    | with_reducible apply ite_kept (P := P)
    | with_reducible apply foldl_kept (P := P)
    | with_reducible apply foldl_fst_kept (P := P)
    | with_reducible apply foldl_snd_kept (P := P)
    | split
    | dsimp only
    | with_reducible apply hP.upd)

/-! ### Vector -/

theorem State.vectorRun_kept {P : State → Prop} (hP : Kept True P) : ∀ s x2 x3 x4, P s → P (State.vectorRun s x2 x3 x4) := by
  intros
  unfold State.vectorRun
  repeat' (first
    | with_reducible assumption
    | intro _
    | with_reducible apply State.modEng_kept hP
    | with_reducible apply State.tileFault_kept hP
    | with_reducible apply State.sramEcc_kept hP
    | with_reducible apply State.wrSram_kept hP
    | with_reducible apply State.numFlags_kept hP
    | with_reducible apply State.putVec_kept hP
    | with_reducible apply ite_kept (P := P)
    | with_reducible apply foldl_kept (P := P)
    | with_reducible apply foldl_fst_kept (P := P)
    | with_reducible apply foldl_snd_kept (P := P)
    | split
    | dsimp only
    | with_reducible apply hP.upd)

theorem execVectorOperation_kept {P : State → Prop} (hP : Kept True P) : ∀ x1 x2 x3 s, P s → ∀ t, execVectorOperation x1 x2 x3 s = .next t → P t := by
  intros
  rename_i e
  unfold execVectorOperation at e
  cases e
  repeat' (first
    | with_reducible assumption
    | intro _
    | with_reducible apply State.vectorRun_kept hP
    | with_reducible apply ite_kept (P := P)
    | with_reducible apply foldl_kept (P := P)
    | with_reducible apply foldl_fst_kept (P := P)
    | with_reducible apply foldl_snd_kept (P := P)
    | split
    | dsimp only
    | with_reducible apply hP.upd)

theorem State.putRow_kept {P : State → Prop} (hP : Kept True P) : ∀ s x2 x3 x4 x5 x6 x7 x8, P s → P (State.putRow s x2 x3 x4 x5 x6 x7 x8) := by
  intros
  unfold State.putRow
  repeat' (first
    | with_reducible assumption
    | intro _
    | with_reducible apply State.numFlags_kept hP
    | with_reducible apply State.putVec_kept hP
    | with_reducible apply ite_kept (P := P)
    | with_reducible apply foldl_kept (P := P)
    | with_reducible apply foldl_fst_kept (P := P)
    | with_reducible apply foldl_snd_kept (P := P)
    | split
    | dsimp only
    | with_reducible apply hP.upd)

theorem State.addInto_kept {P : State → Prop} (hP : Kept True P) : ∀ s x2 x3 x4 x5, P s → P (State.addInto s x2 x3 x4 x5) := by
  intros
  unfold State.addInto
  repeat' (first
    | with_reducible assumption
    | intro _
    | with_reducible apply State.putRow_kept hP
    | with_reducible apply ite_kept (P := P)
    | with_reducible apply foldl_kept (P := P)
    | with_reducible apply foldl_fst_kept (P := P)
    | with_reducible apply foldl_snd_kept (P := P)
    | split
    | dsimp only
    | with_reducible apply hP.upd)

theorem State.statFault_kept {m : Prop} {P : State → Prop} (hP : Kept m P) : ∀ s x2 x3 x4, P s → P (State.statFault s x2 x3 x4) := by
  intros
  unfold State.statFault
  repeat' (first
    | with_reducible assumption
    | intro _
    | with_reducible apply State.wr_kept hP
    | with_reducible apply State.tileFault_kept hP
    | with_reducible apply ite_kept (P := P)
    | with_reducible apply foldl_kept (P := P)
    | with_reducible apply foldl_fst_kept (P := P)
    | with_reducible apply foldl_snd_kept (P := P)
    | split
    | dsimp only
    | with_reducible apply hP.upd)

theorem State.rowStep_kept {P : State → Prop} (hP : Kept True P) : ∀ s x2 x3 x4 x5, P s → P (State.rowStep s x2 x3 x4 x5) := by
  intros
  unfold State.rowStep
  repeat' (first
    | with_reducible assumption
    | intro _
    | with_reducible apply State.setStat_kept hP
    | with_reducible apply State.count_kept hP
    | with_reducible apply State.numFlags_kept hP
    | with_reducible apply State.putRow_kept hP
    | with_reducible apply State.statFault_kept hP
    | with_reducible apply State.addInto_kept hP
    | with_reducible apply ite_kept (P := P)
    | with_reducible apply foldl_kept (P := P)
    | with_reducible apply foldl_fst_kept (P := P)
    | with_reducible apply foldl_snd_kept (P := P)
    | split
    | dsimp only
    | with_reducible apply hP.upd)

theorem State.rowsTo_kept {P : State → Prop} (hP : Kept True P) : ∀ s x2 x3 x4 x5, P s → P (State.rowsTo s x2 x3 x4 x5) := by
  intros
  unfold State.rowsTo
  repeat' (first
    | with_reducible assumption
    | intro _
    | with_reducible apply State.rowStep_kept hP
    | with_reducible apply State.modEng_kept hP
    | with_reducible apply ite_kept (P := P)
    | with_reducible apply foldl_kept (P := P)
    | with_reducible apply foldl_fst_kept (P := P)
    | with_reducible apply foldl_snd_kept (P := P)
    | split
    | dsimp only
    | with_reducible apply hP.upd)

theorem State.rowDone_kept {m : Prop} {P : State → Prop} (hP : Kept m P) : ∀ s x2 x3, P s → P (State.rowDone s x2 x3) := by
  intros
  unfold State.rowDone
  repeat' (first
    | with_reducible assumption
    | intro _
    | with_reducible apply State.wr_kept hP
    | with_reducible apply State.modEng_kept hP
    | with_reducible apply ite_kept (P := P)
    | with_reducible apply foldl_kept (P := P)
    | with_reducible apply foldl_fst_kept (P := P)
    | with_reducible apply foldl_snd_kept (P := P)
    | split
    | dsimp only
    | with_reducible apply hP.upd)

theorem State.rowRun_kept {P : State → Prop} (hP : Kept True P) : ∀ s x2 x3, P s → P (State.rowRun s x2 x3) := by
  intros
  unfold State.rowRun
  repeat' (first
    | with_reducible assumption
    | intro _
    | with_reducible apply State.tileFault_kept hP
    | with_reducible apply State.sramEcc_kept hP
    | with_reducible apply State.rowsTo_kept hP
    | with_reducible apply State.rowDone_kept hP
    | with_reducible apply ite_kept (P := P)
    | with_reducible apply foldl_kept (P := P)
    | with_reducible apply foldl_fst_kept (P := P)
    | with_reducible apply foldl_snd_kept (P := P)
    | split
    | dsimp only
    | with_reducible apply hP.upd)

theorem execRowEngineOperation_kept {P : State → Prop} (hP : Kept True P) : ∀ x1 x2 s, P s → ∀ t, execRowEngineOperation x1 x2 s = .next t → P t := by
  intros
  rename_i e
  unfold execRowEngineOperation at e
  cases e
  repeat' (first
    | with_reducible assumption
    | intro _
    | with_reducible apply State.rowRun_kept hP
    | with_reducible apply ite_kept (P := P)
    | with_reducible apply foldl_kept (P := P)
    | with_reducible apply foldl_fst_kept (P := P)
    | with_reducible apply foldl_snd_kept (P := P)
    | split
    | dsimp only
    | with_reducible apply hP.upd)

/-! ### Mule -/

theorem State.muleLoad_kept {P : State → Prop} (hP : Kept True P) : ∀ s x2 x3, P s → P (State.muleLoad s x2 x3) := by
  intros
  unfold State.muleLoad
  repeat' (first
    | with_reducible assumption
    | intro _
    | with_reducible apply State.tileFault_kept hP
    | with_reducible apply State.sramEcc_kept hP
    | with_reducible apply State.putVec_kept hP
    | with_reducible apply State.setEng_kept hP
    | with_reducible apply State.lanesFlow_kept hP
    | with_reducible apply State.wrBit_kept hP
    | with_reducible apply ite_kept (P := P)
    | with_reducible apply foldl_kept (P := P)
    | with_reducible apply foldl_fst_kept (P := P)
    | with_reducible apply foldl_snd_kept (P := P)
    | split
    | dsimp only
    | with_reducible apply hP.upd)

theorem execMuleLoadComplete_kept {P : State → Prop} (hP : Kept True P) : ∀ x1 x2 s, P s → ∀ t, execMuleLoadComplete x1 x2 s = .next t → P t := by
  intros
  rename_i e
  unfold execMuleLoadComplete at e
  cases e
  repeat' (first
    | with_reducible assumption
    | intro _
    | with_reducible apply State.muleLoad_kept hP
    | with_reducible apply ite_kept (P := P)
    | with_reducible apply foldl_kept (P := P)
    | with_reducible apply foldl_fst_kept (P := P)
    | with_reducible apply foldl_snd_kept (P := P)
    | split
    | dsimp only
    | with_reducible apply hP.upd)

theorem State.runDown_kept {m : Prop} {P : State → Prop} (hP : Kept m P) : ∀ s x2 x3, P s → P (State.runDown s x2 x3) := by
  intros
  unfold State.runDown
  repeat' (first
    | with_reducible assumption
    | intro _
    | with_reducible apply State.numFlags_kept hP
    | with_reducible apply State.modEng_kept hP
    | with_reducible apply ite_kept (P := P)
    | with_reducible apply foldl_kept (P := P)
    | with_reducible apply foldl_fst_kept (P := P)
    | with_reducible apply foldl_snd_kept (P := P)
    | split
    | dsimp only
    | with_reducible apply hP.upd)

theorem State.mulePassStart_kept {m : Prop} {P : State → Prop} (hP : Kept m P) : ∀ s x2 x3, P s → P (State.mulePassStart s x2 x3) := by
  intros
  unfold State.mulePassStart
  repeat' (first
    | with_reducible assumption
    | intro _
    | with_reducible apply State.count_kept hP
    | with_reducible apply State.wr_kept hP
    | with_reducible apply State.tileFault_kept hP
    | with_reducible apply State.sramEcc_kept hP
    | with_reducible apply State.setEng_kept hP
    | with_reducible apply State.showPass_kept hP
    | with_reducible apply State.runDown_kept hP
    | with_reducible apply ite_kept (P := P)
    | with_reducible apply foldl_kept (P := P)
    | with_reducible apply foldl_fst_kept (P := P)
    | with_reducible apply foldl_snd_kept (P := P)
    | split
    | dsimp only
    | with_reducible apply hP.upd)

theorem execMulePassStart_kept {m : Prop} {P : State → Prop} (hP : Kept m P) : ∀ x1 x2 s, P s → ∀ t, execMulePassStart x1 x2 s = .next t → P t := by
  intros
  rename_i e
  unfold execMulePassStart at e
  cases e
  repeat' (first
    | with_reducible assumption
    | intro _
    | with_reducible apply State.mulePassStart_kept hP
    | with_reducible apply ite_kept (P := P)
    | with_reducible apply foldl_kept (P := P)
    | with_reducible apply foldl_fst_kept (P := P)
    | with_reducible apply foldl_snd_kept (P := P)
    | split
    | dsimp only
    | with_reducible apply hP.upd)

theorem State.panelOut_kept {P : State → Prop} (hP : Kept True P) : ∀ s x2 x3 x4 x5 x6, P s → P (State.panelOut s x2 x3 x4 x5 x6) := by
  intros
  unfold State.panelOut
  repeat' (first
    | with_reducible assumption
    | intro _
    | with_reducible apply State.takeDraws_kept hP
    | with_reducible apply State.numFlags_kept hP
    | with_reducible apply State.wrSram_kept hP
    | with_reducible apply State.modEng_kept hP
    | with_reducible apply State.tileSends_kept hP
    | with_reducible apply ite_kept (P := P)
    | with_reducible apply foldl_kept (P := P)
    | with_reducible apply foldl_fst_kept (P := P)
    | with_reducible apply foldl_snd_kept (P := P)
    | split
    | dsimp only
    | with_reducible apply hP.upd)

theorem State.mulePanel_kept {P : State → Prop} (hP : Kept True P) : ∀ s x2 x3, P s → P (State.mulePanel s x2 x3) := by
  intros
  unfold State.mulePanel
  repeat' (first
    | with_reducible assumption
    | intro _
    | with_reducible apply State.count_kept hP
    | with_reducible apply State.checkedRead_kept hP
    | with_reducible apply State.wr_kept hP
    | with_reducible apply State.tileFault_kept hP
    | with_reducible apply State.runDown_kept hP
    | with_reducible apply State.modEng_kept hP
    | with_reducible apply State.numFlags_kept hP
    | with_reducible apply State.panelOut_kept hP
    | with_reducible apply ite_kept (P := P)
    | with_reducible apply foldl_kept (P := P)
    | with_reducible apply foldl_fst_kept (P := P)
    | with_reducible apply foldl_snd_kept (P := P)
    | split
    | dsimp only
    | with_reducible apply hP.upd)

theorem execMulePanelComplete_kept {P : State → Prop} (hP : Kept True P) : ∀ x1 s, P s → ∀ t, execMulePanelComplete x1 s = .next t → P t := by
  intros
  rename_i e
  unfold execMulePanelComplete at e
  cases e
  repeat' (first
    | with_reducible assumption
    | intro _
    | with_reducible apply State.mulePanel_kept hP
    | with_reducible apply ite_kept (P := P)
    | with_reducible apply foldl_kept (P := P)
    | with_reducible apply foldl_fst_kept (P := P)
    | with_reducible apply foldl_snd_kept (P := P)
    | split
    | dsimp only
    | with_reducible apply hP.upd)

theorem State.mulePassEnd_kept {m : Prop} {P : State → Prop} (hP : Kept m P) : ∀ s x2 x3, P s → P (State.mulePassEnd s x2 x3) := by
  intros
  unfold State.mulePassEnd
  repeat' (first
    | with_reducible assumption
    | intro _
    | with_reducible apply State.setEng_kept hP
    | with_reducible apply State.wr_kept hP
    | with_reducible apply State.showPass_kept hP
    | with_reducible apply State.count_kept hP
    | with_reducible apply ite_kept (P := P)
    | with_reducible apply foldl_kept (P := P)
    | with_reducible apply foldl_fst_kept (P := P)
    | with_reducible apply foldl_snd_kept (P := P)
    | split
    | dsimp only
    | with_reducible apply hP.upd)

theorem execMulePassComplete_kept {m : Prop} {P : State → Prop} (hP : Kept m P) : ∀ x1 x2 s, P s → ∀ t, execMulePassComplete x1 x2 s = .next t → P t := by
  intros
  rename_i e
  unfold execMulePassComplete at e
  cases e
  repeat' (first
    | with_reducible assumption
    | intro _
    | with_reducible apply State.mulePassEnd_kept hP
    | with_reducible apply ite_kept (P := P)
    | with_reducible apply foldl_kept (P := P)
    | with_reducible apply foldl_fst_kept (P := P)
    | with_reducible apply foldl_snd_kept (P := P)
    | split
    | dsimp only
    | with_reducible apply hP.upd)

/-! ### Reduce -/

theorem State.setAcc_kept {m : Prop} {P : State → Prop} (hP : Kept m P) : ∀ s x2 x3 x4 x5, P s → P (State.setAcc s x2 x3 x4 x5) := by
  intros
  unfold State.setAcc
  repeat' (first
    | with_reducible assumption
    | intro _
    | with_reducible apply State.wr_kept hP
    | with_reducible apply State.modEng_kept hP
    | with_reducible apply ite_kept (P := P)
    | with_reducible apply foldl_kept (P := P)
    | with_reducible apply foldl_fst_kept (P := P)
    | with_reducible apply foldl_snd_kept (P := P)
    | split
    | dsimp only
    | with_reducible apply hP.upd)

theorem State.redFail_kept {m : Prop} {P : State → Prop} (hP : Kept m P) : ∀ s x2 x3 x4 x5 x6, P s → P (State.redFail s x2 x3 x4 x5 x6) := by
  intros
  unfold State.redFail
  repeat' (first
    | with_reducible assumption
    | intro _
    | with_reducible apply State.free_kept hP
    | with_reducible apply State.wr_kept hP
    | with_reducible apply State.fault_kept hP
    | with_reducible apply State.askOwnVoid_kept hP
    | with_reducible apply ite_kept (P := P)
    | with_reducible apply foldl_kept (P := P)
    | with_reducible apply foldl_fst_kept (P := P)
    | with_reducible apply foldl_snd_kept (P := P)
    | split
    | dsimp only
    | with_reducible apply hP.upd)

theorem State.redRefuse_kept {m : Prop} {P : State → Prop} (hP : Kept m P) : ∀ s x2, P s → P (State.redRefuse s x2) := by
  intros
  unfold State.redRefuse
  repeat' (first
    | with_reducible assumption
    | intro _
    | with_reducible apply State.wr_kept hP
    | with_reducible apply State.tileFault_kept hP
    | with_reducible apply ite_kept (P := P)
    | with_reducible apply foldl_kept (P := P)
    | with_reducible apply foldl_fst_kept (P := P)
    | with_reducible apply foldl_snd_kept (P := P)
    | split
    | dsimp only
    | with_reducible apply hP.upd)

theorem State.wideningAdd_kept {m : Prop} {P : State → Prop} (hP : Kept m P) : ∀ s x2 x3 x4, P s → P (State.wideningAdd s x2 x3 x4) := by
  intros
  unfold State.wideningAdd
  repeat' (first
    | with_reducible assumption
    | intro _
    | with_reducible apply State.tileFault_kept hP
    | with_reducible apply State.redRefuse_kept hP
    | with_reducible apply State.sramEcc_kept hP
    | with_reducible apply State.setAcc_kept hP
    | with_reducible apply State.count_kept hP
    | with_reducible apply State.numFlags_kept hP
    | with_reducible apply State.modEng_kept hP
    | with_reducible apply State.redFail_kept hP
    | with_reducible apply ite_kept (P := P)
    | with_reducible apply foldl_kept (P := P)
    | with_reducible apply foldl_fst_kept (P := P)
    | with_reducible apply foldl_snd_kept (P := P)
    | split
    | dsimp only
    | with_reducible apply hP.upd)

theorem execWideningAdd_kept {m : Prop} {P : State → Prop} (hP : Kept m P) : ∀ x1 x2 x3 s, P s → ∀ t, execWideningAdd x1 x2 x3 s = .next t → P t := by
  intros
  rename_i e
  unfold execWideningAdd at e
  cases e
  repeat' (first
    | with_reducible assumption
    | intro _
    | with_reducible apply State.wideningAdd_kept hP
    | with_reducible apply ite_kept (P := P)
    | with_reducible apply foldl_kept (P := P)
    | with_reducible apply foldl_fst_kept (P := P)
    | with_reducible apply foldl_snd_kept (P := P)
    | split
    | dsimp only
    | with_reducible apply hP.upd)

theorem State.putCarry_kept {P : State → Prop} (hP : Kept True P) : ∀ s x2 x3 x4 x5 x6 x7, P s → P (State.putCarry s x2 x3 x4 x5 x6 x7) := by
  intros
  unfold State.putCarry
  repeat' (first
    | with_reducible assumption
    | intro _
    | with_reducible apply State.numFlags_kept hP
    | with_reducible apply State.wrSram_kept hP
    | with_reducible apply ite_kept (P := P)
    | with_reducible apply foldl_kept (P := P)
    | with_reducible apply foldl_fst_kept (P := P)
    | with_reducible apply foldl_snd_kept (P := P)
    | split
    | dsimp only
    | with_reducible apply hP.upd)

theorem State.roundLedger_kept {P : State → Prop} (hP : Kept True P) : ∀ s x2 x3 x4, P s → P (State.roundLedger s x2 x3 x4) := by
  intros
  unfold State.roundLedger
  repeat' (first
    | with_reducible assumption
    | intro _
    | with_reducible apply State.tileFault_kept hP
    | with_reducible apply State.redRefuse_kept hP
    | with_reducible apply State.sramEcc_kept hP
    | with_reducible apply State.takeDraws_kept hP
    | with_reducible apply State.numFlags_kept hP
    | with_reducible apply State.wrSram_kept hP
    | with_reducible apply State.putCarry_kept hP
    | with_reducible apply State.wr_kept hP
    | with_reducible apply State.setAcc_kept hP
    | with_reducible apply State.modEng_kept hP
    | with_reducible apply State.redFail_kept hP
    | with_reducible apply State.modTrain_kept hP
    | with_reducible apply ite_kept (P := P)
    | with_reducible apply foldl_kept (P := P)
    | with_reducible apply foldl_fst_kept (P := P)
    | with_reducible apply foldl_snd_kept (P := P)
    | split
    | dsimp only
    | with_reducible apply hP.upd)

theorem execRoundWithLedger_kept {P : State → Prop} (hP : Kept True P) : ∀ x1 x2 x3 s, P s → ∀ t, execRoundWithLedger x1 x2 x3 s = .next t → P t := by
  intros
  rename_i e
  unfold execRoundWithLedger at e
  cases e
  repeat' (first
    | with_reducible assumption
    | intro _
    | with_reducible apply State.roundLedger_kept hP
    | with_reducible apply ite_kept (P := P)
    | with_reducible apply foldl_kept (P := P)
    | with_reducible apply foldl_fst_kept (P := P)
    | with_reducible apply foldl_snd_kept (P := P)
    | split
    | dsimp only
    | with_reducible apply hP.upd)

theorem State.checksumBlock_kept {P : State → Prop} (hP : Kept True P) : ∀ s x2 x3 x4, P s → P (State.checksumBlock s x2 x3 x4) := by
  intros
  unfold State.checksumBlock
  repeat' (first
    | with_reducible assumption
    | intro _
    | with_reducible apply State.tileFault_kept hP
    | with_reducible apply State.sramEcc_kept hP
    | with_reducible apply State.modEng_kept hP
    | with_reducible apply State.wrSram_kept hP
    | with_reducible apply State.wr_kept hP
    | with_reducible apply ite_kept (P := P)
    | with_reducible apply foldl_kept (P := P)
    | with_reducible apply foldl_fst_kept (P := P)
    | with_reducible apply foldl_snd_kept (P := P)
    | split
    | dsimp only
    | with_reducible apply hP.upd)

theorem execChecksumResidues_kept {P : State → Prop} (hP : Kept True P) : ∀ x1 x2 x3 s, P s → ∀ t, execChecksumResidues x1 x2 x3 s = .next t → P t := by
  intros
  rename_i e
  unfold execChecksumResidues at e
  cases e
  repeat' (first
    | with_reducible assumption
    | intro _
    | with_reducible apply State.checksumBlock_kept hP
    | with_reducible apply ite_kept (P := P)
    | with_reducible apply foldl_kept (P := P)
    | with_reducible apply foldl_fst_kept (P := P)
    | with_reducible apply foldl_snd_kept (P := P)
    | split
    | dsimp only
    | with_reducible apply hP.upd)

theorem State.pruneBlock_kept {P : State → Prop} (hP : Kept True P) : ∀ s x2 x3 x4 x5, P s → P (State.pruneBlock s x2 x3 x4 x5) := by
  intros
  unfold State.pruneBlock
  repeat' (first
    | with_reducible assumption
    | intro _
    | with_reducible apply State.poisonFault_kept hP
    | with_reducible apply State.countLines_kept hP
    | with_reducible apply State.linesVia_kept hP
    | with_reducible apply State.wrSram_kept hP
    | with_reducible apply State.wrPart_kept hP
    | with_reducible apply State.modCtx_kept hP
    | with_reducible apply State.count_kept hP
    | with_reducible apply ite_kept (P := P)
    | with_reducible apply foldl_kept (P := P)
    | with_reducible apply foldl_fst_kept (P := P)
    | with_reducible apply foldl_snd_kept (P := P)
    | split
    | dsimp only
    | with_reducible apply hP.upd)

theorem State.pruneTo_kept {P : State → Prop} (hP : Kept True P) : ∀ s x2 x3 x4 x5 x6, P s → P (State.pruneTo s x2 x3 x4 x5 x6) := by
  intros
  unfold State.pruneTo
  repeat' (first
    | with_reducible assumption
    | intro _
    | with_reducible apply State.pruneBlock_kept hP
    | with_reducible apply State.modEng_kept hP
    | with_reducible apply ite_kept (P := P)
    | with_reducible apply foldl_kept (P := P)
    | with_reducible apply foldl_fst_kept (P := P)
    | with_reducible apply foldl_snd_kept (P := P)
    | split
    | dsimp only
    | with_reducible apply hP.upd)

theorem State.pruneRun_kept {P : State → Prop} (hP : Kept True P) : ∀ s x2 x3 x4, P s → P (State.pruneRun s x2 x3 x4) := by
  intros
  unfold State.pruneRun
  repeat' (first
    | with_reducible assumption
    | intro _
    | with_reducible apply State.tileFault_kept hP
    | with_reducible apply State.sramEcc_kept hP
    | with_reducible apply State.pruneTo_kept hP
    | with_reducible apply State.modEng_kept hP
    | with_reducible apply State.wr_kept hP
    | with_reducible apply ite_kept (P := P)
    | with_reducible apply foldl_kept (P := P)
    | with_reducible apply foldl_fst_kept (P := P)
    | with_reducible apply foldl_snd_kept (P := P)
    | split
    | dsimp only
    | with_reducible apply hP.upd)

theorem execPruningUnit_kept {P : State → Prop} (hP : Kept True P) : ∀ x1 x2 x3 s, P s → ∀ t, execPruningUnit x1 x2 x3 s = .next t → P t := by
  intros
  rename_i e
  unfold execPruningUnit at e
  cases e
  repeat' (first
    | with_reducible assumption
    | intro _
    | with_reducible apply State.pruneRun_kept hP
    | with_reducible apply ite_kept (P := P)
    | with_reducible apply foldl_kept (P := P)
    | with_reducible apply foldl_fst_kept (P := P)
    | with_reducible apply foldl_snd_kept (P := P)
    | split
    | dsimp only
    | with_reducible apply hP.upd)

/-! ### Job -/

theorem doJobStartArm_kept {m : Prop} {P : State → Prop} (hP : Kept m P) : ∀ x1 x2 x3 x4 x5 s, P s → P (doJobStartArm x1 x2 x3 x4 x5 s) := by
  intros
  unfold doJobStartArm
  repeat' (first
    | with_reducible assumption
    | intro _
    | with_reducible apply State.modCtx_kept hP
    | with_reducible apply State.reply_kept hP
    | with_reducible apply ite_kept (P := P)
    | with_reducible apply foldl_kept (P := P)
    | with_reducible apply foldl_fst_kept (P := P)
    | with_reducible apply foldl_snd_kept (P := P)
    | split
    | dsimp only
    | with_reducible apply hP.upd)

theorem fwJobStartArm_kept {m : Prop} {P : State → Prop} (hP : Kept m P) : ∀ x1 x2 x3 x4 x5, Fw.Keeps P (fwJobStartArm x1 x2 x3 x4 x5) := by
  intros
  unfold fwJobStartArm
  repeat' (first
    | with_reducible assumption
    | intro _
    | with_reducible apply doJobStartArm_kept hP
    | with_reducible apply ite_kept (P := P)
    | with_reducible apply foldl_kept (P := P)
    | with_reducible apply foldl_fst_kept (P := P)
    | with_reducible apply foldl_snd_kept (P := P)
    | split
    | dsimp only
    | with_reducible apply Fw.Keeps.mk
    | with_reducible apply hP.upd)

theorem execJobStartArm_kept {m : Prop} {P : State → Prop} (hP : Kept m P) : ∀ x1 x2 x3 x4 x5 s, P s → ∀ t, execJobStartArm x1 x2 x3 x4 x5 s = .next t → P t := by
  intros
  rename_i e
  unfold execJobStartArm at e
  cases e
  repeat' (first
    | with_reducible assumption
    | intro _
    | with_reducible apply State.fwCommand_kept hP
    | with_reducible apply fwJobStartArm_kept hP
    | with_reducible apply ite_kept (P := P)
    | with_reducible apply foldl_kept (P := P)
    | with_reducible apply foldl_fst_kept (P := P)
    | with_reducible apply foldl_snd_kept (P := P)
    | split
    | dsimp only
    | with_reducible apply hP.upd)

theorem State.setLead_kept {m : Prop} {P : State → Prop} (hP : Kept m P) : ∀ s x2, P s → P (State.setLead s x2) := by
  intros
  unfold State.setLead
  repeat' (first
    | with_reducible assumption
    | intro _
    | with_reducible apply ite_kept (P := P)
    | with_reducible apply foldl_kept (P := P)
    | with_reducible apply foldl_fst_kept (P := P)
    | with_reducible apply foldl_snd_kept (P := P)
    | split
    | dsimp only
    | with_reducible apply hP.upd)

theorem State.sendPart_kept {m : Prop} {P : State → Prop} (hP : Kept m P) : ∀ s x2 x3, P s → P (State.sendPart s x2 x3) := by
  intros
  unfold State.sendPart
  repeat' (first
    | with_reducible assumption
    | intro _
    | with_reducible apply State.sendHop_kept hP
    | with_reducible apply ite_kept (P := P)
    | with_reducible apply foldl_kept (P := P)
    | with_reducible apply foldl_fst_kept (P := P)
    | with_reducible apply foldl_snd_kept (P := P)
    | split
    | dsimp only
    | with_reducible apply hP.upd)

theorem State.sendParts_kept {m : Prop} {P : State → Prop} (hP : Kept m P) : ∀ s x2 x3, P s → P (State.sendParts s x2 x3) := by
  intros
  unfold State.sendParts
  repeat' (first
    | with_reducible assumption
    | intro _
    | with_reducible apply State.sendPart_kept hP
    | with_reducible apply ite_kept (P := P)
    | with_reducible apply foldl_kept (P := P)
    | with_reducible apply foldl_fst_kept (P := P)
    | with_reducible apply foldl_snd_kept (P := P)
    | split
    | dsimp only
    | with_reducible apply hP.upd)

theorem State.deliverTo_kept {m : Prop} {P : State → Prop} (hP : Kept m P) : ∀ s x2 x3 x4 x5, P s → P (State.deliverTo s x2 x3 x4 x5) := by
  intros
  unfold State.deliverTo
  repeat' (first
    | with_reducible assumption
    | intro _
    | with_reducible apply State.sendParts_kept hP
    | with_reducible apply ite_kept (P := P)
    | with_reducible apply foldl_kept (P := P)
    | with_reducible apply foldl_fst_kept (P := P)
    | with_reducible apply foldl_snd_kept (P := P)
    | split
    | dsimp only
    | with_reducible apply hP.upd)

theorem State.commitIfAcked_kept {m : Prop} {P : State → Prop} (hP : Kept m P) : ∀ s x2, P s → P (State.commitIfAcked s x2) := by
  intros
  unfold State.commitIfAcked
  repeat' (first
    | with_reducible assumption
    | intro _
    | with_reducible apply State.setLead_kept hP
    | with_reducible apply State.reply_kept hP
    | with_reducible apply State.tell_kept hP
    | with_reducible apply ite_kept (P := P)
    | with_reducible apply foldl_kept (P := P)
    | with_reducible apply foldl_fst_kept (P := P)
    | with_reducible apply foldl_snd_kept (P := P)
    | split
    | dsimp only
    | with_reducible apply hP.upd)

theorem State.startGeneration_kept {m : Prop} {P : State → Prop} (hP : Kept m P) : ∀ s x2 x3, P s → P (State.startGeneration s x2 x3) := by
  intros
  unfold State.startGeneration
  repeat' (first
    | with_reducible assumption
    | intro _
    | with_reducible apply State.deliverTo_kept hP
    | with_reducible apply State.commitIfAcked_kept hP
    | with_reducible apply ite_kept (P := P)
    | with_reducible apply foldl_kept (P := P)
    | with_reducible apply foldl_fst_kept (P := P)
    | with_reducible apply foldl_snd_kept (P := P)
    | split
    | dsimp only
    | with_reducible apply hP.upd)

theorem doJobStartBroadcast_kept {m : Prop} {P : State → Prop} (hP : Kept m P) : ∀ x1 x2 x3 x4 x5 s, P s → P (doJobStartBroadcast x1 x2 x3 x4 x5 s) := by
  intros
  unfold doJobStartBroadcast
  repeat' (first
    | with_reducible assumption
    | intro _
    | with_reducible apply State.reply_kept hP
    | with_reducible apply State.readLines_kept hP
    | with_reducible apply State.startGeneration_kept hP
    | with_reducible apply ite_kept (P := P)
    | with_reducible apply foldl_kept (P := P)
    | with_reducible apply foldl_fst_kept (P := P)
    | with_reducible apply foldl_snd_kept (P := P)
    | split
    | dsimp only
    | with_reducible apply hP.upd)

theorem fwJobStartBroadcast_kept {m : Prop} {P : State → Prop} (hP : Kept m P) : ∀ x1 x2 x3 x4 x5, Fw.Keeps P (fwJobStartBroadcast x1 x2 x3 x4 x5) := by
  intros
  unfold fwJobStartBroadcast
  repeat' (first
    | with_reducible assumption
    | intro _
    | with_reducible apply doJobStartBroadcast_kept hP
    | with_reducible apply ite_kept (P := P)
    | with_reducible apply foldl_kept (P := P)
    | with_reducible apply foldl_fst_kept (P := P)
    | with_reducible apply foldl_snd_kept (P := P)
    | split
    | dsimp only
    | with_reducible apply Fw.Keeps.mk
    | with_reducible apply hP.upd)

theorem execJobStartBroadcast_kept {m : Prop} {P : State → Prop} (hP : Kept m P) : ∀ x1 x2 x3 x4 x5 s, P s → ∀ t, execJobStartBroadcast x1 x2 x3 x4 x5 s = .next t → P t := by
  intros
  rename_i e
  unfold execJobStartBroadcast at e
  cases e
  repeat' (first
    | with_reducible assumption
    | intro _
    | with_reducible apply State.fwCommand_kept hP
    | with_reducible apply fwJobStartBroadcast_kept hP
    | with_reducible apply ite_kept (P := P)
    | with_reducible apply foldl_kept (P := P)
    | with_reducible apply foldl_fst_kept (P := P)
    | with_reducible apply foldl_snd_kept (P := P)
    | split
    | dsimp only
    | with_reducible apply hP.upd)

theorem State.failMembers_kept {m : Prop} {P : State → Prop} (hP : Kept m P) : ∀ s x2 x3, P s → P (State.failMembers s x2 x3) := by
  intros
  unfold State.failMembers
  repeat' (first
    | with_reducible assumption
    | intro _
    | with_reducible apply State.setLead_kept hP
    | with_reducible apply State.fault_kept hP
    | with_reducible apply State.reply_kept hP
    | with_reducible apply ite_kept (P := P)
    | with_reducible apply foldl_kept (P := P)
    | with_reducible apply foldl_fst_kept (P := P)
    | with_reducible apply foldl_snd_kept (P := P)
    | split
    | dsimp only
    | with_reducible apply hP.upd)

theorem State.jobAck_kept {m : Prop} {P : State → Prop} (hP : Kept m P) : ∀ s x2 x3 x4, P s → P (State.jobAck s x2 x3 x4) := by
  intros
  unfold State.jobAck
  repeat' (first
    | with_reducible assumption
    | intro _
    | with_reducible apply State.commitIfAcked_kept hP
    | with_reducible apply State.failMembers_kept hP
    | with_reducible apply State.setLead_kept hP
    | with_reducible apply State.deliverTo_kept hP
    | with_reducible apply ite_kept (P := P)
    | with_reducible apply foldl_kept (P := P)
    | with_reducible apply foldl_fst_kept (P := P)
    | with_reducible apply foldl_snd_kept (P := P)
    | split
    | dsimp only
    | with_reducible apply hP.upd)

theorem execJobAck_kept {m : Prop} {P : State → Prop} (hP : Kept m P) : ∀ x1 x2 x3 x4 x5 x6 s, P s → ∀ t, execJobAck x1 x2 x3 x4 x5 x6 s = .next t → P t := by
  intros
  rename_i e
  unfold execJobAck at e
  cases e
  repeat' (first
    | with_reducible assumption
    | intro _
    | with_reducible apply State.ctrlOnce_kept hP
    | with_reducible apply State.jobAck_kept hP
    | with_reducible apply ite_kept (P := P)
    | with_reducible apply foldl_kept (P := P)
    | with_reducible apply foldl_fst_kept (P := P)
    | with_reducible apply foldl_snd_kept (P := P)
    | split
    | dsimp only
    | with_reducible apply hP.upd)

theorem State.ackLevel_kept {m : Prop} {P : State → Prop} (hP : Kept m P) : ∀ s x2, P s → P (State.ackLevel s x2) := by
  intros
  unfold State.ackLevel
  repeat' (first
    | with_reducible assumption
    | intro _
    | with_reducible apply State.failMembers_kept hP
    | with_reducible apply State.deliverTo_kept hP
    | with_reducible apply State.setLead_kept hP
    | with_reducible apply State.startGeneration_kept hP
    | with_reducible apply ite_kept (P := P)
    | with_reducible apply foldl_kept (P := P)
    | with_reducible apply foldl_fst_kept (P := P)
    | with_reducible apply foldl_snd_kept (P := P)
    | split
    | dsimp only
    | with_reducible apply hP.upd)

theorem execAckLevelDeadline_kept {m : Prop} {P : State → Prop} (hP : Kept m P) : ∀ x1 s, P s → ∀ t, execAckLevelDeadline x1 s = .next t → P t := by
  intros
  rename_i e
  unfold execAckLevelDeadline at e
  cases e
  repeat' (first
    | with_reducible assumption
    | intro _
    | with_reducible apply State.ackLevel_kept hP
    | with_reducible apply ite_kept (P := P)
    | with_reducible apply foldl_kept (P := P)
    | with_reducible apply foldl_fst_kept (P := P)
    | with_reducible apply foldl_snd_kept (P := P)
    | split
    | dsimp only
    | with_reducible apply hP.upd)

theorem State.commitUnanswered_kept {m : Prop} {P : State → Prop} (hP : Kept m P) : ∀ s x2, P s → P (State.commitUnanswered s x2) := by
  intros
  unfold State.commitUnanswered
  repeat' (first
    | with_reducible assumption
    | intro _
    | with_reducible apply State.setLead_kept hP
    | with_reducible apply State.reply_kept hP
    | with_reducible apply ite_kept (P := P)
    | with_reducible apply foldl_kept (P := P)
    | with_reducible apply foldl_fst_kept (P := P)
    | with_reducible apply foldl_snd_kept (P := P)
    | split
    | dsimp only
    | with_reducible apply hP.upd)

theorem State.jobCommitAck_kept {m : Prop} {P : State → Prop} (hP : Kept m P) : ∀ s x2 x3, P s → P (State.jobCommitAck s x2 x3) := by
  intros
  unfold State.jobCommitAck
  repeat' (first
    | with_reducible assumption
    | intro _
    | with_reducible apply State.setLead_kept hP
    | with_reducible apply State.commitUnanswered_kept hP
    | with_reducible apply State.reply_kept hP
    | with_reducible apply ite_kept (P := P)
    | with_reducible apply foldl_kept (P := P)
    | with_reducible apply foldl_fst_kept (P := P)
    | with_reducible apply foldl_snd_kept (P := P)
    | split
    | dsimp only
    | with_reducible apply hP.upd)

theorem execJobCommitAck_kept {m : Prop} {P : State → Prop} (hP : Kept m P) : ∀ x1 x2 x3 x4 s, P s → ∀ t, execJobCommitAck x1 x2 x3 x4 s = .next t → P t := by
  intros
  rename_i e
  unfold execJobCommitAck at e
  cases e
  repeat' (first
    | with_reducible assumption
    | intro _
    | with_reducible apply State.ctrlOnce_kept hP
    | with_reducible apply State.jobCommitAck_kept hP
    | with_reducible apply ite_kept (P := P)
    | with_reducible apply foldl_kept (P := P)
    | with_reducible apply foldl_fst_kept (P := P)
    | with_reducible apply foldl_snd_kept (P := P)
    | split
    | dsimp only
    | with_reducible apply hP.upd)

theorem State.setMember_kept {m : Prop} {P : State → Prop} (hP : Kept m P) : ∀ s x2, P s → P (State.setMember s x2) := by
  intros
  unfold State.setMember
  repeat' (first
    | with_reducible assumption
    | intro _
    | with_reducible apply ite_kept (P := P)
    | with_reducible apply foldl_kept (P := P)
    | with_reducible apply foldl_fst_kept (P := P)
    | with_reducible apply foldl_snd_kept (P := P)
    | split
    | dsimp only
    | with_reducible apply hP.upd)

theorem State.ownMember_kept {m : Prop} {P : State → Prop} (hP : Kept m P) : ∀ s x2, P s → P (State.ownMember s x2).2 := by
  intros
  unfold State.ownMember
  repeat' (first
    | with_reducible assumption
    | intro _
    | with_reducible apply State.free_kept hP
    | with_reducible apply ite_kept (P := P)
    | with_reducible apply foldl_kept (P := P)
    | with_reducible apply foldl_fst_kept (P := P)
    | with_reducible apply foldl_snd_kept (P := P)
    | split
    | dsimp only
    | with_reducible apply hP.upd)

theorem State.sendJobAck_kept {m : Prop} {P : State → Prop} (hP : Kept m P) : ∀ s x2 x3 x4, P s → P (State.sendJobAck s x2 x3 x4) := by
  intros
  unfold State.sendJobAck
  repeat' (first
    | with_reducible assumption
    | intro _
    | with_reducible apply State.ownMember_kept hP
    | with_reducible apply State.tell_kept hP
    | with_reducible apply ite_kept (P := P)
    | with_reducible apply foldl_kept (P := P)
    | with_reducible apply foldl_fst_kept (P := P)
    | with_reducible apply foldl_snd_kept (P := P)
    | split
    | dsimp only
    | with_reducible apply hP.upd)

theorem State.forwardPart_kept {m : Prop} {P : State → Prop} (hP : Kept m P) : ∀ s x2 x3 x4, P s → P (State.forwardPart s x2 x3 x4) := by
  intros
  unfold State.forwardPart
  repeat' (first
    | with_reducible assumption
    | intro _
    | with_reducible apply State.ownMember_kept hP
    | with_reducible apply State.sendParts_kept hP
    | with_reducible apply State.sendPart_kept hP
    | with_reducible apply ite_kept (P := P)
    | with_reducible apply foldl_kept (P := P)
    | with_reducible apply foldl_fst_kept (P := P)
    | with_reducible apply foldl_snd_kept (P := P)
    | split
    | dsimp only
    | with_reducible apply hP.upd)

theorem State.jobDeliver_kept {P : State → Prop} (hP : Kept True P) : ∀ s x2, P s → P (State.jobDeliver s x2) := by
  intros
  unfold State.jobDeliver
  repeat' (first
    | with_reducible assumption
    | intro _
    | with_reducible apply State.sendJobAck_kept hP
    | with_reducible apply State.forwardPart_kept hP
    | with_reducible apply State.setMember_kept hP
    | with_reducible apply State.wrPart_kept hP
    | with_reducible apply ite_kept (P := P)
    | with_reducible apply foldl_kept (P := P)
    | with_reducible apply foldl_fst_kept (P := P)
    | with_reducible apply foldl_snd_kept (P := P)
    | split
    | dsimp only
    | with_reducible apply hP.upd)

theorem State.passHop_kept {P : State → Prop} (hP : Kept True P) : ∀ n s peer, P s → P (State.passHop n s peer) := by
  intro n s peer h
  induction n generalizing s with
  | zero => exact h
  | succ n ih =>
    unfold State.passHop
    dsimp only
    split
    · exact ih _ (State.jobDeliver_kept hP _ _ (State.setHop_kept hP _ _ h))
    · exact h

theorem State.hopReceive_kept {P : State → Prop} (hP : Kept True P) : ∀ s x2 x3 x4, P s → P (State.hopReceive s x2 x3 x4) := by
  intros
  unfold State.hopReceive
  repeat' (first
    | with_reducible assumption
    | intro _
    | with_reducible apply State.inc_kept hP
    | with_reducible apply State.setHop_kept hP
    | with_reducible apply State.passHop_kept hP
    | with_reducible apply State.sendFab_kept hP
    | with_reducible apply ite_kept (P := P)
    | with_reducible apply foldl_kept (P := P)
    | with_reducible apply foldl_fst_kept (P := P)
    | with_reducible apply foldl_snd_kept (P := P)
    | split
    | dsimp only
    | with_reducible apply hP.upd)

theorem execJobDeliver_kept {P : State → Prop} (hP : Kept True P) : ∀ x1 x2 x3 s, P s → ∀ t, execJobDeliver x1 x2 x3 s = .next t → P t := by
  intros
  rename_i e
  unfold execJobDeliver at e
  cases e
  repeat' (first
    | with_reducible assumption
    | intro _
    | with_reducible apply State.arriveFor_kept hP
    | with_reducible apply State.jobDeliver_kept hP
    | with_reducible apply State.hopReceive_kept hP
    | with_reducible apply ite_kept (P := P)
    | with_reducible apply foldl_kept (P := P)
    | with_reducible apply foldl_fst_kept (P := P)
    | with_reducible apply foldl_snd_kept (P := P)
    | split
    | dsimp only
    | with_reducible apply hP.upd)

theorem State.jobCommit_kept {m : Prop} {P : State → Prop} (hP : Kept m P) : ∀ s x2 x3 x4, P s → P (State.jobCommit s x2 x3 x4) := by
  intros
  unfold State.jobCommit
  repeat' (first
    | with_reducible assumption
    | intro _
    | with_reducible apply State.setMember_kept hP
    | with_reducible apply State.ownMember_kept hP
    | with_reducible apply State.modCtx_kept hP
    | with_reducible apply State.tell_kept hP
    | with_reducible apply ite_kept (P := P)
    | with_reducible apply foldl_kept (P := P)
    | with_reducible apply foldl_fst_kept (P := P)
    | with_reducible apply foldl_snd_kept (P := P)
    | split
    | dsimp only
    | with_reducible apply hP.upd)

theorem execJobCommit_kept {m : Prop} {P : State → Prop} (hP : Kept m P) : ∀ x1 x2 x3 x4 s, P s → ∀ t, execJobCommit x1 x2 x3 x4 s = .next t → P t := by
  intros
  rename_i e
  unfold execJobCommit at e
  cases e
  repeat' (first
    | with_reducible assumption
    | intro _
    | with_reducible apply State.ctrlOnce_kept hP
    | with_reducible apply State.jobCommit_kept hP
    | with_reducible apply ite_kept (P := P)
    | with_reducible apply foldl_kept (P := P)
    | with_reducible apply foldl_fst_kept (P := P)
    | with_reducible apply foldl_snd_kept (P := P)
    | split
    | dsimp only
    | with_reducible apply hP.upd)

theorem State.commitTimeout_kept {m : Prop} {P : State → Prop} (hP : Kept m P) : ∀ s x2, P s → P (State.commitTimeout s x2) := by
  intros
  unfold State.commitTimeout
  repeat' (first
    | with_reducible assumption
    | intro _
    | with_reducible apply State.setMember_kept hP
    | with_reducible apply State.fault_kept hP
    | with_reducible apply ite_kept (P := P)
    | with_reducible apply foldl_kept (P := P)
    | with_reducible apply foldl_fst_kept (P := P)
    | with_reducible apply foldl_snd_kept (P := P)
    | split
    | dsimp only
    | with_reducible apply hP.upd)

theorem execCommitTimeout_kept {m : Prop} {P : State → Prop} (hP : Kept m P) : ∀ x1 s, P s → ∀ t, execCommitTimeout x1 s = .next t → P t := by
  intros
  rename_i e
  unfold execCommitTimeout at e
  cases e
  repeat' (first
    | with_reducible assumption
    | intro _
    | with_reducible apply State.commitTimeout_kept hP
    | with_reducible apply ite_kept (P := P)
    | with_reducible apply foldl_kept (P := P)
    | with_reducible apply foldl_fst_kept (P := P)
    | with_reducible apply foldl_snd_kept (P := P)
    | split
    | dsimp only
    | with_reducible apply hP.upd)

theorem fwJobStartStatus_kept {m : Prop} {P : State → Prop} (hP : Kept m P) : ∀ x1 x2, Fw.Keeps P (fwJobStartStatus x1 x2) := by
  intros
  unfold fwJobStartStatus
  repeat' (first
    | with_reducible assumption
    | intro _
    | with_reducible apply State.reply_kept hP
    | with_reducible apply ite_kept (P := P)
    | with_reducible apply foldl_kept (P := P)
    | with_reducible apply foldl_fst_kept (P := P)
    | with_reducible apply foldl_snd_kept (P := P)
    | split
    | dsimp only
    | with_reducible apply Fw.Keeps.mk
    | with_reducible apply hP.upd)

theorem execJobStartStatus_kept {m : Prop} {P : State → Prop} (hP : Kept m P) : ∀ x1 x2 s, P s → ∀ t, execJobStartStatus x1 x2 s = .next t → P t := by
  intros
  rename_i e
  unfold execJobStartStatus at e
  cases e
  repeat' (first
    | with_reducible assumption
    | intro _
    | with_reducible apply State.fwCommand_kept hP
    | with_reducible apply fwJobStartStatus_kept hP
    | with_reducible apply ite_kept (P := P)
    | with_reducible apply foldl_kept (P := P)
    | with_reducible apply foldl_fst_kept (P := P)
    | with_reducible apply foldl_snd_kept (P := P)
    | split
    | dsimp only
    | with_reducible apply hP.upd)

theorem State.controlAct_kept {m : Prop} {P : State → Prop} (hP : Kept m P) : ∀ s x2 x3 x4, P s → P (State.controlAct s x2 x3 x4) := by
  intros
  unfold State.controlAct
  repeat' (first
    | with_reducible assumption
    | intro _
    | with_reducible apply State.voidRequest_kept hP
    | with_reducible apply State.verdictMsg_kept hP
    | with_reducible apply State.verdictQuery_kept hP
    | with_reducible apply ite_kept (P := P)
    | with_reducible apply foldl_kept (P := P)
    | with_reducible apply foldl_fst_kept (P := P)
    | with_reducible apply foldl_snd_kept (P := P)
    | split
    | dsimp only
    | with_reducible apply hP.upd)

theorem State.controlMessage_kept {m : Prop} {P : State → Prop} (hP : Kept m P) : ∀ s x2 x3 x4 x5, P s → P (State.controlMessage s x2 x3 x4 x5) := by
  intros
  unfold State.controlMessage
  repeat' (first
    | with_reducible assumption
    | intro _
    | with_reducible apply State.arriveFor_kept hP
    | with_reducible apply State.inc_kept hP
    | with_reducible apply State.ctrlOnce_kept hP
    | with_reducible apply State.controlAct_kept hP
    | with_reducible apply ite_kept (P := P)
    | with_reducible apply foldl_kept (P := P)
    | with_reducible apply foldl_fst_kept (P := P)
    | with_reducible apply foldl_snd_kept (P := P)
    | split
    | dsimp only
    | with_reducible apply hP.upd)

theorem execControlMessageReceived_kept {m : Prop} {P : State → Prop} (hP : Kept m P) : ∀ x1 x2 x3 x4 s, P s → ∀ t, execControlMessageReceived x1 x2 x3 x4 s = .next t → P t := by
  intros
  rename_i e
  unfold execControlMessageReceived at e
  cases e
  repeat' (first
    | with_reducible assumption
    | intro _
    | with_reducible apply State.controlMessage_kept hP
    | with_reducible apply ite_kept (P := P)
    | with_reducible apply foldl_kept (P := P)
    | with_reducible apply foldl_fst_kept (P := P)
    | with_reducible apply foldl_snd_kept (P := P)
    | split
    | dsimp only
    | with_reducible apply hP.upd)

theorem State.ctrlRetry_kept {m : Prop} {P : State → Prop} (hP : Kept m P) : ∀ s x2, P s → P (State.ctrlRetry s x2) := by
  intros
  unfold State.ctrlRetry
  repeat' (first
    | with_reducible assumption
    | intro _
    | with_reducible apply State.sendFab_kept hP
    | with_reducible apply State.commitUnanswered_kept hP
    | with_reducible apply ite_kept (P := P)
    | with_reducible apply foldl_kept (P := P)
    | with_reducible apply foldl_fst_kept (P := P)
    | with_reducible apply foldl_snd_kept (P := P)
    | split
    | dsimp only
    | with_reducible apply hP.upd)

theorem execCtrlRetryExpiry_kept {m : Prop} {P : State → Prop} (hP : Kept m P) : ∀ x1 s, P s → ∀ t, execCtrlRetryExpiry x1 s = .next t → P t := by
  intros
  rename_i e
  unfold execCtrlRetryExpiry at e
  cases e
  repeat' (first
    | with_reducible assumption
    | intro _
    | with_reducible apply State.ctrlRetry_kept hP
    | with_reducible apply ite_kept (P := P)
    | with_reducible apply foldl_kept (P := P)
    | with_reducible apply foldl_fst_kept (P := P)
    | with_reducible apply foldl_snd_kept (P := P)
    | split
    | dsimp only
    | with_reducible apply hP.upd)

/-! ### Results -/

theorem doResultRead_kept {m : Prop} {P : State → Prop} (hP : Kept m P) : ∀ x1 x2 x3 x4 x5 s, P s → P (doResultRead x1 x2 x3 x4 x5 s) := by
  intros
  unfold doResultRead
  repeat' (first
    | with_reducible assumption
    | intro _
    | with_reducible apply State.count_kept hP
    | with_reducible apply State.reply_kept hP
    | with_reducible apply State.readLines_kept hP
    | with_reducible apply State.setRing_kept hP
    | with_reducible apply State.seal_kept hP
    | with_reducible apply ite_kept (P := P)
    | with_reducible apply foldl_kept (P := P)
    | with_reducible apply foldl_fst_kept (P := P)
    | with_reducible apply foldl_snd_kept (P := P)
    | split
    | dsimp only
    | with_reducible apply hP.upd)

theorem execResultRead_kept {m : Prop} {P : State → Prop} (hP : Kept m P) : ∀ x1 x2 x3 x4 x5 s, P s → ∀ t, execResultRead x1 x2 x3 x4 x5 s = .next t → P t := by
  intros
  rename_i e
  unfold execResultRead at e
  cases e
  repeat' (first
    | with_reducible assumption
    | intro _
    | with_reducible apply State.command_kept hP
    | with_reducible apply State.count_kept hP
    | with_reducible apply doResultRead_kept hP
    | with_reducible apply ite_kept (P := P)
    | with_reducible apply foldl_kept (P := P)
    | with_reducible apply foldl_fst_kept (P := P)
    | with_reducible apply foldl_snd_kept (P := P)
    | split
    | dsimp only
    | with_reducible apply hP.upd)

theorem execResultRelease_kept {m : Prop} {P : State → Prop} (hP : Kept m P) : ∀ x1 x2 x3 x4 s, P s → ∀ t, execResultRelease x1 x2 x3 x4 s = .next t → P t := by
  intros
  rename_i e
  unfold execResultRelease at e
  cases e
  repeat' (first
    | with_reducible assumption
    | intro _
    | with_reducible apply State.command_kept hP
    | with_reducible apply State.setRing_kept hP
    | with_reducible apply State.reply_kept hP
    | with_reducible apply ite_kept (P := P)
    | with_reducible apply foldl_kept (P := P)
    | with_reducible apply foldl_fst_kept (P := P)
    | with_reducible apply foldl_snd_kept (P := P)
    | split
    | dsimp only
    | with_reducible apply hP.upd)

theorem execRetentionSet_kept {m : Prop} {P : State → Prop} (hP : Kept m P) : ∀ x1 x2 s, P s → ∀ t, execRetentionSet x1 x2 s = .next t → P t := by
  intros
  rename_i e
  unfold execRetentionSet at e
  cases e
  repeat' (first
    | with_reducible assumption
    | intro _
    | with_reducible apply State.command_kept hP
    | with_reducible apply State.wr_kept hP
    | with_reducible apply State.reply_kept hP
    | with_reducible apply ite_kept (P := P)
    | with_reducible apply foldl_kept (P := P)
    | with_reducible apply foldl_fst_kept (P := P)
    | with_reducible apply foldl_snd_kept (P := P)
    | split
    | dsimp only
    | with_reducible apply hP.upd)

theorem State.expireRecord_kept {m : Prop} {P : State → Prop} (hP : Kept m P) : ∀ s x2 x3, P s → P (State.expireRecord s x2 x3) := by
  intros
  unfold State.expireRecord
  repeat' (first
    | with_reducible assumption
    | intro _
    | with_reducible apply State.inc_kept hP
    | with_reducible apply State.notice_kept hP
    | with_reducible apply ite_kept (P := P)
    | with_reducible apply foldl_kept (P := P)
    | with_reducible apply foldl_fst_kept (P := P)
    | with_reducible apply foldl_snd_kept (P := P)
    | split
    | dsimp only
    | with_reducible apply hP.upd)

theorem State.retentionExpiry_kept {m : Prop} {P : State → Prop} (hP : Kept m P) : ∀ s x2 x3 x4, P s → P (State.retentionExpiry s x2 x3 x4) := by
  intros
  unfold State.retentionExpiry
  repeat' (first
    | with_reducible assumption
    | intro _
    | with_reducible apply State.keep_kept hP
    | with_reducible apply State.release_kept hP
    | with_reducible apply State.expireRecord_kept hP
    | with_reducible apply State.setRing_kept hP
    | with_reducible apply ite_kept (P := P)
    | with_reducible apply foldl_kept (P := P)
    | with_reducible apply foldl_fst_kept (P := P)
    | with_reducible apply foldl_snd_kept (P := P)
    | split
    | dsimp only
    | with_reducible apply hP.upd)

theorem execResultRetentionExpiry_kept {m : Prop} {P : State → Prop} (hP : Kept m P) : ∀ x1 x2 x3 s, P s → ∀ t, execResultRetentionExpiry x1 x2 x3 s = .next t → P t := by
  intros
  rename_i e
  unfold execResultRetentionExpiry at e
  cases e
  repeat' (first
    | with_reducible assumption
    | intro _
    | with_reducible apply State.retentionExpiry_kept hP
    | with_reducible apply ite_kept (P := P)
    | with_reducible apply foldl_kept (P := P)
    | with_reducible apply foldl_fst_kept (P := P)
    | with_reducible apply foldl_snd_kept (P := P)
    | split
    | dsimp only
    | with_reducible apply hP.upd)

theorem fwTraceEnable_kept {m : Prop} {P : State → Prop} (hP : Kept m P) : ∀ x1 x2 x3, Fw.Keeps P (fwTraceEnable x1 x2 x3) := by
  intros
  unfold fwTraceEnable
  repeat' (first
    | with_reducible assumption
    | intro _
    | with_reducible apply State.setRing_kept hP
    | with_reducible apply State.reply_kept hP
    | with_reducible apply secCount_kept hP
    | with_reducible apply ite_kept (P := P)
    | with_reducible apply foldl_kept (P := P)
    | with_reducible apply foldl_fst_kept (P := P)
    | with_reducible apply foldl_snd_kept (P := P)
    | split
    | dsimp only
    | with_reducible apply Fw.Keeps.mk
    | with_reducible apply hP.upd)

theorem execTraceEnable_kept {m : Prop} {P : State → Prop} (hP : Kept m P) : ∀ x1 x2 x3 s, P s → ∀ t, execTraceEnable x1 x2 x3 s = .next t → P t := by
  intros
  rename_i e
  unfold execTraceEnable at e
  cases e
  repeat' (first
    | with_reducible assumption
    | intro _
    | with_reducible apply State.fwCommand_kept hP
    | with_reducible apply fwTraceEnable_kept hP
    | with_reducible apply ite_kept (P := P)
    | with_reducible apply foldl_kept (P := P)
    | with_reducible apply foldl_fst_kept (P := P)
    | with_reducible apply foldl_snd_kept (P := P)
    | split
    | dsimp only
    | with_reducible apply hP.upd)

theorem State.stopTrace_kept {m : Prop} {P : State → Prop} (hP : Kept m P) : ∀ s x2, P s → P (State.stopTrace s x2) := by
  intros
  unfold State.stopTrace
  repeat' (first
    | with_reducible assumption
    | intro _
    | with_reducible apply State.setRing_kept hP
    | with_reducible apply ite_kept (P := P)
    | with_reducible apply foldl_kept (P := P)
    | with_reducible apply foldl_fst_kept (P := P)
    | with_reducible apply foldl_snd_kept (P := P)
    | split
    | dsimp only
    | with_reducible apply hP.upd)

theorem execTraceDisable_kept {m : Prop} {P : State → Prop} (hP : Kept m P) : ∀ x1 s, P s → ∀ t, execTraceDisable x1 s = .next t → P t := by
  intros
  rename_i e
  unfold execTraceDisable at e
  cases e
  repeat' (first
    | with_reducible assumption
    | intro _
    | with_reducible apply State.command_kept hP
    | with_reducible apply State.stopTrace_kept hP
    | with_reducible apply State.reply_kept hP
    | with_reducible apply ite_kept (P := P)
    | with_reducible apply foldl_kept (P := P)
    | with_reducible apply foldl_fst_kept (P := P)
    | with_reducible apply foldl_snd_kept (P := P)
    | split
    | dsimp only
    | with_reducible apply hP.upd)

/-! ### Live -/

theorem State.elapse_kept {m : Prop} {P : State → Prop} (hP : Kept m P) : ∀ s x2 x3, P s → P (State.elapse s x2 x3) := by
  intros
  unfold State.elapse
  repeat' (first
    | with_reducible assumption
    | intro _
    | with_reducible apply State.free_kept hP
    | with_reducible apply State.count_kept hP
    | with_reducible apply State.inc_kept hP
    | with_reducible apply ite_kept (P := P)
    | with_reducible apply foldl_kept (P := P)
    | with_reducible apply foldl_fst_kept (P := P)
    | with_reducible apply foldl_snd_kept (P := P)
    | split
    | dsimp only
    | with_reducible apply hP.upd)

theorem State.show__kept {m : Prop} {P : State → Prop} (hP : Kept m P) : ∀ s x2 x3 x4, P s → P (State.show_ s x2 x3 x4) := by
  intros
  unfold State.show_
  repeat' (first
    | with_reducible assumption
    | intro _
    | with_reducible apply State.free_kept hP
    | with_reducible apply State.wr_kept hP
    | with_reducible apply ite_kept (P := P)
    | with_reducible apply foldl_kept (P := P)
    | with_reducible apply foldl_fst_kept (P := P)
    | with_reducible apply foldl_snd_kept (P := P)
    | split
    | dsimp only
    | with_reducible apply hP.upd)

theorem State.seeRunState_kept {m : Prop} {P : State → Prop} (hP : Kept m P) : ∀ s x2, P s → P (State.seeRunState s x2) := by
  intros
  unfold State.seeRunState
  repeat' (first
    | with_reducible assumption
    | intro _
    | with_reducible apply State.free_kept hP
    | with_reducible apply State.wr_kept hP
    | with_reducible apply ite_kept (P := P)
    | with_reducible apply foldl_kept (P := P)
    | with_reducible apply foldl_fst_kept (P := P)
    | with_reducible apply foldl_snd_kept (P := P)
    | split
    | dsimp only
    | with_reducible apply hP.upd)

theorem State.arrayWent_kept {P : State → Prop} (hP : Kept True P) : ∀ s x2, P s → P (State.arrayWent s x2) := by
  intros
  unfold State.arrayWent
  repeat' (first
    | with_reducible assumption
    | intro _
    | with_reducible apply State.arrayMoves_kept hP
    | with_reducible apply ite_kept (P := P)
    | with_reducible apply foldl_kept (P := P)
    | with_reducible apply foldl_fst_kept (P := P)
    | with_reducible apply foldl_snd_kept (P := P)
    | split
    | dsimp only
    | with_reducible apply hP.upd)

theorem State.queueLevel_kept {m : Prop} {P : State → Prop} (hP : Kept m P) : ∀ s x2 x3 x4 x5, P s → P (State.queueLevel s x2 x3 x4 x5).2 := by
  intros
  unfold State.queueLevel
  repeat' (first
    | with_reducible assumption
    | intro _
    | with_reducible apply State.free_kept hP
    | with_reducible apply ite_kept (P := P)
    | with_reducible apply foldl_kept (P := P)
    | with_reducible apply foldl_fst_kept (P := P)
    | with_reducible apply foldl_snd_kept (P := P)
    | split
    | dsimp only
    | with_reducible apply hP.upd)

theorem State.seeArray_kept {P : State → Prop} (hP : Kept True P) : ∀ s x2, P s → P (State.seeArray s x2) := by
  intros
  unfold State.seeArray
  repeat' (first
    | with_reducible assumption
    | intro _
    | with_reducible apply State.arrayWent_kept hP
    | with_reducible apply State.show__kept hP
    | with_reducible apply State.free_kept hP
    | with_reducible apply State.wr_kept hP
    | with_reducible apply State.inc_kept hP
    | with_reducible apply ite_kept (P := P)
    | with_reducible apply foldl_kept (P := P)
    | with_reducible apply foldl_fst_kept (P := P)
    | with_reducible apply foldl_snd_kept (P := P)
    | split
    | dsimp only
    | with_reducible apply hP.upd)

theorem State.seeQueue_kept {P : State → Prop} (hP : Kept True P) : ∀ s x2, P s → P (State.seeQueue s x2) := by
  intros
  unfold State.seeQueue
  repeat' (first
    | with_reducible assumption
    | intro _
    | with_reducible apply State.arrayWent_kept hP
    | with_reducible apply State.wr_kept hP
    | with_reducible apply State.queueLevel_kept hP
    | with_reducible apply State.show__kept hP
    | with_reducible apply ite_kept (P := P)
    | with_reducible apply foldl_kept (P := P)
    | with_reducible apply foldl_fst_kept (P := P)
    | with_reducible apply foldl_snd_kept (P := P)
    | split
    | dsimp only
    | with_reducible apply hP.upd)

theorem State.seeMule_kept {m : Prop} {P : State → Prop} (hP : Kept m P) : ∀ s x2, P s → P (State.seeMule s x2) := by
  intros
  unfold State.seeMule
  repeat' (first
    | with_reducible assumption
    | intro _
    | with_reducible apply State.wr_kept hP
    | with_reducible apply State.free_kept hP
    | with_reducible apply State.show__kept hP
    | with_reducible apply ite_kept (P := P)
    | with_reducible apply foldl_kept (P := P)
    | with_reducible apply foldl_fst_kept (P := P)
    | with_reducible apply foldl_snd_kept (P := P)
    | split
    | dsimp only
    | with_reducible apply hP.upd)

theorem State.observe_kept {P : State → Prop} (hP : Kept True P) : ∀ s x2, P s → P (State.observe s x2) := by
  intros
  unfold State.observe
  repeat' (first
    | with_reducible assumption
    | intro _
    | with_reducible apply State.elapse_kept hP
    | with_reducible apply State.seeRunState_kept hP
    | with_reducible apply State.seeArray_kept hP
    | with_reducible apply State.seeQueue_kept hP
    | with_reducible apply State.seeMule_kept hP
    | with_reducible apply ite_kept (P := P)
    | with_reducible apply foldl_kept (P := P)
    | with_reducible apply foldl_fst_kept (P := P)
    | with_reducible apply foldl_snd_kept (P := P)
    | split
    | dsimp only
    | with_reducible apply hP.upd)

theorem State.elapseTile_kept {m : Prop} {P : State → Prop} (hP : Kept m P) : ∀ s x2, P s → P (State.elapseTile s x2) := by
  intros
  unfold State.elapseTile
  repeat' (first
    | with_reducible assumption
    | intro _
    | with_reducible apply State.elapse_kept hP
    | with_reducible apply ite_kept (P := P)
    | with_reducible apply foldl_kept (P := P)
    | with_reducible apply foldl_fst_kept (P := P)
    | with_reducible apply foldl_snd_kept (P := P)
    | split
    | dsimp only
    | with_reducible apply hP.upd)

end Sys2Proof.Machine
end

