-- ==== Sys2Proof/Laws/KeptModule.lean ====
section
/-! SUPPORT. What every operation keeps, by unit: context saves, partitions, security, calibration, time, power, crossings, bring-up, the configuration space and the tick boundary. -/

set_option Elab.async false
set_option linter.unusedTactic false
set_option linter.unreachableTactic false

namespace Sys2Proof.Machine

/-! ### Save -/

theorem State.progress_kept {m : Prop} {P : State → Prop} (hP : Kept m P) : ∀ s x2 x3, P s → P (State.progress s x2 x3).2 := by
  intros
  unfold State.progress
  repeat' (first
    | with_reducible assumption
    | intro _
    | with_reducible apply State.free_kept hP
    | with_reducible apply ite_kept (P := P)
    | with_reducible apply foldl_kept (P := P)
    | with_reducible apply foldl_fst_kept (P := P)
    | with_reducible apply foldl_snd_kept (P := P)
    | split
    | dsimp only
    | with_reducible apply hP.upd)

theorem State.saveCells_kept {P : State → Prop} (hP : Kept True P) : ∀ s x2 x3, P s → P (State.saveCells s x2 x3) := by
  intros
  unfold State.saveCells
  repeat' (first
    | with_reducible assumption
    | intro _
    | with_reducible apply State.wrBytes_kept hP
    | with_reducible apply State.modEng_kept hP
    | with_reducible apply ite_kept (P := P)
    | with_reducible apply foldl_kept (P := P)
    | with_reducible apply foldl_fst_kept (P := P)
    | with_reducible apply foldl_snd_kept (P := P)
    | split
    | dsimp only
    | with_reducible apply hP.upd)

theorem State.loadSets_kept {m : Prop} {P : State → Prop} (hP : Kept m P) : ∀ s x2 x3, P s → P (State.loadSets s x2 x3) := by
  intros
  unfold State.loadSets
  repeat' (first
    | with_reducible assumption
    | intro _
    | with_reducible apply State.openEcc_kept hP
    | with_reducible apply State.sramEccOf_kept hP
    | with_reducible apply State.modEng_kept hP
    | with_reducible apply ite_kept (P := P)
    | with_reducible apply foldl_kept (P := P)
    | with_reducible apply foldl_fst_kept (P := P)
    | with_reducible apply foldl_snd_kept (P := P)
    | split
    | dsimp only
    | with_reducible apply hP.upd)

theorem State.loadCells_kept {m : Prop} {P : State → Prop} (hP : Kept m P) : ∀ s x2 x3, P s → P (State.loadCells s x2 x3) := by
  intros
  unfold State.loadCells
  repeat' (first
    | with_reducible assumption
    | intro _
    | with_reducible apply State.loadSets_kept hP
    | with_reducible apply State.checkedRead_kept hP
    | with_reducible apply State.modEng_kept hP
    | with_reducible apply State.refill_kept hP
    | with_reducible apply ite_kept (P := P)
    | with_reducible apply foldl_kept (P := P)
    | with_reducible apply foldl_fst_kept (P := P)
    | with_reducible apply foldl_snd_kept (P := P)
    | split
    | dsimp only
    | with_reducible apply hP.upd)

theorem State.saveArray_kept {P : State → Prop} (hP : Kept True P) : ∀ s x2 x3, P s → P (State.saveArray s x2 x3) := by
  intros
  unfold State.saveArray
  repeat' (first
    | with_reducible assumption
    | intro _
    | with_reducible apply State.arrayMoves_kept hP
    | with_reducible apply State.saveCells_kept hP
    | with_reducible apply State.dropQueues_kept hP
    | with_reducible apply ite_kept (P := P)
    | with_reducible apply foldl_kept (P := P)
    | with_reducible apply foldl_fst_kept (P := P)
    | with_reducible apply foldl_snd_kept (P := P)
    | split
    | dsimp only
    | with_reducible apply hP.upd)

theorem State.saveRow_kept {P : State → Prop} (hP : Kept True P) : ∀ s x2 x3, P s → P (State.saveRow s x2 x3) := by
  intros
  unfold State.saveRow
  repeat' (first
    | with_reducible assumption
    | intro _
    | with_reducible apply State.tileFault_kept hP
    | with_reducible apply State.checkedRead_kept hP
    | with_reducible apply State.progress_kept hP
    | with_reducible apply State.rowsTo_kept hP
    | with_reducible apply ite_kept (P := P)
    | with_reducible apply foldl_kept (P := P)
    | with_reducible apply foldl_fst_kept (P := P)
    | with_reducible apply foldl_snd_kept (P := P)
    | split
    | dsimp only
    | with_reducible apply hP.upd)

theorem State.savePrune_kept {P : State → Prop} (hP : Kept True P) : ∀ s x2 x3 x4, P s → P (State.savePrune s x2 x3 x4) := by
  intros
  unfold State.savePrune
  repeat' (first
    | with_reducible assumption
    | intro _
    | with_reducible apply State.tileFault_kept hP
    | with_reducible apply State.checkedRead_kept hP
    | with_reducible apply State.progress_kept hP
    | with_reducible apply State.pruneTo_kept hP
    | with_reducible apply ite_kept (P := P)
    | with_reducible apply foldl_kept (P := P)
    | with_reducible apply foldl_fst_kept (P := P)
    | with_reducible apply foldl_snd_kept (P := P)
    | split
    | dsimp only
    | with_reducible apply hP.upd)

theorem State.saveWiden_kept {P : State → Prop} (hP : Kept True P) : ∀ s x2 x3 x4, P s → P (State.saveWiden s x2 x3 x4) := by
  intros
  unfold State.saveWiden
  repeat' (first
    | with_reducible assumption
    | intro _
    | with_reducible apply State.openEcc_kept hP
    | with_reducible apply State.wideningAdd_kept hP
    | with_reducible apply State.roundLedger_kept hP
    | with_reducible apply ite_kept (P := P)
    | with_reducible apply foldl_kept (P := P)
    | with_reducible apply foldl_fst_kept (P := P)
    | with_reducible apply foldl_snd_kept (P := P)
    | split
    | dsimp only
    | with_reducible apply hP.upd)

theorem State.saving_kept {m : Prop} {P : State → Prop} (hP : Kept m P) : ∀ s c (f : State → State), P s → (∀ b, P b → P (f b)) → P (State.saving s c f) := by
  intro s c f hs hf
  unfold State.saving
  exact ite_kept (P := P) (hf _ hs) hs

theorem State.saveMule_kept {P : State → Prop} (hP : Kept True P) : ∀ s x2 x3, P s → P (State.saveMule s x2 x3) := by
  intros
  unfold State.saveMule
  repeat' (first
    | with_reducible assumption
    | intro _
    | with_reducible apply State.mulePanel_kept hP
    | with_reducible apply State.modEng_kept hP
    | with_reducible apply ite_kept (P := P)
    | with_reducible apply foldl_kept (P := P)
    | with_reducible apply foldl_fst_kept (P := P)
    | with_reducible apply foldl_snd_kept (P := P)
    | split
    | dsimp only
    | with_reducible apply hP.upd)

theorem State.saveUnits_kept {P : State → Prop} (hP : Kept True P) : ∀ s x2 x3, P s → P (State.saveUnits s x2 x3) := by
  intros
  unfold State.saveUnits
  repeat' (first
    | with_reducible assumption
    | intro _
    | with_reducible apply State.saving_kept hP
    | with_reducible apply State.saveArray_kept hP
    | with_reducible apply State.saveRow_kept hP
    | with_reducible apply State.savePrune_kept hP
    | with_reducible apply State.saveWiden_kept hP
    | with_reducible apply State.saveMule_kept hP
    | with_reducible apply ite_kept (P := P)
    | with_reducible apply foldl_kept (P := P)
    | with_reducible apply foldl_fst_kept (P := P)
    | with_reducible apply foldl_snd_kept (P := P)
    | split
    | dsimp only
    | with_reducible apply hP.upd)

theorem State.loadUnits_kept {m : Prop} {P : State → Prop} (hP : Kept m P) : ∀ s x2, P s → P (State.loadUnits s x2) := by
  intros
  unfold State.loadUnits
  repeat' (first
    | with_reducible assumption
    | intro _
    | with_reducible apply State.loadCells_kept hP
    | with_reducible apply ite_kept (P := P)
    | with_reducible apply foldl_kept (P := P)
    | with_reducible apply foldl_fst_kept (P := P)
    | with_reducible apply foldl_snd_kept (P := P)
    | split
    | dsimp only
    | with_reducible apply hP.upd)

/-! ### Part -/

theorem doPartitionBuild_kept {m : Prop} {P : State → Prop} (hP : Kept m P) : ∀ x1 x2 x3 x4 x5 x6 x7 x8 x9 x10 s, P s → P (doPartitionBuild x1 x2 x3 x4 x5 x6 x7 x8 x9 x10 s) := by
  intros
  unfold doPartitionBuild
  repeat' (first
    | with_reducible assumption
    | intro _
    | with_reducible apply State.wr_kept hP
    | with_reducible apply State.stage_kept hP
    | with_reducible apply ite_kept (P := P)
    | with_reducible apply foldl_kept (P := P)
    | with_reducible apply foldl_fst_kept (P := P)
    | with_reducible apply foldl_snd_kept (P := P)
    | split
    | dsimp only
    | with_reducible apply hP.upd)

theorem fwPartitionBuild_kept {m : Prop} {P : State → Prop} (hP : Kept m P) : ∀ x1 x2 x3 x4 x5 x6 x7 x8 x9 x10, Fw.Keeps P (fwPartitionBuild x1 x2 x3 x4 x5 x6 x7 x8 x9 x10) := by
  intros
  unfold fwPartitionBuild
  repeat' (first
    | with_reducible assumption
    | intro _
    | with_reducible apply doPartitionBuild_kept hP
    | with_reducible apply ite_kept (P := P)
    | with_reducible apply foldl_kept (P := P)
    | with_reducible apply foldl_fst_kept (P := P)
    | with_reducible apply foldl_snd_kept (P := P)
    | split
    | dsimp only
    | with_reducible apply Fw.Keeps.mk
    | with_reducible apply hP.upd)

theorem execPartitionBuild_kept {m : Prop} {P : State → Prop} (hP : Kept m P) : ∀ x1 x2 x3 x4 x5 x6 x7 x8 x9 x10 s, P s → ∀ t, execPartitionBuild x1 x2 x3 x4 x5 x6 x7 x8 x9 x10 s = .next t → P t := by
  intros
  rename_i e
  unfold execPartitionBuild at e
  cases e
  repeat' (first
    | with_reducible assumption
    | intro _
    | with_reducible apply State.fwCommand_kept hP
    | with_reducible apply fwPartitionBuild_kept hP
    | with_reducible apply ite_kept (P := P)
    | with_reducible apply foldl_kept (P := P)
    | with_reducible apply foldl_fst_kept (P := P)
    | with_reducible apply foldl_snd_kept (P := P)
    | split
    | dsimp only
    | with_reducible apply hP.upd)

theorem State.applyBuild_kept {P : State → Prop} (hP : Kept True P) : ∀ s x2 x3 x4 x5 x6 x7 x8 x9 x10 x11, P s → P (State.applyBuild s x2 x3 x4 x5 x6 x7 x8 x9 x10 x11) := by
  intros
  unfold State.applyBuild
  repeat' (first
    | with_reducible assumption
    | intro _
    | with_reducible apply State.wr_kept hP
    | with_reducible apply State.count_kept hP
    | with_reducible apply State.reply_kept hP
    | with_reducible apply State.clearTiles_kept hP
    | with_reducible apply hP.setReg
    | with_reducible apply State.setPart_kept hP
    | with_reducible apply State.dec_kept hP
    | with_reducible apply ite_kept (P := P)
    | with_reducible apply foldl_kept (P := P)
    | with_reducible apply foldl_fst_kept (P := P)
    | with_reducible apply foldl_snd_kept (P := P)
    | split
    | dsimp only
    | with_reducible apply hP.upd)

theorem fwPartitionDissolve_kept {m : Prop} {P : State → Prop} (hP : Kept m P) : ∀ x1, Fw.Keeps P (fwPartitionDissolve x1) := by
  intros
  unfold fwPartitionDissolve
  repeat' (first
    | with_reducible assumption
    | intro _
    | with_reducible apply State.stage_kept hP
    | with_reducible apply ite_kept (P := P)
    | with_reducible apply foldl_kept (P := P)
    | with_reducible apply foldl_fst_kept (P := P)
    | with_reducible apply foldl_snd_kept (P := P)
    | split
    | dsimp only
    | with_reducible apply Fw.Keeps.mk
    | with_reducible apply hP.upd)

theorem execPartitionDissolve_kept {m : Prop} {P : State → Prop} (hP : Kept m P) : ∀ x1 s, P s → ∀ t, execPartitionDissolve x1 s = .next t → P t := by
  intros
  rename_i e
  unfold execPartitionDissolve at e
  cases e
  repeat' (first
    | with_reducible assumption
    | intro _
    | with_reducible apply State.fwCommand_kept hP
    | with_reducible apply fwPartitionDissolve_kept hP
    | with_reducible apply ite_kept (P := P)
    | with_reducible apply foldl_kept (P := P)
    | with_reducible apply foldl_fst_kept (P := P)
    | with_reducible apply foldl_snd_kept (P := P)
    | split
    | dsimp only
    | with_reducible apply hP.upd)

theorem State.applyDissolve_kept {P : State → Prop} (hP : Kept True P) : ∀ s x2, P s → P (State.applyDissolve s x2) := by
  intros
  unfold State.applyDissolve
  repeat' (first
    | with_reducible assumption
    | intro _
    | with_reducible apply State.reply_kept hP
    | with_reducible apply State.clearTiles_kept hP
    | with_reducible apply State.wr_kept hP
    | with_reducible apply hP.setReg
    | with_reducible apply State.setPart_kept hP
    | with_reducible apply ite_kept (P := P)
    | with_reducible apply foldl_kept (P := P)
    | with_reducible apply foldl_fst_kept (P := P)
    | with_reducible apply foldl_snd_kept (P := P)
    | split
    | dsimp only
    | with_reducible apply hP.upd)

theorem fwPartitionRelocate_kept {m : Prop} {P : State → Prop} (hP : Kept m P) : ∀ x1 x2 x3, Fw.Keeps P (fwPartitionRelocate x1 x2 x3) := by
  intros
  unfold fwPartitionRelocate
  repeat' (first
    | with_reducible assumption
    | intro _
    | with_reducible apply State.stage_kept hP
    | with_reducible apply ite_kept (P := P)
    | with_reducible apply foldl_kept (P := P)
    | with_reducible apply foldl_fst_kept (P := P)
    | with_reducible apply foldl_snd_kept (P := P)
    | split
    | dsimp only
    | with_reducible apply Fw.Keeps.mk
    | with_reducible apply hP.upd)

theorem execPartitionRelocate_kept {m : Prop} {P : State → Prop} (hP : Kept m P) : ∀ x1 x2 x3 s, P s → ∀ t, execPartitionRelocate x1 x2 x3 s = .next t → P t := by
  intros
  rename_i e
  unfold execPartitionRelocate at e
  cases e
  repeat' (first
    | with_reducible assumption
    | intro _
    | with_reducible apply State.fwCommand_kept hP
    | with_reducible apply fwPartitionRelocate_kept hP
    | with_reducible apply ite_kept (P := P)
    | with_reducible apply foldl_kept (P := P)
    | with_reducible apply foldl_fst_kept (P := P)
    | with_reducible apply foldl_snd_kept (P := P)
    | split
    | dsimp only
    | with_reducible apply hP.upd)

theorem State.switchOut_kept {P : State → Prop} (hP : Kept True P) : ∀ s x2, P s → P (State.switchOut s x2) := by
  intros
  unfold State.switchOut
  repeat' (first
    | with_reducible assumption
    | intro _
    | with_reducible apply State.settleStack_kept hP
    | with_reducible apply State.saveUnits_kept hP
    | with_reducible apply State.emptyNets_kept hP
    | with_reducible apply State.refillNets_kept hP
    | with_reducible apply State.saveRegs_kept hP
    | with_reducible apply State.wr_kept hP
    | with_reducible apply State.inc_kept hP
    | with_reducible apply State.modCtx_kept hP
    | with_reducible apply State.showDraining_kept hP
    | with_reducible apply ite_kept (P := P)
    | with_reducible apply foldl_kept (P := P)
    | with_reducible apply foldl_fst_kept (P := P)
    | with_reducible apply foldl_snd_kept (P := P)
    | split
    | dsimp only
    | with_reducible apply hP.upd)

theorem State.startRun_kept {m : Prop} {P : State → Prop} (hP : Kept m P) : ∀ s x2 x3, P s → P (State.startRun s x2 x3) := by
  intros
  unfold State.startRun
  repeat' (first
    | with_reducible assumption
    | intro _
    | with_reducible apply State.wr_kept hP
    | with_reducible apply State.inc_kept hP
    | with_reducible apply State.showDraining_kept hP
    | with_reducible apply State.restoreRegs_kept hP
    | with_reducible apply State.refillNets_kept hP
    | with_reducible apply State.loadUnits_kept hP
    | with_reducible apply ite_kept (P := P)
    | with_reducible apply foldl_kept (P := P)
    | with_reducible apply foldl_fst_kept (P := P)
    | with_reducible apply foldl_snd_kept (P := P)
    | split
    | dsimp only
    | with_reducible apply hP.upd)

theorem State.switchTo_kept {P : State → Prop} (hP : Kept True P) : ∀ s x2 x3, P s → P (State.switchTo s x2 x3) := by
  intros
  unfold State.switchTo
  repeat' (first
    | with_reducible assumption
    | intro _
    | with_reducible apply State.switchOut_kept hP
    | with_reducible apply State.modPart_kept hP
    | with_reducible apply State.wr_kept hP
    | with_reducible apply State.startRun_kept hP
    | with_reducible apply ite_kept (P := P)
    | with_reducible apply foldl_kept (P := P)
    | with_reducible apply foldl_fst_kept (P := P)
    | with_reducible apply foldl_snd_kept (P := P)
    | split
    | dsimp only
    | with_reducible apply hP.upd)

theorem State.waitFor_kept {m : Prop} {P : State → Prop} (hP : Kept m P) : ∀ s x2, P s → P (State.waitFor s x2) := by
  intros
  unfold State.waitFor
  repeat' (first
    | with_reducible assumption
    | intro _
    | with_reducible apply State.stir_kept hP
    | with_reducible apply ite_kept (P := P)
    | with_reducible apply foldl_kept (P := P)
    | with_reducible apply foldl_fst_kept (P := P)
    | with_reducible apply foldl_snd_kept (P := P)
    | split
    | dsimp only
    | with_reducible apply hP.upd)

theorem State.evict_kept {P : State → Prop} (hP : Kept True P) : ∀ s x2, P s → P (State.evict s x2) := by
  intros
  unfold State.evict
  repeat' (first
    | with_reducible assumption
    | intro _
    | with_reducible apply State.checkShare_kept hP
    | with_reducible apply State.writeOut_kept hP
    | with_reducible apply ite_kept (P := P)
    | with_reducible apply foldl_kept (P := P)
    | with_reducible apply foldl_fst_kept (P := P)
    | with_reducible apply foldl_snd_kept (P := P)
    | split
    | dsimp only
    | with_reducible apply hP.upd)

theorem State.evictionComplete_kept {P : State → Prop} (hP : Kept True P) : ∀ s x2, P s → P (State.evictionComplete s x2) := by
  intros
  unfold State.evictionComplete
  repeat' (first
    | with_reducible assumption
    | intro _
    | with_reducible apply State.waitFor_kept hP
    | with_reducible apply State.evict_kept hP
    | with_reducible apply State.readBack_kept hP
    | with_reducible apply State.wr_kept hP
    | with_reducible apply State.modPart_kept hP
    | with_reducible apply State.startRun_kept hP
    | with_reducible apply ite_kept (P := P)
    | with_reducible apply foldl_kept (P := P)
    | with_reducible apply foldl_fst_kept (P := P)
    | with_reducible apply foldl_snd_kept (P := P)
    | split
    | dsimp only
    | with_reducible apply hP.upd)

theorem execEvictionComplete_kept {P : State → Prop} (hP : Kept True P) : ∀ x1 s, P s → ∀ t, execEvictionComplete x1 s = .next t → P t := by
  intros
  rename_i e
  unfold execEvictionComplete at e
  cases e
  repeat' (first
    | with_reducible assumption
    | intro _
    | with_reducible apply State.evictionComplete_kept hP
    | with_reducible apply ite_kept (P := P)
    | with_reducible apply foldl_kept (P := P)
    | with_reducible apply foldl_fst_kept (P := P)
    | with_reducible apply foldl_snd_kept (P := P)
    | split
    | dsimp only
    | with_reducible apply hP.upd)

theorem State.setEntry_kept {m : Prop} {P : State → Prop} (hP : Kept m P) : ∀ s x2 x3 x4, P s → P (State.setEntry s x2 x3 x4) := by
  intros
  unfold State.setEntry
  repeat' (first
    | with_reducible assumption
    | intro _
    | with_reducible apply State.wr_kept hP
    | with_reducible apply ite_kept (P := P)
    | with_reducible apply foldl_kept (P := P)
    | with_reducible apply foldl_fst_kept (P := P)
    | with_reducible apply foldl_snd_kept (P := P)
    | split
    | dsimp only
    | with_reducible apply hP.upd)

theorem State.nextEntry_kept {m : Prop} {P : State → Prop} (hP : Kept m P) : ∀ s x2 x3, P s → P (State.nextEntry s x2 x3).1 := by
  intros
  unfold State.nextEntry
  repeat' (first
    | with_reducible assumption
    | intro _
    | with_reducible apply State.setEntry_kept hP
    | with_reducible apply State.wr_kept hP
    | with_reducible apply ite_kept (P := P)
    | with_reducible apply foldl_kept (P := P)
    | with_reducible apply foldl_fst_kept (P := P)
    | with_reducible apply foldl_snd_kept (P := P)
    | split
    | dsimp only
    | with_reducible apply hP.upd)

theorem State.countSlice_kept {m : Prop} {P : State → Prop} (hP : Kept m P) : ∀ s x2, P s → P (State.countSlice s x2).1 := by
  intros
  unfold State.countSlice
  repeat' (first
    | with_reducible assumption
    | intro _
    | with_reducible apply State.wr_kept hP
    | with_reducible apply State.nextEntry_kept hP
    | with_reducible apply ite_kept (P := P)
    | with_reducible apply foldl_kept (P := P)
    | with_reducible apply foldl_fst_kept (P := P)
    | with_reducible apply foldl_snd_kept (P := P)
    | split
    | dsimp only
    | with_reducible apply hP.upd)

theorem State.firstEntry_kept {m : Prop} {P : State → Prop} (hP : Kept m P) : ∀ s x2, P s → P (State.firstEntry s x2).1 := by
  intros
  unfold State.firstEntry
  repeat' (first
    | with_reducible assumption
    | intro _
    | with_reducible apply State.setEntry_kept hP
    | with_reducible apply ite_kept (P := P)
    | with_reducible apply foldl_kept (P := P)
    | with_reducible apply foldl_fst_kept (P := P)
    | with_reducible apply foldl_snd_kept (P := P)
    | split
    | dsimp only
    | with_reducible apply hP.upd)

theorem State.newTable_kept {m : Prop} {P : State → Prop} (hP : Kept m P) : ∀ s x2, P s → P (State.newTable s x2).1 := by
  intros
  unfold State.newTable
  repeat' (first
    | with_reducible assumption
    | intro _
    | with_reducible apply State.setEntry_kept hP
    | with_reducible apply State.firstEntry_kept hP
    | with_reducible apply ite_kept (P := P)
    | with_reducible apply foldl_kept (P := P)
    | with_reducible apply foldl_fst_kept (P := P)
    | with_reducible apply foldl_snd_kept (P := P)
    | split
    | dsimp only
    | with_reducible apply hP.upd)

theorem State.countPreempt_kept {m : Prop} {P : State → Prop} (hP : Kept m P) : ∀ s x2 x3 x4, P s → P (State.countPreempt s x2 x3 x4).1 := by
  intros
  unfold State.countPreempt
  repeat' (first
    | with_reducible assumption
    | intro _
    | with_reducible apply State.modPart_kept hP
    | with_reducible apply State.wr_kept hP
    | with_reducible apply State.setEntry_kept hP
    | with_reducible apply State.nextEntry_kept hP
    | with_reducible apply State.firstEntry_kept hP
    | with_reducible apply ite_kept (P := P)
    | with_reducible apply foldl_kept (P := P)
    | with_reducible apply foldl_fst_kept (P := P)
    | with_reducible apply foldl_snd_kept (P := P)
    | split
    | dsimp only
    | with_reducible apply hP.upd)

theorem State.startPreempt_kept {m : Prop} {P : State → Prop} (hP : Kept m P) : ∀ s x2 x3 x4, P s → P (State.startPreempt s x2 x3 x4) := by
  intros
  unfold State.startPreempt
  repeat' (first
    | with_reducible assumption
    | intro _
    | with_reducible apply State.wr_kept hP
    | with_reducible apply State.modPart_kept hP
    | with_reducible apply State.breach_kept hP
    | with_reducible apply ite_kept (P := P)
    | with_reducible apply foldl_kept (P := P)
    | with_reducible apply foldl_fst_kept (P := P)
    | with_reducible apply foldl_snd_kept (P := P)
    | split
    | dsimp only
    | with_reducible apply hP.upd)

theorem State.runChoice_kept {P : State → Prop} (hP : Kept True P) : ∀ s x2 x3, P s → P (State.runChoice s x2 x3) := by
  intros
  unfold State.runChoice
  repeat' (first
    | with_reducible assumption
    | intro _
    | with_reducible apply State.switchTo_kept hP
    | with_reducible apply State.switchOut_kept hP
    | with_reducible apply State.wr_kept hP
    | with_reducible apply State.modPart_kept hP
    | with_reducible apply ite_kept (P := P)
    | with_reducible apply foldl_kept (P := P)
    | with_reducible apply foldl_fst_kept (P := P)
    | with_reducible apply foldl_snd_kept (P := P)
    | split
    | dsimp only
    | with_reducible apply hP.upd)

theorem State.ticksTaken_kept {m : Prop} {P : State → Prop} (hP : Kept m P) : ∀ s x2 x3, P s → P (State.ticksTaken s x2 x3) := by
  intros
  unfold State.ticksTaken
  repeat' (first
    | with_reducible assumption
    | intro _
    | with_reducible apply State.breach_kept hP
    | with_reducible apply ite_kept (P := P)
    | with_reducible apply foldl_kept (P := P)
    | with_reducible apply foldl_fst_kept (P := P)
    | with_reducible apply foldl_snd_kept (P := P)
    | split
    | dsimp only
    | with_reducible apply hP.upd)

theorem execSliceTableSet_kept {m : Prop} {P : State → Prop} (hP : Kept m P) : ∀ x1 x2 x3 s, P s → ∀ t, execSliceTableSet x1 x2 x3 s = .next t → P t := by
  intros
  rename_i e
  unfold execSliceTableSet at e
  cases e
  repeat' (first
    | with_reducible assumption
    | intro _
    | with_reducible apply State.command_kept hP
    | with_reducible apply State.stage_kept hP
    | with_reducible apply ite_kept (P := P)
    | with_reducible apply foldl_kept (P := P)
    | with_reducible apply foldl_fst_kept (P := P)
    | with_reducible apply foldl_snd_kept (P := P)
    | split
    | dsimp only
    | with_reducible apply hP.upd)

theorem State.applySliceTable_kept {m : Prop} {P : State → Prop} (hP : Kept m P) : ∀ s x2 x3, P s → P (State.applySliceTable s x2 x3) := by
  intros
  unfold State.applySliceTable
  repeat' (first
    | with_reducible assumption
    | intro _
    | with_reducible apply State.reply_kept hP
    | with_reducible apply hP.setReg
    | with_reducible apply State.modPart_kept hP
    | with_reducible apply State.ticksTaken_kept hP
    | with_reducible apply ite_kept (P := P)
    | with_reducible apply foldl_kept (P := P)
    | with_reducible apply foldl_fst_kept (P := P)
    | with_reducible apply foldl_snd_kept (P := P)
    | split
    | dsimp only
    | with_reducible apply hP.upd)

theorem State.stagePreempt_kept {m : Prop} {P : State → Prop} (hP : Kept m P) : ∀ s x2 x3 x4, P s → P (State.stagePreempt s x2 x3 x4) := by
  intros
  unfold State.stagePreempt
  repeat' (first
    | with_reducible assumption
    | intro _
    | with_reducible apply State.completeBy_kept hP
    | with_reducible apply State.stage_kept hP
    | with_reducible apply ite_kept (P := P)
    | with_reducible apply foldl_kept (P := P)
    | with_reducible apply foldl_fst_kept (P := P)
    | with_reducible apply foldl_snd_kept (P := P)
    | split
    | dsimp only
    | with_reducible apply hP.upd)

theorem execContextPreEmpt_kept {m : Prop} {P : State → Prop} (hP : Kept m P) : ∀ x1 x2 x3 s, P s → ∀ t, execContextPreEmpt x1 x2 x3 s = .next t → P t := by
  intros
  rename_i e
  unfold execContextPreEmpt at e
  cases e
  repeat' (first
    | with_reducible assumption
    | intro _
    | with_reducible apply State.command_kept hP
    | with_reducible apply State.stagePreempt_kept hP
    | with_reducible apply ite_kept (P := P)
    | with_reducible apply foldl_kept (P := P)
    | with_reducible apply foldl_fst_kept (P := P)
    | with_reducible apply foldl_snd_kept (P := P)
    | split
    | dsimp only
    | with_reducible apply hP.upd)

theorem State.ticksLost_kept {m : Prop} {P : State → Prop} (hP : Kept m P) : ∀ s x2, P s → P (State.ticksLost s x2) := by
  intros
  unfold State.ticksLost
  repeat' (first
    | with_reducible assumption
    | intro _
    | with_reducible apply State.free_kept hP
    | with_reducible apply State.breach_kept hP
    | with_reducible apply ite_kept (P := P)
    | with_reducible apply foldl_kept (P := P)
    | with_reducible apply foldl_fst_kept (P := P)
    | with_reducible apply foldl_snd_kept (P := P)
    | split
    | dsimp only
    | with_reducible apply hP.upd)

theorem State.applyRelocate_kept {P : State → Prop} (hP : Kept True P) : ∀ s x2 x3 x4, P s → P (State.applyRelocate s x2 x3 x4) := by
  intros
  unfold State.applyRelocate
  repeat' (first
    | with_reducible assumption
    | intro _
    | with_reducible apply State.reply_kept hP
    | with_reducible apply State.ticksLost_kept hP
    | with_reducible apply State.switchOut_kept hP
    | with_reducible apply State.wr_kept hP
    | with_reducible apply State.modPart_kept hP
    | with_reducible apply ite_kept (P := P)
    | with_reducible apply foldl_kept (P := P)
    | with_reducible apply foldl_fst_kept (P := P)
    | with_reducible apply foldl_snd_kept (P := P)
    | split
    | dsimp only
    | with_reducible apply hP.upd)

theorem State.loseShare_kept {m : Prop} {P : State → Prop} (hP : Kept m P) : ∀ s x2, P s → P (State.loseShare s x2) := by
  intros
  unfold State.loseShare
  repeat' (first
    | with_reducible assumption
    | intro _
    | with_reducible apply State.wr_kept hP
    | with_reducible apply State.modCtx_kept hP
    | with_reducible apply State.fault_kept hP
    | with_reducible apply ite_kept (P := P)
    | with_reducible apply foldl_kept (P := P)
    | with_reducible apply foldl_fst_kept (P := P)
    | with_reducible apply foldl_snd_kept (P := P)
    | split
    | dsimp only
    | with_reducible apply hP.upd)

theorem State.relocationComplete_kept {P : State → Prop} (hP : Kept True P) : ∀ s x2, P s → P (State.relocationComplete s x2) := by
  intros
  unfold State.relocationComplete
  repeat' (first
    | with_reducible assumption
    | intro _
    | with_reducible apply State.waitFor_kept hP
    | with_reducible apply State.checkShare_kept hP
    | with_reducible apply State.copyShares_kept hP
    | with_reducible apply State.wr_kept hP
    | with_reducible apply State.clearShare_kept hP
    | with_reducible apply State.loseShare_kept hP
    | with_reducible apply State.modPart_kept hP
    | with_reducible apply State.notice_kept hP
    | with_reducible apply ite_kept (P := P)
    | with_reducible apply foldl_kept (P := P)
    | with_reducible apply foldl_fst_kept (P := P)
    | with_reducible apply foldl_snd_kept (P := P)
    | split
    | dsimp only
    | with_reducible apply hP.upd)

theorem execRelocationComplete_kept {P : State → Prop} (hP : Kept True P) : ∀ x1 s, P s → ∀ t, execRelocationComplete x1 s = .next t → P t := by
  intros
  rename_i e
  unfold execRelocationComplete at e
  cases e
  repeat' (first
    | with_reducible assumption
    | intro _
    | with_reducible apply State.relocationComplete_kept hP
    | with_reducible apply ite_kept (P := P)
    | with_reducible apply foldl_kept (P := P)
    | with_reducible apply foldl_fst_kept (P := P)
    | with_reducible apply foldl_snd_kept (P := P)
    | split
    | dsimp only
    | with_reducible apply hP.upd)

theorem doContextCreate_kept {P : State → Prop} (hP : Kept True P) : ∀ x1 x2 x3 x4 x5 x6 x7 x8 x9 x10 x11 s, P s → P (doContextCreate x1 x2 x3 x4 x5 x6 x7 x8 x9 x10 x11 s) := by
  intros
  unfold doContextCreate
  repeat' (first
    | with_reducible assumption
    | intro _
    | with_reducible apply hP.setReg
    | with_reducible apply State.evict_kept hP
    | with_reducible apply State.wr_kept hP
    | with_reducible apply State.setCtx_kept hP
    | with_reducible apply State.zeroPart_kept hP
    | with_reducible apply State.clearShare_kept hP
    | with_reducible apply State.reply_kept hP
    | with_reducible apply ite_kept (P := P)
    | with_reducible apply foldl_kept (P := P)
    | with_reducible apply foldl_fst_kept (P := P)
    | with_reducible apply foldl_snd_kept (P := P)
    | split
    | dsimp only
    | with_reducible apply hP.upd)

theorem fwContextCreate_kept {P : State → Prop} (hP : Kept True P) : ∀ x1 x2 x3 x4 x5 x6 x7 x8 x9 x10 x11, Fw.Keeps P (fwContextCreate x1 x2 x3 x4 x5 x6 x7 x8 x9 x10 x11) := by
  intros
  unfold fwContextCreate
  repeat' (first
    | with_reducible assumption
    | intro _
    | with_reducible apply State.shareLines_kept hP
    | with_reducible apply doContextCreate_kept hP
    | with_reducible apply ite_kept (P := P)
    | with_reducible apply foldl_kept (P := P)
    | with_reducible apply foldl_fst_kept (P := P)
    | with_reducible apply foldl_snd_kept (P := P)
    | split
    | dsimp only
    | with_reducible apply Fw.Keeps.mk
    | with_reducible apply hP.upd)

theorem execContextCreate_kept {P : State → Prop} (hP : Kept True P) : ∀ x1 x2 x3 x4 x5 x6 x7 x8 x9 x10 x11 s, P s → ∀ t, execContextCreate x1 x2 x3 x4 x5 x6 x7 x8 x9 x10 x11 s = .next t → P t := by
  intros
  rename_i e
  unfold execContextCreate at e
  cases e
  repeat' (first
    | with_reducible assumption
    | intro _
    | with_reducible apply State.fwCommand_kept hP
    | with_reducible apply fwContextCreate_kept hP
    | with_reducible apply State.shareLines_kept hP
    | with_reducible apply ite_kept (P := P)
    | with_reducible apply foldl_kept (P := P)
    | with_reducible apply foldl_fst_kept (P := P)
    | with_reducible apply foldl_snd_kept (P := P)
    | split
    | dsimp only
    | with_reducible apply hP.upd)

theorem fwContextDestroy_kept {m : Prop} {P : State → Prop} (hP : Kept m P) : ∀ x1, Fw.Keeps P (fwContextDestroy x1) := by
  intros
  unfold fwContextDestroy
  repeat' (first
    | with_reducible assumption
    | intro _
    | with_reducible apply State.stage_kept hP
    | with_reducible apply ite_kept (P := P)
    | with_reducible apply foldl_kept (P := P)
    | with_reducible apply foldl_fst_kept (P := P)
    | with_reducible apply foldl_snd_kept (P := P)
    | split
    | dsimp only
    | with_reducible apply Fw.Keeps.mk
    | with_reducible apply hP.upd)

theorem execContextDestroy_kept {m : Prop} {P : State → Prop} (hP : Kept m P) : ∀ x1 s, P s → ∀ t, execContextDestroy x1 s = .next t → P t := by
  intros
  rename_i e
  unfold execContextDestroy at e
  cases e
  repeat' (first
    | with_reducible assumption
    | intro _
    | with_reducible apply State.fwCommand_kept hP
    | with_reducible apply fwContextDestroy_kept hP
    | with_reducible apply ite_kept (P := P)
    | with_reducible apply foldl_kept (P := P)
    | with_reducible apply foldl_fst_kept (P := P)
    | with_reducible apply foldl_snd_kept (P := P)
    | split
    | dsimp only
    | with_reducible apply hP.upd)

theorem execFreeAreaQuery_kept {m : Prop} {P : State → Prop} (hP : Kept m P) : ∀ x1 s, P s → ∀ t, execFreeAreaQuery x1 s = .next t → P t := by
  intros
  rename_i e
  unfold execFreeAreaQuery at e
  cases e
  repeat' (first
    | with_reducible assumption
    | intro _
    | with_reducible apply State.command_kept hP
    | with_reducible apply State.reply_kept hP
    | with_reducible apply ite_kept (P := P)
    | with_reducible apply foldl_kept (P := P)
    | with_reducible apply foldl_fst_kept (P := P)
    | with_reducible apply foldl_snd_kept (P := P)
    | split
    | dsimp only
    | with_reducible apply hP.upd)

theorem execSlowdownRead_kept {m : Prop} {P : State → Prop} (hP : Kept m P) : ∀ x1 x2 s, P s → ∀ t, execSlowdownRead x1 x2 s = .next t → P t := by
  intros
  rename_i e
  unfold execSlowdownRead at e
  cases e
  repeat' (first
    | with_reducible assumption
    | intro _
    | with_reducible apply State.command_kept hP
    | with_reducible apply State.count_kept hP
    | with_reducible apply State.reply_kept hP
    | with_reducible apply ite_kept (P := P)
    | with_reducible apply foldl_kept (P := P)
    | with_reducible apply foldl_fst_kept (P := P)
    | with_reducible apply foldl_snd_kept (P := P)
    | split
    | dsimp only
    | with_reducible apply hP.upd)

theorem State.slipLimit_kept {m : Prop} {P : State → Prop} (hP : Kept m P) : ∀ s x2, P s → P (State.slipLimit s x2) := by
  intros
  unfold State.slipLimit
  repeat' (first
    | with_reducible assumption
    | intro _
    | with_reducible apply State.free_kept hP
    | with_reducible apply State.fault_kept hP
    | with_reducible apply ite_kept (P := P)
    | with_reducible apply foldl_kept (P := P)
    | with_reducible apply foldl_fst_kept (P := P)
    | with_reducible apply foldl_snd_kept (P := P)
    | split
    | dsimp only
    | with_reducible apply hP.upd)

theorem execTickSlipLimit_kept {m : Prop} {P : State → Prop} (hP : Kept m P) : ∀ x1 s, P s → ∀ t, execTickSlipLimit x1 s = .next t → P t := by
  intros
  rename_i e
  unfold execTickSlipLimit at e
  cases e
  repeat' (first
    | with_reducible assumption
    | intro _
    | with_reducible apply State.slipLimit_kept hP
    | with_reducible apply ite_kept (P := P)
    | with_reducible apply foldl_kept (P := P)
    | with_reducible apply foldl_fst_kept (P := P)
    | with_reducible apply foldl_snd_kept (P := P)
    | split
    | dsimp only
    | with_reducible apply hP.upd)

theorem State.latencyBreach_kept {m : Prop} {P : State → Prop} (hP : Kept m P) : ∀ s x2, P s → P (State.latencyBreach s x2) := by
  intros
  unfold State.latencyBreach
  repeat' (first
    | with_reducible assumption
    | intro _
    | with_reducible apply State.free_kept hP
    | with_reducible apply State.modCtx_kept hP
    | with_reducible apply State.breach_kept hP
    | with_reducible apply ite_kept (P := P)
    | with_reducible apply foldl_kept (P := P)
    | with_reducible apply foldl_fst_kept (P := P)
    | with_reducible apply foldl_snd_kept (P := P)
    | split
    | dsimp only
    | with_reducible apply hP.upd)

theorem execLatencyBreach_kept {m : Prop} {P : State → Prop} (hP : Kept m P) : ∀ x1 s, P s → ∀ t, execLatencyBreach x1 s = .next t → P t := by
  intros
  rename_i e
  unfold execLatencyBreach at e
  cases e
  repeat' (first
    | with_reducible assumption
    | intro _
    | with_reducible apply State.latencyBreach_kept hP
    | with_reducible apply ite_kept (P := P)
    | with_reducible apply foldl_kept (P := P)
    | with_reducible apply foldl_fst_kept (P := P)
    | with_reducible apply foldl_snd_kept (P := P)
    | split
    | dsimp only
    | with_reducible apply hP.upd)

theorem State.drainTimeout_kept {m : Prop} {P : State → Prop} (hP : Kept m P) : ∀ s x2, P s → P (State.drainTimeout s x2) := by
  intros
  unfold State.drainTimeout
  repeat' (first
    | with_reducible assumption
    | intro _
    | with_reducible apply State.returnCredits_kept hP
    | with_reducible apply State.wr_kept hP
    | with_reducible apply State.modEng_kept hP
    | with_reducible apply State.showDraining_kept hP
    | with_reducible apply State.fault_kept hP
    | with_reducible apply ite_kept (P := P)
    | with_reducible apply foldl_kept (P := P)
    | with_reducible apply foldl_fst_kept (P := P)
    | with_reducible apply foldl_snd_kept (P := P)
    | split
    | dsimp only
    | with_reducible apply hP.upd)

theorem execFabricDrainTimeout_kept {m : Prop} {P : State → Prop} (hP : Kept m P) : ∀ x1 s, P s → ∀ t, execFabricDrainTimeout x1 s = .next t → P t := by
  intros
  rename_i e
  unfold execFabricDrainTimeout at e
  cases e
  repeat' (first
    | with_reducible assumption
    | intro _
    | with_reducible apply State.drainTimeout_kept hP
    | with_reducible apply ite_kept (P := P)
    | with_reducible apply foldl_kept (P := P)
    | with_reducible apply foldl_fst_kept (P := P)
    | with_reducible apply foldl_snd_kept (P := P)
    | split
    | dsimp only
    | with_reducible apply hP.upd)

/-! ### Sec -/

theorem State.secReply_kept {m : Prop} {P : State → Prop} (hP : Kept m P) : ∀ s x2 x3 x4 x5, P s → P (State.secReply s x2 x3 x4 x5) := by
  intros
  unfold State.secReply
  repeat' (first
    | with_reducible assumption
    | intro _
    | with_reducible apply secCount_kept hP
    | with_reducible apply State.reply_kept hP
    | with_reducible apply ite_kept (P := P)
    | with_reducible apply foldl_kept (P := P)
    | with_reducible apply foldl_fst_kept (P := P)
    | with_reducible apply foldl_snd_kept (P := P)
    | split
    | dsimp only
    | with_reducible apply hP.upd)

theorem secFw_kept {m : Prop} {P : State → Prop} (hP : Kept m P) : ∀ op (lenOk : Bool) sc (check : State → Nat) (act : State → State),
    (∀ b, P b → P (act b)) → Fw.Keeps P (secFw op lenOk sc check act) := by
  intro op lenOk sc check act ha
  exact ⟨ha, fun _ _ hb => secCount_kept hP _ _ hb⟩

theorem State.setHash_kept {m : Prop} {P : State → Prop} (hP : Kept m P) : ∀ s x2 x3, P s → P (State.setHash s x2 x3) := by
  intros
  unfold State.setHash
  repeat' (first
    | with_reducible assumption
    | intro _
    | with_reducible apply State.wr_kept hP
    | with_reducible apply ite_kept (P := P)
    | with_reducible apply foldl_kept (P := P)
    | with_reducible apply foldl_fst_kept (P := P)
    | with_reducible apply foldl_snd_kept (P := P)
    | split
    | dsimp only
    | with_reducible apply hP.upd)

theorem State.fuseMismatch_kept {m : Prop} {P : State → Prop} (hP : Kept m P) : ∀ s x2 x3, P s → P (State.fuseMismatch s x2 x3) := by
  intros
  unfold State.fuseMismatch
  repeat' (first
    | with_reducible assumption
    | intro _
    | with_reducible apply State.fault_kept hP
    | with_reducible apply State.moduleFault_kept hP
    | with_reducible apply State.secReply_kept hP
    | with_reducible apply ite_kept (P := P)
    | with_reducible apply foldl_kept (P := P)
    | with_reducible apply foldl_fst_kept (P := P)
    | with_reducible apply foldl_snd_kept (P := P)
    | split
    | dsimp only
    | with_reducible apply hP.upd)

theorem State.extend_kept {m : Prop} {P : State → Prop} (hP : Kept m P) : ∀ s x2 x3, P s → P (State.extend s x2 x3) := by
  intros
  unfold State.extend
  repeat' (first
    | with_reducible assumption
    | intro _
    | with_reducible apply State.setHash_kept hP
    | with_reducible apply ite_kept (P := P)
    | with_reducible apply foldl_kept (P := P)
    | with_reducible apply foldl_fst_kept (P := P)
    | with_reducible apply foldl_snd_kept (P := P)
    | split
    | dsimp only
    | with_reducible apply hP.upd)

theorem State.extendFree_kept {m : Prop} {P : State → Prop} (hP : Kept m P) : ∀ s x2, P s → P (State.extendFree s x2) := by
  intros
  unfold State.extendFree
  repeat' (first
    | with_reducible assumption
    | intro _
    | with_reducible apply State.freeBytes_kept hP
    | with_reducible apply State.extend_kept hP
    | with_reducible apply ite_kept (P := P)
    | with_reducible apply foldl_kept (P := P)
    | with_reducible apply foldl_fst_kept (P := P)
    | with_reducible apply foldl_snd_kept (P := P)
    | split
    | dsimp only
    | with_reducible apply hP.upd)

theorem fwMeasurementRead_kept {m : Prop} {P : State → Prop} (hP : Kept m P) : ∀ x1, Fw.Keeps P (fwMeasurementRead x1) := by
  intros
  unfold fwMeasurementRead
  repeat' (first
    | with_reducible assumption
    | intro _
    | with_reducible apply secFw_kept hP
    | with_reducible apply State.secReply_kept hP
    | with_reducible apply ite_kept (P := P)
    | with_reducible apply foldl_kept (P := P)
    | with_reducible apply foldl_fst_kept (P := P)
    | with_reducible apply foldl_snd_kept (P := P)
    | split
    | dsimp only
    | with_reducible apply Fw.Keeps.mk
    | with_reducible apply hP.upd)

theorem execMeasurementRead_kept {m : Prop} {P : State → Prop} (hP : Kept m P) : ∀ x1 s, P s → ∀ t, execMeasurementRead x1 s = .next t → P t := by
  intros
  rename_i e
  unfold execMeasurementRead at e
  cases e
  repeat' (first
    | with_reducible assumption
    | intro _
    | with_reducible apply State.fwCommand_kept hP
    | with_reducible apply fwMeasurementRead_kept hP
    | with_reducible apply ite_kept (P := P)
    | with_reducible apply foldl_kept (P := P)
    | with_reducible apply foldl_fst_kept (P := P)
    | with_reducible apply foldl_snd_kept (P := P)
    | split
    | dsimp only
    | with_reducible apply hP.upd)

theorem fwMeasurementExtend_kept {m : Prop} {P : State → Prop} (hP : Kept m P) : ∀ x1 x2 x3, Fw.Keeps P (fwMeasurementExtend x1 x2 x3) := by
  intros
  unfold fwMeasurementExtend
  repeat' (first
    | with_reducible assumption
    | intro _
    | with_reducible apply secFw_kept hP
    | with_reducible apply State.extend_kept hP
    | with_reducible apply State.secReply_kept hP
    | with_reducible apply ite_kept (P := P)
    | with_reducible apply foldl_kept (P := P)
    | with_reducible apply foldl_fst_kept (P := P)
    | with_reducible apply foldl_snd_kept (P := P)
    | split
    | dsimp only
    | with_reducible apply Fw.Keeps.mk
    | with_reducible apply hP.upd)

theorem execMeasurementExtend_kept {m : Prop} {P : State → Prop} (hP : Kept m P) : ∀ x1 x2 x3 s, P s → ∀ t, execMeasurementExtend x1 x2 x3 s = .next t → P t := by
  intros
  rename_i e
  unfold execMeasurementExtend at e
  cases e
  repeat' (first
    | with_reducible assumption
    | intro _
    | with_reducible apply State.fwCommand_kept hP
    | with_reducible apply fwMeasurementExtend_kept hP
    | with_reducible apply ite_kept (P := P)
    | with_reducible apply foldl_kept (P := P)
    | with_reducible apply foldl_fst_kept (P := P)
    | with_reducible apply foldl_snd_kept (P := P)
    | split
    | dsimp only
    | with_reducible apply hP.upd)

theorem State.certifyAttest_kept {m : Prop} {P : State → Prop} (hP : Kept m P) : ∀ s, P s → P (State.certifyAttest s) := by
  intros
  unfold State.certifyAttest
  repeat' (first
    | with_reducible assumption
    | intro _
    | with_reducible apply ite_kept (P := P)
    | with_reducible apply foldl_kept (P := P)
    | with_reducible apply foldl_fst_kept (P := P)
    | with_reducible apply foldl_snd_kept (P := P)
    | split
    | dsimp only
    | with_reducible apply hP.upd)

theorem fwCertificateRead_kept {m : Prop} {P : State → Prop} (hP : Kept m P) : ∀ x1 x2 x3, Fw.Keeps P (fwCertificateRead x1 x2 x3) := by
  intros
  unfold fwCertificateRead
  repeat' (first
    | with_reducible assumption
    | intro _
    | with_reducible apply secFw_kept hP
    | with_reducible apply State.secReply_kept hP
    | with_reducible apply ite_kept (P := P)
    | with_reducible apply foldl_kept (P := P)
    | with_reducible apply foldl_fst_kept (P := P)
    | with_reducible apply foldl_snd_kept (P := P)
    | split
    | dsimp only
    | with_reducible apply Fw.Keeps.mk
    | with_reducible apply hP.upd)

theorem execCertificateRead_kept {m : Prop} {P : State → Prop} (hP : Kept m P) : ∀ x1 x2 x3 s, P s → ∀ t, execCertificateRead x1 x2 x3 s = .next t → P t := by
  intros
  rename_i e
  unfold execCertificateRead at e
  cases e
  repeat' (first
    | with_reducible assumption
    | intro _
    | with_reducible apply State.fwCommand_kept hP
    | with_reducible apply fwCertificateRead_kept hP
    | with_reducible apply ite_kept (P := P)
    | with_reducible apply foldl_kept (P := P)
    | with_reducible apply foldl_fst_kept (P := P)
    | with_reducible apply foldl_snd_kept (P := P)
    | split
    | dsimp only
    | with_reducible apply hP.upd)

theorem fwAttestationQuote_kept {m : Prop} {P : State → Prop} (hP : Kept m P) : ∀ x1 x2 x3 x4 x5, Fw.Keeps P (fwAttestationQuote x1 x2 x3 x4 x5) := by
  intros
  unfold fwAttestationQuote
  repeat' (first
    | with_reducible assumption
    | intro _
    | with_reducible apply secFw_kept hP
    | with_reducible apply State.reply_kept hP
    | with_reducible apply ite_kept (P := P)
    | with_reducible apply foldl_kept (P := P)
    | with_reducible apply foldl_fst_kept (P := P)
    | with_reducible apply foldl_snd_kept (P := P)
    | split
    | dsimp only
    | with_reducible apply Fw.Keeps.mk
    | with_reducible apply hP.upd)

theorem State.keepBody_kept {m : Prop} {P : State → Prop} (hP : Kept m P) : ∀ s x2 x3 x4 x5 x6, P s → P (State.keepBody s x2 x3 x4 x5 x6) := by
  intros
  unfold State.keepBody
  repeat' (first
    | with_reducible assumption
    | intro _
    | with_reducible apply ite_kept (P := P)
    | with_reducible apply foldl_kept (P := P)
    | with_reducible apply foldl_fst_kept (P := P)
    | with_reducible apply foldl_snd_kept (P := P)
    | split
    | dsimp only
    | with_reducible apply hP.upd)

theorem execAttestationQuote_kept {m : Prop} {P : State → Prop} (hP : Kept m P) : ∀ x1 x2 x3 x4 s, P s → ∀ t, execAttestationQuote x1 x2 x3 x4 s = .next t → P t := by
  intros
  rename_i e
  unfold execAttestationQuote at e
  cases e
  repeat' (first
    | with_reducible assumption
    | intro _
    | with_reducible apply State.fwCommand_kept hP
    | with_reducible apply fwAttestationQuote_kept hP
    | with_reducible apply State.keepBody_kept hP
    | with_reducible apply ite_kept (P := P)
    | with_reducible apply foldl_kept (P := P)
    | with_reducible apply foldl_fst_kept (P := P)
    | with_reducible apply foldl_snd_kept (P := P)
    | split
    | dsimp only
    | with_reducible apply hP.upd)

theorem State.quoteSigned_kept {m : Prop} {P : State → Prop} (hP : Kept m P) : ∀ s, P s → P (State.quoteSigned s) := by
  intros
  unfold State.quoteSigned
  repeat' (first
    | with_reducible assumption
    | intro _
    | with_reducible apply State.rest_kept hP
    | with_reducible apply State.reply_kept hP
    | with_reducible apply State.inc_kept hP
    | with_reducible apply ite_kept (P := P)
    | with_reducible apply foldl_kept (P := P)
    | with_reducible apply foldl_fst_kept (P := P)
    | with_reducible apply foldl_snd_kept (P := P)
    | split
    | dsimp only
    | with_reducible apply hP.upd)

theorem execQuoteSigned_kept {m : Prop} {P : State → Prop} (hP : Kept m P) : ∀ s, P s → ∀ t, execQuoteSigned s = .next t → P t := by
  intros
  rename_i e
  unfold execQuoteSigned at e
  cases e
  repeat' (first
    | with_reducible assumption
    | intro _
    | with_reducible apply State.quoteSigned_kept hP
    | with_reducible apply ite_kept (P := P)
    | with_reducible apply foldl_kept (P := P)
    | with_reducible apply foldl_fst_kept (P := P)
    | with_reducible apply foldl_snd_kept (P := P)
    | split
    | dsimp only
    | with_reducible apply hP.upd)

theorem fwQuoteRead_kept {m : Prop} {P : State → Prop} (hP : Kept m P) : ∀ x1 x2 x3, Fw.Keeps P (fwQuoteRead x1 x2 x3) := by
  intros
  unfold fwQuoteRead
  repeat' (first
    | with_reducible assumption
    | intro _
    | with_reducible apply secFw_kept hP
    | with_reducible apply State.secReply_kept hP
    | with_reducible apply ite_kept (P := P)
    | with_reducible apply foldl_kept (P := P)
    | with_reducible apply foldl_fst_kept (P := P)
    | with_reducible apply foldl_snd_kept (P := P)
    | split
    | dsimp only
    | with_reducible apply Fw.Keeps.mk
    | with_reducible apply hP.upd)

theorem execQuoteRead_kept {m : Prop} {P : State → Prop} (hP : Kept m P) : ∀ x1 x2 x3 s, P s → ∀ t, execQuoteRead x1 x2 x3 s = .next t → P t := by
  intros
  rename_i e
  unfold execQuoteRead at e
  cases e
  repeat' (first
    | with_reducible assumption
    | intro _
    | with_reducible apply State.fwCommand_kept hP
    | with_reducible apply fwQuoteRead_kept hP
    | with_reducible apply ite_kept (P := P)
    | with_reducible apply foldl_kept (P := P)
    | with_reducible apply foldl_fst_kept (P := P)
    | with_reducible apply foldl_snd_kept (P := P)
    | split
    | dsimp only
    | with_reducible apply hP.upd)

theorem State.showSessions_kept {m : Prop} {P : State → Prop} (hP : Kept m P) : ∀ s, P s → P (State.showSessions s) := by
  intros
  unfold State.showSessions
  repeat' (first
    | with_reducible assumption
    | intro _
    | with_reducible apply State.wr_kept hP
    | with_reducible apply ite_kept (P := P)
    | with_reducible apply foldl_kept (P := P)
    | with_reducible apply foldl_fst_kept (P := P)
    | with_reducible apply foldl_snd_kept (P := P)
    | split
    | dsimp only
    | with_reducible apply hP.upd)

theorem State.showAttested_kept {m : Prop} {P : State → Prop} (hP : Kept m P) : ∀ s, P s → P (State.showAttested s) := by
  intros
  unfold State.showAttested
  repeat' (first
    | with_reducible assumption
    | intro _
    | with_reducible apply State.wr_kept hP
    | with_reducible apply ite_kept (P := P)
    | with_reducible apply foldl_kept (P := P)
    | with_reducible apply foldl_fst_kept (P := P)
    | with_reducible apply foldl_snd_kept (P := P)
    | split
    | dsimp only
    | with_reducible apply hP.upd)

theorem doSessionKey_kept {m : Prop} {P : State → Prop} (hP : Kept m P) : ∀ x1 s, P s → P (doSessionKey x1 s) := by
  intros
  unfold doSessionKey
  repeat' (first
    | with_reducible assumption
    | intro _
    | with_reducible apply State.secReply_kept hP
    | with_reducible apply State.free_kept hP
    | with_reducible apply State.showSessions_kept hP
    | with_reducible apply ite_kept (P := P)
    | with_reducible apply foldl_kept (P := P)
    | with_reducible apply foldl_fst_kept (P := P)
    | with_reducible apply foldl_snd_kept (P := P)
    | split
    | dsimp only
    | with_reducible apply hP.upd)

theorem fwSessionEstablishKey_kept {m : Prop} {P : State → Prop} (hP : Kept m P) : ∀ x1, Fw.Keeps P (fwSessionEstablishKey x1) := by
  intros
  unfold fwSessionEstablishKey
  repeat' (first
    | with_reducible assumption
    | intro _
    | with_reducible apply secFw_kept hP
    | with_reducible apply doSessionKey_kept hP
    | with_reducible apply ite_kept (P := P)
    | with_reducible apply foldl_kept (P := P)
    | with_reducible apply foldl_fst_kept (P := P)
    | with_reducible apply foldl_snd_kept (P := P)
    | split
    | dsimp only
    | with_reducible apply Fw.Keeps.mk
    | with_reducible apply hP.upd)

theorem execSessionEstablishKey_kept {m : Prop} {P : State → Prop} (hP : Kept m P) : ∀ x1 s, P s → ∀ t, execSessionEstablishKey x1 s = .next t → P t := by
  intros
  rename_i e
  unfold execSessionEstablishKey at e
  cases e
  repeat' (first
    | with_reducible assumption
    | intro _
    | with_reducible apply State.fwCommand_kept hP
    | with_reducible apply fwSessionEstablishKey_kept hP
    | with_reducible apply ite_kept (P := P)
    | with_reducible apply foldl_kept (P := P)
    | with_reducible apply foldl_fst_kept (P := P)
    | with_reducible apply foldl_snd_kept (P := P)
    | split
    | dsimp only
    | with_reducible apply hP.upd)

theorem State.closeSession_kept {m : Prop} {P : State → Prop} (hP : Kept m P) : ∀ s x2, P s → P (State.closeSession s x2) := by
  intros
  unfold State.closeSession
  repeat' (first
    | with_reducible assumption
    | intro _
    | with_reducible apply State.showSessions_kept hP
    | with_reducible apply ite_kept (P := P)
    | with_reducible apply foldl_kept (P := P)
    | with_reducible apply foldl_fst_kept (P := P)
    | with_reducible apply foldl_snd_kept (P := P)
    | split
    | dsimp only
    | with_reducible apply hP.upd)

theorem doSessionCiphertext_kept {m : Prop} {P : State → Prop} (hP : Kept m P) : ∀ x1 x2 x3 x4 s, P s → P (doSessionCiphertext x1 x2 x3 x4 s) := by
  intros
  unfold doSessionCiphertext
  repeat' (first
    | with_reducible assumption
    | intro _
    | with_reducible apply State.wr_kept hP
    | with_reducible apply State.showAttested_kept hP
    | with_reducible apply State.stopTrace_kept hP
    | with_reducible apply State.secReply_kept hP
    | with_reducible apply ite_kept (P := P)
    | with_reducible apply foldl_kept (P := P)
    | with_reducible apply foldl_fst_kept (P := P)
    | with_reducible apply foldl_snd_kept (P := P)
    | split
    | dsimp only
    | with_reducible apply hP.upd)

theorem fwSessionEstablishCiphertext_kept {m : Prop} {P : State → Prop} (hP : Kept m P) : ∀ x1 x2 x3 x4, Fw.Keeps P (fwSessionEstablishCiphertext x1 x2 x3 x4) := by
  intros
  unfold fwSessionEstablishCiphertext
  repeat' (first
    | with_reducible assumption
    | intro _
    | with_reducible apply secFw_kept hP
    | with_reducible apply doSessionCiphertext_kept hP
    | with_reducible apply ite_kept (P := P)
    | with_reducible apply foldl_kept (P := P)
    | with_reducible apply foldl_fst_kept (P := P)
    | with_reducible apply foldl_snd_kept (P := P)
    | split
    | dsimp only
    | with_reducible apply Fw.Keeps.mk
    | with_reducible apply hP.upd)

theorem execSessionEstablishCiphertext_kept {m : Prop} {P : State → Prop} (hP : Kept m P) : ∀ x1 x2 x3 x4 s, P s → ∀ t, execSessionEstablishCiphertext x1 x2 x3 x4 s = .next t → P t := by
  intros
  rename_i e
  unfold execSessionEstablishCiphertext at e
  cases e
  repeat' (first
    | with_reducible assumption
    | intro _
    | with_reducible apply State.fwCommand_kept hP
    | with_reducible apply fwSessionEstablishCiphertext_kept hP
    | with_reducible apply ite_kept (P := P)
    | with_reducible apply foldl_kept (P := P)
    | with_reducible apply foldl_fst_kept (P := P)
    | with_reducible apply foldl_snd_kept (P := P)
    | split
    | dsimp only
    | with_reducible apply hP.upd)

theorem State.sessionTimeout_kept {m : Prop} {P : State → Prop} (hP : Kept m P) : ∀ s x2, P s → P (State.sessionTimeout s x2) := by
  intros
  unfold State.sessionTimeout
  repeat' (first
    | with_reducible assumption
    | intro _
    | with_reducible apply State.closeSession_kept hP
    | with_reducible apply ite_kept (P := P)
    | with_reducible apply foldl_kept (P := P)
    | with_reducible apply foldl_fst_kept (P := P)
    | with_reducible apply foldl_snd_kept (P := P)
    | split
    | dsimp only
    | with_reducible apply hP.upd)

theorem execSessionTimeout_kept {m : Prop} {P : State → Prop} (hP : Kept m P) : ∀ x1 s, P s → ∀ t, execSessionTimeout x1 s = .next t → P t := by
  intros
  rename_i e
  unfold execSessionTimeout at e
  cases e
  repeat' (first
    | with_reducible assumption
    | intro _
    | with_reducible apply State.sessionTimeout_kept hP
    | with_reducible apply ite_kept (P := P)
    | with_reducible apply foldl_kept (P := P)
    | with_reducible apply foldl_fst_kept (P := P)
    | with_reducible apply foldl_snd_kept (P := P)
    | split
    | dsimp only
    | with_reducible apply hP.upd)

theorem State.endSecurity_kept {m : Prop} {P : State → Prop} (hP : Kept m P) : ∀ s x2, P s → P (State.endSecurity s x2) := by
  intros
  unfold State.endSecurity
  repeat' (first
    | with_reducible assumption
    | intro _
    | with_reducible apply State.closeSession_kept hP
    | with_reducible apply State.wr_kept hP
    | with_reducible apply State.showAttested_kept hP
    | with_reducible apply ite_kept (P := P)
    | with_reducible apply foldl_kept (P := P)
    | with_reducible apply foldl_fst_kept (P := P)
    | with_reducible apply foldl_snd_kept (P := P)
    | split
    | dsimp only
    | with_reducible apply hP.upd)

theorem doStreamKeySet_kept {m : Prop} {P : State → Prop} (hP : Kept m P) : ∀ x1 x2 x3 x4 x5 s, P s → P (doStreamKeySet x1 x2 x3 x4 x5 s) := by
  intros
  unfold doStreamKeySet
  repeat' (first
    | with_reducible assumption
    | intro _
    | with_reducible apply State.secReply_kept hP
    | with_reducible apply ite_kept (P := P)
    | with_reducible apply foldl_kept (P := P)
    | with_reducible apply foldl_fst_kept (P := P)
    | with_reducible apply foldl_snd_kept (P := P)
    | split
    | dsimp only
    | with_reducible apply hP.upd)

theorem fwStreamKeySet_kept {m : Prop} {P : State → Prop} (hP : Kept m P) : ∀ x1 x2 x3 x4 x5, Fw.Keeps P (fwStreamKeySet x1 x2 x3 x4 x5) := by
  intros
  unfold fwStreamKeySet
  repeat' (first
    | with_reducible assumption
    | intro _
    | with_reducible apply secFw_kept hP
    | with_reducible apply doStreamKeySet_kept hP
    | with_reducible apply ite_kept (P := P)
    | with_reducible apply foldl_kept (P := P)
    | with_reducible apply foldl_fst_kept (P := P)
    | with_reducible apply foldl_snd_kept (P := P)
    | split
    | dsimp only
    | with_reducible apply Fw.Keeps.mk
    | with_reducible apply hP.upd)

theorem execStreamKeySet_kept {m : Prop} {P : State → Prop} (hP : Kept m P) : ∀ x1 x2 x3 x4 x5 s, P s → ∀ t, execStreamKeySet x1 x2 x3 x4 x5 s = .next t → P t := by
  intros
  rename_i e
  unfold execStreamKeySet at e
  cases e
  repeat' (first
    | with_reducible assumption
    | intro _
    | with_reducible apply State.fwCommand_kept hP
    | with_reducible apply fwStreamKeySet_kept hP
    | with_reducible apply ite_kept (P := P)
    | with_reducible apply foldl_kept (P := P)
    | with_reducible apply foldl_fst_kept (P := P)
    | with_reducible apply foldl_snd_kept (P := P)
    | split
    | dsimp only
    | with_reducible apply hP.upd)

theorem fwDebugUnlockChallenge_kept {m : Prop} {P : State → Prop} (hP : Kept m P) : ∀ x1 x2, Fw.Keeps P (fwDebugUnlockChallenge x1 x2) := by
  intros
  unfold fwDebugUnlockChallenge
  repeat' (first
    | with_reducible assumption
    | intro _
    | with_reducible apply secFw_kept hP
    | with_reducible apply State.freeBytes_kept hP
    | with_reducible apply State.secReply_kept hP
    | with_reducible apply ite_kept (P := P)
    | with_reducible apply foldl_kept (P := P)
    | with_reducible apply foldl_fst_kept (P := P)
    | with_reducible apply foldl_snd_kept (P := P)
    | split
    | dsimp only
    | with_reducible apply Fw.Keeps.mk
    | with_reducible apply hP.upd)

theorem execDebugUnlockChallenge_kept {m : Prop} {P : State → Prop} (hP : Kept m P) : ∀ x1 x2 s, P s → ∀ t, execDebugUnlockChallenge x1 x2 s = .next t → P t := by
  intros
  rename_i e
  unfold execDebugUnlockChallenge at e
  cases e
  repeat' (first
    | with_reducible assumption
    | intro _
    | with_reducible apply State.fwCommand_kept hP
    | with_reducible apply fwDebugUnlockChallenge_kept hP
    | with_reducible apply ite_kept (P := P)
    | with_reducible apply foldl_kept (P := P)
    | with_reducible apply foldl_fst_kept (P := P)
    | with_reducible apply foldl_snd_kept (P := P)
    | split
    | dsimp only
    | with_reducible apply hP.upd)

theorem State.unlock_kept {m : Prop} {P : State → Prop} (hP : Kept m P) : ∀ s x2 x3, P s → P (State.unlock s x2 x3) := by
  intros
  unfold State.unlock
  repeat' (first
    | with_reducible assumption
    | intro _
    | with_reducible apply State.wr_kept hP
    | with_reducible apply State.inc_kept hP
    | with_reducible apply State.extendFree_kept hP
    | with_reducible apply State.fault_kept hP
    | with_reducible apply State.secReply_kept hP
    | with_reducible apply ite_kept (P := P)
    | with_reducible apply foldl_kept (P := P)
    | with_reducible apply foldl_fst_kept (P := P)
    | with_reducible apply foldl_snd_kept (P := P)
    | split
    | dsimp only
    | with_reducible apply hP.upd)

theorem fwDebugUnlockResponse_kept {m : Prop} {P : State → Prop} (hP : Kept m P) : ∀ x1 x2 x3 x4, Fw.Keeps P (fwDebugUnlockResponse x1 x2 x3 x4) := by
  intros
  unfold fwDebugUnlockResponse
  repeat' (first
    | with_reducible assumption
    | intro _
    | with_reducible apply partFw_kept hP
    | with_reducible apply State.unlock_kept hP
    | with_reducible apply secCount_kept hP
    | with_reducible apply ite_kept (P := P)
    | with_reducible apply foldl_kept (P := P)
    | with_reducible apply foldl_fst_kept (P := P)
    | with_reducible apply foldl_snd_kept (P := P)
    | split
    | dsimp only
    | with_reducible apply Fw.Keeps.mk
    | with_reducible apply hP.upd)

theorem execDebugUnlockResponse_kept {m : Prop} {P : State → Prop} (hP : Kept m P) : ∀ x1 x2 x3 x4 s, P s → ∀ t, execDebugUnlockResponse x1 x2 x3 x4 s = .next t → P t := by
  intros
  rename_i e
  unfold execDebugUnlockResponse at e
  cases e
  repeat' (first
    | with_reducible assumption
    | intro _
    | with_reducible apply State.fwCommand_kept hP
    | with_reducible apply fwDebugUnlockResponse_kept hP
    | with_reducible apply ite_kept (P := P)
    | with_reducible apply foldl_kept (P := P)
    | with_reducible apply foldl_fst_kept (P := P)
    | with_reducible apply foldl_snd_kept (P := P)
    | split
    | dsimp only
    | with_reducible apply hP.upd)

theorem State.showKeys_kept {m : Prop} {P : State → Prop} (hP : Kept m P) : ∀ s, P s → P (State.showKeys s) := by
  intros
  unfold State.showKeys
  repeat' (first
    | with_reducible assumption
    | intro _
    | with_reducible apply State.wr_kept hP
    | with_reducible apply ite_kept (P := P)
    | with_reducible apply foldl_kept (P := P)
    | with_reducible apply foldl_fst_kept (P := P)
    | with_reducible apply foldl_snd_kept (P := P)
    | split
    | dsimp only
    | with_reducible apply hP.upd)

theorem State.enrolRecord_kept {m : Prop} {P : State → Prop} (hP : Kept m P) : ∀ s x2, P s → P (State.enrolRecord s x2) := by
  intros
  unfold State.enrolRecord
  repeat' (first
    | with_reducible assumption
    | intro _
    | with_reducible apply State.rest_kept hP
    | with_reducible apply State.setHash_kept hP
    | with_reducible apply State.wr_kept hP
    | with_reducible apply State.showKeys_kept hP
    | with_reducible apply State.extendFree_kept hP
    | with_reducible apply ite_kept (P := P)
    | with_reducible apply foldl_kept (P := P)
    | with_reducible apply foldl_fst_kept (P := P)
    | with_reducible apply foldl_snd_kept (P := P)
    | split
    | dsimp only
    | with_reducible apply hP.upd)

theorem State.fuseFailed_kept {m : Prop} {P : State → Prop} (hP : Kept m P) : ∀ s x2, P s → P (State.fuseFailed s x2) := by
  intros
  unfold State.fuseFailed
  repeat' (first
    | with_reducible assumption
    | intro _
    | with_reducible apply State.freeBytes_kept hP
    | with_reducible apply State.setHash_kept hP
    | with_reducible apply State.wr_kept hP
    | with_reducible apply State.showKeys_kept hP
    | with_reducible apply ite_kept (P := P)
    | with_reducible apply foldl_kept (P := P)
    | with_reducible apply foldl_fst_kept (P := P)
    | with_reducible apply foldl_snd_kept (P := P)
    | split
    | dsimp only
    | with_reducible apply hP.upd)

theorem State.enrol_kept {m : Prop} {P : State → Prop} (hP : Kept m P) : ∀ s x2 x3 x4, P s → P (State.enrol s x2 x3 x4) := by
  intros
  unfold State.enrol
  repeat' (first
    | with_reducible assumption
    | intro _
    | with_reducible apply State.fuseFailed_kept hP
    | with_reducible apply State.fuseMismatch_kept hP
    | with_reducible apply State.enrolRecord_kept hP
    | with_reducible apply State.secReply_kept hP
    | with_reducible apply ite_kept (P := P)
    | with_reducible apply foldl_kept (P := P)
    | with_reducible apply foldl_fst_kept (P := P)
    | with_reducible apply foldl_snd_kept (P := P)
    | split
    | dsimp only
    | with_reducible apply hP.upd)

theorem fwKeyEnrolment_kept {m : Prop} {P : State → Prop} (hP : Kept m P) : ∀ x1 x2 x3 x4 x5, Fw.Keeps P (fwKeyEnrolment x1 x2 x3 x4 x5) := by
  intros
  unfold fwKeyEnrolment
  repeat' (first
    | with_reducible assumption
    | intro _
    | with_reducible apply partFw_kept hP
    | with_reducible apply State.enrol_kept hP
    | with_reducible apply secCount_kept hP
    | with_reducible apply ite_kept (P := P)
    | with_reducible apply foldl_kept (P := P)
    | with_reducible apply foldl_fst_kept (P := P)
    | with_reducible apply foldl_snd_kept (P := P)
    | split
    | dsimp only
    | with_reducible apply Fw.Keeps.mk
    | with_reducible apply hP.upd)

theorem execKeyEnrolment_kept {m : Prop} {P : State → Prop} (hP : Kept m P) : ∀ x1 x2 x3 x4 x5 s, P s → ∀ t, execKeyEnrolment x1 x2 x3 x4 x5 s = .next t → P t := by
  intros
  rename_i e
  unfold execKeyEnrolment at e
  cases e
  repeat' (first
    | with_reducible assumption
    | intro _
    | with_reducible apply State.fwCommand_kept hP
    | with_reducible apply fwKeyEnrolment_kept hP
    | with_reducible apply ite_kept (P := P)
    | with_reducible apply foldl_kept (P := P)
    | with_reducible apply foldl_fst_kept (P := P)
    | with_reducible apply foldl_snd_kept (P := P)
    | split
    | dsimp only
    | with_reducible apply hP.upd)

theorem State.setFwSlot_kept {m : Prop} {P : State → Prop} (hP : Kept m P) : ∀ s x2 x3 x4, P s → P (State.setFwSlot s x2 x3 x4) := by
  intros
  unfold State.setFwSlot
  repeat' (first
    | with_reducible assumption
    | intro _
    | with_reducible apply ite_kept (P := P)
    | with_reducible apply foldl_kept (P := P)
    | with_reducible apply foldl_fst_kept (P := P)
    | with_reducible apply foldl_snd_kept (P := P)
    | split
    | dsimp only
    | with_reducible apply hP.upd)

theorem State.stageBytes_kept {m : Prop} {P : State → Prop} (hP : Kept m P) : ∀ s x2 x3, P s → P (State.stageBytes s x2 x3) := by
  intros
  unfold State.stageBytes
  repeat' (first
    | with_reducible assumption
    | intro _
    | with_reducible apply ite_kept (P := P)
    | with_reducible apply foldl_kept (P := P)
    | with_reducible apply foldl_fst_kept (P := P)
    | with_reducible apply foldl_snd_kept (P := P)
    | split
    | dsimp only
    | with_reducible apply hP.upd)

theorem State.fwInstall_kept {m : Prop} {P : State → Prop} (hP : Kept m P) : ∀ s x2 x3 x4, P s → P (State.fwInstall s x2 x3 x4) := by
  intros
  unfold State.fwInstall
  repeat' (first
    | with_reducible assumption
    | intro _
    | with_reducible apply State.setFwSlot_kept hP
    | with_reducible apply ite_kept (P := P)
    | with_reducible apply foldl_kept (P := P)
    | with_reducible apply foldl_fst_kept (P := P)
    | with_reducible apply foldl_snd_kept (P := P)
    | split
    | dsimp only
    | with_reducible apply hP.upd)

theorem fwFirmwareUpdateInstall_kept {m : Prop} {P : State → Prop} (hP : Kept m P) : ∀ x1 x2 x3 x4, Fw.Keeps P (fwFirmwareUpdateInstall x1 x2 x3 x4) := by
  intros
  unfold fwFirmwareUpdateInstall
  repeat' (first
    | with_reducible assumption
    | intro _
    | with_reducible apply secFw_kept hP
    | with_reducible apply State.fwInstall_kept hP
    | with_reducible apply State.secReply_kept hP
    | with_reducible apply ite_kept (P := P)
    | with_reducible apply foldl_kept (P := P)
    | with_reducible apply foldl_fst_kept (P := P)
    | with_reducible apply foldl_snd_kept (P := P)
    | split
    | dsimp only
    | with_reducible apply Fw.Keeps.mk
    | with_reducible apply hP.upd)

theorem execFirmwareUpdateInstall_kept {m : Prop} {P : State → Prop} (hP : Kept m P) : ∀ x1 x2 x3 x4 s, P s → ∀ t, execFirmwareUpdateInstall x1 x2 x3 x4 s = .next t → P t := by
  intros
  rename_i e
  unfold execFirmwareUpdateInstall at e
  cases e
  repeat' (first
    | with_reducible assumption
    | intro _
    | with_reducible apply State.fwCommand_kept hP
    | with_reducible apply fwFirmwareUpdateInstall_kept hP
    | with_reducible apply ite_kept (P := P)
    | with_reducible apply foldl_kept (P := P)
    | with_reducible apply foldl_fst_kept (P := P)
    | with_reducible apply foldl_snd_kept (P := P)
    | split
    | dsimp only
    | with_reducible apply hP.upd)

theorem fwFirmwareUpdateStage_kept {m : Prop} {P : State → Prop} (hP : Kept m P) : ∀ x1 x2 x3 x4 x5, Fw.Keeps P (fwFirmwareUpdateStage x1 x2 x3 x4 x5) := by
  intros
  unfold fwFirmwareUpdateStage
  repeat' (first
    | with_reducible assumption
    | intro _
    | with_reducible apply secFw_kept hP
    | with_reducible apply State.takePart_kept hP
    | with_reducible apply State.reply_kept hP
    | with_reducible apply State.stageBytes_kept hP
    | with_reducible apply State.secReply_kept hP
    | with_reducible apply Fw.discarding_kept hP
    | with_reducible apply ite_kept (P := P)
    | with_reducible apply foldl_kept (P := P)
    | with_reducible apply foldl_fst_kept (P := P)
    | with_reducible apply foldl_snd_kept (P := P)
    | split
    | dsimp only
    | with_reducible apply Fw.Keeps.mk
    | with_reducible apply hP.upd)

theorem execFirmwareUpdateStage_kept {m : Prop} {P : State → Prop} (hP : Kept m P) : ∀ x1 x2 x3 x4 x5 s, P s → ∀ t, execFirmwareUpdateStage x1 x2 x3 x4 x5 s = .next t → P t := by
  intros
  rename_i e
  unfold execFirmwareUpdateStage at e
  cases e
  repeat' (first
    | with_reducible assumption
    | intro _
    | with_reducible apply State.fwCommand_kept hP
    | with_reducible apply fwFirmwareUpdateStage_kept hP
    | with_reducible apply ite_kept (P := P)
    | with_reducible apply foldl_kept (P := P)
    | with_reducible apply foldl_fst_kept (P := P)
    | with_reducible apply foldl_snd_kept (P := P)
    | split
    | dsimp only
    | with_reducible apply hP.upd)

theorem State.fwRaise_kept {m : Prop} {P : State → Prop} (hP : Kept m P) : ∀ s x2, P s → P (State.fwRaise s x2) := by
  intros
  unfold State.fwRaise
  repeat' (first
    | with_reducible assumption
    | intro _
    | with_reducible apply State.wr_kept hP
    | with_reducible apply ite_kept (P := P)
    | with_reducible apply foldl_kept (P := P)
    | with_reducible apply foldl_fst_kept (P := P)
    | with_reducible apply foldl_snd_kept (P := P)
    | split
    | dsimp only
    | with_reducible apply hP.upd)

theorem State.floorFailed_kept {m : Prop} {P : State → Prop} (hP : Kept m P) : ∀ s x2, P s → P (State.floorFailed s x2) := by
  intros
  unfold State.floorFailed
  repeat' (first
    | with_reducible assumption
    | intro _
    | with_reducible apply State.free_kept hP
    | with_reducible apply State.wr_kept hP
    | with_reducible apply ite_kept (P := P)
    | with_reducible apply foldl_kept (P := P)
    | with_reducible apply foldl_fst_kept (P := P)
    | with_reducible apply foldl_snd_kept (P := P)
    | split
    | dsimp only
    | with_reducible apply hP.upd)

theorem fwFirmwareUpdateFloor_kept {m : Prop} {P : State → Prop} (hP : Kept m P) : ∀ x1 x2 x3, Fw.Keeps P (fwFirmwareUpdateFloor x1 x2 x3) := by
  intros
  unfold fwFirmwareUpdateFloor
  repeat' (first
    | with_reducible assumption
    | intro _
    | with_reducible apply secFw_kept hP
    | with_reducible apply State.fwRaise_kept hP
    | with_reducible apply State.secReply_kept hP
    | with_reducible apply State.floorFailed_kept hP
    | with_reducible apply State.fuseMismatch_kept hP
    | with_reducible apply ite_kept (P := P)
    | with_reducible apply foldl_kept (P := P)
    | with_reducible apply foldl_fst_kept (P := P)
    | with_reducible apply foldl_snd_kept (P := P)
    | split
    | dsimp only
    | with_reducible apply Fw.Keeps.mk
    | with_reducible apply hP.upd)

theorem execFirmwareUpdateFloor_kept {m : Prop} {P : State → Prop} (hP : Kept m P) : ∀ x1 x2 x3 s, P s → ∀ t, execFirmwareUpdateFloor x1 x2 x3 s = .next t → P t := by
  intros
  rename_i e
  unfold execFirmwareUpdateFloor at e
  cases e
  repeat' (first
    | with_reducible assumption
    | intro _
    | with_reducible apply State.fwCommand_kept hP
    | with_reducible apply fwFirmwareUpdateFloor_kept hP
    | with_reducible apply ite_kept (P := P)
    | with_reducible apply foldl_kept (P := P)
    | with_reducible apply foldl_fst_kept (P := P)
    | with_reducible apply foldl_snd_kept (P := P)
    | split
    | dsimp only
    | with_reducible apply hP.upd)

theorem State.startRuntime_kept {m : Prop} {P : State → Prop} (hP : Kept m P) : ∀ s x2, P s → P (State.startRuntime s x2) := by
  intros
  unfold State.startRuntime
  repeat' (first
    | with_reducible assumption
    | intro _
    | with_reducible apply State.wr_kept hP
    | with_reducible apply State.extend_kept hP
    | with_reducible apply ite_kept (P := P)
    | with_reducible apply foldl_kept (P := P)
    | with_reducible apply foldl_fst_kept (P := P)
    | with_reducible apply foldl_snd_kept (P := P)
    | split
    | dsimp only
    | with_reducible apply hP.upd)

theorem State.runtimeRestart_kept {m : Prop} {P : State → Prop} (hP : Kept m P) : ∀ s x2, P s → P (State.runtimeRestart s x2) := by
  intros
  unfold State.runtimeRestart
  repeat' (first
    | with_reducible assumption
    | intro _
    | with_reducible apply State.startRuntime_kept hP
    | with_reducible apply State.wr_kept hP
    | with_reducible apply ite_kept (P := P)
    | with_reducible apply foldl_kept (P := P)
    | with_reducible apply foldl_fst_kept (P := P)
    | with_reducible apply foldl_snd_kept (P := P)
    | split
    | dsimp only
    | with_reducible apply hP.upd)

theorem execRuntimeRestart_kept {m : Prop} {P : State → Prop} (hP : Kept m P) : ∀ x1 s, P s → ∀ t, execRuntimeRestart x1 s = .next t → P t := by
  intros
  rename_i e
  unfold execRuntimeRestart at e
  cases e
  repeat' (first
    | with_reducible assumption
    | intro _
    | with_reducible apply State.runtimeRestart_kept hP
    | with_reducible apply ite_kept (P := P)
    | with_reducible apply foldl_kept (P := P)
    | with_reducible apply foldl_fst_kept (P := P)
    | with_reducible apply foldl_snd_kept (P := P)
    | split
    | dsimp only
    | with_reducible apply hP.upd)

/-! ### Cal -/

theorem State.showCal_kept {m : Prop} {P : State → Prop} (hP : Kept m P) : ∀ s, P s → P (State.showCal s) := by
  intros
  unfold State.showCal
  repeat' (first
    | with_reducible assumption
    | intro _
    | with_reducible apply State.wr_kept hP
    | with_reducible apply hP.setReg
    | with_reducible apply ite_kept (P := P)
    | with_reducible apply foldl_kept (P := P)
    | with_reducible apply foldl_fst_kept (P := P)
    | with_reducible apply foldl_snd_kept (P := P)
    | split
    | dsimp only
    | with_reducible apply hP.upd)

theorem State.loadAsym_kept {m : Prop} {P : State → Prop} (hP : Kept m P) : ∀ s, P s → P (State.loadAsym s) := by
  intros
  unfold State.loadAsym
  repeat' (first
    | with_reducible assumption
    | intro _
    | with_reducible apply State.wr_kept hP
    | with_reducible apply ite_kept (P := P)
    | with_reducible apply foldl_kept (P := P)
    | with_reducible apply foldl_fst_kept (P := P)
    | with_reducible apply foldl_snd_kept (P := P)
    | split
    | dsimp only
    | with_reducible apply hP.upd)

theorem State.dropOutside_kept {m : Prop} {P : State → Prop} (hP : Kept m P) : ∀ s, P s → P (State.dropOutside s) := by
  intros
  unfold State.dropOutside
  repeat' (first
    | with_reducible assumption
    | intro _
    | with_reducible apply State.wrBit_kept hP
    | with_reducible apply State.wr_kept hP
    | with_reducible apply ite_kept (P := P)
    | with_reducible apply foldl_kept (P := P)
    | with_reducible apply foldl_fst_kept (P := P)
    | with_reducible apply foldl_snd_kept (P := P)
    | split
    | dsimp only
    | with_reducible apply hP.upd)

theorem State.writeRecord_kept {m : Prop} {P : State → Prop} (hP : Kept m P) : ∀ s x2, P s → P (State.writeRecord s x2) := by
  intros
  unfold State.writeRecord
  repeat' (first
    | with_reducible assumption
    | intro _
    | with_reducible apply State.extend_kept hP
    | with_reducible apply State.loadAsym_kept hP
    | with_reducible apply State.showCal_kept hP
    | with_reducible apply ite_kept (P := P)
    | with_reducible apply foldl_kept (P := P)
    | with_reducible apply foldl_fst_kept (P := P)
    | with_reducible apply foldl_snd_kept (P := P)
    | split
    | dsimp only
    | with_reducible apply hP.upd)

theorem fwCalibrationRead_kept {m : Prop} {P : State → Prop} (hP : Kept m P) : ∀ x1 x2, Fw.Keeps P (fwCalibrationRead x1 x2) := by
  intros
  unfold fwCalibrationRead
  repeat' (first
    | with_reducible assumption
    | intro _
    | with_reducible apply State.reply_kept hP
    | with_reducible apply ite_kept (P := P)
    | with_reducible apply foldl_kept (P := P)
    | with_reducible apply foldl_fst_kept (P := P)
    | with_reducible apply foldl_snd_kept (P := P)
    | split
    | dsimp only
    | with_reducible apply Fw.Keeps.mk
    | with_reducible apply hP.upd)

theorem execCalibrationRead_kept {m : Prop} {P : State → Prop} (hP : Kept m P) : ∀ x1 x2 s, P s → ∀ t, execCalibrationRead x1 x2 s = .next t → P t := by
  intros
  rename_i e
  unfold execCalibrationRead at e
  cases e
  repeat' (first
    | with_reducible assumption
    | intro _
    | with_reducible apply State.fwCommand_kept hP
    | with_reducible apply fwCalibrationRead_kept hP
    | with_reducible apply ite_kept (P := P)
    | with_reducible apply foldl_kept (P := P)
    | with_reducible apply foldl_fst_kept (P := P)
    | with_reducible apply foldl_snd_kept (P := P)
    | split
    | dsimp only
    | with_reducible apply hP.upd)

theorem fwCalibrationWrite_kept {m : Prop} {P : State → Prop} (hP : Kept m P) : ∀ x1 x2, Fw.Keeps P (fwCalibrationWrite x1 x2) := by
  intros
  unfold fwCalibrationWrite
  repeat' (first
    | with_reducible assumption
    | intro _
    | with_reducible apply State.stage_kept hP
    | with_reducible apply ite_kept (P := P)
    | with_reducible apply foldl_kept (P := P)
    | with_reducible apply foldl_fst_kept (P := P)
    | with_reducible apply foldl_snd_kept (P := P)
    | split
    | dsimp only
    | with_reducible apply Fw.Keeps.mk
    | with_reducible apply hP.upd)

theorem execCalibrationWrite_kept {m : Prop} {P : State → Prop} (hP : Kept m P) : ∀ x1 x2 s, P s → ∀ t, execCalibrationWrite x1 x2 s = .next t → P t := by
  intros
  rename_i e
  unfold execCalibrationWrite at e
  cases e
  repeat' (first
    | with_reducible assumption
    | intro _
    | with_reducible apply State.fwCommand_kept hP
    | with_reducible apply fwCalibrationWrite_kept hP
    | with_reducible apply ite_kept (P := P)
    | with_reducible apply foldl_kept (P := P)
    | with_reducible apply foldl_fst_kept (P := P)
    | with_reducible apply foldl_snd_kept (P := P)
    | split
    | dsimp only
    | with_reducible apply hP.upd)

theorem State.applyCalWrite_kept {m : Prop} {P : State → Prop} (hP : Kept m P) : ∀ s x2 x3, P s → P (State.applyCalWrite s x2 x3) := by
  intros
  unfold State.applyCalWrite
  repeat' (first
    | with_reducible assumption
    | intro _
    | with_reducible apply State.writeRecord_kept hP
    | with_reducible apply State.reply_kept hP
    | with_reducible apply ite_kept (P := P)
    | with_reducible apply foldl_kept (P := P)
    | with_reducible apply foldl_fst_kept (P := P)
    | with_reducible apply foldl_snd_kept (P := P)
    | split
    | dsimp only
    | with_reducible apply hP.upd)

theorem fwCalibrationCommit_kept {m : Prop} {P : State → Prop} (hP : Kept m P) : ∀ x1, Fw.Keeps P (fwCalibrationCommit x1) := by
  intros
  unfold fwCalibrationCommit
  repeat' (first
    | with_reducible assumption
    | intro _
    | with_reducible apply State.stage_kept hP
    | with_reducible apply ite_kept (P := P)
    | with_reducible apply foldl_kept (P := P)
    | with_reducible apply foldl_fst_kept (P := P)
    | with_reducible apply foldl_snd_kept (P := P)
    | split
    | dsimp only
    | with_reducible apply Fw.Keeps.mk
    | with_reducible apply hP.upd)

theorem execCalibrationCommit_kept {m : Prop} {P : State → Prop} (hP : Kept m P) : ∀ x1 s, P s → ∀ t, execCalibrationCommit x1 s = .next t → P t := by
  intros
  rename_i e
  unfold execCalibrationCommit at e
  cases e
  repeat' (first
    | with_reducible assumption
    | intro _
    | with_reducible apply State.fwCommand_kept hP
    | with_reducible apply fwCalibrationCommit_kept hP
    | with_reducible apply ite_kept (P := P)
    | with_reducible apply foldl_kept (P := P)
    | with_reducible apply foldl_fst_kept (P := P)
    | with_reducible apply foldl_snd_kept (P := P)
    | split
    | dsimp only
    | with_reducible apply hP.upd)

theorem State.applyCalCommit_kept {m : Prop} {P : State → Prop} (hP : Kept m P) : ∀ s x2, P s → P (State.applyCalCommit s x2) := by
  intros
  unfold State.applyCalCommit
  repeat' (first
    | with_reducible assumption
    | intro _
    | with_reducible apply State.writeRecord_kept hP
    | with_reducible apply State.reply_kept hP
    | with_reducible apply ite_kept (P := P)
    | with_reducible apply foldl_kept (P := P)
    | with_reducible apply foldl_fst_kept (P := P)
    | with_reducible apply foldl_snd_kept (P := P)
    | split
    | dsimp only
    | with_reducible apply hP.upd)

theorem fwCalibrationRestore_kept {m : Prop} {P : State → Prop} (hP : Kept m P) : ∀ x1 x2 x3 x4, Fw.Keeps P (fwCalibrationRestore x1 x2 x3 x4) := by
  intros
  unfold fwCalibrationRestore
  repeat' (first
    | with_reducible assumption
    | intro _
    | with_reducible apply partFw_kept hP
    | with_reducible apply State.stage_kept hP
    | with_reducible apply secCount_kept hP
    | with_reducible apply ite_kept (P := P)
    | with_reducible apply foldl_kept (P := P)
    | with_reducible apply foldl_fst_kept (P := P)
    | with_reducible apply foldl_snd_kept (P := P)
    | split
    | dsimp only
    | with_reducible apply Fw.Keeps.mk
    | with_reducible apply hP.upd)

theorem execCalibrationRestore_kept {m : Prop} {P : State → Prop} (hP : Kept m P) : ∀ x1 x2 x3 x4 s, P s → ∀ t, execCalibrationRestore x1 x2 x3 x4 s = .next t → P t := by
  intros
  rename_i e
  unfold execCalibrationRestore at e
  cases e
  repeat' (first
    | with_reducible assumption
    | intro _
    | with_reducible apply State.fwCommand_kept hP
    | with_reducible apply fwCalibrationRestore_kept hP
    | with_reducible apply ite_kept (P := P)
    | with_reducible apply foldl_kept (P := P)
    | with_reducible apply foldl_fst_kept (P := P)
    | with_reducible apply foldl_snd_kept (P := P)
    | split
    | dsimp only
    | with_reducible apply hP.upd)

theorem State.applyCalRestore_kept {m : Prop} {P : State → Prop} (hP : Kept m P) : ∀ s x2 x3, P s → P (State.applyCalRestore s x2 x3) := by
  intros
  unfold State.applyCalRestore
  repeat' (first
    | with_reducible assumption
    | intro _
    | with_reducible apply State.extend_kept hP
    | with_reducible apply State.wr_kept hP
    | with_reducible apply State.loadAsym_kept hP
    | with_reducible apply State.dropOutside_kept hP
    | with_reducible apply State.showCal_kept hP
    | with_reducible apply State.reply_kept hP
    | with_reducible apply ite_kept (P := P)
    | with_reducible apply foldl_kept (P := P)
    | with_reducible apply foldl_fst_kept (P := P)
    | with_reducible apply foldl_snd_kept (P := P)
    | split
    | dsimp only
    | with_reducible apply hP.upd)

/-! ### Time -/

theorem execTickSetDirect_kept {m : Prop} {P : State → Prop} (hP : Kept m P) : ∀ x1 x2 x3 x4 s, P s → ∀ t, execTickSetDirect x1 x2 x3 x4 s = .next t → P t := by
  intros
  rename_i e
  unfold execTickSetDirect at e
  cases e
  repeat' (first
    | with_reducible assumption
    | intro _
    | with_reducible apply State.command_kept hP
    | with_reducible apply State.stage_kept hP
    | with_reducible apply ite_kept (P := P)
    | with_reducible apply foldl_kept (P := P)
    | with_reducible apply foldl_fst_kept (P := P)
    | with_reducible apply foldl_snd_kept (P := P)
    | split
    | dsimp only
    | with_reducible apply hP.upd)

theorem execTickSetEffective_kept {m : Prop} {P : State → Prop} (hP : Kept m P) : ∀ x1 x2 x3 s, P s → ∀ t, execTickSetEffective x1 x2 x3 s = .next t → P t := by
  intros
  rename_i e
  unfold execTickSetEffective at e
  cases e
  repeat' (first
    | with_reducible assumption
    | intro _
    | with_reducible apply State.command_kept hP
    | with_reducible apply State.stage_kept hP
    | with_reducible apply ite_kept (P := P)
    | with_reducible apply foldl_kept (P := P)
    | with_reducible apply foldl_fst_kept (P := P)
    | with_reducible apply foldl_snd_kept (P := P)
    | split
    | dsimp only
    | with_reducible apply hP.upd)

theorem State.applyTickDirect_kept {m : Prop} {P : State → Prop} (hP : Kept m P) : ∀ s x2 x3 x4, P s → P (State.applyTickDirect s x2 x3 x4) := by
  intros
  unfold State.applyTickDirect
  repeat' (first
    | with_reducible assumption
    | intro _
    | with_reducible apply State.reply_kept hP
    | with_reducible apply State.wr_kept hP
    | with_reducible apply ite_kept (P := P)
    | with_reducible apply foldl_kept (P := P)
    | with_reducible apply foldl_fst_kept (P := P)
    | with_reducible apply foldl_snd_kept (P := P)
    | split
    | dsimp only
    | with_reducible apply hP.upd)

theorem State.applyTickEffective_kept {m : Prop} {P : State → Prop} (hP : Kept m P) : ∀ s x2 x3 x4, P s → P (State.applyTickEffective s x2 x3 x4) := by
  intros
  unfold State.applyTickEffective
  repeat' (first
    | with_reducible assumption
    | intro _
    | with_reducible apply State.wr_kept hP
    | with_reducible apply State.reply_kept hP
    | with_reducible apply ite_kept (P := P)
    | with_reducible apply foldl_kept (P := P)
    | with_reducible apply foldl_fst_kept (P := P)
    | with_reducible apply foldl_snd_kept (P := P)
    | split
    | dsimp only
    | with_reducible apply hP.upd)

theorem execTimeStep_kept {m : Prop} {P : State → Prop} (hP : Kept m P) : ∀ x1 x2 s, P s → ∀ t, execTimeStep x1 x2 s = .next t → P t := by
  intros
  rename_i e
  unfold execTimeStep at e
  cases e
  repeat' (first
    | with_reducible assumption
    | intro _
    | with_reducible apply State.command_kept hP
    | with_reducible apply State.stage_kept hP
    | with_reducible apply ite_kept (P := P)
    | with_reducible apply foldl_kept (P := P)
    | with_reducible apply foldl_fst_kept (P := P)
    | with_reducible apply foldl_snd_kept (P := P)
    | split
    | dsimp only
    | with_reducible apply hP.upd)

theorem State.applyTimeStep_kept {m : Prop} {P : State → Prop} (hP : Kept m P) : ∀ s x2 x3, P s → P (State.applyTimeStep s x2 x3) := by
  intros
  unfold State.applyTimeStep
  repeat' (first
    | with_reducible assumption
    | intro _
    | with_reducible apply State.reply_kept hP
    | with_reducible apply State.wr_kept hP
    | with_reducible apply ite_kept (P := P)
    | with_reducible apply foldl_kept (P := P)
    | with_reducible apply foldl_fst_kept (P := P)
    | with_reducible apply foldl_snd_kept (P := P)
    | split
    | dsimp only
    | with_reducible apply hP.upd)

theorem State.settleFabric_kept {m : Prop} {P : State → Prop} (hP : Kept m P) : ∀ s, P s → P (State.settleFabric s) := by
  intros
  unfold State.settleFabric
  repeat' (first
    | with_reducible assumption
    | intro _
    | with_reducible apply ite_kept (P := P)
    | with_reducible apply foldl_kept (P := P)
    | with_reducible apply foldl_fst_kept (P := P)
    | with_reducible apply foldl_snd_kept (P := P)
    | split
    | dsimp only
    | with_reducible apply hP.upd)

theorem State.showSources_kept {m : Prop} {P : State → Prop} (hP : Kept m P) : ∀ s, P s → P (State.showSources s) := by
  intros
  unfold State.showSources
  repeat' (first
    | with_reducible assumption
    | intro _
    | with_reducible apply State.wr_kept hP
    | with_reducible apply ite_kept (P := P)
    | with_reducible apply foldl_kept (P := P)
    | with_reducible apply foldl_fst_kept (P := P)
    | with_reducible apply foldl_snd_kept (P := P)
    | split
    | dsimp only
    | with_reducible apply hP.upd)

theorem State.leaveState_kept {m : Prop} {P : State → Prop} (hP : Kept m P) : ∀ s x2, P s → P (State.leaveState s x2) := by
  intros
  unfold State.leaveState
  repeat' (first
    | with_reducible assumption
    | intro _
    | with_reducible apply State.wr_kept hP
    | with_reducible apply ite_kept (P := P)
    | with_reducible apply foldl_kept (P := P)
    | with_reducible apply foldl_fst_kept (P := P)
    | with_reducible apply foldl_snd_kept (P := P)
    | split
    | dsimp only
    | with_reducible apply hP.upd)

theorem State.restartSource_kept {m : Prop} {P : State → Prop} (hP : Kept m P) : ∀ s x2, P s → P (State.restartSource s x2) := by
  intros
  unfold State.restartSource
  repeat' (first
    | with_reducible assumption
    | intro _
    | with_reducible apply ite_kept (P := P)
    | with_reducible apply foldl_kept (P := P)
    | with_reducible apply foldl_fst_kept (P := P)
    | with_reducible apply foldl_snd_kept (P := P)
    | split
    | dsimp only
    | with_reducible apply hP.upd)

theorem State.enterTime_kept {m : Prop} {P : State → Prop} (hP : Kept m P) : ∀ s x2 x3, P s → P (State.enterTime s x2 x3) := by
  intros
  unfold State.enterTime
  repeat' (first
    | with_reducible assumption
    | intro _
    | with_reducible apply State.leaveState_kept hP
    | with_reducible apply State.wr_kept hP
    | with_reducible apply State.restartSource_kept hP
    | with_reducible apply State.eventAs_kept hP
    | with_reducible apply ite_kept (P := P)
    | with_reducible apply foldl_kept (P := P)
    | with_reducible apply foldl_fst_kept (P := P)
    | with_reducible apply foldl_snd_kept (P := P)
    | split
    | dsimp only
    | with_reducible apply hP.upd)

theorem State.leaveSource_kept {m : Prop} {P : State → Prop} (hP : Kept m P) : ∀ s x2, P s → P (State.leaveSource s x2) := by
  intros
  unfold State.leaveSource
  repeat' (first
    | with_reducible assumption
    | intro _
    | with_reducible apply State.enterTime_kept hP
    | with_reducible apply ite_kept (P := P)
    | with_reducible apply foldl_kept (P := P)
    | with_reducible apply foldl_fst_kept (P := P)
    | with_reducible apply foldl_snd_kept (P := P)
    | split
    | dsimp only
    | with_reducible apply hP.upd)

theorem State.discipline_kept {m : Prop} {P : State → Prop} (hP : Kept m P) : ∀ s x2, P s → P (State.discipline s x2) := by
  intros
  unfold State.discipline
  repeat' (first
    | with_reducible assumption
    | intro _
    | with_reducible apply State.wr_kept hP
    | with_reducible apply ite_kept (P := P)
    | with_reducible apply foldl_kept (P := P)
    | with_reducible apply foldl_fst_kept (P := P)
    | with_reducible apply foldl_snd_kept (P := P)
    | split
    | dsimp only
    | with_reducible apply hP.upd)

theorem State.delayReq_kept {m : Prop} {P : State → Prop} (hP : Kept m P) : ∀ s x2, P s → P (State.delayReq s x2) := by
  intros
  unfold State.delayReq
  repeat' (first
    | with_reducible assumption
    | intro _
    | with_reducible apply State.sendFab_kept hP
    | with_reducible apply State.sendTime_kept hP
    | with_reducible apply ite_kept (P := P)
    | with_reducible apply foldl_kept (P := P)
    | with_reducible apply foldl_fst_kept (P := P)
    | with_reducible apply foldl_snd_kept (P := P)
    | split
    | dsimp only
    | with_reducible apply hP.upd)

theorem State.takeSync_kept {m : Prop} {P : State → Prop} (hP : Kept m P) : ∀ s x2, P s → P (State.takeSync s x2) := by
  intros
  unfold State.takeSync
  repeat' (first
    | with_reducible assumption
    | intro _
    | with_reducible apply State.wr_kept hP
    | with_reducible apply State.settleFabric_kept hP
    | with_reducible apply State.showSources_kept hP
    | with_reducible apply State.delayReq_kept hP
    | with_reducible apply ite_kept (P := P)
    | with_reducible apply foldl_kept (P := P)
    | with_reducible apply foldl_fst_kept (P := P)
    | with_reducible apply foldl_snd_kept (P := P)
    | split
    | dsimp only
    | with_reducible apply hP.upd)

theorem State.syncLocked_kept {m : Prop} {P : State → Prop} (hP : Kept m P) : ∀ s x2 x3, P s → P (State.syncLocked s x2 x3) := by
  intros
  unfold State.syncLocked
  repeat' (first
    | with_reducible assumption
    | intro _
    | with_reducible apply State.leaveSource_kept hP
    | with_reducible apply State.enterTime_kept hP
    | with_reducible apply State.discipline_kept hP
    | with_reducible apply ite_kept (P := P)
    | with_reducible apply foldl_kept (P := P)
    | with_reducible apply foldl_fst_kept (P := P)
    | with_reducible apply foldl_snd_kept (P := P)
    | split
    | dsimp only
    | with_reducible apply hP.upd)

theorem State.syncAcquire_kept {m : Prop} {P : State → Prop} (hP : Kept m P) : ∀ s x2 x3, P s → P (State.syncAcquire s x2 x3) := by
  intros
  unfold State.syncAcquire
  repeat' (first
    | with_reducible assumption
    | intro _
    | with_reducible apply State.enterTime_kept hP
    | with_reducible apply State.discipline_kept hP
    | with_reducible apply ite_kept (P := P)
    | with_reducible apply foldl_kept (P := P)
    | with_reducible apply foldl_fst_kept (P := P)
    | with_reducible apply foldl_snd_kept (P := P)
    | split
    | dsimp only
    | with_reducible apply hP.upd)

theorem State.syncFree_kept {m : Prop} {P : State → Prop} (hP : Kept m P) : ∀ s x2 x3, P s → P (State.syncFree s x2 x3) := by
  intros
  unfold State.syncFree
  repeat' (first
    | with_reducible assumption
    | intro _
    | with_reducible apply State.enterTime_kept hP
    | with_reducible apply State.discipline_kept hP
    | with_reducible apply ite_kept (P := P)
    | with_reducible apply foldl_kept (P := P)
    | with_reducible apply foldl_fst_kept (P := P)
    | with_reducible apply foldl_snd_kept (P := P)
    | split
    | dsimp only
    | with_reducible apply hP.upd)

theorem State.ptpMessage_kept {m : Prop} {P : State → Prop} (hP : Kept m P) : ∀ s x2, P s → P (State.ptpMessage s x2) := by
  intros
  unfold State.ptpMessage
  repeat' (first
    | with_reducible assumption
    | intro _
    | with_reducible apply State.keep_kept hP
    | with_reducible apply State.takeSync_kept hP
    | with_reducible apply State.syncFree_kept hP
    | with_reducible apply State.enterTime_kept hP
    | with_reducible apply State.syncLocked_kept hP
    | with_reducible apply State.syncAcquire_kept hP
    | with_reducible apply ite_kept (P := P)
    | with_reducible apply foldl_kept (P := P)
    | with_reducible apply foldl_fst_kept (P := P)
    | with_reducible apply foldl_snd_kept (P := P)
    | split
    | dsimp only
    | with_reducible apply hP.upd)

theorem execPtpMessageReceived_kept {m : Prop} {P : State → Prop} (hP : Kept m P) : ∀ x1 s, P s → ∀ t, execPtpMessageReceived x1 s = .next t → P t := by
  intros
  rename_i e
  unfold execPtpMessageReceived at e
  cases e
  repeat' (first
    | with_reducible assumption
    | intro _
    | with_reducible apply State.ptpMessage_kept hP
    | with_reducible apply ite_kept (P := P)
    | with_reducible apply foldl_kept (P := P)
    | with_reducible apply foldl_fst_kept (P := P)
    | with_reducible apply foldl_snd_kept (P := P)
    | split
    | dsimp only
    | with_reducible apply hP.upd)

theorem State.syncLoss_kept {m : Prop} {P : State → Prop} (hP : Kept m P) : ∀ s, P s → P (State.syncLoss s) := by
  intros
  unfold State.syncLoss
  repeat' (first
    | with_reducible assumption
    | intro _
    | with_reducible apply State.settleFabric_kept hP
    | with_reducible apply State.leaveSource_kept hP
    | with_reducible apply State.showSources_kept hP
    | with_reducible apply ite_kept (P := P)
    | with_reducible apply foldl_kept (P := P)
    | with_reducible apply foldl_fst_kept (P := P)
    | with_reducible apply foldl_snd_kept (P := P)
    | split
    | dsimp only
    | with_reducible apply hP.upd)

theorem execSyncLoss_kept {m : Prop} {P : State → Prop} (hP : Kept m P) : ∀ s, P s → ∀ t, execSyncLoss s = .next t → P t := by
  intros
  rename_i e
  unfold execSyncLoss at e
  cases e
  repeat' (first
    | with_reducible assumption
    | intro _
    | with_reducible apply State.syncLoss_kept hP
    | with_reducible apply ite_kept (P := P)
    | with_reducible apply foldl_kept (P := P)
    | with_reducible apply foldl_fst_kept (P := P)
    | with_reducible apply foldl_snd_kept (P := P)
    | split
    | dsimp only
    | with_reducible apply hP.upd)

theorem State.holdoverExpiry_kept {m : Prop} {P : State → Prop} (hP : Kept m P) : ∀ s, P s → P (State.holdoverExpiry s) := by
  intros
  unfold State.holdoverExpiry
  repeat' (first
    | with_reducible assumption
    | intro _
    | with_reducible apply State.wr_kept hP
    | with_reducible apply State.enterTime_kept hP
    | with_reducible apply ite_kept (P := P)
    | with_reducible apply foldl_kept (P := P)
    | with_reducible apply foldl_fst_kept (P := P)
    | with_reducible apply foldl_snd_kept (P := P)
    | split
    | dsimp only
    | with_reducible apply hP.upd)

theorem execHoldoverExpiry_kept {m : Prop} {P : State → Prop} (hP : Kept m P) : ∀ s, P s → ∀ t, execHoldoverExpiry s = .next t → P t := by
  intros
  rename_i e
  unfold execHoldoverExpiry at e
  cases e
  repeat' (first
    | with_reducible assumption
    | intro _
    | with_reducible apply State.holdoverExpiry_kept hP
    | with_reducible apply ite_kept (P := P)
    | with_reducible apply foldl_kept (P := P)
    | with_reducible apply foldl_fst_kept (P := P)
    | with_reducible apply foldl_snd_kept (P := P)
    | split
    | dsimp only
    | with_reducible apply hP.upd)

theorem execPpsEdge_kept {m : Prop} {P : State → Prop} (hP : Kept m P) : ∀ x1 s, P s → ∀ t, execPpsEdge x1 s = .next t → P t := by
  intros
  rename_i e
  unfold execPpsEdge at e
  cases e
  repeat' (first
    | with_reducible assumption
    | intro _
    | with_reducible apply State.wr_kept hP
    | with_reducible apply ite_kept (P := P)
    | with_reducible apply foldl_kept (P := P)
    | with_reducible apply foldl_fst_kept (P := P)
    | with_reducible apply foldl_snd_kept (P := P)
    | split
    | dsimp only
    | with_reducible apply hP.upd)

theorem State.timePortUp_kept {m : Prop} {P : State → Prop} (hP : Kept m P) : ∀ s x2 x3, P s → P (State.timePortUp s x2 x3) := by
  intros
  unfold State.timePortUp
  repeat' (first
    | with_reducible assumption
    | intro _
    | with_reducible apply State.wr_kept hP
    | with_reducible apply State.ndProbeAll_kept hP
    | with_reducible apply State.showSources_kept hP
    | with_reducible apply ite_kept (P := P)
    | with_reducible apply foldl_kept (P := P)
    | with_reducible apply foldl_fst_kept (P := P)
    | with_reducible apply foldl_snd_kept (P := P)
    | split
    | dsimp only
    | with_reducible apply hP.upd)

theorem execTimePortLinkUp_kept {m : Prop} {P : State → Prop} (hP : Kept m P) : ∀ x1 x2 s, P s → ∀ t, execTimePortLinkUp x1 x2 s = .next t → P t := by
  intros
  rename_i e
  unfold execTimePortLinkUp at e
  cases e
  repeat' (first
    | with_reducible assumption
    | intro _
    | with_reducible apply State.stage_kept hP
    | with_reducible apply State.timePortUp_kept hP
    | with_reducible apply ite_kept (P := P)
    | with_reducible apply foldl_kept (P := P)
    | with_reducible apply foldl_fst_kept (P := P)
    | with_reducible apply foldl_snd_kept (P := P)
    | split
    | dsimp only
    | with_reducible apply hP.upd)

/-! ### Power -/

theorem State.svcFault_kept {m : Prop} {P : State → Prop} (hP : Kept m P) : ∀ s x2 x3 x4 x5 x6, P s → P (State.svcFault s x2 x3 x4 x5 x6) := by
  intros
  unfold State.svcFault
  repeat' (first
    | with_reducible assumption
    | intro _
    | with_reducible apply State.faultRecord_kept hP
    | with_reducible apply State.logClass_kept hP
    | with_reducible apply State.reportFault_kept hP
    | with_reducible apply State.setCrossing_kept hP
    | with_reducible apply ite_kept (P := P)
    | with_reducible apply foldl_kept (P := P)
    | with_reducible apply foldl_fst_kept (P := P)
    | with_reducible apply foldl_snd_kept (P := P)
    | split
    | dsimp only
    | with_reducible apply hP.upd)

theorem State.unpowered_kept {P : State → Prop} (hP : Kept True P) : ∀ s, P s → P (State.unpowered s) := by
  intro s h
  unfold State.unpowered
  exact State.showCal_kept hP _ (State.loadAsym_kept hP _ (foldl_kept (P := P) (hP.bare trivial s _ rfl rfl rfl h) fun _ _ hs => hP.setReg _ _ _ hs))

theorem State.removeRails_kept {P : State → Prop} (hP : Kept True P) : ∀ s x2 x3, P s → P (State.removeRails s x2 x3) := by
  intros
  unfold State.removeRails
  repeat' (first
    | with_reducible assumption
    | intro _
    | with_reducible apply State.faultRecord_kept hP
    | with_reducible apply State.unpowered_kept hP
    | with_reducible apply State.logFault_kept hP
    | with_reducible apply ite_kept (P := P)
    | with_reducible apply foldl_kept (P := P)
    | with_reducible apply foldl_fst_kept (P := P)
    | with_reducible apply foldl_snd_kept (P := P)
    | split
    | dsimp only
    | with_reducible apply hP.upd)

theorem State.setSensor_kept {m : Prop} {P : State → Prop} (hP : Kept m P) : ∀ s x2 x3 x4, P s → P (State.setSensor s x2 x3 x4) := by
  intros
  unfold State.setSensor
  repeat' (first
    | with_reducible assumption
    | intro _
    | with_reducible apply ite_kept (P := P)
    | with_reducible apply foldl_kept (P := P)
    | with_reducible apply foldl_fst_kept (P := P)
    | with_reducible apply foldl_snd_kept (P := P)
    | split
    | dsimp only
    | with_reducible apply hP.upd)

theorem State.showRegion_kept {m : Prop} {P : State → Prop} (hP : Kept m P) : ∀ s x2, P s → P (State.showRegion s x2) := by
  intros
  unfold State.showRegion
  repeat' (first
    | with_reducible assumption
    | intro _
    | with_reducible apply State.wr_kept hP
    | with_reducible apply ite_kept (P := P)
    | with_reducible apply foldl_kept (P := P)
    | with_reducible apply foldl_fst_kept (P := P)
    | with_reducible apply foldl_snd_kept (P := P)
    | split
    | dsimp only
    | with_reducible apply hP.upd)

theorem State.warn_kept {m : Prop} {P : State → Prop} (hP : Kept m P) : ∀ s x2 x3 x4 x5 x6 x7, P s → P (State.warn s x2 x3 x4 x5 x6 x7) := by
  intros
  unfold State.warn
  repeat' (first
    | with_reducible assumption
    | intro _
    | with_reducible apply State.setSensor_kept hP
    | with_reducible apply State.wr_kept hP
    | with_reducible apply State.svcFault_kept hP
    | with_reducible apply ite_kept (P := P)
    | with_reducible apply foldl_kept (P := P)
    | with_reducible apply foldl_fst_kept (P := P)
    | with_reducible apply foldl_snd_kept (P := P)
    | split
    | dsimp only
    | with_reducible apply hP.upd)

theorem State.endImbalance_kept {m : Prop} {P : State → Prop} (hP : Kept m P) : ∀ s, P s → P (State.endImbalance s) := by
  intros
  unfold State.endImbalance
  repeat' (first
    | with_reducible assumption
    | intro _
    | with_reducible apply ite_kept (P := P)
    | with_reducible apply foldl_kept (P := P)
    | with_reducible apply foldl_fst_kept (P := P)
    | with_reducible apply foldl_snd_kept (P := P)
    | split
    | dsimp only
    | with_reducible apply hP.upd)

theorem State.showSensor_kept {m : Prop} {P : State → Prop} (hP : Kept m P) : ∀ s x2 x3, P s → P (State.showSensor s x2 x3) := by
  intros
  unfold State.showSensor
  repeat' (first
    | with_reducible assumption
    | intro _
    | with_reducible apply State.showRegion_kept hP
    | with_reducible apply State.wr_kept hP
    | with_reducible apply State.endImbalance_kept hP
    | with_reducible apply State.warn_kept hP
    | with_reducible apply ite_kept (P := P)
    | with_reducible apply foldl_kept (P := P)
    | with_reducible apply foldl_fst_kept (P := P)
    | with_reducible apply foldl_snd_kept (P := P)
    | split
    | dsimp only
    | with_reducible apply hP.upd)

theorem State.sensorSample_kept {m : Prop} {P : State → Prop} (hP : Kept m P) : ∀ s x2 x3 x4, P s → P (State.sensorSample s x2 x3 x4) := by
  intros
  unfold State.sensorSample
  repeat' (first
    | with_reducible assumption
    | intro _
    | with_reducible apply State.setSensor_kept hP
    | with_reducible apply State.wr_kept hP
    | with_reducible apply State.svcFault_kept hP
    | with_reducible apply State.showSensor_kept hP
    | with_reducible apply ite_kept (P := P)
    | with_reducible apply foldl_kept (P := P)
    | with_reducible apply foldl_fst_kept (P := P)
    | with_reducible apply foldl_snd_kept (P := P)
    | split
    | dsimp only
    | with_reducible apply hP.upd)

theorem execSensorSample_kept {m : Prop} {P : State → Prop} (hP : Kept m P) : ∀ x1 x2 x3 s, P s → ∀ t, execSensorSample x1 x2 x3 s = .next t → P t := by
  intros
  rename_i e
  unfold execSensorSample at e
  cases e
  repeat' (first
    | with_reducible assumption
    | intro _
    | with_reducible apply State.sensorSample_kept hP
    | with_reducible apply ite_kept (P := P)
    | with_reducible apply foldl_kept (P := P)
    | with_reducible apply foldl_fst_kept (P := P)
    | with_reducible apply foldl_snd_kept (P := P)
    | split
    | dsimp only
    | with_reducible apply hP.upd)

theorem State.debounce_kept {m : Prop} {P : State → Prop} (hP : Kept m P) : ∀ s, P s → P (State.debounce s) := by
  intros
  unfold State.debounce
  repeat' (first
    | with_reducible assumption
    | intro _
    | with_reducible apply ite_kept (P := P)
    | with_reducible apply foldl_kept (P := P)
    | with_reducible apply foldl_fst_kept (P := P)
    | with_reducible apply foldl_snd_kept (P := P)
    | split
    | dsimp only
    | with_reducible apply hP.upd)

theorem State.inputFilter_kept {m : Prop} {P : State → Prop} (hP : Kept m P) : ∀ s, P s → P (State.inputFilter s) := by
  intros
  unfold State.inputFilter
  repeat' (first
    | with_reducible assumption
    | intro _
    | with_reducible apply State.debounce_kept hP
    | with_reducible apply State.wr_kept hP
    | with_reducible apply State.svcFault_kept hP
    | with_reducible apply ite_kept (P := P)
    | with_reducible apply foldl_kept (P := P)
    | with_reducible apply foldl_fst_kept (P := P)
    | with_reducible apply foldl_snd_kept (P := P)
    | split
    | dsimp only
    | with_reducible apply hP.upd)

theorem execInputFilterUpdate_kept {m : Prop} {P : State → Prop} (hP : Kept m P) : ∀ s, P s → ∀ t, execInputFilterUpdate s = .next t → P t := by
  intros
  rename_i e
  unfold execInputFilterUpdate at e
  cases e
  repeat' (first
    | with_reducible assumption
    | intro _
    | with_reducible apply State.inputFilter_kept hP
    | with_reducible apply ite_kept (P := P)
    | with_reducible apply foldl_kept (P := P)
    | with_reducible apply foldl_fst_kept (P := P)
    | with_reducible apply foldl_snd_kept (P := P)
    | split
    | dsimp only
    | with_reducible apply hP.upd)

theorem State.entryImbalance_kept {m : Prop} {P : State → Prop} (hP : Kept m P) : ∀ s x2, P s → P (State.entryImbalance s x2) := by
  intros
  unfold State.entryImbalance
  repeat' (first
    | with_reducible assumption
    | intro _
    | with_reducible apply State.wr_kept hP
    | with_reducible apply State.svcFault_kept hP
    | with_reducible apply ite_kept (P := P)
    | with_reducible apply foldl_kept (P := P)
    | with_reducible apply foldl_fst_kept (P := P)
    | with_reducible apply foldl_snd_kept (P := P)
    | split
    | dsimp only
    | with_reducible apply hP.upd)

theorem execEntryImbalance_kept {m : Prop} {P : State → Prop} (hP : Kept m P) : ∀ x1 s, P s → ∀ t, execEntryImbalance x1 s = .next t → P t := by
  intros
  rename_i e
  unfold execEntryImbalance at e
  cases e
  repeat' (first
    | with_reducible assumption
    | intro _
    | with_reducible apply State.entryImbalance_kept hP
    | with_reducible apply ite_kept (P := P)
    | with_reducible apply foldl_kept (P := P)
    | with_reducible apply foldl_fst_kept (P := P)
    | with_reducible apply foldl_snd_kept (P := P)
    | split
    | dsimp only
    | with_reducible apply hP.upd)

theorem State.supplyTrip_kept {P : State → Prop} (hP : Kept True P) : ∀ s x2 x3, P s → P (State.supplyTrip s x2 x3) := by
  intros
  unfold State.supplyTrip
  repeat' (first
    | with_reducible assumption
    | intro _
    | with_reducible apply State.removeRails_kept hP
    | with_reducible apply ite_kept (P := P)
    | with_reducible apply foldl_kept (P := P)
    | with_reducible apply foldl_fst_kept (P := P)
    | with_reducible apply foldl_snd_kept (P := P)
    | split
    | dsimp only
    | with_reducible apply hP.upd)

theorem execSupplyTrip_kept {P : State → Prop} (hP : Kept True P) : ∀ x1 x2 s, P s → ∀ t, execSupplyTrip x1 x2 s = .next t → P t := by
  intros
  rename_i e
  unfold execSupplyTrip at e
  cases e
  repeat' (first
    | with_reducible assumption
    | intro _
    | with_reducible apply State.supplyTrip_kept hP
    | with_reducible apply ite_kept (P := P)
    | with_reducible apply foldl_kept (P := P)
    | with_reducible apply foldl_fst_kept (P := P)
    | with_reducible apply foldl_snd_kept (P := P)
    | split
    | dsimp only
    | with_reducible apply hP.upd)

theorem State.emergencyOff_kept {P : State → Prop} (hP : Kept True P) : ∀ s, P s → P (State.emergencyOff s) := by
  intros
  unfold State.emergencyOff
  repeat' (first
    | with_reducible assumption
    | intro _
    | with_reducible apply State.removeRails_kept hP
    | with_reducible apply ite_kept (P := P)
    | with_reducible apply foldl_kept (P := P)
    | with_reducible apply foldl_fst_kept (P := P)
    | with_reducible apply foldl_snd_kept (P := P)
    | split
    | dsimp only
    | with_reducible apply hP.upd)

theorem execEmergencyOff_kept {P : State → Prop} (hP : Kept True P) : ∀ s, P s → ∀ t, execEmergencyOff s = .next t → P t := by
  intros
  rename_i e
  unfold execEmergencyOff at e
  cases e
  repeat' (first
    | with_reducible assumption
    | intro _
    | with_reducible apply State.emergencyOff_kept hP
    | with_reducible apply ite_kept (P := P)
    | with_reducible apply foldl_kept (P := P)
    | with_reducible apply foldl_fst_kept (P := P)
    | with_reducible apply foldl_snd_kept (P := P)
    | split
    | dsimp only
    | with_reducible apply hP.upd)

theorem State.moduleTrip_kept {P : State → Prop} (hP : Kept True P) : ∀ s x2 x3, P s → P (State.moduleTrip s x2 x3) := by
  intros
  unfold State.moduleTrip
  repeat' (first
    | with_reducible assumption
    | intro _
    | with_reducible apply State.removeRails_kept hP
    | with_reducible apply ite_kept (P := P)
    | with_reducible apply foldl_kept (P := P)
    | with_reducible apply foldl_fst_kept (P := P)
    | with_reducible apply foldl_snd_kept (P := P)
    | split
    | dsimp only
    | with_reducible apply hP.upd)

theorem execModuleThermalTrip_kept {P : State → Prop} (hP : Kept True P) : ∀ x1 x2 s, P s → ∀ t, execModuleThermalTrip x1 x2 s = .next t → P t := by
  intros
  rename_i e
  unfold execModuleThermalTrip at e
  cases e
  repeat' (first
    | with_reducible assumption
    | intro _
    | with_reducible apply State.moduleTrip_kept hP
    | with_reducible apply ite_kept (P := P)
    | with_reducible apply foldl_kept (P := P)
    | with_reducible apply foldl_fst_kept (P := P)
    | with_reducible apply foldl_snd_kept (P := P)
    | split
    | dsimp only
    | with_reducible apply hP.upd)

theorem State.limiterMoves_kept {m : Prop} {P : State → Prop} (hP : Kept m P) : ∀ s, P s → P (State.limiterMoves s) := by
  intros
  unfold State.limiterMoves
  repeat' (first
    | with_reducible assumption
    | intro _
    | with_reducible apply ite_kept (P := P)
    | with_reducible apply foldl_kept (P := P)
    | with_reducible apply foldl_fst_kept (P := P)
    | with_reducible apply foldl_snd_kept (P := P)
    | split
    | dsimp only
    | with_reducible apply hP.upd)

theorem State.slipLess_kept {m : Prop} {P : State → Prop} (hP : Kept m P) : ∀ s x2 x3 x4, P s → P (State.slipLess s x2 x3 x4) := by
  intros
  unfold State.slipLess
  repeat' (first
    | with_reducible assumption
    | intro _
    | with_reducible apply State.schedule_kept hP
    | with_reducible apply ite_kept (P := P)
    | with_reducible apply foldl_kept (P := P)
    | with_reducible apply foldl_fst_kept (P := P)
    | with_reducible apply foldl_snd_kept (P := P)
    | split
    | dsimp only
    | with_reducible apply hP.upd)

theorem State.limiterWords_kept {m : Prop} {P : State → Prop} (hP : Kept m P) : ∀ s x2, P s → P (State.limiterWords s x2) := by
  intros
  unfold State.limiterWords
  repeat' (first
    | with_reducible assumption
    | intro _
    | with_reducible apply State.free_kept hP
    | with_reducible apply State.slipBy_kept hP
    | with_reducible apply State.slipLess_kept hP
    | with_reducible apply ite_kept (P := P)
    | with_reducible apply foldl_kept (P := P)
    | with_reducible apply foldl_fst_kept (P := P)
    | with_reducible apply foldl_snd_kept (P := P)
    | split
    | dsimp only
    | with_reducible apply hP.upd)

theorem State.limiterRise_kept {m : Prop} {P : State → Prop} (hP : Kept m P) : ∀ s, P s → P (State.limiterRise s) := by
  intros
  unfold State.limiterRise
  repeat' (first
    | with_reducible assumption
    | intro _
    | with_reducible apply State.wr_kept hP
    | with_reducible apply State.inc_kept hP
    | with_reducible apply State.limiterMoves_kept hP
    | with_reducible apply State.limited_kept hP
    | with_reducible apply State.limiterWords_kept hP
    | with_reducible apply ite_kept (P := P)
    | with_reducible apply foldl_kept (P := P)
    | with_reducible apply foldl_fst_kept (P := P)
    | with_reducible apply foldl_snd_kept (P := P)
    | split
    | dsimp only
    | with_reducible apply hP.upd)

theorem execLimiterRise_kept {m : Prop} {P : State → Prop} (hP : Kept m P) : ∀ s, P s → ∀ t, execLimiterRise s = .next t → P t := by
  intros
  rename_i e
  unfold execLimiterRise at e
  cases e
  repeat' (first
    | with_reducible assumption
    | intro _
    | with_reducible apply State.limiterRise_kept hP
    | with_reducible apply ite_kept (P := P)
    | with_reducible apply foldl_kept (P := P)
    | with_reducible apply foldl_fst_kept (P := P)
    | with_reducible apply foldl_snd_kept (P := P)
    | split
    | dsimp only
    | with_reducible apply hP.upd)

theorem State.limiterFall_kept {m : Prop} {P : State → Prop} (hP : Kept m P) : ∀ s, P s → P (State.limiterFall s) := by
  intros
  unfold State.limiterFall
  repeat' (first
    | with_reducible assumption
    | intro _
    | with_reducible apply State.limiterMoves_kept hP
    | with_reducible apply State.wr_kept hP
    | with_reducible apply State.limiterWords_kept hP
    | with_reducible apply ite_kept (P := P)
    | with_reducible apply foldl_kept (P := P)
    | with_reducible apply foldl_fst_kept (P := P)
    | with_reducible apply foldl_snd_kept (P := P)
    | split
    | dsimp only
    | with_reducible apply hP.upd)

theorem execLimiterFall_kept {m : Prop} {P : State → Prop} (hP : Kept m P) : ∀ s, P s → ∀ t, execLimiterFall s = .next t → P t := by
  intros
  rename_i e
  unfold execLimiterFall at e
  cases e
  repeat' (first
    | with_reducible assumption
    | intro _
    | with_reducible apply State.limiterFall_kept hP
    | with_reducible apply ite_kept (P := P)
    | with_reducible apply foldl_kept (P := P)
    | with_reducible apply foldl_fst_kept (P := P)
    | with_reducible apply foldl_snd_kept (P := P)
    | split
    | dsimp only
    | with_reducible apply hP.upd)

theorem State.droop_kept {m : Prop} {P : State → Prop} (hP : Kept m P) : ∀ s x2 x3, P s → P (State.droop s x2 x3) := by
  intros
  unfold State.droop
  repeat' (first
    | with_reducible assumption
    | intro _
    | with_reducible apply State.inc_kept hP
    | with_reducible apply State.slipBy_kept hP
    | with_reducible apply ite_kept (P := P)
    | with_reducible apply foldl_kept (P := P)
    | with_reducible apply foldl_fst_kept (P := P)
    | with_reducible apply foldl_snd_kept (P := P)
    | split
    | dsimp only
    | with_reducible apply hP.upd)

theorem execDroopClockStretching_kept {m : Prop} {P : State → Prop} (hP : Kept m P) : ∀ x1 x2 s, P s → ∀ t, execDroopClockStretching x1 x2 s = .next t → P t := by
  intros
  rename_i e
  unfold execDroopClockStretching at e
  cases e
  repeat' (first
    | with_reducible assumption
    | intro _
    | with_reducible apply State.droop_kept hP
    | with_reducible apply ite_kept (P := P)
    | with_reducible apply foldl_kept (P := P)
    | with_reducible apply foldl_fst_kept (P := P)
    | with_reducible apply foldl_snd_kept (P := P)
    | split
    | dsimp only
    | with_reducible apply hP.upd)

theorem State.showGated_kept {m : Prop} {P : State → Prop} (hP : Kept m P) : ∀ s, P s → P (State.showGated s) := by
  intros
  unfold State.showGated
  repeat' (first
    | with_reducible assumption
    | intro _
    | with_reducible apply State.wr_kept hP
    | with_reducible apply ite_kept (P := P)
    | with_reducible apply foldl_kept (P := P)
    | with_reducible apply foldl_fst_kept (P := P)
    | with_reducible apply foldl_snd_kept (P := P)
    | split
    | dsimp only
    | with_reducible apply hP.upd)

theorem State.holdContext_kept {m : Prop} {P : State → Prop} (hP : Kept m P) : ∀ s x2, P s → P (State.holdContext s x2) := by
  intros
  unfold State.holdContext
  repeat' (first
    | with_reducible assumption
    | intro _
    | with_reducible apply State.modCtx_kept hP
    | with_reducible apply State.wr_kept hP
    | with_reducible apply State.modPart_kept hP
    | with_reducible apply State.free_kept hP
    | with_reducible apply State.breach_kept hP
    | with_reducible apply ite_kept (P := P)
    | with_reducible apply foldl_kept (P := P)
    | with_reducible apply foldl_fst_kept (P := P)
    | with_reducible apply foldl_snd_kept (P := P)
    | split
    | dsimp only
    | with_reducible apply hP.upd)

theorem State.holdRegion_kept {P : State → Prop} (hP : Kept True P) : ∀ s x2, P s → P (State.holdRegion s x2) := by
  intros
  unfold State.holdRegion
  repeat' (first
    | with_reducible assumption
    | intro _
    | with_reducible apply State.switchOut_kept hP
    | with_reducible apply State.holdContext_kept hP
    | with_reducible apply ite_kept (P := P)
    | with_reducible apply foldl_kept (P := P)
    | with_reducible apply foldl_fst_kept (P := P)
    | with_reducible apply foldl_snd_kept (P := P)
    | split
    | dsimp only
    | with_reducible apply hP.upd)

theorem State.gateRegion_kept {P : State → Prop} (hP : Kept True P) : ∀ s x2 x3, P s → P (State.gateRegion s x2 x3) := by
  intros
  unfold State.gateRegion
  repeat' (first
    | with_reducible assumption
    | intro _
    | with_reducible apply State.holdRegion_kept hP
    | with_reducible apply State.wr_kept hP
    | with_reducible apply State.inc_kept hP
    | with_reducible apply ite_kept (P := P)
    | with_reducible apply foldl_kept (P := P)
    | with_reducible apply foldl_fst_kept (P := P)
    | with_reducible apply foldl_snd_kept (P := P)
    | split
    | dsimp only
    | with_reducible apply hP.upd)

theorem State.reportGated_kept {m : Prop} {P : State → Prop} (hP : Kept m P) : ∀ s x2, P s → P (State.reportGated s x2) := by
  intros
  unfold State.reportGated
  repeat' (first
    | with_reducible assumption
    | intro _
    | with_reducible apply State.fault_kept hP
    | with_reducible apply ite_kept (P := P)
    | with_reducible apply foldl_kept (P := P)
    | with_reducible apply foldl_fst_kept (P := P)
    | with_reducible apply foldl_snd_kept (P := P)
    | split
    | dsimp only
    | with_reducible apply hP.upd)

theorem State.ungateRegion_kept {P : State → Prop} (hP : Kept True P) : ∀ s x2, P s → P (State.ungateRegion s x2) := by
  intros
  unfold State.ungateRegion
  repeat' (first
    | with_reducible assumption
    | intro _
    | with_reducible apply State.wr_kept hP
    | with_reducible apply State.clearShareIn_kept hP
    | with_reducible apply State.downlinkReleases_kept hP
    | with_reducible apply ite_kept (P := P)
    | with_reducible apply foldl_kept (P := P)
    | with_reducible apply foldl_fst_kept (P := P)
    | with_reducible apply foldl_snd_kept (P := P)
    | split
    | dsimp only
    | with_reducible apply hP.upd)

theorem State.ungatingStart_kept {m : Prop} {P : State → Prop} (hP : Kept m P) : ∀ s x2, P s → P (State.ungatingStart s x2) := by
  intros
  unfold State.ungatingStart
  repeat' (first
    | with_reducible assumption
    | intro _
    | with_reducible apply ite_kept (P := P)
    | with_reducible apply foldl_kept (P := P)
    | with_reducible apply foldl_fst_kept (P := P)
    | with_reducible apply foldl_snd_kept (P := P)
    | split
    | dsimp only
    | with_reducible apply hP.upd)

theorem execUngatingStart_kept {m : Prop} {P : State → Prop} (hP : Kept m P) : ∀ x1 s, P s → ∀ t, execUngatingStart x1 s = .next t → P t := by
  intros
  rename_i e
  unfold execUngatingStart at e
  cases e
  repeat' (first
    | with_reducible assumption
    | intro _
    | with_reducible apply State.ungatingStart_kept hP
    | with_reducible apply ite_kept (P := P)
    | with_reducible apply foldl_kept (P := P)
    | with_reducible apply foldl_fst_kept (P := P)
    | with_reducible apply foldl_snd_kept (P := P)
    | split
    | dsimp only
    | with_reducible apply hP.upd)

theorem State.regionEmergency_kept {P : State → Prop} (hP : Kept True P) : ∀ s x2, P s → P (State.regionEmergency s x2) := by
  intros
  unfold State.regionEmergency
  repeat' (first
    | with_reducible assumption
    | intro _
    | with_reducible apply State.wr_kept hP
    | with_reducible apply State.inc_kept hP
    | with_reducible apply State.fault_kept hP
    | with_reducible apply State.holdRegion_kept hP
    | with_reducible apply State.showGated_kept hP
    | with_reducible apply ite_kept (P := P)
    | with_reducible apply foldl_kept (P := P)
    | with_reducible apply foldl_fst_kept (P := P)
    | with_reducible apply foldl_snd_kept (P := P)
    | split
    | dsimp only
    | with_reducible apply hP.upd)

theorem execRegionEmergency_kept {P : State → Prop} (hP : Kept True P) : ∀ x1 s, P s → ∀ t, execRegionEmergency x1 s = .next t → P t := by
  intros
  rename_i e
  unfold execRegionEmergency at e
  cases e
  repeat' (first
    | with_reducible assumption
    | intro _
    | with_reducible apply State.regionEmergency_kept hP
    | with_reducible apply ite_kept (P := P)
    | with_reducible apply foldl_kept (P := P)
    | with_reducible apply foldl_fst_kept (P := P)
    | with_reducible apply foldl_snd_kept (P := P)
    | split
    | dsimp only
    | with_reducible apply hP.upd)

theorem State.dropField_kept {P : State → Prop} (hP : Kept True P) : ∀ s x2, P s → P (State.dropField s x2) := by
  intros
  unfold State.dropField
  repeat' (first
    | with_reducible assumption
    | intro _
    | with_reducible apply (hP.dropMem trivial)
    | with_reducible apply hP.setReg
    | with_reducible apply hP.dropRegs
    | with_reducible apply ite_kept (P := P)
    | with_reducible apply foldl_kept (P := P)
    | with_reducible apply foldl_fst_kept (P := P)
    | with_reducible apply foldl_snd_kept (P := P)
    | split
    | dsimp only
    | with_reducible apply hP.upd)

theorem State.converterFailure_kept {P : State → Prop} (hP : Kept True P) : ∀ s x2, P s → P (State.converterFailure s x2) := by
  intros
  unfold State.converterFailure
  repeat' (first
    | with_reducible assumption
    | intro _
    | with_reducible apply State.free_kept hP
    | with_reducible apply State.fault_kept hP
    | with_reducible apply State.loseFields_kept hP
    | with_reducible apply State.dropField_kept hP
    | with_reducible apply ite_kept (P := P)
    | with_reducible apply foldl_kept (P := P)
    | with_reducible apply foldl_fst_kept (P := P)
    | with_reducible apply foldl_snd_kept (P := P)
    | split
    | dsimp only
    | with_reducible apply hP.upd)

theorem execFieldConverterFailure_kept {P : State → Prop} (hP : Kept True P) : ∀ x1 s, P s → ∀ t, execFieldConverterFailure x1 s = .next t → P t := by
  intros
  rename_i e
  unfold execFieldConverterFailure at e
  cases e
  repeat' (first
    | with_reducible assumption
    | intro _
    | with_reducible apply State.converterFailure_kept hP
    | with_reducible apply ite_kept (P := P)
    | with_reducible apply foldl_kept (P := P)
    | with_reducible apply foldl_fst_kept (P := P)
    | with_reducible apply foldl_snd_kept (P := P)
    | split
    | dsimp only
    | with_reducible apply hP.upd)

theorem State.testEnvelopes_kept {m : Prop} {P : State → Prop} (hP : Kept m P) : ∀ s, P s → P (State.testEnvelopes s) := by
  intros
  unfold State.testEnvelopes
  repeat' (first
    | with_reducible assumption
    | intro _
    | with_reducible apply State.wrBit_kept hP
    | with_reducible apply State.fault_kept hP
    | with_reducible apply State.wr_kept hP
    | with_reducible apply ite_kept (P := P)
    | with_reducible apply foldl_kept (P := P)
    | with_reducible apply foldl_fst_kept (P := P)
    | with_reducible apply foldl_snd_kept (P := P)
    | split
    | dsimp only
    | with_reducible apply hP.upd)

theorem State.learnStep_kept {m : Prop} {P : State → Prop} (hP : Kept m P) : ∀ s, P s → P (State.learnStep s) := by
  intros
  unfold State.learnStep
  repeat' (first
    | with_reducible assumption
    | intro _
    | with_reducible apply State.showCal_kept hP
    | with_reducible apply State.inc_kept hP
    | with_reducible apply ite_kept (P := P)
    | with_reducible apply foldl_kept (P := P)
    | with_reducible apply foldl_fst_kept (P := P)
    | with_reducible apply foldl_snd_kept (P := P)
    | split
    | dsimp only
    | with_reducible apply hP.upd)

theorem State.activities_kept {m : Prop} {P : State → Prop} (hP : Kept m P) : ∀ s x2, P s → P (State.activities s x2).2 := by
  intros
  unfold State.activities
  repeat' (first
    | with_reducible assumption
    | intro _
    | with_reducible apply State.free_kept hP
    | with_reducible apply ite_kept (P := P)
    | with_reducible apply foldl_kept (P := P)
    | with_reducible apply foldl_fst_kept (P := P)
    | with_reducible apply foldl_snd_kept (P := P)
    | split
    | dsimp only
    | with_reducible apply hP.upd)

theorem State.portTraffic_kept {m : Prop} {P : State → Prop} (hP : Kept m P) : ∀ s, P s → P (State.portTraffic s).2 := by
  intros
  unfold State.portTraffic
  repeat' (first
    | with_reducible assumption
    | intro _
    | with_reducible apply State.free_kept hP
    | with_reducible apply ite_kept (P := P)
    | with_reducible apply foldl_kept (P := P)
    | with_reducible apply foldl_fst_kept (P := P)
    | with_reducible apply foldl_snd_kept (P := P)
    | split
    | dsimp only
    | with_reducible apply hP.upd)

theorem State.clockBreach_kept {m : Prop} {P : State → Prop} (hP : Kept m P) : ∀ s x2 x3 x4 x5, P s → P (State.clockBreach s x2 x3 x4 x5) := by
  intros
  unfold State.clockBreach
  repeat' (first
    | with_reducible assumption
    | intro _
    | with_reducible apply State.modPart_kept hP
    | with_reducible apply State.breach_kept hP
    | with_reducible apply ite_kept (P := P)
    | with_reducible apply foldl_kept (P := P)
    | with_reducible apply foldl_fst_kept (P := P)
    | with_reducible apply foldl_snd_kept (P := P)
    | split
    | dsimp only
    | with_reducible apply hP.upd)

theorem State.govern_kept {m : Prop} {P : State → Prop} (hP : Kept m P) : ∀ s x2, P s → P (State.govern s x2) := by
  intros
  unfold State.govern
  repeat' (first
    | with_reducible assumption
    | intro _
    | with_reducible apply State.learnStep_kept hP
    | with_reducible apply State.activities_kept hP
    | with_reducible apply State.portTraffic_kept hP
    | with_reducible apply State.limited_kept hP
    | with_reducible apply State.wr_kept hP
    | with_reducible apply State.inc_kept hP
    | with_reducible apply State.clockBreach_kept hP
    | with_reducible apply hP.setReg
    | with_reducible apply ite_kept (P := P)
    | with_reducible apply foldl_kept (P := P)
    | with_reducible apply foldl_fst_kept (P := P)
    | with_reducible apply foldl_snd_kept (P := P)
    | split
    | dsimp only
    | with_reducible apply hP.upd)

theorem fwPowerCapSet_kept {m : Prop} {P : State → Prop} (hP : Kept m P) : ∀ x1 x2, Fw.Keeps P (fwPowerCapSet x1 x2) := by
  intros
  unfold fwPowerCapSet
  repeat' (first
    | with_reducible assumption
    | intro _
    | with_reducible apply State.stage_kept hP
    | with_reducible apply ite_kept (P := P)
    | with_reducible apply foldl_kept (P := P)
    | with_reducible apply foldl_fst_kept (P := P)
    | with_reducible apply foldl_snd_kept (P := P)
    | split
    | dsimp only
    | with_reducible apply Fw.Keeps.mk
    | with_reducible apply hP.upd)

theorem execPowerCapSet_kept {m : Prop} {P : State → Prop} (hP : Kept m P) : ∀ x1 x2 s, P s → ∀ t, execPowerCapSet x1 x2 s = .next t → P t := by
  intros
  rename_i e
  unfold execPowerCapSet at e
  cases e
  repeat' (first
    | with_reducible assumption
    | intro _
    | with_reducible apply State.fwCommand_kept hP
    | with_reducible apply fwPowerCapSet_kept hP
    | with_reducible apply ite_kept (P := P)
    | with_reducible apply foldl_kept (P := P)
    | with_reducible apply foldl_fst_kept (P := P)
    | with_reducible apply foldl_snd_kept (P := P)
    | split
    | dsimp only
    | with_reducible apply hP.upd)

theorem State.applyCap_kept {m : Prop} {P : State → Prop} (hP : Kept m P) : ∀ s x2 x3, P s → P (State.applyCap s x2 x3) := by
  intros
  unfold State.applyCap
  repeat' (first
    | with_reducible assumption
    | intro _
    | with_reducible apply State.wr_kept hP
    | with_reducible apply State.reply_kept hP
    | with_reducible apply ite_kept (P := P)
    | with_reducible apply foldl_kept (P := P)
    | with_reducible apply foldl_fst_kept (P := P)
    | with_reducible apply foldl_snd_kept (P := P)
    | split
    | dsimp only
    | with_reducible apply hP.upd)

theorem fwSensorRead_kept {m : Prop} {P : State → Prop} (hP : Kept m P) : ∀ x1, Fw.Keeps P (fwSensorRead x1) := by
  intros
  unfold fwSensorRead
  repeat' (first
    | with_reducible assumption
    | intro _
    | with_reducible apply State.reply_kept hP
    | with_reducible apply ite_kept (P := P)
    | with_reducible apply foldl_kept (P := P)
    | with_reducible apply foldl_fst_kept (P := P)
    | with_reducible apply foldl_snd_kept (P := P)
    | split
    | dsimp only
    | with_reducible apply Fw.Keeps.mk
    | with_reducible apply hP.upd)

theorem execSensorRead_kept {m : Prop} {P : State → Prop} (hP : Kept m P) : ∀ x1 s, P s → ∀ t, execSensorRead x1 s = .next t → P t := by
  intros
  rename_i e
  unfold execSensorRead at e
  cases e
  repeat' (first
    | with_reducible assumption
    | intro _
    | with_reducible apply State.fwCommand_kept hP
    | with_reducible apply fwSensorRead_kept hP
    | with_reducible apply ite_kept (P := P)
    | with_reducible apply foldl_kept (P := P)
    | with_reducible apply foldl_fst_kept (P := P)
    | with_reducible apply foldl_snd_kept (P := P)
    | split
    | dsimp only
    | with_reducible apply hP.upd)

theorem fwThermalStatus_kept {m : Prop} {P : State → Prop} (hP : Kept m P) : ∀ x1, Fw.Keeps P (fwThermalStatus x1) := by
  intros
  unfold fwThermalStatus
  repeat' (first
    | with_reducible assumption
    | intro _
    | with_reducible apply State.reply_kept hP
    | with_reducible apply ite_kept (P := P)
    | with_reducible apply foldl_kept (P := P)
    | with_reducible apply foldl_fst_kept (P := P)
    | with_reducible apply foldl_snd_kept (P := P)
    | split
    | dsimp only
    | with_reducible apply Fw.Keeps.mk
    | with_reducible apply hP.upd)

theorem execThermalStatus_kept {m : Prop} {P : State → Prop} (hP : Kept m P) : ∀ x1 s, P s → ∀ t, execThermalStatus x1 s = .next t → P t := by
  intros
  rename_i e
  unfold execThermalStatus at e
  cases e
  repeat' (first
    | with_reducible assumption
    | intro _
    | with_reducible apply State.fwCommand_kept hP
    | with_reducible apply fwThermalStatus_kept hP
    | with_reducible apply ite_kept (P := P)
    | with_reducible apply foldl_kept (P := P)
    | with_reducible apply foldl_fst_kept (P := P)
    | with_reducible apply foldl_snd_kept (P := P)
    | split
    | dsimp only
    | with_reducible apply hP.upd)

/-! ### Cdc -/

theorem State.crossingLast_kept {m : Prop} {P : State → Prop} (hP : Kept m P) : ∀ s x2, P s → P (State.crossingLast s x2) := by
  intros
  unfold State.crossingLast
  repeat' (first
    | with_reducible assumption
    | intro _
    | with_reducible apply State.wr_kept hP
    | with_reducible apply ite_kept (P := P)
    | with_reducible apply foldl_kept (P := P)
    | with_reducible apply foldl_fst_kept (P := P)
    | with_reducible apply foldl_snd_kept (P := P)
    | split
    | dsimp only
    | with_reducible apply hP.upd)

theorem State.crossingFault5_kept {m : Prop} {P : State → Prop} (hP : Kept m P) : ∀ s x2, P s → P (State.crossingFault5 s x2) := by
  intros
  unfold State.crossingFault5
  repeat' (first
    | with_reducible assumption
    | intro _
    | with_reducible apply State.fault_kept hP
    | with_reducible apply State.moduleFault_kept hP
    | with_reducible apply ite_kept (P := P)
    | with_reducible apply foldl_kept (P := P)
    | with_reducible apply foldl_fst_kept (P := P)
    | with_reducible apply foldl_snd_kept (P := P)
    | split
    | dsimp only
    | with_reducible apply hP.upd)

theorem State.downlinkStopped_kept {m : Prop} {P : State → Prop} (hP : Kept m P) : ∀ s x2, P s → P (State.downlinkStopped s x2) := by
  intros
  unfold State.downlinkStopped
  repeat' (first
    | with_reducible assumption
    | intro _
    | with_reducible apply State.wr_kept hP
    | with_reducible apply State.fault_kept hP
    | with_reducible apply State.markBad_kept hP
    | with_reducible apply ite_kept (P := P)
    | with_reducible apply foldl_kept (P := P)
    | with_reducible apply foldl_fst_kept (P := P)
    | with_reducible apply foldl_snd_kept (P := P)
    | split
    | dsimp only
    | with_reducible apply hP.upd)

theorem State.portDieStopped_kept {m : Prop} {P : State → Prop} (hP : Kept m P) : ∀ s x2, P s → P (State.portDieStopped s x2) := by
  intros
  unfold State.portDieStopped
  repeat' (first
    | with_reducible assumption
    | intro _
    | with_reducible apply State.fault_kept hP
    | with_reducible apply State.disablePort_kept hP
    | with_reducible apply ite_kept (P := P)
    | with_reducible apply foldl_kept (P := P)
    | with_reducible apply foldl_fst_kept (P := P)
    | with_reducible apply foldl_snd_kept (P := P)
    | split
    | dsimp only
    | with_reducible apply hP.upd)

theorem State.tickStartStopped_kept {m : Prop} {P : State → Prop} (hP : Kept m P) : ∀ s x2, P s → P (State.tickStartStopped s x2) := by
  intros
  unfold State.tickStartStopped
  repeat' (first
    | with_reducible assumption
    | intro _
    | with_reducible apply State.fault_kept hP
    | with_reducible apply ite_kept (P := P)
    | with_reducible apply foldl_kept (P := P)
    | with_reducible apply foldl_fst_kept (P := P)
    | with_reducible apply foldl_snd_kept (P := P)
    | split
    | dsimp only
    | with_reducible apply hP.upd)

theorem State.timePortStopped_kept {m : Prop} {P : State → Prop} (hP : Kept m P) : ∀ s x2, P s → P (State.timePortStopped s x2) := by
  intros
  unfold State.timePortStopped
  repeat' (first
    | with_reducible assumption
    | intro _
    | with_reducible apply State.syncLoss_kept hP
    | with_reducible apply ite_kept (P := P)
    | with_reducible apply foldl_kept (P := P)
    | with_reducible apply foldl_fst_kept (P := P)
    | with_reducible apply foldl_snd_kept (P := P)
    | split
    | dsimp only
    | with_reducible apply hP.upd)

theorem State.crossingAction_kept {m : Prop} {P : State → Prop} (hP : Kept m P) : ∀ s x2 x3, P s → P (State.crossingAction s x2 x3) := by
  intros
  unfold State.crossingAction
  repeat' (first
    | with_reducible assumption
    | intro _
    | with_reducible apply State.downlinkStopped_kept hP
    | with_reducible apply State.loseStack_kept hP
    | with_reducible apply State.portDieStopped_kept hP
    | with_reducible apply State.tickStartStopped_kept hP
    | with_reducible apply State.fault_kept hP
    | with_reducible apply State.timePortStopped_kept hP
    | with_reducible apply State.crossingFault5_kept hP
    | with_reducible apply ite_kept (P := P)
    | with_reducible apply foldl_kept (P := P)
    | with_reducible apply foldl_fst_kept (P := P)
    | with_reducible apply foldl_snd_kept (P := P)
    | split
    | dsimp only
    | with_reducible apply hP.upd)

theorem State.failHeld_kept {m : Prop} {P : State → Prop} (hP : Kept m P) : ∀ s x2, P s → P (State.failHeld s x2) := by
  intros
  unfold State.failHeld
  repeat' (first
    | with_reducible assumption
    | intro _
    | with_reducible apply State.reply_kept hP
    | with_reducible apply ite_kept (P := P)
    | with_reducible apply foldl_kept (P := P)
    | with_reducible apply foldl_fst_kept (P := P)
    | with_reducible apply foldl_snd_kept (P := P)
    | split
    | dsimp only
    | with_reducible apply hP.upd)

theorem State.stopCrossing_kept {m : Prop} {P : State → Prop} (hP : Kept m P) : ∀ s x2, P s → P (State.stopCrossing s x2) := by
  intros
  unfold State.stopCrossing
  repeat' (first
    | with_reducible assumption
    | intro _
    | with_reducible apply State.setCrossing_kept hP
    | with_reducible apply State.failPacket_kept hP
    | with_reducible apply State.failHeld_kept hP
    | with_reducible apply ite_kept (P := P)
    | with_reducible apply foldl_kept (P := P)
    | with_reducible apply foldl_fst_kept (P := P)
    | with_reducible apply foldl_snd_kept (P := P)
    | split
    | dsimp only
    | with_reducible apply hP.upd)

theorem State.crossingTimeout_kept {m : Prop} {P : State → Prop} (hP : Kept m P) : ∀ s x2 x3, P s → P (State.crossingTimeout s x2 x3) := by
  intros
  unfold State.crossingTimeout
  repeat' (first
    | with_reducible assumption
    | intro _
    | with_reducible apply State.raiseWake_kept hP
    | with_reducible apply State.stopCrossing_kept hP
    | with_reducible apply State.wrBit_kept hP
    | with_reducible apply State.crossingLast_kept hP
    | with_reducible apply State.crossingAction_kept hP
    | with_reducible apply ite_kept (P := P)
    | with_reducible apply foldl_kept (P := P)
    | with_reducible apply foldl_fst_kept (P := P)
    | with_reducible apply foldl_snd_kept (P := P)
    | split
    | dsimp only
    | with_reducible apply hP.upd)

theorem execCrossingTimeout_kept {m : Prop} {P : State → Prop} (hP : Kept m P) : ∀ x1 x2 s, P s → ∀ t, execCrossingTimeout x1 x2 s = .next t → P t := by
  intros
  rename_i e
  unfold execCrossingTimeout at e
  cases e
  repeat' (first
    | with_reducible assumption
    | intro _
    | with_reducible apply State.crossingTimeout_kept hP
    | with_reducible apply ite_kept (P := P)
    | with_reducible apply foldl_kept (P := P)
    | with_reducible apply foldl_fst_kept (P := P)
    | with_reducible apply foldl_snd_kept (P := P)
    | split
    | dsimp only
    | with_reducible apply hP.upd)

theorem State.crossingWake_kept {m : Prop} {P : State → Prop} (hP : Kept m P) : ∀ s x2 x3, P s → P (State.crossingWake s x2 x3) := by
  intros
  unfold State.crossingWake
  repeat' (first
    | with_reducible assumption
    | intro _
    | with_reducible apply State.raiseWake_kept hP
    | with_reducible apply ite_kept (P := P)
    | with_reducible apply foldl_kept (P := P)
    | with_reducible apply foldl_fst_kept (P := P)
    | with_reducible apply foldl_snd_kept (P := P)
    | split
    | dsimp only
    | with_reducible apply hP.upd)

theorem execCrossingWake_kept {m : Prop} {P : State → Prop} (hP : Kept m P) : ∀ x1 x2 s, P s → ∀ t, execCrossingWake x1 x2 s = .next t → P t := by
  intros
  rename_i e
  unfold execCrossingWake at e
  cases e
  repeat' (first
    | with_reducible assumption
    | intro _
    | with_reducible apply State.crossingWake_kept hP
    | with_reducible apply ite_kept (P := P)
    | with_reducible apply foldl_kept (P := P)
    | with_reducible apply foldl_fst_kept (P := P)
    | with_reducible apply foldl_snd_kept (P := P)
    | split
    | dsimp only
    | with_reducible apply hP.upd)

theorem State.wakeTimeout_kept {m : Prop} {P : State → Prop} (hP : Kept m P) : ∀ s x2 x3, P s → P (State.wakeTimeout s x2 x3) := by
  intros
  unfold State.wakeTimeout
  repeat' (first
    | with_reducible assumption
    | intro _
    | with_reducible apply State.stopCrossing_kept hP
    | with_reducible apply State.wrBit_kept hP
    | with_reducible apply State.crossingLast_kept hP
    | with_reducible apply State.fault_kept hP
    | with_reducible apply State.crossingFault5_kept hP
    | with_reducible apply ite_kept (P := P)
    | with_reducible apply foldl_kept (P := P)
    | with_reducible apply foldl_fst_kept (P := P)
    | with_reducible apply foldl_snd_kept (P := P)
    | split
    | dsimp only
    | with_reducible apply hP.upd)

theorem execWakeTimeout_kept {m : Prop} {P : State → Prop} (hP : Kept m P) : ∀ x1 x2 s, P s → ∀ t, execWakeTimeout x1 x2 s = .next t → P t := by
  intros
  rename_i e
  unfold execWakeTimeout at e
  cases e
  repeat' (first
    | with_reducible assumption
    | intro _
    | with_reducible apply State.wakeTimeout_kept hP
    | with_reducible apply ite_kept (P := P)
    | with_reducible apply foldl_kept (P := P)
    | with_reducible apply foldl_fst_kept (P := P)
    | with_reducible apply foldl_snd_kept (P := P)
    | split
    | dsimp only
    | with_reducible apply hP.upd)

theorem State.lateTick_kept {m : Prop} {P : State → Prop} (hP : Kept m P) : ∀ s x2 x3, P s → P (State.lateTick s x2 x3) := by
  intros
  unfold State.lateTick
  repeat' (first
    | with_reducible assumption
    | intro _
    | with_reducible apply State.startTile_kept hP
    | with_reducible apply ite_kept (P := P)
    | with_reducible apply foldl_kept (P := P)
    | with_reducible apply foldl_fst_kept (P := P)
    | with_reducible apply foldl_snd_kept (P := P)
    | split
    | dsimp only
    | with_reducible apply hP.upd)

theorem State.lateReports_kept {m : Prop} {P : State → Prop} (hP : Kept m P) : ∀ s, P s → P (State.lateReports s) := by
  intros
  unfold State.lateReports
  repeat' (first
    | with_reducible assumption
    | intro _
    | with_reducible apply State.reportFault_kept hP
    | with_reducible apply ite_kept (P := P)
    | with_reducible apply foldl_kept (P := P)
    | with_reducible apply foldl_fst_kept (P := P)
    | with_reducible apply foldl_snd_kept (P := P)
    | split
    | dsimp only
    | with_reducible apply hP.upd)

theorem State.crossingRestart_kept {m : Prop} {P : State → Prop} (hP : Kept m P) : ∀ s x2 x3, P s → P (State.crossingRestart s x2 x3) := by
  intros
  unfold State.crossingRestart
  repeat' (first
    | with_reducible assumption
    | intro _
    | with_reducible apply State.setCrossing_kept hP
    | with_reducible apply State.lateTick_kept hP
    | with_reducible apply State.lateReports_kept hP
    | with_reducible apply ite_kept (P := P)
    | with_reducible apply foldl_kept (P := P)
    | with_reducible apply foldl_fst_kept (P := P)
    | with_reducible apply foldl_snd_kept (P := P)
    | split
    | dsimp only
    | with_reducible apply hP.upd)

theorem execCrossingRestart_kept {m : Prop} {P : State → Prop} (hP : Kept m P) : ∀ x1 x2 s, P s → ∀ t, execCrossingRestart x1 x2 s = .next t → P t := by
  intros
  rename_i e
  unfold execCrossingRestart at e
  cases e
  repeat' (first
    | with_reducible assumption
    | intro _
    | with_reducible apply State.crossingRestart_kept hP
    | with_reducible apply ite_kept (P := P)
    | with_reducible apply foldl_kept (P := P)
    | with_reducible apply foldl_fst_kept (P := P)
    | with_reducible apply foldl_snd_kept (P := P)
    | split
    | dsimp only
    | with_reducible apply hP.upd)

/-! ### Bringup -/

theorem execFaultLogRead_kept {m : Prop} {P : State → Prop} (hP : Kept m P) : ∀ x1 x2 x3 s, P s → ∀ t, execFaultLogRead x1 x2 x3 s = .next t → P t := by
  intros
  rename_i e
  unfold execFaultLogRead at e
  cases e
  repeat' (first
    | with_reducible assumption
    | intro _
    | with_reducible apply State.command_kept hP
    | with_reducible apply State.count_kept hP
    | with_reducible apply State.reply_kept hP
    | with_reducible apply ite_kept (P := P)
    | with_reducible apply foldl_kept (P := P)
    | with_reducible apply foldl_fst_kept (P := P)
    | with_reducible apply foldl_snd_kept (P := P)
    | split
    | dsimp only
    | with_reducible apply hP.upd)

theorem State.standbyArrival_kept {m : Prop} {P : State → Prop} (hP : Kept m P) : ∀ s, P s → P (State.standbyArrival s) := by
  intros
  unfold State.standbyArrival
  repeat' (first
    | with_reducible assumption
    | intro _
    | with_reducible apply hP.setReg
    | with_reducible apply State.wr_kept hP
    | with_reducible apply State.svcFault_kept hP
    | with_reducible apply State.loadAsym_kept hP
    | with_reducible apply State.showCal_kept hP
    | with_reducible apply ite_kept (P := P)
    | with_reducible apply foldl_kept (P := P)
    | with_reducible apply foldl_fst_kept (P := P)
    | with_reducible apply foldl_snd_kept (P := P)
    | split
    | dsimp only
    | with_reducible apply hP.upd)

theorem execStandbyPowerArrival_kept {m : Prop} {P : State → Prop} (hP : Kept m P) : ∀ s, P s → ∀ t, execStandbyPowerArrival s = .next t → P t := by
  intros
  rename_i e
  unfold execStandbyPowerArrival at e
  cases e
  repeat' (first
    | with_reducible assumption
    | intro _
    | with_reducible apply State.standbyArrival_kept hP
    | with_reducible apply ite_kept (P := P)
    | with_reducible apply foldl_kept (P := P)
    | with_reducible apply foldl_fst_kept (P := P)
    | with_reducible apply foldl_snd_kept (P := P)
    | split
    | dsimp only
    | with_reducible apply hP.upd)

theorem State.resetMeasured_kept {m : Prop} {P : State → Prop} (hP : Kept m P) : ∀ s, P s → P (State.resetMeasured s) := by
  intros
  unfold State.resetMeasured
  repeat' (first
    | with_reducible assumption
    | intro _
    | with_reducible apply hP.setReg
    | with_reducible apply ite_kept (P := P)
    | with_reducible apply foldl_kept (P := P)
    | with_reducible apply foldl_fst_kept (P := P)
    | with_reducible apply foldl_snd_kept (P := P)
    | split
    | dsimp only
    | with_reducible apply hP.upd)

theorem State.standbyLoss_kept {P : State → Prop} (hP : Kept True P) : ∀ s, P s → P (State.standbyLoss s) := by
  intros
  unfold State.standbyLoss
  repeat' (first
    | with_reducible assumption
    | intro _
    | with_reducible apply State.unpowered_kept hP
    | with_reducible apply hP.setReg
    | with_reducible apply State.resetMeasured_kept hP
    | with_reducible apply ite_kept (P := P)
    | with_reducible apply foldl_kept (P := P)
    | with_reducible apply foldl_fst_kept (P := P)
    | with_reducible apply foldl_snd_kept (P := P)
    | split
    | dsimp only
    | with_reducible apply hP.upd)

theorem execStandbyPowerLoss_kept {P : State → Prop} (hP : Kept True P) : ∀ s, P s → ∀ t, execStandbyPowerLoss s = .next t → P t := by
  intros
  rename_i e
  unfold execStandbyPowerLoss at e
  cases e
  repeat' (first
    | with_reducible assumption
    | intro _
    | with_reducible apply State.standbyLoss_kept hP
    | with_reducible apply ite_kept (P := P)
    | with_reducible apply foldl_kept (P := P)
    | with_reducible apply foldl_fst_kept (P := P)
    | with_reducible apply foldl_snd_kept (P := P)
    | split
    | dsimp only
    | with_reducible apply hP.upd)

theorem execInputApplied_kept {m : Prop} {P : State → Prop} (hP : Kept m P) : ∀ s, P s → ∀ t, execInputApplied s = .next t → P t := by
  intros
  rename_i e
  unfold execInputApplied at e
  cases e
  repeat' (first
    | with_reducible assumption
    | intro _
    | with_reducible apply ite_kept (P := P)
    | with_reducible apply foldl_kept (P := P)
    | with_reducible apply foldl_fst_kept (P := P)
    | with_reducible apply foldl_snd_kept (P := P)
    | split
    | dsimp only
    | with_reducible apply hP.upd)

theorem execPrechargeComplete_kept {m : Prop} {P : State → Prop} (hP : Kept m P) : ∀ x1 s, P s → ∀ t, execPrechargeComplete x1 s = .next t → P t := by
  intros
  rename_i e
  unfold execPrechargeComplete at e
  cases e
  repeat' (first
    | with_reducible assumption
    | intro _
    | with_reducible apply ite_kept (P := P)
    | with_reducible apply foldl_kept (P := P)
    | with_reducible apply foldl_fst_kept (P := P)
    | with_reducible apply foldl_snd_kept (P := P)
    | split
    | dsimp only
    | with_reducible apply hP.upd)

theorem State.powerOn_kept {m : Prop} {P : State → Prop} (hP : Kept m P) : ∀ s, P s → P (State.powerOn s) := by
  intros
  unfold State.powerOn
  repeat' (first
    | with_reducible assumption
    | intro _
    | with_reducible apply State.stage_kept hP
    | with_reducible apply State.wr_kept hP
    | with_reducible apply ite_kept (P := P)
    | with_reducible apply foldl_kept (P := P)
    | with_reducible apply foldl_fst_kept (P := P)
    | with_reducible apply foldl_snd_kept (P := P)
    | split
    | dsimp only
    | with_reducible apply hP.upd)

theorem State.abortStage_kept {P : State → Prop} (hP : Kept True P) : ∀ s x2, P s → P (State.abortStage s x2) := by
  intros
  unfold State.abortStage
  repeat' (first
    | with_reducible assumption
    | intro _
    | with_reducible apply State.removeRails_kept hP
    | with_reducible apply State.wr_kept hP
    | with_reducible apply ite_kept (P := P)
    | with_reducible apply foldl_kept (P := P)
    | with_reducible apply foldl_fst_kept (P := P)
    | with_reducible apply foldl_snd_kept (P := P)
    | split
    | dsimp only
    | with_reducible apply hP.upd)

theorem State.preconditionsFail_kept {m : Prop} {P : State → Prop} (hP : Kept m P) : ∀ s, P s → P (State.preconditionsFail s) := by
  intros
  unfold State.preconditionsFail
  repeat' (first
    | with_reducible assumption
    | intro _
    | with_reducible apply State.stage_kept hP
    | with_reducible apply State.wr_kept hP
    | with_reducible apply State.svcFault_kept hP
    | with_reducible apply ite_kept (P := P)
    | with_reducible apply foldl_kept (P := P)
    | with_reducible apply foldl_fst_kept (P := P)
    | with_reducible apply foldl_snd_kept (P := P)
    | split
    | dsimp only
    | with_reducible apply hP.upd)

theorem execPowerUpPreconditions_kept {m : Prop} {P : State → Prop} (hP : Kept m P) : ∀ s, P s → ∀ t, execPowerUpPreconditions s = .next t → P t := by
  intros
  rename_i e
  unfold execPowerUpPreconditions at e
  cases e
  repeat' (first
    | with_reducible assumption
    | intro _
    | with_reducible apply State.preconditionsFail_kept hP
    | with_reducible apply ite_kept (P := P)
    | with_reducible apply foldl_kept (P := P)
    | with_reducible apply foldl_fst_kept (P := P)
    | with_reducible apply foldl_snd_kept (P := P)
    | split
    | dsimp only
    | with_reducible apply hP.upd)

theorem State.endP2_kept {m : Prop} {P : State → Prop} (hP : Kept m P) : ∀ s, P s → P (State.endP2 s) := by
  intros
  unfold State.endP2
  repeat' (first
    | with_reducible assumption
    | intro _
    | with_reducible apply State.fault_kept hP
    | with_reducible apply State.wr_kept hP
    | with_reducible apply State.extend_kept hP
    | with_reducible apply State.certifyAttest_kept hP
    | with_reducible apply State.stage_kept hP
    | with_reducible apply ite_kept (P := P)
    | with_reducible apply foldl_kept (P := P)
    | with_reducible apply foldl_fst_kept (P := P)
    | with_reducible apply foldl_snd_kept (P := P)
    | split
    | dsimp only
    | with_reducible apply hP.upd)

theorem State.endP4_kept {m : Prop} {P : State → Prop} (hP : Kept m P) : ∀ s x2, P s → P (State.endP4 s x2) := by
  intros
  unfold State.endP4
  repeat' (first
    | with_reducible assumption
    | intro _
    | with_reducible apply State.fault_kept hP
    | with_reducible apply State.loseFields_kept hP
    | with_reducible apply State.wr_kept hP
    | with_reducible apply State.stage_kept hP
    | with_reducible apply ite_kept (P := P)
    | with_reducible apply foldl_kept (P := P)
    | with_reducible apply foldl_fst_kept (P := P)
    | with_reducible apply foldl_snd_kept (P := P)
    | split
    | dsimp only
    | with_reducible apply hP.upd)

theorem State.endP5_kept {m : Prop} {P : State → Prop} (hP : Kept m P) : ∀ s, P s → P (State.endP5 s) := by
  intros
  unfold State.endP5
  repeat' (first
    | with_reducible assumption
    | intro _
    | with_reducible apply State.markBad_kept hP
    | with_reducible apply State.wr_kept hP
    | with_reducible apply State.stage_kept hP
    | with_reducible apply hP.dropRegs
    | with_reducible apply ite_kept (P := P)
    | with_reducible apply foldl_kept (P := P)
    | with_reducible apply foldl_fst_kept (P := P)
    | with_reducible apply foldl_snd_kept (P := P)
    | split
    | dsimp only
    | with_reducible apply hP.upd)

theorem State.endP6_kept {m : Prop} {P : State → Prop} (hP : Kept m P) : ∀ s x2, P s → P (State.endP6 s x2) := by
  intros
  unfold State.endP6
  repeat' (first
    | with_reducible assumption
    | intro _
    | with_reducible apply State.fault_kept hP
    | with_reducible apply State.markBad_kept hP
    | with_reducible apply State.wrBit_kept hP
    | with_reducible apply State.wr_kept hP
    | with_reducible apply State.stage_kept hP
    | with_reducible apply ite_kept (P := P)
    | with_reducible apply foldl_kept (P := P)
    | with_reducible apply foldl_fst_kept (P := P)
    | with_reducible apply foldl_snd_kept (P := P)
    | split
    | dsimp only
    | with_reducible apply hP.upd)

theorem State.loadConfig_kept {m : Prop} {P : State → Prop} (hP : Kept m P) : ∀ s x2, P s → P (State.loadConfig s x2) := by
  intros
  unfold State.loadConfig
  repeat' (first
    | with_reducible assumption
    | intro _
    | with_reducible apply State.extend_kept hP
    | with_reducible apply State.fault_kept hP
    | with_reducible apply ite_kept (P := P)
    | with_reducible apply foldl_kept (P := P)
    | with_reducible apply foldl_fst_kept (P := P)
    | with_reducible apply foldl_snd_kept (P := P)
    | split
    | dsimp only
    | with_reducible apply hP.upd)

theorem State.mgmtUp_kept {m : Prop} {P : State → Prop} (hP : Kept m P) : ∀ s, P s → P (State.mgmtUp s) := by
  intros
  unfold State.mgmtUp
  repeat' (first
    | with_reducible assumption
    | intro _
    | with_reducible apply State.wr_kept hP
    | with_reducible apply State.ndProbeAll_kept hP
    | with_reducible apply ite_kept (P := P)
    | with_reducible apply foldl_kept (P := P)
    | with_reducible apply foldl_fst_kept (P := P)
    | with_reducible apply foldl_snd_kept (P := P)
    | split
    | dsimp only
    | with_reducible apply hP.upd)

theorem State.endP7_kept {m : Prop} {P : State → Prop} (hP : Kept m P) : ∀ s x2, P s → P (State.endP7 s x2) := by
  intros
  unfold State.endP7
  repeat' (first
    | with_reducible assumption
    | intro _
    | with_reducible apply State.startRuntime_kept hP
    | with_reducible apply State.wr_kept hP
    | with_reducible apply State.fault_kept hP
    | with_reducible apply State.moduleFault_kept hP
    | with_reducible apply State.loadConfig_kept hP
    | with_reducible apply State.mgmtUp_kept hP
    | with_reducible apply ite_kept (P := P)
    | with_reducible apply foldl_kept (P := P)
    | with_reducible apply foldl_fst_kept (P := P)
    | with_reducible apply foldl_snd_kept (P := P)
    | split
    | dsimp only
    | with_reducible apply hP.upd)

theorem State.stageComplete_kept {m : Prop} {P : State → Prop} (hP : Kept m P) : ∀ s x2, P s → P (State.stageComplete s x2) := by
  intros
  unfold State.stageComplete
  repeat' (first
    | with_reducible assumption
    | intro _
    | with_reducible apply State.endP7_kept hP
    | with_reducible apply State.stage_kept hP
    | with_reducible apply State.wr_kept hP
    | with_reducible apply State.endP2_kept hP
    | with_reducible apply State.endP4_kept hP
    | with_reducible apply State.endP5_kept hP
    | with_reducible apply State.endP6_kept hP
    | with_reducible apply ite_kept (P := P)
    | with_reducible apply foldl_kept (P := P)
    | with_reducible apply foldl_fst_kept (P := P)
    | with_reducible apply foldl_snd_kept (P := P)
    | split
    | dsimp only
    | with_reducible apply hP.upd)

theorem execPowerUpStageComplete_kept {m : Prop} {P : State → Prop} (hP : Kept m P) : ∀ x1 s, P s → ∀ t, execPowerUpStageComplete x1 s = .next t → P t := by
  intros
  rename_i e
  unfold execPowerUpStageComplete at e
  cases e
  repeat' (first
    | with_reducible assumption
    | intro _
    | with_reducible apply State.stageComplete_kept hP
    | with_reducible apply ite_kept (P := P)
    | with_reducible apply foldl_kept (P := P)
    | with_reducible apply foldl_fst_kept (P := P)
    | with_reducible apply foldl_snd_kept (P := P)
    | split
    | dsimp only
    | with_reducible apply hP.upd)

theorem State.stageTimeout_kept {P : State → Prop} (hP : Kept True P) : ∀ s x2, P s → P (State.stageTimeout s x2) := by
  intros
  unfold State.stageTimeout
  repeat' (first
    | with_reducible assumption
    | intro _
    | with_reducible apply State.stage_kept hP
    | with_reducible apply State.abortStage_kept hP
    | with_reducible apply ite_kept (P := P)
    | with_reducible apply foldl_kept (P := P)
    | with_reducible apply foldl_fst_kept (P := P)
    | with_reducible apply foldl_snd_kept (P := P)
    | split
    | dsimp only
    | with_reducible apply hP.upd)

theorem execPowerUpStageTimeout_kept {P : State → Prop} (hP : Kept True P) : ∀ x1 s, P s → ∀ t, execPowerUpStageTimeout x1 s = .next t → P t := by
  intros
  rename_i e
  unfold execPowerUpStageTimeout at e
  cases e
  repeat' (first
    | with_reducible assumption
    | intro _
    | with_reducible apply State.stageTimeout_kept hP
    | with_reducible apply ite_kept (P := P)
    | with_reducible apply foldl_kept (P := P)
    | with_reducible apply foldl_fst_kept (P := P)
    | with_reducible apply foldl_snd_kept (P := P)
    | split
    | dsimp only
    | with_reducible apply hP.upd)

theorem State.assertGood_kept {m : Prop} {P : State → Prop} (hP : Kept m P) : ∀ s, P s → P (State.assertGood s) := by
  intros
  unfold State.assertGood
  repeat' (first
    | with_reducible assumption
    | intro _
    | with_reducible apply State.stage_kept hP
    | with_reducible apply State.wr_kept hP
    | with_reducible apply ite_kept (P := P)
    | with_reducible apply foldl_kept (P := P)
    | with_reducible apply foldl_fst_kept (P := P)
    | with_reducible apply foldl_snd_kept (P := P)
    | split
    | dsimp only
    | with_reducible apply hP.upd)

theorem execPowerGood_kept {m : Prop} {P : State → Prop} (hP : Kept m P) : ∀ s, P s → ∀ t, execPowerGood s = .next t → P t := by
  intros
  rename_i e
  unfold execPowerGood at e
  cases e
  repeat' (first
    | with_reducible assumption
    | intro _
    | with_reducible apply State.assertGood_kept hP
    | with_reducible apply ite_kept (P := P)
    | with_reducible apply foldl_kept (P := P)
    | with_reducible apply foldl_fst_kept (P := P)
    | with_reducible apply foldl_snd_kept (P := P)
    | split
    | dsimp only
    | with_reducible apply hP.upd)

theorem State.resetAssert_kept {P : State → Prop} (hP : Kept True P) : ∀ s, P s → P (State.resetAssert s) := by
  intros
  unfold State.resetAssert
  repeat' (first
    | with_reducible assumption
    | intro _
    | with_reducible apply State.removeRails_kept hP
    | with_reducible apply State.resetMeasured_kept hP
    | with_reducible apply State.wr_kept hP
    | with_reducible apply ite_kept (P := P)
    | with_reducible apply foldl_kept (P := P)
    | with_reducible apply foldl_fst_kept (P := P)
    | with_reducible apply foldl_snd_kept (P := P)
    | split
    | dsimp only
    | with_reducible apply hP.upd)

theorem execModuleResetAssert_kept {P : State → Prop} (hP : Kept True P) : ∀ s, P s → ∀ t, execModuleResetAssert s = .next t → P t := by
  intros
  rename_i e
  unfold execModuleResetAssert at e
  cases e
  repeat' (first
    | with_reducible assumption
    | intro _
    | with_reducible apply State.resetAssert_kept hP
    | with_reducible apply ite_kept (P := P)
    | with_reducible apply foldl_kept (P := P)
    | with_reducible apply foldl_fst_kept (P := P)
    | with_reducible apply foldl_snd_kept (P := P)
    | split
    | dsimp only
    | with_reducible apply hP.upd)

theorem State.resetRelease_kept {m : Prop} {P : State → Prop} (hP : Kept m P) : ∀ s, P s → P (State.resetRelease s) := by
  intros
  unfold State.resetRelease
  repeat' (first
    | with_reducible assumption
    | intro _
    | with_reducible apply State.powerOn_kept hP
    | with_reducible apply ite_kept (P := P)
    | with_reducible apply foldl_kept (P := P)
    | with_reducible apply foldl_fst_kept (P := P)
    | with_reducible apply foldl_snd_kept (P := P)
    | split
    | dsimp only
    | with_reducible apply hP.upd)

theorem execModuleResetRelease_kept {m : Prop} {P : State → Prop} (hP : Kept m P) : ∀ s, P s → ∀ t, execModuleResetRelease s = .next t → P t := by
  intros
  rename_i e
  unfold execModuleResetRelease at e
  cases e
  repeat' (first
    | with_reducible assumption
    | intro _
    | with_reducible apply State.resetRelease_kept hP
    | with_reducible apply ite_kept (P := P)
    | with_reducible apply foldl_kept (P := P)
    | with_reducible apply foldl_fst_kept (P := P)
    | with_reducible apply foldl_snd_kept (P := P)
    | split
    | dsimp only
    | with_reducible apply hP.upd)

theorem State.service_kept {m : Prop} {P : State → Prop} (hP : Kept m P) : ∀ s i op tag (act : State → Nat × Bytes × State),
    P s → (∀ b, P b → P (act b).2.2) → P (State.service s i op tag act) := by
  intro s i op tag act hs ha
  unfold State.service
  exact ite_kept (P := P) hs (hP.upd (ha _ hs))

theorem execPowerOn_kept {m : Prop} {P : State → Prop} (hP : Kept m P) : ∀ x1 x2 s, P s → ∀ t, execPowerOn x1 x2 s = .next t → P t := by
  intros
  rename_i e
  unfold execPowerOn at e
  cases e
  repeat' (first
    | with_reducible assumption
    | intro _
    | with_reducible apply State.service_kept hP
    | with_reducible apply State.stage_kept hP
    | with_reducible apply State.powerOn_kept hP
    | with_reducible apply ite_kept (P := P)
    | with_reducible apply foldl_kept (P := P)
    | with_reducible apply foldl_fst_kept (P := P)
    | with_reducible apply foldl_snd_kept (P := P)
    | split
    | dsimp only
    | with_reducible apply hP.upd)

theorem execPowerOff_kept {P : State → Prop} (hP : Kept True P) : ∀ x1 x2 s, P s → ∀ t, execPowerOff x1 x2 s = .next t → P t := by
  intros
  rename_i e
  unfold execPowerOff at e
  cases e
  repeat' (first
    | with_reducible assumption
    | intro _
    | with_reducible apply State.service_kept hP
    | with_reducible apply State.removeRails_kept hP
    | with_reducible apply ite_kept (P := P)
    | with_reducible apply foldl_kept (P := P)
    | with_reducible apply foldl_fst_kept (P := P)
    | with_reducible apply foldl_snd_kept (P := P)
    | split
    | dsimp only
    | with_reducible apply hP.upd)

theorem execServiceStatus_kept {m : Prop} {P : State → Prop} (hP : Kept m P) : ∀ x1 x2 s, P s → ∀ t, execServiceStatus x1 x2 s = .next t → P t := by
  intros
  rename_i e
  unfold execServiceStatus at e
  cases e
  repeat' (first
    | with_reducible assumption
    | intro _
    | with_reducible apply State.service_kept hP
    | with_reducible apply ite_kept (P := P)
    | with_reducible apply foldl_kept (P := P)
    | with_reducible apply foldl_fst_kept (P := P)
    | with_reducible apply foldl_snd_kept (P := P)
    | split
    | dsimp only
    | with_reducible apply hP.upd)

theorem execServiceFaultLogRead_kept {m : Prop} {P : State → Prop} (hP : Kept m P) : ∀ x1 x2 x3 x4 s, P s → ∀ t, execServiceFaultLogRead x1 x2 x3 x4 s = .next t → P t := by
  intros
  rename_i e
  unfold execServiceFaultLogRead at e
  cases e
  repeat' (first
    | with_reducible assumption
    | intro _
    | with_reducible apply State.service_kept hP
    | with_reducible apply State.count_kept hP
    | with_reducible apply ite_kept (P := P)
    | with_reducible apply foldl_kept (P := P)
    | with_reducible apply foldl_fst_kept (P := P)
    | with_reducible apply foldl_snd_kept (P := P)
    | split
    | dsimp only
    | with_reducible apply hP.upd)

theorem State.trustedRelay_kept {m : Prop} {P : State → Prop} (hP : Kept m P) : ∀ s x2 x3 x4 x5 x6 x7 x8 x9, P s → P (State.trustedRelay s x2 x3 x4 x5 x6 x7 x8 x9) := by
  intros
  unfold State.trustedRelay
  repeat' (first
    | with_reducible assumption
    | intro _
    | with_reducible apply State.service_kept hP
    | with_reducible apply State.takePart_kept hP
    | with_reducible apply State.fwInstall_kept hP
    | with_reducible apply secCount_kept hP
    | with_reducible apply State.stageBytes_kept hP
    | with_reducible apply ite_kept (P := P)
    | with_reducible apply foldl_kept (P := P)
    | with_reducible apply foldl_fst_kept (P := P)
    | with_reducible apply foldl_snd_kept (P := P)
    | split
    | dsimp only
    | with_reducible apply hP.upd)

theorem execTrustedRelay_kept {m : Prop} {P : State → Prop} (hP : Kept m P) : ∀ x1 x2 x3 x4 x5 x6 x7 x8 s, P s → ∀ t, execTrustedRelay x1 x2 x3 x4 x5 x6 x7 x8 s = .next t → P t := by
  intros
  rename_i e
  unfold execTrustedRelay at e
  cases e
  repeat' (first
    | with_reducible assumption
    | intro _
    | with_reducible apply State.trustedRelay_kept hP
    | with_reducible apply ite_kept (P := P)
    | with_reducible apply foldl_kept (P := P)
    | with_reducible apply foldl_fst_kept (P := P)
    | with_reducible apply foldl_snd_kept (P := P)
    | split
    | dsimp only
    | with_reducible apply hP.upd)

theorem State.badFrame_kept {m : Prop} {P : State → Prop} (hP : Kept m P) : ∀ s x2 x3, P s → P (State.badFrame s x2 x3) := by
  intros
  unfold State.badFrame
  repeat' (first
    | with_reducible assumption
    | intro _
    | with_reducible apply State.service_kept hP
    | with_reducible apply ite_kept (P := P)
    | with_reducible apply foldl_kept (P := P)
    | with_reducible apply foldl_fst_kept (P := P)
    | with_reducible apply foldl_snd_kept (P := P)
    | split
    | dsimp only
    | with_reducible apply hP.upd)

theorem execOpcodeUnassigned_kept {m : Prop} {P : State → Prop} (hP : Kept m P) : ∀ x1 x2 s, P s → ∀ t, execOpcodeUnassigned x1 x2 s = .next t → P t := by
  intros
  rename_i e
  unfold execOpcodeUnassigned at e
  cases e
  repeat' (first
    | with_reducible assumption
    | intro _
    | with_reducible apply State.service_kept hP
    | with_reducible apply State.badPacket_kept hP
    | with_reducible apply State.badFrame_kept hP
    | with_reducible apply ite_kept (P := P)
    | with_reducible apply foldl_kept (P := P)
    | with_reducible apply foldl_fst_kept (P := P)
    | with_reducible apply foldl_snd_kept (P := P)
    | split
    | dsimp only
    | with_reducible apply hP.upd)

theorem execServiceFrameTimeout_kept {m : Prop} {P : State → Prop} (hP : Kept m P) : ∀ x1 s, P s → ∀ t, execServiceFrameTimeout x1 s = .next t → P t := by
  intros
  rename_i e
  unfold execServiceFrameTimeout at e
  cases e
  repeat' (first
    | with_reducible assumption
    | intro _
    | with_reducible apply ite_kept (P := P)
    | with_reducible apply foldl_kept (P := P)
    | with_reducible apply foldl_fst_kept (P := P)
    | with_reducible apply foldl_snd_kept (P := P)
    | split
    | dsimp only
    | with_reducible apply hP.upd)

theorem State.jtag_kept {m : Prop} {P : State → Prop} (hP : Kept m P) : ∀ s x2, P s → P (State.jtag s x2) := by
  intros
  unfold State.jtag
  repeat' (first
    | with_reducible assumption
    | intro _
    | with_reducible apply State.raiseWake_kept hP
    | with_reducible apply State.keep_kept hP
    | with_reducible apply ite_kept (P := P)
    | with_reducible apply foldl_kept (P := P)
    | with_reducible apply foldl_fst_kept (P := P)
    | with_reducible apply foldl_snd_kept (P := P)
    | split
    | dsimp only
    | with_reducible apply hP.upd)

theorem execJtagInstruction_kept {m : Prop} {P : State → Prop} (hP : Kept m P) : ∀ x1 s, P s → ∀ t, execJtagInstruction x1 s = .next t → P t := by
  intros
  rename_i e
  unfold execJtagInstruction at e
  cases e
  repeat' (first
    | with_reducible assumption
    | intro _
    | with_reducible apply State.jtag_kept hP
    | with_reducible apply ite_kept (P := P)
    | with_reducible apply foldl_kept (P := P)
    | with_reducible apply foldl_fst_kept (P := P)
    | with_reducible apply foldl_snd_kept (P := P)
    | split
    | dsimp only
    | with_reducible apply hP.upd)

/-! ### Regio -/

theorem State.countsFrom_kept {m : Prop} {P : State → Prop} (hP : Kept m P) : ∀ s x2, P s → P (State.countsFrom s x2) := by
  intros
  unfold State.countsFrom
  repeat' (first
    | with_reducible assumption
    | intro _
    | with_reducible apply ite_kept (P := P)
    | with_reducible apply foldl_kept (P := P)
    | with_reducible apply foldl_fst_kept (P := P)
    | with_reducible apply foldl_snd_kept (P := P)
    | split
    | dsimp only
    | with_reducible apply hP.upd)

theorem State.clearCounters_kept {m : Prop} {P : State → Prop} (hP : Kept m P) : ∀ s t, P s → P (State.clearCounters s t) :=
  fun s _ h => hP.dropRegs s _ h

theorem State.clearTags_kept {P : State → Prop} (hP : Kept True P) : ∀ s x2, P s → P (State.clearTags s x2) := by
  intros
  unfold State.clearTags
  repeat' (first
    | with_reducible assumption
    | intro _
    | with_reducible apply (hP.dropMem trivial)
    | with_reducible apply ite_kept (P := P)
    | with_reducible apply foldl_kept (P := P)
    | with_reducible apply foldl_fst_kept (P := P)
    | with_reducible apply foldl_snd_kept (P := P)
    | split
    | dsimp only
    | with_reducible apply hP.upd)

theorem State.startBist_kept {P : State → Prop} (hP : Kept True P) : ∀ s x2, P s → P (State.startBist s x2) := by
  intros
  unfold State.startBist
  repeat' (first
    | with_reducible assumption
    | intro _
    | with_reducible apply State.wr_kept hP
    | with_reducible apply (hP.dropMem trivial)
    | with_reducible apply ite_kept (P := P)
    | with_reducible apply foldl_kept (P := P)
    | with_reducible apply foldl_fst_kept (P := P)
    | with_reducible apply foldl_snd_kept (P := P)
    | split
    | dsimp only
    | with_reducible apply hP.upd)

theorem State.actTile_kept {P : State → Prop} (hP : Kept True P) : ∀ s x2 x3 x4 x5, P s → P (State.actTile s x2 x3 x4 x5) := by
  intros
  unfold State.actTile
  repeat' (first
    | with_reducible assumption
    | intro _
    | with_reducible apply State.wr_kept hP
    | with_reducible apply State.elapseTile_kept hP
    | with_reducible apply State.countsFrom_kept hP
    | with_reducible apply State.clearCounters_kept hP
    | with_reducible apply State.seeQueue_kept hP
    | with_reducible apply State.clearTags_kept hP
    | with_reducible apply ite_kept (P := P)
    | with_reducible apply foldl_kept (P := P)
    | with_reducible apply foldl_fst_kept (P := P)
    | with_reducible apply foldl_snd_kept (P := P)
    | split
    | dsimp only
    | with_reducible apply hP.upd)

theorem State.endRelays_kept {m : Prop} {P : State → Prop} (hP : Kept m P) : ∀ s x2, P s → P (State.endRelays s x2) := by
  intros
  unfold State.endRelays
  repeat' (first
    | with_reducible assumption
    | intro _
    | with_reducible apply State.wr_kept hP
    | with_reducible apply ite_kept (P := P)
    | with_reducible apply foldl_kept (P := P)
    | with_reducible apply foldl_fst_kept (P := P)
    | with_reducible apply foldl_snd_kept (P := P)
    | split
    | dsimp only
    | with_reducible apply hP.upd)

theorem State.actWrite_kept {P : State → Prop} (hP : Kept True P) : ∀ s x2 x3 x4, P s → P (State.actWrite s x2 x3 x4) := by
  intros
  unfold State.actWrite
  repeat' (first
    | with_reducible assumption
    | intro _
    | with_reducible apply State.showFabric_kept hP
    | with_reducible apply State.showSources_kept hP
    | with_reducible apply State.ndProbeAll_kept hP
    | with_reducible apply State.ndProbe_kept hP
    | with_reducible apply State.endRelays_kept hP
    | with_reducible apply State.actTile_kept hP
    | with_reducible apply State.startBist_kept hP
    | with_reducible apply State.wr_kept hP
    | with_reducible apply State.enablePort_kept hP
    | with_reducible apply State.disablePort_kept hP
    | with_reducible apply ite_kept (P := P)
    | with_reducible apply foldl_kept (P := P)
    | with_reducible apply foldl_fst_kept (P := P)
    | with_reducible apply foldl_snd_kept (P := P)
    | split
    | dsimp only
    | with_reducible apply hP.upd)

theorem State.applyEntry_kept {P : State → Prop} (hP : Kept True P) : ∀ s x2 x3, P s → P (State.applyEntry s x2 x3) := by
  intros
  unfold State.applyEntry
  repeat' (first
    | with_reducible assumption
    | intro _
    | with_reducible apply hP.setReg
    | with_reducible apply State.actWrite_kept hP
    | with_reducible apply ite_kept (P := P)
    | with_reducible apply foldl_kept (P := P)
    | with_reducible apply foldl_fst_kept (P := P)
    | with_reducible apply foldl_snd_kept (P := P)
    | split
    | dsimp only
    | with_reducible apply hP.upd)

theorem State.applyEntries_kept {P : State → Prop} (hP : Kept True P) : ∀ s x2, P s → P (State.applyEntries s x2) := by
  intros
  unfold State.applyEntries
  repeat' (first
    | with_reducible assumption
    | intro _
    | with_reducible apply State.applyEntry_kept hP
    | with_reducible apply ite_kept (P := P)
    | with_reducible apply foldl_kept (P := P)
    | with_reducible apply foldl_fst_kept (P := P)
    | with_reducible apply foldl_snd_kept (P := P)
    | split
    | dsimp only
    | with_reducible apply hP.upd)

theorem execConfigurationRead_kept {P : State → Prop} (hP : Kept True P) : ∀ x1 x2 s, P s → ∀ t, execConfigurationRead x1 x2 s = .next t → P t := by
  intros
  rename_i e
  unfold execConfigurationRead at e
  cases e
  repeat' (first
    | with_reducible assumption
    | intro _
    | with_reducible apply State.command_kept hP
    | with_reducible apply State.observe_kept hP
    | with_reducible apply State.reply_kept hP
    | with_reducible apply ite_kept (P := P)
    | with_reducible apply foldl_kept (P := P)
    | with_reducible apply foldl_fst_kept (P := P)
    | with_reducible apply foldl_snd_kept (P := P)
    | split
    | dsimp only
    | with_reducible apply hP.upd)

theorem doConfigurationWrite_kept {P : State → Prop} (hP : Kept True P) : ∀ x1 x2 x3 s, P s → P (doConfigurationWrite x1 x2 x3 s) := by
  intros
  unfold doConfigurationWrite
  repeat' (first
    | with_reducible assumption
    | intro _
    | with_reducible apply State.stage_kept hP
    | with_reducible apply State.applyEntries_kept hP
    | with_reducible apply State.reply_kept hP
    | with_reducible apply ite_kept (P := P)
    | with_reducible apply foldl_kept (P := P)
    | with_reducible apply foldl_fst_kept (P := P)
    | with_reducible apply foldl_snd_kept (P := P)
    | split
    | dsimp only
    | with_reducible apply hP.upd)

theorem State.writeOne_kept {P : State → Prop} (hP : Kept True P) : ∀ s x2 x3 x4, P s → P (State.writeOne s x2 x3 x4) := by
  intros
  unfold State.writeOne
  repeat' (first
    | with_reducible assumption
    | intro _
    | with_reducible apply State.command_kept hP
    | with_reducible apply doConfigurationWrite_kept hP
    | with_reducible apply ite_kept (P := P)
    | with_reducible apply foldl_kept (P := P)
    | with_reducible apply foldl_fst_kept (P := P)
    | with_reducible apply foldl_snd_kept (P := P)
    | split
    | dsimp only
    | with_reducible apply hP.upd)

theorem execConfigurationWrite_kept {P : State → Prop} (hP : Kept True P) : ∀ x1 x2 x3 s, P s → ∀ t, execConfigurationWrite x1 x2 x3 s = .next t → P t := by
  intros
  rename_i e
  unfold execConfigurationWrite at e
  cases e
  repeat' (first
    | with_reducible assumption
    | intro _
    | with_reducible apply State.command_kept hP
    | with_reducible apply doConfigurationWrite_kept hP
    | with_reducible apply ite_kept (P := P)
    | with_reducible apply foldl_kept (P := P)
    | with_reducible apply foldl_fst_kept (P := P)
    | with_reducible apply foldl_snd_kept (P := P)
    | split
    | dsimp only
    | with_reducible apply hP.upd)

theorem State.applyWrite_kept {P : State → Prop} (hP : Kept True P) : ∀ s x2 x3, P s → P (State.applyWrite s x2 x3) := by
  intros
  unfold State.applyWrite
  repeat' (first
    | with_reducible assumption
    | intro _
    | with_reducible apply State.reply_kept hP
    | with_reducible apply State.applyEntries_kept hP
    | with_reducible apply ite_kept (P := P)
    | with_reducible apply foldl_kept (P := P)
    | with_reducible apply foldl_fst_kept (P := P)
    | with_reducible apply foldl_snd_kept (P := P)
    | split
    | dsimp only
    | with_reducible apply hP.upd)

theorem execTilNumStatusClearCount_kept {P : State → Prop} (hP : Kept True P) : ∀ x1 x2 x3 s, P s → ∀ t, execTilNumStatusClearCount x1 x2 x3 s = .next t → P t := by
  intros
  rename_i e
  unfold execTilNumStatusClearCount at e
  cases e
  repeat' (first
    | with_reducible assumption
    | intro _
    | with_reducible apply State.writeOne_kept hP
    | with_reducible apply ite_kept (P := P)
    | with_reducible apply foldl_kept (P := P)
    | with_reducible apply foldl_fst_kept (P := P)
    | with_reducible apply foldl_snd_kept (P := P)
    | split
    | dsimp only
    | with_reducible apply hP.upd)

theorem execTilSramEccClearCount_kept {P : State → Prop} (hP : Kept True P) : ∀ x1 x2 x3 s, P s → ∀ t, execTilSramEccClearCount x1 x2 x3 s = .next t → P t := by
  intros
  rename_i e
  unfold execTilSramEccClearCount at e
  cases e
  repeat' (first
    | with_reducible assumption
    | intro _
    | with_reducible apply State.writeOne_kept hP
    | with_reducible apply ite_kept (P := P)
    | with_reducible apply foldl_kept (P := P)
    | with_reducible apply foldl_fst_kept (P := P)
    | with_reducible apply foldl_snd_kept (P := P)
    | split
    | dsimp only
    | with_reducible apply hP.upd)

theorem execTilCounterCtrlClearAll_kept {P : State → Prop} (hP : Kept True P) : ∀ x1 x2 x3 s, P s → ∀ t, execTilCounterCtrlClearAll x1 x2 x3 s = .next t → P t := by
  intros
  rename_i e
  unfold execTilCounterCtrlClearAll at e
  cases e
  repeat' (first
    | with_reducible assumption
    | intro _
    | with_reducible apply State.writeOne_kept hP
    | with_reducible apply ite_kept (P := P)
    | with_reducible apply foldl_kept (P := P)
    | with_reducible apply foldl_fst_kept (P := P)
    | with_reducible apply foldl_snd_kept (P := P)
    | split
    | dsimp only
    | with_reducible apply hP.upd)

theorem execAryQueueSelWrite_kept {P : State → Prop} (hP : Kept True P) : ∀ x1 x2 x3 x4 s, P s → ∀ t, execAryQueueSelWrite x1 x2 x3 x4 s = .next t → P t := by
  intros
  rename_i e
  unfold execAryQueueSelWrite at e
  cases e
  repeat' (first
    | with_reducible assumption
    | intro _
    | with_reducible apply State.writeOne_kept hP
    | with_reducible apply ite_kept (P := P)
    | with_reducible apply foldl_kept (P := P)
    | with_reducible apply foldl_fst_kept (P := P)
    | with_reducible apply foldl_snd_kept (P := P)
    | split
    | dsimp only
    | with_reducible apply hP.upd)

theorem execBwdCtrlClearTags_kept {P : State → Prop} (hP : Kept True P) : ∀ x1 x2 s, P s → ∀ t, execBwdCtrlClearTags x1 x2 s = .next t → P t := by
  intros
  rename_i e
  unfold execBwdCtrlClearTags at e
  cases e
  repeat' (first
    | with_reducible assumption
    | intro _
    | with_reducible apply State.writeOne_kept hP
    | with_reducible apply ite_kept (P := P)
    | with_reducible apply foldl_kept (P := P)
    | with_reducible apply foldl_fst_kept (P := P)
    | with_reducible apply foldl_snd_kept (P := P)
    | split
    | dsimp only
    | with_reducible apply hP.upd)

theorem execStkEccClearCount_kept {P : State → Prop} (hP : Kept True P) : ∀ x1 x2 s, P s → ∀ t, execStkEccClearCount x1 x2 s = .next t → P t := by
  intros
  rename_i e
  unfold execStkEccClearCount at e
  cases e
  repeat' (first
    | with_reducible assumption
    | intro _
    | with_reducible apply State.writeOne_kept hP
    | with_reducible apply ite_kept (P := P)
    | with_reducible apply foldl_kept (P := P)
    | with_reducible apply foldl_fst_kept (P := P)
    | with_reducible apply foldl_snd_kept (P := P)
    | split
    | dsimp only
    | with_reducible apply hP.upd)

theorem execTilRowMapWrite_kept {P : State → Prop} (hP : Kept True P) : ∀ x1 x2 x3 x4 x5 s, P s → ∀ t, execTilRowMapWrite x1 x2 x3 x4 x5 s = .next t → P t := by
  intros
  rename_i e
  unfold execTilRowMapWrite at e
  cases e
  repeat' (first
    | with_reducible assumption
    | intro _
    | with_reducible apply State.writeOne_kept hP
    | with_reducible apply ite_kept (P := P)
    | with_reducible apply foldl_kept (P := P)
    | with_reducible apply foldl_fst_kept (P := P)
    | with_reducible apply foldl_snd_kept (P := P)
    | split
    | dsimp only
    | with_reducible apply hP.upd)

theorem execCalBistCtrlStart_kept {P : State → Prop} (hP : Kept True P) : ∀ x1 x2 s, P s → ∀ t, execCalBistCtrlStart x1 x2 s = .next t → P t := by
  intros
  rename_i e
  unfold execCalBistCtrlStart at e
  cases e
  repeat' (first
    | with_reducible assumption
    | intro _
    | with_reducible apply State.writeOne_kept hP
    | with_reducible apply ite_kept (P := P)
    | with_reducible apply foldl_kept (P := P)
    | with_reducible apply foldl_fst_kept (P := P)
    | with_reducible apply foldl_snd_kept (P := P)
    | split
    | dsimp only
    | with_reducible apply hP.upd)

theorem execPortEnable_kept {P : State → Prop} (hP : Kept True P) : ∀ x1 x2 x3 s, P s → ∀ t, execPortEnable x1 x2 x3 s = .next t → P t := by
  intros
  rename_i e
  unfold execPortEnable at e
  cases e
  repeat' (first
    | with_reducible assumption
    | intro _
    | with_reducible apply State.writeOne_kept hP
    | with_reducible apply ite_kept (P := P)
    | with_reducible apply foldl_kept (P := P)
    | with_reducible apply foldl_fst_kept (P := P)
    | with_reducible apply foldl_snd_kept (P := P)
    | split
    | dsimp only
    | with_reducible apply hP.upd)

theorem execPortDisable_kept {P : State → Prop} (hP : Kept True P) : ∀ x1 x2 x3 s, P s → ∀ t, execPortDisable x1 x2 x3 s = .next t → P t := by
  intros
  rename_i e
  unfold execPortDisable at e
  cases e
  repeat' (first
    | with_reducible assumption
    | intro _
    | with_reducible apply State.writeOne_kept hP
    | with_reducible apply ite_kept (P := P)
    | with_reducible apply foldl_kept (P := P)
    | with_reducible apply foldl_fst_kept (P := P)
    | with_reducible apply foldl_snd_kept (P := P)
    | split
    | dsimp only
    | with_reducible apply hP.upd)

theorem execMgmtAddressWrite_kept {P : State → Prop} (hP : Kept True P) : ∀ x1 x2 x3 x4 s, P s → ∀ t, execMgmtAddressWrite x1 x2 x3 x4 s = .next t → P t := by
  intros
  rename_i e
  unfold execMgmtAddressWrite at e
  cases e
  repeat' (first
    | with_reducible assumption
    | intro _
    | with_reducible apply State.writeOne_kept hP
    | with_reducible apply ite_kept (P := P)
    | with_reducible apply foldl_kept (P := P)
    | with_reducible apply foldl_fst_kept (P := P)
    | with_reducible apply foldl_snd_kept (P := P)
    | split
    | dsimp only
    | with_reducible apply hP.upd)

theorem State.bistComplete_kept {m : Prop} {P : State → Prop} (hP : Kept m P) : ∀ s x2 x3, P s → P (State.bistComplete s x2 x3) := by
  intros
  unfold State.bistComplete
  repeat' (first
    | with_reducible assumption
    | intro _
    | with_reducible apply State.wr_kept hP
    | with_reducible apply ite_kept (P := P)
    | with_reducible apply foldl_kept (P := P)
    | with_reducible apply foldl_fst_kept (P := P)
    | with_reducible apply foldl_snd_kept (P := P)
    | split
    | dsimp only
    | with_reducible apply hP.upd)

theorem execBistComplete_kept {m : Prop} {P : State → Prop} (hP : Kept m P) : ∀ x1 x2 s, P s → ∀ t, execBistComplete x1 x2 s = .next t → P t := by
  intros
  rename_i e
  unfold execBistComplete at e
  cases e
  repeat' (first
    | with_reducible assumption
    | intro _
    | with_reducible apply State.bistComplete_kept hP
    | with_reducible apply ite_kept (P := P)
    | with_reducible apply foldl_kept (P := P)
    | with_reducible apply foldl_fst_kept (P := P)
    | with_reducible apply foldl_snd_kept (P := P)
    | split
    | dsimp only
    | with_reducible apply hP.upd)

theorem execTimeStatus_kept {m : Prop} {P : State → Prop} (hP : Kept m P) : ∀ x1 s, P s → ∀ t, execTimeStatus x1 s = .next t → P t := by
  intros
  rename_i e
  unfold execTimeStatus at e
  cases e
  repeat' (first
    | with_reducible assumption
    | intro _
    | with_reducible apply State.command_kept hP
    | with_reducible apply State.reply_kept hP
    | with_reducible apply ite_kept (P := P)
    | with_reducible apply foldl_kept (P := P)
    | with_reducible apply foldl_fst_kept (P := P)
    | with_reducible apply foldl_snd_kept (P := P)
    | split
    | dsimp only
    | with_reducible apply hP.upd)

theorem execCounterSnapshot_kept {P : State → Prop} (hP : Kept True P) : ∀ x1 x2 x3 x4 x5 s, P s → ∀ t, execCounterSnapshot x1 x2 x3 x4 x5 s = .next t → P t := by
  intros
  rename_i e
  unfold execCounterSnapshot at e
  cases e
  repeat' (first
    | with_reducible assumption
    | intro _
    | with_reducible apply State.command_kept hP
    | with_reducible apply State.count_kept hP
    | with_reducible apply State.observe_kept hP
    | with_reducible apply State.reply_kept hP
    | with_reducible apply ite_kept (P := P)
    | with_reducible apply foldl_kept (P := P)
    | with_reducible apply foldl_fst_kept (P := P)
    | with_reducible apply foldl_snd_kept (P := P)
    | split
    | dsimp only
    | with_reducible apply hP.upd)

/-! ### Runtime -/

theorem fwAs_kept {P : State → Prop} (hP : Kept True P) : ∀ {g : Hdr → Hdr} {i : Instr} {f : Fw}, fwAs g i = some f → Fw.Keeps P f := by
  intro g i f e
  unfold fwAs at e
  split at e <;> cases e
  · exact fwCalibrationRead_kept hP _ _
  · exact fwCalibrationWrite_kept hP _ _
  · exact fwCalibrationCommit_kept hP _
  · exact fwCalibrationRestore_kept hP _ _ _ _
  · exact fwStreamOpen_kept hP _ _
  · exact fwJobStartArm_kept hP _ _ _ _ _
  · exact fwJobStartBroadcast_kept hP _ _ _ _ _
  · exact fwJobStartStatus_kept hP _ _
  · exact fwPartitionBuild_kept hP _ _ _ _ _ _ _ _ _ _
  · exact fwPartitionDissolve_kept hP _
  · exact fwPartitionRelocate_kept hP _ _ _
  · exact fwContextCreate_kept hP _ _ _ _ _ _ _ _ _ _ _
  · exact fwContextDestroy_kept hP _
  · exact fwPowerCapSet_kept hP _ _
  · exact fwSensorRead_kept hP _
  · exact fwThermalStatus_kept hP _
  · exact fwProgramOpen_kept hP _ _ _
  · exact fwProgramCommit_kept hP _
  · exact fwTraceEnable_kept hP _ _ _
  · exact fwRosterTree_kept hP _ _
  · exact fwInputLogConfigure_kept hP _ _ _ _ _ _ _
  · exact fwInputLogRead_kept hP _ _ _ _
  · exact fwInputLogLoad_kept hP _ _ _ _
  · exact fwMirrorConfigure_kept hP _ _
  · exact fwMirrorAccept_kept hP _ _ _ _ _
  · exact fwMeasurementRead_kept hP _
  · exact fwMeasurementExtend_kept hP _ _ _
  · exact fwCertificateRead_kept hP _ _ _
  · exact fwAttestationQuote_kept hP _ _ _ _ _
  · exact fwQuoteRead_kept hP _ _ _
  · exact fwSessionEstablishKey_kept hP _
  · exact fwSessionEstablishCiphertext_kept hP _ _ _ _
  · exact fwStreamKeySet_kept hP _ _ _ _ _
  · exact fwDebugUnlockChallenge_kept hP _ _
  · exact fwDebugUnlockResponse_kept hP _ _ _ _
  · exact fwKeyEnrolment_kept hP _ _ _ _ _
  · exact fwFirmwareUpdateInstall_kept hP _ _ _ _
  · exact fwFirmwareUpdateStage_kept hP _ _ _ _ _
  · exact fwFirmwareUpdateFloor_kept hP _ _ _
  · exact fwServingConfigure_kept hP _ _
  · exact fwRingConfigure_kept hP _ _ _ _
  · exact fwStorageConnect_kept hP _ _
  · exact fwStorageDisconnect_kept hP _ _
  · exact fwStorageRead_kept hP _ _
  · exact fwWeightSetOpen_kept hP _ _
  · exact fwWeightSetRelease_kept hP _ _ _
  · exact fwWeightSetDigest_kept hP _ _ _
  · exact fwAdapterLoad_kept hP _ _ _ _ _ _ _
  · exact fwAdapterDrop_kept hP _ _

theorem State.keepDue_kept {m : Prop} {P : State → Prop} (hP : Kept m P) : ∀ s x2 x3, P s → P (State.keepDue s x2 x3) := by
  intros
  unfold State.keepDue
  repeat' (first
    | with_reducible assumption
    | intro _
    | with_reducible apply ite_kept (P := P)
    | with_reducible apply foldl_kept (P := P)
    | with_reducible apply foldl_fst_kept (P := P)
    | with_reducible apply foldl_snd_kept (P := P)
    | split
    | dsimp only
    | with_reducible apply hP.upd)

theorem State.carryOut_kept {P : State → Prop} (hP : Kept True P) : ∀ s r (g : Hdr → Hdr), P s → P (State.carryOut s r g) := by
  intro s r g h
  unfold State.carryOut
  split
  · next f e =>
    have k := fwAs_kept hP e
    exact ite_kept (P := P) (State.reply_kept hP _ _ _ _ _ _ (k.onRefusal _ _ h)) (State.keepDue_kept hP _ _ _ (k.act _ h))
  · exact h

theorem State.dropHeld_kept {m : Prop} {P : State → Prop} (hP : Kept m P) : ∀ s x2 x3, P s → P (State.dropHeld s x2 x3) := by
  intros
  unfold State.dropHeld
  repeat' (first
    | with_reducible assumption
    | intro _
    | with_reducible apply ite_kept (P := P)
    | with_reducible apply foldl_kept (P := P)
    | with_reducible apply foldl_fst_kept (P := P)
    | with_reducible apply foldl_snd_kept (P := P)
    | split
    | dsimp only
    | with_reducible apply hP.upd)

theorem State.runtimeReply_kept {P : State → Prop} (hP : Kept True P) : ∀ s x2 x3, P s → P (State.runtimeReply s x2 x3) := by
  intros
  unfold State.runtimeReply
  repeat' (first
    | with_reducible assumption
    | intro _
    | with_reducible apply State.dropHeld_kept hP
    | with_reducible apply State.reply_kept hP
    | with_reducible apply State.carryOut_kept hP
    | with_reducible apply ite_kept (P := P)
    | with_reducible apply foldl_kept (P := P)
    | with_reducible apply foldl_fst_kept (P := P)
    | with_reducible apply foldl_snd_kept (P := P)
    | split
    | dsimp only
    | with_reducible apply hP.upd)

theorem execRuntimeReply_kept {P : State → Prop} (hP : Kept True P) : ∀ x1 x2 s, P s → ∀ t, execRuntimeReply x1 x2 s = .next t → P t := by
  intros
  rename_i e
  unfold execRuntimeReply at e
  cases e
  repeat' (first
    | with_reducible assumption
    | intro _
    | with_reducible apply State.runtimeReply_kept hP
    | with_reducible apply ite_kept (P := P)
    | with_reducible apply foldl_kept (P := P)
    | with_reducible apply foldl_fst_kept (P := P)
    | with_reducible apply foldl_snd_kept (P := P)
    | split
    | dsimp only
    | with_reducible apply hP.upd)

theorem State.fwTimeout_kept {P : State → Prop} (hP : Kept True P) : ∀ s x2 x3, P s → P (State.fwTimeout s x2 x3) := by
  intros
  unfold State.fwTimeout
  repeat' (first
    | with_reducible assumption
    | intro _
    | with_reducible apply State.dropHeld_kept hP
    | with_reducible apply State.reply_kept hP
    | with_reducible apply State.free_kept hP
    | with_reducible apply State.carryOut_kept hP
    | with_reducible apply ite_kept (P := P)
    | with_reducible apply foldl_kept (P := P)
    | with_reducible apply foldl_fst_kept (P := P)
    | with_reducible apply foldl_snd_kept (P := P)
    | split
    | dsimp only
    | with_reducible apply hP.upd)

theorem execFwTimeout_kept {P : State → Prop} (hP : Kept True P) : ∀ x1 x2 s, P s → ∀ t, execFwTimeout x1 x2 s = .next t → P t := by
  intros
  rename_i e
  unfold execFwTimeout at e
  cases e
  repeat' (first
    | with_reducible assumption
    | intro _
    | with_reducible apply State.fwTimeout_kept hP
    | with_reducible apply ite_kept (P := P)
    | with_reducible apply foldl_kept (P := P)
    | with_reducible apply foldl_fst_kept (P := P)
    | with_reducible apply foldl_snd_kept (P := P)
    | split
    | dsimp only
    | with_reducible apply hP.upd)

theorem State.waitingFor_kept {m : Prop} {P : State → Prop} (hP : Kept m P) : ∀ s p r, P s → State.waitingFor s p = some r → P r.2.2 := by
  intro s p r hs e
  unfold State.waitingFor at e
  simp only [Option.orElse_eq_some, Option.map_eq_some_iff] at e
  obtain ⟨_, _, rfl⟩ | ⟨-, ⟨_, _, rfl⟩ | ⟨-, ⟨_, _, rfl⟩ | ⟨-, _, _, rfl⟩⟩⟩ := e
  · exact hP.upd hs
  · exact State.undoWait_kept hP _ _ hs
  · exact State.setController_kept hP _ _ hs
  · exact hP.upd hs

theorem State.deadlineExpiry_kept {m : Prop} {P : State → Prop} (hP : Kept m P) : ∀ s x2 x3, P s → P (State.deadlineExpiry s x2 x3) := by
  intro s ch tag hs
  unfold State.deadlineExpiry
  split
  · next e => exact State.expire_kept hP _ _ _ (State.waitingFor_kept hP _ _ _ hs e)
  · exact hs

theorem execCommandDeadlineExpiry_kept {m : Prop} {P : State → Prop} (hP : Kept m P) : ∀ x1 x2 s, P s → ∀ t, execCommandDeadlineExpiry x1 x2 s = .next t → P t := by
  intros
  rename_i e
  unfold execCommandDeadlineExpiry at e
  cases e
  repeat' (first
    | with_reducible assumption
    | intro _
    | with_reducible apply State.deadlineExpiry_kept hP
    | with_reducible apply ite_kept (P := P)
    | with_reducible apply foldl_kept (P := P)
    | with_reducible apply foldl_fst_kept (P := P)
    | with_reducible apply foldl_snd_kept (P := P)
    | split
    | dsimp only
    | with_reducible apply hP.upd)

/-! ### Boundary -/

theorem State.runDue_kept {m : Prop} {P : State → Prop} (hP : Kept m P) : ∀ s (f : State → Staged → Bool) (g : State → Staged → State),
    (∀ s q, P s → P (g s q)) → P s → P (State.runDue s f g) := by
  intro s f g hg h
  unfold State.runDue
  exact foldl_kept (P := P) h fun s q hs => ite_kept (P := P) (hg _ _ (hP.upd hs)) hs

theorem State.expireStaged_kept {m : Prop} {P : State → Prop} (hP : Kept m P) : ∀ s x2, P s → P (State.expireStaged s x2) := by
  intros
  unfold State.expireStaged
  repeat' (first
    | with_reducible assumption
    | intro _
    | with_reducible apply State.wr_kept hP
    | with_reducible apply State.noSwitch_kept hP
    | with_reducible apply State.modCtx_kept hP
    | with_reducible apply State.sequenceAdmit_kept hP
    | with_reducible apply State.inc_kept hP
    | with_reducible apply State.reply_kept hP
    | with_reducible apply ite_kept (P := P)
    | with_reducible apply foldl_kept (P := P)
    | with_reducible apply foldl_fst_kept (P := P)
    | with_reducible apply foldl_snd_kept (P := P)
    | split
    | dsimp only
    | with_reducible apply hP.upd)

theorem State.expireDue_kept {m : Prop} {P : State → Prop} (hP : Kept m P) : ∀ s, P s → P (State.expireDue s) := by
  intros
  unfold State.expireDue
  repeat' (first
    | with_reducible assumption
    | intro _
    | with_reducible apply State.runDue_kept hP
    | with_reducible apply State.expireStaged_kept hP
    | with_reducible apply ite_kept (P := P)
    | with_reducible apply foldl_kept (P := P)
    | with_reducible apply foldl_fst_kept (P := P)
    | with_reducible apply foldl_snd_kept (P := P)
    | split
    | dsimp only
    | with_reducible apply hP.upd)

theorem State.dropCommands_kept {m : Prop} {P : State → Prop} (hP : Kept m P) : ∀ s x2 x3, P s → P (State.dropCommands s x2 x3) := by
  intros
  unfold State.dropCommands
  repeat' (first
    | with_reducible assumption
    | intro _
    | with_reducible apply State.keep_kept hP
    | with_reducible apply State.inc_kept hP
    | with_reducible apply State.completeBy_kept hP
    | with_reducible apply ite_kept (P := P)
    | with_reducible apply foldl_kept (P := P)
    | with_reducible apply foldl_fst_kept (P := P)
    | with_reducible apply foldl_snd_kept (P := P)
    | split
    | dsimp only
    | with_reducible apply hP.upd)

theorem State.dropServing_kept {P : State → Prop} (hP : Kept True P) : ∀ s x2, P s → P (State.dropServing s x2) := by
  intros
  unfold State.dropServing
  repeat' (first
    | with_reducible assumption
    | intro _
    | with_reducible apply State.retire_kept hP
    | with_reducible apply State.emptySlot_kept hP
    | with_reducible apply State.noSwitch_kept hP
    | with_reducible apply State.modCtx_kept hP
    | with_reducible apply State.leaveController_kept hP
    | with_reducible apply State.showAdapters_kept hP
    | with_reducible apply ite_kept (P := P)
    | with_reducible apply foldl_kept (P := P)
    | with_reducible apply foldl_fst_kept (P := P)
    | with_reducible apply foldl_snd_kept (P := P)
    | split
    | dsimp only
    | with_reducible apply hP.upd)

theorem State.dropConfig_kept {m : Prop} {P : State → Prop} (hP : Kept m P) : ∀ s x2, P s → P (State.dropConfig s x2) := by
  intros
  unfold State.dropConfig
  repeat' (first
    | with_reducible assumption
    | intro _
    | with_reducible apply State.wr_kept hP
    | with_reducible apply State.showSeq_kept hP
    | with_reducible apply hP.setReg
    | with_reducible apply ite_kept (P := P)
    | with_reducible apply foldl_kept (P := P)
    | with_reducible apply foldl_fst_kept (P := P)
    | with_reducible apply foldl_snd_kept (P := P)
    | split
    | dsimp only
    | with_reducible apply hP.upd)

theorem State.endContext_kept {P : State → Prop} (hP : Kept True P) : ∀ s x2 x3, P s → P (State.endContext s x2 x3) := by
  intros
  unfold State.endContext
  repeat' (first
    | with_reducible assumption
    | intro _
    | with_reducible apply State.abandon_kept hP
    | with_reducible apply State.clearShare_kept hP
    | with_reducible apply State.dropServing_kept hP
    | with_reducible apply State.dropConfig_kept hP
    | with_reducible apply State.dropCommands_kept hP
    | with_reducible apply State.keep_kept hP
    | with_reducible apply State.dec_kept hP
    | with_reducible apply hP.setReg
    | with_reducible apply State.endSecurity_kept hP
    | with_reducible apply State.wr_kept hP
    | with_reducible apply ite_kept (P := P)
    | with_reducible apply foldl_kept (P := P)
    | with_reducible apply foldl_fst_kept (P := P)
    | with_reducible apply foldl_snd_kept (P := P)
    | split
    | dsimp only
    | with_reducible apply hP.upd)

theorem State.completeTeardown_kept {P : State → Prop} (hP : Kept True P) : ∀ s x2, P s → P (State.completeTeardown s x2) := by
  intros
  unfold State.completeTeardown
  repeat' (first
    | with_reducible assumption
    | intro _
    | with_reducible apply State.endContext_kept hP
    | with_reducible apply State.wr_kept hP
    | with_reducible apply ite_kept (P := P)
    | with_reducible apply foldl_kept (P := P)
    | with_reducible apply foldl_fst_kept (P := P)
    | with_reducible apply foldl_snd_kept (P := P)
    | split
    | dsimp only
    | with_reducible apply hP.upd)

theorem State.applyDestroy_kept {P : State → Prop} (hP : Kept True P) : ∀ s x2, P s → P (State.applyDestroy s x2) := by
  intros
  unfold State.applyDestroy
  repeat' (first
    | with_reducible assumption
    | intro _
    | with_reducible apply State.wr_kept hP
    | with_reducible apply State.dropLines_kept hP
    | with_reducible apply State.modPart_kept hP
    | with_reducible apply State.endContext_kept hP
    | with_reducible apply State.reply_kept hP
    | with_reducible apply ite_kept (P := P)
    | with_reducible apply foldl_kept (P := P)
    | with_reducible apply foldl_fst_kept (P := P)
    | with_reducible apply foldl_snd_kept (P := P)
    | split
    | dsimp only
    | with_reducible apply hP.upd)

theorem State.action1_kept {P : State → Prop} (hP : Kept True P) : ∀ s x2, P s → P (State.action1 s x2) := by
  intros
  unfold State.action1
  repeat' (first
    | with_reducible assumption
    | intro _
    | with_reducible apply State.completeTeardown_kept hP
    | with_reducible apply State.runDue_kept hP
    | with_reducible apply State.applyDestroy_kept hP
    | with_reducible apply ite_kept (P := P)
    | with_reducible apply foldl_kept (P := P)
    | with_reducible apply foldl_fst_kept (P := P)
    | with_reducible apply foldl_snd_kept (P := P)
    | split
    | dsimp only
    | with_reducible apply hP.upd)

theorem State.dropHeldDroves_kept {m : Prop} {P : State → Prop} (hP : Kept m P) : ∀ s, P s → P (State.dropHeldDroves s) := by
  intros
  unfold State.dropHeldDroves
  repeat' (first
    | with_reducible assumption
    | intro _
    | with_reducible apply State.modCtx_kept hP
    | with_reducible apply ite_kept (P := P)
    | with_reducible apply foldl_kept (P := P)
    | with_reducible apply foldl_fst_kept (P := P)
    | with_reducible apply foldl_snd_kept (P := P)
    | split
    | dsimp only
    | with_reducible apply hP.upd)

theorem State.action2_kept {P : State → Prop} (hP : Kept True P) : ∀ s x2, P s → P (State.action2 s x2) := by
  intros
  unfold State.action2
  repeat' (first
    | with_reducible assumption
    | intro _
    | with_reducible apply State.idle_kept hP
    | with_reducible apply State.ungateRegion_kept hP
    | with_reducible apply State.gateRegion_kept hP
    | with_reducible apply State.reportGated_kept hP
    | with_reducible apply State.dropHeldDroves_kept hP
    | with_reducible apply State.showGated_kept hP
    | with_reducible apply ite_kept (P := P)
    | with_reducible apply foldl_kept (P := P)
    | with_reducible apply foldl_fst_kept (P := P)
    | with_reducible apply foldl_snd_kept (P := P)
    | split
    | dsimp only
    | with_reducible apply hP.upd)

theorem State.moveRow_kept {m : Prop} {P : State → Prop} (hP : Kept m P) : ∀ s x2 x3 x4 x5, P s → P (State.moveRow s x2 x3 x4 x5) := by
  intros
  unfold State.moveRow
  repeat' (first
    | with_reducible assumption
    | intro _
    | with_reducible apply hP.setReg
    | with_reducible apply hP.dropRegs
    | with_reducible apply ite_kept (P := P)
    | with_reducible apply foldl_kept (P := P)
    | with_reducible apply foldl_fst_kept (P := P)
    | with_reducible apply foldl_snd_kept (P := P)
    | split
    | dsimp only
    | with_reducible apply hP.upd)

theorem State.applyRowMap_kept {P : State → Prop} (hP : Kept True P) : ∀ s x2 x3, P s → P (State.applyRowMap s x2 x3) := by
  intros
  unfold State.applyRowMap
  repeat' (first
    | with_reducible assumption
    | intro _
    | with_reducible apply State.wr_kept hP
    | with_reducible apply State.clearTiles_kept hP
    | with_reducible apply State.moveRow_kept hP
    | with_reducible apply State.loseShare_kept hP
    | with_reducible apply ite_kept (P := P)
    | with_reducible apply foldl_kept (P := P)
    | with_reducible apply foldl_fst_kept (P := P)
    | with_reducible apply foldl_snd_kept (P := P)
    | split
    | dsimp only
    | with_reducible apply hP.upd)

theorem State.rowMaps_kept {P : State → Prop} (hP : Kept True P) : ∀ s, P s → P (State.rowMaps s) := by
  intros
  unfold State.rowMaps
  repeat' (first
    | with_reducible assumption
    | intro _
    | with_reducible apply State.applyRowMap_kept hP
    | with_reducible apply ite_kept (P := P)
    | with_reducible apply foldl_kept (P := P)
    | with_reducible apply foldl_fst_kept (P := P)
    | with_reducible apply foldl_snd_kept (P := P)
    | split
    | dsimp only
    | with_reducible apply hP.upd)

theorem State.blockContexts_kept {m : Prop} {P : State → Prop} (hP : Kept m P) : ∀ s, P s → P (State.blockContexts s) := by
  intros
  unfold State.blockContexts
  repeat' (first
    | with_reducible assumption
    | intro _
    | with_reducible apply State.wr_kept hP
    | with_reducible apply State.free_kept hP
    | with_reducible apply State.breach_kept hP
    | with_reducible apply ite_kept (P := P)
    | with_reducible apply foldl_kept (P := P)
    | with_reducible apply foldl_fst_kept (P := P)
    | with_reducible apply foldl_snd_kept (P := P)
    | split
    | dsimp only
    | with_reducible apply hP.upd)

theorem State.endRelocations_kept {m : Prop} {P : State → Prop} (hP : Kept m P) : ∀ s, P s → P (State.endRelocations s) := by
  intros
  unfold State.endRelocations
  repeat' (first
    | with_reducible assumption
    | intro _
    | with_reducible apply State.wr_kept hP
    | with_reducible apply State.modPart_kept hP
    | with_reducible apply ite_kept (P := P)
    | with_reducible apply foldl_kept (P := P)
    | with_reducible apply foldl_fst_kept (P := P)
    | with_reducible apply foldl_snd_kept (P := P)
    | split
    | dsimp only
    | with_reducible apply hP.upd)

theorem State.action4_kept {P : State → Prop} (hP : Kept True P) : ∀ s x2, P s → P (State.action4 s x2) := by
  intros
  unfold State.action4
  repeat' (first
    | with_reducible assumption
    | intro _
    | with_reducible apply State.endRelocations_kept hP
    | with_reducible apply State.rowMaps_kept hP
    | with_reducible apply State.runDue_kept hP
    | with_reducible apply State.applyBuild_kept hP
    | with_reducible apply State.applyDissolve_kept hP
    | with_reducible apply State.applyRelocate_kept hP
    | with_reducible apply State.blockContexts_kept hP
    | with_reducible apply ite_kept (P := P)
    | with_reducible apply foldl_kept (P := P)
    | with_reducible apply foldl_fst_kept (P := P)
    | with_reducible apply foldl_snd_kept (P := P)
    | split
    | dsimp only
    | with_reducible apply hP.upd)

theorem State.applyTables_kept {m : Prop} {P : State → Prop} (hP : Kept m P) : ∀ s x2, P s → P (State.applyTables s x2) := by
  intros
  unfold State.applyTables
  repeat' (first
    | with_reducible assumption
    | intro _
    | with_reducible apply State.applySliceTable_kept hP
    | with_reducible apply ite_kept (P := P)
    | with_reducible apply foldl_kept (P := P)
    | with_reducible apply foldl_fst_kept (P := P)
    | with_reducible apply foldl_snd_kept (P := P)
    | split
    | dsimp only
    | with_reducible apply hP.upd)

theorem State.countPart_kept {m : Prop} {P : State → Prop} (hP : Kept m P) : ∀ s x2 x3 x4, P s → P (State.countPart s x2 x3 x4).1 := by
  intros
  unfold State.countPart
  repeat' (first
    | with_reducible assumption
    | intro _
    | with_reducible apply State.countPreempt_kept hP
    | with_reducible apply State.newTable_kept hP
    | with_reducible apply State.countSlice_kept hP
    | with_reducible apply ite_kept (P := P)
    | with_reducible apply foldl_kept (P := P)
    | with_reducible apply foldl_fst_kept (P := P)
    | with_reducible apply foldl_snd_kept (P := P)
    | split
    | dsimp only
    | with_reducible apply hP.upd)

theorem State.slicePart_kept {P : State → Prop} (hP : Kept True P) : ∀ s x2, P s → P (State.slicePart s x2) := by
  intros
  unfold State.slicePart
  repeat' (first
    | with_reducible assumption
    | intro _
    | with_reducible apply State.applyTables_kept hP
    | with_reducible apply State.countPart_kept hP
    | with_reducible apply State.runChoice_kept hP
    | with_reducible apply State.reply_kept hP
    | with_reducible apply State.startPreempt_kept hP
    | with_reducible apply ite_kept (P := P)
    | with_reducible apply foldl_kept (P := P)
    | with_reducible apply foldl_fst_kept (P := P)
    | with_reducible apply foldl_snd_kept (P := P)
    | split
    | dsimp only
    | with_reducible apply hP.upd)

theorem State.sliceHeld_kept {m : Prop} {P : State → Prop} (hP : Kept m P) : ∀ s x2, P s → P (State.sliceHeld s x2) := by
  intros
  unfold State.sliceHeld
  repeat' (first
    | with_reducible assumption
    | intro _
    | with_reducible apply State.modPart_kept hP
    | with_reducible apply State.wr_kept hP
    | with_reducible apply ite_kept (P := P)
    | with_reducible apply foldl_kept (P := P)
    | with_reducible apply foldl_fst_kept (P := P)
    | with_reducible apply foldl_snd_kept (P := P)
    | split
    | dsimp only
    | with_reducible apply hP.upd)

theorem State.sliceAway_kept {m : Prop} {P : State → Prop} (hP : Kept m P) : ∀ s x2, P s → P (State.sliceAway s x2) := by
  intros
  unfold State.sliceAway
  repeat' (first
    | with_reducible assumption
    | intro _
    | with_reducible apply State.applyTables_kept hP
    | with_reducible apply State.countPart_kept hP
    | with_reducible apply State.reply_kept hP
    | with_reducible apply ite_kept (P := P)
    | with_reducible apply foldl_kept (P := P)
    | with_reducible apply foldl_fst_kept (P := P)
    | with_reducible apply foldl_snd_kept (P := P)
    | split
    | dsimp only
    | with_reducible apply hP.upd)

theorem State.action5_kept {P : State → Prop} (hP : Kept True P) : ∀ s x2, P s → P (State.action5 s x2) := by
  intros
  unfold State.action5
  repeat' (first
    | with_reducible assumption
    | intro _
    | with_reducible apply State.sliceAway_kept hP
    | with_reducible apply State.sliceHeld_kept hP
    | with_reducible apply State.slicePart_kept hP
    | with_reducible apply ite_kept (P := P)
    | with_reducible apply foldl_kept (P := P)
    | with_reducible apply foldl_fst_kept (P := P)
    | with_reducible apply foldl_snd_kept (P := P)
    | split
    | dsimp only
    | with_reducible apply hP.upd)

theorem State.action6_kept {m : Prop} {P : State → Prop} (hP : Kept m P) : ∀ s x2, P s → P (State.action6 s x2) := by
  intros
  unfold State.action6
  repeat' (first
    | with_reducible assumption
    | intro _
    | with_reducible apply State.runDue_kept hP
    | with_reducible apply State.applySwitch_kept hP
    | with_reducible apply State.applyRelease_kept hP
    | with_reducible apply ite_kept (P := P)
    | with_reducible apply foldl_kept (P := P)
    | with_reducible apply foldl_fst_kept (P := P)
    | with_reducible apply foldl_snd_kept (P := P)
    | split
    | dsimp only
    | with_reducible apply hP.upd)

theorem State.action7_kept {P : State → Prop} (hP : Kept True P) : ∀ s x2, P s → P (State.action7 s x2) := by
  intros
  unfold State.action7
  repeat' (first
    | with_reducible assumption
    | intro _
    | with_reducible apply State.seqLate_kept hP
    | with_reducible apply State.runDue_kept hP
    | with_reducible apply State.applyCancel_kept hP
    | with_reducible apply State.retireDue_kept hP
    | with_reducible apply ite_kept (P := P)
    | with_reducible apply foldl_kept (P := P)
    | with_reducible apply foldl_fst_kept (P := P)
    | with_reducible apply foldl_snd_kept (P := P)
    | split
    | dsimp only
    | with_reducible apply hP.upd)

theorem State.action8_kept {m : Prop} {P : State → Prop} (hP : Kept m P) : ∀ s x2, P s → P (State.action8 s x2) := by
  intros
  unfold State.action8
  repeat' (first
    | with_reducible assumption
    | intro _
    | with_reducible apply State.runDue_kept hP
    | with_reducible apply State.sequenceAdmit_kept hP
    | with_reducible apply State.applyAdmit_kept hP
    | with_reducible apply ite_kept (P := P)
    | with_reducible apply foldl_kept (P := P)
    | with_reducible apply foldl_fst_kept (P := P)
    | with_reducible apply foldl_snd_kept (P := P)
    | split
    | dsimp only
    | with_reducible apply hP.upd)

theorem State.actions_kept {P : State → Prop} (hP : Kept True P) : ∀ s x2, P s → P (State.actions s x2) := by
  intros
  unfold State.actions
  repeat' (first
    | with_reducible assumption
    | intro _
    | with_reducible apply State.testEnvelopes_kept hP
    | with_reducible apply State.action1_kept hP
    | with_reducible apply State.action2_kept hP
    | with_reducible apply State.runDue_kept hP
    | with_reducible apply State.applyCap_kept hP
    | with_reducible apply State.action4_kept hP
    | with_reducible apply State.action5_kept hP
    | with_reducible apply State.govern_kept hP
    | with_reducible apply State.action6_kept hP
    | with_reducible apply State.action7_kept hP
    | with_reducible apply State.action8_kept hP
    | with_reducible apply ite_kept (P := P)
    | with_reducible apply foldl_kept (P := P)
    | with_reducible apply foldl_fst_kept (P := P)
    | with_reducible apply foldl_snd_kept (P := P)
    | split
    | dsimp only
    | with_reducible apply hP.upd)

theorem State.reportLate_kept {m : Prop} {P : State → Prop} (hP : Kept m P) : ∀ s x2, P s → P (State.reportLate s x2) := by
  intros
  unfold State.reportLate
  repeat' (first
    | with_reducible assumption
    | intro _
    | with_reducible apply State.modCtx_kept hP
    | with_reducible apply State.fault_kept hP
    | with_reducible apply ite_kept (P := P)
    | with_reducible apply foldl_kept (P := P)
    | with_reducible apply foldl_fst_kept (P := P)
    | with_reducible apply foldl_snd_kept (P := P)
    | split
    | dsimp only
    | with_reducible apply hP.upd)

theorem State.startTrainings_kept {P : State → Prop} (hP : Kept True P) : ∀ s x2, P s → P (State.startTrainings s x2) := by
  intros
  unfold State.startTrainings
  repeat' (first
    | with_reducible assumption
    | intro _
    | with_reducible apply State.reportLate_kept hP
    | with_reducible apply State.runDue_kept hP
    | with_reducible apply State.startTraining_kept hP
    | with_reducible apply State.voided_kept hP
    | with_reducible apply State.startRepeat_kept hP
    | with_reducible apply ite_kept (P := P)
    | with_reducible apply foldl_kept (P := P)
    | with_reducible apply foldl_fst_kept (P := P)
    | with_reducible apply foldl_snd_kept (P := P)
    | split
    | dsimp only
    | with_reducible apply hP.upd)

theorem State.startServings_kept {m : Prop} {P : State → Prop} (hP : Kept m P) : ∀ s x2, P s → P (State.startServings s x2) := by
  intros
  unfold State.startServings
  repeat' (first
    | with_reducible assumption
    | intro _
    | with_reducible apply State.startServing_kept hP
    | with_reducible apply State.modCtx_kept hP
    | with_reducible apply State.chargeSeqs_kept hP
    | with_reducible apply ite_kept (P := P)
    | with_reducible apply foldl_kept (P := P)
    | with_reducible apply foldl_fst_kept (P := P)
    | with_reducible apply foldl_snd_kept (P := P)
    | split
    | dsimp only
    | with_reducible apply hP.upd)

theorem State.action9_kept {P : State → Prop} (hP : Kept True P) : ∀ s x2, P s → P (State.action9 s x2) := by
  intros
  unfold State.action9
  repeat' (first
    | with_reducible assumption
    | intro _
    | with_reducible apply State.startTrainings_kept hP
    | with_reducible apply State.startServings_kept hP
    | with_reducible apply ite_kept (P := P)
    | with_reducible apply foldl_kept (P := P)
    | with_reducible apply foldl_fst_kept (P := P)
    | with_reducible apply foldl_snd_kept (P := P)
    | split
    | dsimp only
    | with_reducible apply hP.upd)

theorem State.action10_kept {P : State → Prop} (hP : Kept True P) : ∀ s, P s → P (State.action10 s) := by
  intros
  unfold State.action10
  repeat' (first
    | with_reducible assumption
    | intro _
    | with_reducible apply State.runDue_kept hP
    | with_reducible apply State.applyCalRestore_kept hP
    | with_reducible apply State.applyWrite_kept hP
    | with_reducible apply State.applyTickDirect_kept hP
    | with_reducible apply State.applyTickEffective_kept hP
    | with_reducible apply State.applyTimeStep_kept hP
    | with_reducible apply State.applyCalWrite_kept hP
    | with_reducible apply State.applyCalCommit_kept hP
    | with_reducible apply ite_kept (P := P)
    | with_reducible apply foldl_kept (P := P)
    | with_reducible apply foldl_fst_kept (P := P)
    | with_reducible apply foldl_snd_kept (P := P)
    | split
    | dsimp only
    | with_reducible apply hP.upd)

theorem State.enterTick_kept {m : Prop} {P : State → Prop} (hP : Kept m P) : ∀ s, P s → P (State.enterTick s) := by
  intros
  unfold State.enterTick
  repeat' (first
    | with_reducible assumption
    | intro _
    | with_reducible apply State.wr_kept hP
    | with_reducible apply ite_kept (P := P)
    | with_reducible apply foldl_kept (P := P)
    | with_reducible apply foldl_fst_kept (P := P)
    | with_reducible apply foldl_snd_kept (P := P)
    | split
    | dsimp only
    | with_reducible apply hP.upd)

theorem State.countSlips_kept {m : Prop} {P : State → Prop} (hP : Kept m P) : ∀ s x2, P s → P (State.countSlips s x2) := by
  intros
  unfold State.countSlips
  repeat' (first
    | with_reducible assumption
    | intro _
    | with_reducible apply State.modPart_kept hP
    | with_reducible apply State.modCtx_kept hP
    | with_reducible apply State.latencyBreach_kept hP
    | with_reducible apply State.slipLimit_kept hP
    | with_reducible apply ite_kept (P := P)
    | with_reducible apply foldl_kept (P := P)
    | with_reducible apply foldl_fst_kept (P := P)
    | with_reducible apply foldl_snd_kept (P := P)
    | split
    | dsimp only
    | with_reducible apply hP.upd)

theorem State.dropFails_kept {m : Prop} {P : State → Prop} (hP : Kept m P) : ∀ s x2, P s → P (State.dropFails s x2) := by
  intros
  unfold State.dropFails
  repeat' (first
    | with_reducible assumption
    | intro _
    | with_reducible apply State.modCtx_kept hP
    | with_reducible apply ite_kept (P := P)
    | with_reducible apply foldl_kept (P := P)
    | with_reducible apply foldl_fst_kept (P := P)
    | with_reducible apply foldl_snd_kept (P := P)
    | split
    | dsimp only
    | with_reducible apply hP.upd)

theorem State.endBoundary_kept {m : Prop} {P : State → Prop} (hP : Kept m P) : ∀ s, P s → P (State.endBoundary s) := by
  intros
  unfold State.endBoundary
  repeat' (first
    | with_reducible assumption
    | intro _
    | with_reducible apply State.payAll_kept hP
    | with_reducible apply State.inc_kept hP
    | with_reducible apply State.modCtx_kept hP
    | with_reducible apply State.dropFails_kept hP
    | with_reducible apply ite_kept (P := P)
    | with_reducible apply foldl_kept (P := P)
    | with_reducible apply foldl_fst_kept (P := P)
    | with_reducible apply foldl_snd_kept (P := P)
    | split
    | dsimp only
    | with_reducible apply hP.upd)

theorem State.boundary_kept {P : State → Prop} (hP : Kept True P) : ∀ s, P s → P (State.boundary s) := by
  intros
  unfold State.boundary
  repeat' (first
    | with_reducible assumption
    | intro _
    | with_reducible apply State.stage_kept hP
    | with_reducible apply State.enterTick_kept hP
    | with_reducible apply State.expireDue_kept hP
    | with_reducible apply State.actions_kept hP
    | with_reducible apply State.action9_kept hP
    | with_reducible apply State.countSlips_kept hP
    | with_reducible apply State.action10_kept hP
    | with_reducible apply State.endBoundary_kept hP
    | with_reducible apply ite_kept (P := P)
    | with_reducible apply foldl_kept (P := P)
    | with_reducible apply foldl_fst_kept (P := P)
    | with_reducible apply foldl_snd_kept (P := P)
    | split
    | dsimp only
    | with_reducible apply hP.upd)

theorem execTickBoundary_kept {P : State → Prop} (hP : Kept True P) : ∀ s, P s → ∀ t, execTickBoundary s = .next t → P t := by
  intros
  rename_i e
  unfold execTickBoundary at e
  cases e
  repeat' (first
    | with_reducible assumption
    | intro _
    | with_reducible apply State.boundary_kept hP
    | with_reducible apply ite_kept (P := P)
    | with_reducible apply foldl_kept (P := P)
    | with_reducible apply foldl_fst_kept (P := P)
    | with_reducible apply foldl_snd_kept (P := P)
    | split
    | dsimp only
    | with_reducible apply hP.upd)

theorem State.sliceExpiry_kept {P : State → Prop} (hP : Kept True P) : ∀ s x2, P s → P (State.sliceExpiry s x2) := by
  intros
  unfold State.sliceExpiry
  repeat' (first
    | with_reducible assumption
    | intro _
    | with_reducible apply State.boundary_kept hP
    | with_reducible apply ite_kept (P := P)
    | with_reducible apply foldl_kept (P := P)
    | with_reducible apply foldl_fst_kept (P := P)
    | with_reducible apply foldl_snd_kept (P := P)
    | split
    | dsimp only
    | with_reducible apply hP.upd)

theorem execSliceExpiry_kept {P : State → Prop} (hP : Kept True P) : ∀ x1 s, P s → ∀ t, execSliceExpiry x1 s = .next t → P t := by
  intros
  rename_i e
  unfold execSliceExpiry at e
  cases e
  repeat' (first
    | with_reducible assumption
    | intro _
    | with_reducible apply State.sliceExpiry_kept hP
    | with_reducible apply ite_kept (P := P)
    | with_reducible apply foldl_kept (P := P)
    | with_reducible apply foldl_fst_kept (P := P)
    | with_reducible apply foldl_snd_kept (P := P)
    | split
    | dsimp only
    | with_reducible apply hP.upd)

theorem State.lookAhead_kept {P : State → Prop} (hP : Kept True P) : ∀ s, P s → P (State.lookAhead s) := by
  intros
  unfold State.lookAhead
  repeat' (first
    | with_reducible assumption
    | intro _
    | with_reducible apply State.enterTick_kept hP
    | with_reducible apply State.expireDue_kept hP
    | with_reducible apply State.actions_kept hP
    | with_reducible apply ite_kept (P := P)
    | with_reducible apply foldl_kept (P := P)
    | with_reducible apply foldl_fst_kept (P := P)
    | with_reducible apply foldl_snd_kept (P := P)
    | split
    | dsimp only
    | with_reducible apply hP.upd)

theorem State.drovePreparation_kept {P : State → Prop} (hP : Kept True P) : ∀ s x2, P s → P (State.drovePreparation s x2) := by
  intros
  unfold State.drovePreparation
  repeat' (first
    | with_reducible assumption
    | intro _
    | with_reducible apply State.lookAhead_kept hP
    | with_reducible apply State.dropFails_kept hP
    | with_reducible apply State.prepare_kept hP
    | with_reducible apply ite_kept (P := P)
    | with_reducible apply foldl_kept (P := P)
    | with_reducible apply foldl_fst_kept (P := P)
    | with_reducible apply foldl_snd_kept (P := P)
    | split
    | dsimp only
    | with_reducible apply hP.upd)

theorem execDrovePreparation_kept {P : State → Prop} (hP : Kept True P) : ∀ x1 s, P s → ∀ t, execDrovePreparation x1 s = .next t → P t := by
  intros
  rename_i e
  unfold execDrovePreparation at e
  cases e
  repeat' (first
    | with_reducible assumption
    | intro _
    | with_reducible apply State.drovePreparation_kept hP
    | with_reducible apply ite_kept (P := P)
    | with_reducible apply foldl_kept (P := P)
    | with_reducible apply foldl_fst_kept (P := P)
    | with_reducible apply foldl_snd_kept (P := P)
    | split
    | dsimp only
    | with_reducible apply hP.upd)

end Sys2Proof.Machine
end

