-- ==== Sys2Proof/Laws/KeptStep.lean ====
section
/-! SUPPORT. What every command keeps, and so every step. -/

set_option Elab.async false
set_option linter.unusedTactic false
set_option linter.unreachableTactic false

namespace Sys2Proof.Machine

/-- A property that the updates of registers and memory keep is kept by every command. -/
theorem exec_kept {P : State → Prop} (hP : Kept True P) (i : Instr) {s t : State} (h : P s) (e : exec i s = .next t) : P t := by
  cases i with
  | deviceIdentity hd => exact execDeviceIdentity_kept hP hd s h t e
  | echo hd data => exact execEcho_kept hP hd data s h t e
  | configurationRead hd addrs => exact execConfigurationRead_kept hP hd addrs s h t e
  | configurationWrite hd head entries => exact execConfigurationWrite_kept hP hd head entries s h t e
  | tilNumStatusClearCount hd tile value => exact execTilNumStatusClearCount_kept hP hd tile value s h t e
  | tilSramEccClearCount hd tile value => exact execTilSramEccClearCount_kept hP hd tile value s h t e
  | tilCounterCtrlClearAll hd tile value => exact execTilCounterCtrlClearAll_kept hP hd tile value s h t e
  | aryQueueSelWrite hd tile feeder queue => exact execAryQueueSelWrite_kept hP hd tile feeder queue s h t e
  | bwdCtrlClearTags hd tile => exact execBwdCtrlClearTags_kept hP hd tile s h t e
  | stkEccClearCount hd stack => exact execStkEccClearCount_kept hP hd stack s h t e
  | tilRowMapWrite hd field row stagedF stagedB => exact execTilRowMapWrite_kept hP hd field row stagedF stagedB s h t e
  | calBistCtrlStart hd ptile => exact execCalBistCtrlStart_kept hP hd ptile s h t e
  | bistComplete ptile failUnits => exact execBistComplete_kept hP ptile failUnits s h t e
  | portEnable hd port value => exact execPortEnable_kept hP hd port value s h t e
  | portDisable hd port value => exact execPortDisable_kept hP hd port value s h t e
  | mgmtAddressWrite hd m which value => exact execMgmtAddressWrite_kept hP hd m which value s h t e
  | partitionBuild hd x0 y0 w ht prio stackMask slabBase slabCount creditPool => exact execPartitionBuild_kept hP hd x0 y0 w ht prio stackMask slabBase slabCount creditPool s h t e
  | partitionDissolve hd => exact execPartitionDissolve_kept hP hd s h t e
  | partitionRelocate hd x0 y0 => exact execPartitionRelocate_kept hP hd x0 y0 s h t e
  | relocationComplete p => exact execRelocationComplete_kept hP p s h t e
  | contextCreate hd slot role shareBase shareLines exclusive baseSeed creditFloor evictAddr latencyTarget reportEn => exact execContextCreate_kept hP hd slot role shareBase shareLines exclusive baseSeed creditFloor evictAddr latencyTarget reportEn s h t e
  | contextDestroy hd => exact execContextDestroy_kept hP hd s h t e
  | sliceTableSet hd n entries => exact execSliceTableSet_kept hP hd n entries s h t e
  | contextPreEmpt hd ctx ticks => exact execContextPreEmpt_kept hP hd ctx ticks s h t e
  | freeAreaQuery hd => exact execFreeAreaQuery_kept hP hd s h t e
  | slowdownRead hd count => exact execSlowdownRead_kept hP hd count s h t e
  | programOpen hd len digest => exact execProgramOpen_kept hP hd len digest s h t e
  | programData hd offset data => exact execProgramData_kept hP hd offset data s h t e
  | programFetch hd addr len => exact execProgramFetch_kept hP hd addr len s h t e
  | programCommit hd => exact execProgramCommit_kept hP hd s h t e
  | weightSetOpen hd req => exact execWeightSetOpen_kept hP hd req s h t e
  | storageRead hd req => exact execStorageRead_kept hP hd req s h t e
  | storageReadData controller readId data => exact execStorageReadData_kept hP controller readId data s h t e
  | storageReadTimeout controller readId => exact execStorageReadTimeout_kept hP controller readId s h t e
  | storageConnectionLost controller => exact execStorageConnectionLost_kept hP controller s h t e
  | weightSetCommit hd slot => exact execWeightSetCommit_kept hP hd slot s h t e
  | buildTimeout ctx slot => exact execBuildTimeout_kept hP ctx slot s h t e
  | weightSetSwitch hd slot => exact execWeightSetSwitch_kept hP hd slot s h t e
  | weightSetRelease hd slot force => exact execWeightSetRelease_kept hP hd slot force s h t e
  | weightSetDigest hd slot shard => exact execWeightSetDigest_kept hP hd slot shard s h t e
  | adapterLoad hd entry rank scale tag shards stream => exact execAdapterLoad_kept hP hd entry rank scale tag shards stream s h t e
  | adapterDrop hd entry => exact execAdapterDrop_kept hP hd entry s h t e
  | storageConnect hd req => exact execStorageConnect_kept hP hd req s h t e
  | storageDisconnect hd controller => exact execStorageDisconnect_kept hP hd controller s h t e
  | shardArrival stream port => exact execShardArrival_kept hP stream port s h t e
  | sequenceAdmit hd req => exact execSequenceAdmit_kept hP hd req s h t e
  | sequenceCancel hd slot => exact execSequenceCancel_kept hP hd slot s h t e
  | sequenceQuery hd slot => exact execSequenceQuery_kept hP hd slot s h t e
  | sequenceDeadlineExpiry slot => exact execSequenceDeadlineExpiry_kept hP slot s h t e
  | servingConfigure hd values => exact execServingConfigure_kept hP hd values s h t e
  | ringConfigure hd ring k base => exact execRingConfigure_kept hP hd ring k base s h t e
  | drovePreparation ctx => exact execDrovePreparation_kept hP ctx s h t e
  | trainingStep hd req => exact execTrainingStep_kept hP hd req s h t e
  | inputLogCopyComplete ctx => exact execInputLogCopyComplete_kept hP ctx s h t e
  | rosterTree hd descriptor => exact execRosterTree_kept hP hd descriptor s h t e
  | jobStartStatus hd rosterDigest => exact execJobStartStatus_kept hP hd rosterDigest s h t e
  | inputLogRead hd step source offset => exact execInputLogRead_kept hP hd step source offset s h t e
  | inputLogConfigure hd base depth entryUnits inputAddr inWin keep => exact execInputLogConfigure_kept hP hd base depth entryUnits inputAddr inWin keep s h t e
  | inputLogLoad hd offset total data => exact execInputLogLoad_kept hP hd offset total data s h t e
  | jobStartArm hd bellwether areaBase areaUnits commitTimeoutS => exact execJobStartArm_kept hP hd bellwether areaBase areaUnits commitTimeoutS s h t e
  | jobStartBroadcast hd rosterAddr members blobAddr blobLen => exact execJobStartBroadcast_kept hP hd rosterAddr members blobAddr blobLen s h t e
  | streamOpen hd req => exact execStreamOpen_kept hP hd req s h t e
  | streamClose hd handle => exact execStreamClose_kept hP hd handle s h t e
  | mirrorConfigure hd handle => exact execMirrorConfigure_kept hP hd handle s h t e
  | mirrorAccept hd handle base depth entryUnits => exact execMirrorAccept_kept hP hd handle base depth entryUnits s h t e
  | tickSetDirect hd mode epoch periodUs => exact execTickSetDirect_kept hP hd mode epoch periodUs s h t e
  | tickSetEffective hd k periodUs => exact execTickSetEffective_kept hP hd k periodUs s h t e
  | timeStep hd offsetNs => exact execTimeStep_kept hP hd offsetNs s h t e
  | timeStatus hd => exact execTimeStatus_kept hP hd s h t e
  | counterSnapshot hd space first count offset => exact execCounterSnapshot_kept hP hd space first count offset s h t e
  | sensorRead hd => exact execSensorRead_kept hP hd s h t e
  | faultLogRead hd first count => exact execFaultLogRead_kept hP hd first count s h t e
  | measurementRead hd => exact execMeasurementRead_kept hP hd s h t e
  | measurementExtend hd slot value => exact execMeasurementExtend_kept hP hd slot value s h t e
  | certificateRead hd which offset => exact execCertificateRead_kept hP hd which offset s h t e
  | attestationQuote hd nonce ctx session => exact execAttestationQuote_kept hP hd nonce ctx session s h t e
  | quoteSigned => exact execQuoteSigned_kept hP s h t e
  | quoteRead hd id offset => exact execQuoteRead_kept hP hd id offset s h t e
  | sessionEstablishKey hd => exact execSessionEstablishKey_kept hP hd s h t e
  | sessionEstablishCiphertext hd session bind ciphertext => exact execSessionEstablishCiphertext_kept hP hd session bind ciphertext s h t e
  | sessionTimeout session => exact execSessionTimeout_kept hP session s h t e
  | streamKeySet hd session slot salt direction => exact execStreamKeySet_kept hP hd session slot salt direction s h t e
  | debugUnlockChallenge hd level => exact execDebugUnlockChallenge_kept hP hd level s h t e
  | debugUnlockResponse hd offset total data => exact execDebugUnlockResponse_kept hP hd offset total data s h t e
  | firmwareUpdateInstall hd target addr len => exact execFirmwareUpdateInstall_kept hP hd target addr len s h t e
  | firmwareUpdateStage hd addr offset total data => exact execFirmwareUpdateStage_kept hP hd addr offset total data s h t e
  | firmwareUpdateFloor hd target fuseOk => exact execFirmwareUpdateFloor_kept hP hd target fuseOk s h t e
  | keyEnrolment hd offset total data fuseOk => exact execKeyEnrolment_kept hP hd offset total data fuseOk s h t e
  | traceEnable hd base k => exact execTraceEnable_kept hP hd base k s h t e
  | traceDisable hd => exact execTraceDisable_kept hP hd s h t e
  | powerCapSet hd capW => exact execPowerCapSet_kept hP hd capW s h t e
  | thermalStatus hd => exact execThermalStatus_kept hP hd s h t e
  | calibrationRead hd kind => exact execCalibrationRead_kept hP hd kind s h t e
  | calibrationWrite hd record => exact execCalibrationWrite_kept hP hd record s h t e
  | calibrationCommit hd => exact execCalibrationCommit_kept hP hd s h t e
  | calibrationRestore hd offset total data => exact execCalibrationRestore_kept hP hd offset total data s h t e
  | resultRead hd source ring start count => exact execResultRead_kept hP hd source ring start count s h t e
  | resultRelease hd source ring upto => exact execResultRelease_kept hP hd source ring upto s h t e
  | retentionSet hd ms => exact execRetentionSet_kept hP hd ms s h t e
  | resultRetentionExpiry ctx source ring => exact execResultRetentionExpiry_kept hP ctx source ring s h t e
  | runtimeReply channel tag => exact execRuntimeReply_kept hP channel tag s h t e
  | fwTimeout channel tag => exact execFwTimeout_kept hP channel tag s h t e
  | commandDeadlineExpiry channel tag => exact execCommandDeadlineExpiry_kept hP channel tag s h t e
  | returnTimeout channel => exact execReturnTimeout_kept hP channel s h t e
  | relayConnection m clientKeyHash => exact execRelayConnection_kept hP m clientKeyHash s h t e
  | tickBoundary => exact execTickBoundary_kept hP s h t e
  | ungatingStart region => exact execUngatingStart_kept hP region s h t e
  | sliceExpiry p => exact execSliceExpiry_kept hP p s h t e
  | tickSlipLimit p => exact execTickSlipLimit_kept hP p s h t e
  | latencyBreach ctx => exact execLatencyBreach_kept hP ctx s h t e
  | evictionComplete p => exact execEvictionComplete_kept hP p s h t e
  | fabricDrainTimeout ctx => exact execFabricDrainTimeout_kept hP ctx s h t e
  | computeWordIssue tile ecc sram => exact execComputeWordIssue_kept hP tile ecc sram s h t e
  | productStart tile ecc => exact execProductStart_kept hP tile ecc s h t e
  | productComplete tile stalls => exact execProductComplete_kept hP tile stalls s h t e
  | elementWiseStart tile ecc stalls => exact execElementWiseStart_kept hP tile ecc stalls s h t e
  | rowEngineOperation tile ecc => exact execRowEngineOperation_kept hP tile ecc s h t e
  | vectorOperation tile slot ecc => exact execVectorOperation_kept hP tile slot ecc s h t e
  | wideningAdd tile slot ecc => exact execWideningAdd_kept hP tile slot ecc s h t e
  | roundWithLedger tile slot ecc => exact execRoundWithLedger_kept hP tile slot ecc s h t e
  | checksumResidues tile slot ecc => exact execChecksumResidues_kept hP tile slot ecc s h t e
  | pruningUnit tile slot ecc => exact execPruningUnit_kept hP tile slot ecc s h t e
  | mulePassStart tile ecc => exact execMulePassStart_kept hP tile ecc s h t e
  | mulePanelComplete tile => exact execMulePanelComplete_kept hP tile s h t e
  | mulePassComplete tile stalls => exact execMulePassComplete_kept hP tile stalls s h t e
  | muleLoadComplete tile ecc => exact execMuleLoadComplete_kept hP tile ecc s h t e
  | rendezvousArrival tile => exact execRendezvousArrival_kept hP tile s h t e
  | rendezvousRelease ctx rdv => exact execRendezvousRelease_kept hP ctx rdv s h t e
  | rendezvousTimeout tile => exact execRendezvousTimeout_kept hP tile s h t e
  | semaphoreWaitTimeout tile access => exact execSemaphoreWaitTimeout_kept hP tile access s h t e
  | accessWordIssue tile ecc => exact execAccessWordIssue_kept hP tile ecc s h t e
  | accessWordComplete tile ecc => exact execAccessWordComplete_kept hP tile ecc s h t e
  | tileStepEnd tile => exact execTileStepEnd_kept hP tile s h t e
  | contextStepEnd ctx => exact execContextStepEnd_kept hP ctx s h t e
  | downlinkLineReceive tile crcOk => exact execDownlinkLineReceive_kept hP tile crcOk s h t e
  | downlinkRequestTimeout tile => exact execDownlinkRequestTimeout_kept hP tile s h t e
  | meshLineReceive tile dir parityOk => exact execMeshLineReceive_kept hP tile dir parityOk s h t e
  | expressEdgeDrop tile lane => exact execExpressEdgeDrop_kept hP tile lane s h t e
  | stackRequest stack line write by_ ecc => exact execStackRequest_kept hP stack line write by_ ecc s h t e
  | stackScrubUnit stack ecc badLine => exact execStackScrubUnit_kept hP stack ecc badLine s h t e
  | stackLost stack => exact execStackLost_kept hP stack s h t e
  | weightScrubShard readError1 readError2 => exact execWeightScrubShard_kept hP readError1 readError2 s h t e
  | heartbeatTimeout ptile tileMissing routerMissing => exact execHeartbeatTimeout_kept hP ptile tileMissing routerMissing s h t e
  | crossingTimeout crossing unit_ => exact execCrossingTimeout_kept hP crossing unit_ s h t e
  | crossingWake crossing unit_ => exact execCrossingWake_kept hP crossing unit_ s h t e
  | wakeTimeout crossing unit_ => exact execWakeTimeout_kept hP crossing unit_ s h t e
  | crossingRestart crossing unit_ => exact execCrossingRestart_kept hP crossing unit_ s h t e
  | ptpMessageReceived msg => exact execPtpMessageReceived_kept hP msg s h t e
  | syncLoss => exact execSyncLoss_kept hP s h t e
  | holdoverExpiry => exact execHoldoverExpiry_kept hP s h t e
  | ppsEdge errorNs => exact execPpsEdge_kept hP errorNs s h t e
  | timePortLinkUp q lengthDm => exact execTimePortLinkUp_kept hP q lengthDm s h t e
  | cableMeasurement port lengthDm optical powerClassW => exact execCableMeasurement_kept hP port lengthDm optical powerClassW s h t e
  | linkTrained port => exact execLinkTrained_kept hP port s h t e
  | alignmentLoss port => exact execAlignmentLoss_kept hP port s h t e
  | lldpTransmit port => exact execLldpTransmit_kept hP port s h t e
  | lldpduReceived port chassis portId ttl tlv => exact execLldpduReceived_kept hP port chassis portId ttl tlv s h t e
  | lldpTtlExpiry port => exact execLldpTtlExpiry_kept hP port s h t e
  | neighbourDiscovery port kind => exact execNeighbourDiscovery_kept hP port kind s h t e
  | dataReceived port pkt => exact execDataReceived_kept hP port pkt s h t e
  | ackReceived ack => exact execAckReceived_kept hP ack s h t e
  | ackDelayExpiry stream => exact execAckDelayExpiry_kept hP stream s h t e
  | retransmissionTimeout stream psn peer => exact execRetransmissionTimeout_kept hP stream psn peer s h t e
  | streamTimeout stream => exact execStreamTimeout_kept hP stream s h t e
  | congestionPeriod stream => exact execCongestionPeriod_kept hP stream s h t e
  | controlMessageReceived peer id ctype body => exact execControlMessageReceived_kept hP peer id ctype body s h t e
  | ctrlAck peer id => exact execCtrlAck_kept hP peer id s h t e
  | ctrlRetryExpiry id => exact execCtrlRetryExpiry_kept hP id s h t e
  | jobDeliver peer psn part => exact execJobDeliver_kept hP peer psn part s h t e
  | jobAck peer id broadcastId generation member digest => exact execJobAck_kept hP peer id broadcastId generation member digest s h t e
  | ackLevelDeadline broadcastId => exact execAckLevelDeadline_kept hP broadcastId s h t e
  | jobCommit sender id broadcastId rosterDigest => exact execJobCommit_kept hP sender id broadcastId rosterDigest s h t e
  | jobCommitAck peer id broadcastId member => exact execJobCommitAck_kept hP peer id broadcastId member s h t e
  | commitTimeout ctx => exact execCommitTimeout_kept hP ctx s h t e
  | mirror stream step entry => exact execMirror_kept hP stream step entry s h t e
  | mirrorAck peer id rosterDigest step digest => exact execMirrorAck_kept hP peer id rosterDigest step digest s h t e
  | mirrorBehind ctx => exact execMirrorBehind_kept hP ctx s h t e
  | contributionReceived ctx child step attempt => exact execContributionReceived_kept hP ctx child step attempt s h t e
  | hopDeadlineExpiry ctx => exact execHopDeadlineExpiry_kept hP ctx s h t e
  | voidRequest peer id msg => exact execVoidRequest_kept hP peer id msg s h t e
  | rootDeadlineExpiry ctx => exact execRootDeadlineExpiry_kept hP ctx s h t e
  | verdict peer id msg => exact execVerdict_kept hP peer id msg s h t e
  | verdictQuery peer id msg => exact execVerdictQuery_kept hP peer id msg s h t e
  | verdictTimeout ctx => exact execVerdictTimeout_kept hP ctx s h t e
  | inputFilterUpdate => exact execInputFilterUpdate_kept hP s h t e
  | sensorSample kind index value => exact execSensorSample_kept hP kind index value s h t e
  | entryImbalance entry => exact execEntryImbalance_kept hP entry s h t e
  | supplyTrip cause entry => exact execSupplyTrip_kept hP cause entry s h t e
  | emergencyOff => exact execEmergencyOff_kept hP s h t e
  | moduleThermalTrip condition index => exact execModuleThermalTrip_kept hP condition index s h t e
  | regionEmergency region => exact execRegionEmergency_kept hP region s h t e
  | limiterRise => exact execLimiterRise_kept hP s h t e
  | limiterFall => exact execLimiterFall_kept hP s h t e
  | droopClockStretching tile cycles => exact execDroopClockStretching_kept hP tile cycles s h t e
  | fieldConverterFailure field => exact execFieldConverterFailure_kept hP field s h t e
  | inputApplied => exact execInputApplied_kept hP s h t e
  | prechargeComplete entry => exact execPrechargeComplete_kept hP entry s h t e
  | standbyPowerArrival => exact execStandbyPowerArrival_kept hP s h t e
  | powerOn iface tag => exact execPowerOn_kept hP iface tag s h t e
  | powerUpPreconditions => exact execPowerUpPreconditions_kept hP s h t e
  | powerUpStageTimeout p7 => exact execPowerUpStageTimeout_kept hP p7 s h t e
  | powerUpStageComplete result => exact execPowerUpStageComplete_kept hP result s h t e
  | powerGood => exact execPowerGood_kept hP s h t e
  | powerOff iface tag => exact execPowerOff_kept hP iface tag s h t e
  | moduleResetAssert => exact execModuleResetAssert_kept hP s h t e
  | moduleResetRelease => exact execModuleResetRelease_kept hP s h t e
  | serviceStatus iface tag => exact execServiceStatus_kept hP iface tag s h t e
  | serviceFaultLogRead iface tag first count => exact execServiceFaultLogRead_kept hP iface tag first count s h t e
  | trustedRelay tag packetTag mode target addr offset total data => exact execTrustedRelay_kept hP tag packetTag mode target addr offset total data s h t e
  | serviceFrameTimeout iface => exact execServiceFrameTimeout_kept hP iface s h t e
  | jtagInstruction instr => exact execJtagInstruction_kept hP instr s h t e
  | standbyPowerLoss => exact execStandbyPowerLoss_kept hP s h t e
  | opcodeUnassigned packet service => exact execOpcodeUnassigned_kept hP packet service s h t e
  | linkLowPowerEntry => exact execLinkLowPowerEntry_kept hP s h t e
  | linkAcceptsAgain channel => exact execLinkAcceptsAgain_kept hP channel s h t e
  | runtimeRestart up => exact execRuntimeRestart_kept hP up s h t e
  | relayConnectionEnd m channel packet => exact execRelayConnectionEnd_kept hP m channel packet s h t e

end Sys2Proof.Machine
end

