-- ==== Sys2Proof/Laws/Sparse.lean ====
section
/-! SUPPORT. The sparse tables: what an entry reads as after it is set, and that every operation keeps the canonical form. -/

set_option Elab.async false

namespace Sys2Proof.Machine

/-- The keys of a table rise strictly from above `n`. -/
def Sparse.above {α : Type} : Nat → List (Nat × α) → Prop
  | _, [] => True
  | n, (j, _) :: t => n < j ∧ Sparse.above j t

theorem Sparse.above_mono {α : Type} {n m : Nat} {l : List (Nat × α)} (h : m ≤ n) (a : Sparse.above n l) : Sparse.above m l := by
  cases l with
  | nil => trivial
  | cons e t => exact ⟨Nat.lt_of_le_of_lt h a.1, a.2⟩

/-- The canonical form, by the head of the table. -/
theorem Sparse.wf_cons {α : Type} [DecidableEq α] {d : Nat → α} {j : Nat} {v : α} {t : List (Nat × α)} :
    Sparse.wf d ((j, v) :: t) = true ↔ v ≠ d j ∧ Sparse.above j t ∧ Sparse.wf d t = true := by
  cases t with
  | nil => simp [Sparse.wf, Sparse.above]
  | cons e t =>
    constructor
    · intro h
      simp only [Sparse.wf, Bool.and_eq_true, decide_eq_true_eq] at h
      refine ⟨h.1.1, ⟨h.1.2, ?_⟩, h.2⟩
      have : ∀ (k : Nat) (w : α) (t : List (Nat × α)), Sparse.wf d ((k, w) :: t) = true → Sparse.above k t := by
        intro k w t h
        induction t generalizing k w with
        | nil => trivial
        | cons e t ih =>
          simp only [Sparse.wf, Bool.and_eq_true, decide_eq_true_eq] at h
          exact ⟨h.1.2, ih _ _ h.2⟩
      exact this _ _ _ h.2
    · intro h
      simp only [Sparse.wf, Bool.and_eq_true, decide_eq_true_eq]
      exact ⟨⟨h.1, h.2.1.1⟩, h.2.2⟩

theorem Sparse.get_above {α : Type} {d : α} {n k : Nat} {l : List (Nat × α)} (h : Sparse.above n l) (hk : k ≤ n) :
    Sparse.get d l k = d := by
  induction l generalizing n with
  | nil => rfl
  | cons e t ih =>
    have hj : e.1 ≠ k := by have := h.1; omega
    simp only [Sparse.get, if_neg hj]
    exact ih h.2 (by have := h.1; omega)

theorem Sparse.above_put {α : Type} [DecidableEq α] {d : α} {n k : Nat} {v : α} {l : List (Nat × α)} (h : Sparse.above n l) (hk : n < k) :
    Sparse.above n (Sparse.put d l k v) := by
  induction l generalizing n with
  | nil => unfold Sparse.put; split <;> simp_all [Sparse.above]
  | cons e t ih =>
    obtain ⟨h1, h2⟩ := h
    unfold Sparse.put
    split
    · split
      · exact ⟨h1, h2⟩
      · exact ⟨hk, by assumption, h2⟩
    · split
      · split
        · exact Sparse.above_mono (Nat.le_of_lt h1) h2
        · exact ⟨hk, Sparse.above_mono (by omega) h2⟩
      · exact ⟨h1, ih h2 (by omega)⟩

/-- Setting an entry keeps the canonical form. -/
theorem Sparse.wf_put {α : Type} [DecidableEq α] {d : Nat → α} {l : List (Nat × α)} (h : Sparse.wf d l = true) (k : Nat) (v : α) :
    Sparse.wf d (Sparse.put (d k) l k v) = true := by
  induction l with
  | nil =>
    unfold Sparse.put
    split
    · rfl
    · simpa [Sparse.wf] using ‹_›
  | cons e t ih =>
    obtain ⟨j, w⟩ := e
    obtain ⟨h1, h2, h3⟩ := Sparse.wf_cons.1 h
    unfold Sparse.put
    split
    · split
      · exact h
      · exact Sparse.wf_cons.2 ⟨by assumption, ⟨by assumption, h2⟩, h⟩
    · split
      · split
        · exact h3
        · next e _ => exact Sparse.wf_cons.2 ⟨by assumption, by subst e; exact h2, h3⟩
      · exact Sparse.wf_cons.2 ⟨h1, Sparse.above_put h2 (by omega), ih h3⟩

theorem Sparse.above_filter {α : Type} {n : Nat} {l : List (Nat × α)} (p : Nat × α → Bool) (h : Sparse.above n l) :
    Sparse.above n (l.filter p) := by
  induction l generalizing n with
  | nil => trivial
  | cons e t ih =>
    obtain ⟨h1, h2⟩ := h
    simp only [List.filter]
    split
    · exact ⟨h1, ih h2⟩
    · exact ih (Sparse.above_mono (Nat.le_of_lt h1) h2)

/-- Leaving entries out keeps the canonical form. -/
theorem Sparse.wf_filter {α : Type} [DecidableEq α] {d : Nat → α} {l : List (Nat × α)} (p : Nat × α → Bool) (h : Sparse.wf d l = true) :
    Sparse.wf d (l.filter p) = true := by
  induction l with
  | nil => rfl
  | cons e t ih =>
    obtain ⟨h1, h2, h3⟩ := Sparse.wf_cons.1 h
    simp only [List.filter]
    split
    · exact Sparse.wf_cons.2 ⟨h1, Sparse.above_filter p h2, ih h3⟩
    · exact ih h3

theorem Sparse.wf_drop {α : Type} [DecidableEq α] {d : Nat → α} {l : List (Nat × α)} (p : Nat → Bool) (h : Sparse.wf d l = true) :
    Sparse.wf d (Sparse.drop p l) = true := Sparse.wf_filter _ h

/-- An entry set in a canonical table reads as it was set. -/
theorem Sparse.get_put_self {α : Type} [DecidableEq α] {d : Nat → α} {l : List (Nat × α)} (h : Sparse.wf d l = true) (k : Nat) (v : α) :
    Sparse.get (d k) (Sparse.put (d k) l k v) k = v := by
  induction l with
  | nil =>
    unfold Sparse.put
    split
    · exact Eq.symm ‹_›
    · simp [Sparse.get]
  | cons e t ih =>
    obtain ⟨j, w⟩ := e
    obtain ⟨h1, h2, h3⟩ := Sparse.wf_cons.1 h
    unfold Sparse.put
    split
    · next hk =>
      split
      · next hv => simp only [Sparse.get]; rw [if_neg (by omega), Sparse.get_above h2 (by omega), hv]
      · simp [Sparse.get]
    · split
      · next hj =>
        split
        · next hv => subst hj; rw [Sparse.get_above h2 (Nat.le_refl _), hv]
        · simp [Sparse.get]
      · next hj =>
        simp only [Sparse.get]
        rw [if_neg (fun e => hj e.symm)]
        exact ih h3

/-- Setting one entry leaves every other as it was. -/
theorem Sparse.get_put_ne {α : Type} [DecidableEq α] {d d' : α} {l : List (Nat × α)} {j k : Nat} (v : α) (h : j ≠ k) :
    Sparse.get d' (Sparse.put d l k v) j = Sparse.get d' l j := by
  induction l with
  | nil => unfold Sparse.put; split <;> simp [Sparse.get, Ne.symm h]
  | cons e t ih =>
    obtain ⟨i, w⟩ := e
    unfold Sparse.put
    split
    · split
      · rfl
      · simp [Sparse.get, Ne.symm h]
    · split
      · next hi => subst hi; split <;> simp [Sparse.get, Ne.symm h]
      · simp only [Sparse.get, ih]

/-- Entries left out read as unlisted, the others as before. -/
theorem Sparse.get_drop {α : Type} {d : α} {l : List (Nat × α)} (p : Nat → Bool) (k : Nat) :
    Sparse.get d (Sparse.drop p l) k = if p k then d else Sparse.get d l k := by
  induction l with
  | nil => simp [Sparse.get, Sparse.drop]
  | cons e t ih =>
    obtain ⟨j, v⟩ := e
    simp only [Sparse.drop, List.filter] at ih ⊢
    by_cases hj : p j
    · simp only [hj, Bool.not_true, ih, Sparse.get]
      by_cases e : j = k
      · subst e; simp [hj]
      · simp [e]
    · simp only [hj, Bool.not_false, Sparse.get, ih]
      by_cases e : j = k
      · subst e; simp [hj]
      · simp [e]

end Sys2Proof.Machine
end

