-- ==== Sys2Proof/Laws/State.lean ====
section
/-! SUPPORT. The state's named updates: what each leaves alone, field by field; what a register, a field and a byte read as after a
write; and that the updates keep the canonical form. -/

set_option Elab.async false

namespace Sys2Proof.Machine

/-! ### setReg -/

@[simp] theorem State.setReg_mem (s : State) (a v : Nat) : (s.setReg a v).mem = s.mem := rfl
@[simp] theorem State.setReg_poisoned (s : State) (a v : Nat) : (s.setReg a v).poisoned = s.poisoned := rfl
@[simp] theorem State.setReg_hall (s : State) (a v : Nat) : (s.setReg a v).hall = s.hall := rfl
@[simp] theorem State.setReg_time (s : State) (a v : Nat) : (s.setReg a v).time = s.time := rfl
@[simp] theorem State.setReg_pins (s : State) (a v : Nat) : (s.setReg a v).pins = s.pins := rfl
@[simp] theorem State.setReg_pwr (s : State) (a v : Nat) : (s.setReg a v).pwr = s.pwr := rfl
@[simp] theorem State.setReg_cal (s : State) (a v : Nat) : (s.setReg a v).cal = s.cal := rfl
@[simp] theorem State.setReg_cmd (s : State) (a v : Nat) : (s.setReg a v).cmd = s.cmd := rfl
@[simp] theorem State.setReg_fab (s : State) (a v : Nat) : (s.setReg a v).fab = s.fab := rfl
@[simp] theorem State.setReg_sec (s : State) (a v : Nat) : (s.setReg a v).sec = s.sec := rfl
@[simp] theorem State.setReg_wgt (s : State) (a v : Nat) : (s.setReg a v).wgt = s.wgt := rfl
@[simp] theorem State.setReg_seqs (s : State) (a v : Nat) : (s.setReg a v).seqs = s.seqs := rfl
@[simp] theorem State.setReg_ctxs (s : State) (a v : Nat) : (s.setReg a v).ctxs = s.ctxs := rfl
@[simp] theorem State.setReg_parts (s : State) (a v : Nat) : (s.setReg a v).parts = s.parts := rfl
@[simp] theorem State.setReg_eng (s : State) (a v : Nat) : (s.setReg a v).eng = s.eng := rfl
@[simp] theorem State.setReg_net (s : State) (a v : Nat) : (s.setReg a v).net = s.net := rfl
@[simp] theorem State.setReg_rings (s : State) (a v : Nat) : (s.setReg a v).rings = s.rings := rfl
@[simp] theorem State.setReg_lateClears (s : State) (a v : Nat) : (s.setReg a v).lateClears = s.lateClears := rfl
@[simp] theorem State.setReg_relayTable (s : State) (a v : Nat) : (s.setReg a v).relayTable = s.relayTable := rfl
@[simp] theorem State.setReg_faultLog (s : State) (a v : Nat) : (s.setReg a v).faultLog = s.faultLog := rfl
@[simp] theorem State.setReg_cdc (s : State) (a v : Nat) : (s.setReg a v).cdc = s.cdc := rfl
@[simp] theorem State.setReg_fresh (s : State) (a v : Nat) : (s.setReg a v).fresh = s.fresh := rfl
@[simp] theorem State.setReg_pending (s : State) (a v : Nat) : (s.setReg a v).pending = s.pending := rfl

/-! ### wr -/

@[simp] theorem State.wr_mem (s : State) (f : RF) (x : Nat) : (s.wr f x).mem = s.mem := rfl
@[simp] theorem State.wr_poisoned (s : State) (f : RF) (x : Nat) : (s.wr f x).poisoned = s.poisoned := rfl
@[simp] theorem State.wr_hall (s : State) (f : RF) (x : Nat) : (s.wr f x).hall = s.hall := rfl
@[simp] theorem State.wr_time (s : State) (f : RF) (x : Nat) : (s.wr f x).time = s.time := rfl
@[simp] theorem State.wr_pins (s : State) (f : RF) (x : Nat) : (s.wr f x).pins = s.pins := rfl
@[simp] theorem State.wr_pwr (s : State) (f : RF) (x : Nat) : (s.wr f x).pwr = s.pwr := rfl
@[simp] theorem State.wr_cal (s : State) (f : RF) (x : Nat) : (s.wr f x).cal = s.cal := rfl
@[simp] theorem State.wr_cmd (s : State) (f : RF) (x : Nat) : (s.wr f x).cmd = s.cmd := rfl
@[simp] theorem State.wr_fab (s : State) (f : RF) (x : Nat) : (s.wr f x).fab = s.fab := rfl
@[simp] theorem State.wr_sec (s : State) (f : RF) (x : Nat) : (s.wr f x).sec = s.sec := rfl
@[simp] theorem State.wr_wgt (s : State) (f : RF) (x : Nat) : (s.wr f x).wgt = s.wgt := rfl
@[simp] theorem State.wr_seqs (s : State) (f : RF) (x : Nat) : (s.wr f x).seqs = s.seqs := rfl
@[simp] theorem State.wr_ctxs (s : State) (f : RF) (x : Nat) : (s.wr f x).ctxs = s.ctxs := rfl
@[simp] theorem State.wr_parts (s : State) (f : RF) (x : Nat) : (s.wr f x).parts = s.parts := rfl
@[simp] theorem State.wr_eng (s : State) (f : RF) (x : Nat) : (s.wr f x).eng = s.eng := rfl
@[simp] theorem State.wr_net (s : State) (f : RF) (x : Nat) : (s.wr f x).net = s.net := rfl
@[simp] theorem State.wr_rings (s : State) (f : RF) (x : Nat) : (s.wr f x).rings = s.rings := rfl
@[simp] theorem State.wr_lateClears (s : State) (f : RF) (x : Nat) : (s.wr f x).lateClears = s.lateClears := rfl
@[simp] theorem State.wr_relayTable (s : State) (f : RF) (x : Nat) : (s.wr f x).relayTable = s.relayTable := rfl
@[simp] theorem State.wr_faultLog (s : State) (f : RF) (x : Nat) : (s.wr f x).faultLog = s.faultLog := rfl
@[simp] theorem State.wr_cdc (s : State) (f : RF) (x : Nat) : (s.wr f x).cdc = s.cdc := rfl
@[simp] theorem State.wr_fresh (s : State) (f : RF) (x : Nat) : (s.wr f x).fresh = s.fresh := rfl
@[simp] theorem State.wr_pending (s : State) (f : RF) (x : Nat) : (s.wr f x).pending = s.pending := rfl

/-! ### inc -/

@[simp] theorem State.inc_mem (s : State) (f : RF) (n : Nat) : (s.inc f n).mem = s.mem := rfl
@[simp] theorem State.inc_poisoned (s : State) (f : RF) (n : Nat) : (s.inc f n).poisoned = s.poisoned := rfl
@[simp] theorem State.inc_hall (s : State) (f : RF) (n : Nat) : (s.inc f n).hall = s.hall := rfl
@[simp] theorem State.inc_time (s : State) (f : RF) (n : Nat) : (s.inc f n).time = s.time := rfl
@[simp] theorem State.inc_pins (s : State) (f : RF) (n : Nat) : (s.inc f n).pins = s.pins := rfl
@[simp] theorem State.inc_pwr (s : State) (f : RF) (n : Nat) : (s.inc f n).pwr = s.pwr := rfl
@[simp] theorem State.inc_cal (s : State) (f : RF) (n : Nat) : (s.inc f n).cal = s.cal := rfl
@[simp] theorem State.inc_cmd (s : State) (f : RF) (n : Nat) : (s.inc f n).cmd = s.cmd := rfl
@[simp] theorem State.inc_fab (s : State) (f : RF) (n : Nat) : (s.inc f n).fab = s.fab := rfl
@[simp] theorem State.inc_sec (s : State) (f : RF) (n : Nat) : (s.inc f n).sec = s.sec := rfl
@[simp] theorem State.inc_wgt (s : State) (f : RF) (n : Nat) : (s.inc f n).wgt = s.wgt := rfl
@[simp] theorem State.inc_seqs (s : State) (f : RF) (n : Nat) : (s.inc f n).seqs = s.seqs := rfl
@[simp] theorem State.inc_ctxs (s : State) (f : RF) (n : Nat) : (s.inc f n).ctxs = s.ctxs := rfl
@[simp] theorem State.inc_parts (s : State) (f : RF) (n : Nat) : (s.inc f n).parts = s.parts := rfl
@[simp] theorem State.inc_eng (s : State) (f : RF) (n : Nat) : (s.inc f n).eng = s.eng := rfl
@[simp] theorem State.inc_net (s : State) (f : RF) (n : Nat) : (s.inc f n).net = s.net := rfl
@[simp] theorem State.inc_rings (s : State) (f : RF) (n : Nat) : (s.inc f n).rings = s.rings := rfl
@[simp] theorem State.inc_lateClears (s : State) (f : RF) (n : Nat) : (s.inc f n).lateClears = s.lateClears := rfl
@[simp] theorem State.inc_relayTable (s : State) (f : RF) (n : Nat) : (s.inc f n).relayTable = s.relayTable := rfl
@[simp] theorem State.inc_faultLog (s : State) (f : RF) (n : Nat) : (s.inc f n).faultLog = s.faultLog := rfl
@[simp] theorem State.inc_cdc (s : State) (f : RF) (n : Nat) : (s.inc f n).cdc = s.cdc := rfl
@[simp] theorem State.inc_fresh (s : State) (f : RF) (n : Nat) : (s.inc f n).fresh = s.fresh := rfl
@[simp] theorem State.inc_pending (s : State) (f : RF) (n : Nat) : (s.inc f n).pending = s.pending := rfl

/-! ### dec -/

@[simp] theorem State.dec_mem (s : State) (f : RF) (n : Nat) : (s.dec f n).mem = s.mem := rfl
@[simp] theorem State.dec_poisoned (s : State) (f : RF) (n : Nat) : (s.dec f n).poisoned = s.poisoned := rfl
@[simp] theorem State.dec_hall (s : State) (f : RF) (n : Nat) : (s.dec f n).hall = s.hall := rfl
@[simp] theorem State.dec_time (s : State) (f : RF) (n : Nat) : (s.dec f n).time = s.time := rfl
@[simp] theorem State.dec_pins (s : State) (f : RF) (n : Nat) : (s.dec f n).pins = s.pins := rfl
@[simp] theorem State.dec_pwr (s : State) (f : RF) (n : Nat) : (s.dec f n).pwr = s.pwr := rfl
@[simp] theorem State.dec_cal (s : State) (f : RF) (n : Nat) : (s.dec f n).cal = s.cal := rfl
@[simp] theorem State.dec_cmd (s : State) (f : RF) (n : Nat) : (s.dec f n).cmd = s.cmd := rfl
@[simp] theorem State.dec_fab (s : State) (f : RF) (n : Nat) : (s.dec f n).fab = s.fab := rfl
@[simp] theorem State.dec_sec (s : State) (f : RF) (n : Nat) : (s.dec f n).sec = s.sec := rfl
@[simp] theorem State.dec_wgt (s : State) (f : RF) (n : Nat) : (s.dec f n).wgt = s.wgt := rfl
@[simp] theorem State.dec_seqs (s : State) (f : RF) (n : Nat) : (s.dec f n).seqs = s.seqs := rfl
@[simp] theorem State.dec_ctxs (s : State) (f : RF) (n : Nat) : (s.dec f n).ctxs = s.ctxs := rfl
@[simp] theorem State.dec_parts (s : State) (f : RF) (n : Nat) : (s.dec f n).parts = s.parts := rfl
@[simp] theorem State.dec_eng (s : State) (f : RF) (n : Nat) : (s.dec f n).eng = s.eng := rfl
@[simp] theorem State.dec_net (s : State) (f : RF) (n : Nat) : (s.dec f n).net = s.net := rfl
@[simp] theorem State.dec_rings (s : State) (f : RF) (n : Nat) : (s.dec f n).rings = s.rings := rfl
@[simp] theorem State.dec_lateClears (s : State) (f : RF) (n : Nat) : (s.dec f n).lateClears = s.lateClears := rfl
@[simp] theorem State.dec_relayTable (s : State) (f : RF) (n : Nat) : (s.dec f n).relayTable = s.relayTable := rfl
@[simp] theorem State.dec_faultLog (s : State) (f : RF) (n : Nat) : (s.dec f n).faultLog = s.faultLog := rfl
@[simp] theorem State.dec_cdc (s : State) (f : RF) (n : Nat) : (s.dec f n).cdc = s.cdc := rfl
@[simp] theorem State.dec_fresh (s : State) (f : RF) (n : Nat) : (s.dec f n).fresh = s.fresh := rfl
@[simp] theorem State.dec_pending (s : State) (f : RF) (n : Nat) : (s.dec f n).pending = s.pending := rfl

/-! ### wrBit -/

@[simp] theorem State.wrBit_mem (s : State) (f : RF) (i : Nat) (v : Bool) : (s.wrBit f i v).mem = s.mem := rfl
@[simp] theorem State.wrBit_poisoned (s : State) (f : RF) (i : Nat) (v : Bool) : (s.wrBit f i v).poisoned = s.poisoned := rfl
@[simp] theorem State.wrBit_hall (s : State) (f : RF) (i : Nat) (v : Bool) : (s.wrBit f i v).hall = s.hall := rfl
@[simp] theorem State.wrBit_time (s : State) (f : RF) (i : Nat) (v : Bool) : (s.wrBit f i v).time = s.time := rfl
@[simp] theorem State.wrBit_pins (s : State) (f : RF) (i : Nat) (v : Bool) : (s.wrBit f i v).pins = s.pins := rfl
@[simp] theorem State.wrBit_pwr (s : State) (f : RF) (i : Nat) (v : Bool) : (s.wrBit f i v).pwr = s.pwr := rfl
@[simp] theorem State.wrBit_cal (s : State) (f : RF) (i : Nat) (v : Bool) : (s.wrBit f i v).cal = s.cal := rfl
@[simp] theorem State.wrBit_cmd (s : State) (f : RF) (i : Nat) (v : Bool) : (s.wrBit f i v).cmd = s.cmd := rfl
@[simp] theorem State.wrBit_fab (s : State) (f : RF) (i : Nat) (v : Bool) : (s.wrBit f i v).fab = s.fab := rfl
@[simp] theorem State.wrBit_sec (s : State) (f : RF) (i : Nat) (v : Bool) : (s.wrBit f i v).sec = s.sec := rfl
@[simp] theorem State.wrBit_wgt (s : State) (f : RF) (i : Nat) (v : Bool) : (s.wrBit f i v).wgt = s.wgt := rfl
@[simp] theorem State.wrBit_seqs (s : State) (f : RF) (i : Nat) (v : Bool) : (s.wrBit f i v).seqs = s.seqs := rfl
@[simp] theorem State.wrBit_ctxs (s : State) (f : RF) (i : Nat) (v : Bool) : (s.wrBit f i v).ctxs = s.ctxs := rfl
@[simp] theorem State.wrBit_parts (s : State) (f : RF) (i : Nat) (v : Bool) : (s.wrBit f i v).parts = s.parts := rfl
@[simp] theorem State.wrBit_eng (s : State) (f : RF) (i : Nat) (v : Bool) : (s.wrBit f i v).eng = s.eng := rfl
@[simp] theorem State.wrBit_net (s : State) (f : RF) (i : Nat) (v : Bool) : (s.wrBit f i v).net = s.net := rfl
@[simp] theorem State.wrBit_rings (s : State) (f : RF) (i : Nat) (v : Bool) : (s.wrBit f i v).rings = s.rings := rfl
@[simp] theorem State.wrBit_lateClears (s : State) (f : RF) (i : Nat) (v : Bool) : (s.wrBit f i v).lateClears = s.lateClears := rfl
@[simp] theorem State.wrBit_relayTable (s : State) (f : RF) (i : Nat) (v : Bool) : (s.wrBit f i v).relayTable = s.relayTable := rfl
@[simp] theorem State.wrBit_faultLog (s : State) (f : RF) (i : Nat) (v : Bool) : (s.wrBit f i v).faultLog = s.faultLog := rfl
@[simp] theorem State.wrBit_cdc (s : State) (f : RF) (i : Nat) (v : Bool) : (s.wrBit f i v).cdc = s.cdc := rfl
@[simp] theorem State.wrBit_fresh (s : State) (f : RF) (i : Nat) (v : Bool) : (s.wrBit f i v).fresh = s.fresh := rfl
@[simp] theorem State.wrBit_pending (s : State) (f : RF) (i : Nat) (v : Bool) : (s.wrBit f i v).pending = s.pending := rfl

/-! ### wrB -/

@[simp] theorem State.wrB_regs (s : State) (a : Nat) (v : Byte) : (s.wrB a v).regs = s.regs := rfl
@[simp] theorem State.wrB_poisoned (s : State) (a : Nat) (v : Byte) : (s.wrB a v).poisoned = s.poisoned := rfl
@[simp] theorem State.wrB_hall (s : State) (a : Nat) (v : Byte) : (s.wrB a v).hall = s.hall := rfl
@[simp] theorem State.wrB_time (s : State) (a : Nat) (v : Byte) : (s.wrB a v).time = s.time := rfl
@[simp] theorem State.wrB_pins (s : State) (a : Nat) (v : Byte) : (s.wrB a v).pins = s.pins := rfl
@[simp] theorem State.wrB_pwr (s : State) (a : Nat) (v : Byte) : (s.wrB a v).pwr = s.pwr := rfl
@[simp] theorem State.wrB_cal (s : State) (a : Nat) (v : Byte) : (s.wrB a v).cal = s.cal := rfl
@[simp] theorem State.wrB_cmd (s : State) (a : Nat) (v : Byte) : (s.wrB a v).cmd = s.cmd := rfl
@[simp] theorem State.wrB_fab (s : State) (a : Nat) (v : Byte) : (s.wrB a v).fab = s.fab := rfl
@[simp] theorem State.wrB_sec (s : State) (a : Nat) (v : Byte) : (s.wrB a v).sec = s.sec := rfl
@[simp] theorem State.wrB_wgt (s : State) (a : Nat) (v : Byte) : (s.wrB a v).wgt = s.wgt := rfl
@[simp] theorem State.wrB_seqs (s : State) (a : Nat) (v : Byte) : (s.wrB a v).seqs = s.seqs := rfl
@[simp] theorem State.wrB_ctxs (s : State) (a : Nat) (v : Byte) : (s.wrB a v).ctxs = s.ctxs := rfl
@[simp] theorem State.wrB_parts (s : State) (a : Nat) (v : Byte) : (s.wrB a v).parts = s.parts := rfl
@[simp] theorem State.wrB_eng (s : State) (a : Nat) (v : Byte) : (s.wrB a v).eng = s.eng := rfl
@[simp] theorem State.wrB_net (s : State) (a : Nat) (v : Byte) : (s.wrB a v).net = s.net := rfl
@[simp] theorem State.wrB_rings (s : State) (a : Nat) (v : Byte) : (s.wrB a v).rings = s.rings := rfl
@[simp] theorem State.wrB_lateClears (s : State) (a : Nat) (v : Byte) : (s.wrB a v).lateClears = s.lateClears := rfl
@[simp] theorem State.wrB_relayTable (s : State) (a : Nat) (v : Byte) : (s.wrB a v).relayTable = s.relayTable := rfl
@[simp] theorem State.wrB_faultLog (s : State) (a : Nat) (v : Byte) : (s.wrB a v).faultLog = s.faultLog := rfl
@[simp] theorem State.wrB_cdc (s : State) (a : Nat) (v : Byte) : (s.wrB a v).cdc = s.cdc := rfl
@[simp] theorem State.wrB_fresh (s : State) (a : Nat) (v : Byte) : (s.wrB a v).fresh = s.fresh := rfl
@[simp] theorem State.wrB_pending (s : State) (a : Nat) (v : Byte) : (s.wrB a v).pending = s.pending := rfl

/-! ### clearMem -/

@[simp] theorem State.clearMem_regs (s : State) (p : Nat → Bool) : (s.clearMem p).regs = s.regs := rfl
@[simp] theorem State.clearMem_poisoned (s : State) (p : Nat → Bool) : (s.clearMem p).poisoned = s.poisoned := rfl
@[simp] theorem State.clearMem_hall (s : State) (p : Nat → Bool) : (s.clearMem p).hall = s.hall := rfl
@[simp] theorem State.clearMem_time (s : State) (p : Nat → Bool) : (s.clearMem p).time = s.time := rfl
@[simp] theorem State.clearMem_pins (s : State) (p : Nat → Bool) : (s.clearMem p).pins = s.pins := rfl
@[simp] theorem State.clearMem_pwr (s : State) (p : Nat → Bool) : (s.clearMem p).pwr = s.pwr := rfl
@[simp] theorem State.clearMem_cal (s : State) (p : Nat → Bool) : (s.clearMem p).cal = s.cal := rfl
@[simp] theorem State.clearMem_cmd (s : State) (p : Nat → Bool) : (s.clearMem p).cmd = s.cmd := rfl
@[simp] theorem State.clearMem_fab (s : State) (p : Nat → Bool) : (s.clearMem p).fab = s.fab := rfl
@[simp] theorem State.clearMem_sec (s : State) (p : Nat → Bool) : (s.clearMem p).sec = s.sec := rfl
@[simp] theorem State.clearMem_wgt (s : State) (p : Nat → Bool) : (s.clearMem p).wgt = s.wgt := rfl
@[simp] theorem State.clearMem_seqs (s : State) (p : Nat → Bool) : (s.clearMem p).seqs = s.seqs := rfl
@[simp] theorem State.clearMem_ctxs (s : State) (p : Nat → Bool) : (s.clearMem p).ctxs = s.ctxs := rfl
@[simp] theorem State.clearMem_parts (s : State) (p : Nat → Bool) : (s.clearMem p).parts = s.parts := rfl
@[simp] theorem State.clearMem_eng (s : State) (p : Nat → Bool) : (s.clearMem p).eng = s.eng := rfl
@[simp] theorem State.clearMem_net (s : State) (p : Nat → Bool) : (s.clearMem p).net = s.net := rfl
@[simp] theorem State.clearMem_rings (s : State) (p : Nat → Bool) : (s.clearMem p).rings = s.rings := rfl
@[simp] theorem State.clearMem_lateClears (s : State) (p : Nat → Bool) : (s.clearMem p).lateClears = s.lateClears := rfl
@[simp] theorem State.clearMem_relayTable (s : State) (p : Nat → Bool) : (s.clearMem p).relayTable = s.relayTable := rfl
@[simp] theorem State.clearMem_faultLog (s : State) (p : Nat → Bool) : (s.clearMem p).faultLog = s.faultLog := rfl
@[simp] theorem State.clearMem_cdc (s : State) (p : Nat → Bool) : (s.clearMem p).cdc = s.cdc := rfl
@[simp] theorem State.clearMem_fresh (s : State) (p : Nat → Bool) : (s.clearMem p).fresh = s.fresh := rfl
@[simp] theorem State.clearMem_pending (s : State) (p : Nat → Bool) : (s.clearMem p).pending = s.pending := rfl

/-! ### free -/

@[simp] theorem State.free_regs (s : State) (w : Nat) : ((s.free w).2).regs = s.regs := rfl
@[simp] theorem State.free_mem (s : State) (w : Nat) : ((s.free w).2).mem = s.mem := rfl
@[simp] theorem State.free_poisoned (s : State) (w : Nat) : ((s.free w).2).poisoned = s.poisoned := rfl
@[simp] theorem State.free_hall (s : State) (w : Nat) : ((s.free w).2).hall = s.hall := rfl
@[simp] theorem State.free_time (s : State) (w : Nat) : ((s.free w).2).time = s.time := rfl
@[simp] theorem State.free_pins (s : State) (w : Nat) : ((s.free w).2).pins = s.pins := rfl
@[simp] theorem State.free_pwr (s : State) (w : Nat) : ((s.free w).2).pwr = s.pwr := rfl
@[simp] theorem State.free_cal (s : State) (w : Nat) : ((s.free w).2).cal = s.cal := rfl
@[simp] theorem State.free_cmd (s : State) (w : Nat) : ((s.free w).2).cmd = s.cmd := rfl
@[simp] theorem State.free_fab (s : State) (w : Nat) : ((s.free w).2).fab = s.fab := rfl
@[simp] theorem State.free_sec (s : State) (w : Nat) : ((s.free w).2).sec = s.sec := rfl
@[simp] theorem State.free_wgt (s : State) (w : Nat) : ((s.free w).2).wgt = s.wgt := rfl
@[simp] theorem State.free_seqs (s : State) (w : Nat) : ((s.free w).2).seqs = s.seqs := rfl
@[simp] theorem State.free_ctxs (s : State) (w : Nat) : ((s.free w).2).ctxs = s.ctxs := rfl
@[simp] theorem State.free_parts (s : State) (w : Nat) : ((s.free w).2).parts = s.parts := rfl
@[simp] theorem State.free_eng (s : State) (w : Nat) : ((s.free w).2).eng = s.eng := rfl
@[simp] theorem State.free_net (s : State) (w : Nat) : ((s.free w).2).net = s.net := rfl
@[simp] theorem State.free_rings (s : State) (w : Nat) : ((s.free w).2).rings = s.rings := rfl
@[simp] theorem State.free_lateClears (s : State) (w : Nat) : ((s.free w).2).lateClears = s.lateClears := rfl
@[simp] theorem State.free_relayTable (s : State) (w : Nat) : ((s.free w).2).relayTable = s.relayTable := rfl
@[simp] theorem State.free_faultLog (s : State) (w : Nat) : ((s.free w).2).faultLog = s.faultLog := rfl
@[simp] theorem State.free_pending (s : State) (w : Nat) : ((s.free w).2).pending = s.pending := rfl

/-! ### setChan -/

@[simp] theorem State.setChan_regs (s : State) (ch : Nat) (v : Chan) : (s.setChan ch v).regs = s.regs := rfl
@[simp] theorem State.setChan_mem (s : State) (ch : Nat) (v : Chan) : (s.setChan ch v).mem = s.mem := rfl
@[simp] theorem State.setChan_poisoned (s : State) (ch : Nat) (v : Chan) : (s.setChan ch v).poisoned = s.poisoned := rfl
@[simp] theorem State.setChan_hall (s : State) (ch : Nat) (v : Chan) : (s.setChan ch v).hall = s.hall := rfl
@[simp] theorem State.setChan_time (s : State) (ch : Nat) (v : Chan) : (s.setChan ch v).time = s.time := rfl
@[simp] theorem State.setChan_pins (s : State) (ch : Nat) (v : Chan) : (s.setChan ch v).pins = s.pins := rfl
@[simp] theorem State.setChan_pwr (s : State) (ch : Nat) (v : Chan) : (s.setChan ch v).pwr = s.pwr := rfl
@[simp] theorem State.setChan_cal (s : State) (ch : Nat) (v : Chan) : (s.setChan ch v).cal = s.cal := rfl
@[simp] theorem State.setChan_fab (s : State) (ch : Nat) (v : Chan) : (s.setChan ch v).fab = s.fab := rfl
@[simp] theorem State.setChan_sec (s : State) (ch : Nat) (v : Chan) : (s.setChan ch v).sec = s.sec := rfl
@[simp] theorem State.setChan_wgt (s : State) (ch : Nat) (v : Chan) : (s.setChan ch v).wgt = s.wgt := rfl
@[simp] theorem State.setChan_seqs (s : State) (ch : Nat) (v : Chan) : (s.setChan ch v).seqs = s.seqs := rfl
@[simp] theorem State.setChan_ctxs (s : State) (ch : Nat) (v : Chan) : (s.setChan ch v).ctxs = s.ctxs := rfl
@[simp] theorem State.setChan_parts (s : State) (ch : Nat) (v : Chan) : (s.setChan ch v).parts = s.parts := rfl
@[simp] theorem State.setChan_eng (s : State) (ch : Nat) (v : Chan) : (s.setChan ch v).eng = s.eng := rfl
@[simp] theorem State.setChan_net (s : State) (ch : Nat) (v : Chan) : (s.setChan ch v).net = s.net := rfl
@[simp] theorem State.setChan_rings (s : State) (ch : Nat) (v : Chan) : (s.setChan ch v).rings = s.rings := rfl
@[simp] theorem State.setChan_lateClears (s : State) (ch : Nat) (v : Chan) : (s.setChan ch v).lateClears = s.lateClears := rfl
@[simp] theorem State.setChan_relayTable (s : State) (ch : Nat) (v : Chan) : (s.setChan ch v).relayTable = s.relayTable := rfl
@[simp] theorem State.setChan_faultLog (s : State) (ch : Nat) (v : Chan) : (s.setChan ch v).faultLog = s.faultLog := rfl
@[simp] theorem State.setChan_cdc (s : State) (ch : Nat) (v : Chan) : (s.setChan ch v).cdc = s.cdc := rfl
@[simp] theorem State.setChan_fresh (s : State) (ch : Nat) (v : Chan) : (s.setChan ch v).fresh = s.fresh := rfl
@[simp] theorem State.setChan_pending (s : State) (ch : Nat) (v : Chan) : (s.setChan ch v).pending = s.pending := rfl

/-! ### setCtx -/

@[simp] theorem State.setCtx_regs (s : State) (c : Nat) (v : CtxS) : (s.setCtx c v).regs = s.regs := rfl
@[simp] theorem State.setCtx_mem (s : State) (c : Nat) (v : CtxS) : (s.setCtx c v).mem = s.mem := rfl
@[simp] theorem State.setCtx_poisoned (s : State) (c : Nat) (v : CtxS) : (s.setCtx c v).poisoned = s.poisoned := rfl
@[simp] theorem State.setCtx_hall (s : State) (c : Nat) (v : CtxS) : (s.setCtx c v).hall = s.hall := rfl
@[simp] theorem State.setCtx_time (s : State) (c : Nat) (v : CtxS) : (s.setCtx c v).time = s.time := rfl
@[simp] theorem State.setCtx_pins (s : State) (c : Nat) (v : CtxS) : (s.setCtx c v).pins = s.pins := rfl
@[simp] theorem State.setCtx_pwr (s : State) (c : Nat) (v : CtxS) : (s.setCtx c v).pwr = s.pwr := rfl
@[simp] theorem State.setCtx_cal (s : State) (c : Nat) (v : CtxS) : (s.setCtx c v).cal = s.cal := rfl
@[simp] theorem State.setCtx_cmd (s : State) (c : Nat) (v : CtxS) : (s.setCtx c v).cmd = s.cmd := rfl
@[simp] theorem State.setCtx_fab (s : State) (c : Nat) (v : CtxS) : (s.setCtx c v).fab = s.fab := rfl
@[simp] theorem State.setCtx_sec (s : State) (c : Nat) (v : CtxS) : (s.setCtx c v).sec = s.sec := rfl
@[simp] theorem State.setCtx_wgt (s : State) (c : Nat) (v : CtxS) : (s.setCtx c v).wgt = s.wgt := rfl
@[simp] theorem State.setCtx_seqs (s : State) (c : Nat) (v : CtxS) : (s.setCtx c v).seqs = s.seqs := rfl
@[simp] theorem State.setCtx_parts (s : State) (c : Nat) (v : CtxS) : (s.setCtx c v).parts = s.parts := rfl
@[simp] theorem State.setCtx_eng (s : State) (c : Nat) (v : CtxS) : (s.setCtx c v).eng = s.eng := rfl
@[simp] theorem State.setCtx_net (s : State) (c : Nat) (v : CtxS) : (s.setCtx c v).net = s.net := rfl
@[simp] theorem State.setCtx_rings (s : State) (c : Nat) (v : CtxS) : (s.setCtx c v).rings = s.rings := rfl
@[simp] theorem State.setCtx_lateClears (s : State) (c : Nat) (v : CtxS) : (s.setCtx c v).lateClears = s.lateClears := rfl
@[simp] theorem State.setCtx_relayTable (s : State) (c : Nat) (v : CtxS) : (s.setCtx c v).relayTable = s.relayTable := rfl
@[simp] theorem State.setCtx_faultLog (s : State) (c : Nat) (v : CtxS) : (s.setCtx c v).faultLog = s.faultLog := rfl
@[simp] theorem State.setCtx_cdc (s : State) (c : Nat) (v : CtxS) : (s.setCtx c v).cdc = s.cdc := rfl
@[simp] theorem State.setCtx_fresh (s : State) (c : Nat) (v : CtxS) : (s.setCtx c v).fresh = s.fresh := rfl
@[simp] theorem State.setCtx_pending (s : State) (c : Nat) (v : CtxS) : (s.setCtx c v).pending = s.pending := rfl

/-! ### modCtx -/

@[simp] theorem State.modCtx_regs (s : State) (c : Nat) (f : CtxS → CtxS) : (s.modCtx c f).regs = s.regs := rfl
@[simp] theorem State.modCtx_mem (s : State) (c : Nat) (f : CtxS → CtxS) : (s.modCtx c f).mem = s.mem := rfl
@[simp] theorem State.modCtx_poisoned (s : State) (c : Nat) (f : CtxS → CtxS) : (s.modCtx c f).poisoned = s.poisoned := rfl
@[simp] theorem State.modCtx_hall (s : State) (c : Nat) (f : CtxS → CtxS) : (s.modCtx c f).hall = s.hall := rfl
@[simp] theorem State.modCtx_time (s : State) (c : Nat) (f : CtxS → CtxS) : (s.modCtx c f).time = s.time := rfl
@[simp] theorem State.modCtx_pins (s : State) (c : Nat) (f : CtxS → CtxS) : (s.modCtx c f).pins = s.pins := rfl
@[simp] theorem State.modCtx_pwr (s : State) (c : Nat) (f : CtxS → CtxS) : (s.modCtx c f).pwr = s.pwr := rfl
@[simp] theorem State.modCtx_cal (s : State) (c : Nat) (f : CtxS → CtxS) : (s.modCtx c f).cal = s.cal := rfl
@[simp] theorem State.modCtx_cmd (s : State) (c : Nat) (f : CtxS → CtxS) : (s.modCtx c f).cmd = s.cmd := rfl
@[simp] theorem State.modCtx_fab (s : State) (c : Nat) (f : CtxS → CtxS) : (s.modCtx c f).fab = s.fab := rfl
@[simp] theorem State.modCtx_sec (s : State) (c : Nat) (f : CtxS → CtxS) : (s.modCtx c f).sec = s.sec := rfl
@[simp] theorem State.modCtx_wgt (s : State) (c : Nat) (f : CtxS → CtxS) : (s.modCtx c f).wgt = s.wgt := rfl
@[simp] theorem State.modCtx_seqs (s : State) (c : Nat) (f : CtxS → CtxS) : (s.modCtx c f).seqs = s.seqs := rfl
@[simp] theorem State.modCtx_parts (s : State) (c : Nat) (f : CtxS → CtxS) : (s.modCtx c f).parts = s.parts := rfl
@[simp] theorem State.modCtx_eng (s : State) (c : Nat) (f : CtxS → CtxS) : (s.modCtx c f).eng = s.eng := rfl
@[simp] theorem State.modCtx_net (s : State) (c : Nat) (f : CtxS → CtxS) : (s.modCtx c f).net = s.net := rfl
@[simp] theorem State.modCtx_rings (s : State) (c : Nat) (f : CtxS → CtxS) : (s.modCtx c f).rings = s.rings := rfl
@[simp] theorem State.modCtx_lateClears (s : State) (c : Nat) (f : CtxS → CtxS) : (s.modCtx c f).lateClears = s.lateClears := rfl
@[simp] theorem State.modCtx_relayTable (s : State) (c : Nat) (f : CtxS → CtxS) : (s.modCtx c f).relayTable = s.relayTable := rfl
@[simp] theorem State.modCtx_faultLog (s : State) (c : Nat) (f : CtxS → CtxS) : (s.modCtx c f).faultLog = s.faultLog := rfl
@[simp] theorem State.modCtx_cdc (s : State) (c : Nat) (f : CtxS → CtxS) : (s.modCtx c f).cdc = s.cdc := rfl
@[simp] theorem State.modCtx_fresh (s : State) (c : Nat) (f : CtxS → CtxS) : (s.modCtx c f).fresh = s.fresh := rfl
@[simp] theorem State.modCtx_pending (s : State) (c : Nat) (f : CtxS → CtxS) : (s.modCtx c f).pending = s.pending := rfl

/-! ### setPart -/

@[simp] theorem State.setPart_regs (s : State) (p : Nat) (v : PartS) : (s.setPart p v).regs = s.regs := rfl
@[simp] theorem State.setPart_mem (s : State) (p : Nat) (v : PartS) : (s.setPart p v).mem = s.mem := rfl
@[simp] theorem State.setPart_poisoned (s : State) (p : Nat) (v : PartS) : (s.setPart p v).poisoned = s.poisoned := rfl
@[simp] theorem State.setPart_hall (s : State) (p : Nat) (v : PartS) : (s.setPart p v).hall = s.hall := rfl
@[simp] theorem State.setPart_time (s : State) (p : Nat) (v : PartS) : (s.setPart p v).time = s.time := rfl
@[simp] theorem State.setPart_pins (s : State) (p : Nat) (v : PartS) : (s.setPart p v).pins = s.pins := rfl
@[simp] theorem State.setPart_pwr (s : State) (p : Nat) (v : PartS) : (s.setPart p v).pwr = s.pwr := rfl
@[simp] theorem State.setPart_cal (s : State) (p : Nat) (v : PartS) : (s.setPart p v).cal = s.cal := rfl
@[simp] theorem State.setPart_cmd (s : State) (p : Nat) (v : PartS) : (s.setPart p v).cmd = s.cmd := rfl
@[simp] theorem State.setPart_fab (s : State) (p : Nat) (v : PartS) : (s.setPart p v).fab = s.fab := rfl
@[simp] theorem State.setPart_sec (s : State) (p : Nat) (v : PartS) : (s.setPart p v).sec = s.sec := rfl
@[simp] theorem State.setPart_wgt (s : State) (p : Nat) (v : PartS) : (s.setPart p v).wgt = s.wgt := rfl
@[simp] theorem State.setPart_seqs (s : State) (p : Nat) (v : PartS) : (s.setPart p v).seqs = s.seqs := rfl
@[simp] theorem State.setPart_ctxs (s : State) (p : Nat) (v : PartS) : (s.setPart p v).ctxs = s.ctxs := rfl
@[simp] theorem State.setPart_eng (s : State) (p : Nat) (v : PartS) : (s.setPart p v).eng = s.eng := rfl
@[simp] theorem State.setPart_net (s : State) (p : Nat) (v : PartS) : (s.setPart p v).net = s.net := rfl
@[simp] theorem State.setPart_rings (s : State) (p : Nat) (v : PartS) : (s.setPart p v).rings = s.rings := rfl
@[simp] theorem State.setPart_lateClears (s : State) (p : Nat) (v : PartS) : (s.setPart p v).lateClears = s.lateClears := rfl
@[simp] theorem State.setPart_relayTable (s : State) (p : Nat) (v : PartS) : (s.setPart p v).relayTable = s.relayTable := rfl
@[simp] theorem State.setPart_faultLog (s : State) (p : Nat) (v : PartS) : (s.setPart p v).faultLog = s.faultLog := rfl
@[simp] theorem State.setPart_cdc (s : State) (p : Nat) (v : PartS) : (s.setPart p v).cdc = s.cdc := rfl
@[simp] theorem State.setPart_fresh (s : State) (p : Nat) (v : PartS) : (s.setPart p v).fresh = s.fresh := rfl
@[simp] theorem State.setPart_pending (s : State) (p : Nat) (v : PartS) : (s.setPart p v).pending = s.pending := rfl

/-! ### modPart -/

@[simp] theorem State.modPart_regs (s : State) (p : Nat) (f : PartS → PartS) : (s.modPart p f).regs = s.regs := rfl
@[simp] theorem State.modPart_mem (s : State) (p : Nat) (f : PartS → PartS) : (s.modPart p f).mem = s.mem := rfl
@[simp] theorem State.modPart_poisoned (s : State) (p : Nat) (f : PartS → PartS) : (s.modPart p f).poisoned = s.poisoned := rfl
@[simp] theorem State.modPart_hall (s : State) (p : Nat) (f : PartS → PartS) : (s.modPart p f).hall = s.hall := rfl
@[simp] theorem State.modPart_time (s : State) (p : Nat) (f : PartS → PartS) : (s.modPart p f).time = s.time := rfl
@[simp] theorem State.modPart_pins (s : State) (p : Nat) (f : PartS → PartS) : (s.modPart p f).pins = s.pins := rfl
@[simp] theorem State.modPart_pwr (s : State) (p : Nat) (f : PartS → PartS) : (s.modPart p f).pwr = s.pwr := rfl
@[simp] theorem State.modPart_cal (s : State) (p : Nat) (f : PartS → PartS) : (s.modPart p f).cal = s.cal := rfl
@[simp] theorem State.modPart_cmd (s : State) (p : Nat) (f : PartS → PartS) : (s.modPart p f).cmd = s.cmd := rfl
@[simp] theorem State.modPart_fab (s : State) (p : Nat) (f : PartS → PartS) : (s.modPart p f).fab = s.fab := rfl
@[simp] theorem State.modPart_sec (s : State) (p : Nat) (f : PartS → PartS) : (s.modPart p f).sec = s.sec := rfl
@[simp] theorem State.modPart_wgt (s : State) (p : Nat) (f : PartS → PartS) : (s.modPart p f).wgt = s.wgt := rfl
@[simp] theorem State.modPart_seqs (s : State) (p : Nat) (f : PartS → PartS) : (s.modPart p f).seqs = s.seqs := rfl
@[simp] theorem State.modPart_ctxs (s : State) (p : Nat) (f : PartS → PartS) : (s.modPart p f).ctxs = s.ctxs := rfl
@[simp] theorem State.modPart_eng (s : State) (p : Nat) (f : PartS → PartS) : (s.modPart p f).eng = s.eng := rfl
@[simp] theorem State.modPart_net (s : State) (p : Nat) (f : PartS → PartS) : (s.modPart p f).net = s.net := rfl
@[simp] theorem State.modPart_rings (s : State) (p : Nat) (f : PartS → PartS) : (s.modPart p f).rings = s.rings := rfl
@[simp] theorem State.modPart_lateClears (s : State) (p : Nat) (f : PartS → PartS) : (s.modPart p f).lateClears = s.lateClears := rfl
@[simp] theorem State.modPart_relayTable (s : State) (p : Nat) (f : PartS → PartS) : (s.modPart p f).relayTable = s.relayTable := rfl
@[simp] theorem State.modPart_faultLog (s : State) (p : Nat) (f : PartS → PartS) : (s.modPart p f).faultLog = s.faultLog := rfl
@[simp] theorem State.modPart_cdc (s : State) (p : Nat) (f : PartS → PartS) : (s.modPart p f).cdc = s.cdc := rfl
@[simp] theorem State.modPart_fresh (s : State) (p : Nat) (f : PartS → PartS) : (s.modPart p f).fresh = s.fresh := rfl
@[simp] theorem State.modPart_pending (s : State) (p : Nat) (f : PartS → PartS) : (s.modPart p f).pending = s.pending := rfl

/-! ### setEng -/

@[simp] theorem State.setEng_regs (s : State) (c t : Nat) (v : Eng) : (s.setEng c t v).regs = s.regs := rfl
@[simp] theorem State.setEng_mem (s : State) (c t : Nat) (v : Eng) : (s.setEng c t v).mem = s.mem := rfl
@[simp] theorem State.setEng_poisoned (s : State) (c t : Nat) (v : Eng) : (s.setEng c t v).poisoned = s.poisoned := rfl
@[simp] theorem State.setEng_hall (s : State) (c t : Nat) (v : Eng) : (s.setEng c t v).hall = s.hall := rfl
@[simp] theorem State.setEng_time (s : State) (c t : Nat) (v : Eng) : (s.setEng c t v).time = s.time := rfl
@[simp] theorem State.setEng_pins (s : State) (c t : Nat) (v : Eng) : (s.setEng c t v).pins = s.pins := rfl
@[simp] theorem State.setEng_pwr (s : State) (c t : Nat) (v : Eng) : (s.setEng c t v).pwr = s.pwr := rfl
@[simp] theorem State.setEng_cal (s : State) (c t : Nat) (v : Eng) : (s.setEng c t v).cal = s.cal := rfl
@[simp] theorem State.setEng_cmd (s : State) (c t : Nat) (v : Eng) : (s.setEng c t v).cmd = s.cmd := rfl
@[simp] theorem State.setEng_fab (s : State) (c t : Nat) (v : Eng) : (s.setEng c t v).fab = s.fab := rfl
@[simp] theorem State.setEng_sec (s : State) (c t : Nat) (v : Eng) : (s.setEng c t v).sec = s.sec := rfl
@[simp] theorem State.setEng_wgt (s : State) (c t : Nat) (v : Eng) : (s.setEng c t v).wgt = s.wgt := rfl
@[simp] theorem State.setEng_seqs (s : State) (c t : Nat) (v : Eng) : (s.setEng c t v).seqs = s.seqs := rfl
@[simp] theorem State.setEng_ctxs (s : State) (c t : Nat) (v : Eng) : (s.setEng c t v).ctxs = s.ctxs := rfl
@[simp] theorem State.setEng_parts (s : State) (c t : Nat) (v : Eng) : (s.setEng c t v).parts = s.parts := rfl
@[simp] theorem State.setEng_net (s : State) (c t : Nat) (v : Eng) : (s.setEng c t v).net = s.net := rfl
@[simp] theorem State.setEng_rings (s : State) (c t : Nat) (v : Eng) : (s.setEng c t v).rings = s.rings := rfl
@[simp] theorem State.setEng_lateClears (s : State) (c t : Nat) (v : Eng) : (s.setEng c t v).lateClears = s.lateClears := rfl
@[simp] theorem State.setEng_relayTable (s : State) (c t : Nat) (v : Eng) : (s.setEng c t v).relayTable = s.relayTable := rfl
@[simp] theorem State.setEng_faultLog (s : State) (c t : Nat) (v : Eng) : (s.setEng c t v).faultLog = s.faultLog := rfl
@[simp] theorem State.setEng_cdc (s : State) (c t : Nat) (v : Eng) : (s.setEng c t v).cdc = s.cdc := rfl
@[simp] theorem State.setEng_fresh (s : State) (c t : Nat) (v : Eng) : (s.setEng c t v).fresh = s.fresh := rfl
@[simp] theorem State.setEng_pending (s : State) (c t : Nat) (v : Eng) : (s.setEng c t v).pending = s.pending := rfl

/-! ### modEng -/

@[simp] theorem State.modEng_regs (s : State) (c t : Nat) (f : Eng → Eng) : (s.modEng c t f).regs = s.regs := rfl
@[simp] theorem State.modEng_mem (s : State) (c t : Nat) (f : Eng → Eng) : (s.modEng c t f).mem = s.mem := rfl
@[simp] theorem State.modEng_poisoned (s : State) (c t : Nat) (f : Eng → Eng) : (s.modEng c t f).poisoned = s.poisoned := rfl
@[simp] theorem State.modEng_hall (s : State) (c t : Nat) (f : Eng → Eng) : (s.modEng c t f).hall = s.hall := rfl
@[simp] theorem State.modEng_time (s : State) (c t : Nat) (f : Eng → Eng) : (s.modEng c t f).time = s.time := rfl
@[simp] theorem State.modEng_pins (s : State) (c t : Nat) (f : Eng → Eng) : (s.modEng c t f).pins = s.pins := rfl
@[simp] theorem State.modEng_pwr (s : State) (c t : Nat) (f : Eng → Eng) : (s.modEng c t f).pwr = s.pwr := rfl
@[simp] theorem State.modEng_cal (s : State) (c t : Nat) (f : Eng → Eng) : (s.modEng c t f).cal = s.cal := rfl
@[simp] theorem State.modEng_cmd (s : State) (c t : Nat) (f : Eng → Eng) : (s.modEng c t f).cmd = s.cmd := rfl
@[simp] theorem State.modEng_fab (s : State) (c t : Nat) (f : Eng → Eng) : (s.modEng c t f).fab = s.fab := rfl
@[simp] theorem State.modEng_sec (s : State) (c t : Nat) (f : Eng → Eng) : (s.modEng c t f).sec = s.sec := rfl
@[simp] theorem State.modEng_wgt (s : State) (c t : Nat) (f : Eng → Eng) : (s.modEng c t f).wgt = s.wgt := rfl
@[simp] theorem State.modEng_seqs (s : State) (c t : Nat) (f : Eng → Eng) : (s.modEng c t f).seqs = s.seqs := rfl
@[simp] theorem State.modEng_ctxs (s : State) (c t : Nat) (f : Eng → Eng) : (s.modEng c t f).ctxs = s.ctxs := rfl
@[simp] theorem State.modEng_parts (s : State) (c t : Nat) (f : Eng → Eng) : (s.modEng c t f).parts = s.parts := rfl
@[simp] theorem State.modEng_net (s : State) (c t : Nat) (f : Eng → Eng) : (s.modEng c t f).net = s.net := rfl
@[simp] theorem State.modEng_rings (s : State) (c t : Nat) (f : Eng → Eng) : (s.modEng c t f).rings = s.rings := rfl
@[simp] theorem State.modEng_lateClears (s : State) (c t : Nat) (f : Eng → Eng) : (s.modEng c t f).lateClears = s.lateClears := rfl
@[simp] theorem State.modEng_relayTable (s : State) (c t : Nat) (f : Eng → Eng) : (s.modEng c t f).relayTable = s.relayTable := rfl
@[simp] theorem State.modEng_faultLog (s : State) (c t : Nat) (f : Eng → Eng) : (s.modEng c t f).faultLog = s.faultLog := rfl
@[simp] theorem State.modEng_cdc (s : State) (c t : Nat) (f : Eng → Eng) : (s.modEng c t f).cdc = s.cdc := rfl
@[simp] theorem State.modEng_fresh (s : State) (c t : Nat) (f : Eng → Eng) : (s.modEng c t f).fresh = s.fresh := rfl
@[simp] theorem State.modEng_pending (s : State) (c t : Nat) (f : Eng → Eng) : (s.modEng c t f).pending = s.pending := rfl

/-! ### withCommand -/

@[simp] theorem State.withCommand_regs (s : State) (i : Instr) : (s.withCommand i).regs = s.regs := rfl
@[simp] theorem State.withCommand_mem (s : State) (i : Instr) : (s.withCommand i).mem = s.mem := rfl
@[simp] theorem State.withCommand_poisoned (s : State) (i : Instr) : (s.withCommand i).poisoned = s.poisoned := rfl
@[simp] theorem State.withCommand_hall (s : State) (i : Instr) : (s.withCommand i).hall = s.hall := rfl
@[simp] theorem State.withCommand_time (s : State) (i : Instr) : (s.withCommand i).time = s.time := rfl
@[simp] theorem State.withCommand_pins (s : State) (i : Instr) : (s.withCommand i).pins = s.pins := rfl
@[simp] theorem State.withCommand_pwr (s : State) (i : Instr) : (s.withCommand i).pwr = s.pwr := rfl
@[simp] theorem State.withCommand_cal (s : State) (i : Instr) : (s.withCommand i).cal = s.cal := rfl
@[simp] theorem State.withCommand_cmd (s : State) (i : Instr) : (s.withCommand i).cmd = s.cmd := rfl
@[simp] theorem State.withCommand_fab (s : State) (i : Instr) : (s.withCommand i).fab = s.fab := rfl
@[simp] theorem State.withCommand_sec (s : State) (i : Instr) : (s.withCommand i).sec = s.sec := rfl
@[simp] theorem State.withCommand_wgt (s : State) (i : Instr) : (s.withCommand i).wgt = s.wgt := rfl
@[simp] theorem State.withCommand_seqs (s : State) (i : Instr) : (s.withCommand i).seqs = s.seqs := rfl
@[simp] theorem State.withCommand_ctxs (s : State) (i : Instr) : (s.withCommand i).ctxs = s.ctxs := rfl
@[simp] theorem State.withCommand_parts (s : State) (i : Instr) : (s.withCommand i).parts = s.parts := rfl
@[simp] theorem State.withCommand_eng (s : State) (i : Instr) : (s.withCommand i).eng = s.eng := rfl
@[simp] theorem State.withCommand_net (s : State) (i : Instr) : (s.withCommand i).net = s.net := rfl
@[simp] theorem State.withCommand_rings (s : State) (i : Instr) : (s.withCommand i).rings = s.rings := rfl
@[simp] theorem State.withCommand_lateClears (s : State) (i : Instr) : (s.withCommand i).lateClears = s.lateClears := rfl
@[simp] theorem State.withCommand_relayTable (s : State) (i : Instr) : (s.withCommand i).relayTable = s.relayTable := rfl
@[simp] theorem State.withCommand_faultLog (s : State) (i : Instr) : (s.withCommand i).faultLog = s.faultLog := rfl
@[simp] theorem State.withCommand_cdc (s : State) (i : Instr) : (s.withCommand i).cdc = s.cdc := rfl
@[simp] theorem State.withCommand_fresh (s : State) (i : Instr) : (s.withCommand i).fresh = s.fresh := rfl

/-! ### Fields of a value -/

theorem bits_lt (v lo w : Nat) : bits v lo w < 2 ^ w := Nat.mod_lt _ (Nat.two_pow_pos w)

/-- A value as the bits below a field, the field, and the bits above it. -/
theorem bits_split (v lo w : Nat) : v = v % 2 ^ lo + bits v lo w * 2 ^ lo + v / 2 ^ (lo + w) * 2 ^ (lo + w) := by
  have h1 := Nat.mod_add_div v (2 ^ lo)
  have h2 := Nat.mod_add_div (v / 2 ^ lo) (2 ^ w)
  rw [Nat.div_div_eq_div_mul, ← Nat.pow_add] at h2
  have h3 : 2 ^ lo * (v / 2 ^ lo) = bits v lo w * 2 ^ lo + v / 2 ^ (lo + w) * 2 ^ (lo + w) := by
    rw [← h2, Nat.mul_add, Nat.pow_add]
    simp only [bits, Nat.mul_comm, Nat.mul_assoc]
  omega

/-- A value with a field replaced, as the bits below the field, the new field, and the bits above it. -/
theorem setBits_eq (v lo w x : Nat) : setBits v lo w x = v % 2 ^ lo + x % 2 ^ w * 2 ^ lo + v / 2 ^ (lo + w) * 2 ^ (lo + w) := by
  have h := bits_split v lo w
  unfold setBits
  omega

theorem setBits_lt {v lo w n : Nat} (x : Nat) (hv : v < 2 ^ n) (h : lo + w ≤ n) : setBits v lo w x < 2 ^ n := by
  have e := setBits_eq v lo w x
  have h1 : v % 2 ^ lo < 2 ^ lo := Nat.mod_lt _ (Nat.two_pow_pos lo)
  have h2 : x % 2 ^ w < 2 ^ w := Nat.mod_lt _ (Nat.two_pow_pos w)
  have h3 : v / 2 ^ (lo + w) < 2 ^ (n - (lo + w)) := by
    rw [Nat.div_lt_iff_lt_mul (Nat.two_pow_pos _), ← Nat.pow_add]
    rwa [Nat.sub_add_cancel h]
  have h4 : (v / 2 ^ (lo + w) + 1) * 2 ^ (lo + w) ≤ 2 ^ n := by
    calc (v / 2 ^ (lo + w) + 1) * 2 ^ (lo + w) ≤ 2 ^ (n - (lo + w)) * 2 ^ (lo + w) := Nat.mul_le_mul_right _ h3
      _ = 2 ^ n := by rw [← Nat.pow_add, Nat.sub_add_cancel h]
  have h5 : (x % 2 ^ w + 1) * 2 ^ lo ≤ 2 ^ (lo + w) := by
    calc (x % 2 ^ w + 1) * 2 ^ lo ≤ 2 ^ w * 2 ^ lo := Nat.mul_le_mul_right _ h2
      _ = 2 ^ (lo + w) := by rw [← Nat.pow_add, Nat.add_comm]
  rw [Nat.add_mul] at h4 h5
  omega

/-- A field reads as it was set. -/
theorem bits_setBits (v lo w x : Nat) : bits (setBits v lo w x) lo w = x % 2 ^ w := by
  have h1 : v % 2 ^ lo < 2 ^ lo := Nat.mod_lt _ (Nat.two_pow_pos lo)
  have e : setBits v lo w x = v % 2 ^ lo + (x % 2 ^ w + v / 2 ^ (lo + w) * 2 ^ w) * 2 ^ lo := by
    rw [setBits_eq, Nat.add_mul, Nat.mul_assoc, ← Nat.pow_add, Nat.add_comm w lo, Nat.add_assoc]
  unfold bits
  rw [e, Nat.add_mul_div_right _ _ (Nat.two_pow_pos lo), Nat.div_eq_of_lt h1, Nat.zero_add, Nat.add_mul_mod_self_right, Nat.mod_mod]

/-- A field above the one that is set reads as before. -/
theorem bits_setBits_above {v lo w lo' w' : Nat} (x : Nat) (h : lo + w ≤ lo') : bits (setBits v lo w x) lo' w' = bits v lo' w' := by
  have h1 : v % 2 ^ lo < 2 ^ lo := Nat.mod_lt _ (Nat.two_pow_pos lo)
  have h2 : (x % 2 ^ w + 1) * 2 ^ lo ≤ 2 ^ (lo + w) := by
    calc (x % 2 ^ w + 1) * 2 ^ lo ≤ 2 ^ w * 2 ^ lo := Nat.mul_le_mul_right _ (Nat.mod_lt _ (Nat.two_pow_pos w))
      _ = 2 ^ (lo + w) := by rw [← Nat.pow_add, Nat.add_comm]
  rw [Nat.add_mul] at h2
  have key : setBits v lo w x / 2 ^ (lo + w) = v / 2 ^ (lo + w) := by
    rw [setBits_eq, Nat.add_mul_div_right _ _ (Nat.two_pow_pos _), Nat.div_eq_of_lt (by omega), Nat.zero_add]
  obtain ⟨k, rfl⟩ := Nat.exists_eq_add_of_le h
  unfold bits
  rw [Nat.pow_add 2 (lo + w) k, ← Nat.div_div_eq_div_mul, ← Nat.div_div_eq_div_mul, key]

/-- A field below the one that is set reads as before. -/
theorem bits_setBits_below {v lo w lo' w' : Nat} (x : Nat) (h : lo' + w' ≤ lo) : bits (setBits v lo w x) lo' w' = bits v lo' w' := by
  have key : setBits v lo w x % 2 ^ lo = v % 2 ^ lo := by
    have e : setBits v lo w x = v % 2 ^ lo + 2 ^ lo * (x % 2 ^ w + v / 2 ^ (lo + w) * 2 ^ w) := by
      rw [setBits_eq, Nat.pow_add, Nat.mul_add, Nat.mul_comm (2 ^ lo) (x % 2 ^ w), Nat.mul_left_comm (2 ^ lo) (v / _), Nat.add_assoc]
    rw [e, Nat.add_mul_mod_self_left, Nat.mod_mod]
  have low (n : Nat) : bits n lo' w' = n % 2 ^ lo / 2 ^ lo' % 2 ^ w' := by
    unfold bits
    obtain ⟨k, rfl⟩ := Nat.exists_eq_add_of_le h
    rw [Nat.add_assoc, Nat.pow_add, Nat.mod_mul_right_div_self, Nat.pow_add, Nat.mod_mul_right_mod]
  rw [low, key, ← low]

/-! ### Registers -/

/-- A register is 64 bits wide (R7). -/
theorem State.reg_lt (s : State) (a : Nat) : s.reg a < 2 ^ 64 := (Sparse.get _ s.regs a).isLt

/-- A register reads as it was written. -/
theorem State.reg_setReg {s : State} (h : RegFile.wf s.regs = true) (a v : Nat) : (s.setReg a v).reg a = v % 2 ^ 64 := by
  have e := Sparse.get_put_self (d := fun a => BitVec.ofNat 64 (regReset a)) h a (BitVec.ofNat 64 v)
  simp only [State.reg, State.setReg]
  rw [e, BitVec.toNat_ofNat]

/-- A write of one register leaves every other as it was. -/
theorem State.reg_setReg_ne (s : State) {a b : Nat} (v : Nat) (h : b ≠ a) : (s.setReg a v).reg b = s.reg b := by
  simp only [State.reg, State.setReg, Sparse.get_put_ne _ h]

/-- A field reads as it was written. -/
theorem State.rd_wr {s : State} (h : RegFile.wf s.regs = true) (f : RF) (x : Nat) (hf : f.lo + f.width ≤ 64) :
    (s.wr f x).rd f = x % 2 ^ f.width := by
  unfold State.rd State.wr
  rw [State.reg_setReg h, Nat.mod_eq_of_lt (setBits_lt x (s.reg_lt f.addr) hf), bits_setBits]

/-- A write of a field leaves the fields of every other register as they were. -/
theorem State.rd_wr_ne (s : State) {f g : RF} (x : Nat) (h : g.addr ≠ f.addr) : (s.wr f x).rd g = s.rd g := by
  unfold State.rd State.wr
  rw [State.reg_setReg_ne s _ h]

/-- A write of a field leaves the other fields of its register as they were. -/
theorem State.rd_wr_field {s : State} (hs : RegFile.wf s.regs = true) {f g : RF} (x : Nat) (hf : f.lo + f.width ≤ 64)
    (ha : g.addr = f.addr) (h : g.lo + g.width ≤ f.lo ∨ f.lo + f.width ≤ g.lo) : (s.wr f x).rd g = s.rd g := by
  unfold State.rd State.wr
  rw [ha, State.reg_setReg hs, Nat.mod_eq_of_lt (setBits_lt x (s.reg_lt f.addr) hf)]
  rcases h with h | h
  · exact bits_setBits_below x h
  · exact bits_setBits_above x h

/-- A free value fits its width. -/
theorem State.free_lt (s : State) (w : Nat) : (s.free w).1 < 2 ^ w := Nat.mod_lt _ (Nat.two_pow_pos w)

/-! ### Memory -/

/-- A byte reads as it was stored. -/
theorem State.rdB_wrB {s : State} (h : Memory.wf s.mem = true) (a : Nat) (v : Byte) : (s.wrB a v).rdB a = v :=
  Sparse.get_put_self (d := fun _ => (0 : Byte)) h a v

/-- A byte stored leaves every other as it was. -/
theorem State.rdB_wrB_ne (s : State) {a b : Nat} (v : Byte) (h : b ≠ a) : (s.wrB a v).rdB b = s.rdB b :=
  Sparse.get_put_ne v h

/-- A byte that is cleared reads 0, any other as before. -/
theorem State.rdB_clearMem (s : State) (p : Nat → Bool) (a : Nat) : (s.clearMem p).rdB a = if p a then 0 else s.rdB a :=
  Sparse.get_drop p a

/-- A byte string stored leaves every byte outside it as it was. -/
theorem State.rdB_wrBytes_ne (s : State) {a n : Nat} (b : Bytes) (h : n < a ∨ a + b.length ≤ n) : (s.wrBytes a b).rdB n = s.rdB n := by
  induction b generalizing s a with
  | nil => rfl
  | cons v t ih =>
    simp only [List.length_cons] at h
    rw [State.wrBytes, ih (s.wrB a v) (by omega), State.rdB_wrB_ne s v (by omega)]

/-! ### The canonical form -/

/-- Every operation keeps the memory and the registers in canonical form. -/
theorem canon_kept : Kept True State.Canon where
  other s t hr hm _ h := by unfold State.Canon at *; rwa [hr, hm]
  setReg s a v h := ⟨h.1, Sparse.wf_put (d := fun a => BitVec.ofNat 64 (regReset a)) h.2 a _⟩
  wrB _ s a v h := ⟨Sparse.wf_put (d := fun _ => (0 : Byte)) h.1 a v, h.2⟩
  dropMem _ s p h := ⟨Sparse.wf_drop p h.1, h.2⟩
  dropRegs s p h := ⟨h.1, Sparse.wf_filter p h.2⟩
  bare _ s t hr hm _ _ := by unfold State.Canon; rw [hr, hm]; exact ⟨rfl, rfl⟩

/-- Every operation leaves the queue of commands alone. -/
theorem queue_kept (q : List Instr) : Kept True fun t => t.pending = q where
  other _ _ _ _ hp h := hp.trans h
  setReg _ _ _ h := h
  wrB _ _ _ _ h := h
  dropMem _ _ _ h := h
  dropRegs _ _ h := h
  bare _ _ _ _ _ hp h := hp.trans h

/-- Every operation that stores nothing leaves the memory alone. -/
theorem mem_kept (m : List Host.Cell) : Kept False fun t => t.mem = m where
  other _ _ _ hm _ h := hm.trans h
  setReg _ _ _ h := h
  wrB f := f.elim
  dropMem f := f.elim
  dropRegs _ _ h := h
  bare f := f.elim

end Sys2Proof.Machine
end

