-- ==== Sys2Proof/Tests/Slice0.lean ====
section
/-! SUPPORT. Tests of the model. First the smoke tests of `Instr.wf` and a few single steps whose results are the spec's worked examples and
tables; then, for each statement with hypotheses, a theorem `test_<statement>_hyps` that a state and operands meet them. -/

set_option Elab.async false

namespace Sys2Proof.Tests

open Sys2Proof.Machine

/-! ### The states of the witnesses -/

/-- After bring-up, the runtime firmware running. -/
def up : State := (State.reset.wr CAL_BRINGUP.stage 8).wr CMD_STATUS.runtime_up 1

/-- A prompt header on channel 0 for partition 0 and context 0. -/
def hd (n : Nat) : Hdr := ⟨0, 1, 0, 0, n, false, 0, false, true⟩

/-- Partition 0 BUILT: 2 by 2 positions at the corner, four slabs of stack S0. -/
def part : State :=
  let s := ((up.wr (PAR_PART_CFG.state 0) 2).wr (PAR_PART_CFG.width 0) 2).wr (PAR_PART_CFG.height 0) 2
  ((s.wr (STK_PART_MAP.stack_mask 0) 1).wr (STK_PART_MAP.slab_count 0) 4).wr STK_PRESENT.present 1

/-- Context 0 of partition 0 RESIDENT, of the mixed role, with 40,960 lines. -/
def one : State :=
  ((part.wr (PAR_CTX_CFG.state 0) 1).wr (PAR_CTX_CFG.share_lines 0) 40960).wr (PAR_CTX_CFG.role 0) 2

/-- Context 0 holds this beside its registers. -/
def one.With (k : CtxS) : State := one.setCtx 0 k

/-! ### The queue and the command interface -/

theorem test_queue_hyps : State.reset.pending = [] ∧ State.reset.Canon ∧
    (State.reset.fab.wait = [] ∧ (State.reset.fab.streams.all fun x => x.unacked.all fun k => !k.unpaid) = true) ∧
    ∃ t, step { State.reset with pending := [.inputApplied] } = .next t := ⟨rfl, ⟨by decide, by decide⟩, ⟨rfl, rfl⟩, _, rfl⟩

theorem test_up_canon : up.Canon := ⟨by decide +kernel, by decide +kernel⟩

theorem test_storesNothing_hyps : reachesMemory (.deviceIdentity (hd 0)) = false ∧ ∃ t, exec (.deviceIdentity (hd 0)) up = .next t :=
  ⟨rfl, _, rfl⟩

theorem test_header_hyps : (Instr.deviceIdentity (hd 0)).wf = true ∧ (Instr.deviceIdentity (hd 0)).hdr? = some (hd 0) := by decide

theorem test_PacketsNotTaken_hyps : State.reset.linkUp = false ∧ (Instr.deviceIdentity (hd 0)).hdr? = some (hd 0) ∧ up.linkUp = true ∧
    up.unrelayed { hd 0 with channel := 3, relayed := true } = true ∧ up.unrelayed (hd 0) = false ∧ up.linkHolds = false ∧
    ({ up with pins := { up.pins with uciIdle := true } } : State).linkHolds = true ∧ (Instr.deviceIdentity (hd 0)).wf = true ∧
    ((up.wr (CMD_CHAN_STATUS.outstanding 0) 64).arrive (hd 0)).overrun (hd 0) = true ∧ (up.arrive (hd 0)).overrun (hd 0) = false := by
  decide +kernel

theorem test_IntakeStatuses_hyps :
    let faulted := up.wr FLT_STATE.module_faulted 1
    let noGroup := up.wr (CMD_CHAN_CFG.group_mask 0) 0
    let noPart := up.wr (CMD_CHAN_CFG.partition_mask 0) 0
    let busy := up.setChan 0 { up.chan 0 with outst := [⟨1, 1, 0, 0, false, none⟩] }
    let late : Hdr := { hd 0 with deadlineEn := true, deadline := 4 }
    up.intake (hd 4104) 0x0801 true .none = 0x0102 ∧ (4096 : Nat) < 4104 ∧
    (faulted.on FLT_STATE.module_faulted = true ∧ 0x0801 ∉ [0x0001, 0x0101, 0x0703, 0x0803]) ∧
    noGroup.rdBit (CMD_CHAN_CFG.group_mask 0) 8 = false ∧ noPart.rdBit (CMD_CHAN_CFG.partition_mask 0) 0 = false ∧
    up.rdBit (CMD_CHAN_CFG.group_mask 0) 8 = true ∧ up.rdBit (CMD_CHAN_CFG.partition_mask 0) 0 = true ∧
    up.cst 0 = stFree ∧ (one.cst 0 ≠ stFree ∧ one.cst 0 ≠ stTeardown ∧ one.cpart 0 = 0) ∧
    ((busy.chan 0).outst.any fun o => o.tag == (hd 0).tag) = true ∧ ((up.chan 0).outst.any fun o => o.tag == (hd 0).tag) = false ∧
    late.deadlineEn = true ∧ late.deadline < ({ up with hall := 5 } : State).hall ∧ late.deadline ≤ 4 := by decide +kernel

theorem test_IntakeRefuses_hyps : up.linkUp = true ∧ up.unrelayed (hd 4) = false ∧ up.linkHolds = false ∧ (up.arrive (hd 4)).overrun (hd 4) = false ∧
    (up.taken (hd 4)).intake (hd 4) 0x0002 true .none ≠ 0 ∧
    (up.taken (hd 4)).intake (hd 4) (fwSensorRead (hd 4)).op (fwSensorRead (hd 4)).lenOk (fwSensorRead (hd 4)).scope ≠ 0 ∧
    ((up.taken (hd 16)).intake (hd 16) 0x0803 true .none = 0 ∧ (fun _ : State => 0x0104) (up.taken (hd 16)) ≠ 0) ∧
    ((up.taken (hd 8)).intake (hd 8) (fwPowerCapSet (hd 8) 0).op (fwPowerCapSet (hd 8) 0).lenOk (fwPowerCapSet (hd 8) 0).scope = 0 ∧
      (up.taken (hd 8)).on CMD_STATUS.runtime_up = true ∧ (up.taken (hd 8)).installing (fwPowerCapSet (hd 8) 0).op (.powerCapSet (hd 8) 0) = false ∧
      (fwPowerCapSet (hd 8) 0).check (up.taken (hd 8)) ≠ 0) := by decide +kernel

theorem test_Reply_hyps :
    let p : Packet := ⟨true, 3, 0, 0, 0, 0, 0, false, false, false, 0, 0, []⟩
    ((up.chan 0).outst.any fun o => o.tag == (hd 0).tag) = false ∧ (up.chan 0).late = [] ∧ ordinaryPlaces (up.chan 0).queue < 960 ∧
    ((up.setChan 0 { up.chan 0 with late := [p] }).chan 0).late ≠ [] ∧ up.Canon := by
  refine ⟨by decide +kernel, by decide +kernel, by decide +kernel, by decide +kernel, test_up_canon⟩

theorem test_EventQueueing_hyps :
    let p (cls : Nat) : Packet := ⟨true, 3, 0, 0, 0, 0, 0, false, false, false, 0, cls, []⟩
    (reservedPlaces (up.chan 0).queue < 64 ∧ ordinaryPlaces (up.chan 0).queue < 960) ∧
    64 ≤ reservedPlaces (List.replicate 64 (p 2)) ∧ 960 ≤ ordinaryPlaces (List.replicate 960 (p 0)) ∧
    (up.wr (CMD_CHAN_CFG.event_mask 0) 0).rdBit (CMD_CHAN_CFG.event_mask 0) 2 = false := by decide +kernel

theorem test_ReplyReturnsCredits_hyps :
    let o (credited : Bool) : Outst := ⟨1, 1, 0, 0, credited, none⟩
    let s (credited : Bool) := up.setChan 0 { up.chan 0 with outst := [o credited] }
    ((s true).chan 0).outst.find? (fun o => o.tag == (hd 0).tag && o.op == 1) = some (o true) ∧
    ((s false).chan 0).outst.find? (fun o => o.tag == (hd 0).tag && o.op == 1) = some (o false) ∧ (o false).credited = false ∧
    reservedPlaces (up.chan 0).queue < 64 ∧ ordinaryPlaces (up.chan 0).queue < 960 ∧ (s true).Canon ∧ (s false).Canon := by
  refine ⟨by decide +kernel, by decide +kernel, by decide +kernel, by decide +kernel, by decide +kernel, test_up_canon, test_up_canon⟩

/-- Fields of three access kinds side by side, and bits of none. -/
theorem test_WriteRules_hyps :
    let fields : List FieldSpec := [⟨0, 4, .rw, 0, none⟩, ⟨4, 4, .w1c, 0, none⟩, ⟨12, 52, .ro, 0, none⟩]
    (2 ^ 64 - 1 < 2 ^ 64) ∧ (∀ f ∈ fields, f.lo + f.width ≤ 64) ∧
    fields.Pairwise (fun f g => f.lo + f.width ≤ g.lo ∨ g.lo + g.width ≤ f.lo) ∧ (∀ f ∈ fields, 8 < f.lo ∨ f.lo + f.width ≤ 8) ∧
    written fields 0xFFFFF5F0 0x3F5 = 0xFFFFF505 := by decide

/-! ### The commands of the command engine -/

theorem test_ReadCommandsComplete_hyps : up.admits (hd 0) 0x0001 true .none noCheck ∧ up.admits (hd 8) 0x0002 true .none noCheck ∧
    up.admits (hd 8) 0x0101 true .none noCheck ∧ (∀ a ∈ [CMD_STATUS], (up.taken (hd 8)).addrStatus a = 0) ∧
    up.admits (hd 0) 0x0703 true .none noCheck ∧
    up.admits (hd 32) 0x0801 true .none (checkCounterSnapshot 1 1 3 0) ∧ up.admits (hd 16) 0x0803 true .none noCheck := by decide +kernel

theorem test_ConfigurationWrite_hyps : up.admits (hd 24) 0x0102 true .none (·.entriesStatus 0 [(TIM_CTRL, up.reg TIM_CTRL)]) ∧
    up.entriesStatus 0 [(TIM_CTRL, up.reg TIM_CTRL)] = 0 ∧ up.entriesStatus 0 [(1, 0)] ≠ 0 := by decide +kernel

theorem test_RegisterWrites_hyps :
    let ok (a w : Nat) : Bool := decide (up.admits (hd 24) 0x0102 true .none (·.writeStatus 0 a w))
    ok (TIL_NUM_STATUS 0) (setBits 0 8 1 1) && ok (TIL_SRAM_ECC 0) (setBits 0 32 1 1) && ok (TIL_COUNTER_CTRL 0) (setBits 0 0 1 1) &&
    ok (ARY_QUEUE_SEL 0) 5 && ok (BWD_CTRL 5) 1 && ok (STK_ECC 0) (2 ^ 32) && ok (TIL_ROW_MAP 0 0) (8 * 2 ^ 20 + 4 * 2 ^ 8) && ok (CAL_BIST_CTRL 4) 1 &&
    ok (PRT_CFG 0) (setBits (up.reg (PRT_CFG 0)) 0 1 1) && ok (PRT_CFG 0) (setBits (up.reg (PRT_CFG 0)) 0 1 0) &&
    ok (CMD_MGMT_CFG 0) (up.reg (CMD_MGMT_CFG 0)) && ok (CMD_MGMT_ADDR_HI 0) 1 && ok (CMD_MGMT_ADDR_LO 0) 1 = true := by decide +kernel

/-- Context 0 with a weight set under way in slot 0. -/
def bld : State := (one.wr (wgtState 0 0) 1).setBuild { ctx := 0, target := 0, tag := 0, wanted := 1, stream := 0xFFFF }

/-- A stream of context 0 on port 0, and the state that holds it with the port UP. -/
def strm : Stream := { handle := 0, ctx := 0, port := 0, direction := 0, kind := 0, prot := false, keySlot := 0, peerUdp := 2000, peerHandle := 9, peerAddr := 5 }
def strms (x : Stream) : State := let s := one.wr (PRT_STATUS.link_state 0) 3; { s with fab := { s.fab with streams := [x] } }

/-- A result ring of context 0 with one record, and a roster node descriptor of zeros. -/
def ringed : State := one.setRing { ctx := 0, source := 0, ring := 0, k := 4, base := 0, size := 32, write := 1 }
def node0 : Bytes := List.replicate 128 0
def req0 : TrainReq := ⟨nodeDigest node0, 1, 0, 0, 5000, 0, 0, 0, []⟩

/-- Context 0 with an open image of 16 bytes. -/
def img : State := one.With { image := some ⟨16, [], []⟩ }

theorem test_PartitionAndContext_hyps :
    one.admits (hd 24) 0x0206 true .partition (checkSliceTableSet 0 1 [(0, 10)]) ∧
    one.admits (hd 16) 0x0207 true .partition (checkContextPreEmpt 0 0 5) ∧ up.admits (hd 0) 0x0208 true .none noCheck ∧
    one.admits (hd 8) 0x0209 true .context noCheck ∧
    (img.admits (hd 16) 0x0302 true .context noCheck ∧ (img.ctx 0).image = some ⟨16, [], []⟩) ∧
    (img.admits (hd 16) 0x0303 true .context (checkProgramFetch 0 0 8) ∧
      (img.accepted (hd 16) 0x0303).partPoisoned ((img.accepted (hd 16) 0x0303).cpart 0) 0 8 = false) ∧
    bld.admits (hd 8) 0x0403 true .context (checkWeightSetCommit 0 0) ∧
    (one.wr (wgtState 0 0) 2).admits (hd 8) 0x0404 true .context (checkWeightSetSwitch 0 0) := by decide +kernel

theorem test_WorkCommands_hyps :
    let sq := one.setSeq 3 { state := 1 }
    let trn := (one.With { node := some node0 }).wr (FLT_CTX_ILOG_CFG.depth 0) 8
    sq.admits (hd 8) 0x0502 true .context (checkSequence 0 3) ∧ sq.admits (hd 8) 0x0503 true .context (checkSequence 0 3) ∧
    trn.admits (hd 128) 0x0601 true .context (checkTrainingStep 0 req0) ∧
    ((strms strm).admits (hd 8) 0x0608 true .context noCheck ∧ (strms strm).stream 0 = some strm ∧ strm.ctx = 0) ∧
    ringed.admits (hd 32) 0x0C01 true .context (checkResultRead 0 0 0 0 1) ∧
    (ringed.admits (hd 24) 0x0C02 true .context noCheck ∧
      ringed.ring 0 0 0 = some { ctx := 0, source := 0, ring := 0, k := 4, base := 0, size := 32, write := 1 }) ∧
    one.admits (hd 8) 0x0C03 true .context noCheck := by decide +kernel

theorem test_TickCommands_hyps :
    up.admits (hd 24) 0x0701 true .none (checkTickSetDirect 0 500) ∧ up.admits (hd 24) 0x0701 true .none (checkTickSetEffective 100 500) ∧
    (up.admits (hd 8) 0x0702 true .none noCheck ∧ (up.taken (hd 8)).anyActive = false) ∧ one.admits (hd 0) 0x0A02 true .context noCheck := by decide +kernel

/-! ### The commands of the runtime firmware -/

theorem test_PartitionFirmware_hyps :
    let up := up.wr STK_PRESENT.present 1
    up.runs (hd 72) (fwPartitionBuild (hd 72) 0 0 2 2 1 1 0 4 16) (.partitionBuild (hd 72) 0 0 2 2 1 1 0 4 16) ∧ part.runs (hd 0) (fwPartitionDissolve (hd 0)) (.partitionDissolve (hd 0)) ∧
    part.runs (hd 16) (fwPartitionRelocate (hd 16) 12 6) (.partitionRelocate (hd 16) 12 6) ∧
    part.runs (hd 80) (fwContextCreate (hd 80) 0 2 0 40960 0 7 0 100000 5 1) (.contextCreate (hd 80) 0 2 0 40960 0 7 0 100000 5 1) ∧ one.runs (hd 0) (fwContextDestroy (hd 0)) (.contextDestroy (hd 0)) := by
  decide +kernel

theorem test_ProgramAndWeight_hyps :
    let adap := one.setBuild { ctx := 0, target := 9, tag := 0, wanted := 0, stream := 0xFFFF }
    one.runs (hd 40) (fwProgramOpen (hd 40) 20000 (List.replicate 32 0)) (.programOpen (hd 40) 20000 (List.replicate 32 0)) ∧
    (img.runs (hd 0) (fwProgramCommit (hd 0)) (.programCommit (hd 0)) ∧ (img.ctx 0).image = some ⟨16, [], []⟩) ∧
    one.runs (hd 64) (fwWeightSetOpen (hd 64) ⟨1, 4, 0xFFFF, 0, 0, 100, 0, 0, 0, 0, 0, 0, 0, 0, 0, 0⟩) (.weightSetOpen (hd 64) ⟨1, 4, 0xFFFF, 0, 0, 100, 0, 0, 0, 0, 0, 0, 0, 0, 0, 0⟩) ∧
    one.runs (hd 48) (fwAdapterLoad (hd 48) 7 8 256 1 4 0xFFFF) (.adapterLoad (hd 48) 7 8 256 1 4 0xFFFF) ∧ adap.runs (hd 8) (fwAdapterDrop (hd 8) 7) (.adapterDrop (hd 8) 7) := by decide +kernel

theorem test_WeightSet_hyps :
    let shard : Shard := { tensor := 0, index := 3, digest := [], resident := [], runs := [] }
    (one.wr (wgtState 0 0) 2).runs (hd 16) (fwWeightSetRelease (hd 16) 0 0) (.weightSetRelease (hd 16) 0 0) ∧
    (bld.setBuild { ctx := 0, target := 0, tag := 0, wanted := 1, stream := 0xFFFF, landed := [shard] }).runs (hd 16)
      (fwWeightSetDigest (hd 16) 0 3) (.weightSetDigest (hd 16) 0 3) := by decide +kernel

/-- A serving configuration (R313): quota 10, a drove of one, chunks of one token, one KV region of 100 units. -/
def serving0 : List Nat :=
  [10 * 2 ^ 49 + 2 ^ 36 + 2 ^ 20, 0, 2 ^ 48 + 100, 10, 2 ^ 38, 2 ^ 39, 1000, 2000, 3000, 100, 2 ^ 17]

/-- A storage connection of controller 1 on port 0, and a read of a block for weight-set slot 0. -/
def conn0 : StorageConn := ⟨1, 0, 4420, 2, 16, 5, [], false⟩
def read0 : StorageReadReq := ⟨1, 0, 0, 1, 0, 1⟩

theorem test_StorageConnection_hyps :
    let link := one.wr (PRT_STATUS.link_state 0) 3
    let x := link.setController { id := 1, conn := some conn0 }
    let busy := link.setController { id := 1, conn := some conn0, jobs := [{ id := 0, hdr := hd 24, req := read0, reads := [] }] }
    (link.runs (hd 256) (fwStorageConnect (hd 256) conn0) (.storageConnect (hd 256) conn0) ∧ link.runs (hd 256) (fwStorageConnect (hd 256) { conn0 with declines := true }) (.storageConnect (hd 256) { conn0 with declines := true })) ∧
    (x.runs (hd 8) (fwStorageDisconnect (hd 8) 1) (.storageDisconnect (hd 8) 1) ∧ ((x.accepted (hd 8) 0x040A).controller 1).jobs = []) ∧
    (busy.runs (hd 8) (fwStorageDisconnect (hd 8) 1) (.storageDisconnect (hd 8) 1) ∧ ((busy.accepted (hd 8) 0x040A).controller 1).jobs ≠ []) := by decide +kernel

theorem test_ServingConfigure_hyps :
    one.runs (hd 88) (fwServingConfigure (hd 88) serving0) (.servingConfigure (hd 88) serving0) ∧ one.runs (hd 24) (fwRingConfigure (hd 24) 3 4 0) (.ringConfigure (hd 24) 3 4 0) ∧
    one.runs (hd 24) (fwRingConfigure (hd 24) 3 0 0) (.ringConfigure (hd 24) 3 0 0) ∧ one.runs (hd 16) (fwTraceEnable (hd 16) 100 4) (.traceEnable (hd 16) 100 4) := by decide +kernel

/-- The check of a read of blocks that the namespace may or may not have: whatever its size, 0 or 0x0104. -/
theorem test_StorageRead_hyps : let bld := bld.setController { id := 1, conn := some conn0 }
    bld.admits (hd 24) 0x0402 (fwStorageRead (hd 24) read0).lenOk .context noCheck ∧
    (bld.taken (hd 24)).on CMD_STATUS.runtime_up = true ∧
    (checkStorageRead 0 read0 (bld.taken (hd 24)) = 0 ∨ checkStorageRead 0 read0 (bld.taken (hd 24)) = 0x0104) := by
  intro bld
  refine ⟨by decide +kernel, by decide +kernel, ?_⟩
  have h : ((bld.taken (hd 24)).build 0 (readTarget read0)).any (bld.taken (hd 24)).taking = true := by decide +kernel
  have g : ((bld.taken (hd 24)).controller read0.controller).conn.isNone = false := by decide +kernel
  simp only [checkStorageRead, h, g]
  by_cases e : (Config.namespaceSize read0.controller read0.nsid).1 < read0.lba + read0.blocks
  · right; simp [e]; decide
  · left; simp [e]; decide

/-- A roster node descriptor (Table 12-2): member 1 of two at depth 1, its parent roster member 0, two children at members 2 and 3. -/
def node1 : Bytes :=
  List.replicate 32 7 ++ leB 2 1 ++ leB 2 4 ++ leB 1 1 ++ leB 1 2 ++ leB 2 0 ++ leB 2 0 ++ leB 2 2 ++ leB 2 3 ++ List.replicate 24 255 ++
    leB 2 0 ++ leB 4 2000 ++ leB 4 500 ++ List.replicate 48 0

/-- An input-log entry of step 3 (Table 21-5) with 256 zero input bytes; its two digests are from another SHA-256. -/
def entry3 : Bytes :=
  leB 4 0x4B57494C ++ leB 2 1 ++ leB 2 0 ++ leB 8 3 ++ List.replicate 128 0 ++
    leB 32 0xf15a00de5af748561a9fdd9bec21941610f3a1073065570ea7796964b2e64153 ++
    leB 32 0x11b0fc0746f92547b7268c90dbeaa6bf354d6f5289b50ca831e3dc42a7ec8ef7 ++ List.replicate 304 0

theorem test_RosterAndJob_hyps :
    let kept := one.wr (FLT_CTX_ILOG_CFG.depth 0) 8
    let mir := (one.With { mirrorRing := some (0, 2, 2) }).wrPart 0 512 entry3
    one.runs (hd 128) (fwRosterTree (hd 128) node1) (.rosterTree (hd 128) node1) ∧ one.runs (hd 48) (fwInputLogConfigure (hd 48) 0 8 2 1000 (2 ^ 30) 0) (.inputLogConfigure (hd 48) 0 8 2 1000 (2 ^ 30) 0) ∧
    (mir.runs (hd 24) (fwInputLogRead (hd 24) 3 1 0) (.inputLogRead (hd 24) 3 1 0) ∧ (mir.fwAccepted (hd 24) 0x0604).namedEntry 0 3 1 = some entry3 ∧
      (mir.fwAccepted (hd 24) 0x0604).entryPoisoned 0 3 1 = false ∧ (mir.fwAccepted (hd 24) 0x0604).on (SEC_CTX.attested 0) = false) ∧
    (kept.runs (hd 16) (fwInputLogLoad (hd 16) 0 8 (List.replicate 8 1)) (.inputLogLoad (hd 16) 0 8 (List.replicate 8 1)) ∧
      ((kept.fwAccepted (hd 16) 0x060C).takePart (hd 16) 0x060C 0 8 (List.replicate 8 1)).1 = .whole (List.replicate 8 1)) ∧
    (one.runs (hd 16) (fwInputLogLoad (hd 16) 0 9 (List.replicate 8 1)) (.inputLogLoad (hd 16) 0 9 (List.replicate 8 1)) ∧
      ((one.fwAccepted (hd 16) 0x060C).takePart (hd 16) 0x060C 0 9 (List.replicate 8 1)).1 = .more) := by decide +kernel

theorem test_MirrorAndJob_hyps :
    (strms { strm with kind := 2 }).runs (hd 8) (fwMirrorConfigure (hd 8) 0) (.mirrorConfigure (hd 8) 0) ∧
    (strms { strm with kind := 2, direction := 1 }).runs (hd 32) (fwMirrorAccept (hd 32) 0 0 0 2) (.mirrorAccept (hd 32) 0 0 0 2) ∧
    one.runs (hd 40) (fwJobStartArm (hd 40) 5 0 10 60) (.jobStartArm (hd 40) 5 0 10 60) := by decide +kernel

theorem test_JobAndStream_hyps :
    one.runs (hd 32) (fwJobStartBroadcast (hd 32) 0 4 10 256) (.jobStartBroadcast (hd 32) 0 4 10 256) ∧
    one.runs (hd 32) (fwJobStartStatus (hd 32) (List.replicate 32 7)) (.jobStartStatus (hd 32) (List.replicate 32 7)) ∧
    (one.wr (PRT_STATUS.link_state 3) 1).runs (hd 32) (fwStreamOpen (hd 32) ⟨3, 1, 0, 0, 0, 2000, 9, 5⟩) (.streamOpen (hd 32) ⟨3, 1, 0, 0, 0, 2000, 9, 5⟩) := by decide +kernel

/-- A calibration record of kind 0x05. -/
def rec5 : Bytes :=
  [5, 1, 8, 0, 0, 100, 0, 150] ++ leB 2 480 ++ leB 2 560 ++ leB 4 0 ++ sha256 (List.replicate 8 0) ++ List.replicate 8 0

theorem test_PowerFirmware_hyps :
    up.runs (hd 8) (fwPowerCapSet (hd 8) 30000) (.powerCapSet (hd 8) 30000) ∧ up.runs (hd 0) (fwSensorRead (hd 0)) (.sensorRead (hd 0)) ∧ up.runs (hd 0) (fwThermalStatus (hd 0)) (.thermalStatus (hd 0)) := by
  decide +kernel

/-- The machine with a part of the same object before this one at the firmware, so that this one's object is judged only there. -/
def behind (s : State) (op n : Nat) : State :=
  { s with cmd := { s.cmd with runtime := [⟨0, 0, op, { hd n with tag := 9 }, .deviceIdentity (hd n)⟩] } }

theorem test_Calibration_hyps :
    let cal := { up with cal := { up.cal with records := [rec5], learn := some ⟨0, 0, 0, (0, 0), (0, 0), (0, 0)⟩ } }
    (cal.runs (hd 8) (fwCalibrationRead (hd 8) 5) (.calibrationRead (hd 8) 5) ∧ (cal.fwAccepted (hd 8) 0x0B03).calRecord 5 = some rec5) ∧
    up.runs (hd 56) (fwCalibrationWrite (hd 56) rec5) (.calibrationWrite (hd 56) rec5) ∧ cal.runs (hd 0) (fwCalibrationCommit (hd 0)) (.calibrationCommit (hd 0)) ∧
    ((behind up 0x0B06 16).runs (hd 16) (fwCalibrationRestore (hd 16) 0 8 (List.replicate 8 1)) (.calibrationRestore (hd 16) 0 8 (List.replicate 8 1)) ∧
      (((behind up 0x0B06 16).fwAccepted (hd 16) 0x0B06).takePart (hd 16) 0x0B06 0 8 (List.replicate 8 1)).1 = .whole (List.replicate 8 1)) := by decide +kernel

theorem test_Security_hyps :
    let quoted := { up with sec := { up.sec with quotes := [(4, [1, 2, 3])] } }
    up.runs (hd 8) (fwMeasurementRead (hd 8)) (.measurementRead (hd 8)) ∧ up.runs (hd 48) (fwMeasurementExtend (hd 48) 6 (List.replicate 32 1)) (.measurementExtend (hd 48) 6 (List.replicate 32 1)) ∧
    up.runs (hd 24) (fwCertificateRead (hd 24) 1 0) (.certificateRead (hd 24) 1 0) ∧
    (up.runs (hd 56) (fwAttestationQuote (hd 56) (List.replicate 32 1) 0xFFFF 0xFF) (.attestationQuote (hd 56) (List.replicate 32 1) 0xFFFF 0xFF) ∧
      checkQuote 0xFFFF 0xFF (up.fwAccepted (hd 56) 0x0902) = 0) ∧
    (quoted.runs (hd 24) (fwQuoteRead (hd 24) 4 1) (.quoteRead (hd 24) 4 1) ∧ checkQuoteRead 4 1 (quoted.fwAccepted (hd 24) 0x0902) = 0 ∧
      ((quoted.fwAccepted (hd 24) 0x0902).sec.quotes.find? fun q => q.1 == 4) = some (4, [1, 2, 3])) := by decide +kernel

theorem test_Sessions_hyps :
    let open_ := { one with sec := { one.sec with sessions := [⟨2, 0, 0, 0, [], none, false⟩] } }
    let set_ := { one with sec := { one.sec with sessions := [⟨2, 0, 0, 0, [], some [], false⟩] } }
    one.runs (hd 8) (fwSessionEstablishKey (hd 8)) (.sessionEstablishKey (hd 8)) ∧
    (open_.runs (hd 1112) (fwSessionEstablishCiphertext (hd 1112) 2 1 (List.replicate 1088 0)) (.sessionEstablishCiphertext (hd 1112) 2 1 (List.replicate 1088 0)) ∧
      checkSessionCiphertext 0 2 1 (open_.fwAccepted (hd 1112) 0x0903) = 0) ∧
    (set_.runs (hd 32) (fwStreamKeySet (hd 32) 2 7 1 0) (.streamKeySet (hd 32) 2 7 1 0) ∧ checkStreamKeySet 0 2 7 1 0 (set_.fwAccepted (hd 32) 0x0904) = 0) := by decide +kernel

theorem test_Unlock_hyps :
    let d : Bytes := List.replicate 8 1
    (up.runs (hd 16) (fwDebugUnlockChallenge (hd 16) 1) (.debugUnlockChallenge (hd 16) 1) ∧ (up.fwAccepted (hd 16) 0x0905).unlockRefusal 1 = 0) ∧
    (up.runsBefore (hd 24) (fwDebugUnlockResponse (hd 24) 0 8 d) (.debugUnlockResponse (hd 24) 0 8 d) ∧
      ((up.taken (hd 24)).takePart (hd 24) 0x0905 0 8 d).1 = .whole d) ∧
    (up.runsBefore (hd 16) (fwKeyEnrolment (hd 16) 0 8 d true) (.keyEnrolment (hd 16) 0 8 d true) ∧ ((up.taken (hd 16)).takePart (hd 16) 0x0907 0 8 d).1 = .whole d) := by decide +kernel

theorem test_FirmwareUpdate_hyps :
    let d : Bytes := List.replicate 8 1
    (up.runs (hd 32) (fwFirmwareUpdateStage (hd 32) 0 0 8 d) (.firmwareUpdateStage (hd 32) 0 0 8 d) ∧ ((up.fwAccepted (hd 32) 0x0906).takePart (hd 32) 0x0906 0 8 d).1 ≠ .refused) ∧
    (up.runs (hd 16) (fwFirmwareUpdateFloor (hd 16) 0 true) (.firmwareUpdateFloor (hd 16) 0 true) ∧ up.runs (hd 16) (fwFirmwareUpdateFloor (hd 16) 0 false) (.firmwareUpdateFloor (hd 16) 0 false) ∧
      (up.fwAccepted (hd 16) 0x0906).sec.fuseBad = false) := by decide +kernel

/-- A module one of whose fuses did not read back as written. -/
theorem test_FuseBad_hyps :
    let s : State := { up with sec := { up.sec with fuseBad := true } }
    s.sec.fuseBad = true ∧ (hd 16).channel < 8 ∧ (∃ t, exec (.keyEnrolment (hd 16) 0 8 (List.replicate 8 1) true) s = .next t) ∧
    ∃ t, exec (.firmwareUpdateFloor (hd 16) 0 true) s = .next t := ⟨rfl, by decide, ⟨_, rfl⟩, _, rfl⟩

/-- The check of an image, which may be signed or not, and of any version: whichever it is, 0, 0x0640 or 0x0642. -/
theorem test_FirmwareInstall_hyps : up.admits (hd 32) 0x0906 (fwFirmwareUpdateInstall (hd 32) 1 0 64).lenOk .none noCheck ∧
    ((up.taken (hd 32)).on CMD_STATUS.runtime_up = true ∧ (up.taken (hd 32)).installing 0x0906 (.firmwareUpdateInstall (hd 32) 1 0 64) = false ∧
      (up.taken (hd 32)).reaches 0x0906 = true ∧ (up.taken (hd 32)).waitsBehind 0x0906 = false) ∧
    checkInstall 1 0 64 (up.taken (hd 32)) ∈ [0, 0x0640, 0x0642] := by
  refine ⟨by decide +kernel, by decide +kernel, ?_⟩
  simp only [checkInstall, State.imageRefusal]
  split
  · simp_all
  · split
    · rename_i h
      revert h
      simp [State.staged]
    · split
      · simp
      · split <;> simp

theorem leAt_zeros (n o k : Nat) : leAt (List.replicate n 0) o k = 0 := by
  have h : ∀ m : Nat, ofLe (List.replicate m (0 : Byte)) = 0 := by
    intro m
    induction m with
    | zero => rfl
    | succ m ih => simp_all [List.replicate_succ, ofLe]
  rw [leAt, slice, List.drop_replicate, List.take_replicate, h]

/-- A response to a challenge and an owner's record as long as they are. -/
theorem test_UnlockObject_hyps :
    let k : KeyEntry := ⟨0, 2, [], false⟩
    let t := { up with sec := { up.sec with challenge := some (1, [5], 0), keys := [k] } }
    let obj : Bytes := List.replicate 16232 0
    t.sec.challenge = some (1, [5], 0) ∧
    (t.sec.keys.find? fun e => e.entry == leAt obj 16224 8 && e.cls == 2 && !e.revoked) = some k ∧ obj.length = 16232 ∧
    leAt obj 16224 8 ≤ 31 ∧ t.unlockRefusal 1 = 0 ∧ t.hall ≤ 0 + sessionLimit := by
  intro k t obj
  refine ⟨by decide +kernel, ?_, List.length_replicate, ?_, by decide +kernel, by decide +kernel⟩
  · rw [show leAt obj 16224 8 = 0 from leAt_zeros _ _ _]; rfl
  · rw [show leAt obj 16224 8 = 0 from leAt_zeros _ _ _]; decide

theorem enrolObject (r : Bytes) (h : r.length = 16288) (obj : Bytes) (e : obj = [0, 0, 0, 0, 0, 0, 0, 0, 1, 0, 0, 0, 0, 0, 0, 0] ++ r) :
    obj.length = 16304 ∧ leAt obj 0 1 = 0 ∧ leAt obj 8 8 = 1 := by
  subst e
  exact ⟨by rw [List.length_append, h]; rfl, by simp [leAt, slice, ofLe], by simp [leAt, slice, ofLe]⟩

theorem test_EnrolObject_hyps :
    ∃ obj : Bytes, obj.length = 16304 ∧ leAt obj 0 1 = 0 ∧ up.on SEC_STATUS.owner_set = false ∧ up.sec.fuseBad = false ∧
      up.sec.counter < leAt obj 8 8 := by
  have h := enrolObject (List.replicate 16288 0) List.length_replicate _ rfl
  exact ⟨_, h.1, h.2.1, by decide +kernel, by decide +kernel, by rw [h.2.2]; decide +kernel⟩

/-- A command that the firmware answers later, held since reset. -/
def slow (n : Nat) : Hdr := { hd n with prompt := false, deadlineEn := true, deadline := 50 }
def heldCmd : RtCmd := ⟨0, 0, 0x0802, slow 0, .sensorRead (slow 0)⟩
def holding : State := { up with cmd := { up.cmd with runtime := [heldCmd] } }

theorem test_RuntimeFirmwareSilent_hyps :
    let down := up.wr CMD_STATUS.runtime_up 0
    fwAs id (.sensorRead (hd 0)) = some (fwSensorRead (hd 0)) ∧ (down.linkUp = true ∧ down.unrelayed (hd 0) = false ∧ down.linkHolds = false ∧ (down.arrive (hd 0)).overrun (hd 0) = false ∧
      (down.taken (hd 0)).intake (hd 0) (fwSensorRead (hd 0)).op (fwSensorRead (hd 0)).lenOk (fwSensorRead (hd 0)).scope = 0 ∧
      (down.taken (hd 0)).on CMD_STATUS.runtime_up = false) ∧ holding.held? 0 1 = some heldCmd ∧
    ((up.chan 0).outst.any fun o => o.tag == (hd 0).tag && o.op == 0x0802) = false :=
  ⟨rfl, by decide +kernel, by decide +kernel, by decide +kernel⟩

theorem test_HeldCommands_hyps :
    fwAs id (.sensorRead (slow 0)) = some (fwSensorRead (slow 0)) ∧
    (up.admits (slow 0) (fwSensorRead (slow 0)).op (fwSensorRead (slow 0)).lenOk (fwSensorRead (slow 0)).scope (fwSensorRead (slow 0)).check ∧
      (up.taken (slow 0)).on CMD_STATUS.runtime_up = true) ∧ holding.held? 0 1 = some heldCmd ∧
    (50 < ({ holding with hall := 51 } : State).hall ∧ holding.hall ≤ 50) ∧
    (fwSensorRead (slow 0)).check (holding.dropHeld 0 1) = 0 ∧ holding.comesThrough heldCmd = true :=
  ⟨rfl, by decide +kernel, by decide +kernel, by decide +kernel, rfl, by decide +kernel⟩

/-- A firmware update while the firmware installs another. -/
theorem test_HeldUpdate_hyps :
    let i : RtCmd := ⟨0, 0, 0x0906, { slow 32 with tag := 7 }, .firmwareUpdateInstall { slow 32 with tag := 7 } 1 0 64⟩
    let h : State := { up with cmd := { up.cmd with runtime := [i] } }
    h.linkUp = true ∧ h.unrelayed (hd 32) = false ∧ h.linkHolds = false ∧ (h.arrive (hd 32)).overrun (hd 32) = false ∧
    (h.taken (hd 32)).intake (hd 32) 0x0906 true .none = 0 ∧ (h.taken (hd 32)).on CMD_STATUS.runtime_up = true ∧
    (h.taken (hd 32)).installing 0x0906 (.firmwareUpdateInstall (hd 32) 1 0 64) = true ∧
    up.installing 0x0906 (.firmwareUpdateInstall (hd 32) 1 0 64) = false := by decide +kernel

/-! ### What happens to the module -/

theorem test_LinkEvents_hyps :
    let queued := up.setChan 0 { up.chan 0 with queue := [⟨true, 3, 0, 0, 0, 0, 0, false, false, false, 0, 0, []⟩] }
    let relay := { up.wr (CMD_MGMT_STATUS.link_up 0) 1 with relayTable := [([1], 3)] }
    ((queued.chan 0).queue ≠ [] ∧ queued.rdBit CMD_STATUS.stalled 0 = false) ∧
    ((up.wrBit CMD_STATUS.stalled 0 true).rdBit CMD_STATUS.stalled 0 = true ∧ (up.chan 0).lost = 0) ∧
    (relay.on CMD_STATUS.runtime_up = true ∧ relay.on (CMD_MGMT_STATUS.link_up 0) = true ∧
      (relay.relayTable.find? fun e => e.1 == [1]) = some ([1], 3) ∧ relay.channelHeld 3 = false) ∧
    (relay.wrBit (CMD_MGMT_STATUS.held 0) 3 true).channelHeld 3 = true ∧
    (relay.wrBit (CMD_MGMT_STATUS.held 0) 3 true).rdBit (CMD_MGMT_STATUS.held 0) 3 = true ∧
    (let p (n : Nat) : Bytes := leB 8 0 ++ leB 2 (n * 2 ^ 12) ++ leB 26 0
     (p 3).length = 36 + leAt (p 3) 10 2 ∧ bits (leAt (p 3) 8 2) 12 3 = 3 ∧ bits (leAt (p 2) 8 2) 12 3 ≠ 3) := by decide +kernel

/-- A packet of an unassigned opcode reaches the module. -/
theorem test_OpcodeUnassigned_hyps :
    let m (v op : Nat) : Bytes := leB 1 v ++ leB 1 0 ++ leB 2 op ++ leB 4 1 ++ leB 24 0
    let p (v op : Nat) : Bytes := m v op ++ leB 4 (crc32c (m v op)).toNat
    let h := packetHdr (p 1 0x0010)
    up.up = true ∧ up.linkUp = true ∧ up.unrelayed h = false ∧ up.linkHolds = false ∧ (up.arrive h).overrun h = false ∧
    (packetCrcOk (p 1 0x0010) = true ∧ opcodeAssigned (leAt (p 1 0x0010) 2 2) = false) ∧
    (packetCrcOk (p 2 0x0001) = true ∧ leAt (p 2 0x0001) 0 1 ≠ 1) ∧ packetCrcOk (m 1 0x0001) = false := by decide +kernel

theorem test_Idle_hyps :
    let x : Crossing := { id := 2, unit_ := 5, held := [.linkLowPowerEntry] }
    let s : State := { up with cdc := { crossings := [x] } }
    State.reset.nextHeld = none ∧ s.nextHeld = some (x, .linkLowPowerEntry) ∧ ∃ t, exec .linkLowPowerEntry (s.release x) = .next t :=
  ⟨by decide +kernel, by decide +kernel, _, rfl⟩

theorem test_PortLinkStates_hyps :
    let low := { up with fab := { up.fab with lowPower := [2] } }
    up.up = true ∧ (up.wr (PRT_STATUS.link_state 2) 1).rd (PRT_STATUS.link_state 2) = 1 ∧ (22 : Nat) ≤ 22 ∧ (22 : Nat) < 23 ∧ (16 : Nat) < 17 ∧
    ((up.wr (PRT_STATUS.link_state 2) 2).rd (PRT_STATUS.link_state 2) = 2 ∧ up.fab.lowPower.contains 2 = false) ∧
    low.fab.lowPower.contains 2 = true ∧ (up.wr (PRT_STATUS.link_state 2) 3).portUp 2 = true := by decide +kernel

theorem test_PortNeighbours_hyps :
    let p := up.wr (PRT_STATUS.link_state 2) 3
    let e (n : Nat) := { p with fab := { p.fab with echoes := [(2, 0, n)] } }
    let probe : Probe := ⟨2, 5, 0, false⟩
    let q := { p with fab := { p.fab with probes := [probe] } }
    let time := ({ up with time := { up.time with linkA := true } } : State).wr TIM_CTRL.transport 1
    (p.ndUp 2 = true ∧ time.ndUp 64 = true ∧ (up.wr (CMD_MGMT_STATUS.link_up 1) 1).ndUp 67 = true) ∧
    (p.ndTentative 2 (linkLocal (p.ndMac 2)) = false ∧ q.ndTentative 2 5 = true ∧ probe ∈ q.fab.probes ∧ q.hall < probe.since + 1000000000) ∧
    (p.passes 2 0 = true ∧ p.hears 2 = true ∧ ({ p with fab := { p.fab with probes := [⟨2, linkLocal (p.ndMac 2), 0, false⟩] } } : State).hears 2 = false) ∧
    p.portUp 2 = true ∧ p.on (PRT_CFG.lldp_en 2) = true ∧ (p.wr (PRT_STATUS.lldp_valid 2) 1).on (PRT_STATUS.lldp_valid 2) = true ∧
    (e 99).fab.echoes.find? (fun e => e.1 == 2) = some (2, (e 99).hall / 1000000000, 99) ∧
    (e 100).fab.echoes.find? (fun e => e.1 == 2) = some (2, (e 100).hall / 1000000000, 100) := by decide +kernel

/-- A DATA packet of one byte for stream 0, and the stream that receives it. -/
def pkt : MladubPkt := ⟨1, false, false, false, false, false, 0, 9, 0, 0, 0, 0, [1], 0, true, false, false, true, 0, none⟩
def rx : Stream := { strm with direction := 1 }

theorem test_DataPackets_hyps : (strms rx).up = true ∧ (strms rx).rd (PRT_STATUS.link_state 0) = 3 ∧ (strms rx).passes 2 0 = true ∧ (strms rx).stream 0 = some rx ∧ rx.direction = 1 ∧
    (strms rx).hears 0 = true ∧ (let q := strms rx; ({ q with fab := { q.fab with probes := [⟨0, linkLocal (q.ndMac 0), 0, false⟩] } } : State).hears 0 = false) ∧
    rx.port = 0 ∧ rx.peerHandle = pkt.srcStream ∧ pkt.isProtected = false ∧ pkt.ptype = 0x01 ∧ knownType 0x7F = false := by decide +kernel

theorem test_StreamTakesPackets_hyps :
    badAuth { rx with prot := true } pkt = true ∧ (rx.rejects < 15 ∧ 15 ≤ ({ rx with prot := true, rejects := 15 } : Stream).rejects) ∧
    (rx.prot = false ∧ pkt.ce = false) ∧ psnBefore pkt.psn 5 = true ∧
    (psnBefore pkt.psn rx.expected = false ∧ (rx.held.any fun q => q.1 == pkt.psn) = false ∧
      (strms rx).bufferUsed 0 + pkt.payload.length ≤ 16 * 2 ^ 20 ∧ rx.held = [] ∧ pkt.psn = rx.expected ∧ rx.kind = 0 ∧ rx.sinceAck = 0) := by
  decide +kernel

/-- A reorder buffer that is full. -/
theorem test_FullBuffer_hyps : ∃ x : Stream, 16 * 2 ^ 20 < (strms x).bufferUsed 0 + pkt.payload.length := by
  have h : ∀ l : Bytes, (strms { rx with ready := l }).bufferUsed 0 = l.length := by
    intro l; simp [State.bufferUsed, strms, rx, strm]
  have g : ∀ n, ∃ l : Bytes, l.length = n := fun n => ⟨List.replicate n 0, List.length_replicate⟩
  obtain ⟨l, e⟩ := g (16 * 2 ^ 20)
  exact ⟨{ rx with ready := l }, by rw [h, e]; decide⟩

/-- A packet sent `n` times more, a stream that waits for it, and an acknowledgement of it. -/
def sent (n : Nat) : TxPkt := { psn := 0, message := 0, offset := 0, payload := [1], eom := true, sentAt := 0, resends := n, fast := false }
def ack0 (peer : Option Nat) : AckBody := { stream := 0, ackPsn := 1, ceCount := 0, ranges := [], rttNs := 1000, peer := peer }

theorem test_StreamEvents_hyps :
    let x := { strm with unacked := [sent 0] }
    let r := { rx with sinceAck := 1 }
    (strms x).up = true ∧ (strms x).stream 0 = some x ∧
    ((ack0 none).peer = none ∧ (ack0 none).stream = 0 ∧ x.direction = 0 ∧ (strms x).rd (PRT_STATUS.link_state x.port) = 3 ∧
      (strms x).passes 2 (x.port / 4) = true ∧ (strms x).hears x.port = true) ∧
    ((strms r).stream 0 = some r ∧ r.direction = 1 ∧ r.sinceAck ≠ 0 ∧ (strms r).portUp r.port = true) ∧
    ((x.unacked.find? fun q => q.psn == 0) = some (sent 0) ∧ (sent 0).unpaid = false ∧ (strms x).portUp x.port = true ∧
      8 ≤ (sent 8).resends ∧ (sent 0).resends < 8) ∧
    ((strms x).streamWaits x = true ∧ (strms strm).stream 0 = some strm ∧ (strms strm).streamWaits strm = false) ∧
    (({ strm with ece := true } : Stream).ece = true ∧ strm.ece = false ∧ 5 ≤ strm.periods) := by decide +kernel

/-- A part of a delivery sent over a hop and not acknowledged. -/
theorem test_HopEvents_hyps :
    let part : DeliverPart := ⟨5, 1, 0, [0, 1], 32, 0, 100, [1]⟩
    let s (n : Nat) : State := (strms strm).setHop { peer := 5, unacked := [(⟨0, part, 0, n, false⟩ : HopPkt)] }
    (ack0 (some 5)).peer = some 5 ∧ (((s 0).hop 5).unacked.find? fun e => e.psn == 0) = some ⟨0, part, 0, 0, false⟩ ∧ (s 0).rd (PRT_STATUS.link_state ((s 0).ctrlPort 5)) = 3 ∧
    (s 0).passes 2 ((s 0).ctrlPort 5 / 4) = true ∧ (s 0).hears ((s 0).ctrlPort 5) = true ∧
    (s 0).portUp ((s 0).ctrlPort 5) = true ∧ (0 : Nat) < 8 ∧ ((s 8).hop 5).unacked = [⟨0, part, 0, 8, false⟩] := by decide +kernel

theorem test_TimeEvents_hyps :
    let a := { up with time := { up.time with linkA := true } }
    let msg (q : Nat) : PtpMsg := ⟨.timePort q, 40, 0, 7, a.rd TIM_CTRL.ptp_domain, 0, ptpMacDest, none, none⟩
    let src : TimeSource := ⟨.timePort 0, [], 1, 0, 7, 0, 1000000000⟩
    let used := ({ a with time := { a.time with sources := [src] } } : State).wr TIM_STATUS.source (sourceCode (.timePort 0))
    ((a.wr TIM_CTRL.transport 0).takesPtp (msg 0) = true ∧ (a.wr TIM_CTRL.transport 0).takesPtp { msg 0 with interval := -7 } = true ∧
      a.passes 7 0 = true ∧ a.rd TIM_STATUS.state = 3 ∧ a.time.sources.find? (fun x => x.src == .timePort 0) = none) ∧
    used.inUse = some src ∧ (up.wr TIM_STATUS.state 2).rd TIM_STATUS.state = 2 ∧ (up.wr TIM_CTRL.assist_en 1).on TIM_CTRL.assist_en = true := by
  decide +kernel

theorem test_CrossingEvents_hyps :
    let hot := up.wr (THM_REGION.gate_state 0 0) 1
    let asleep := { up with pins := { up.pins with uciIdle := true } }
    let x (c : Nat) : Crossing := { id := c, unit_ := 0, wake := some 9 }
    let at_ (l : Crossing) : State := { up with cdc := { crossings := [l] } }
    let wants := { up with cmd := { up.cmd with runtime := [⟨0, 0, 0x0901, hd 8, .measurementRead (hd 8)⟩] } }
    (up.cmd.runtime.any (fun r => fwCrossing r.op == some 10) = false ∧ wants.cmd.runtime = [⟨0, 0, 0x0901, hd 8, .measurementRead (hd 8)⟩] ∧
      fwCrossing 0x0901 = some 10) ∧
    up.powered = true ∧ (privileged 1 = false ∧ up.intoGated 1 0 = false) ∧
    (privileged 3 = true ∧ (up.crossing 3 0).wake = none ∧ up.clockStopped 3 = false ∧ up.intoGated 3 0 = false) ∧
    (up.gated 0 0 = false ∧ up.gated (tileField 0) (tileRow 0) = false ∧ hot.gated (0 / 84) (0 % 84 / 14) = true ∧
      hot.gated (tileField 0) (tileRow 0) = true) ∧
    ((asleep.crossing 3 0).wake = none ∧ asleep.clockStopped 3 = true) ∧
    (privileged 11 = true ∧ (up.wr SEC_STATUS.debug_level 1).rd SEC_STATUS.debug_level ≠ 0) ∧
    ((asleep.crossing 3 0).stopped = false ∧ asleep.intoGated 3 0 = false ∧
      ({ asleep with cdc := { crossings := [x 3] } } : State).clockStopped 3 = true) ∧
    ((at_ (x 3)).crossing 3 0).wake = some 9 ∧ ((at_ { x 2 with stopped := true }).crossing 2 0).stopped = true := by
  decide +kernel

/-! ### Partitions, contexts and tiles -/

theorem test_PartitionEvents_hyps :
    let sl := one.setReg (PAR_PART_SLICE 0 0) (2 ^ 15 + 10)
    let x := ((one.wr (PAR_CTX_CFG.exclusive 0) 1).wr (PAR_CTX_CFG.state 0) 3).modPart 0 fun q => { q with incoming := some 0 }
    let r := (part.wr (PAR_PART_CFG.state 0) 3).modPart 0 fun q => { q with target := some (12, 6) }
    let late := one.wr (PAR_CTX_CFG.latency_target 0) 1
    (sl.rd (PAR_PART_CFG.state 0) = 2 ∧ sl.rd (PAR_PART_STATUS.ticks_left 0) ≤ 1 ∧ (sl.part 0).preempt = none ∧ sl.noSlices 0 = false) ∧
    ((x.part 0).incoming = some 0 ∧ x.movesWait 0 = false ∧ x.on (PAR_CTX_CFG.exclusive 0) = true ∧ x.cst 0 = stEvicted ∧
      ((x.partCtxs 0).filter fun d => d != 0 && x.inTiles d && !x.on (PAR_CTX_CFG.exclusive d)) = []) ∧
    ((x.wr (THM_REGION.gate_state 0 0) 1).part 0).incoming = some 0 ∧ (x.wr (THM_REGION.gate_state 0 0) 1).movesWait 0 = true ∧
    ((r.part 0).target = some (12, 6) ∧ r.rd (PAR_PART_CFG.state 0) = 3 ∧ (r.part 0).copied = false ∧ r.partCtxs 0 = []) ∧
    (late.rd (PAR_CTX_CFG.latency_target 0) = 1 ∧ late.cst 0 ≠ 0 ∧ ((late.setCtx 0 { slip := 2 }).ctx 0).slip = 2 ∧
      ((late.setCtx 0 { slip := 2 }).ctx 0).breached = false) := by decide +kernel

/-- Moves that a gated tile holds up, and one that none does, of a partition without contexts. -/
theorem test_WaitingMoves_hyps :
    let x := ((one.wr (PAR_CTX_CFG.exclusive 0) 1).wr (PAR_CTX_CFG.state 0) 3).modPart 0 fun q => { q with incoming := some 0 }
    let r := (part.wr (PAR_PART_CFG.state 0) 3).modPart 0 fun q => { q with target := some (12, 6) }
    let cold (s : State) := s.wr (THM_REGION.gate_state (tileField (tileAt 12 6)) (tileRow (tileAt 12 6))) 1
    ((((x.wr (THM_REGION.gate_state 0 0) 1).partCtxs 0).filter fun d => d != 0 && x.inTiles d &&
      x.on (PAR_CTX_CFG.exclusive d) != x.on (PAR_CTX_CFG.exclusive 0)).any x.draining = false) ∧
    (∀ t ∈ (r.partTiles 0).map (r.relocated 0 12 6), r.gated (tileField t) (tileRow t) = false) ∧
    (∃ t ∈ ((cold r).partTiles 0).map ((cold r).relocated 0 12 6), (cold r).gated (tileField t) (tileRow t) = true) ∧
    (one.wr (PAR_CTX_CFG.state 0) stTeardown).cst 0 = stTeardown := by decide +kernel

theorem test_FabricDrain_hyps :
    let s := (one.wr (PAR_CTX_CFG.state 0) 3).setEng 0 0 { flight := [⟨6 * 2 ^ 124, false, false, none⟩] }
    ((s.partTiles 0).flatMap fun t => (s.engOf 0 t).flight.filter AccessFlight.outside) ≠ [] ∧ s.cst 0 ≠ stRunning := by decide +kernel

theorem test_Boundary_hyps : up.up = true ∧ (let s := State.reset.wr CAL_BRINGUP.stage 4; 4 ≤ s.rd CAL_BRINGUP.stage ∧ s.up = false) ∧
    (up.wr (CAL_BIST_CTRL.running 4) 1).on (CAL_BIST_CTRL.running 4) = true := by decide +kernel

/-- Context 0 in a step of a program of 2 by 2 positions, whose slice of tile 0 is not empty. -/
def step0 : StepRun := ⟨0, 0, 0, 0, false, 0, false, false, 0, 0, none, [], 1⟩
def prog0 : Program := ⟨2, 2, 1200, 1000, 1, [1000], [1], [], [(0, ⟨4, 1, 4, 65536, [0], [0]⟩)]⟩
def run1 : State :=
  (((one.wr (PAR_CTX_CFG.state 0) 2).wr (PAR_PART_STATUS.running_valid 0) 1).setCtx 0 { step := some step0, program := some prog0 })

/-- The tile's unit state, and its next compute or access word. -/
def run1.Eng (e : Eng) : State := run1.setEng 0 0 e
def run1.Word (w : Nat) : State := run1.wrBytes (tileAddr (run1.phys 0) cimemOff) (leB 64 w)
def run1.Access (w : Nat) : State := run1.wrBytes (tileAddr (run1.phys 0) aimemOff) (leB 16 w)

theorem test_TickSlip_hyps : let s := (run1.setCtx 0 { step := some step0 }).modPart 0 fun q => { q with slips := 2000 }
    s.running 0 = some 0 ∧ (s.ctx 0).step.isSome = true ∧ s.rd TIM_BOUNDARY.skip_limit < (s.part 0).slips := by decide +kernel

theorem test_ComputeWord_hyps :
    let wait := run1.Word (3 * 2 ^ 461 + 1 * 2 ^ 424)
    let rdv := run1.Word (2 ^ 461)
    let mul := run1.Word (2 ^ 422)
    (run1.up = true ∧ run1.ctxOn 0 = some 0 ∧ run1.issuing 0 0 = true ∧ (run1.engOf 0 0).ended = false ∧
      run1.rd (INS_STATUS.stream 0) ≠ 4 ∧ run1.rd (INS_STATUS.stream 0) ≠ 5) ∧
    (let w := wait.computeWord 0 0 (wait.rd (INS_STATUS.pc 0)); bits w 461 3 = 3 ∧ wait.rd (insSem 0 (bits w 428 5)) < bits w 424 4) ∧
    bits (rdv.computeWord 0 0 (rdv.rd (INS_STATUS.pc 0))) 461 3 = 1 ∧
    (let w := mul.computeWord 0 0 (mul.rd (INS_STATUS.pc 0)); bits w 461 3 = 0 ∧ (mul.engOf 0 0).busyFor w = false ∧
      ({ (mul.engOf 0 0) with fa := some { word := 0, desc := 0, drain := 0, started := false } } : Eng).busyFor w = true ∧ (mul.lastBeat 0 w).cst 0 = stRunning) ∧
    (run1.setEng 0 0 { released := true }).engOf 0 0 = { released := true } := by decide +kernel

theorem test_StreamSync_hyps :
    let r := (run1.Word (2 ^ 461 + 5 * 2 ^ 441)).wr (INS_STATUS.stream 0) 5
    let a := r.modCtx 0 fun k => { k with arrivals := [(0, 0, 0, 0)] }
    let late (e : Eng) := (run1.Eng e).wr TIM_TICK_NOW.tick 1000000
    (r.issuing 0 0 = true ∧ r.rd (INS_STATUS.stream 0) = 5 ∧ (r.engOf 0 0).rdvWait = none ∧
      r.rd (INS_SLIP.slip 0) ≤ bits (r.computeWord 0 0 (r.rd (INS_STATUS.pc 0))) 441 20 ∧
      bits ((r.wr (INS_SLIP.slip 0) 6).computeWord 0 0 (r.rd (INS_STATUS.pc 0))) 441 20 < (r.wr (INS_SLIP.slip 0) 6).rd (INS_SLIP.slip 0)) ∧
    (a.cst 0 = stRunning ∧ (a.ctx 0).program = some prog0 ∧ prog0.rendezvous.getD 0 0 = 1 ∧
      (a.ctx 0).arrivals = [(0, 0, a.rd (INS_SLIP.slip 0), a.rd (INS_SCHED.step_cycle 0))] ∧ Memory.wf a.mem = true ∧
      RegFile.wf a.regs = true) ∧
    0 + (late { rdvWait := some 0 }).rd INS_CFG.rdv_timeout < (late { rdvWait := some 0 }).tick ∧
    (let l := (run1.Word (3 * 2 ^ 461 + 1 * 2 ^ 424)).wr TIM_TICK_NOW.tick 1000000
     0 + l.rd INS_CFG.sem_timeout < l.tick ∧ l.semShort 0 0 false = true) ∧
    ((run1.Access (2 ^ 118)).semShort 0 0 true = true) ∧
    ((late { accWait := some 0 }).engOf 0 0).accWait = some 0 ∧
    (let e := (run1.Eng { ended := true }).wr (INS_STATUS.ra_ended 0) 1
     e.issuing 0 0 = true ∧ (e.engOf 0 0).ended = true ∧ (e.engOf 0 0).idle = true ∧ e.on (INS_STATUS.ra_ended 0) = true) := by decide +kernel

theorem test_AccessWords_hyps :
    let s := run1.Access (8 * 2 ^ 124)
    let w := s.accessWord 0 0 (s.rd (INS_STATUS.access_pc 0))
    let f : AccessFlight := ⟨2 ^ 124 + 2 ^ 81, false, false, none⟩
    ((s.ctx 0).step.isSome = true ∧ s.hasWork 0 0 = true ∧ s.gated (tileField 0) (tileRow 0) = false ∧ s.rd (INS_STATUS.stream 0) ≠ 7 ∧
      s.on (INS_STATUS.ra_ended 0) = false ∧ (s.engOf 0 0).reissue = [] ∧ awWaits w = false ∧ awOp w = 8 ∧
      awAt w ≤ s.rd (INS_SCHED.sched_cycle 0) + 1000 ∧ s.accessFault 0 w = 0 ∧ Memory.wf s.mem = true ∧ RegFile.wf s.regs = true) ∧
    ((run1.Eng { flight := [f] }).engOf 0 0).flight = [f] ∧ (run1.Eng { flight := [f] }).accessReady 0 f = true ∧
    awOp f.word = 1 ∧ awOp (2 * 2 ^ 124) = 2 ∧ (run1.crossing 0 (run1.phys 0)).stopped = false ∧
    ((run1.setCrossing { id := 0, unit_ := run1.phys 0, stopped := true }).crossing 0 (run1.phys 0)).stopped = true := by decide +kernel

/-- An operation that a word has given a unit. -/
def opOf (word desc : Nat) (started : Bool := true) : TileOp := { word := word, desc := desc, drain := 0, started := started }

/-- An array operation of one block and one beat, of a kind, with its feeders. -/
def aryEng (kind : Nat) (started : Bool) : Eng :=
  let feed : Nat := 4 * 2 ^ 181 + 2 ^ 169
  { ary := some (opOf (kind * 2 ^ 390) (2 ^ 227 + 2 ^ 211) started), fa := some (opOf (2 ^ 422) feed), fb := some (opOf (2 ^ 406) feed) }

theorem test_ArrayOperations_hyps :
    let e (k : Nat) (b : Bool) := run1.Eng (aryEng k b)
    let netA (l : List Bytes) (b : Bool) : Eng := { aryEng 1 b with fa := some (opOf (2 * 2 ^ 422) (4 * 2 ^ 181 + 2 ^ 169)), netA := l }
    let tail : Tail := ⟨false, false, none⟩
    (((e 1 false).engOf 0 0).product? 1).any (fun p => !p.op.started && p.ready ((e 1 false).operands 0 0 p) &&
      (e 1 false).productFault 0 0 p == 0) = true ∧
    (run1.cst 0 = stRunning ∧ run1.rd (INS_STATUS.stream 0) ≠ 7) ∧
    (((run1.Eng (netA [] false)).engOf 0 0).product? 1).any (fun p => !p.op.started &&
      !p.ready ((run1.Eng (netA [] false)).operands 0 0 p)) = true ∧
    ((e 1 true).engOf 0 0).running?.any (fun p => !p.ew && decide (p.total ≤ ((e 1 true).operands 0 0 p).both)) = true ∧
    ((run1.Eng (netA [] true)).engOf 0 0).running?.any (fun p => !p.ew &&
      decide (((run1.Eng (netA [] true)).operands 0 0 p).both < p.total)) = true ∧
    ((e 2 true).engOf 0 0).running?.any (fun p => p.ew) = true ∧
    ((e 1 true).engOf 0 0).tails = [] ∧
    ((((run1.Eng { tails := [tail] }).tileSends 0 0).engOf 0 0).tails = [tail] ∧
      (((run1.Eng { tails := [tail] }).tileSends 0 0).engOf 0 0).oldestOut = true) ∧
    ((((run1.Eng { tails := [tail], outDrain := [[]] }).tileSends 0 0).engOf 0 0).tails = [tail] ∧
      (((run1.Eng { tails := [tail], outDrain := [[]] }).tileSends 0 0).engOf 0 0).oldestOut = false) := by decide +kernel

theorem test_ElementWise_hyps :
    let s := run1.Eng (aryEng 2 false)
    ((s.engOf 0 0).product? 2).any (fun (p : Product) => !p.op.started && s.sramFaults 0 p.ewSpan == 0) = true ∧ (s.engOf 0 0).outDrain = [] ∧
    (s.engOf 0 0).tails = [] ∧ ((run1.Eng { aryEng 2 false with outDrain := [[]] }).engOf 0 0).outDrain ≠ [] := by decide +kernel

theorem test_EngineOperations_hyps :
    let o (d : Nat) : TileOp := opOf 0 d
    let row (d : Nat) := run1.Eng { row := some (o d) }
    let good := 2 ^ 96 + 8 * 2 ^ 112
    let v (op d : Nat) : TileOp := opOf (op * 2 ^ 280) d
    let vec (op d : Nat) := run1.Eng { vec0 := some (v op d) }
    (((row good).engOf 0 0).row = some (o good) ∧ (row good).sramFaults 0 (rowSpan (o good)) = 0) ∧
    (row good).sramFaults 0 (rowSpan (o (good + (2 ^ 20 - 1) * 2 ^ 229))) ≠ 0 ∧
    ((vec 9 (2 ^ 165)).vecOp 0 0 (fun op => op != 0 && decide (op < 0x30)) = some (0, v 9 (2 ^ 165)) ∧ vop (v 9 (2 ^ 165)).word 0 = 9 ∧
      (vec 9 (2 ^ 165)).sramFaults 0 [linesOf 0 (vecBytes 0 1), linesOf 0 0, linesOf 0 (vecBytes 0 1)] = 0) := by decide +kernel

theorem test_ReductionOperations_hyps :
    let v (op d : Nat) : TileOp := opOf (op * 2 ^ 280) d
    let vec (op d : Nat) := run1.Eng { vec0 := some (v op d) }
    let d32 := 16 * 2 ^ 165 + 8 * 2 ^ 189
    let s := vec 0x32 d32
    (s.vecOp 0 0 (· == 0x32) = some (0, v 0x32 d32) ∧
      s.sramFaults 0 ([linesOf 0 (blockBytes 0 16), linesOf 256 32] ++ s.sideSpan 0 0 (v 0x32 d32)) = 0 ∧
      (s.packed 0 0 (v 0x32 d32) 0 0 16).2 ≠ 0 ∧
      (originRecord 0 (s.packed 0 0 (v 0x32 d32) 0 0 16).2 (s.packed 0 0 (v 0x32 d32) 0 0 16).1).nonfinite = false ∧
      ((vec 0x32 0).packed 0 0 (v 0x32 0) 0 0 0).2 = 0) ∧
    ((vec 0x31 (16 * 2 ^ 165)).vecOp 0 0 (· == 0x31) = some (0, v 0x31 (16 * 2 ^ 165)) ∧
      (vec 0x31 (16 * 2 ^ 165)).sramFaults 0 [linesOf 0 (blockBytes 7 16 + 32), linesOf 0 0] = 0 ∧
      (((vec 0x31 (16 * 2 ^ 165)).engOf 0 0).acc 0).inputs = 0) ∧
    (let p := vec 0x38 0
     p.vecOp 0 0 (· == 0x38) = some (0, v 0x38 0) ∧ p.pruneFault 0 0 (v 0x38 0) (p.pruneOp 0 0 0 (v 0x38 0)) = 0) := by decide +kernel

theorem test_WideningAdd_hyps :
    let fi := 7
    let v : TileOp := opOf (0x30 * 2 ^ 280 + 7 * 2 ^ 276) (16 * 2 ^ 165)
    let s := (run1.Eng { vec0 := some v }).wrSram 0 0 (blockBytes fi 16) (originRecord fi 16 (run1.rdSram 0 0 0 (blockBytes fi 16))).bytes
    (v.vfield 0 276 4 = fi ∧ bits v.desc 165 24 = 16 ∧ bits v.desc 229 20 = 0) ∧ s.vecOp 0 0 (· == 0x30) = some (0, v) ∧
    s.sramFaults 0 [linesOf 0 (blockBytes fi 16 + 32)] = 0 ∧ ((s.engOf 0 0).acc (v.vfield 0 244 16 % 2)).inputs = 0 ∧
    ((s.engOf 0 0).acc (v.vfield 0 244 16 % 2)).sectors = 0 ∧ bits (v.vfield 0 244 16) 1 1 = 0 ∧
    (SumRecord.of (s.rdSram 0 0 (blockBytes fi 16) 32)).covers fi 16 (s.rdSram 0 0 0 (blockBytes fi 16)) = true := by decide +kernel

theorem test_Mule_hyps :
    let d := 2 ^ 41 + 2 ^ 34 + 2 ^ 8
    let pass (begun : Bool) (panel : Nat) : MulePass := ⟨0, 0, panel, begun, 1⟩
    let m (p : MulePass) : Eng := { mule := { active := some p, desc := [(0, d)] } }
    let w := 2 * 2 ^ 333 + 2 ^ 329
    let load := run1.Eng { mule := { loads := [(w, 0)] } }
    (((run1.Eng (m (pass false 0))).engOf 0 0).mule.active = some (pass false 0) ∧ (m (pass false 0)).mule.waitsForSet (pass false 0) = false ∧
      run1.mulePassFault 0 0 (m (pass false 0)).mule (pass false 0) = 0 ∧ run1.cst 0 = stRunning) ∧
    ({ (m (pass false 0)).mule with loads := [(3 * 2 ^ 333, 0)] } : Mule).waitsForSet (pass false 0) = true ∧
    ((pass true 0).panel < mdPanels d ∧ (m (pass true 0)).outMule = [] ∧ extOn ((m (pass true 0)).mule.extOf 0) = false ∧
      ({ m (pass true 0) with outMule := [(0, [])] } : Eng).outMule ≠ [] ∧
      mdPanels d ≤ (pass true 1).panel ∧ (m (pass true 1)).mule.maxRank (pass true 1) = 0) ∧
    ((load.engOf 0 0).mule.loads.find? fun l => !(load.engOf 0 0).mule.loadBlocked l) = some (w, 0) ∧ bits w 333 3 = 2 ∧
    load.sramFault 0 (linesOf (32 * bits w 304 20) 32).1 (linesOf (32 * bits w 304 20) 32).2 = 0 := by
  decide +kernel

theorem test_NetworkEvents_hyps :
    let line : Bytes := List.replicate 4 1
    let s := run1.setMeshIn 0 1 [line]
    let out := s.setReg (NET_RT_STATUS 0) (2 * 2 ^ 26)
    let lane := { run1 with net := { run1.net with express := [(0, [(0, line)])] } }
    let f : AccessFlight := ⟨2 ^ 124, false, false, none⟩
    s.meshIn 0 1 = [line] ∧ s.outputsOf 0 2 = [] ∧ (out.meshIn 0 1 = [line] ∧ out.outputsOf 0 2 ≠ [] ∧ ((out.outputsOf 0 2).all fun o => out.hasRoom 0 0 o) = true ∧
      out.neighbour? 0 1 = some 1) ∧
    (lane.net.express.find? fun e => e.1 % 4 == 0 && (lane.neighbour? (e.1 / 4) 0).isNone && e.2.any fun x => x.1 == 0) =
      some (0, [(0, line)]) ∧
    (run1.wr (THM_REGION.gate_state 0 0) 1).gated (tileField 0) (tileRow 0) = true ∧
    (let full := out.setMeshIn 1 (opposite 0) (List.replicate 8 line)
     let full := full.setMeshIn 1 (opposite 1) (List.replicate 8 line)
     ((full.outputsOf 0 2).all fun o => full.hasRoom 0 0 o) = false ∧ full.meshIn 0 1 = [line]) ∧
    (run1.crossing 0 (run1.phys 0)).stopped = false ∧
    (run1.gated (tileField 0) (tileRow 0) = false ∧ run1.unserved 0 = false ∧ Sparse.get 0 run1.net.resends 0 < 3) ∧
    (3 : Nat) ≤ Sparse.get 0 [(0, 3)] 0 ∧
    (run1.Eng { flight := [f] }).oldestIssuer 0 = some 0 := by decide +kernel

theorem test_StackEvents_hyps :
    let bad := { part with poisoned := [poisonKey 0 5] }
    part.up = true ∧ part.stackIn 0 = true ∧ (5 : Nat) < 500000000 ∧ part.poisoned.contains (poisonKey 0 5) = false ∧
    bad.poisoned.contains (poisonKey 0 5) = true ∧ (part.wr (STK_SCRUB.scrub_en 0) 1).on (STK_SCRUB.scrub_en 0) = true ∧
    (let u := up.wr STK_PRESENT.present 1
     u.stackIn 0 = true ∧ ((List.range 32).filter fun p => ((u.wrBit STK_PRESENT.failed 0 true).wr (STK_STATUS.lost 0) 1).built p &&
        bits (((u.wrBit STK_PRESENT.failed 0 true).wr (STK_STATUS.lost 0) 1).rd (STK_PART_MAP.stack_mask p)) 0 1 == 1) = [] ∧
     u.gated (100 / 84) (100 % 84 / 14) = false ∧
     (({ u with hall := u.hall + u.rd FLT_CFG.wd_us * 1000 } : State).logical 100).bind
       ({ u with hall := u.hall + u.rd FLT_CFG.wd_us * 1000 } : State).ctxOn = none) := by decide +kernel

/-! ### Serving, weights, training and jobs -/

theorem test_SequenceAdmit_hyps :
    let s := (((((ringed.wr (SEQ_CFG.serving 0) 1).wr (SEQ_CFG.quota 0) 10).wr (SEQ_KV_LANE.kv_lane 0) 100).wr (SEQ_KV_POS.kv_pos 0) 10).wr
      (SEQ_KV_LANE.kv_regions 0) 4)
    let r : AdmitReq := ⟨0, 0, false, 0, 0, 0, 10, 5, 0, 0, 0, false, false⟩
    s.admits (hd 56) 0x0501 true .context (checkSequenceAdmit 0 r) ∧ checkSequenceAdmit 0 r s = 0 := by decide +kernel

/-- A storage read whose range holds no shard, with these Reads not answered. -/
def job0 (l : List NvmeRead) : StorageJob := { id := 0, hdr := hd 24, req := read0, reads := l, stray := true }
def reading (l : List NvmeRead) : State := bld.setController { id := 1, conn := some conn0, jobs := [job0 l] }
def nvme (n : Nat) (again : Bool) : NvmeRead := ⟨n, n, 1, 0, again, some 0, none, true⟩

theorem test_StorageEvents_hyps :
    let far := (reading [nvme 0 false]).setController { (reading [nvme 0 false]).controller 1 with conn := none }
    (((reading [nvme 0 false]).passes 2 (conn0.port / 4) = true) ∧
      ((reading [nvme 0 false]).setCrossing { id := 2, unit_ := 0, stopped := true }).passes 2 (conn0.port / 4) = false) ∧
    (far.jobOf 1 0 = some (job0 [nvme 0 false]) ∧ (far.controller 1).conn = none) ∧
    (reading [nvme 0 false]).jobOf 1 0 = some (job0 [nvme 0 false]) ∧ ((reading [nvme 0 false]).controller 1).conn = some conn0 ∧
    (job0 [nvme 0 false]).reads.find? (fun q => q.id == 0 && q.queue.isSome && q.sent) = some (nvme 0 false) ∧
    (job0 [nvme 0 true]).reads.find? (fun q => q.id == 0 && (q.queue.isSome || (far.controller 1).conn.isNone)) = some (nvme 0 true) ∧ ((reading []).controller 1).conn.isSome = true := by
  decide +kernel

/-- What a Read answered leaves to read of a range that holds no shard, whatever a block's size. -/
theorem test_StorageReadData_hyps (l : List NvmeRead) (b : Bytes) (size port n : Nat) :
    (State.feedShards port size (n + 1) bld (gather 2 size { job0 [] with reads := l, data := [(0, b)] })).2.reads = l := by
  simp [gather, job0, State.feedShards]

/-- A stream of pushed shards, its build, and a shard of four G16 elements for the stacks. -/
def pushes : State :=
  let s := (strms { rx with kind := 1 }).setBuild { ctx := 0, target := 0, tag := 6, wanted := 1, stream := 0 }
  (s.wr (wgtState 0 0) 1).wr (WGT_STACK_LEN.len 0) 10
def build0 : Build := { ctx := 0, target := 0, tag := 6, wanted := 1, stream := 0 }
def shardD : Bytes :=
  leB 4 0x4B575344 ++ leB 2 1 ++ leB 2 0 ++ leB 8 0 ++ leB 8 6 ++ leB 4 8 ++ leB 4 4 ++ leB 4 0 ++ leB 8 0 ++ leB 4 1 ++ leB 48 0 ++
    leB 32 0xfc3de8e08d32b2e54d1df9ba421ef50d0f660ac74baf8cf77a0b81a1f57055af

/-- The stream with a message come whole. -/
def pushed (m : Bytes) : State := pushes.setStream { rx with kind := 1, msgs := [m] }

theorem test_ShardArrival_hyps :
    let m := shardD ++ List.replicate 8 0
    let d := m.take 128
    let v := (pushed m).setStream { rx with kind := 1, msgs := [] }
    let b := ShardTarget.load build0 false
    ((pushed m).stream 0 = some { rx with kind := 1, msgs := [m] } ∧ (pushed m).streamTarget 0 0 = some b) ∧
    v.descriptorOk b [] = false ∧
    (v.descriptorOk b d = true ∧ v.targetVersion b = some (sdVersion d) ∧
      v.targetVersion (.load { build0 with tag := 5 } false) ≠ some (sdVersion d) ∧
      (v.targetLanded b).find? (fun x => x.tensor == sdTensor d && x.index == sdIndex d) = none ∧
      v.taking build0 = true ∧ (m.drop 128).length = sdLen d ∧ sha256 (m.drop 128) = sdDigest d ∧ sdFlags d % 2 = 0) := by decide +kernel

theorem test_WeightEvents_hyps :
    let waits := bld.setBuild { ctx := 0, target := 0, tag := 0, wanted := 1, stream := 0xFFFF, waiting := some (0x0403, hd 8) }
    let ready := (one.wr (wgtState 0 0) 2).setBuild {
      ctx := 0, target := 0, tag := 0, wanted := 1, stream := 0xFFFF,
      landed := [{ tensor := 0, index := 3, digest := [], resident := [], runs := [] }] }
    (waits.build 0 0).any (fun b => b.waiting == some (0x0403, hd 8)) = true ∧
    (ready.nextScrub = some (0, 0, 0, 3) ∧ (ready.wr WGT_CFG.scrub_en 1).on WGT_CFG.scrub_en = true ∧ ready.wgt.scrubDue ≤ ready.tick) := by
  decide +kernel

theorem test_ServingEvents_hyps :
    let late := (one.setSeq 3 { state := 1, deadlineTick := 4 }).wr TIM_TICK_NOW.tick 5
    let ended := run1.wr (INS_STATUS.stream 0) 6
    let ring : Ring := { ctx := 0, source := 0, ring := 0, k := 4, base := 0, size := 32, write := 1, times := [(0, 0)] }
    ((late.seq 3).state ≠ 0 ∧ (late.seq 3).deadlineTick < late.tick ∧ (late.seq 3).late = false) ∧
    ((ended.ctx 0).step = some step0 ∧ ended.cst 0 = stRunning ∧ ended.running (ended.cpart 0) = some 0 ∧ ended.allEnded 0 = true) ∧
    ((one.setRing ring).ring 0 0 0 = some ring ∧ (one.wr (CMD_RESULT_CFG.retention_ms 0) 100).rd (CMD_RESULT_CFG.retention_ms 0) ≠ 0) := by
  decide +kernel

/- The look-ahead of a boundary nests folds over 294 regions; with idle gating off it gates none of them. -/
set_option maxRecDepth 4000 in
theorem test_DrovePreparation_hyps :
    let s := ((one.wr (SEQ_CFG.serving 0) 1).setReg (PAR_PART_SLICE 0 0) (2 ^ 15 + 10)).wr PWR_CFG.idle_gate 0
    (s.on (SEQ_CFG.serving 0) = true ∧ (s.ctx 0).step = none ∧ s.cst 0 ≠ stFree ∧ s.cst 0 ≠ stTeardown) ∧
    (let u := { s with hall := max s.hall (s.tickStart s.time.nextTick - s.rd TIM_BOUNDARY.guard_us * 1000) }
     let t := u.enterTick.expireDue
     (t.actions ((List.range 32).filter t.holds)).running (u.cpart 0) = some 0) := by decide +kernel

set_option maxRecDepth 4000 in
theorem test_NoDrovePreparation_hyps :
    let s := (((one.wr (SEQ_CFG.serving 0) 1).setReg (PAR_PART_SLICE 0 0) (2 ^ 15 + 10)).wr PWR_CFG.idle_gate 0).wr (PAR_CTX_CFG.state 0) stReload
    (s.on (SEQ_CFG.serving 0) = true ∧ (s.ctx 0).step = none ∧ s.cst 0 ≠ stFree ∧ s.cst 0 ≠ stTeardown) ∧
    (let u := { s with hall := max s.hall (s.tickStart s.time.nextTick - s.rd TIM_BOUNDARY.guard_us * 1000) }
     let t := u.enterTick.expireDue
     (t.actions ((List.range 32).filter t.holds)).running (u.cpart 0) ≠ some 0) := by decide +kernel

/-- A training attempt of step 3 at a member with node `n`. -/
def train0 : Train := ⟨hd 128, { req0 with step := 3 }, 0, 0, 0, false, false, [], none, none, [], [], []⟩
def training (n : Bytes) (x : Train) : State := let s := strms strm; s.setCtx 0 { node := some n, train := some x }
def root1 : Bytes := node1.take 36 ++ leB 1 0 ++ leB 1 0 ++ leB 2 0 ++ leB 2 0xFFFF ++ node1.drop 42
def verdict0 : RedMsg := ⟨List.replicate 32 7, 3, 0, 1, 2, 1, 1⟩

theorem test_Training_hyps :
    let s := training node1 train0
    let lastly : State := { s with fab := { s.fab with streams := [{ strm with handle := 2, arrived := 1 }] } }
    (s.ctxOfRoster verdict0.rosterDigest = some 0 ∧ train0.req.step = verdict0.step ∧ train0.attempt = verdict0.attempt ∧
      nodeIsRoot root1 = true ∧ nodeIsRoot node1 = false ∧ missingChildren root1 train0 = [] ∧
      missingChildren (root1.take 37 ++ leB 1 2 ++ root1.drop 38) train0 = [0, 1] ∧ s.peerOf (nodeParent node1) = some 5) ∧
    ((s.ctx 0).train = some train0 ∧ (s.ctx 0).node = some node1) ∧
    (s.lastStamp 0 0 ≤ s.hopDeadline 0 node1 ∧ s.hopDeadline 0 node1 < lastly.lastStamp 0 0 ∧
      lastly.hopDeadline 0 node1 = s.hopDeadline 0 node1) ∧ ((4 : Nat) ≠ train0.req.step ∧ train0.voided = false) ∧
    ((s.setCtx 0 { node := some node1 }).ctxOfRoster verdict0.rosterDigest = some 0 ∧ ((s.setCtx 0 { node := some node1 }).ctx 0).train = none) ∧
    (let v : Verdict := ⟨3, 0, 1, 0, 0⟩
     ((s.setCtx 0 { node := some root1, verdicts := [v] }).ctx 0).verdicts.find? (fun v => v.step == 3 && v.attempt == 0) = some v) ∧
    (let s := one.With { copies := [3] }
     (s.ctx 0).copies = [3] ∧ s.partPoisoned (s.cpart 0) 0 0 = false) ∧
    (let s : State := { (one.With { copies := [3] }).wr (FLT_CTX_ILOG_CFG.entry_units 0) 8 with poisoned := [poisonKey 0 0] }
     (s.ctx 0).copies = [3] ∧ s.partPoisoned (s.cpart 0) (256 * (s.ctx 0).ilogInput) (inputBytes (s.rd (FLT_CTX_ILOG_CFG.entry_units 0))) =
       true) := by decide +kernel

/-- A member of a roster of two, the first at its parent's address; a control message to it, new and repeated; and its step voided, with a later
attempt's void come after. -/
theorem test_ControlMessages_hyps :
    let s := training node1 train0
    let addr5 : Bytes := List.replicate 15 0 ++ [5] ++ List.replicate 16 0
    let m : JobMember := ⟨0, 5, 0, 10, 60, none, 0, [], 64, addr5 ++ List.replicate 32 1, 0, none, false, false⟩
    let r : State := { s with fab := { s.fab with members := [m] } }
    let seen : State := { s with fab := { s.fab with ctrlSeen := [(5, 1)] } }
    let v := training node1 { train0 with voided := true }
    (r.memberAddr 0 (nodeParent node1) = some 5 ∧ nodeIsRoot node1 = false ∧ r.ctxOfRoster verdict0.rosterDigest = some 0) ∧
    (s.up = true ∧ s.rd (PRT_STATUS.link_state (s.ctrlPort 5)) = 3 ∧ s.passes 2 (s.ctrlPort 5 / 4) = true ∧ s.hears (s.ctrlPort 5) = true ∧
      s.fab.ctrlSeen.contains (5, 1) = false ∧ seen.fab.ctrlSeen.contains (5, 1) = true ∧ seen.hears (seen.ctrlPort 5) = true) ∧
    (v.ctxOfRoster verdict0.rosterDigest = some 0 ∧ (v.ctx 0).train = some { train0 with voided := true } ∧ train0.req.step = verdict0.step ∧
      train0.attempt < ({ verdict0 with attempt := 2, verdict := 2 } : RedMsg).attempt ∧
      ({ verdict0 with attempt := 2, verdict := 2 } : RedMsg).verdict ≠ 1) := by decide +kernel

theorem test_Mirror_hyps :
    let x := { rx with kind := 2 }
    let out := (strms { strm with kind := 2 }).setCtx 0 { mirror := some 0 }
    let s := (strms x).setCtx 0 { mirrorRing := some (0, 2, 2), mirrorFrom := some 0, node := some node1, mirrorOut := some ⟨3, [1], false, 0⟩ }
    (s.stream 0 = some x ∧ s.up = true ∧ s.rd (PRT_STATUS.link_state x.port) = 3 ∧ s.passes 2 (x.port / 4) = true ∧ s.hears x.port = true ∧
      x.kind = 2 ∧ x.direction = 1 ∧ (s.ctx x.ctx).mirrorFrom = some 0 ∧ (s.ctx x.ctx).mirrorRing = some (0, 2, 2)) ∧
    (s.ctxOfRoster (List.replicate 32 7) = some 0 ∧ (s.ctx 0).mirrorOut = some ⟨3, [1], false, 0⟩ ∧ ([1] : Bytes) ≠ [2]) ∧
    (s.fab.ctrlSeen.contains (5, 1) = false ∧ ({ s with fab := { s.fab with ctrlSeen := [(5, 1)] } } : State).fab.ctrlSeen.contains (5, 1) = true) ∧
    (s.mirrorStream 0 = none ∧ out.mirrorStream 0 = some { strm with kind := 2 }) := by decide +kernel

/-- A member of bellwether 5's broadcast, and the bellwether's own state of one to four members. -/
def member0 : JobMember := { ctx := 0, bellwether := 5, areaBase := 0, areaUnits := 10, timeoutS := 60 }
def held0 : JobMember := { member0 with broadcast := some 1, rosterLen := 32, data := [1, 2], ackedAt := some 0 }
def lead0 : JobLead := { hdr := hd 32, broadcast := 1, state := 1, orders := [[0, 1, 2, 3]], members := 4, roster := [], blobAddr := 0, blobLen := 1, digest := [1], rosterDigest := [] }

theorem test_JobEvents_hyps :
    let f (x : FabS) : State := { up with fab := x }
    let m (n : Nat) : CtrlOut := { id := 7, peer := 5, ctype := 0x12, body := [], sentAt := 0, repeats := n }
    let part : DeliverPart := ⟨5, 1, 0, [0, 1], 32, 0, 100, [1]⟩
    let deep := { lead0 with orders := List.replicate 8 [0, 1, 2, 3], due := [(3, 5)] }
    ((up.hop 5).held = [] ∧ (up.hop 5).expected < 2 ^ 32 ∧ psnBefore (2 ^ 32 - 1) (up.hop 5).expected = true) ∧
    ((f { ctrlSeen := [(5, 7)] }).fab.ctrlSeen.contains (5, 7) = true ∧ up.fab.ctrlSeen.contains (5, 7) = false) ∧
    ((f { ctrlOut := [m 3] }).fab.ctrlOut.find? (fun m => m.id == 7) = some (m 3) ∧ (m 3).repeats < 8 ∧ 8 ≤ (m 8).repeats ∧
      (m 8).ctype = 0x12 ∧ ({ m 8 with ctype := 0x20 } : CtrlOut).ctype ≠ 0x12) ∧
    ((f { members := [member0] }).fab.members.find? (fun m => m.bellwether == part.sender) = some member0 ∧ member0.committed = false ∧
      member0.broadcast = none ∧ part.offset = 0 ∧ part.data.length < part.total) ∧
    ((f { leads := [lead0] }).fab.leads.find? (fun x => x.broadcast == lead0.broadcast) = some lead0 ∧ lead0.state = 1 ∧
      lead0.acked.contains 1 = false ∧ lead0.mismatch.contains 1 = false ∧ ({ lead0 with mismatch := [1] } : JobLead).mismatch.contains 1 = true) ∧
    (earliest (lead0.due ++ [(1, 5)]) = some 5 ∧ (([(1, 5)] : List (Nat × Nat)).filter fun e => decide (e.2 ≤ 5)).map (·.1) ≠ []) ∧
    (deep.due = [(3, 5)] ∧ deep.suspects = [] ∧ membersBelow deep.orders 3 = [] ∧ deep.orders.length = 8) ∧
    (lead0.committed.length + 2 < lead0.members ∧ lead0.members ≤ ({ lead0 with committed := [1, 2] } : JobLead).committed.length + 2) ∧
    ((f { members := [held0] }).fab.members.find? (fun m => m.bellwether == 5 && m.broadcast == some 1) = some held0 ∧
      held0.ackedAt = some 0 ∧ held0.discarded = false ∧ up.hall ≤ held0.deadline 0 ∧
      (f { members := [held0] }).fab.members.find? (fun m => m.ctx == 0) = some held0 ∧ held0.committed = false) := by decide +kernel

/-! ### Power, bring-up, records and teardown -/

/-- Standby power is on, each entry supply reads 48 V, and each plate's flow reaches its minimum. -/
def standby : State :=
  let s : State := { State.reset with pins := { State.reset.pins with standby := true, applied := true } }
  let s := (List.range 4).foldl (fun s i => s.setSensor .entryVoltage i { samples := [some 48000] }) s
  let s := [0, 2].foldl (fun s i => s.setSensor .coolantTemp i { samples := [some 20000] }) s
  [0, 1].foldl (fun s i => s.setSensor .coolantDp i { samples := [some 100000] }) s

theorem test_StandbyEvents_hyps :
    let t (s : State) : State := { s with pwr := { s.pwr with
      volts := (s.inputMv :: s.pwr.volts).take 10, micros := (s.inputUw :: s.pwr.micros).take 10, filterAt := 0 } }
    let dark : State := { State.reset with pins := { State.reset.pins with standby := true } }
    let amps := dark.setSensor .entryCurrent 0 { samples := [some 100] }
    (dark.pins.standby = true ∧ dark.sensor .entryVoltage 0 = {}) ∧ (standby.up = false ∧ standby.pwr.excursion = false) ∧
    (40000 ≤ (t standby).filteredMv ∧ (t standby).filteredMv ≤ 60000) ∧ (t dark).filteredMv < 40000 ∧
    (amps.sensed .entryCurrent 0 = some 100 ∧
      35 * ((List.range 4).foldl (fun n i => n + ((amps.sensed .entryCurrent i).getD 0)) (0 : Int)) < 100 * 100 ∧
      amps.pwr.imbalanced.contains 0 = false ∧
      ({ amps with pwr := { amps.pwr with imbalanced := [0] } } : State).pwr.imbalanced.contains 0 = true) := by decide +kernel

theorem test_Trips_hyps :
    let lit : State := { up with pins := { up.pins with standby := true } }
    let hot := lit.setSensor .junction 4115 { samples := [some 110000] }
    let dry := [0, 1].foldl (fun s i => s.setSensor .coolantDp i { samples := [some 0] }) lit
    hot.pins.standby = true ∧ (hot.tripValue 1 4115 = some 110000 ∧ hot.moduleTripHolds 1 4115 110000 = true) ∧
    dry.railsOn = true ∧ (dry.tripValue 6 0).any (fun v => dry.moduleTripHolds 6 0 v) = true := by decide +kernel

/-- A voltage below every undervoltage threshold, and a current above every overcurrent one, whatever the module's own are. -/
theorem test_SupplyTrips_hyps :
    let low := (List.range 4).foldl (fun (s : State) i => s.setSensor .entryVoltage i { samples := [some 37000] }) up
    let amps := up.setSensor .entryCurrent 3 { samples := [some 440001] }
    low.tripHolds 1 0 = true ∧ amps.tripHolds 3 3 = true := by
  intro low amps
  have a : low.voltKnown = true ∧ low.inputMv = 37000 := by decide +kernel
  have b : amps.entryMa 3 = 440001 := by decide +kernel
  refine ⟨?_, ?_⟩
  · simp [State.tripHolds, a.1, a.2, underMv]; omega
  · simp [State.tripHolds, b, tripMa]; omega

theorem test_PowerEvents_hyps :
    let hot : State := { up.wr PWR_STATUS.limiter_level 1 with pwr := { up.pwr with micros := [10 ^ 12] } }
    let cool := up.wr PWR_STATUS.limiter_level 1
    let cold := (up.wr (THM_REGION.gate_state 0 0) 1)
    let reads : State := { cold with pwr := { cold.pwr with readings := [(0, 0)] } }
    let q : QuoteReq := ⟨hd 56, []⟩
    let open_ : State := { up with sec := { up.sec with waiting := [q], sessions := [⟨2, 0, 0, 0, [], none, false⟩] } }
    ((hot.rd PWR_CFG.cap_w : Rat) < hot.filteredW ∧ 1 ≤ hot.rd PWR_STATUS.limiter_level ∧ hot.rd PWR_STATUS.limiter_level < 7) ∧
    (cool.filteredW < ((97 * cool.rd PWR_CFG.cap_w : Nat) : Rat) / 100 ∧ 0 < cool.rd PWR_STATUS.limiter_level) ∧
    (reads.toUngate.contains 0 = true ∧ reads.pwr.ungating.contains 0 = false) ∧
    (open_.sec.waiting = [q] ∧ open_.session 2 = some ⟨2, 0, 0, 0, [], none, false⟩) ∧
    (5 ≤ up.rd CAL_BRINGUP.stage ∧ (up.wr CAL_BRINGUP.stage 5).rd CAL_BRINGUP.stage = 5 ∧ up.rdBit FLT_STATE.fields_lost 0 = false) := by
  decide +kernel

/-- A quote signed in time and one past its deadline. -/
theorem test_QuoteDeadline_hyps : (hd 56).deadlineEn = false ∧ ({ hd 56 with deadlineEn := true, deadline := 4 } : Hdr).deadlineEn = true ∧
    ({ hd 56 with deadlineEn := true, deadline := 4 } : Hdr).deadline < ({ up with hall := 5 } : State).hall := by decide +kernel

theorem test_Droop_hyps :
    run1.gated (tileField 0) (tileRow 0) = false ∧ run1.on (TIL_COUNTER_CTRL.freeze 0) = false ∧
    (run1.inc (PWR_DROOP.droop_cycles 0) 3).ctxOn 0 = some 0 ∧
    (((run1.inc (PWR_DROOP.droop_cycles 0) 3).ctx 0).step.isSome && (run1.inc (PWR_DROOP.droop_cycles 0) 3).hasWork 0 0) = true := by
  decide +kernel

theorem test_RegionEmergency_hyps :
    let s := up.setSensor .junction ((regionTiles 0).headD 0) { samples := [some 104000] }
    s.powered = true ∧ s.regionValue 0 = some 104000 ∧ s.gateState 0 = 0 ∧ (s.wr (THM_REGION.gate_state 0 0) 1).gateState 0 = 1 := by decide +kernel

theorem test_PowerUp_hyps :
    let r : StageResult := ⟨[], [], [], [], none, 1, false, false⟩
    let at_ (k : Nat) : State := standby.wr CAL_BRINGUP.stage k
    (State.reset.pins.standby = false ∧ standby.pins.standby = true ∧ (standby.pins.replies.any fun r => r.1 == ifaceCode .uart) = false ∧
      standby.pins.resetLow = false ∧ standby.rd CAL_BRINGUP.stage = 0) ∧
    ((at_ 1).rd CAL_BRINGUP.stage = 1 ∧ (at_ 1).preconditions = true ∧ (State.reset.wr CAL_BRINGUP.stage 1).preconditions = false) ∧
    (up.rd CAL_BRINGUP.stage ≠ 0 ∧ (at_ 4).rd CAL_BRINGUP.stage = 4 ∧ (at_ 4).railsAllowed = true) ∧
    ((at_ 2).rd CAL_BRINGUP.stage = 2 ∧ (at_ 2).rd SEC_STATUS.boot_state ≠ 3 ∧ (at_ 2).railsAllowed = true ∧ r.p7 = false) ∧
    ((at_ 3).rd CAL_BRINGUP.stage = 3 ∧ (at_ 3).railsAllowed = true ∧ (State.reset.wr CAL_BRINGUP.stage 3).railsAllowed = false) ∧
    (at_ 6).rd CAL_BRINGUP.stage = 6 ∧ ((at_ 7).pins.p7 = false ∧ ({ r with p7 := true } : StageResult).p7 = true) ∧
    ({ standby with pins := { standby.pins with p7 := true } } : State).pins.p7 = true ∧
    (((at_ 7).wr CMD_STATUS.runtime_up 1).on CMD_STATUS.runtime_up = true ∧
      ((at_ 7).wr CMD_STATUS.runtime_up 1).on FLT_STATE.module_faulted = false) ∧
    ((at_ 3).pins.p7 = false ∧ (3 : Nat) ≤ (at_ 3).rd CAL_BRINGUP.stage ∧ (at_ 3).rd CAL_BRINGUP.stage ≤ 7) ∧
    ({ standby with pins := { standby.pins with resetLow := true } } : State).pins.resetLow = true := by decide +kernel

theorem test_ServiceConnector_hyps :
    let s := standby.wr SEC_STATUS.boot_state 1
    let h : Hdr := ⟨0, 7, 0, 0, 0, false, 0, true, true⟩
    (s.on CMD_STATUS.runtime_up = false ∧ s.rd SEC_STATUS.boot_state = 1 ∧ (s.pins.replies.any fun r => r.1 == ifaceCode .uart) = false ∧
      (s.cmd.runtime.any fun r => r.op == 0x0906) = false ∧
      ((behind s 0x0906 32).cmd.runtime.any fun r => r.op == 0x0906) = true ∧
      (s.takePart h 0x0906 0 8 (List.replicate 8 1)).1 ≠ .refused ∧ (s.takePart h 0x0906 8 16 (List.replicate 8 1)).1 = .refused) ∧
    (tapSelect 0 .bypass = .bypass ∧ s.passes 11 0 = true ∧ tapSelect 2 (.other 2) = .other 2 ∧
      ({ s with cdc := { crossings := [{ id := 11, unit_ := 0, stopped := true }] } } : State).passes 11 0 = false) := by decide +kernel

/-- A service frame of an op that the UART has not, and a debug instruction while the debug logic sleeps. -/
theorem test_ServiceFrame_hyps :
    let b : Bytes := [6, 9, 0, 0]
    let f := 0xA5 :: b ++ leB 4 (crc32c b).toNat
    let s := standby.wr SEC_STATUS.debug_level 1
    (frameOk .uart f = true ∧ leAt f 1 1 = 6 ∧ frameOpAssigned .uart (leAt f 1 1) = false) ∧
    (tapSelect 1 (.other 1) = .other 1 ∧ s.clockStopped 11 = true ∧ s.cdc.through = false ∧ (s.crossing 11 0).stopped = false) := by
  decide +kernel

/-- The command that a packet's bytes carry. -/
theorem test_packetCommand :
    let head : Bytes := leB 1 1 ++ leB 1 0 ++ leB 2 0x0209 ++ leB 4 7 ++ leB 2 (3 * 2 ^ 12 + 2 * 2 ^ 7 + 1) ++ leB 2 8 ++ leB 4 0 ++ leB 8 0 ++ leB 8 0
    let p := head ++ leB 4 (crc32c head).toNat
    let body : Bytes := leB 8 5
    let q := head ++ body ++ leB 4 (crc32c (head ++ body)).toNat
    packetCommand q = .slowdownRead ⟨3, 7, 2, 1, 8, false, 0, false, true⟩ 5 ∧
    packetCommand (q.set 0 2) = .opcodeUnassigned (q.set 0 2) none ∧ p.length = 36 := by decide +kernel

/-- Every assigned opcode of Table 16-3, and no other, has its command. -/
theorem test_commandOf_assigned : ((List.range 13).all fun g => (List.range 16).all fun n =>
    opcodeAssigned (256 * g + n) == (commandOf (256 * g + n) (hd 0) []).isSome) = true := by decide +kernel

theorem test_Identity_hyps : up.admits (hd 0) 0x0208 true .none noCheck ∧ up.admits (hd 0) 0x0001 true .none noCheck := by decide +kernel

theorem test_FaultRecords_hyps : detailStated 0x2F01 = true ∧ up.takesEvent 0 3 (some 2) = true ∧ up.takesEvent 1 3 (some 0) = true ∧
    reservedPlaces (up.chan 0).queue < 64 ∧ ordinaryPlaces (up.chan 1).queue < 960 := by decide +kernel

/-- A log of one record, at index 0, then of its successor only. -/
theorem test_FaultLogRead_hyps :
    let log (n : Nat) : State := ({ up with faultLog := [List.replicate 32 0] } : State).wr FLT_LOG_INDEX.next_index n
    up.admits (hd 16) 0x0803 true .none noCheck ∧
    ((log 1).rd FLT_LOG_INDEX.next_index = 1 ∧ (log 1).faultLog.length = 1 ∧ (log 2).rd FLT_LOG_INDEX.next_index = 2) ∧
    ((log 2).admits (hd 16) 0x0803 true .none noCheck ∧ ((log 2).accepted (hd 16) 0x0803).rd FLT_LOG_INDEX.next_index = 2) := by decide +kernel

theorem test_Teardown_hyps : one.Canon ∧ (one.cst 0 ≠ stFree ∧ one.cst 0 ≠ stTeardown) ∧ (one.wr (PAR_CTX_CFG.state 0) stTeardown).cst 0 = stTeardown :=
  ⟨⟨by decide +kernel, by decide +kernel⟩, by decide +kernel, by decide +kernel⟩

theorem test_ContextCreate_hyps : part.Canon ∧
    part.runs (hd 80) (fwContextCreate (hd 80) 0 2 0 40960 0 7 0 100000 5 1) (.contextCreate (hd 80) 0 2 0 40960 0 7 0 100000 5 1) :=
  ⟨⟨by decide +kernel, by decide +kernel⟩, by decide +kernel⟩

end Sys2Proof.Tests
end

section
/-! SUPPORT. The statements of the scope (spec/00_scope.md): canonical states, the state after reset, and the access rules of register fields. -/

namespace Sys2Proof.Machine

/-! ### The canonical form along every step -/

/-- What every operation keeps, a step on an empty queue keeps: hall time passes, or a crossing delivers the command held in it. -/
theorem State.unattended_kept {P : State → Prop} (hP : Kept True P) {s t : State} (h : P s) (e : s.unattended = .next t) : P t := by
  unfold State.unattended at e
  cases held : s.nextHeld with
  | none =>
    simp only [held, Host.Outcome.next.injEq] at e
    exact e ▸ State.rest_kept hP s h
  | some xi =>
    obtain ⟨x, i⟩ := xi
    cases run : exec i (s.release x) with
    | next u =>
      simp only [held, run, Host.Outcome.next.injEq] at e
      have hu : P u := exec_kept hP i (State.release_kept hP s x h) run
      exact e ▸ State.delivered_kept hP u hu
    | fault r => simp [held, run] at e
    | refused r => simp [held, run] at e

/-- What every operation keeps, and taking the front command off the queue keeps too, every step keeps. -/
theorem step_kept {P : State → Prop} (hP : Kept True P) (hq : ∀ (s : State) (q : List Instr), P s → P { s with pending := q })
    {s t : State} (h : P s) (e : step s = .next t) : P t := by
  unfold step at e
  cases queue : s.pending with
  | nil =>
    simp only [queue] at e
    exact State.unattended_kept hP h e
  | cons i rest =>
    simp only [queue] at e
    exact exec_kept hP i (hq s rest h) e

/-- The canonical form does not look at the queue of commands. -/
theorem State.Canon.withQueue {s : State} (h : s.Canon) (q : List Instr) : State.Canon { s with pending := q } := h

/-! ### The state after reset -/

/-- Nothing is listed after reset, so every register reads the value of its Reset column. -/
@[simp] theorem State.reset_reg (a : Nat) : State.reset.reg a = regReset a % 2 ^ 64 := BitVec.toNat_ofNat _ _

/-- No byte is listed after reset, so every byte reads 0 (log 3). -/
@[simp] theorem State.reset_rdB (a : Nat) : State.reset.rdB a = 0 := rfl

/-- The empty tables of the state after reset are canonical. -/
theorem State.reset_canon : State.reset.Canon := ⟨rfl, rfl⟩

/-! ### What a write leaves in a register (Table 0-5) -/

/-- What a field of an access code holds after a write of `v` over it: `old` is what it held before the write, `cur` what it holds now. -/
def fieldAfter : Acc → Nat → Nat → Nat → Nat
  | .rw, _, _, v => v
  | .w1c, _, old, v => old - (old &&& v)
  | .ro, cur, _, _ | .wo, cur, _, _ => cur

/-- The part of a write of `v` over `old` that one field takes, in a register of which the fields before it are written. -/
def writeField (old v x : Nat) (f : FieldSpec) : Nat :=
  match f.acc with
  | .rw => setBits x f.lo f.width (bits v f.lo f.width)
  | .w1c => setBits x f.lo f.width (bits old f.lo f.width - (bits old f.lo f.width &&& bits v f.lo f.width))
  | .ro | .wo => x

/-- A write goes field by field. -/
theorem written_eq_foldl (fields : List FieldSpec) (old v : Nat) : written fields old v = fields.foldl (writeField old v) old := by
  unfold written
  congr 1
  funext x f
  obtain ⟨lo, width, acc, reset, range⟩ := f
  cases acc <;> rfl

/-- A field's part of a write replaces that field or changes nothing. -/
theorem writeField_eq (old v x : Nat) (f : FieldSpec) :
    writeField old v x f = x ∨ ∃ n, writeField old v x f = setBits x f.lo f.width n := by
  unfold writeField
  split
  · exact .inr ⟨_, rfl⟩
  · exact .inr ⟨_, rfl⟩
  · exact .inl rfl
  · exact .inl rfl

/-- A field's part of a write stays within 64 bits. -/
theorem writeField_lt {x : Nat} (old v : Nat) {f : FieldSpec} (hx : x < 2 ^ 64) (hf : f.lo + f.width ≤ 64) : writeField old v x f < 2 ^ 64 := by
  obtain e | ⟨n, e⟩ := writeField_eq old v x f
  · rwa [e]
  · rw [e]; exact setBits_lt n hx hf

/-- A field's part of a write leaves the bits on either side of the field as they were. -/
theorem bits_writeField_of_disjoint (old v x : Nat) {f : FieldSpec} {lo w : Nat} (h : lo + w ≤ f.lo ∨ f.lo + f.width ≤ lo) :
    bits (writeField old v x f) lo w = bits x lo w := by
  obtain e | ⟨n, e⟩ := writeField_eq old v x f
  · rw [e]
  · rw [e]; exact h.elim (bits_setBits_below n) (bits_setBits_above n)

/-- A field's part of a write leaves in it what its access code says. -/
theorem bits_writeField (old v x : Nat) (f : FieldSpec) : bits (writeField old v x f) f.lo f.width =
    fieldAfter f.acc (bits x f.lo f.width) (bits old f.lo f.width) (bits v f.lo f.width) := by
  obtain ⟨lo, width, acc, reset, range⟩ := f
  have hv : bits v lo width < 2 ^ width := bits_lt v lo width
  have hold : bits old lo width < 2 ^ width := bits_lt old lo width
  cases acc with
  | rw => exact (bits_setBits x lo width _).trans (Nat.mod_eq_of_lt hv)
  | w1c => exact (bits_setBits x lo width _).trans (Nat.mod_eq_of_lt (Nat.lt_of_le_of_lt (Nat.sub_le _ _) hold))
  | ro => rfl
  | wo => rfl

/-- Bits outside every field written stand. -/
theorem bits_foldl_writeField_of_disjoint (old v : Nat) {fields : List FieldSpec} {lo w : Nat}
    (h : ∀ f ∈ fields, lo + w ≤ f.lo ∨ f.lo + f.width ≤ lo) (x : Nat) :
    bits (fields.foldl (writeField old v) x) lo w = bits x lo w := by
  induction fields generalizing x with
  | nil => rfl
  | cons f fs ih =>
    obtain ⟨hf, hfs⟩ := List.forall_mem_cons.1 h
    rw [List.foldl_cons, ih hfs, bits_writeField_of_disjoint old v x hf]

/-- Two fields of a register do not overlap. -/
def FieldSpec.Disjoint (f g : FieldSpec) : Prop := f.lo + f.width ≤ g.lo ∨ g.lo + g.width ≤ f.lo

/-- Each field of a register, the others beside it, is left as its access code says. -/
theorem bits_foldl_writeField (old v : Nat) {fields : List FieldSpec} (apart : fields.Pairwise FieldSpec.Disjoint) {g : FieldSpec}
    (hg : g ∈ fields) (x : Nat) : bits (fields.foldl (writeField old v) x) g.lo g.width =
      fieldAfter g.acc (bits x g.lo g.width) (bits old g.lo g.width) (bits v g.lo g.width) := by
  induction fields generalizing x with
  | nil => cases hg
  | cons f fs ih =>
    obtain ⟨first, rest⟩ := List.pairwise_cons.1 apart
    rw [List.foldl_cons]
    cases hg with
    | head => rw [bits_foldl_writeField_of_disjoint old v first, bits_writeField]
    | tail _ hg => rw [ih rest hg, bits_writeField_of_disjoint old v x (first g hg).symm]

/-- A write of fields within 64 bits leaves a value of 64 bits (R7). -/
theorem foldl_writeField_lt (old v : Nat) {fields : List FieldSpec} (fit : ∀ f ∈ fields, f.lo + f.width ≤ 64) {x : Nat} (hx : x < 2 ^ 64) :
    fields.foldl (writeField old v) x < 2 ^ 64 := by
  induction fields generalizing x with
  | nil => exact hx
  | cons f fs ih =>
    obtain ⟨hf, hfs⟩ := List.forall_mem_cons.1 fit
    exact ih hfs (writeField_lt old v hx hf)

end Sys2Proof.Machine

namespace Sys2Proof.Proofs.Scope

open Sys2Proof.Machine

/-- Settles O4: every operation keeps the canonical form (`canon_kept`), and so does every step. -/
theorem everyStepKeepsCanon : Obligations.EveryStepKeepsCanon := by
  intro s t canon e
  exact step_kept canon_kept (fun _ q h => h.withQueue q) canon e

/-- Settles O20: a write goes field by field, each field's part stays within the field, and disjoint fields do not meet. -/
theorem writeRules : Obligations.WriteRules := by
  intro fields old v hold fit apart
  rw [written_eq_foldl]
  refine ⟨fun f hf => ?_, fun b outside => ?_, foldl_writeField_lt old v fit hold⟩
  · rw [bits_foldl_writeField old v apart hf]
    obtain ⟨lo, width, acc, reset, range⟩ := f
    cases acc <;> rfl
  · exact bits_foldl_writeField_of_disjoint old v outside old

/-- Settles O7: nothing is listed after reset. -/
theorem resetCanonical : Obligations.ResetCanonical := State.reset_canon

/-- Settles O8: nothing is listed after reset, so a register reads its Reset column and a byte reads 0. -/
theorem resetValues : Obligations.ResetValues := by
  have stage : State.reset.rd CAL_BRINGUP.stage = 0 := by decide +kernel
  exact ⟨State.reset_reg, State.reset_rdB, rfl, stage, rfl⟩

end Sys2Proof.Proofs.Scope
end

section
/-! SUPPORT. The statement of the architecture (spec/01_architecture.md) on memory: what no store reaches stays as it was. -/

namespace Sys2Proof.Machine

/-- A property that every register write keeps is kept by a command that stores nothing, though a store may break it. -/
theorem exec_kept_of_storesNothing {P : State → Prop} (hP : Kept False P) {i : Instr} (storesNothing : reachesMemory i = false) {s t : State}
    (h : P s) (e : exec i s = .next t) : P t := by
  cases i with
  | deviceIdentity => exact execDeviceIdentity_kept hP _ s h t e
  | echo => exact execEcho_kept hP _ _ s h t e
  | bistComplete => exact execBistComplete_kept hP _ _ s h t e
  | partitionBuild => exact execPartitionBuild_kept hP _ _ _ _ _ _ _ _ _ _ s h t e
  | partitionDissolve => exact execPartitionDissolve_kept hP _ s h t e
  | partitionRelocate => exact execPartitionRelocate_kept hP _ _ _ s h t e
  | contextDestroy => exact execContextDestroy_kept hP _ s h t e
  | sliceTableSet => exact execSliceTableSet_kept hP _ _ _ s h t e
  | contextPreEmpt => exact execContextPreEmpt_kept hP _ _ _ s h t e
  | freeAreaQuery => exact execFreeAreaQuery_kept hP _ s h t e
  | slowdownRead => exact execSlowdownRead_kept hP _ _ s h t e
  | programOpen => exact execProgramOpen_kept hP _ _ _ s h t e
  | programData => exact execProgramData_kept hP _ _ _ s h t e
  | programFetch => exact execProgramFetch_kept hP _ _ _ s h t e
  | weightSetOpen => exact execWeightSetOpen_kept hP _ _ s h t e
  | storageRead => exact execStorageRead_kept hP _ _ s h t e
  | storageReadTimeout => exact execStorageReadTimeout_kept hP _ _ s h t e
  | storageConnectionLost => exact execStorageConnectionLost_kept hP _ s h t e
  | weightSetCommit => exact execWeightSetCommit_kept hP _ _ s h t e
  | buildTimeout => exact execBuildTimeout_kept hP _ _ s h t e
  | weightSetSwitch => exact execWeightSetSwitch_kept hP _ _ s h t e
  | weightSetRelease => exact execWeightSetRelease_kept hP _ _ _ s h t e
  | weightSetDigest => exact execWeightSetDigest_kept hP _ _ _ s h t e
  | adapterLoad => exact execAdapterLoad_kept hP _ _ _ _ _ _ _ s h t e
  | adapterDrop => exact execAdapterDrop_kept hP _ _ s h t e
  | storageConnect => exact execStorageConnect_kept hP _ _ s h t e
  | storageDisconnect => exact execStorageDisconnect_kept hP _ _ s h t e
  | sequenceAdmit => exact execSequenceAdmit_kept hP _ _ s h t e
  | sequenceCancel => exact execSequenceCancel_kept hP _ _ s h t e
  | sequenceQuery => exact execSequenceQuery_kept hP _ _ s h t e
  | sequenceDeadlineExpiry => exact execSequenceDeadlineExpiry_kept hP _ s h t e
  | servingConfigure => exact execServingConfigure_kept hP _ _ s h t e
  | ringConfigure => exact execRingConfigure_kept hP _ _ _ _ s h t e
  | trainingStep => exact execTrainingStep_kept hP _ _ s h t e
  | rosterTree => exact execRosterTree_kept hP _ _ s h t e
  | jobStartStatus => exact execJobStartStatus_kept hP _ _ s h t e
  | inputLogRead => exact execInputLogRead_kept hP _ _ _ _ s h t e
  | inputLogConfigure => exact execInputLogConfigure_kept hP _ _ _ _ _ _ _ s h t e
  | jobStartArm => exact execJobStartArm_kept hP _ _ _ _ _ s h t e
  | jobStartBroadcast => exact execJobStartBroadcast_kept hP _ _ _ _ _ s h t e
  | streamOpen => exact execStreamOpen_kept hP _ _ s h t e
  | streamClose => exact execStreamClose_kept hP _ _ s h t e
  | mirrorConfigure => exact execMirrorConfigure_kept hP _ _ s h t e
  | mirrorAccept => exact execMirrorAccept_kept hP _ _ _ _ _ s h t e
  | tickSetDirect => exact execTickSetDirect_kept hP _ _ _ _ s h t e
  | tickSetEffective => exact execTickSetEffective_kept hP _ _ _ s h t e
  | timeStep => exact execTimeStep_kept hP _ _ s h t e
  | timeStatus => exact execTimeStatus_kept hP _ s h t e
  | sensorRead => exact execSensorRead_kept hP _ s h t e
  | faultLogRead => exact execFaultLogRead_kept hP _ _ _ s h t e
  | measurementRead => exact execMeasurementRead_kept hP _ s h t e
  | measurementExtend => exact execMeasurementExtend_kept hP _ _ _ s h t e
  | certificateRead => exact execCertificateRead_kept hP _ _ _ s h t e
  | attestationQuote => exact execAttestationQuote_kept hP _ _ _ _ s h t e
  | quoteSigned => exact execQuoteSigned_kept hP s h t e
  | quoteRead => exact execQuoteRead_kept hP _ _ _ s h t e
  | sessionEstablishKey => exact execSessionEstablishKey_kept hP _ s h t e
  | sessionEstablishCiphertext => exact execSessionEstablishCiphertext_kept hP _ _ _ _ s h t e
  | sessionTimeout => exact execSessionTimeout_kept hP _ s h t e
  | streamKeySet => exact execStreamKeySet_kept hP _ _ _ _ _ s h t e
  | debugUnlockChallenge => exact execDebugUnlockChallenge_kept hP _ _ s h t e
  | debugUnlockResponse => exact execDebugUnlockResponse_kept hP _ _ _ _ s h t e
  | firmwareUpdateInstall => exact execFirmwareUpdateInstall_kept hP _ _ _ _ s h t e
  | firmwareUpdateStage => exact execFirmwareUpdateStage_kept hP _ _ _ _ _ s h t e
  | firmwareUpdateFloor => exact execFirmwareUpdateFloor_kept hP _ _ _ s h t e
  | keyEnrolment => exact execKeyEnrolment_kept hP _ _ _ _ _ s h t e
  | traceEnable => exact execTraceEnable_kept hP _ _ _ s h t e
  | traceDisable => exact execTraceDisable_kept hP _ s h t e
  | powerCapSet => exact execPowerCapSet_kept hP _ _ s h t e
  | thermalStatus => exact execThermalStatus_kept hP _ s h t e
  | calibrationRead => exact execCalibrationRead_kept hP _ _ s h t e
  | calibrationWrite => exact execCalibrationWrite_kept hP _ _ s h t e
  | calibrationCommit => exact execCalibrationCommit_kept hP _ s h t e
  | calibrationRestore => exact execCalibrationRestore_kept hP _ _ _ _ s h t e
  | resultRead => exact execResultRead_kept hP _ _ _ _ _ s h t e
  | resultRelease => exact execResultRelease_kept hP _ _ _ _ s h t e
  | retentionSet => exact execRetentionSet_kept hP _ _ s h t e
  | resultRetentionExpiry => exact execResultRetentionExpiry_kept hP _ _ _ s h t e
  | commandDeadlineExpiry => exact execCommandDeadlineExpiry_kept hP _ _ s h t e
  | returnTimeout => exact execReturnTimeout_kept hP _ s h t e
  | relayConnection => exact execRelayConnection_kept hP _ _ s h t e
  | ungatingStart => exact execUngatingStart_kept hP _ s h t e
  | tickSlipLimit => exact execTickSlipLimit_kept hP _ s h t e
  | latencyBreach => exact execLatencyBreach_kept hP _ s h t e
  | fabricDrainTimeout => exact execFabricDrainTimeout_kept hP _ s h t e
  | wideningAdd => exact execWideningAdd_kept hP _ _ _ s h t e
  | mulePassStart => exact execMulePassStart_kept hP _ _ s h t e
  | mulePassComplete => exact execMulePassComplete_kept hP _ _ s h t e
  | rendezvousTimeout => exact execRendezvousTimeout_kept hP _ s h t e
  | semaphoreWaitTimeout => exact execSemaphoreWaitTimeout_kept hP _ _ s h t e
  | accessWordIssue => exact execAccessWordIssue_kept hP _ _ s h t e
  | downlinkLineReceive => exact execDownlinkLineReceive_kept hP _ _ s h t e
  | downlinkRequestTimeout => exact execDownlinkRequestTimeout_kept hP _ s h t e
  | stackScrubUnit => exact execStackScrubUnit_kept hP _ _ _ s h t e
  | stackLost => exact execStackLost_kept hP _ s h t e
  | weightScrubShard => exact execWeightScrubShard_kept hP _ _ s h t e
  | heartbeatTimeout => exact execHeartbeatTimeout_kept hP _ _ _ s h t e
  | crossingTimeout => exact execCrossingTimeout_kept hP _ _ s h t e
  | crossingWake => exact execCrossingWake_kept hP _ _ s h t e
  | wakeTimeout => exact execWakeTimeout_kept hP _ _ s h t e
  | crossingRestart => exact execCrossingRestart_kept hP _ _ s h t e
  | ptpMessageReceived => exact execPtpMessageReceived_kept hP _ s h t e
  | syncLoss => exact execSyncLoss_kept hP s h t e
  | holdoverExpiry => exact execHoldoverExpiry_kept hP s h t e
  | ppsEdge => exact execPpsEdge_kept hP _ s h t e
  | timePortLinkUp => exact execTimePortLinkUp_kept hP _ _ s h t e
  | cableMeasurement => exact execCableMeasurement_kept hP _ _ _ _ s h t e
  | linkTrained => exact execLinkTrained_kept hP _ s h t e
  | alignmentLoss => exact execAlignmentLoss_kept hP _ s h t e
  | lldpTransmit => exact execLldpTransmit_kept hP _ s h t e
  | lldpduReceived => exact execLldpduReceived_kept hP _ _ _ _ _ s h t e
  | lldpTtlExpiry => exact execLldpTtlExpiry_kept hP _ s h t e
  | neighbourDiscovery => exact execNeighbourDiscovery_kept hP _ _ s h t e
  | dataReceived => exact execDataReceived_kept hP _ _ s h t e
  | ackReceived => exact execAckReceived_kept hP _ s h t e
  | ackDelayExpiry => exact execAckDelayExpiry_kept hP _ s h t e
  | retransmissionTimeout => exact execRetransmissionTimeout_kept hP _ _ _ s h t e
  | streamTimeout => exact execStreamTimeout_kept hP _ s h t e
  | congestionPeriod => exact execCongestionPeriod_kept hP _ s h t e
  | controlMessageReceived => exact execControlMessageReceived_kept hP _ _ _ _ s h t e
  | ctrlAck => exact execCtrlAck_kept hP _ _ s h t e
  | ctrlRetryExpiry => exact execCtrlRetryExpiry_kept hP _ s h t e
  | jobAck => exact execJobAck_kept hP _ _ _ _ _ _ s h t e
  | ackLevelDeadline => exact execAckLevelDeadline_kept hP _ s h t e
  | jobCommit => exact execJobCommit_kept hP _ _ _ _ s h t e
  | jobCommitAck => exact execJobCommitAck_kept hP _ _ _ _ s h t e
  | commitTimeout => exact execCommitTimeout_kept hP _ s h t e
  | mirrorAck => exact execMirrorAck_kept hP _ _ _ _ _ s h t e
  | mirrorBehind => exact execMirrorBehind_kept hP _ s h t e
  | contributionReceived => exact execContributionReceived_kept hP _ _ _ _ s h t e
  | hopDeadlineExpiry => exact execHopDeadlineExpiry_kept hP _ s h t e
  | voidRequest => exact execVoidRequest_kept hP _ _ _ s h t e
  | rootDeadlineExpiry => exact execRootDeadlineExpiry_kept hP _ s h t e
  | verdict => exact execVerdict_kept hP _ _ _ s h t e
  | verdictQuery => exact execVerdictQuery_kept hP _ _ _ s h t e
  | verdictTimeout => exact execVerdictTimeout_kept hP _ s h t e
  | inputFilterUpdate => exact execInputFilterUpdate_kept hP s h t e
  | sensorSample => exact execSensorSample_kept hP _ _ _ s h t e
  | entryImbalance => exact execEntryImbalance_kept hP _ s h t e
  | limiterRise => exact execLimiterRise_kept hP s h t e
  | limiterFall => exact execLimiterFall_kept hP s h t e
  | droopClockStretching => exact execDroopClockStretching_kept hP _ _ s h t e
  | inputApplied => exact execInputApplied_kept hP s h t e
  | prechargeComplete => exact execPrechargeComplete_kept hP _ s h t e
  | standbyPowerArrival => exact execStandbyPowerArrival_kept hP s h t e
  | powerOn => exact execPowerOn_kept hP _ _ s h t e
  | powerUpPreconditions => exact execPowerUpPreconditions_kept hP s h t e
  | powerUpStageComplete => exact execPowerUpStageComplete_kept hP _ s h t e
  | powerGood => exact execPowerGood_kept hP s h t e
  | moduleResetRelease => exact execModuleResetRelease_kept hP s h t e
  | serviceStatus => exact execServiceStatus_kept hP _ _ s h t e
  | serviceFaultLogRead => exact execServiceFaultLogRead_kept hP _ _ _ _ s h t e
  | trustedRelay => exact execTrustedRelay_kept hP _ _ _ _ _ _ _ _ s h t e
  | serviceFrameTimeout iface => exact execServiceFrameTimeout_kept hP iface s h t e
  | jtagInstruction => exact execJtagInstruction_kept hP _ s h t e
  | opcodeUnassigned => exact execOpcodeUnassigned_kept hP _ _ s h t e
  | linkLowPowerEntry => exact execLinkLowPowerEntry_kept hP s h t e
  | linkAcceptsAgain => exact execLinkAcceptsAgain_kept hP _ s h t e
  | runtimeRestart => exact execRuntimeRestart_kept hP _ s h t e
  | relayConnectionEnd => exact execRelayConnectionEnd_kept hP _ _ _ s h t e
  | _ => cases storesNothing

/-- A command that stores nothing leaves the byte memory as it was. -/
theorem exec_mem_of_storesNothing {i : Instr} (storesNothing : reachesMemory i = false) {s t : State} (e : exec i s = .next t) :
    t.mem = s.mem :=
  exec_kept_of_storesNothing (mem_kept s.mem) storesNothing rfl e

end Sys2Proof.Machine

namespace Sys2Proof.Proofs.Architecture

open Sys2Proof.Machine

/-- Settles O6: such a command leaves the memory alone (`exec_mem_of_storesNothing`), and so every byte read from it. -/
theorem commandsThatStoreNothing : Obligations.CommandsThatStoreNothing := by
  intro i s t storesNothing e a
  unfold State.rdB
  rw [exec_mem_of_storesNothing storesNothing e]

end Sys2Proof.Proofs.Architecture
end

section
/-! SUPPORT. The step on an empty queue (spec/02_step_tick.md; log 10): what the packets that leave over the host link touch, and that
neither the fabric ports nor a fault moves the hall counter or the pins. -/

namespace Sys2Proof.Machine

/-! ### The packets of the host link -/

section
variable {s t : State}

/-- Two states are alike beside the host link: in all but the registers, the command interface and the clock crossings. -/
def State.SameBesideLink (s t : State) : Prop := { t with regs := [], cmd := {}, cdc := {} } = { s with regs := [], cmd := {}, cdc := {} }

theorem State.SameBesideLink.hall (h : s.SameBesideLink t) : t.hall = s.hall := have e := congrArg State.hall h; e
theorem State.SameBesideLink.pins (h : s.SameBesideLink t) : t.pins = s.pins := have e := congrArg State.pins h; e
theorem State.SameBesideLink.fab (h : s.SameBesideLink t) : t.fab = s.fab := have e := congrArg State.fab h; e
theorem State.SameBesideLink.faultLog (h : s.SameBesideLink t) : t.faultLog = s.faultLog := have e := congrArg State.faultLog h; e

theorem State.SameBesideLink.eventOn (h : s.SameBesideLink t) (ch code cls part ctx : Nat) (payload : Bytes) :
    s.SameBesideLink (t.eventOn ch code cls part ctx payload) :=
  ite_kept (P := s.SameBesideLink) h h

theorem State.SameBesideLink.tellLost (h : s.SameBesideLink t) (ch : Nat) : s.SameBesideLink (t.tellLost ch) :=
  ite_kept (P := s.SameBesideLink) h (ite_kept (P := s.SameBesideLink) (State.SameBesideLink.eventOn (t := t.setChan ch _) h _ _ _ _ _ _) h)

theorem State.SameBesideLink.drain (h : s.SameBesideLink t) (ch : Nat) : s.SameBesideLink (t.drain ch) :=
  State.SameBesideLink.tellLost (t := State.setChan { t with cmd := _ } ch _) h ch

theorem State.SameBesideLink.raiseWake (h : s.SameBesideLink t) (c u : Nat) : s.SameBesideLink (t.raiseWake c u) :=
  ite_kept (P := s.SameBesideLink) h h

theorem State.SameBesideLink.wakeLink (h : s.SameBesideLink t) : s.SameBesideLink t.wakeLink :=
  ite_kept (P := s.SameBesideLink) ((h.raiseWake 3 0).raiseWake 4 0) h

end

/-- A link that does not sleep has no wake to raise. -/
theorem State.wakeLink_of_awake {s : State} (awake : s.pins.uciIdle = false) : s.wakeLink = s := by
  unfold State.wakeLink
  simp [awake]

/-- The registers that the packets of a channel do not move: all but the two that count its events and its credits. -/
def offChannel (ch a : Nat) : Prop := a ≠ CMD_CHAN_EVENTS ch ∧ a ≠ CMD_CHAN_STATUS ch

/-- A write of a field leaves every other register as it was. -/
theorem State.reg_wr_ne (s : State) {f : RF} {a : Nat} (x : Nat) (h : a ≠ f.addr) : (s.wr f x).reg a = s.reg a :=
  State.reg_setReg_ne s _ h

theorem State.eventOn_reg (s : State) {ch a : Nat} (code cls part ctx : Nat) (payload : Bytes) (h : offChannel ch a) :
    (s.eventOn ch code cls part ctx payload).reg a = s.reg a := by
  obtain ⟨events, credits⟩ := h
  refine ite_kept (P := fun t => t.reg a = s.reg a) ?_ ?_
  · exact (State.reg_wr_ne _ (f := CMD_CHAN_STATUS.outstanding ch) _ credits).trans
      (s.reg_wr_ne (f := CMD_CHAN_EVENTS.events_sent ch) _ events)
  · exact s.reg_wr_ne (f := CMD_CHAN_EVENTS.events_lost ch) _ events

theorem State.tellLost_reg (s : State) {ch a : Nat} (h : offChannel ch a) : (s.tellLost ch).reg a = s.reg a :=
  ite_kept (P := fun t => t.reg a = s.reg a) rfl (ite_kept (P := fun t => t.reg a = s.reg a) (State.eventOn_reg _ _ _ _ _ _ h) rfl)

theorem State.drain_reg (s : State) {ch a : Nat} (h : offChannel ch a) : (s.drain ch).reg a = s.reg a := State.tellLost_reg _ h

/-- A nanosecond of hall time that passes on an empty queue: packets leave over the link, which moves nothing beside it and, while the link is
awake, no register outside the channels; then the hall counter advances and the service replies are gone. -/
theorem State.idle_eq (s : State) : ∃ t, s.idle = { t with hall := t.hall + 1, pins := { t.pins with replies := [], removing := false } } ∧
    s.SameBesideLink t ∧ (s.pins.uciIdle = false → ∀ a, (∀ ch < 8, offChannel ch a) → t.reg a = s.reg a) := by
  refine ⟨_, rfl, ?_, fun awake a outside => ?_⟩
  · refine foldl_kept (P := s.SameBesideLink) ?_ fun t ch h => ite_kept (P := s.SameBesideLink) h (h.drain ch)
    exact ite_kept (P := s.SameBesideLink) (State.SameBesideLink.wakeLink rfl) rfl
  · rw [State.wakeLink_of_awake awake, ite_self]
    refine List.foldlRecOn (motive := fun t => State.reg t a = s.reg a) _ _ rfl fun t h ch member => ?_
    exact ite_kept (P := fun t => State.reg t a = s.reg a) h ((t.drain_reg (outside ch (List.mem_range.1 member))).trans h)

/-! ### What leaves the hall counter and the pins alone -/

section
variable {s t : State}

/-- Two states have the same hall time and the same pins. -/
def State.SameClock (s t : State) : Prop := t.hall = s.hall ∧ t.pins = s.pins

theorem State.SameClock.refl (s : State) : s.SameClock s := ⟨rfl, rfl⟩

/-- The hall counter and the pins stand beside the link. -/
theorem State.SameClock.of_besideLink {u : State} (h : s.SameClock t) (beside : t.SameBesideLink u) : s.SameClock u :=
  ⟨beside.hall.trans h.1, beside.pins.trans h.2⟩

/-! #### A fault -/

theorem State.SameClock.eventAs (h : s.SameClock t) (code : Nat) (cls : Option Nat) (pcls part ctx : Nat) (payload : Bytes) :
    s.SameClock (t.eventAs code cls pcls part ctx payload) :=
  foldl_kept (P := s.SameClock) h fun _ _ h => ite_kept (P := s.SameClock) (h.of_besideLink (State.SameBesideLink.eventOn rfl _ _ _ _ _ _)) h

theorem State.SameClock.stopTile (h : s.SameClock t) (tile : Nat) : s.SameClock (t.stopTile tile) :=
  foldl_kept (P := s.SameClock) (s := t.wr _ 7) h fun _ _ h => h

theorem State.SameClock.tearDown (h : s.SameClock t) (c code cls : Nat) : s.SameClock (t.tearDown c code cls) := by
  have stopped (u : State) (l : List Nat) (h : s.SameClock u) :
      s.SameClock (l.foldl (fun v k => if v.hasWork c k then v.stopTile k else v) u) :=
    foldl_kept (P := s.SameClock) h fun v k h => ite_kept (P := s.SameClock) (h.stopTile k) h
  refine ite_kept (P := s.SameClock) h ?_
  refine ite_kept (P := s.SameClock) ?incoming ?settled
  all_goals exact ite_kept (P := s.SameClock) (stopped _ _ h) h

theorem State.SameClock.logClass (h : s.SameClock t) (cls : Nat) (rcd : Bytes) : s.SameClock (t.logClass cls rcd) :=
  ite_kept (P := s.SameClock) (ite_kept (P := s.SameClock) h h) h

theorem State.SameClock.reportFault (h : s.SameClock t) (code cls : Nat) (ctx part : Option Nat) (rcd : Bytes) :
    s.SameClock (t.reportFault code cls ctx part rcd) := by
  unfold State.reportFault
  extract_lets p shown classCounted ctxCounted reported
  have hclass : s.SameClock classCounted := ite_kept (P := s.SameClock) h h
  have hctx : s.SameClock ctxCounted := by
    unfold ctxCounted
    split
    · exact hclass
    · exact hclass
  have hreported : s.SameClock reported := hctx.eventAs _ _ _ _ _ _
  refine ite_kept (P := s.SameClock) ?_ (ite_kept (P := s.SameClock) ?_ hreported)
  · split
    · exact hreported.tearDown _ _ _
    · exact hreported
  · split
    · exact foldl_kept (P := s.SameClock) hreported fun _ c h => h.tearDown c _ _
    · exact hreported

theorem State.SameClock.fault (h : s.SameClock t) (code cls space index : Nat) (ctx part : Option Nat) (detail : Bytes) :
    s.SameClock (t.fault code cls space index ctx part detail) := by
  have recorded : s.SameClock (t.faultRecord code cls space index detail).2 := by
    unfold State.faultRecord
    dsimp only
    split
    · exact h
    · exact h
  exact (recorded.logClass _ _).reportFault _ _ _ _ _

/-! #### The streams and the fabric ports -/

theorem State.SameClock.breakStream (h : s.SameClock t) (x : Stream) : s.SameClock (t.breakStream x) :=
  State.SameClock.fault (t := t.closeStream x) h _ _ _ _ _ _ _

theorem State.SameClock.ndSolicit (h : s.SameClock t) (n target source : Nat) : s.SameClock (t.ndSolicit n target source) :=
  ite_kept (P := s.SameClock) h h

theorem State.SameClock.ndResolve (h : s.SameClock t) (n dest : Nat) : s.SameClock (t.ndResolve n dest) := by
  unfold State.ndResolve
  split
  · exact h
  · split
    · split
      · exact h
      · apply State.SameClock.ndSolicit
        exact h
    · exact h

theorem State.SameClock.putFab (h : s.SameClock t) (p : Nat) (m : FabMsg) : s.SameClock (t.putFab p m) := by
  unfold State.putFab
  split
  · exact ite_kept (P := s.SameClock) (h.ndResolve _ _) (h.ndResolve _ _)
  · exact ite_kept (P := s.SameClock) h h
  · exact ite_kept (P := s.SameClock) h h

theorem State.SameClock.flushFab (h : s.SameClock t) (p : Nat) : s.SameClock (t.flushFab p) :=
  ite_kept (P := s.SameClock) h (foldl_kept (P := s.SameClock) (s := { t with fab := _ }) h fun _ e h => h.putFab p e.2)

theorem State.SameClock.flushPorts (h : s.SameClock t) : s.SameClock t.flushPorts :=
  foldl_kept (P := s.SameClock) h fun _ p h => h.flushFab p

theorem State.SameClock.sendFab (h : s.SameClock t) (p : Nat) (m : FabMsg) : s.SameClock (t.sendFab p m) :=
  ite_kept (P := s.SameClock) ((h.flushFab p).putFab p m) h

theorem State.SameClock.sendData (h : s.SameClock t) (x : Stream) (p : TxPkt) (retrans : Bool) : s.SameClock (t.sendData x p retrans).1 :=
  h.sendFab _ _

theorem State.SameClock.sendKept (h : s.SameClock t) (x : Stream) (p : TxPkt) : s.SameClock (t.sendKept x p) := by
  have paid : s.SameClock (if p.unpaid then t.takeCredits x.ctx (pktCredits p.payload.length) else t) := ite_kept (P := s.SameClock) h h
  have sent := paid.sendData x { p with kept := !t.portUp x.port, unpaid := false, sentAt := t.hall } false
  exact ite_kept (P := s.SameClock) (State.SameClock.breakStream (t := State.setStream _ _) sent _) sent

theorem State.SameClock.payWaiting (h : s.SameClock t) (p : Nat) : s.SameClock (t.payWaiting p) := by
  refine foldl_kept (P := s.SameClock) h fun u x h => foldl_kept (P := s.SameClock) h fun u k h => ?_
  split
  · exact ite_kept (P := s.SameClock) (h.sendKept _ k) h
  · exact h

theorem State.SameClock.payAll (h : s.SameClock t) : s.SameClock t.payAll := foldl_kept (P := s.SameClock) h fun _ p h => h.payWaiting p

end

/-! ### The step on an empty queue -/

/-- Where nothing waits at a port, nothing leaves. -/
theorem State.flushPorts_of_nothing_waits {s : State} (h : s.fab.wait = []) : s.flushPorts = s := by
  unfold State.flushPorts
  rw [h]
  rfl

/-- Where no packet waits for a credit, none is sent for one. -/
theorem State.payAll_of_all_paid {s : State} (h : (s.fab.streams.all fun x => x.unacked.all fun k => !k.unpaid) = true) : s.payAll = s := by
  have none_unpaid : (s.fab.streams.filter fun x => x.unacked.any (·.unpaid)) = [] := by
    simpa [List.filter_eq_nil_iff] using h
  unfold State.payAll
  rw [none_unpaid]
  rfl

/-- Where nothing waits at a port or for a credit, the nanosecond that passes is all that happens. -/
theorem State.rest_of_nothing_waits {s : State} (hwait : s.fab.wait = [])
    (paid : (s.fab.streams.all fun x => x.unacked.all fun k => !k.unpaid) = true) : s.rest = s.idle := by
  obtain ⟨t, idle, beside, -⟩ := s.idle_eq
  have fab : s.idle.fab = s.fab := by rw [idle]; exact beside.fab
  unfold State.rest
  rw [State.flushPorts_of_nothing_waits (fab ▸ hwait), State.payAll_of_all_paid (fab ▸ paid)]

end Sys2Proof.Machine

namespace Sys2Proof.Proofs.StepTick

open Sys2Proof.Machine

/-- Settles O2: the nanosecond that passes is `State.idle_eq`; what leaves the ports and what is paid for moves neither the clock nor the pins. -/
theorem idleStepPassesOneNanosecond : Obligations.IdleStepPassesOneNanosecond := by
  intro s queue
  have step_eq : step s = s.unattended := by unfold step; rw [queue]
  rw [step_eq]
  unfold State.unattended
  refine ⟨fun held => ⟨s.rest, by rw [held], ?_⟩, fun x i t held run => by rw [held]; simp only [run]⟩
  obtain ⟨t, idle, beside, registers⟩ := s.idle_eq
  obtain ⟨hall, pins⟩ : s.idle.SameClock s.rest := (State.SameClock.refl _).flushPorts.payAll
  refine ⟨?_, State.rest_kept (mem_kept s.mem) s rfl, State.rest_kept (queue_kept []) s queue, ?_, fun hwait paid => ?_⟩
  · rw [hall, idle, beside.hall]
  · rw [pins, idle]
  · rw [State.rest_of_nothing_waits hwait paid, idle]
    exact ⟨beside.faultLog, registers⟩

end Sys2Proof.Proofs.StepTick
end

section
/-! SUPPORT. The events of the time unit (spec/02_step_tick.md): what a sync and a time port's link leave of the time unit's
state and registers. -/

namespace Sys2Proof.Machine

/-! ### What the parts of a sync leave alone -/

/-- To show which sources are lock-ready moves no register but TIM_SOURCES. -/
theorem State.showSources_reg (s : State) {a : Nat} (h : a ≠ TIM_SOURCES) : s.showSources.reg a = s.reg a := by
  unfold State.showSources
  extract_lets has portA portB fabric
  calc _ = fabric.reg a := fabric.reg_wr_ne (f := TIM_SOURCES.fabric_valid) _ h
    _ = portB.reg a := portB.reg_wr_ne (f := TIM_SOURCES.fabric_ready) _ h
    _ = portA.reg a := portA.reg_wr_ne (f := TIM_SOURCES.port_b_ready) _ h
    _ = s.reg a := s.reg_wr_ne (f := TIM_SOURCES.port_a_ready) _ h

@[simp] theorem State.showSources_time (s : State) : s.showSources.time = s.time := rfl

/-- The fabric source is settled in two fields of the time unit. -/
theorem State.settleFabric_eq (s : State) : ∃ fabric left, s.settleFabric = { s with time := { s.time with fabric := fabric, left := left } } := by
  unfold State.settleFabric
  dsimp only
  split
  · exact ite_kept (P := fun t => ∃ fabric left, t = { s with time := { s.time with fabric := fabric, left := left } }) ⟨_, _, rfl⟩ ⟨_, _, rfl⟩
  · exact ⟨_, _, rfl⟩
  · exact ⟨_, _, rfl⟩

@[simp] theorem State.settleFabric_reg (s : State) (a : Nat) : s.settleFabric.reg a = s.reg a := by
  obtain ⟨fabric, left, e⟩ := s.settleFabric_eq
  rw [e]
  rfl

@[simp] theorem State.settleFabric_sources (s : State) : s.settleFabric.time.sources = s.time.sources := by
  obtain ⟨fabric, left, e⟩ := s.settleFabric_eq
  rw [e]

/-- A time port's Delay_Req is put in its send queue, where one leaves. -/
theorem State.delayReq_eq (s : State) {m : PtpMsg} {q : Nat} (h : m.src = .timePort q) :
    ∃ tx, s.delayReq m = { s with time := { s.time with tx := tx } } := by
  unfold State.delayReq
  rw [h]
  dsimp only
  split
  · split
    · exact ⟨_, rfl⟩
    · exact ⟨_, rfl⟩
  · exact ⟨_, rfl⟩

/-- A sync taken from a time port moves no register but TIM_OFFSET and TIM_SOURCES. -/
theorem State.takeSync_reg (s : State) {m : PtpMsg} {q a : Nat} (h : m.src = .timePort q) (offset : a ≠ TIM_OFFSET) (sources : a ≠ TIM_SOURCES) :
    (s.takeSync m).reg a = s.reg a := by
  unfold State.takeSync
  extract_lets x t
  obtain ⟨tx, sent⟩ := State.delayReq_eq (State.showSources _) h
  rw [sent]
  refine (State.showSources_reg _ sources).trans ?_
  rw [State.settleFabric_reg]
  exact (State.reg_wr_ne _ (f := TIM_OFFSET.offset_ns) _ offset).trans (State.reg_wr_ne _ (f := TIM_OFFSET.path_delay_ns) _ offset)

/-- A sync taken from a time port replaces what its source has shown. -/
theorem State.takeSync_sources (s : State) {m : PtpMsg} {q : Nat} (h : m.src = .timePort q) :
    (s.takeSync m).time.sources = s.nextSource m :: s.time.sources.filter fun y => y.src != m.src := by
  unfold State.takeSync
  extract_lets x t
  obtain ⟨tx, sent⟩ := State.delayReq_eq (State.showSources _) h
  rw [sent]
  exact State.settleFabric_sources _

/-- What a source has shown with its first sync. -/
theorem State.nextSource_of_first (s : State) {m : PtpMsg} (first : s.time.sources.find? (fun x => x.src == m.src) = none) :
    s.nextSource m = ⟨m.src, [s.ptpOffset m], 1, if (s.ptpOffset m).natAbs ≤ lockAccuracy m.src then 1 else 0, m.rank, s.hall,
      intervalNs m.interval⟩ := by
  unfold State.nextSource
  rw [first]
  simp only [Option.getD_none, List.take_succ_cons, List.take_nil, Nat.zero_add, ite_self]

/-- A sync of a time port that passes in FREE_RUN starts ACQUIRE on it. -/
theorem State.ptpMessage_of_free (s : State) {m : PtpMsg} {q : Nat} (up : s.up = true) (src : m.src = .timePort q) (takes : s.takesPtp m = true)
    (passes : s.passes 7 q = true) (free : s.rd TIM_STATUS.state = 3) :
    s.ptpMessage m = ((s.takeSync m).enterTime 0 (some m.src)).discipline (s.ptpOffset m) := by
  have still_free : (s.takeSync m).rd TIM_STATUS.state = 3 := by
    rw [← free]
    unfold State.rd
    rw [s.takeSync_reg src (a := TIM_STATUS.state.addr) (by decide) (by decide)]
  unfold State.ptpMessage
  simp only [up, takes, src, stampCrossing, passes, Bool.not_true, Bool.or_false, Bool.false_eq_true, if_false]
  simp only [still_free]
  rfl

/-! ### A time port's link -/

section
variable {s t : State}

/-- Two states have the same registers and the same time port links. -/
def State.SameTimeLinks (s t : State) : Prop := t.regs = s.regs ∧ t.time.linkA = s.time.linkA ∧ t.time.linkB = s.time.linkB

theorem State.SameTimeLinks.ndProbe (h : s.SameTimeLinks t) (n a : Nat) : s.SameTimeLinks (t.ndProbe n a) :=
  ite_kept (P := s.SameTimeLinks) (ite_kept (P := s.SameTimeLinks) h h) h

theorem State.SameTimeLinks.ndProbeAll (h : s.SameTimeLinks t) (n : Nat) : s.SameTimeLinks (t.ndProbeAll n) :=
  (h.ndProbe n _).ndProbe n _

end

/-- A time port's link comes up: its cable's length is shown, and but for TIM_SOURCES no other register moves. -/
theorem State.timePortUp_links (s : State) (q n : Nat) :
    (s.timePortUp q n).time.linkA = (s.time.linkA || q == 0) ∧ (s.timePortUp q n).time.linkB = (s.time.linkB || q != 0) ∧
      ∀ a, a ≠ TIM_SOURCES → (s.timePortUp q n).reg a = (if q = 0 then s.wr TIM_CABLE.port_a_len n else s.wr TIM_CABLE.port_b_len n).reg a := by
  unfold State.timePortUp
  extract_lets measured before linked
  have unmoved : measured.time = s.time := ite_kept (P := fun t => t.time = s.time) rfl rfl
  obtain ⟨regs, linkA, linkB⟩ : linked.SameTimeLinks (if linked.rd TIM_CTRL.transport = 1 then linked.ndProbeAll (64 + q) else linked) :=
    ite_kept (P := linked.SameTimeLinks) (State.SameTimeLinks.ndProbeAll ⟨rfl, rfl, rfl⟩ _) ⟨rfl, rfl, rfl⟩
  refine ⟨?_, ?_, fun a sources => ?_⟩
  · rw [State.showSources_time, linkA]
    exact congrArg (TimeS.linkA · || q == 0) unmoved
  · rw [State.showSources_time, linkB]
    exact congrArg (TimeS.linkB · || q != 0) unmoved
  · rw [State.showSources_reg _ sources]
    unfold State.reg
    rw [regs]

/-- Once the rails are on, TIME_PORT_LINK_UP takes effect. -/
theorem exec_timePortLinkUp_of_up {s : State} (up : s.up = true) (q n : Nat) : exec (.timePortLinkUp q n) s = .next (s.timePortUp q n) := by
  have stage : s.rd CAL_BRINGUP.stage = 8 := by simpa [State.up] using up
  show execTimePortLinkUp q n s = _
  unfold execTimePortLinkUp
  rw [stage]
  rfl

/-! ### The assist inputs -/

/-- With the assist inputs enabled, a second boundary further than 100 ns off is a lost lock, and a nearer one nothing. -/
theorem exec_ppsEdge_of_assist {s : State} (up : s.up = true) (assist : s.on TIM_CTRL.assist_en = true) (e : Nat) :
    exec (.ppsEdge e) s = .next (if 100 < e then s.wr TIM_STATUS.lock_lost 1 else s) := by
  show execPpsEdge e s = _
  unfold execPpsEdge
  simp only [up, assist, Bool.true_and, decide_eq_true_eq]

end Sys2Proof.Machine

namespace Sys2Proof.Proofs.StepTick

open Sys2Proof.Machine

/-- Settles O38, event by event: a sync by what `takeSync` leaves, a time port's link by what `timePortUp` leaves, the others as the unit gives
them. -/
theorem timeEventsComplete : Obligations.TimeEventsComplete := by
  intro s up
  refine ⟨fun m q src takes passes free first => ?_, fun u inUse => ?_, fun holdover => ?_, fun e assist => ?_, fun n => ⟨?_, ?_⟩⟩
  · have offset : s.ptpOffset m = m.rawNs - m.pathDelayNs - s.asymOf (.timePort q) := by
      unfold State.ptpOffset
      rw [src]
    constructor
    · rw [s.takeSync_sources src, s.nextSource_of_first first, offset, src]
      rfl
    · have started := s.ptpMessage_of_free up src takes passes free
      rw [offset] at started
      exact congrArg Host.Outcome.next started
  · show Host.Outcome.next s.syncLoss = _
    unfold State.syncLoss
    simp only [up, inUse, Bool.not_true, Bool.false_eq_true, if_false]
  · show Host.Outcome.next s.holdoverExpiry = _
    unfold State.holdoverExpiry
    simp only [up, holdover, Bool.true_and, beq_self_eq_true, if_true]
  · refine ⟨fun late => ?_, fun early => ?_⟩
    · exact (exec_ppsEdge_of_assist up assist e).trans (by rw [if_pos late])
    · exact (exec_ppsEdge_of_assist up assist e).trans (by rw [if_neg (Nat.not_lt.2 early)])
  · obtain ⟨linkA, linkB, regs⟩ := s.timePortUp_links 0 n
    refine ⟨s.timePortUp 0 n, exec_timePortLinkUp_of_up up 0 n, ?_, ?_, ?_⟩
    · rw [linkA]; simp
    · rw [linkB]; simp
    · unfold State.rd
      rw [regs _ (by decide)]
      rfl
  · obtain ⟨linkA, linkB, regs⟩ := s.timePortUp_links 1 n
    refine ⟨s.timePortUp 1 n, exec_timePortLinkUp_of_up up 1 n, ?_, ?_, ?_⟩
    · rw [linkB]; simp
    · rw [linkA]; simp
    · unfold State.rd
      rw [regs _ (by decide)]
      rfl

end Sys2Proof.Proofs.StepTick
end

section
/-! SUPPORT. The statement of the tile array (spec/05_tile_array.md): in which state each command of the array takes which of its
courses. -/

namespace Sys2Proof.Machine

/-- A code check that finds nothing changes nothing (R101). -/
@[simp] theorem State.sramEcc_clean (s : State) (t line : Nat) : s.sramEcc t ⟨.clean, line⟩ = s := rfl

section
variable {s : State} {t c : Nat} {p : Product}

/-! ### Once the tile grid is up, a command of the array does its work -/

theorem exec_productStart_of_up (up : s.up = true) (ecc : SramEcc) : exec (.productStart t ecc) s = .next (s.productStart t ecc) :=
  congrArg Host.Outcome.next (if_pos up)

theorem exec_productComplete_of_up (up : s.up = true) (stalls : Stalls) :
    exec (.productComplete t stalls) s = .next (s.productComplete t stalls) :=
  congrArg Host.Outcome.next (if_pos up)

theorem exec_elementWiseStart_of_up (up : s.up = true) (ecc : SramEcc) (stalls : Stalls) :
    exec (.elementWiseStart t ecc stalls) s = .next (s.elementWise t ecc stalls) :=
  congrArg Host.Outcome.next (if_pos up)

/-! ### The start of a product (R104, R185) -/

/-- A product that waits on a tile whose stream has not faulted: until its feeders hold its first beats each cycle is one of its slip, and
then its checks and the code check decide whether it begins. -/
theorem State.productStart_of_waiting (on : s.ctxOn t = some c) (waiting : (s.engOf c t).product? 1 = some p) (idle : p.op.started = false)
    (sound : s.rd (INS_STATUS.stream t) ≠ 7) (ecc : SramEcc) : s.productStart t ecc =
      if p.ready (s.operands c t p) = false then s.inc (ARY_STATUS.array_slip t) 1
      else if s.productFault c t p = 0x2803 then (s.wr (BWD_STATUS.freeze_error t) 1).tileFault t 0x2803 2
      else if s.productFault c t p ≠ 0 then s.tileFault t (s.productFault c t p) 2
      else if (s.sramEcc t ecc).cst c ≠ stRunning then s.sramEcc t ecc
      else (s.sramEcc t ecc).beginProduct c t p := by
  unfold State.productStart
  simp only [on, waiting, idle, beq_eq_false_iff_ne.2 sound, Bool.or_false, Bool.false_eq_true, if_false, Bool.not_eq_true']

/-- A product whose feeders hold its first beats, and that nothing stops, begins. -/
theorem State.productStart_of_ready (on : s.ctxOn t = some c) (waiting : (s.engOf c t).product? 1 = some p) (idle : p.op.started = false)
    (sound : s.rd (INS_STATUS.stream t) ≠ 7) (ready : p.ready (s.operands c t p) = true) (faultless : s.productFault c t p = 0)
    (runs : s.cst c = stRunning) (line : Nat) : s.productStart t ⟨.clean, line⟩ = s.beginProduct c t p := by
  rw [State.productStart_of_waiting on waiting idle sound, if_neg (by simp [ready]), if_neg (by simp [faultless]),
    if_neg (by simp [faultless]), State.sramEcc_clean, if_neg (not_not_intro runs)]

/-- A cycle in which the feeders do not hold the product's first beats counts as its slip. -/
theorem State.productStart_of_not_ready (on : s.ctxOn t = some c) (waiting : (s.engOf c t).product? 1 = some p)
    (idle : p.op.started = false) (sound : s.rd (INS_STATUS.stream t) ≠ 7) (dry : p.ready (s.operands c t p) = false) (ecc : SramEcc) :
    s.productStart t ecc = s.inc (ARY_STATUS.array_slip t) 1 := by
  rw [State.productStart_of_waiting on waiting idle sound, if_pos dry]

/-! ### The completion of a product (R105, R106, R110) -/

/-- While the results of an earlier product are in the drain, the drain goes on with them, and the oldest product may end. -/
theorem State.productComplete_of_tails (on : s.ctxOn t = some c) (left : (s.engOf c t).tails ≠ []) (stalls : Stalls) :
    s.productComplete t stalls = (s.tileSends c t).oldestEnds c t stalls := by
  unfold State.productComplete
  simp only [on, List.isEmpty_eq_false_iff.2 left, Bool.not_false, if_true]

/-- With no earlier results left, the operation that runs goes to its end, but for a product whose operands have not all come. -/
theorem State.productComplete_of_running (on : s.ctxOn t = some c) (drained : (s.engOf c t).tails = [])
    (running : (s.engOf c t).running? = some p) (stalls : Stalls) : s.productComplete t stalls =
      if (s.operands c t p).both < p.total ∧ p.ew = false then s else (s.runArray c t p.total).oldestEnds c t stalls := by
  unfold State.productComplete
  simp only [on, drained, running, List.isEmpty_nil, Bool.not_true, Bool.false_eq_true, if_false, Bool.not_eq_true']

/-- The oldest product ends with its counters once its last result is out of the drain. -/
theorem State.oldestEnds_of_tails {x : Tail} {rest : List Tail} (left : (s.engOf c t).tails = x :: rest) (stalls : Stalls) :
    s.oldestEnds c t stalls =
      if (s.engOf c t).oldestOut then ((s.productEnd c t x stalls).countStalls t stalls).tileSends c t else s := by
  unfold State.oldestEnds
  simp only [left]

/-! ### The start of an element-wise operation (R106, R111) -/

/-- An element-wise operation that has not begun: a cycle with earlier results in the drain is one that it waits, and without them its
addresses and the code check decide whether it begins. -/
theorem State.elementWise_of_waiting (on : s.ctxOn t = some c) (waiting : (s.engOf c t).product? 2 = some p) (idle : p.op.started = false)
    (ecc : SramEcc) (stalls : Stalls) : s.elementWise t ecc stalls =
      if (s.engOf c t).tails ≠ [] ∨ (s.engOf c t).outDrain ≠ [] then
        (s.count t (ARY_DRAIN_FULL.drain_full_cycles t) 1).inc (ARY_STATUS.array_slip t) 1
      else if s.sramFaults c p.ewSpan ≠ 0 then s.tileFault t (s.sramFaults c p.ewSpan) 2
      else if (s.sramEcc t ecc).cst c ≠ stRunning then s.sramEcc t ecc
      else ((((s.sramEcc t ecc).countStalls t stalls).wr (ARY_STATUS.ew_mode t) 1).modEng c t fun e =>
        { e with ary := some { p.op with started := true } }).arrayMoves c t := by
  unfold State.elementWise
  simp only [on, waiting, idle, Bool.false_eq_true, if_false, Bool.not_eq_true', List.isEmpty_eq_false_iff]

end

end Sys2Proof.Machine

namespace Sys2Proof.Proofs.TileArray

open Sys2Proof.Machine

/-- Settles O45, command by command: each hypothesis picks the course that the command takes. -/
theorem arrayOperationsComplete : Obligations.ArrayOperationsComplete := by
  intro s t c p up on
  refine ⟨fun line waiting idle sound => ⟨fun ready faultless runs => ?_, fun dry => ?_⟩,
    fun stalls drained running => ⟨fun come => ?_, fun product missing => ?_⟩,
    fun stalls x rest left tails => ⟨fun out => ?_, fun held => ?_⟩,
    fun line stalls waiting idle => ⟨fun noTails noDrain faultless runs => ?_, fun busy => ?_⟩⟩
  · rw [exec_productStart_of_up up, State.productStart_of_ready on waiting idle sound ready faultless runs]
    rfl
  · rw [exec_productStart_of_up up, State.productStart_of_not_ready on waiting idle sound dry]
  · have goes : ¬((s.operands c t p).both < p.total ∧ p.ew = false) := fun ⟨less, product⟩ =>
      come.elim (by simp [product]) (Nat.not_le.2 less)
    rw [exec_productComplete_of_up up, State.productComplete_of_running on drained running, if_neg goes]
  · rw [exec_productComplete_of_up up, State.productComplete_of_running on drained running, if_pos ⟨missing, product⟩]
  · rw [exec_productComplete_of_up up, State.productComplete_of_tails on left, State.oldestEnds_of_tails tails, if_pos out]
  · rw [exec_productComplete_of_up up, State.productComplete_of_tails on left, State.oldestEnds_of_tails tails,
      if_neg (Bool.eq_false_iff.1 held)]
  · rw [exec_elementWiseStart_of_up up, State.elementWise_of_waiting on waiting idle, if_neg (by simp [noTails, noDrain]),
      if_neg (not_not_intro faultless), State.sramEcc_clean, if_neg (not_not_intro runs)]
  · rw [exec_elementWiseStart_of_up up, State.elementWise_of_waiting on waiting idle, if_pos busy]

end Sys2Proof.Proofs.TileArray
end

section
/-! SUPPORT. The statement of the matrix-vector path (spec/06_matrix_vector_path.md): in which state each command of the mule takes which of its
courses. -/

namespace Sys2Proof.Machine

section
variable {s : State} {t c : Nat} {p : MulePass}

/-! ### Once the tile grid is up, a command of the mule does its work -/

theorem exec_mulePassStart_of_up (up : s.up = true) (ecc : SramEcc) : exec (.mulePassStart t ecc) s = .next (s.mulePassStart t ecc) :=
  congrArg Host.Outcome.next (if_pos up)

theorem exec_mulePanelComplete_of_up (up : s.up = true) : exec (.mulePanelComplete t) s = .next (s.mulePanel t) :=
  congrArg Host.Outcome.next (if_pos up)

theorem exec_mulePassComplete_of_up (up : s.up = true) (stalls : Stalls) :
    exec (.mulePassComplete t stalls) s = .next (s.mulePassEnd t stalls) :=
  congrArg Host.Outcome.next (if_pos up)

theorem exec_muleLoadComplete_of_up (up : s.up = true) (ecc : SramEcc) : exec (.muleLoadComplete t ecc) s = .next (s.muleLoad t ecc) :=
  congrArg Host.Outcome.next (if_pos up)

/-! ### The start of a pass (R129, R130, R131) -/

/-- A cycle in which a load issued before the pass is outstanding to its set is one that the pass waits. -/
theorem State.mulePassStart_of_loading (on : s.ctxOn t = some c) (active : (s.engOf c t).mule.active = some p) (idle : p.begun = false)
    (loading : (s.engOf c t).mule.waitsForSet p = true) (ecc : SramEcc) :
    s.mulePassStart t ecc = s.count t (MVP_SET_WAIT.set_wait_cycles t) 1 := by
  unfold State.mulePassStart
  simp only [on, active, idle, loading, Bool.false_eq_true, if_false, if_true]

/-- A pass whose set is ready and that raises no fault begins where the code check leaves its context running: its place is shown, and its down
phase runs before the first panel. -/
theorem State.mulePassStart_of_ready (on : s.ctxOn t = some c) (active : (s.engOf c t).mule.active = some p) (idle : p.begun = false)
    (ready : (s.engOf c t).mule.waitsForSet p = false) (faultless : s.mulePassFault c t (s.engOf c t).mule p = 0) (ecc : SramEcc) :
    s.mulePassStart t ecc =
      if (s.sramEcc t ecc).cst c ≠ stRunning then s.sramEcc t ecc
      else ((((s.sramEcc t ecc).setEng c t { s.engOf c t with mule := { (s.engOf c t).mule with
        active := some { p with begun := true }, escapes := 0, hv := none } }).showPass t (some p)).wr (MVP_STATUS.phase t) 2).runDown c t := by
  unfold State.mulePassStart
  simp only [on, active, idle, ready, faultless, Bool.false_eq_true, if_false, ne_eq, not_true_eq_false]

/-! ### The panels of a pass (R118, R123 to R125, R131) -/

/-- A begun pass with panels left waits, a cycle at a time, while the results of its last panel are unsent. -/
theorem State.mulePanel_of_unsent (on : s.ctxOn t = some c) (active : (s.engOf c t).mule.active = some p) (begun : p.begun = true)
    (left : p.panel < mdPanels ((s.engOf c t).mule.descOf p.entry)) (unsent : (s.engOf c t).outMule ≠ []) :
    s.mulePanel t = s.count t (MVP_OUT_FULL.out_full_cycles t) 1 := by
  unfold State.mulePanel
  simp only [on, active, begun, Nat.not_le.2 left, List.isEmpty_eq_false_iff.2 unsent, Bool.not_true, Bool.not_false, Bool.and_self,
    decide_false, Bool.or_self, Bool.false_eq_true, if_false, if_true]

/-- Panel `p.panel` of a pass without 2:4, of descriptor `d`, is formed once its lines are read: the down phase has run, every row and vector has
its cell, the next panel is shown, and the cells leave. -/
def State.formPanel (s : State) (c t d : Nat) (p : MulePass) : State :=
  let u := s.runDown c t
  let m := (u.engOf c t).mule
  let cells := (List.range (mdVectors d)).map fun v => (List.range 48).map fun l => u.muleCell c t m p l v
  let next := u.modEng c t fun e => { e with mule := { e.mule with active := some { p with panel := p.panel + 1 }, escapes := m.escapes } }
  ((next.numFlags t ((cells.flatMap id).foldl (fun f x => f ||| x.2) 0) 0).wr (MVP_STATUS.panel t) (p.panel + 1)).panelOut c t d p.panel
    (cells.map fun v => v.map (·.1))

/-- A begun pass without 2:4, its last results sent, forms its next panel where the lines read leave its context running: without masks it
meets no escape group. -/
theorem State.mulePanel_of_dense (on : s.ctxOn t = some c) (active : (s.engOf c t).mule.active = some p) (begun : p.begun = true)
    (left : p.panel < mdPanels ((s.engOf c t).mule.descOf p.entry)) (sent : (s.engOf c t).outMule = [])
    (dense : extOn ((s.engOf c t).mule.extOf p.entry) = false) :
    let read := s.checkedRead c t (s.panelSpan c t (s.engOf c t).mule p)
    s.mulePanel t = if read.cst c ≠ stRunning then read else read.formPanel c t ((s.engOf c t).mule.descOf p.entry) p := by
  intro read
  unfold State.mulePanel State.formPanel
  simp only [on, active, begun, Nat.not_le.2 left, sent, dense, List.isEmpty_nil, Bool.not_true, Bool.and_false, decide_false, Bool.or_self,
    Bool.false_eq_true, if_false, List.foldl_nil, if_true, List.filter_nil, List.length_nil, Nat.add_zero, read]
  split <;> rfl

/-! ### The end of a pass (R128, R129) -/

/-- A pass whose panels are complete and that applied no adapter ends with its counters, and the queued pass follows. -/
theorem State.mulePassEnd_of_complete (on : s.ctxOn t = some c) (active : (s.engOf c t).mule.active = some p) (begun : p.begun = true)
    (complete : mdPanels ((s.engOf c t).mule.descOf p.entry) ≤ p.panel) (plain : (s.engOf c t).mule.maxRank p = 0) (stalls : Stalls) :
    let m := (s.engOf c t).mule
    let d := m.descOf p.entry
    let next := s.setEng c t { s.engOf c t with mule := { m with active := m.queued, queued := none, hv := none } }
    let shown := (((next.wr (MVP_STATUS.active t) (bit m.queued.isSome)).wr (MVP_STATUS.queued t) 0).wr (MVP_STATUS.phase t) 0).showPass t m.queued
    s.mulePassEnd t stalls =
      (((shown.count t (MVP_PASSES.passes t) 1).count t (MVP_ADAPTER.adapter_cycles t) 0).count t (MVP_BEATS.beat_cycles t)
        ((mdPanels d * mdBeats d + m.escapes) * (48 / mdLines d))).count t (MVP_BANK_WAIT.bank_wait_cycles t) stalls.wait1 := by
  unfold State.mulePassEnd
  simp only [on, active, begun, Nat.not_lt.2 complete, plain, Bool.not_true, decide_false, Bool.or_self, Bool.false_eq_true, if_false, if_true]

/-! ### Loads (R121, R129) -/

/-- The oldest load that nothing holds back, where it is a descriptor's, brings the descriptor of its entry from SRAM, unless its address faults
or the code check stops its context. -/
theorem State.muleLoad_of_descriptor {w k : Nat} (on : s.ctxOn t = some c)
    (oldest : ((s.engOf c t).mule.loads.find? fun l => !(s.engOf c t).mule.loadBlocked l) = some (w, k)) (descriptor : bits w 333 3 = 2)
    (ecc : SramEcc) :
    let a := 32 * bits w 304 20
    let m := (s.engOf c t).mule
    let f := s.sramFault c (linesOf a 32).1 (linesOf a 32).2
    let read := s.sramEcc t ecc
    s.muleLoad t ecc =
      if f ≠ 0 then s.tileFault t f 2
      else if read.cst c ≠ stRunning then read
      else read.setEng c t { s.engOf c t with mule := { m with
        loads := m.loads.erase (w, k), desc := Sparse.put 0 m.desc (bits w 329 4) (ofLe (read.rdSram c t a 32)) } } := by
  unfold State.muleLoad
  simp [on, oldest, descriptor]

end

end Sys2Proof.Machine

namespace Sys2Proof.Proofs.MatrixVectorPath

open Sys2Proof.Machine

/-- Settles O47, command by command: each hypothesis picks the course that the command takes. -/
theorem muleCompletes : Obligations.MuleCompletes := by
  intro s t c line up on runs
  refine ⟨fun p active idle ready faultless => ?_, fun p active idle loading => ?_, fun p active begun left sent dense => ?_,
    fun p active begun left unsent => ?_, fun p stalls active begun complete plain => ?_, fun w k oldest descriptor faultless => ?_⟩
  · rw [exec_mulePassStart_of_up up, State.mulePassStart_of_ready on active idle ready faultless, State.sramEcc_clean,
      if_neg (not_not_intro runs)]
    rfl
  · rw [exec_mulePassStart_of_up up, State.mulePassStart_of_loading on active idle loading]
  · rw [exec_mulePanelComplete_of_up up, State.mulePanel_of_dense on active begun left sent dense]
    rfl
  · rw [exec_mulePanelComplete_of_up up, State.mulePanel_of_unsent on active begun left unsent]
  · rw [exec_mulePassComplete_of_up up, State.mulePassEnd_of_complete on active begun complete plain]
  · rw [exec_muleLoadComplete_of_up up, State.muleLoad_of_descriptor on oldest descriptor, if_neg (not_not_intro faultless),
      State.sramEcc_clean, if_neg (not_not_intro runs)]

end Sys2Proof.Proofs.MatrixVectorPath
end

section
/-! SUPPORT. The program, weight-set and adapter commands (spec/09_instruction_stream.md, spec/13_weights.md): a command of the runtime firmware
that passes every check is carried out. -/

namespace Sys2Proof.Machine

/-! ### A command that the runtime firmware carries out -/

/-- A command of the runtime firmware that is admitted, that the running firmware reaches and answers promptly, is carried out once it is
accepted. -/
theorem State.fwCommand_of_runs {s : State} {h : Hdr} {f : Fw} {cmd : Instr} (runs : s.runs h f cmd) :
    s.fwCommand h f cmd = f.act (s.fwAccepted h f.op) := by
  obtain ⟨⟨linkUp, relayed, awake, credit, intake, check⟩, firmware, update, prompt, reached, alone⟩ := runs
  unfold State.taken at intake check firmware update reached alone
  unfold State.fwCommand State.fwAccepted State.taken
  simp only [linkUp, relayed, awake, credit, intake, check, firmware, update, prompt, reached, alone, Bool.not_true, Bool.not_false, Bool.or_self,
    Bool.and_self, Bool.false_eq_true, ne_eq, not_true_eq_false, if_false, if_true]

/-! ### Its acceptance leaves the contexts alone -/

@[simp] theorem State.arrive_ctxs (s : State) (h : Hdr) : (s.arrive h).ctxs = s.ctxs :=
  ite_kept (P := fun t => t.ctxs = s.ctxs)
    (foldl_kept (P := fun t => t.ctxs = s.ctxs) rfl fun _ _ e => ite_kept (P := fun t => t.ctxs = s.ctxs) e e) rfl

@[simp] theorem State.wakeFor_now_ctxs (s : State) (op : Nat) : (s.wakeFor op true).ctxs = s.ctxs :=
  ite_kept (P := fun t => t.ctxs = s.ctxs) rfl rfl

@[simp] theorem State.fwAccepted_ctxs (s : State) (h : Hdr) (op : Nat) : (s.fwAccepted h op).ctxs = s.ctxs :=
  (State.wakeFor_now_ctxs _ op).trans (s.arrive_ctxs h)

@[simp] theorem State.fwAccepted_ctx (s : State) (h : Hdr) (op c : Nat) : (s.fwAccepted h op).ctx c = s.ctx c := by
  unfold State.ctx
  rw [s.fwAccepted_ctxs]

/-- A commit loads an open image that passes every check, and else answers with the status of the check that failed (R203). -/
theorem doProgramCommit_of_open {s : State} {h : Hdr} {m : OpenImage} (image : (s.ctx h.context).image = some m) :
    doProgramCommit h s = if s.imageStatus h.context m = 0 then (s.loadImage h.context m).reply h 0x0304 0 (imageMeasurement m)
      else s.reply h 0x0304 (s.imageStatus h.context m) := by
  unfold doProgramCommit
  simp only [image, ne_eq, ite_not]

end Sys2Proof.Machine

namespace Sys2Proof.Proofs.InstructionStream

open Sys2Proof.Machine

/-- Settles O24: each command is carried out (`State.fwCommand_of_runs`), a commit on the image that was open before it was accepted. -/
theorem programAndWeightCommandsComplete : Obligations.ProgramAndWeightCommandsComplete := by
  intro s h
  have carried {f : Fw} {cmd : Instr} (runs : s.runs h f cmd) :
      (.next (s.fwCommand h f cmd) : Result) = .next (f.act (s.fwAccepted h f.op)) :=
    congrArg Host.Outcome.next (State.fwCommand_of_runs runs)
  refine ⟨fun _ _ runs => carried runs, fun m runs image => (carried runs).trans ?_, fun _ runs => carried runs, fun _ _ runs => carried runs,
    fun _ _ runs => carried runs, fun _ _ _ _ _ _ runs => carried runs, fun _ runs => carried runs⟩
  exact congrArg Host.Outcome.next (doProgramCommit_of_open ((congrArg CtxS.image (s.fwAccepted_ctx h _ _)).trans image))

end Sys2Proof.Proofs.InstructionStream
end

section
/-! SUPPORT. The compute stream of a tile (spec/09_instruction_stream.md): what the stream's registers show after a word's schedule, and in
which state each command of the stream takes which of its courses. -/

namespace Sys2Proof.Machine

/-! ### The stream's registers -/

/-- A register field reads the same wherever its register holds the same. -/
theorem State.rd_congr {s u : State} {f : RF} (h : u.reg f.addr = s.reg f.addr) : u.rd f = s.rd f := by
  unfold State.rd
  rw [h]

/-- A tile counter that counts moves no other register. -/
theorem State.count_reg_ne (s : State) (t : Nat) {f : RF} (n : Nat) {a : Nat} (h : a ≠ f.addr) : (s.count t f n).reg a = s.reg a :=
  ite_kept (P := fun u => u.reg a = s.reg a) rfl (s.reg_wr_ne (f := f) _ h)

/-- A schedule moves no register but the three that show it. -/
theorem State.schedule_reg_ne (s : State) (c t cycle slip : Nat) {a : Nat} (notSlip : a ≠ INS_SLIP t) (notSched : a ≠ INS_SCHED t)
    (notLead : a ≠ INS_RA t) : (s.schedule c t cycle slip).reg a = s.reg a := by
  unfold State.schedule
  extract_lets shown
  calc _ = (shown.wr (INS_SCHED.sched_cycle t) (cycle - slip)).reg a := State.reg_wr_ne _ (f := INS_RA.lead t) _ notLead
    _ = shown.reg a := State.reg_wr_ne _ (f := INS_SCHED.sched_cycle t) _ notSched
    _ = (s.wr (INS_SLIP.slip t) slip).reg a := State.reg_wr_ne _ (f := INS_SCHED.step_cycle t) _ notSched
    _ = s.reg a := s.reg_wr_ne (f := INS_SLIP.slip t) _ notSlip

theorem INS_SLIP_ne_INS_SCHED (t : Nat) : INS_SLIP t ≠ INS_SCHED t := by unfold INS_SLIP INS_SCHED; omega
theorem INS_SLIP_ne_INS_RA (t : Nat) : INS_SLIP t ≠ INS_RA t := by unfold INS_SLIP INS_RA; omega
theorem INS_SCHED_ne_INS_RA (t : Nat) : INS_SCHED t ≠ INS_RA t := by unfold INS_SCHED INS_RA; omega
theorem INS_STATUS_ne_INS_SLIP (t : Nat) : INS_STATUS t ≠ INS_SLIP t := by unfold INS_STATUS INS_SLIP; omega
theorem INS_STATUS_ne_INS_SCHED (t : Nat) : INS_STATUS t ≠ INS_SCHED t := by unfold INS_STATUS INS_SCHED; omega
theorem INS_STATUS_ne_INS_RA (t : Nat) : INS_STATUS t ≠ INS_RA t := by unfold INS_STATUS INS_RA; omega

/-- A schedule shows its slip. -/
theorem State.rd_schedule_slip {s : State} (canon : s.Canon) (c t cycle slip : Nat) :
    (s.schedule c t cycle slip).rd (INS_SLIP.slip t) = slip % 2 ^ 32 := by
  unfold State.schedule
  extract_lets shown
  calc _ = (shown.wr (INS_SCHED.sched_cycle t) (cycle - slip)).rd (INS_SLIP.slip t) :=
      State.rd_wr_ne _ (f := INS_RA.lead t) _ (INS_SLIP_ne_INS_RA t)
    _ = shown.rd (INS_SLIP.slip t) := State.rd_wr_ne _ _ (INS_SLIP_ne_INS_SCHED t)
    _ = (s.wr (INS_SLIP.slip t) slip).rd (INS_SLIP.slip t) := State.rd_wr_ne _ _ (INS_SLIP_ne_INS_SCHED t)
    _ = slip % 2 ^ 32 := State.rd_wr canon.2 _ _ (le_refl 64)

/-- A schedule shows its step cycle. -/
theorem State.rd_schedule_step_cycle {s : State} (canon : s.Canon) (c t cycle slip : Nat) :
    (s.schedule c t cycle slip).rd (INS_SCHED.step_cycle t) = cycle % 2 ^ 32 := by
  unfold State.schedule
  extract_lets shown
  have slipCanon : (s.wr (INS_SLIP.slip t) slip).Canon := State.wr_kept canon_kept _ _ _ canon
  have shownCanon : shown.Canon := State.wr_kept canon_kept _ _ _ slipCanon
  calc _ = (shown.wr (INS_SCHED.sched_cycle t) (cycle - slip)).rd (INS_SCHED.step_cycle t) :=
      State.rd_wr_ne _ (f := INS_RA.lead t) _ (INS_SCHED_ne_INS_RA t)
    _ = shown.rd (INS_SCHED.step_cycle t) :=
      State.rd_wr_field shownCanon.2 (f := INS_SCHED.sched_cycle t) (g := INS_SCHED.step_cycle t) _ (le_refl 64) rfl (.inl (le_refl 32))
    _ = cycle % 2 ^ 32 := State.rd_wr slipCanon.2 _ _ (show 32 ≤ 64 by decide)

/-! ### The cycles of a wait at a rendezvous -/

/-- A number drawn where it is open, and 0 elsewhere. -/
def State.drawWhere (s : State) (b : Bool) : Nat × State := if b then s.free 32 else (0, s)

/-- A draw moves the counter of free values alone. -/
theorem State.drawWhere_eq (s : State) (b : Bool) : ∃ fresh, (s.drawWhere b).2 = { s with fresh := fresh } := by
  cases b
  · exact ⟨_, rfl⟩
  · exact ⟨_, rfl⟩

/-- The tile once `n` cycles of a rendezvous are attributed to the waits that count meanwhile (R332; `State.rdvRelease_of_one` ties this to the
release). -/
def State.attributed (s : State) (c t n : Nat) : State :=
  let x := if s.waitsExpress c t then (n, s) else s.drawWhere (s.waitedExpress t)
  let k := x.2.drawWhere (s.waitsStack c t)
  let p := k.2.drawWhere (s.waitsPort c t)
  p.2.modEng c t fun e => { e with
    holdX := e.holdX + x.1 % (n + 1), holdS := e.holdS + k.1 % (n + 1), holdP := e.holdP + p.1 % (n + 1) }

/-- That moves the counter of free values and the engines alone. -/
theorem State.attributed_eq (s : State) (c t n : Nat) : ∃ fresh eng, s.attributed c t n = { s with fresh := fresh, eng := eng } := by
  unfold State.attributed
  extract_lets x k p
  obtain ⟨freshX, hx⟩ : ∃ fresh, x.2 = { s with fresh := fresh } := by
    unfold x
    split
    · exact ⟨s.fresh, rfl⟩
    · exact s.drawWhere_eq _
  obtain ⟨freshK, hk⟩ : ∃ fresh, k.2 = { x.2 with fresh := fresh } := x.2.drawWhere_eq _
  obtain ⟨freshP, hp⟩ : ∃ fresh, p.2 = { k.2 with fresh := fresh } := k.2.drawWhere_eq _
  rw [hp, hk, hx]
  exact ⟨_, _, rfl⟩

@[simp] theorem State.attributed_mem (s : State) (c t n : Nat) : (s.attributed c t n).mem = s.mem := by
  obtain ⟨_, _, e⟩ := s.attributed_eq c t n
  rw [e]

@[simp] theorem State.attributed_reg (s : State) (c t n a : Nat) : (s.attributed c t n).reg a = s.reg a := by
  obtain ⟨_, _, e⟩ := s.attributed_eq c t n
  rw [e]
  rfl

/-! ### What the state of an engine or of a context leaves alone -/

@[simp] theorem State.modEng_rd (s : State) (c t : Nat) (g : Eng → Eng) (f : RF) : (s.modEng c t g).rd f = s.rd f := rfl
@[simp] theorem State.modCtx_rd (s : State) (c : Nat) (g : CtxS → CtxS) (f : RF) : (s.modCtx c g).rd f = s.rd f := rfl
@[simp] theorem State.modCtx_computeWord (s : State) (c d t pc : Nat) (g : CtxS → CtxS) :
    (s.modCtx c g).computeWord d t pc = s.computeWord d t pc := rfl

/-! ### The context that runs on a tile -/

/-- The register that shows the running context holds its number in 7 bits. -/
theorem State.ctxOn_lt {s : State} {t c : Nat} (on : s.ctxOn t = some c) : c < 128 := by
  unfold State.ctxOn at on
  obtain ⟨p, -, running⟩ := Option.bind_eq_some_iff.1 on
  unfold State.running at running
  split at running
  · cases running
    exact bits_lt _ _ 7
  · cases running

/-- A context's configuration stands in the module's registers, below every tile's. -/
theorem PAR_CTX_CFG_lt_tile {c : Nat} (h : c < 128) : PAR_CTX_CFG c < 2 ^ 40 := by unfold PAR_CTX_CFG; omega

section
variable {s : State} {t c : Nat}

/-! ### Once the tile grid is up, a command of the stream does its work -/

theorem exec_computeWordIssue_of_up (up : s.up = true) (ecc : EccOutcome) (sram : SramEcc) :
    exec (.computeWordIssue t ecc sram) s = .next (s.computeIssue t ecc sram) := congrArg Host.Outcome.next (if_pos up)

theorem exec_rendezvousArrival_of_up (up : s.up = true) : exec (.rendezvousArrival t) s = .next (s.rdvArrive t) :=
  congrArg Host.Outcome.next (if_pos up)

theorem exec_rendezvousRelease_of_up (up : s.up = true) (id : Nat) : exec (.rendezvousRelease c id) s = .next (s.rdvRelease c id) :=
  congrArg Host.Outcome.next (if_pos up)

theorem exec_rendezvousTimeout_of_up (up : s.up = true) : exec (.rendezvousTimeout t) s = .next (s.rdvTimeout t) :=
  congrArg Host.Outcome.next (if_pos up)

theorem exec_semaphoreWaitTimeout_of_up (up : s.up = true) (access : Bool) :
    exec (.semaphoreWaitTimeout t access) s = .next (s.semTimeout t access) := congrArg Host.Outcome.next (if_pos up)

theorem exec_tileStepEnd_of_up (up : s.up = true) : exec (.tileStepEnd t) s = .next (s.tileStepEnd t) :=
  congrArg Host.Outcome.next (if_pos up)

/-! ### The issue of a compute word (R181, R182, R191, R192) -/

/-- A code check of an instruction memory that finds nothing changes nothing (R179). -/
@[simp] theorem State.insEcc_clean (s : State) (t : Nat) : s.insEcc t .clean = s := rfl

/-- A stream that issues has not been stopped by a fault. -/
theorem State.stream_ne_of_issuing (issuing : s.issuing c t = true) : s.rd (INS_STATUS.stream t) ≠ 7 := by
  unfold State.issuing at issuing
  simp only [Bool.and_eq_true, bne_iff_ne] at issuing
  obtain ⟨⟨⟨-, sound⟩, -⟩, -⟩ := issuing
  exact sound

/-- The word that is due, met without a code error: it waits for its semaphore, waits to arrive at its rendezvous, or goes on to its units. -/
theorem State.computeIssue_of_due (on : s.ctxOn t = some c) (issuing : s.issuing c t = true) (due : (s.engOf c t).ended = false)
    (unquiesced : s.rd (INS_STATUS.stream t) ≠ 4) (unarrived : s.rd (INS_STATUS.stream t) ≠ 5) (sram : SramEcc) :
    let w := s.computeWord c t (s.rd (INS_STATUS.pc t))
    s.computeIssue t .clean sram =
      if bits w 461 3 = 3 ∧ s.rd (insSem t (bits w 428 5)) < bits w 424 4 then
        (s.modEng c t fun e => { e with semWait := some (e.semWait.getD s.tick) }).heldCycle c t 3 (INS_SEM_WAIT.sem_wait_cycles t)
      else if (bits w 461 3 = 1 ∨ bits w 461 3 = 2) ∧ !(s.engOf c t).released then
        (s.wr (INS_STATUS.stream t) (if bits w 461 3 = 1 then 5 else 4)).wr (INS_STATUS.rdv_id t) (bits w 433 8)
      else s.issueOrHold c t w sram := by
  unfold State.computeIssue
  simp only [on, issuing, due, beq_eq_false_iff_ne.2 unquiesced, beq_eq_false_iff_ne.2 unarrived, State.insEcc_clean,
    State.stream_ne_of_issuing issuing, Bool.not_true, Bool.or_self, Bool.false_eq_true, if_false]
  rfl

/-- A word that names a busy unit is held for a cycle. -/
theorem State.issueOrHold_of_busy {w : Nat} (busy : ((s.lastBeat t w).engOf c t).busyFor w = true) (sram : SramEcc) :
    s.issueOrHold c t w sram = (s.lastBeat t w).heldCycle c t 2 (INS_BUSY_HOLD.busy_hold_cycles t) := by
  unfold State.issueOrHold
  exact if_pos busy

/-- A word whose units are free issues, where no code error is met in the lines it sends. -/
theorem State.issueOrHold_of_free {w : Nat} (free : ((s.lastBeat t w).engOf c t).busyFor w = false)
    (runs : (s.lastBeat t w).cst c = stRunning) (line : Nat) : s.issueOrHold c t w ⟨.clean, line⟩ = (s.lastBeat t w).issueWord c t w := by
  unfold State.issueOrHold
  simp only [free, State.sramEcc_clean, ite_self, runs, Bool.false_eq_true, ne_eq, not_true_eq_false, if_false]

/-! ### The arrival at a rendezvous (R192, R193, R194) -/

/-- The tile's slip at a rendezvous beyond its word's slack, shown and counted. -/
def State.overran (s : State) (t excess : Nat) : State :=
  ((s.wr (INS_STATUS.overrun t) 1).wr (INS_SLIP.last_excess t) excess).count t (INS_OVERRUNS.overruns t) 1

/-- An overrun moves no register of the module's own. -/
theorem State.overran_reg (s : State) (t excess : Nat) {a : Nat} (h : a < 2 ^ 40) : (s.overran t excess).reg a = s.reg a := by
  have status : a ≠ INS_STATUS t := by unfold INS_STATUS; omega
  have slip : a ≠ INS_SLIP t := by unfold INS_SLIP; omega
  have overruns : a ≠ INS_OVERRUNS t := by unfold INS_OVERRUNS; omega
  exact (State.count_reg_ne _ t (f := INS_OVERRUNS.overruns t) 1 overruns).trans
    ((State.reg_wr_ne _ (f := INS_SLIP.last_excess t) _ slip).trans (s.reg_wr_ne (f := INS_STATUS.overrun t) _ status))

/-- The partition of the context that runs on the tile stands as it was. -/
theorem State.overran_cpart (s : State) (t excess : Nat) (h : c < 128) : (s.overran t excess).cpart c = s.cpart c :=
  State.rd_congr (f := PAR_CTX_CFG.partition c) (s.overran_reg t excess (PAR_CTX_CFG_lt_tile h))

/-- A tile that waits for the others at its rendezvous word, having arrived at rendezvous `id` with its slip and its cycle. -/
def State.arrived (s : State) (c t id : Nat) : State :=
  ((s.wr (INS_STATUS.stream t) 5).modEng c t fun e => { e with rdvWait := some s.tick }).modCtx c fun k =>
    { k with arrivals := k.arrivals ++ [(id, t, s.rd (INS_SLIP.slip t), s.rd (INS_SCHED.step_cycle t))] }

/-- A tile whose word does not ask for it to be quiesced arrives at once, and reports a slip above the word's slack. -/
theorem State.rdvArrive_of_unquiesced (on : s.ctxOn t = some c) (issuing : s.issuing c t = true) (waits : s.rd (INS_STATUS.stream t) = 5)
    (fresh : (s.engOf c t).rdvWait = none) :
    let w := s.computeWord c t (s.rd (INS_STATUS.pc t))
    let slip := s.rd (INS_SLIP.slip t)
    let u := s.arrived c t (bits w 433 8)
    s.rdvArrive t = if bits w 441 20 < slip then
        (u.overran t (slip - bits w 441 20)).fault 0x2901 1 1 t (some c) (some (u.cpart c)) (leB 2 (bits w 433 8) ++ leB 4 (slip - bits w 441 20))
      else u := by
  intro w slip u
  have cycle : (s.wr (INS_STATUS.stream t) 5).rd (INS_SCHED.step_cycle t) = s.rd (INS_SCHED.step_cycle t) :=
    s.rd_wr_ne _ (INS_STATUS_ne_INS_SCHED t).symm
  have five : ¬(5 : Nat) = 4 := by decide
  rw [← State.overran_cpart u t (slip - bits w 441 20) (State.ctxOn_lt on)]
  unfold State.rdvArrive
  simp only [on, issuing, waits, fresh, five, State.modEng_rd, cycle, Bool.not_true, bne_self_eq_false, Bool.and_false, Option.isSome_none,
    Bool.or_self, Bool.false_eq_true, false_and, if_false]
  rfl

/-! ### The release of a rendezvous of one tile (R193) -/

/-- The tile of a rendezvous that nothing else takes part in, 240 cycles after it arrived: the slack is taken from its slip, and the cycles
of the wait are counted and attributed. -/
def State.passed (s : State) (c t id slack : Nat) : State :=
  let gone := s.modCtx c fun k => { k with arrivals := k.arrivals.filter fun a => a.1 != id }
  let due := gone.schedule c t (s.rd (INS_SCHED.step_cycle t) + 240) (s.rd (INS_SLIP.slip t) - slack)
  (due.count t (INS_RDV_WAIT.rdv_wait_cycles t) 240).attributed c t 240

/-- What a word that its rendezvous has released does: it is held while a unit it names is busy, or issues, where the code check of the lines
it sends leaves its context running. -/
def State.issueReleased (s : State) (c t w : Nat) : State :=
  let v := s.lastBeat t w
  if (v.engOf c t).busyFor w then (v.wr (INS_STATUS.stream t) 2).modEng c t fun e => { e with released := true, rdvWait := none }
  else
    let x := v.checkedRead c t (v.sendSpan c t w)
    if x.cst c ≠ stRunning then x else x.issueWord c t w

/-- To pass a rendezvous stores nothing. -/
@[simp] theorem State.passed_mem (s : State) (c t id slack : Nat) : (s.passed c t id slack).mem = s.mem :=
  (State.attributed_mem _ c t 240).trans (State.count_kept (mem_kept s.mem) _ _ _ _ (State.schedule_kept (mem_kept s.mem) _ _ _ _ _ rfl))

/-- Past the schedule, only the counter of the wait moves. -/
theorem State.passed_reg (s : State) (c t id slack : Nat) {a : Nat} (h : a ≠ INS_RDV_WAIT t) :
    (s.passed c t id slack).reg a = ((s.modCtx c fun k => { k with arrivals := k.arrivals.filter fun a => a.1 != id }).schedule c t
      (s.rd (INS_SCHED.step_cycle t) + 240) (s.rd (INS_SLIP.slip t) - slack)).reg a :=
  (State.attributed_reg _ c t 240 a).trans (State.count_reg_ne _ t (f := INS_RDV_WAIT.rdv_wait_cycles t) 240 h)

/-- The slack is taken from the slip. -/
theorem State.passed_slip (canon : s.Canon) (id slack : Nat) :
    (s.passed c t id slack).rd (INS_SLIP.slip t) = s.rd (INS_SLIP.slip t) - slack := by
  have fits : s.rd (INS_SLIP.slip t) < 2 ^ 32 := bits_lt _ _ 32
  have waitApart : INS_SLIP t ≠ INS_RDV_WAIT t := by unfold INS_SLIP INS_RDV_WAIT; omega
  rw [State.rd_congr (f := INS_SLIP.slip t) (s.passed_reg c t id slack waitApart),
    State.rd_schedule_slip (State.modCtx_kept canon_kept s c _ canon), Nat.mod_eq_of_lt (Nat.lt_of_le_of_lt (Nat.sub_le _ _) fits)]

/-- The tile goes on 240 cycles later. -/
theorem State.passed_step_cycle (canon : s.Canon) (id slack : Nat) :
    (s.passed c t id slack).rd (INS_SCHED.step_cycle t) = (s.rd (INS_SCHED.step_cycle t) + 240) % 2 ^ 32 := by
  have waitApart : INS_SCHED t ≠ INS_RDV_WAIT t := by unfold INS_SCHED INS_RDV_WAIT; omega
  rw [State.rd_congr (f := INS_SCHED.step_cycle t) (s.passed_reg c t id slack waitApart),
    State.rd_schedule_step_cycle (State.modCtx_kept canon_kept s c _ canon)]

/-- The stream shows what it showed. -/
theorem State.passed_stream (s : State) (c t id slack : Nat) : (s.passed c t id slack).rd (INS_STATUS.stream t) = s.rd (INS_STATUS.stream t) := by
  have waitApart : INS_STATUS t ≠ INS_RDV_WAIT t := by unfold INS_STATUS INS_RDV_WAIT; omega
  refine State.rd_congr (f := INS_STATUS.stream t) ((s.passed_reg c t id slack waitApart).trans ?_)
  exact State.schedule_reg_ne _ c t _ _ (INS_STATUS_ne_INS_SLIP t) (INS_STATUS_ne_INS_SCHED t) (INS_STATUS_ne_INS_RA t)

/-- A rendezvous whose one participant has arrived is released. -/
theorem State.rdvRelease_of_one {id : Nat} {g : Program} (runs : s.cst c = stRunning) (program : (s.ctx c).program = some g)
    (alone : g.rendezvous.getD id 0 = 1)
    (arrived : (s.ctx c).arrivals = [(id, t, s.rd (INS_SLIP.slip t), s.rd (INS_SCHED.step_cycle t))]) (waits : s.rd (INS_STATUS.stream t) = 5) :
    let w := s.computeWord c t (s.rd (INS_STATUS.pc t))
    s.rdvRelease c id = (s.passed c t id (bits w 441 20)).issueReleased c t w := by
  intro w
  have sound : (s.passed c t id (bits w 441 20)).rd (INS_STATUS.stream t) ≠ 7 := by rw [s.passed_stream, waits]; decide
  have here : ((s.ctx c).arrivals.filter fun a => a.1 == id) = [(id, t, s.rd (INS_SLIP.slip t), s.rd (INS_SCHED.step_cycle t))] := by
    rw [arrived, List.filter_singleton, beq_self_eq_true]
    rfl
  unfold State.rdvRelease
  simp only [here, runs, program, alone, State.modCtx_rd, State.modCtx_computeWord, List.foldl_cons, List.foldl_nil, Nat.zero_max,
    Nat.add_sub_cancel_left, List.length_singleton, Nat.lt_irrefl, Nat.one_ne_zero, ne_eq, not_true_eq_false, or_self, if_false]
  exact if_neg sound

/-! ### Time-outs, and the end of a tile's step (R184, R195) -/

/-- An arrival that has waited longer than its limit times out. -/
theorem State.rdvTimeout_of_late (on : s.ctxOn t = some c) {since : Nat} (waits : (s.engOf c t).rdvWait = some since)
    (late : since + s.rd INS_CFG.rdv_timeout < s.tick) : s.rdvTimeout t = (s.wr (INS_STATUS.timeout t) 1).tileFault t 0x2903 2 := by
  unfold State.rdvTimeout
  simp only [on, Option.bind_some, waits, late, if_true]

/-- A wait on a semaphore, of the compute or of the access stream, that is not satisfied and has lasted longer than its limit times out. -/
theorem State.semTimeout_of_late (on : s.ctxOn t = some c) {access : Bool} {since : Nat}
    (waits : (if access then (s.engOf c t).accWait else (s.engOf c t).semWait) = some since)
    (late : since + s.rd INS_CFG.sem_timeout < s.tick) (short : s.semShort c t access = true) :
    s.semTimeout t access = (s.wr (INS_STATUS.timeout t) 1).tileFault t 0x2904 2 := by
  unfold State.semTimeout
  simp only [on, waits, late, short, decide_true, Bool.and_self, if_true]

/-- A tile whose units are idle runs nothing in its array. -/
theorem Eng.running?_of_idle {e : Eng} (idle : e.idle = true) : e.running? = none := by
  unfold Eng.idle at idle
  simp only [Bool.and_eq_true, Option.isNone_iff_eq_none] at idle
  obtain ⟨⟨⟨⟨⟨⟨⟨-, array⟩, -⟩, -⟩, -⟩, -⟩, -⟩, -⟩ := idle
  unfold Eng.running? Eng.product?
  simp only [array, Option.filter_none, Option.or_none]

/-- So nothing in its array runs on. -/
theorem State.settleArray_of_idle (on : s.ctxOn t = some c) (idle : (s.engOf c t).idle = true) : s.settleArray t = s := by
  unfold State.settleArray
  simp only [on, Eng.running?_of_idle idle]

/-- A tile whose streams have ended and whose units are idle ends its step. -/
theorem State.tileStepEnd_of_idle (on : s.ctxOn t = some c) (issuing : s.issuing c t = true) (ended : (s.engOf c t).ended = true)
    (idle : (s.engOf c t).idle = true) (accessEnded : s.on (INS_STATUS.ra_ended t) = true) :
    s.tileStepEnd t = s.wr (INS_STATUS.stream t) 6 := by
  unfold State.tileStepEnd
  simp only [on, State.settleArray_of_idle on idle, issuing, ended, idle, accessEnded, Bool.and_self, if_true]

end

end Sys2Proof.Machine

namespace Sys2Proof.Proofs.InstructionStream

open Sys2Proof.Machine

/-- Settles O42: the word that is due takes one of three courses (`State.computeIssue_of_due`), and each hypothesis picks one. -/
theorem computeWordIssues : Obligations.ComputeWordIssues := by
  intro s t c line up on issuing due unquiesced unarrived w u issue
  have course : issue = .next _ := (exec_computeWordIssue_of_up up .clean ⟨.clean, line⟩).trans
    (congrArg Host.Outcome.next (State.computeIssue_of_due on issuing due unquiesced unarrived ⟨.clean, line⟩))
  refine ⟨fun wait short => ?_, fun rendezvous unreleased => ?_, fun through enough => ?_⟩
  · rw [course, if_pos ⟨wait, short⟩]
  · have noWait : ¬(bits w 461 3 = 3 ∧ s.rd (insSem t (bits w 428 5)) < bits w 424 4) := by omega
    rw [course, if_neg noWait, if_pos ⟨rendezvous, by simp [unreleased]⟩]
  · have noWait : ¬(bits w 461 3 = 3 ∧ s.rd (insSem t (bits w 428 5)) < bits w 424 4) := by omega
    have passes : ¬((bits w 461 3 = 1 ∨ bits w 461 3 = 2) ∧ !(s.engOf c t).released) := fun ⟨rendezvous, unreleased⟩ =>
      through.elim (fun ⟨notOne, notTwo⟩ => rendezvous.elim notOne notTwo) (by simpa using unreleased)
    rw [course, if_neg noWait, if_neg passes]
    exact ⟨fun busy => congrArg Host.Outcome.next (State.issueOrHold_of_busy busy _),
      fun free runs => congrArg Host.Outcome.next (State.issueOrHold_of_free free runs line)⟩

/-- Settles O43, command by command: each hypothesis picks the course that the command takes. -/
theorem streamSynchronisationCompletes : Obligations.StreamSynchronisationCompletes := by
  intro s t c up on
  refine ⟨fun issuing waits fresh => ?_, fun id g runs program alone arrived waits canon _ => ?_, fun since waits late => ?_,
    fun since waits late short => ?_, fun since waits late short => ?_, fun issuing ended idle accessEnded => ?_⟩
  · rw [exec_rendezvousArrival_of_up up, State.rdvArrive_of_unquiesced on issuing waits fresh]
    exact ⟨fun within => congrArg Host.Outcome.next (if_neg (Nat.not_lt.2 within)), fun beyond => congrArg Host.Outcome.next (if_pos beyond)⟩
  · refine ⟨_, s.passed_mem c t id _, State.passed_slip canon id _, State.passed_step_cycle canon id _, ?_⟩
    rw [exec_rendezvousRelease_of_up up, State.rdvRelease_of_one runs program alone arrived waits]
    rfl
  · rw [exec_rendezvousTimeout_of_up up, State.rdvTimeout_of_late on waits late]
  · rw [exec_semaphoreWaitTimeout_of_up up, State.semTimeout_of_late (access := false) on waits late short]
  · rw [exec_semaphoreWaitTimeout_of_up up, State.semTimeout_of_late (access := true) on waits late short]
  · rw [exec_tileStepEnd_of_up up, State.tileStepEnd_of_idle on issuing ended idle accessEnded]

end Sys2Proof.Proofs.InstructionStream
end

section
/-! SUPPORT. The access stream of a tile (spec/09_instruction_stream.md): the issue of the word that ends it, the completion of the oldest word in
flight, and the data that it moves. -/

namespace Sys2Proof.Machine

section
variable {s : State} {t c w : Nat}

theorem exec_accessWordIssue_of_up (up : s.up = true) (ecc : EccOutcome) : exec (.accessWordIssue t ecc) s = .next (s.accessIssue t ecc) :=
  congrArg Host.Outcome.next (if_pos up)

theorem exec_accessWordComplete_of_up (up : s.up = true) (ecc : SramEcc) :
    exec (.accessWordComplete t ecc) s = .next (s.accessComplete t ecc) := congrArg Host.Outcome.next (if_pos up)

/-! ### The issue of an end word (R196, R199) -/

/-- An end word that is the tile's next access word joins the words in flight, and the stream stands after it. -/
def State.takeEndWord (s : State) (c t w : Nat) : State :=
  ((s.takeCredits c (awCredits w)).modEng c t fun e => { e with
    accWait := none, reissue := e.reissue.drop 1, flight := e.flight ++ [⟨w, false, false, s.attemptOf c⟩] }).wr (INS_STATUS.access_pc t)
      (s.rd (INS_STATUS.access_pc t) + 1)

/-- What an issued access word leaves in the views of the run-ahead engine and in its waits. -/
def State.showIssued (s : State) (c t w : Nat) : State :=
  let shown := s.wr (INS_RA.outstanding t) (s.engOf c t).flight.length
  ((shown.modEng c t fun e => { e with lastAt := awAt w }).schedule c t (shown.rd (INS_SCHED.step_cycle t)) (shown.rd (INS_SLIP.slip t))
    |>.requestsWait c t w).contends t 8

theorem State.takeEndWord_canon (canon : s.Canon) : (s.takeEndWord c t w).Canon :=
  State.wr_kept canon_kept _ _ _ (State.modEng_kept canon_kept _ _ _ _ (State.takeCredits_kept canon_kept _ _ _ canon))

/-- Its requests may have waited, which moves no register but the counter of their wait. -/
theorem State.requestsWait_reg (s : State) (c t w : Nat) {a : Nat} (h : a ≠ NET_DL_WAIT t) : (s.requestsWait c t w).reg a = s.reg a :=
  ite_kept (P := fun u => u.reg a = s.reg a) rfl
    (ite_kept (P := fun u => u.reg a = s.reg a) (State.count_reg_ne _ t (f := NET_DL_WAIT.dl_wait_cycles t) _ h) rfl)

/-- The state of the tile's streams stands. -/
theorem State.showIssued_status (s : State) (c t w : Nat) : (s.showIssued c t w).reg (INS_STATUS t) = s.reg (INS_STATUS t) := by
  have waitApart : INS_STATUS t ≠ NET_DL_WAIT t := by unfold INS_STATUS NET_DL_WAIT; omega
  refine (State.requestsWait_reg _ c t w waitApart).trans ((State.schedule_reg_ne _ c t _ _ (INS_STATUS_ne_INS_SLIP t)
    (INS_STATUS_ne_INS_SCHED t) (INS_STATUS_ne_INS_RA t)).trans ?_)
  exact s.reg_wr_ne (f := INS_RA.outstanding t) _ (INS_STATUS_ne_INS_RA t)

/-- An end word lands no data. -/
theorem awLands_of_end (ends : awOp w = 8) : awLands w = false := by
  unfold awLands
  rw [ends]
  rfl

/-- It takes no credits. -/
theorem awCredits_of_end (ends : awOp w = 8) : awCredits w = 0 := by
  unfold awCredits
  rw [ends]
  rfl

/-- It names no range that could raise a fault. -/
theorem State.accessFault_of_end (s : State) (c : Nat) (ends : awOp w = 8) : s.accessFault c w = 0 := by
  unfold State.accessFault
  rw [ends]
  rfl

/-- An end word that waits for no semaphore and stands within the window issues, and the access stream has ended. -/
theorem State.accessIssue_of_end (on : s.ctxOn t = some c) (step : (s.ctx c).step.isSome = true) (work : s.hasWork c t = true)
    (ungated : s.gated (tileField t) (tileRow t) = false) (sound : s.rd (INS_STATUS.stream t) ≠ 7)
    (goes : s.on (INS_STATUS.ra_ended t) = false) (next : (s.engOf c t).reissue = [])
    (isNext : s.accessWord c t (s.rd (INS_STATUS.access_pc t)) = w) (free : awWaits w = false) (ends : awOp w = 8)
    (near : awAt w ≤ s.rd (INS_SCHED.sched_cycle t) + ((s.ctx c).program.map Program.window).getD 0) :
    s.accessIssue t .clean = ((s.takeEndWord c t w).wr (INS_STATUS.ra_ended t) 1).showIssued c t w := by
  have lands : awLands w = false := awLands_of_end ends
  have affordable : ¬s.creditsFree c < awCredits w := by rw [awCredits_of_end ends]; exact Nat.not_lt_zero _
  have notSend : ¬(8 : Nat) = 7 := by decide
  cases program : (s.ctx c).program
  all_goals
    simp only [program, Option.map_none, Option.map_some, Option.getD_none, Option.getD_some] at near
    unfold State.accessIssue
    simp only [on, step, work, ungated, beq_eq_false_iff_ne.2 sound, sound, goes, next, isNext, program, free, Nat.not_lt.2 near, ends, lands,
      notSend, affordable, s.accessFault_of_end c ends, State.insEcc_clean, List.headD_nil, List.isEmpty_nil, Bool.and_self, Bool.not_true,
      Bool.and_false, Bool.false_and, Bool.or_self, Bool.false_eq_true, or_self, false_and, ne_eq, not_true_eq_false, if_false, if_true]
    rfl

/-- The access stream has then ended. -/
theorem State.accessIssue_ended (canon : s.Canon) : (((s.takeEndWord c t w).wr (INS_STATUS.ra_ended t) 1).showIssued c t w).on
    (INS_STATUS.ra_ended t) = true := by
  have shows : (((s.takeEndWord c t w).wr (INS_STATUS.ra_ended t) 1).showIssued c t w).rd (INS_STATUS.ra_ended t) = 1 :=
    (State.rd_congr (f := INS_STATUS.ra_ended t) (State.showIssued_status _ c t w)).trans
      (State.rd_wr (State.takeEndWord_canon canon).2 _ 1 (show 4 ≤ 64 by decide))
  unfold State.on
  rw [shows]
  rfl

/-! ### The completion of the oldest word in flight (R198) -/

/-- The oldest word in flight completes when it is ready. -/
theorem State.accessComplete_of_ready (on : s.ctxOn t = some c) {f : AccessFlight} {rest : List AccessFlight}
    (oldest : (s.engOf c t).flight = f :: rest) (ready : s.accessReady c f = true) (ecc : SramEcc) :
    s.accessComplete t ecc = s.completeHead c t f rest ecc := by
  unfold State.accessComplete
  simp only [on, oldest, ready, if_true]

/-- Over a stopped crossing of its tile a word moves no data (R234, R235; log 55). -/
theorem State.accessMove_of_stopped (stopped : (s.crossing 0 (s.phys t)).stopped = true) (f : AccessFlight) : s.accessMove c t f = s := by
  unfold State.accessMove
  simp only [stopped, Bool.or_true, if_true]

/-- The lines of a stack read are counted, and go from the stack to SRAM. -/
theorem State.accessMove_of_stackRead (runs : (s.crossing 0 (s.phys t)).stopped = false) (reads : awOp w = 1) (of_ : Option (Nat × Nat)) :
    let u := (s.wordTraffic c t w).wordLines t w
    s.accessMove c t ⟨w, false, false, of_⟩ =
      (u.rdUnits c (awRemote w) (awLen w)).2.wrSram c t (32 * awSram w) (u.rdUnits c (awRemote w) (awLen w)).1 := by
  unfold State.accessMove
  simp only [runs, reads, Bool.or_self, Bool.false_eq_true, if_false]

/-- The lines of an SRAM write are counted, and go from SRAM to the stack. -/
theorem State.accessMove_of_stackWrite (runs : (s.crossing 0 (s.phys t)).stopped = false) (writes : awOp w = 2) (of_ : Option (Nat × Nat)) :
    let u := (s.wordTraffic c t w).wordLines t w
    s.accessMove c t ⟨w, false, false, of_⟩ =
      u.wrUnits c (awRemote w) ((List.range (awLen w)).map fun i => u.rdLine c t (awSram w / 8 + i)) := by
  unfold State.accessMove
  simp only [runs, writes, Bool.or_self, Bool.false_eq_true, if_false]

end

end Sys2Proof.Machine

namespace Sys2Proof.Proofs.InstructionStream

open Sys2Proof.Machine

/-- Settles O44: an end word stores nothing (`exec_mem_of_storesNothing`) and shows that the stream has ended; the others as each hypothesis
picks the course that the command takes. -/
theorem accessWordsComplete : Obligations.AccessWordsComplete := by
  intro s t c up on
  refine ⟨fun step work ungated sound goes next => ?_, fun f rest ecc oldest ready => ?_, fun w of_ => ?_,
    fun w of_ stopped => State.accessMove_of_stopped stopped _⟩
  · intro w window free ends near _
    have issue := exec_accessWordIssue_of_up (t := t) up .clean
    refine ⟨_, issue, exec_mem_of_storesNothing rfl issue, fun canon _ => ?_⟩
    have inWindow : awAt w ≤ s.rd (INS_SCHED.sched_cycle t) + ((s.ctx c).program.map Program.window).getD 0 := by
      have same : window = ((s.ctx c).program.map Program.window).getD 0 := by
        unfold window
        cases (s.ctx c).program <;> rfl
      exact same ▸ near
    rw [State.accessIssue_of_end on step work ungated sound goes next rfl free ends inWindow]
    exact State.accessIssue_ended canon
  · rw [exec_accessWordComplete_of_up up, State.accessComplete_of_ready on oldest ready]
  · intro u runs
    exact ⟨fun reads => State.accessMove_of_stackRead runs reads of_, fun writes => State.accessMove_of_stackWrite runs writes of_⟩

end Sys2Proof.Proofs.InstructionStream
end

section
/-! SUPPORT. The on-wafer networks (spec/10_network_and_memory.md): in which state each event of a mesh link, an express lane and a down-link
takes which of its courses. -/

namespace Sys2Proof.Machine

section
variable {s : State} {t d c : Nat}

/-! ### Once the tile grid is up, an event of a link takes effect -/

theorem exec_meshLineReceive_of_up (up : s.up = true) (ok : Bool) : exec (.meshLineReceive t d ok) s = .next (s.meshReceive t d ok) :=
  congrArg Host.Outcome.next (if_pos up)

theorem exec_expressEdgeDrop_of_up (up : s.up = true) : exec (.expressEdgeDrop t d) s = .next (s.edgeDrop t d) :=
  congrArg Host.Outcome.next (if_pos up)

theorem exec_downlinkLineReceive_of_up (up : s.up = true) (ok : Bool) :
    exec (.downlinkLineReceive t ok) s = .next (s.downlinkLine t ok) := congrArg Host.Outcome.next (if_pos up)

theorem exec_downlinkRequestTimeout_of_up (up : s.up = true) : exec (.downlinkRequestTimeout t) s = .next (s.downlinkTimeout t) :=
  congrArg Host.Outcome.next (if_pos up)

/-! ### The first line of a mesh link's buffer (R207, R208, R209) -/

/-- A line whose parity fails is discarded, and its link and the fault are shown. -/
theorem State.meshReceive_of_badParity (on : s.ctxOn t = some c) {line : Bytes} {rest : List Bytes} (first : s.meshIn t d = line :: rest) :
    s.meshReceive t d false =
      (((s.setMeshIn t d rest).wr (NET_RT_STATUS.link_parity t) 1).wr (NET_RT_STATUS.parity_dir t) d).tileFault t 0x2A04 2 := by
  unfold State.meshReceive
  simp only [on, first, Bool.not_false, if_true]

/-- A sound line that no output names waits, counted at the tile it comes from. -/
theorem State.meshReceive_of_unnamed (on : s.ctxOn t = some c) {line : Bytes} {rest : List Bytes} (first : s.meshIn t d = line :: rest)
    (unnamed : s.outputsOf t (d + 1) = []) : s.meshReceive t d true = match s.neighbour? t d with
      | some u => s.count u (NET_MESH_WAIT.mesh_wait_cycles u (opposite d)) 1
      | none => s := by
  unfold State.meshReceive
  simp only [on, first, unnamed, List.isEmpty_nil, Bool.not_true, Bool.false_eq_true, if_false, if_true] <;> rfl

/-- A sound line leaves once every output that names its link has room: a place is free for the tile it came from, and the array's results
may take the outputs that it left. -/
theorem State.meshReceive_of_room (on : s.ctxOn t = some c) {line : Bytes} {rest : List Bytes} (first : s.meshIn t d = line :: rest)
    (named : s.outputsOf t (d + 1) ≠ []) (room : ((s.outputsOf t (d + 1)).all fun o => s.hasRoom c t o) = true) :
    let left := (s.setMeshIn t d rest).putOut c t (s.outputsOf t (d + 1)) line
    let refilled := match left.neighbour? t d with | some u => left.tileSends c u | none => left
    s.meshReceive t d true = if (refilled.engOf c t).outDrain.isEmpty then refilled else refilled.tileSends c t := by
  have noneFull : ((s.outputsOf t (d + 1)).filter fun o => !s.hasRoom c t o) = [] := List.filter_eq_nil_iff.2 (by simpa using room)
  unfold State.meshReceive
  simp only [on, first, noneFull, List.isEmpty_eq_false_iff.2 named, List.isEmpty_nil, Bool.not_true, Bool.false_eq_true, if_false] <;> rfl

/-- While an output that names its link is full a sound line waits, counted at every mesh output that is. -/
theorem State.meshReceive_of_full (on : s.ctxOn t = some c) {line : Bytes} {rest : List Bytes} (first : s.meshIn t d = line :: rest)
    (named : s.outputsOf t (d + 1) ≠ []) (full : ((s.outputsOf t (d + 1)).all fun o => s.hasRoom c t o) = false) :
    s.meshReceive t d true = (((s.outputsOf t (d + 1)).filter fun o => !s.hasRoom c t o).filter (· < 4)).foldl
      (fun (v : State) o => v.count t (NET_MESH_WAIT.mesh_wait_cycles t o) 1) s := by
  have someFull : ((s.outputsOf t (d + 1)).filter fun o => !s.hasRoom c t o) ≠ [] := by
    obtain ⟨o, names, noRoom⟩ := List.all_eq_false.1 full
    exact fun noneFull => List.filter_eq_nil_iff.1 noneFull o names (by simpa using noRoom)
  unfold State.meshReceive
  simp only [on, first, List.isEmpty_eq_false_iff.2 named, List.isEmpty_eq_false_iff.2 someFull, Bool.not_true, Bool.not_false,
    Bool.false_eq_true, if_false, if_true]

/-! ### A line that reaches the edge on a lane (R211, R213) -/

/-- The line that tile `t` injected is taken off the lane that has brought it to the edge, and the fault is raised. -/
theorem State.edgeDrop_of_found {e : Nat × List (Nat × Bytes)}
    (found : (s.net.express.find? fun e => e.1 % 4 == d && (s.neighbour? (e.1 / 4) d).isNone && e.2.any fun x => x.1 == t) = some e) :
    let dropped := ((s.setLane (e.1 / 4) d ((e.2.takeWhile fun x => x.1 != t) ++ (e.2.dropWhile fun x => x.1 != t).drop 1)).wr
      (NET_RT_STATUS.edge_drop t) 1).tileFault t 0x2A01 2
    s.edgeDrop t d = match dropped.ctxOn t with | some c => dropped.lanesFlow c | none => dropped := by
  unfold State.edgeDrop
  simp only [found] <;> rfl

/-! ### A line that comes over a down-link (R215, R218) -/

/-- A line for a gated tile waits in its field node. -/
theorem State.downlinkLine_of_gated (gated : s.gated (tileField t) (tileRow t) = true) (ok : Bool) :
    let counted := (s.inc (NET_UL_WAIT.ul_wait (tileField t) 4) 1).stir (NET_UL_WAIT.ul_wait (tileField t) 4).addr
    s.downlinkLine t ok = { counted with net := { counted.net with waiting := s.net.waiting ++ [(t, ok)] } } := if_pos gated

/-- The line now on tile `t`'s down-link has been sent again `n` times. -/
def State.withResends (s : State) (t n : Nat) : State := { s with net := { s.net with resends := Sparse.put 0 s.net.resends t n } }

/-- A line for a served tile whose clocks run is counted when its check passes; else it is sent again up to three times, and then its tile is
marked bad. -/
theorem State.downlinkLine_of_served (ungated : s.gated (tileField t) (tileRow t) = false) (served : s.unserved t = false)
    (runs : (s.crossing 0 (s.phys t)).stopped = false) (ok : Bool) :
    let failed := (s.withResends t 0).wr (NET_RT_STATUS.dl_error t) 1
    s.downlinkLine t ok =
      if ok then (s.count t (NET_DL_IN.dl_lines_in t) 1).withResends t 0
      else if Sparse.get 0 s.net.resends t < 3 then
        (s.count t (NET_DL_RETRY.dl_retries t) 1).withResends t (Sparse.get 0 s.net.resends t + 1)
      else (failed.tileFault t 0x2A02 2).markBad (failed.phys t) 0x2A02 true false := by
  unfold State.downlinkLine State.downlinkArrives
  simp only [ungated, served, runs, Bool.or_self, Bool.false_eq_true, if_false]
  rfl

/-! ### A request without reply (R217) -/

/-- The oldest request without reply completes without data, against the context that issued it. -/
theorem State.downlinkTimeout_of_issuer {k : Nat} (oldest : s.oldestIssuer t = some k) : s.downlinkTimeout t =
    ((({ s with hall := s.hall + s.rd NET_CFG.ul_timeout * 1000 }).modEng k t fun e => { e with flight := failRequest e.flight }).wr
      (NET_RT_STATUS.dl_timeout t) 1).fault 0x2A03 2 1 t (some k) (some (s.cpart k)) [] := by
  unfold State.downlinkTimeout
  simp only [oldest] <;> rfl

end

end Sys2Proof.Machine

namespace Sys2Proof.Proofs.NetworkAndMemory

open Sys2Proof.Machine

/-- Settles O48, event by event: each hypothesis picks the course that the event takes. -/
theorem networkEventsComplete : Obligations.NetworkEventsComplete := by
  intro s t d c up on
  have mesh {ok : Bool} {u : State} (course : s.meshReceive t d ok = u) : exec (.meshLineReceive t d ok) s = .next u :=
    (exec_meshLineReceive_of_up up ok).trans (congrArg Host.Outcome.next course)
  have downlink {ok : Bool} {u : State} (course : s.downlinkLine t ok = u) : exec (.downlinkLineReceive t ok) s = .next u :=
    (exec_downlinkLineReceive_of_up up ok).trans (congrArg Host.Outcome.next course)
  refine ⟨fun line rest first => mesh (State.meshReceive_of_badParity on first),
    fun line rest first named room => mesh (State.meshReceive_of_room on first named room),
    fun line rest first unnamed => mesh (State.meshReceive_of_unnamed on first unnamed),
    fun line rest first named full => mesh (State.meshReceive_of_full on first named full),
    fun e found => (exec_expressEdgeDrop_of_up up).trans (congrArg Host.Outcome.next (State.edgeDrop_of_found found)),
    fun gated ok => downlink (State.downlinkLine_of_gated gated ok), fun ungated served runs => ?_,
    fun k oldest => (exec_downlinkRequestTimeout_of_up up).trans (congrArg Host.Outcome.next (State.downlinkTimeout_of_issuer oldest))⟩
  have arrives (ok : Bool) := State.downlinkLine_of_served ungated served runs ok
  exact ⟨downlink (arrives true), fun few => downlink ((arrives false).trans (if_pos few)),
    fun many => downlink ((arrives false).trans (if_neg (Nat.not_lt.2 many)))⟩

end Sys2Proof.Proofs.NetworkAndMemory
end

section
/-! SUPPORT. The memory stacks and the heartbeat watchdog (spec/10_network_and_memory.md, spec/21_faults_recovery.md): in which state each of
their events takes which of its courses, and what a stack's line counter reads. -/

namespace Sys2Proof.Machine

section
variable {s : State} {k line : Nat}

/-! ### Once the tile grid is up, an event of a stack or of the watchdog takes effect -/

theorem exec_stackRequest_of_up (up : s.up = true) (write : Option Bytes) (r : Requester) (ecc : EccOutcome) :
    exec (.stackRequest k line write r ecc) s = .next (s.stackRequest k line write r ecc) := congrArg Host.Outcome.next (if_pos up)

theorem exec_stackScrubUnit_of_up (up : s.up = true) (ecc : EccOutcome) (bad : Nat) :
    exec (.stackScrubUnit k ecc bad) s = .next (s.scrubUnit k ecc bad) := congrArg Host.Outcome.next (if_pos up)

theorem exec_stackLost_of_up (up : s.up = true) : exec (.stackLost k) s = .next (s.loseStack k) := congrArg Host.Outcome.next (if_pos up)

theorem exec_heartbeatTimeout_of_up (up : s.up = true) (pt : Nat) (tile router : Bool) :
    exec (.heartbeatTimeout pt tile router) s = .next (s.heartbeat pt tile router) := congrArg Host.Outcome.next (if_pos up)

/-! ### What is poisoned while a line travels, is counted and is stored -/

@[simp] theorem State.underlay_poisoned (s : State) (a b : Nat × Nat) (n : Nat) (toTile : Bool) :
    (s.underlay a b n toTile).poisoned = s.poisoned := by
  unfold State.underlay
  extract_lets path forwarded waited
  have atNodes : forwarded.poisoned = s.poisoned := foldl_kept (P := fun u => u.poisoned = s.poisoned) rfl fun _ _ h => h
  have atOutputs : waited.poisoned = s.poisoned := foldl_kept (P := fun u => u.poisoned = s.poisoned) atNodes fun _ _ h => h
  exact ite_kept (P := fun u => u.poisoned = s.poisoned) atOutputs atOutputs

@[simp] theorem State.requestWay_poisoned (s : State) (k : Nat) (write : Bool) (r : Requester) :
    (s.requestWay k write r).poisoned = s.poisoned := by
  unfold State.requestWay
  extract_lets go
  have goes (u : State) (node : Nat × Nat) (tile : Bool) : (go u node tile).poisoned = u.poisoned :=
    ite_kept (P := fun v => v.poisoned = u.poisoned) (u.underlay_poisoned _ _ _ _) (u.underlay_poisoned _ _ _ _)
  cases r with
  | tile t => exact goes s (tileNode t) true
  | commandEngine => exact goes s bridgeNode false
  | portEngine c => exact goes (s.free 4).2 (portNode (s.free 4).1) false

@[simp] theorem State.stackCount_poisoned (s : State) (k n : Nat) (write : Bool) (p : Option Nat) :
    (s.stackCount k n write p).poisoned = s.poisoned := ite_kept (P := fun u => u.poisoned = s.poisoned) rfl rfl

@[simp] theorem State.wrBytes_poisoned (s : State) (a : Nat) (b : Bytes) : (s.wrBytes a b).poisoned = s.poisoned := by
  induction b generalizing s a with
  | nil => rfl
  | cons v b ih => exact ih (s.wrB a v) (a + 1)

/-! ### A request at a stack (R223, R224) -/

/-- A line written travels to its stack, counts there, is in memory, and is no longer poisoned. -/
theorem State.stackRequest_of_write (present : s.stackIn k = true) (inside : line < 500000000) (b : Bytes) (r : Requester) (ecc : EccOutcome) :
    let way := s.requestWay k true r
    s.stackRequest k line (some b) r ecc =
      { (way.stackCount k 1 true (way.requesterPart r)).wrBytes (stackAddr k (256 * line)) (padTo 256 b) with
        poisoned := s.poisoned.filter (· != poisonKey k line) } := by
  unfold State.stackRequest
  simp only [present, Nat.not_le.2 inside, Option.isSome_some, Bool.not_true, Bool.false_eq_true, or_self, if_false, State.wrBytes_poisoned,
    State.stackCount_poisoned, State.requestWay_poisoned]

/-- A line read travels from its stack and counts there; one that is poisoned, or that the check cannot correct, faults its requester, and one
that the check corrects is recorded. -/
theorem State.stackRequest_of_read (present : s.stackIn k = true) (inside : line < 500000000) (r : Requester) (ecc : EccOutcome) :
    let way := s.requestWay k false r
    let counted := way.stackCount k 1 false (way.requesterPart r)
    s.stackRequest k line none r ecc =
      if s.poisoned.contains (poisonKey k line) = true then counted.readFault k r
      else match ecc with
        | .clean => counted
        | .corrected => counted.eccCorrected k line
        | .uncorrectable => (counted.poison k line).readFault k r := by
  unfold State.stackRequest
  simp only [present, Nat.not_le.2 inside, Option.isSome_none, Bool.not_true, Bool.false_eq_true, or_self, if_false, State.stackCount_poisoned,
    State.requestWay_poisoned] <;> rfl

/-! ### The lines that a stack counts (R227) -/

/-- A counter raised reads the sum, or its largest value. -/
theorem State.rd_inc (canon : s.Canon) (f : RF) (n : Nat) (fits : f.lo + f.width ≤ 64) :
    (s.inc f n).rd f = min (s.rd f + n) (2 ^ f.width - 1) :=
  (State.rd_wr canon.2 f _ fits).trans (Nat.mod_eq_of_lt (Nat.lt_of_le_of_lt (Nat.min_le_right _ _)
    (Nat.sub_lt (Nat.two_pow_pos _) Nat.one_pos)))

/-- Lines counted raise their counter and move no other register. -/
theorem State.stackCount_reg (s : State) (k n : Nat) (write : Bool) (p : Option Nat) (a : Nat) : (s.stackCount k n write p).reg a =
    (s.inc (if write then STK_WR_LINES.write_lines k else STK_RD_LINES.read_lines k) n).reg a :=
  ite_kept (P := fun u => u.reg a = (s.inc _ n).reg a) rfl rfl

/-- Lines read raise the count of lines read. -/
theorem State.stackCount_read_lines (canon : s.Canon) (k n : Nat) (p : Option Nat) : (s.stackCount k n false p).rd (STK_RD_LINES.read_lines k) =
    min (s.rd (STK_RD_LINES.read_lines k) + n) (2 ^ 64 - 1) :=
  (State.rd_congr (f := STK_RD_LINES.read_lines k) (s.stackCount_reg k n false p _)).trans
    (State.rd_inc canon (STK_RD_LINES.read_lines k) n (le_refl 64))

/-! ### Scrubbing, and a stack that is lost (R225, R226) -/

/-- The next unit is scrubbed: progress goes on to the unit after it, an error corrected is recorded, and a unit that fails is reported with its
number. -/
theorem State.scrubUnit_of_enabled (present : s.stackIn k = true) (enabled : s.on (STK_SCRUB.scrub_en k) = true) (ecc : EccOutcome) (bad : Nat) :
    let unit := s.rd (STK_SCRUB.progress k)
    let next := s.wr (STK_SCRUB.progress k) (if unit + 1 < 31250000 then unit + 1 else 0)
    s.scrubUnit k ecc bad = match ecc with
      | .clean => next
      | .corrected => next.eccCorrected k (16 * unit + bad % 16)
      | .uncorrectable => (next.poison k (16 * unit + bad % 16)).fault 0x2A11 1 4 k none none (leB 4 unit) := by
  unfold State.scrubUnit
  simp only [present, enabled, Bool.not_true, Bool.or_self, Bool.false_eq_true, if_false] <;> rfl

/-- A stack is lost: it is shown, and every partition whose mask names it has its fault. -/
theorem State.loseStack_of_present (present : s.stackIn k = true) :
    let lost := (s.wrBit STK_PRESENT.failed k true).wr (STK_STATUS.lost k) 1
    s.loseStack k = ((List.range 32).filter fun p => lost.built p && bits (lost.rd (STK_PART_MAP.stack_mask p)) k 1 == 1).foldl
      (fun (u : State) p => u.fault 0x2A12 3 4 k none (some p) []) lost := by
  unfold State.loseStack
  simp only [present, Bool.not_true, Bool.false_eq_true, if_false]

/-! ### The heartbeat watchdog (R448) -/

/-- A tile of an ungated region whose heartbeat fails, and that runs no context, is marked bad once `wd_us` have passed. -/
theorem State.heartbeat_of_tile {pt : Nat} (ungated : s.gated (pt / 84) (pt % 84 / 14) = false) (router : Bool) :
    let late := { s with hall := s.hall + s.rd FLT_CFG.wd_us * 1000 }
    (late.logical pt).bind late.ctxOn = none → s.heartbeat pt true router = late.markBad pt 0x3501 true router := by
  intro late idle
  unfold State.heartbeat
  simp only [late] at idle
  simp only [ungated, idle, Bool.not_false, Bool.and_self, Bool.true_or, Bool.not_true, Bool.false_eq_true, if_false, late]

end

end Sys2Proof.Machine

namespace Sys2Proof.Proofs.NetworkAndMemory

open Sys2Proof.Machine

/-- Settles O49, event by event: each hypothesis picks the course that the event takes. -/
theorem stackEventsComplete : Obligations.StackEventsComplete := by
  intro s k line up present inside
  have read {r : Requester} {ecc : EccOutcome} {u : State} (course : s.stackRequest k line none r ecc = u) :
      exec (.stackRequest k line none r ecc) s = .next u :=
    (exec_stackRequest_of_up up none r ecc).trans (congrArg Host.Outcome.next course)
  refine ⟨fun b r ecc => ?_, fun r => ⟨fun sound => ?_, fun poisoned ecc => ?_⟩, fun n p canon => State.stackCount_read_lines canon k n p,
    fun bad enabled => ?_, fun unused => ?_, fun pt r ungated idle => ?_⟩
  · exact (exec_stackRequest_of_up up (some b) r ecc).trans (congrArg Host.Outcome.next (State.stackRequest_of_write present inside b r ecc))
  · have checked (ecc : EccOutcome) := (State.stackRequest_of_read present inside r ecc).trans (if_neg (Bool.eq_false_iff.1 sound))
    exact ⟨read (checked .clean), read (checked .corrected), read (checked .uncorrectable)⟩
  · exact read ((State.stackRequest_of_read present inside r ecc).trans (if_pos poisoned))
  · have scrubbed (ecc : EccOutcome) := (exec_stackScrubUnit_of_up up ecc bad).trans
      (congrArg Host.Outcome.next (State.scrubUnit_of_enabled present enabled ecc bad))
    exact ⟨scrubbed .clean, scrubbed .uncorrectable⟩
  · have course := (State.loseStack_of_present present).trans (congrArg (List.foldl _ _) unused)
    exact (exec_stackLost_of_up up).trans (congrArg Host.Outcome.next course)
  · exact (exec_heartbeatTimeout_of_up up pt true r).trans (congrArg Host.Outcome.next (State.heartbeat_of_tile ungated r idle))

end Sys2Proof.Proofs.NetworkAndMemory
end

section
/-! SUPPORT. The clock domain crossings (spec/11_clock_domains.md, chapter 11): what each of their events does to a crossing in each condition, and
what becomes of what waits in it. -/

namespace Sys2Proof.Machine

/-! ### A crossing's entry -/

/-- A crossing found by its number and unit carries both. -/
theorem State.crossing_id_unit (s : State) (c u : Nat) : (s.crossing c u).id = c ∧ (s.crossing c u).unit_ = u := by
  unfold State.crossing
  cases found : s.cdc.crossings.find? fun x => x.id == c && x.unit_ == u with
  | none => exact ⟨rfl, rfl⟩
  | some x => simpa using List.find?_some found

@[simp] theorem State.crossing_id (s : State) (c u : Nat) : (s.crossing c u).id = c := (s.crossing_id_unit c u).1
@[simp] theorem State.crossing_unit (s : State) (c u : Nat) : (s.crossing c u).unit_ = u := (s.crossing_id_unit c u).2

@[simp] theorem State.setCrossing_cmd (s : State) (x : Crossing) : (s.setCrossing x).cmd = s.cmd := rfl

/-- A crossing at which something waits reads as it was set. -/
theorem State.crossing_setCrossing (s : State) {x : Crossing} {c u : Nat} (id : x.id = c) (unit : x.unit_ = u) (waits : x.held ≠ []) :
    (s.setCrossing x).crossing c u = x := by
  subst id unit
  have listed : x ≠ { id := x.id, unit_ := x.unit_ } := fun e => waits (congrArg Crossing.held e)
  have found : (s.setCrossing x).cdc.crossings = (s.cdc.crossings.filter fun y => !(y.id == x.id && y.unit_ == x.unit_)) ++ [x] := if_neg listed
  have others : (s.cdc.crossings.filter fun y => !(y.id == x.id && y.unit_ == x.unit_)).find?
      (fun y => y.id == x.id && y.unit_ == x.unit_) = none := by
    simp only [List.find?_eq_none, List.mem_filter]
    rintro y ⟨-, other⟩ same
    simp [same] at other
  unfold State.crossing
  rw [found, List.find?_append, others]
  simp

/-! ### A transfer at a stopped crossing (R231, R235) -/

section
variable {s : State} {c u : Nat} {i : Instr}

/-- A transfer that comes to a stopped crossing fails at once. -/
theorem State.keep_of_stopped (stopped : (s.crossing c u).stopped = true) (data : isEvent i = false) : s.keep c u i = s := by
  unfold State.keep
  simp only [stopped, data, Bool.not_false, Bool.and_self, if_true]

/-- An event is counted, and waits behind what waits already. -/
theorem State.crossing_keep_of_event (event : isEvent i = true) :
    (s.keep c u i).crossing c u =
      { s.crossing c u with ahead := ((s.crossing c u).ahead + 1) % 2 ^ 32, held := (s.crossing c u).held ++ [i] } := by
  unfold State.keep
  simp only [event, Bool.not_true, Bool.and_false, Bool.false_eq_true, if_false, bit, if_true]
  exact s.crossing_setCrossing (s.crossing_id c u) (s.crossing_unit c u) (by simp)

end

/-! ### What waits in a crossing that stops (R234, R235) -/

/-- Where no firmware command waits on the crossing, none fails. -/
theorem State.failHeld_of_none {s : State} {c : Nat} (unheld : (s.cmd.runtime.any fun r => fwCrossing r.op == some c) = false) :
    s.failHeld c = s := by
  have others : ∀ r ∈ s.cmd.runtime, fwCrossing r.op ≠ some c := by simpa using unheld
  have failing : (s.cmd.runtime.filter fun r => fwCrossing r.op == some c) = [] := by simpa [List.filter_eq_nil_iff] using others
  have staying : (s.cmd.runtime.filter fun r => fwCrossing r.op != some c) = s.cmd.runtime := by simpa [List.filter_eq_self] using others
  unfold State.failHeld
  rw [failing, staying]
  rfl

/-- A single firmware command that waits on the crossing is answered with an error. -/
theorem State.failHeld_of_single {s : State} {c : Nat} {r : RtCmd} (held : s.cmd.runtime = [r]) (waits : fwCrossing r.op = some c) :
    s.failHeld c = ({ s with cmd := { s.cmd with runtime := [] } } : State).reply r.hdr r.op (0x0700 + Config.crossingError.toNat) := by
  unfold State.failHeld
  simp [held, waits]

/-- A crossing other than those of command intake stops: events counted stay, and firmware commands that wait on it fail. -/
theorem State.stopCrossing_of_ne (s : State) {c : Nat} (ne3 : c ≠ 3) (ne4 : c ≠ 4) (u : Nat) :
    let x := s.crossing c u
    s.stopCrossing x = (s.setCrossing { x with wake := none, stopped := true, held := x.held.filter isEvent }).failHeld c := by
  unfold State.stopCrossing
  simp only [State.crossing_id, ne3, ne4, or_self, if_false, List.foldl_nil]

/-! ### The courses of a time-out (R234 to R236) -/

section
variable {s : State} {c u : Nat}

/-- A second time-out of a crossing already stopped does nothing. -/
theorem State.crossingTimeout_of_stopped (stopped : (s.crossing c u).stopped = true) : s.crossingTimeout c u = s :=
  if_pos (by simp [stopped])

/-- A crossing into a gated tile never times out. -/
theorem State.crossingTimeout_of_intoGated (gated : s.intoGated c u = true) : s.crossingTimeout c u = s :=
  if_pos (by simp [gated])

/-- A crossing of a powered module that runs, and is none into a gated tile, stops and takes its action. -/
theorem State.crossingTimeout_of_runs (powered : s.powered = true) (hc : c ≤ 11) (runs : (s.crossing c u).stopped = false)
    (due : privileged c = false ∨ ((s.crossing c u).wake = none ∧ s.clockStopped c = false)) (ungated : s.intoGated c u = false) :
    s.crossingTimeout c u =
      (((s.stopCrossing (s.crossing c u)).wrBit CDC_STOPPED.timed_out c true).crossingLast c).crossingAction c u := by
  have inRange : ¬11 < c := Nat.not_lt.2 hc
  unfold State.crossingTimeout
  cases due with
  | inl ordinary => simp [powered, inRange, runs, ungated, ordinary]
  | inr awake => simp [powered, inRange, runs, ungated, awake]

/-- A privileged crossing whose receiving clock is stopped raises its wake instead. -/
theorem State.crossingTimeout_of_asleep (powered : s.powered = true) (hc : c ≤ 11) (runs : (s.crossing c u).stopped = false)
    (priv : privileged c = true) (quiet : (s.crossing c u).wake = none) (ungated : s.intoGated c u = false) (asleep : s.clockStopped c = true) :
    s.crossingTimeout c u = s.raiseWake c u := by
  have inRange : ¬11 < c := Nat.not_lt.2 hc
  unfold State.crossingTimeout
  simp [powered, inRange, runs, ungated, priv, quiet, asleep]

/-- Crossing 0 leads into the tile of a gated region, and crossing 5 likewise. -/
theorem State.intoGated_zero (gated : s.gated (u / 84) (u % 84 / 14) = true) : s.intoGated 0 u = true := by
  simp [State.intoGated, gated]

theorem State.intoGated_five (gated : s.gated (tileField u) (tileRow u) = true) : s.intoGated 5 u = true := by
  simp [State.intoGated, gated]

/-! ### Wakes and their failure (R236, R237) -/

theorem State.raiseWake_of_quiet (quiet : (s.crossing c u).wake = none) :
    s.raiseWake c u = (s.setCrossing { s.crossing c u with wake := some s.hall }).inc CDC_WAKES.wakes 1 := by
  unfold State.raiseWake
  simp only [quiet, Option.isSome_none, Bool.false_eq_true, if_false]

/-- A wake that is already pending adds nothing. -/
theorem State.raiseWake_of_pending (pending : (s.crossing c u).wake.isSome = true) : s.raiseWake c u = s := if_pos pending

theorem State.crossingWake_of_asleep (powered : s.powered = true) (priv : privileged c = true) (asleep : s.clockStopped c = true)
    (runs : (s.crossing c u).stopped = false) : s.crossingWake c u = s.raiseWake c u :=
  if_pos (by simp [powered, priv, asleep, runs])

theorem State.crossingWake_of_awake (awake : s.clockStopped c = false) : s.crossingWake c u = s :=
  if_neg (by simp [awake])

/-- A wake raised at `since` fails: the crossing stops, and its fault says so. -/
theorem State.wakeTimeout_of_pending (powered : s.powered = true) (hc : c ≤ 11) {since : Nat} (pending : (s.crossing c u).wake = some since) :
    let late : State := { s with hall := max s.hall (since + s.rd CDC_CFG.wake_timeout * 1000) }
    let t := ((late.stopCrossing (s.crossing c u)).wrBit CDC_STOPPED.wake_failed c true).crossingLast c
    s.wakeTimeout c u = if c = 11 then t.fault 0x2B02 1 0 0 none none [] else t.crossingFault5 0x2B02 := by
  have inRange : ¬11 < c := Nat.not_lt.2 hc
  unfold State.wakeTimeout
  simp [powered, inRange, pending]

/-! ### A restart (R235, R236) -/

/-- What a restart does for its crossing beyond clearing `stopped`: the link's adapter or the debug logic runs again. -/
def State.clocksRun (s : State) (c : Nat) : State :=
  let s := if c = 3 ∨ c = 4 then { s with pins := { s.pins with uciIdle := false } } else s
  if c = 11 then { s with cdc := { s.cdc with debugRuns := s.rd SEC_STATUS.debug_level != 0 } } else s

theorem State.clocksRun_of_ne (ne3 : c ≠ 3) (ne4 : c ≠ 4) (ne11 : c ≠ 11) : s.clocksRun c = s := by
  simp only [State.clocksRun, ne3, ne4, ne11, or_self, if_false]

theorem State.clocksRun_of_intake (intake : c = 3 ∨ c = 4) : s.clocksRun c = { s with pins := { s.pins with uciIdle := false } } := by
  have ne11 : c ≠ 11 := by omega
  simp only [State.clocksRun, intake, ne11, if_true, if_false]

/-- A crossing that delivers nothing of its own runs again, with what it has counted. -/
theorem State.crossingRestart_of_ne (powered : s.powered = true) (hc : c ≤ 11) (ne5 : c ≠ 5) (ne8 : c ≠ 8) :
    s.crossingRestart c u = (s.clocksRun c).setCrossing { s.crossing c u with stopped := false, wake := none } := by
  have inRange : ¬11 < c := Nat.not_lt.2 hc
  unfold State.crossingRestart State.clocksRun
  simp [powered, inRange, ne5, ne8]

/-- Crossing 5 delivers the tick starts counted. -/
theorem State.crossingRestart_five (powered : s.powered = true) :
    s.crossingRestart 5 u =
      (s.setCrossing { s.crossing 5 u with stopped := false, wake := none, ahead := 0 }).lateTick u (s.crossing 5 u).ahead := by
  unfold State.crossingRestart
  simp [powered]

/-- Crossing 8 delivers the reports counted. -/
theorem State.crossingRestart_eight (powered : s.powered = true) :
    s.crossingRestart 8 u = (s.setCrossing { s.crossing 8 u with stopped := false, wake := none, ahead := 0 }).lateReports := by
  unfold State.crossingRestart
  simp [powered]

end

end Sys2Proof.Machine

namespace Sys2Proof.Proofs.ClockDomains

open Sys2Proof.Machine

/-- Settles O39, event by event: each hypothesis picks the course that the event takes. -/
theorem crossingEventsComplete : Obligations.CrossingEventsComplete := by
  intro s c u powered hc x
  have timeout {c u : Nat} {t : State} (course : s.crossingTimeout c u = t) : exec (.crossingTimeout c u) s = .next t :=
    congrArg Host.Outcome.next course
  have wake {t : State} (course : s.crossingWake c u = t) : exec (.crossingWake c u) s = .next t := congrArg Host.Outcome.next course
  have restart {t : State} (course : s.crossingRestart c u = t) : exec (.crossingRestart c u) s = .next t :=
    congrArg Host.Outcome.next course
  refine ⟨fun stopped => timeout (State.crossingTimeout_of_stopped stopped),
    fun runs due ungated => timeout (State.crossingTimeout_of_runs powered hc runs due ungated), fun ne3 ne4 => ?_,
    fun _ gated => timeout (State.crossingTimeout_of_intoGated (State.intoGated_zero gated)),
    fun gated => timeout (State.crossingTimeout_of_intoGated (State.intoGated_five gated)),
    fun priv runs quiet ungated asleep => timeout (State.crossingTimeout_of_asleep powered hc runs priv quiet ungated asleep),
    fun priv asleep runs => ?_, fun since pending => congrArg Host.Outcome.next (State.wakeTimeout_of_pending powered hc pending),
    fun _ awake => wake (State.crossingWake_of_awake awake), fun ne3 ne4 ne5 ne8 ne11 => ?_, fun intake => ?_, ?_, ?_, ?_,
    fun stopped i => ⟨State.keep_of_stopped stopped, State.crossing_keep_of_event⟩⟩
  · intro t
    have stop : s.stopCrossing x = t.failHeld c := s.stopCrossing_of_ne ne3 ne4 u
    exact ⟨fun unheld => stop.trans (State.failHeld_of_none unheld), fun r held waits => stop.trans (State.failHeld_of_single held waits)⟩
  · have woken := State.crossingWake_of_asleep powered priv asleep runs
    exact ⟨fun quiet => wake (woken.trans (State.raiseWake_of_quiet quiet)),
      fun pending => wake (woken.trans (State.raiseWake_of_pending pending))⟩
  · have run := State.crossingRestart_of_ne (u := u) powered hc ne5 ne8
    rw [State.clocksRun_of_ne ne3 ne4 ne11] at run
    exact restart run
  · have run := State.crossingRestart_of_ne (u := u) powered hc (by omega) (by omega)
    rw [State.clocksRun_of_intake intake] at run
    exact restart run
  · rintro rfl
    exact restart (State.crossingRestart_of_ne powered hc (by decide) (by decide))
  · rintro rfl
    exact restart (State.crossingRestart_five powered)
  · rintro rfl
    exact restart (State.crossingRestart_eight powered)

end Sys2Proof.Proofs.ClockDomains
end

section
/-! SUPPORT. Command intake before its fourth check (spec/11_clock_domains.md and spec/16_command_interface.md): what becomes of a packet that a
stopped crossing drops, that waits for the link, or whose sender holds no credit, whatever its command; and of one that fails check 1, 2 or 3. -/

namespace Sys2Proof.Machine

/-! ### A packet that no check of intake sees -/

/-- The packet of header `h` is not taken, and leaves the module as `t`: it is dropped, waits as `cmd`, or finds no credit (R234, R235, R338,
R340, R341). `fits` is what is known of the packet's fields where the credits of its channel are looked at. -/
inductive State.Untaken (s : State) (h : Hdr) (cmd : Instr) (fits : Prop) : State → Prop
  | unheard (closed : s.linkUp = false ∨ s.unrelayed h = true) : Untaken s h cmd fits s
  | waits (linkUp : s.linkUp = true) (relayed : s.unrelayed h = false) (asleep : s.linkHolds = true) : Untaken s h cmd fits (s.holdPacket cmd)
  | overrun (linkUp : s.linkUp = true) (relayed : s.unrelayed h = false) (awake : s.linkHolds = false) (fit : fits)
      (noCredit : (s.arrive h).overrun h = true) : Untaken s h cmd fits ((s.arrive h).wr CMD_STATUS.overrun 1)

section
variable {s t : State} {h : Hdr} {cmd : Instr} {fits : Prop}

/-- A command of the command engine that is not taken leaves no more than its packet does. -/
theorem State.Untaken.command (untaken : s.Untaken h cmd fits t) {op : Nat} {lenOk : Bool} {sc : Scope} {param : State → Nat}
    {effect : State → State} : s.command cmd h op lenOk sc param effect = t := by
  unfold State.command
  cases untaken with
  | unheard closed => exact if_pos (by simpa using closed)
  | waits linkUp relayed asleep => simp [linkUp, relayed, asleep]
  | overrun linkUp relayed awake _ noCredit => simp [linkUp, relayed, awake, noCredit]

/-- So does one of the runtime firmware. -/
theorem State.Untaken.fwCommand (untaken : s.Untaken h cmd fits t) {f : Fw} : s.fwCommand h f cmd = t := by
  unfold State.fwCommand
  cases untaken with
  | unheard closed => exact if_pos (by simpa using closed)
  | waits linkUp relayed asleep => simp [linkUp, relayed, asleep]
  | overrun linkUp relayed awake _ noCredit => simp [linkUp, relayed, awake, noCredit]

/-! ### An admission: no count of its own checks -/

/-- The count of a management port's relayed packets stands apart from a channel's credits. -/
theorem State.arrive_overrun (s : State) (channel : h.channel < 8) : (s.arrive h).overrun h = s.overrun h := by
  let credits (u : State) : Prop := u.rd (CMD_CHAN_STATUS.outstanding h.channel) = s.rd (CMD_CHAN_STATUS.outstanding h.channel)
  have counted (u : State) (m : Nat) (e : credits u) : credits (u.inc (CMD_MGMT_COUNTS.relayed m) 1) :=
    (State.rd_wr_ne u _ (by simp only [CMD_CHAN_STATUS.outstanding, CMD_MGMT_COUNTS.relayed, CMD_CHAN_STATUS, CMD_MGMT_COUNTS]; omega)).trans e
  have same : credits (s.arrive h) := ite_kept (foldl_kept rfl fun u m e => ite_kept (counted u m e) e) rfl
  unfold State.overrun
  rw [same]

/-- A command that is not taken does not reach its own parameter checks. -/
theorem State.Untaken.reachesCheck (untaken : s.Untaken h cmd fits t) (channel : fits → h.channel < 8) (op : Nat) (lenOk : Bool)
    (sc : Scope) : s.reachesCheck h op lenOk sc = false := by
  unfold State.reachesCheck
  cases untaken with
  | unheard closed => cases closed with
    | inl down => simp [down]
    | inr unrelayed => simp [unrelayed]
  | waits linkUp relayed asleep => simp [asleep]
  | overrun linkUp relayed awake fit noCredit => simp [← State.arrive_overrun s (channel fit), noCredit]

theorem State.Untaken.sequenceAdmit {r : AdmitReq} (untaken : s.Untaken h (.sequenceAdmit h r) fits t) (channel : fits → h.channel < 8) :
    s.sequenceAdmit h r = t := by
  unfold State.sequenceAdmit
  rw [untaken.reachesCheck channel, untaken.command]
  rfl

/-! ### A quote: no body is kept -/

@[simp] theorem State.arrive_cmd (s : State) (h : Hdr) : (s.arrive h).cmd = s.cmd :=
  ite_kept (P := fun t => t.cmd = s.cmd)
    (foldl_kept (P := fun t => t.cmd = s.cmd) rfl fun _ _ e => ite_kept (P := fun t => t.cmd = s.cmd) e e) rfl

@[simp] theorem State.raiseWake_cmd (s : State) (c u : Nat) : (s.raiseWake c u).cmd = s.cmd :=
  ite_kept (P := fun t => t.cmd = s.cmd) rfl rfl

@[simp] theorem State.holdPacket_cmd (s : State) (i : Instr) : (s.holdPacket i).cmd = s.cmd := by
  have woken : s.wakeLink.cmd = s.cmd := ite_kept (P := fun t => t.cmd = s.cmd) (by simp) rfl
  exact ite_kept (P := fun t => t.cmd = s.cmd) woken woken

/-- A packet that is not taken leaves the channels and the commands held as they were. -/
theorem State.Untaken.cmd_eq (untaken : s.Untaken h cmd fits t) : t.cmd = s.cmd := by
  cases untaken with
  | unheard => rfl
  | waits => exact s.holdPacket_cmd cmd
  | overrun => exact s.arrive_cmd h

theorem State.Untaken.keepBody (untaken : s.Untaken h cmd fits t) (nonce : Bytes) (ctx session : Nat) : t.keepBody s h nonce ctx session = t :=
  if_neg (by simp [untaken.cmd_eq])

end

/-- Whatever its command, a packet that is not taken leaves no more than its packet does. -/
theorem exec_of_untaken {i : Instr} {h : Hdr} (packet : i.hdr? = some h) :
    ∃ cmd : Instr, ∀ s t : State, s.Untaken h cmd (i.wf = true) t → exec i s = .next t := by
  cases i with
  | deviceIdentity | echo | configurationRead | configurationWrite | tilNumStatusClearCount | tilSramEccClearCount | tilCounterCtrlClearAll
  | aryQueueSelWrite | bwdCtrlClearTags | stkEccClearCount | tilRowMapWrite | calBistCtrlStart | portEnable | portDisable | mgmtAddressWrite
  | sliceTableSet | contextPreEmpt | freeAreaQuery | slowdownRead | programData | programFetch | weightSetCommit | weightSetSwitch
  | sequenceCancel | sequenceQuery | trainingStep | streamClose | tickSetDirect | tickSetEffective | timeStep | timeStatus | counterSnapshot
  | faultLogRead | traceDisable | resultRead | resultRelease | retentionSet =>
    cases packet
    exact ⟨_, fun s t untaken => congrArg Host.Outcome.next untaken.command⟩
  | partitionBuild | partitionDissolve | partitionRelocate | contextCreate | contextDestroy | programOpen | programCommit | weightSetOpen
  | storageRead | weightSetRelease | weightSetDigest | adapterLoad | adapterDrop | storageConnect | storageDisconnect | servingConfigure
  | ringConfigure | rosterTree | jobStartStatus | inputLogRead | inputLogConfigure | inputLogLoad | jobStartArm | jobStartBroadcast
  | streamOpen | mirrorConfigure | mirrorAccept | sensorRead | measurementRead | measurementExtend | certificateRead | quoteRead
  | sessionEstablishKey | sessionEstablishCiphertext | streamKeySet | debugUnlockChallenge | debugUnlockResponse | firmwareUpdateInstall
  | firmwareUpdateStage | firmwareUpdateFloor | keyEnrolment | traceEnable | powerCapSet | thermalStatus | calibrationRead
  | calibrationWrite | calibrationCommit | calibrationRestore =>
    cases packet
    exact ⟨_, fun s t untaken => congrArg Host.Outcome.next untaken.fwCommand⟩
  | sequenceAdmit =>
    cases packet
    exact ⟨_, fun s t untaken => congrArg Host.Outcome.next (untaken.sequenceAdmit fun wf => (Hdr.wf_channel wf).1)⟩
  | attestationQuote h nonce ctx session =>
    cases packet
    refine ⟨.attestationQuote h nonce ctx session, fun s t untaken => congrArg Host.Outcome.next ?_⟩
    rw [untaken.fwCommand, untaken.keepBody]
  | _ => cases packet

/-! ### A packet that fails check 1, 2 or 3 (Table 16-2) -/

/-- An entry set to what no unlisted key holds reads as it was set, in any table. -/
theorem Sparse.get_put_listed {α : Type} [DecidableEq α] {d v : α} (listed : v ≠ d) (l : List (Nat × α)) (k : Nat) :
    Sparse.get d (Sparse.put d l k v) k = v := by
  induction l with
  | nil => simp [Sparse.put, Sparse.get, listed]
  | cons e t ih =>
    obtain ⟨j, w⟩ := e
    unfold Sparse.put
    split
    · simp [Sparse.get]
    · split
      · simp [Sparse.get]
      · next ne => simpa [Sparse.get, Ne.symm ne] using ih

/-- A channel that owes a credit reads as it was set. -/
theorem State.chan_setChan_of_owed (s : State) (ch : Nat) {v : Chan} (owed : v.owed ≠ 0) : (s.setChan ch v).chan ch = v :=
  Sparse.get_put_listed (fun e => owed (congrArg Chan.owed e)) s.cmd.chans ch

section
variable {s t : State} {p : Bytes}

/-- The packet fails check 1, 2 or 3. -/
def BadlyFormed (p : Bytes) : Prop := packetCrcOk p = false ∨ leAt p 0 1 ≠ 1 ∨ opcodeAssigned (leAt p 2 2) = false

/-- The status that checks 2 and 3 give a packet, 0 where it passes both. -/
def formStatus (p : Bytes) : Nat := if leAt p 0 1 ≠ 1 then 0x0101 else if opcodeAssigned (leAt p 2 2) then 0 else 0x0103

/-- A packet that fails a check is not taken for the command of another row. -/
theorem BadlyFormed.not_passes (bad : BadlyFormed p) : (packetCrcOk p && formStatus p == 0) = false := by
  unfold formStatus
  rcases bad with crc | version | opcode
  · simp [crc]
  · simp [version]
  · simp only [opcode, Bool.false_eq_true, if_false]
    split <;> simp

/-- A packet that does not come through leaves nothing, whatever its checks. -/
theorem State.badPacket_of_unheard (closed : s.linkUp = false ∨ s.unrelayed (packetHdr p) = true) : s.badPacket p = s :=
  if_pos (by simp only [Bool.or_eq_true, Bool.not_eq_true']; exact .inl closed)

/-- One that fails a check and is not taken leaves no more than any packet does. -/
theorem State.Untaken.badPacket (untaken : s.Untaken (packetHdr p) (.opcodeUnassigned p none) True t) (bad : BadlyFormed p) :
    s.badPacket p = t := by
  have failed := bad.not_passes
  unfold formStatus at failed
  cases untaken with
  | unheard closed => exact State.badPacket_of_unheard closed
  | waits linkUp relayed asleep =>
    unfold State.badPacket
    simp only [failed, linkUp, relayed, asleep, Bool.not_true, Bool.or_self, Bool.false_eq_true, if_false, if_true]
  | overrun linkUp relayed awake _ noCredit =>
    unfold State.badPacket
    simp only [failed, linkUp, relayed, awake, noCredit, Bool.not_true, Bool.or_self, Bool.false_eq_true, if_false, if_true]

/-- What a packet of header `h` whose trailer fails leaves: it is counted, and its credit is owed to the next packet on its channel. -/
def State.discardPacket (s : State) (h : Hdr) : State :=
  let c := s.chan h.channel
  ((s.inc (CMD_CHAN_COUNTS.crc_discards h.channel) 1).wr CMD_STATUS.crc_error 1).setChan h.channel { c with owed := c.owed + 1 }

/-- One that has arrived and found a credit is discarded where its trailer fails, and else refused with the status of its form. -/
theorem State.badPacket_of_credit (bad : BadlyFormed p) (linkUp : s.linkUp = true) (relayed : s.unrelayed (packetHdr p) = false)
    (awake : s.linkHolds = false) (credit : (s.arrive (packetHdr p)).overrun (packetHdr p) = false) :
    s.badPacket p = if packetCrcOk p = false then (s.taken (packetHdr p)).discardPacket (packetHdr p)
      else (s.taken (packetHdr p)).refuse (packetHdr p) (leAt p 2 2) (formStatus p) := by
  have failed := bad.not_passes
  unfold formStatus at failed
  unfold State.badPacket
  simp only [failed, linkUp, relayed, awake, credit, Bool.not_true, Bool.or_self, Bool.false_eq_true, if_false, Bool.not_eq_true']
  rfl

/-- A sound trailer leaves the other two checks. -/
theorem BadlyFormed.formStatus_eq (bad : BadlyFormed p) (crc : packetCrcOk p = true) :
    formStatus p = if leAt p 0 1 ≠ 1 then 0x0101 else 0x0103 := by
  unfold formStatus
  rcases bad with broken | version | opcode
  · simp [crc] at broken
  · simp [version]
  · simp [opcode]

end

@[simp] theorem State.discardPacket_chan (s : State) (h : Hdr) :
    (s.discardPacket h).chan h.channel = { s.chan h.channel with owed := (s.chan h.channel).owed + 1 } :=
  State.chan_setChan_of_owed _ _ (Nat.succ_ne_zero _)

end Sys2Proof.Machine

namespace Sys2Proof.Proofs.ClockDomains

open Sys2Proof.Machine

/-- Settles O10: a packet that is not taken leaves the same whatever its command (`exec_of_untaken`), and one that fails check 1, 2 or 3 is
discarded or refused once it has found a credit (`State.badPacket_of_credit`). -/
theorem packetsNotTaken : Obligations.PacketsNotTaken := by
  refine ⟨fun i h s packet closed => ?_, fun i h s packet linkUp relayed asleep => ?_,
    fun i h s wf packet linkUp relayed awake noCredit => ?_, fun s p => ?_⟩
  · obtain ⟨cmd, leaves⟩ := exec_of_untaken packet
    exact leaves s _ (.unheard closed)
  · obtain ⟨cmd, leaves⟩ := exec_of_untaken packet
    exact ⟨cmd, leaves s _ (.waits linkUp relayed asleep)⟩
  · obtain ⟨cmd, leaves⟩ := exec_of_untaken packet
    exact leaves s _ (.overrun linkUp relayed awake wf noCredit)
  · have course {t : State} (e : s.badPacket p = t) : exec (.opcodeUnassigned p none) s = .next t := congrArg Host.Outcome.next e
    refine ⟨fun closed => course (State.badPacket_of_unheard closed), fun linkUp relayed bad =>
      ⟨fun asleep => course (State.Untaken.badPacket (.waits linkUp relayed asleep) bad),
      fun awake noCredit => course (State.Untaken.badPacket (.overrun linkUp relayed awake trivial noCredit) bad),
      fun awake credit => ?_⟩⟩
    have taken := State.badPacket_of_credit bad linkUp relayed awake credit
    refine ⟨fun broken => ⟨_, course (taken.trans (if_pos broken)), ?_, ?_⟩, fun sound => course ?_⟩
    · rw [State.discardPacket_chan]
    · simp only [State.packets, State.discardPacket_chan]
    · rw [taken, if_neg (by simp [sound]), BadlyFormed.formStatus_eq bad sound]

end Sys2Proof.Proofs.ClockDomains
end

section
/-! SUPPORT. Gradient reduction (spec/12_gradient_reduction.md): in which state each of the training events takes which of its courses, and what a
peer's control message does. -/

namespace Sys2Proof.Machine

section
variable {s : State}

/-! ### Once the tile grid is up, an event of a training step takes effect -/

theorem exec_inputLogCopyComplete_of_up (up : s.up = true) (c : Nat) :
    exec (.inputLogCopyComplete c) s = .next (s.copyComplete c) := congrArg Host.Outcome.next (if_pos up)

theorem exec_contributionReceived_of_up (up : s.up = true) (c child step attempt : Nat) :
    exec (.contributionReceived c child step attempt) s = .next (s.contribution c child step attempt) :=
  congrArg Host.Outcome.next (if_pos up)

theorem exec_hopDeadlineExpiry_of_up (up : s.up = true) (c : Nat) : exec (.hopDeadlineExpiry c) s = .next (s.hopExpiry c) :=
  congrArg Host.Outcome.next (if_pos up)

theorem exec_rootDeadlineExpiry_of_up (up : s.up = true) (c : Nat) : exec (.rootDeadlineExpiry c) s = .next (s.rootExpiry c) :=
  congrArg Host.Outcome.next (if_pos up)

theorem exec_verdictTimeout_of_up (up : s.up = true) (c : Nat) : exec (.verdictTimeout c) s = .next (s.verdictTimeout c) :=
  congrArg Host.Outcome.next (if_pos up)

theorem exec_mirrorBehind_of_up (up : s.up = true) (c : Nat) : exec (.mirrorBehind c) s = .next (s.mirrorBehind c) :=
  congrArg Host.Outcome.next (if_pos up)

/-! ### What comes in at a port, and a control message (R374) -/

/-- What comes in takes effect at once. -/
theorem State.arriveFor_of_comesIn {p : Nat} (comes : comesIn s p) (i : Instr) (act : State → State) : s.arriveFor p i act = act s := by
  obtain ⟨up, link, passes, hears⟩ := comes
  unfold State.arriveFor State.arriveAt
  simp only [up, link, passes, hears, bne_self_eq_false, Bool.not_true, Bool.false_and, Bool.or_self, Bool.false_eq_true, if_false, if_true]

section
variable {peer id : Nat} (comes : comesIn s (s.ctrlPort peer))
include comes

/-- A control message heard for the first time is answered, noted, and acted on. -/
theorem State.ctrlOnce_of_new (new : s.fab.ctrlSeen.contains (peer, id) = false) (i : Instr) (act : State → State) :
    s.ctrlOnce peer id i act = act (ctrlFirst s peer id) :=
  (State.arriveFor_of_comesIn comes i _).trans (if_neg (Bool.eq_false_iff.1 new))

/-- A repeat is only answered. -/
theorem State.ctrlOnce_of_seen (seen : s.fab.ctrlSeen.contains (peer, id) = true) (i : Instr) (act : State → State) :
    s.ctrlOnce peer id i act = ctrlHeard s peer id :=
  (State.arriveFor_of_comesIn comes i _).trans (if_pos seen)

end

/-! ### The copy of a step's inputs (R458) -/

section
variable {c step : Nat} {rest : List Nat} (oldest : (s.ctx c).copies = step :: rest)
include oldest

/-- The oldest copy of inputs that no poisoned line touches: they stand in the step's entry, their digest in its header. -/
theorem State.copyComplete_of_sound :
    let n := inputBytes (s.rd (FLT_CTX_ILOG_CFG.entry_units c))
    let from_ := 256 * (s.ctx c).ilogInput
    let data := s.rdPart (s.cpart c) from_ n
    let stored := (s.readLines (s.cpart c) from_ n).wrPart (s.cpart c) (256 * s.ilogSlot c step + 256) data
    let headed := stored.wrPart (s.cpart c) (256 * s.ilogSlot c step + 144) (sha256 data)
    s.partPoisoned (s.cpart c) from_ n = false → s.copyComplete c = (headed.wr (FLT_CTX_ILOG_STEP.copied_step c) step).modCtx c fun k =>
      { k with copies := rest, lateSteps := k.lateSteps.filter (· != step) } := by
  intro n from_ data stored headed sound
  unfold State.copyComplete
  simp only [oldest]
  exact if_neg (Bool.eq_false_iff.1 sound)

/-- The oldest copy of inputs with a poisoned line fails. -/
theorem State.copyComplete_of_poisoned
    (poisoned : s.partPoisoned (s.cpart c) (256 * (s.ctx c).ilogInput) (inputBytes (s.rd (FLT_CTX_ILOG_CFG.entry_units c))) = true) :
    s.copyComplete c = (s.copyFails c step).modCtx c fun k => { k with copies := rest, lateSteps := k.lateSteps.filter (· != step) } := by
  unfold State.copyComplete
  simp only [oldest]
  exact if_pos poisoned

end

/-! ### A running attempt of a context with a roster node (R258, R259, R261, R263) -/

section
variable {c : Nat} {n : Bytes} {x : Train} (node : (s.ctx c).node = some n) (train : (s.ctx c).train = some x) (running : x.voided = false)
include node train running

/-- A contribution is stale unless it is of the running attempt; one of it is held to the hop's deadline. -/
theorem State.contribution_of_running (child step attempt : Nat) : s.contribution c child step attempt =
    if x.req.step = step ∧ x.attempt = attempt then
      if s.lastStamp c child ≤ s.hopDeadline c n then
        s.modTrain c fun x => { x with got := if x.got.contains child then x.got else x.got ++ [child] }
      else s.missed c 1 (nodeChild n child)
    else s.inc (RED_COUNTS.stale_discards c) 1 := by
  unfold State.contribution
  simp only [node, train, running, Bool.not_false, and_true]

/-- The hop's deadline names every child that is missing. -/
theorem State.hopExpiry_of_running : s.hopExpiry c = (missingChildren n x).foldl (fun s i => s.missed c 2 (nodeChild n i))
    { s with hall := max s.hall (s.hopDeadline c n) } := by
  unfold State.hopExpiry
  simp only [node, train]
  exact if_neg (Bool.eq_false_iff.1 running)

/-- The root's own step is late where every contribution is complete. -/
theorem State.rootExpiry_of_complete (root : nodeIsRoot n = true) (complete : missingChildren n x = []) :
    let late := { s with hall := max s.hall (s.rd (RED_DEADLINE.deadline_ns c)) }
    s.rootExpiry c =
      (late.fault 0x2C04 1 0 0 (some c) (some (late.cpart c)) (leB 2 (nodeMember n))).askVoid c 1 (nodeMember n) := by
  unfold State.rootExpiry
  simp only [node, train, running, root, complete, Bool.not_true, Bool.or_self, Bool.false_eq_true, if_false]

/-- Else the root names the first child that is missing. -/
theorem State.rootExpiry_of_missing (root : nodeIsRoot n = true) {i : Nat} {l : List Nat} (missing : missingChildren n x = i :: l) :
    s.rootExpiry c = ({ s with hall := max s.hall (s.rd (RED_DEADLINE.deadline_ns c)) }).missed c 2 (nodeChild n i) := by
  unfold State.rootExpiry
  simp only [node, train, running, root, missing, Bool.not_true, Bool.or_self, Bool.false_eq_true, if_false]

/-- A member below the root with no verdict asks the root for it. -/
theorem State.verdictTimeout_of_unasked (below : nodeIsRoot n = false) (unasked : x.queried = none) :
    let late := { s with hall := max s.hall (s.rd (RED_DEADLINE.deadline_ns c) + 1000 * nodeWait n) }
    let asked := late.modTrain c fun x => { x with queried := some late.hall }
    s.verdictTimeout c = asked.tell (rosterAddr (asked.rosterOf c) 0) 0x22 (redBody (nodeDigest n) [x.req.step, x.attempt]) := by
  unfold State.verdictTimeout
  simp only [node, train, running, below, unasked, Bool.or_self, Bool.false_eq_true, if_false]

/-- One that has asked loses the verdict. -/
theorem State.verdictTimeout_of_asked (below : nodeIsRoot n = false) {q : Nat} (asked : x.queried = some q) :
    let late := { s with hall := max s.hall (q + 1000 * nodeWait n) }
    s.verdictTimeout c = (late.wr (RED_STATUS.verdict_lost c) 1).fault 0x2C05 2 0 0 (some c) (some (late.cpart c)) [] := by
  unfold State.verdictTimeout
  simp only [node, train, running, below, asked, Bool.or_self, Bool.false_eq_true, if_false]

end

/-! ### The attempt that a verdict falls on (R261, R474) -/

section
variable {x : Train} {m : RedMsg} (step : x.req.step = m.step)
include step

/-- A verdict of the running attempt is its own. -/
theorem awaits_of_running (running : x.voided = false) (attempt : x.attempt = m.attempt) : awaits x m = some x := by
  unfold awaits
  simp [step, running, attempt]

/-- A voided member takes a later attempt's void or abandonment. -/
theorem awaits_of_voided_later (voided : x.voided = true) (later : x.attempt < m.attempt) (fails : m.verdict ≠ 1) :
    awaits x m = some { x with attempt := m.attempt } := by
  unfold awaits
  simp [step, voided, later, fails]

/-- It takes no other verdict. -/
theorem awaits_of_voided_stale (voided : x.voided = true) (stale : m.attempt ≤ x.attempt ∨ m.verdict = 1) : awaits x m = none := by
  unfold awaits
  have notLater : ¬(x.voided = true ∧ x.attempt < m.attempt ∧ m.verdict ≠ 1) := fun ⟨_, later, fails⟩ => by omega
  rw [if_neg (not_not.2 step), if_neg (by simp [voided]), if_neg notLater]

end

/-! ### The reduction messages of a context, found by its roster (R255, R259 to R263) -/

section
variable {c : Nat} {m : RedMsg} (roster : s.ctxOfRoster m.rosterDigest = some c)
include roster

/-- A verdict takes effect on the attempt that it falls on. -/
theorem State.verdictMsg_of_awaited {x y : Train} (train : (s.ctx c).train = some x) (awaited : awaits x m = some y) :
    s.verdictMsg m = ((s.modTrain c fun _ => y).wr (RED_STATUS.attempt c) y.attempt).takeVerdict c y m.verdict m.cause m.named := by
  unfold State.verdictMsg
  simp only [roster, train, awaited]

/-- One that falls on no attempt is stale. -/
theorem State.verdictMsg_of_stale {x : Train} (train : (s.ctx c).train = some x) (stale : awaits x m = none) :
    s.verdictMsg m = s.inc (RED_COUNTS.stale_discards c) 1 := by
  unfold State.verdictMsg
  simp only [roster, train, stale]

theorem State.verdictMsg_of_idle (idle : (s.ctx c).train = none) : s.verdictMsg m = s.inc (RED_COUNTS.stale_discards c) 1 := by
  unfold State.verdictMsg
  simp only [roster, idle]

/-- The root voids the attempt that it judges. -/
theorem State.voidRequest_of_root {n : Bytes} {x : Train} (node : (s.ctx c).node = some n) (root : nodeIsRoot n = true)
    (train : (s.ctx c).train = some x) (running : x.voided = false) (step : x.req.step = m.step) (attempt : x.attempt = m.attempt) :
    s.voidRequest m = s.giveVerdict c x 2 m.cause m.named := by
  unfold State.voidRequest
  simp only [roster, node, root, train, running, step, attempt, Option.getD_some, Bool.not_false, and_self, if_true]

/-- A hop passes the request up to its parent. -/
theorem State.voidRequest_of_hop {n : Bytes} {a : Nat} (node : (s.ctx c).node = some n) (below : nodeIsRoot n = false)
    (parent : s.memberAddr c (nodeParent n) = some a) :
    s.voidRequest m = s.tell a 0x20 (redBody m.rosterDigest [m.step, m.attempt, m.member, m.cause, m.named]) := by
  unfold State.voidRequest
  simp only [roster, node, below, parent, Option.getD_some, Bool.false_eq_true, if_false]

/-- A verdict that is kept answers a query. -/
theorem State.verdictQuery_of_kept {v : Verdict} (kept : (s.ctx c).verdicts.find? (fun v => v.step == m.step && v.attempt == m.attempt) = some v)
    (asker : Nat) : s.verdictQuery asker m = s.tell asker 0x21 (redBody m.rosterDigest [v.step, v.attempt, v.verdict, v.cause, v.named]) := by
  unfold State.verdictQuery
  simp only [roster, kept]

end

/-! ### Mirroring of the input log (R385, R460) -/

section
variable {c : Nat} {m : MirrorOut} (out : (s.ctx c).mirrorOut = some m)
include out

/-- The digest of the entry sent ends its mirroring. -/
theorem State.mirrorAck_of_digest {roster : Bytes} (found : s.ctxOfRoster roster = some c) :
    s.mirrorAck roster m.step m.digest = s.modCtx c fun k => { k with mirrorOut := none } := by
  unfold State.mirrorAck
  simp only [found, out, ne_eq, not_true_eq_false, if_false, if_true]

/-- Another has the entry sent once more. -/
theorem State.mirrorAck_of_other {roster digest : Bytes} (found : s.ctxOfRoster roster = some c) (other : m.digest ≠ digest)
    (once : m.again = false) : s.mirrorAck roster m.step digest =
      (s.modCtx c fun k => { k with mirrorOut := some { m with again := true } }).sendMirror c (s.ilogEntry c m.step) := by
  unfold State.mirrorAck
  simp only [found, out, other, once, ne_eq, not_true_eq_false, Bool.false_eq_true, if_false]

/-- An entry not acknowledged by its deadline is behind, and is waited for no more: fault 0x3105 names the port of its mirror stream. -/
theorem State.mirrorBehind_of_stream {x : Stream} :
    let late := ({ s with hall := max s.hall m.deadline }).modCtx c fun k => { k with mirrorOut := none }
    late.mirrorStream c = some x → s.mirrorBehind c =
      (late.wr (PRT_STATUS.mirror_behind x.port) 1).fault 0x3105 1 5 x.port (some c) (some (late.cpart c)) [] := by
  intro late stream
  simp only [late] at stream ⊢
  unfold State.mirrorBehind
  simp only [out, stream]

/-- Where the mirror stream is gone, the fault names none. -/
theorem State.mirrorBehind_of_noStream :
    let late := ({ s with hall := max s.hall m.deadline }).modCtx c fun k => { k with mirrorOut := none }
    late.mirrorStream c = none → s.mirrorBehind c = late.fault 0x3105 1 0 0 (some c) (some (late.cpart c)) [] := by
  intro late gone
  simp only [late] at gone ⊢
  unfold State.mirrorBehind
  simp only [out, gone]

end

/-- A stream found by its handle carries it. -/
theorem State.stream_handle {h : Nat} {x : Stream} (found : s.stream h = some x) : x.handle = h := by
  simpa using List.find?_some found

/-- An entry that comes on the stream of an accepted mirror is stored in its slot of the ring and answered with the digest of what is stored. -/
theorem State.mirrorEntry_of_accepted {x : Stream} {base depth units : Nat} (kind : x.kind = 2) (receives : x.direction = 1)
    (accepted : (s.ctx x.ctx).mirrorFrom = some x.handle) (ring : (s.ctx x.ctx).mirrorRing = some (base, depth, units)) (step : Nat)
    (entry : Bytes) :
    let a := 256 * (base + step % max 1 depth * units)
    let stored := s.wrPart (s.cpart x.ctx) a (entry.take (256 * units))
    s.mirrorEntry x step entry = stored.tell x.peerAddr 0x31 (padTo 32 (slice entry 32 32) ++ leB 8 step ++
      sha256 (stored.rdPart (stored.cpart x.ctx) a (min entry.length (256 * units)))) := by
  unfold State.mirrorEntry
  simp only [kind, receives, accepted, ring, and_self, if_true]

/-- A mirrored entry that comes in on a stream is taken on it. -/
theorem exec_mirror_of_comesIn {handle : Nat} {x : Stream} (found : s.stream handle = some x) (comes : comesIn s x.port) (step : Nat)
    (entry : Bytes) : exec (.mirror handle step entry) s = .next (s.mirrorEntry x step entry) := by
  refine congrArg Host.Outcome.next ?_
  simp only [found]
  exact State.arriveFor_of_comesIn comes _ _

end

end Sys2Proof.Machine

namespace Sys2Proof.Proofs.GradientReduction

open Sys2Proof.Machine

/-- Settles O51, event by event: each hypothesis picks the course that the event takes, and a control message is acted on once
(`State.ctrlOnce_of_new`, `State.ctrlOnce_of_seen`). -/
theorem trainingEventsComplete : Obligations.TrainingEventsComplete := by
  intro s c up
  refine ⟨fun step rest oldest => ⟨fun sound => ?_, fun poisoned => ?_⟩, fun n x node train running => ?_,
    fun x m roster train voided step => ⟨fun later fails => ?_, fun stale => ?_⟩,
    fun n a m node roster below parent => State.voidRequest_of_hop roster node below parent,
    fun m roster idle => State.verdictMsg_of_idle roster idle, fun a m v roster kept => State.verdictQuery_of_kept roster kept a,
    fun roster digest m found out => ⟨?_, fun other once => State.mirrorAck_of_other out found other once⟩,
    fun peer id comes => ⟨fun new => ?_, fun seen => ?_⟩,
    fun handle step base depth units entry x found comes kind receives accepted ring => ?_,
    fun m out => ⟨fun x stream => ?_, fun gone => ?_⟩⟩
  · exact (exec_inputLogCopyComplete_of_up up c).trans (congrArg Host.Outcome.next (State.copyComplete_of_sound oldest sound))
  · exact (exec_inputLogCopyComplete_of_up up c).trans (congrArg Host.Outcome.next (State.copyComplete_of_poisoned oldest poisoned))
  · have contributes (child step attempt : Nat) := (exec_contributionReceived_of_up up c child step attempt).trans
      (congrArg Host.Outcome.next (State.contribution_of_running node train running child step attempt))
    have hop := (exec_hopDeadlineExpiry_of_up up c).trans (congrArg Host.Outcome.next (State.hopExpiry_of_running node train running))
    have root {u : State} (course : s.rootExpiry c = u) : exec (.rootDeadlineExpiry c) s = .next u :=
      (exec_rootDeadlineExpiry_of_up up c).trans (congrArg Host.Outcome.next course)
    have timeout {u : State} (course : s.verdictTimeout c = u) : exec (.verdictTimeout c) s = .next u :=
      (exec_verdictTimeout_of_up up c).trans (congrArg Host.Outcome.next course)
    refine ⟨fun child => ⟨fun timely => ?_, fun late => ?_, fun step attempt other => ?_⟩, hop,
      fun isRoot complete => root (State.rootExpiry_of_complete node train running isRoot complete),
      fun isRoot i l missing => root (State.rootExpiry_of_missing node train running isRoot missing),
      fun below unasked => timeout (State.verdictTimeout_of_unasked node train running below unasked),
      fun q below asked => timeout (State.verdictTimeout_of_asked node train running below asked),
      fun m roster step attempt => ⟨fun isRoot => State.voidRequest_of_root roster node isRoot train running step attempt,
        State.verdictMsg_of_awaited roster train (awaits_of_running step running attempt)⟩⟩
    · rw [contributes, if_pos ⟨rfl, rfl⟩, if_pos timely]
    · rw [contributes, if_pos ⟨rfl, rfl⟩, if_neg (Nat.not_le.2 late)]
    · rw [contributes, if_neg (by omega)]
  · exact State.verdictMsg_of_awaited roster train (awaits_of_voided_later step voided later fails)
  · exact State.verdictMsg_of_stale roster train (awaits_of_voided_stale step voided stale)
  · rintro rfl
    exact State.mirrorAck_of_digest out found
  · have acts (i : Instr) (act : State → State) := congrArg (.next : State → Result) (State.ctrlOnce_of_new comes new i act)
    exact ⟨fun m => ⟨acts _ _, acts _ _, acts _ _⟩, fun roster digest step => acts _ _⟩
  · have answers (i : Instr) (act : State → State) := congrArg (.next : State → Result) (State.ctrlOnce_of_seen comes seen i act)
    exact ⟨fun m => ⟨answers _ _, answers _ _, answers _ _⟩, fun roster digest step => answers _ _⟩
  · obtain rfl := State.stream_handle found
    exact (exec_mirror_of_comesIn found comes step entry).trans
      (congrArg Host.Outcome.next (State.mirrorEntry_of_accepted kind receives accepted ring step entry))
  · exact (exec_mirrorBehind_of_up up c).trans (congrArg Host.Outcome.next (State.mirrorBehind_of_stream out stream))
  · exact (exec_mirrorBehind_of_up up c).trans (congrArg Host.Outcome.next (State.mirrorBehind_of_noStream out gone))

end Sys2Proof.Proofs.GradientReduction
end

section
/-! SUPPORT. The storage, serving, ring and trace commands (spec/13_weights.md, R283, R284, R311, R313, R356, R358): which course a connect and a
disconnect of a storage controller take. -/

namespace Sys2Proof.Machine

/-! ### Connect -/

/-- A controller that takes PDU digests is connected and counted, and its waiting Reads are issued (R283). -/
theorem fwStorageConnect_act_of_takes {r : StorageConn} (takes : r.declines = false) (h : Hdr) (s : State) :
    (fwStorageConnect h r).act s =
      ((s.setController { s.controller r.controller with conn := some r }).showControllers.issueReads r.controller).reply h 0x0409 0 :=
  if_neg (ne_true_of_eq_false takes)

/-- A controller that declines PDU digests stays as it was, and the reply says so (Table 13-5, log 34). -/
theorem fwStorageConnect_act_of_declines {r : StorageConn} (declines : r.declines = true) (h : Hdr) (s : State) :
    (fwStorageConnect h r).act s = s.reply h 0x0409 (0x0500 + Config.declinedStatus.toNat) :=
  if_pos declines

/-! ### Disconnect -/

/-- With no read in progress the controller leaves with no pending reply before. -/
theorem fwStorageDisconnect_act_of_idle {s : State} {k : Nat} (idle : (s.controller k).jobs = []) (h : Hdr) :
    (fwStorageDisconnect h k).act s = (s.setController { s.controller k with leaving := some h }).leaveController k := by
  simp only [fwStorageDisconnect, idle, List.isEmpty_nil, if_true]

/-- With reads in progress the disconnect answers that it is pending, and is kept until they end (R356). -/
theorem fwStorageDisconnect_act_of_busy {s : State} {k : Nat} (busy : (s.controller k).jobs ≠ []) (h : Hdr) :
    (fwStorageDisconnect h k).act s =
      ((s.reply h 0x040A 1).setController { s.controller k with leaving := some h }).leaveController k := by
  simp only [fwStorageDisconnect, List.isEmpty_eq_false_iff.2 busy, Bool.false_eq_true, if_false]

end Sys2Proof.Machine

namespace Sys2Proof.Proofs.Weights

open Sys2Proof.Machine

/-- Settles O25: each command is carried out (`State.fwCommand_of_runs`), a connect as the controller takes or declines digests, a disconnect as
reads are in progress or not. -/
theorem storageAndServingCommandsComplete : Obligations.StorageAndServingCommandsComplete := by
  intro s h
  have carried {f : Fw} {cmd : Instr} {t : State} (runs : s.runs h f cmd) (course : f.act (s.fwAccepted h f.op) = t) :
      (.next (s.fwCommand h f cmd) : Result) = .next t :=
    congrArg Host.Outcome.next ((State.fwCommand_of_runs runs).trans course)
  refine ⟨fun r runs => ⟨fun takes => ?_, fun declines => ?_⟩, fun k runs idle => ?_, fun k runs busy => ?_, fun r runs => carried runs rfl,
    fun v runs => carried runs rfl, fun n k base runs => carried runs rfl, fun base k runs => carried runs rfl⟩
  · exact carried runs (fwStorageConnect_act_of_takes takes h _)
  · have nonzero : 0x0500 + Config.declinedStatus.toNat ≠ 0 := by omega
    exact ⟨_, nonzero, carried runs (fwStorageConnect_act_of_declines declines h _)⟩
  · exact carried runs (fwStorageDisconnect_act_of_idle idle h)
  · exact carried runs (fwStorageDisconnect_act_of_busy busy h)

end Sys2Proof.Proofs.Weights
end

section
/-! SUPPORT. The commands of the command engine for sequences, training, streams, ticks, time, traces and results (spec/14_serving_loop.md,
spec/16_command_interface.md): a command that passes every check takes effect once it is accepted, and its acceptance leaves the streams and
the result rings as they were. -/

namespace Sys2Proof.Machine

/-! ### A command that the command engine carries out (R343) -/

section
variable {s : State} {h : Hdr} {op : Nat} {sc : Scope} {param : State → Nat}

/-- A command of the command engine that passes every check takes effect once it is accepted. -/
theorem State.command_of_admits {lenOk : Bool} (len : lenOk = true) (admits : s.admits h op true sc param) (cmd : Instr)
    (effect : State → State) : s.command cmd h op lenOk sc param effect = effect (s.accepted h op) := by
  obtain ⟨linkUp, relayed, awake, credit, intake, check⟩ := admits
  unfold State.taken at intake check
  unfold State.command State.accepted State.taken
  simp only [len, linkUp, relayed, awake, credit, intake, check, Bool.not_true, Bool.or_self, Bool.false_eq_true, ne_eq, not_true_eq_false,
    if_false]

/-- A command that passes the checks of intake is admitted where it passes its own. -/
theorem State.admits_of_check (admits : s.admits h op true sc noCheck) (check : param (s.taken h) = 0) : s.admits h op true sc param := by
  obtain ⟨linkUp, relayed, awake, credit, intake, -⟩ := admits
  exact ⟨linkUp, relayed, awake, credit, intake, check⟩

end

/-! ### Its acceptance leaves the streams, the rings, the sequences and the tick alone -/

/-- Two states have the same fabric ports, result rings and sequences, in the same tick. -/
structure State.SameWork (s t : State) : Prop where
  fab : t.fab = s.fab
  rings : t.rings = s.rings
  seqs : t.seqs = s.seqs
  tick : t.tick = s.tick

section
variable {s t : State}

theorem State.SameWork.stream (same : s.SameWork t) (handle : Nat) : t.stream handle = s.stream handle := by
  unfold State.stream
  rw [same.fab]

theorem State.SameWork.ring (same : s.SameWork t) (c source n : Nat) : t.ring c source n = s.ring c source n := by
  unfold State.ring
  rw [same.rings]

theorem State.SameWork.seq (same : s.SameWork t) (i : Nat) : t.seq i = s.seq i := by
  unfold State.seq
  rw [same.seqs]

/-- They stand when another register than the tick's is written. -/
theorem State.SameWork.wr (same : s.SameWork t) {f : RF} (x : Nat) (apart : TIM_TICK_NOW ≠ f.addr) : s.SameWork (t.wr f x) :=
  { same with tick := (t.rd_wr_ne (g := TIM_TICK_NOW.tick) x apart).trans same.tick }

/-- The registers of the command interface, whose addresses are above the tick's, count a packet that takes its credit. -/
theorem State.taken_sameWork (s : State) (h : Hdr) : s.SameWork (s.taken h) := by
  have alike : s.SameWork s := ⟨rfl, rfl, rfl, rfl⟩
  have arrived : s.SameWork (s.arrive h) :=
    ite_kept (P := s.SameWork) (foldl_kept (P := s.SameWork) alike fun t m same =>
      ite_kept (P := s.SameWork) (same.wr (f := CMD_MGMT_COUNTS.relayed m) _ (by
        simp only [TIM_TICK_NOW, CMD_MGMT_COUNTS.relayed, CMD_MGMT_COUNTS]; omega)) same) alike
  exact arrived.wr (f := CMD_CHAN_STATUS.outstanding h.channel) _ (by
    simp only [TIM_TICK_NOW, CMD_CHAN_STATUS.outstanding, CMD_CHAN_STATUS]; omega)

theorem State.SameWork.setChan (same : s.SameWork t) (ch : Nat) (v : Chan) : s.SameWork (t.setChan ch v) :=
  ⟨same.fab, same.rings, same.seqs, same.tick⟩

theorem State.accepted_sameWork (s : State) (h : Hdr) (op : Nat) : s.SameWork (s.accepted h op) := by
  unfold State.accepted State.accept State.inc
  exact ((s.taken_sameWork h).wr (f := CMD_CHAN_COUNTS.accepted h.channel) _ (by
    simp only [TIM_TICK_NOW, CMD_CHAN_COUNTS.accepted, CMD_CHAN_COUNTS]; omega)).setChan _ _

end

/-! ### The checks of a command's own parameters -/

/-- An open stream of the context may be closed (R375). -/
theorem checkStreamClose_of_open {s : State} {handle : Nat} {x : Stream} (range : handle ≤ 4095) (found : s.stream handle = some x) :
    checkStreamClose x.ctx handle s = 0 := by
  unfold checkStreamClose
  simp only [Nat.not_lt.2 range, found, if_false, if_true]

/-- A ring that is set up may be released up to its write index (R359, R361). -/
theorem checkResultRelease_of_written {s : State} {c source ring upto : Nat} {r : Ring} (source_le : source ≤ 1) (ring_le : ring ≤ 255)
    (found : s.ring c source ring = some r) (written : upto ≤ r.write) : checkResultRelease c source ring upto s = 0 := by
  unfold checkResultRelease State.checkRing
  simp only [Nat.not_lt.2 source_le, Nat.not_lt.2 ring_le, Nat.not_lt.2 written, found, Option.isNone_some, Bool.false_eq_true, or_self,
    ne_eq, not_true_eq_false, if_false]

/-! ### A stream that closes moves no context to another partition -/

section
variable (s : State) (c d n : Nat)

/-- No register of a context's configuration is a register of credits. -/
theorem PAR_CTX_CFG_ne_credit (p : Nat) : PAR_CTX_CFG d ≠ PAR_CTX_CREDIT c ∧ PAR_CTX_CFG d ≠ PAR_PART_CREDITS p := by
  unfold PAR_CTX_CFG PAR_CTX_CREDIT PAR_PART_CREDITS
  omega

theorem State.giveCredits_cpart : (s.giveCredits c n).cpart d = s.cpart d := by
  obtain ⟨apart, partApart⟩ := PAR_CTX_CFG_ne_credit c d (s.cpart c)
  exact (State.rd_wr_ne _ (f := PAR_PART_CREDITS.in_use (s.cpart c)) (g := PAR_CTX_CFG.partition d) _ partApart).trans
    (s.rd_wr_ne (f := PAR_CTX_CREDIT.held c) (g := PAR_CTX_CFG.partition d) _ apart)

theorem State.showDraining_cpart : (s.showDraining c).cpart d = s.cpart d := by
  obtain ⟨apart, partApart⟩ := PAR_CTX_CFG_ne_credit c d (s.cpart c)
  exact (State.rd_wr_ne _ (f := PAR_PART_CREDITS.draining (s.cpart c)) (g := PAR_CTX_CFG.partition d) _ partApart).trans
    (s.rd_wr_ne (f := PAR_CTX_CREDIT.draining c) (g := PAR_CTX_CFG.partition d) _ apart)

theorem State.endWords_cpart (p : AccessFlight → Bool) : (s.endWords c p).cpart d = s.cpart d :=
  (State.showDraining_cpart _ c d).trans (State.giveCredits_cpart _ c d _)

@[simp] theorem State.closeStream_cpart (x : Stream) : (s.closeStream x).cpart d = s.cpart d := by
  have counted (u : State) : (u.dec PRT_STREAMS.opened 1).cpart d = u.cpart d :=
    u.rd_wr_ne (f := PRT_STREAMS.opened) (g := PAR_CTX_CFG.partition d) _ (by
      simp only [PAR_CTX_CFG.partition, PRT_STREAMS.opened, PAR_CTX_CFG, PRT_STREAMS]; omega)
  exact (State.endWords_cpart _ _ d _).trans ((counted _).trans (State.giveCredits_cpart _ _ d _))

end

end Sys2Proof.Machine

namespace Sys2Proof.Proofs.ServingLoop

open Sys2Proof.Machine

/-- Settles O22: each command takes effect once it is accepted (`State.command_of_admits`), a close and a release on the stream or the ring that
stood before it. -/
theorem workCommandsComplete : Obligations.WorkCommandsComplete := by
  intro s h
  have carried {n op : Nat} {sc : Scope} {param : State → Nat} (len : h.length = n) (admits : s.admits h op true sc param) (cmd : Instr)
      (effect : State → State) : (.next (s.command cmd h op (h.length == n) sc param effect) : Result) = .next (effect (s.accepted h op)) :=
    congrArg Host.Outcome.next (State.command_of_admits (beq_iff_eq.2 len) admits cmd effect)
  have same (op : Nat) := s.accepted_sameWork h op
  refine ⟨fun _ len admits => carried len admits _ _, fun slot len admits => ?_, fun _ len admits => carried len admits _ _,
    fun handle x len admits range found own => ?_, fun _ _ _ len admits => carried len admits _ _,
    fun _ _ len admits => carried len admits _ _, fun _ len admits idle => ?_, fun len admits => carried len admits _ _,
    fun _ _ _ _ len admits => carried len admits _ _,
    fun source ring upto r len admits source_le ring_le found written => ?_, fun _ len admits range => ?_⟩
  · refine (carried len admits _ _).trans ?_
    rw [(same _).seq, (same _).tick]
  · have check : checkStreamClose h.context handle (s.taken h) = 0 :=
      own ▸ checkStreamClose_of_open range (((s.taken_sameWork h).stream handle).trans found)
    refine (carried len (State.admits_of_check admits check) _ _).trans ?_
    simp only [(same _).stream, found, State.closeStream_cpart]
  · exact carried len (State.admits_of_check admits (if_neg (ne_true_of_eq_false idle))) _ _
  · have check := checkResultRelease_of_written source_le ring_le (((s.taken_sameWork h).ring h.context source ring).trans found) written
    refine (carried len (State.admits_of_check admits check) _ _).trans ?_
    simp only [(same _).ring, found]
  · exact carried len (State.admits_of_check admits (if_neg (Nat.not_lt.2 range))) _ _

end Sys2Proof.Proofs.ServingLoop
end

section
/-! SUPPORT. The serving and weight events (spec/13_weights.md, spec/14_serving_loop.md): in which state a sequence's admission, a storage read,
a shard, the scrubber, a drove, a step's end and a ring's retention take which of their courses. -/

namespace Sys2Proof.Machine

/-! ### What leaves the weight unit alone -/

section
variable (s : State)

@[simp] theorem State.event_wgt (code : Nat) (cls : Option Nat) (part ctx : Nat) (payload : Bytes) :
    (s.event code cls part ctx payload).wgt = s.wgt :=
  foldl_kept (P := fun t => t.wgt = s.wgt) rfl fun _ _ e => ite_kept (P := fun t => t.wgt = s.wgt)
    (congrArg State.wgt (State.SameBesideLink.eventOn rfl _ _ _ _ _ _) |>.trans e) e

@[simp] theorem State.notice_wgt (part ctx cause subject amount : Nat) : (s.notice part ctx cause subject amount).wgt = s.wgt :=
  s.event_wgt _ _ _ _ _

@[simp] theorem State.reply_wgt (h : Hdr) (op status : Nat) (payload : Bytes) (dup : Bool) :
    (s.reply h op status payload dup).wgt = s.wgt := by
  unfold State.reply
  dsimp only
  split
  · rfl
  · exact ite_kept (P := fun t => t.wgt = s.wgt) rfl rfl

@[simp] theorem State.tearDown_wgt (c code cls : Nat) : (s.tearDown c code cls).wgt = s.wgt := by
  have stopped (u : State) (t : Nat) : (u.stopTile t).wgt = u.wgt := rfl
  have dropped (u : State) (l : List Nat) : (l.foldl (fun v t => if v.hasWork c t then v.stopTile t else v) u).wgt = u.wgt :=
    foldl_kept (P := fun v => v.wgt = u.wgt) rfl fun v t e => ite_kept (P := fun v => v.wgt = u.wgt) ((stopped v t).trans e) e
  unfold State.tearDown
  extract_lets p shown halted settled
  have hhalted : halted.wgt = s.wgt := ite_kept (P := fun t => t.wgt = s.wgt) (dropped _ _) rfl
  have hsettled : settled.wgt = s.wgt := ite_kept (P := fun t => t.wgt = s.wgt) hhalted hhalted
  exact ite_kept (P := fun t => t.wgt = s.wgt) rfl hsettled

@[simp] theorem State.logClass_wgt (cls : Nat) (rcd : Bytes) : (s.logClass cls rcd).wgt = s.wgt :=
  ite_kept (P := fun t => t.wgt = s.wgt) (ite_kept (P := fun t => t.wgt = s.wgt) rfl rfl) rfl

@[simp] theorem State.reportFault_wgt (code cls : Nat) (ctx part : Option Nat) (rcd : Bytes) :
    (s.reportFault code cls ctx part rcd).wgt = s.wgt := by
  unfold State.reportFault
  extract_lets p shown classCounted ctxCounted reported
  have hclass : classCounted.wgt = s.wgt := ite_kept (P := fun t => t.wgt = s.wgt) rfl rfl
  have hctx : ctxCounted.wgt = s.wgt := by
    unfold ctxCounted
    split <;> exact hclass
  have hreported : reported.wgt = s.wgt := (State.event_wgt _ _ _ _ _ _).trans hctx
  split
  · cases ctx with
    | none => exact hreported
    | some c => exact (reported.tearDown_wgt c _ _).trans hreported
  · refine ite_kept (P := fun t => t.wgt = s.wgt) ?_ hreported
    cases part with
    | none => exact hreported
    | some q => exact foldl_kept (P := fun t => t.wgt = s.wgt) hreported fun u c e => (u.tearDown_wgt c _ _).trans e

@[simp] theorem State.fault_wgt (code cls space index : Nat) (ctx part : Option Nat) (detail : Bytes) :
    (s.fault code cls space index ctx part detail).wgt = s.wgt := by
  have recorded : (s.faultRecord code cls space index detail).2.wgt = s.wgt := by
    unfold State.faultRecord
    dsimp only
    split <;> rfl
  exact (State.reportFault_wgt _ _ _ _ _ _).trans ((State.logClass_wgt _ _ _).trans recorded)

@[simp] theorem State.underlay_wgt (a b : Nat × Nat) (n : Nat) (toTile : Bool) : (s.underlay a b n toTile).wgt = s.wgt := by
  unfold State.underlay
  extract_lets path forwarded waited
  have atNodes : forwarded.wgt = s.wgt := foldl_kept (P := fun u => u.wgt = s.wgt) rfl fun _ _ e => e
  have atOutputs : waited.wgt = s.wgt := foldl_kept (P := fun u => u.wgt = s.wgt) atNodes fun _ _ e => e
  exact ite_kept (P := fun u => u.wgt = s.wgt) atOutputs atOutputs

@[simp] theorem State.readLines_wgt (p a n : Nat) : (s.readLines p a n).wgt = s.wgt := by
  have counted : (s.countLines p a n false).wgt = s.wgt :=
    foldl_kept (P := fun t => t.wgt = s.wgt) rfl fun _ _ e => ite_kept (P := fun t => t.wgt = s.wgt) e e
  exact foldl_kept (P := fun t => t.wgt = s.wgt) counted fun u k e =>
    ite_kept (P := fun t => t.wgt = s.wgt) ((u.underlay_wgt _ _ _ _).trans e) ((u.underlay_wgt _ _ _ _).trans e)

/-- A shard's run read moves counters of the networks and the stacks alone. -/
@[simp] theorem State.runRead_wgt (c : Nat) (r : Nat × Nat × Nat × Nat) : (s.runRead c r).wgt = s.wgt := by
  unfold State.runRead
  dsimp only
  split_ifs
  · exact s.readLines_wgt _ _ _
  · split
    · exact s.readLines_wgt _ _ _
    · rfl
  · exact ite_kept (P := fun t => t.wgt = s.wgt) (s.underlay_wgt _ _ _ _) (s.underlay_wgt _ _ _ _)

@[simp] theorem State.runReads_wgt (c : Nat) (l : List (Nat × Nat × Nat × Nat)) : (l.foldl (fun t r => t.runRead c r) s).wgt = s.wgt :=
  foldl_kept (P := fun t => t.wgt = s.wgt) rfl fun t r e => (t.runRead_wgt c r).trans e

@[simp] theorem State.cancelSwitch_wgt (c : Nat) : (s.cancelSwitch c).wgt = s.wgt := by
  unfold State.cancelSwitch State.completeBy
  split
  · rfl
  · exact (State.event_wgt _ _ _ _ _ _).trans (State.reply_wgt _ _ _ _ _ _)

/-- A second mismatch damages the slot and is reported; the scrubber goes on (R296). -/
@[simp] theorem State.scrubFailed_wgt (c slot : Nat) : (s.scrubFailed c slot).wgt = s.wgt := by
  unfold State.scrubFailed
  dsimp only
  split
  · rw [State.fault_wgt]
    split
    · split
      · exact (State.notice_wgt _ _ _ _ _ _).trans (State.cancelSwitch_wgt _ _)
      · rfl
    · rfl
  · exact State.fault_wgt _ _ _ _ _ _ _ _

end

section
variable {s : State} {c k id : Nat}

/-! ### Once the module is up, an event takes effect -/

/-- What an event of a module that is up leaves is what its own course leaves. -/
theorem next_of_up (up : s.up = true) {t u : State} (course : t = u) : (.next (if s.up then t else s) : Result) = .next u :=
  congrArg Host.Outcome.next ((if_pos up).trans course)

/-! ### Admission (R303) -/

/-- An admission that passes its checks is counted as no refusal, and waits for its boundary. -/
theorem State.sequenceAdmit_of_admits {h : Hdr} {r : AdmitReq} (len : h.length = 56)
    (admits : s.admits h 0x0501 true .context (checkSequenceAdmit h.context r)) (check : checkSequenceAdmit h.context r s = 0) :
    s.sequenceAdmit h r = (s.accepted h 0x0501).stage h 0x0501 (.sequenceAdmit h r) := by
  unfold State.sequenceAdmit
  rw [State.command_of_admits (beq_iff_eq.2 len) admits, check]
  simp only [bne_self_eq_false, Bool.and_false, Bool.false_eq_true, if_false]

/-! ### Storage direct (R283, R284) -/

section
variable {j : StorageJob} (job : s.jobOf k id = some j)
include job

/-- The answer to a Read passes its crossing: the shards that its data complete are ingested, and its command completes with the last block. -/
theorem State.readData_of_passes {conn : StorageConn} {r : NvmeRead} (connected : (s.controller k).conn = some conn)
    (issued : j.reads.find? (fun q => q.id == id && q.queue.isSome && q.sent) = some r) (passes : s.passes 2 (conn.port / 4) = true)
    (data : Bytes) :
    let size := nsBlock k j.req.nsid
    let answered := { j with reads := j.reads.filter fun q => q.id != id, data := j.data ++ [(r.first, padTo (r.blocks * size) data)] }
    let file := gather (answered.data.length + 1) size answered
    let fed := State.feedShards conn.port size (file.file.length / 128 + 1) s file
    let left := (fed.1.setJob k file.id (if fed.2.reads.isEmpty then none else some fed.2)).issueReads k
    s.readData k id data = if left.reading k file.hdr then left else (left.reply file.hdr 0x0402 0).leaveController k := by
  unfold State.readData
  simp only [job, connected, issued, passes, Bool.not_true, Bool.false_eq_true, if_false]

/-- Over a stopped crossing it waits (R235). -/
theorem State.readData_of_stopped {conn : StorageConn} {r : NvmeRead} (connected : (s.controller k).conn = some conn)
    (issued : j.reads.find? (fun q => q.id == id && q.queue.isSome && q.sent) = some r) (stopped : s.passes 2 (conn.port / 4) = false)
    (data : Bytes) : s.readData k id data = s.keep 2 (conn.port / 4) (.storageReadData k id data) := by
  unfold State.readData
  simp only [job, connected, issued, stopped, Bool.not_false, if_true]

variable {r : NvmeRead} (unanswered : j.reads.find? (fun q => q.id == id && (q.queue.isSome || (s.controller k).conn.isNone)) = some r)
include unanswered

/-- A Read that goes unanswered once is issued again on its connected controller. -/
theorem State.readTimeout_of_first (first : r.again = false) (connected : (s.controller k).conn.isSome = true) :
    let late := { s with hall := max s.hall (r.since + s.rd WGT_CFG.storage_timeout * 1000000) }
    s.readTimeout k id = (late.inc WGT_STORAGE.reissues 1).issueRead k { r with again := true, queue := none, old := r.queue } := by
  unfold State.readTimeout
  simp only [job, unanswered]
  exact if_pos (by rw [first]; exact connected)

/-- Unanswered again, or with the connection lost, its command fails. -/
theorem State.readTimeout_of_last (last : r.again = true ∨ (s.controller k).conn = none) :
    let late := { s with hall := max s.hall (r.since + s.rd WGT_CFG.storage_timeout * 1000000) }
    let counted := late.inc WGT_STORAGE.timeouts 1
    let dropped := counted.setController
      { counted.controller k with jobs := (counted.controller k).jobs.filter fun y => y.hdr != j.hdr }
    let ended := dropped.endSource j.hdr.context (storageSource j.hdr)
    s.readTimeout k id =
      (((ended.reply j.hdr 0x0402 0x0551).storageFault (some j.hdr.context)).leaveController k).issueReads k := by
  have fails : ¬(!r.again && (s.controller k).conn.isSome) = true := by
    rcases last with again | lost
    · simp [again]
    · simp [lost]
  unfold State.readTimeout
  simp only [job, unanswered]
  exact if_neg fails

end

/-- A connection that is lost is no longer counted, and is reported. -/
theorem State.connectionLost_of_connected (connected : (s.controller k).conn.isSome = true) :
    s.connectionLost k = (s.setController { s.controller k with conn := none }).showControllers.storageFault none :=
  if_neg (by simpa [Option.isSome_iff_ne_none] using connected)

/-! ### Builds and shards (R269, R271, R288) -/

/-- A commit that waits for its build fails once no shard has landed for `build_timeout`. -/
theorem State.buildTimeout_of_waiting {slot op : Nat} {b : Build} {h : Hdr} (build : s.build c slot = some b) (waiting : b.waiting = some (op, h)) :
    let late := { s with hall := max s.hall (b.last + s.rd WGT_CFG.build_timeout * 1000000000) }
    s.buildTimeout c slot = (late.setBuild { b with waiting := none }).reply h op 0x0550 := by
  unfold State.buildTimeout
  simp only [build, waiting]

/-- The next message of a weight stream goes to the ingest engine. -/
theorem State.shardArrival_of_message {port : Nat} {x : Stream} {m : Bytes} {rest : List Bytes} {t : ShardTarget} (stream : s.stream k = some x)
    (next : x.msgs = m :: rest) (target : s.streamTarget k port = some t) :
    ∃ ask : State → State, s.shardArrival k port = (s.setStream { x with msgs := rest }).ingest t port (m.take 128) (m.drop 128) k ask := by
  unfold State.shardArrival
  simp only [stream, target, next]
  exact ⟨_, rfl⟩

section
variable {t : ShardTarget} {d : Bytes}

/-- A shard whose descriptor is refused fails. -/
theorem State.ingest_of_refused (refused : s.descriptorOk t d = false) (port : Nat) (payload : Bytes) (source : Nat) (ask : State → State) :
    s.ingest t port d payload source ask =
      (s.endArrival t d source).shardFault t port 0x2D05 (if refusedFormat d then leB 2 0x0150 else []) := by
  unfold State.ingest
  simp only [refused, Bool.not_false, if_true]

/-- One of another version is stale. -/
theorem State.ingest_of_stale (accepted : s.descriptorOk t d = true) (stale : s.targetVersion t ≠ some (sdVersion d)) (port : Nat)
    (payload : Bytes) (source : Nat) (ask : State → State) :
    s.ingest t port d payload source ask = (s.endArrival t d source).inc (WGT_COUNTS.stale_shards t.ctx) 1 := by
  unfold State.ingest
  simp only [accepted, stale, Bool.not_true, Bool.false_eq_true, ne_eq, not_false_eq_true, if_false, if_true]

/-- A new shard of the version, sent whole and unpacked, lands. -/
theorem State.ingest_of_sound {payload : Bytes} (accepted : s.descriptorOk t d = true) (current : s.targetVersion t = some (sdVersion d))
    (new : (s.targetLanded t).find? (fun x => x.tensor == sdTensor d && x.index == sdIndex d) = none)
    (taking : (match t with | .load b _ => s.taking b | .stream _ => true) = true) (whole : payload.length = sdLen d)
    (digest : sha256 payload = sdDigest d) (unpacked : sdFlags d % 2 = 0) (port source : Nat) (ask : State → State) :
    s.ingest t port d payload source ask = (s.endArrival t d source).land t port d payload := by
  have flag : ¬sdFlags d % 2 = 1 := by omega
  unfold State.ingest
  cases t with
  | load b prot => simp only [accepted, current, new, taking, whole, digest, flag, Bool.not_true, Bool.false_eq_true, ne_eq, not_true_eq_false,
      if_false]
  | stream x => simp only [accepted, current, new, whole, digest, flag, Bool.not_true, Bool.false_eq_true, ne_eq, not_true_eq_false, if_false]

end

/-! ### Scrubbing (R295) -/

/-- The shard that is due is the last one taken, and the next is due a scrub interval later. -/
theorem State.scrubShard_wgt {p : Nat × Nat × Nat × Nat} (next : s.nextScrub = some p) (enabled : s.on WGT_CFG.scrub_en = true)
    (due : s.wgt.scrubDue ≤ s.tick) (e1 e2 : Bool) :
    (s.scrubShard e1 e2).wgt = { s.wgt with scrub := some p, scrubDue := s.tick + 2 ^ s.rd WGT_CFG.scrub_exp } := by
  have goes : ¬((!s.on WGT_CFG.scrub_en) = true ∨ s.tick < s.wgt.scrubDue) := by simp [enabled, due]
  unfold State.scrubShard
  simp only [next, if_neg goes]
  split <;> simp only [apply_ite State.wgt, State.scrubFailed_wgt, State.runReads_wgt, State.inc_wgt, ite_self]

/-! ### The serving loop (R184, R305, R307, R359) -/

/-- A live sequence past its deadline tick is marked late and reported. -/
theorem State.seqLate_of_past {i : Nat} (live : (s.seq i).state ≠ 0) (past : (s.seq i).deadlineTick < s.tick) (once : (s.seq i).late = false) :
    s.seqLate i = (s.modSeq i fun q => { q with late := true }).fault 0x2E02 0 0 0 (some (s.seq i).ctx) (some (s.cpart (s.seq i).ctx)) [] :=
  if_pos ⟨live, past, by rw [once]; rfl⟩

/-- From the guard before the boundary, a serving context whose step has ended has its drove prepared where it is to run. -/
theorem State.drovePreparation_of_idle (up : s.up = true) (serving : s.on (SEQ_CFG.serving c) = true) (idle : (s.ctx c).step = none)
    (held : s.cst c ≠ stFree) (sound : s.cst c ≠ stTeardown) :
    let guard := { s with hall := max s.hall (s.tickStart s.time.nextTick - s.rd TIM_BOUNDARY.guard_us * 1000) }
    s.drovePreparation c = if guard.lookAhead.running (guard.cpart c) = some c
      then (guard.dropFails c).prepare c s.time.nextTick State.lookAhead else guard := by
  unfold State.drovePreparation
  simp only [up, serving, idle, beq_eq_false_iff_ne.2 held, beq_eq_false_iff_ne.2 sound, Option.isSome_none, Bool.not_true, Bool.or_self,
    Bool.false_eq_true, if_false]

section
variable {r : StepRun} (step : (s.ctx c).step = some r) (running : s.cst c = stRunning) (now : s.running (s.cpart c) = some c)
  (ended : s.allEnded c = true)
include step running now ended

/-- A step with a set still to run starts its run (R291). -/
theorem State.contextStepEnd_of_more {k : Nat} {l : List Nat} (more : r.more = k :: l) :
    s.contextStepEnd c =
      (s.modCtx c fun x => { x with step := some { r with set := some k, more := l, run := 1 } }).startEntry c r.entry false := by
  unfold State.contextStepEnd
  simp only [step, running, now, ended, more, ne_eq, not_true_eq_false, Bool.not_true, Bool.false_eq_true, or_self, if_false]

/-- Its last run ends the step. -/
theorem State.contextStepEnd_of_last (last : r.more = []) :
    let told := ((s.stepEvent c r).reportStep c r).modCtx c fun k => { k with step := none, slip := 0, breached := false }
    s.contextStepEnd c = if r.training then told.attemptEnd c r else told.collect c r := by
  unfold State.contextStepEnd
  simp only [step, running, now, ended, last, ne_eq, not_true_eq_false, Bool.not_true, Bool.false_eq_true, or_self, if_false]

end

/-- The records of a ring that have outlived a retention that is set are released. -/
theorem State.retentionExpiry_of_held {source n : Nat} {r : Ring} {e : Nat × Nat} {l : List (Nat × Nat)} (ring : s.ring c source n = some r)
    (held : r.times = e :: l) (retention : s.rd (CMD_RESULT_CFG.retention_ms c) ≠ 0) :
    let keep := s.rd (CMD_RESULT_CFG.retention_ms c) * 1000000
    let late := { s with hall := max s.hall (e.2 + keep) }
    let due := (r.times.filter fun e => decide (e.2 + keep ≤ late.hall)).map (·.1)
    s.retentionExpiry c source n = due.foldl (fun s i => s.expireRecord r i)
      (late.setRing (r.releaseTo (due.foldl (fun m i => max m (i + 1)) r.release))) := by
  have set : ¬s.rd (CMD_RESULT_CFG.retention_ms c) * 1000000 = 0 := by omega
  unfold State.retentionExpiry
  simp only [ring, held, set, if_false]

end

end Sys2Proof.Machine

namespace Sys2Proof.Proofs.ServingLoop

open Sys2Proof.Machine

/-- Settles O50, event by event: each hypothesis picks the course that the event takes, and the scrubber stands at the shard it took whatever
its check finds (`State.scrubShard_wgt`). -/
theorem servingAndWeightEventsComplete : Obligations.ServingAndWeightEventsComplete := by
  intro s c
  refine ⟨fun h r len admits check => congrArg Host.Outcome.next (State.sequenceAdmit_of_admits len admits check), fun up => ⟨?reads, ?timeouts,
    fun k connected => next_of_up up (State.connectionLost_of_connected connected),
    fun slot op b h build waiting => next_of_up up (State.buildTimeout_of_waiting build waiting), ?shards, ?scrub,
    fun i live past once => next_of_up up (State.seqLate_of_past live past once), ?drove, ?stepEnd,
    fun source n r e l ring held retention => next_of_up up (State.retentionExpiry_of_held ring held retention)⟩⟩
  case reads =>
    intro k id data j conn r job connected issued
    exact ⟨fun passes => next_of_up up (State.readData_of_passes job connected issued passes data),
      fun stopped => next_of_up up (State.readData_of_stopped job connected issued stopped data)⟩
  case timeouts =>
    intro k id j r job unanswered
    exact ⟨fun first connected => next_of_up up (State.readTimeout_of_first job unanswered first connected),
      fun last => next_of_up up (State.readTimeout_of_last job unanswered last)⟩
  case shards =>
    intro x k port m rest t stream message target d v
    obtain ⟨ask, arrives⟩ := State.shardArrival_of_message stream message target
    have arrival {u : State} (course : v.ingest t port d (m.drop 128) k ask = u) : exec (.shardArrival k port) s = .next u :=
      next_of_up up (arrives.trans course)
    exact ⟨fun refused => arrival (State.ingest_of_refused refused port _ k ask),
      fun accepted stale => arrival (State.ingest_of_stale accepted stale port _ k ask),
      fun accepted current new taking whole digest unpacked =>
        arrival (State.ingest_of_sound accepted current new taking whole digest unpacked port k ask)⟩
  case scrub =>
    intro p e1 e2 next enabled due
    have takes := State.scrubShard_wgt next enabled due e1 e2
    exact ⟨s.scrubShard e1 e2, next_of_up up rfl, congrArg WgtS.scrub takes, congrArg WgtS.scrubDue takes⟩
  case drove =>
    intro serving idle held sound u t after
    have course := State.drovePreparation_of_idle up serving idle held sound
    exact ⟨fun runs => congrArg Host.Outcome.next (course.trans (if_pos runs)),
      fun waits => congrArg Host.Outcome.next (course.trans (if_neg waits))⟩
  case stepEnd =>
    intro r step running now ended
    exact ⟨fun k l more => next_of_up up (State.contextStepEnd_of_more step running now ended more),
      fun last => next_of_up up (State.contextStepEnd_of_last step running now ended last)⟩

end Sys2Proof.Proofs.ServingLoop
end

section
/-! SUPPORT. The command interface (spec/16_command_interface.md): the queue, the packets that a channel sends, and what becomes of a command
that intake judges. -/

namespace Sys2Proof.Machine

/-! ### The queue -/

/-- A step takes the front command off the queue and adds none. -/
theorem step_pending {s t : State} (e : step s = .next t) : t.pending = s.pending.tail := by
  unfold step at e
  cases queue : s.pending with
  | nil =>
    simp only [queue] at e
    exact State.unattended_kept (queue_kept []) queue e
  | cons i rest =>
    simp only [queue] at e
    exact exec_kept (queue_kept rest) i (s := { s with pending := rest }) rfl e

/-! ### The registers of a channel -/

section
variable (ch m : Nat)

theorem CMD_CHAN_COUNTS_ne_STATUS : CMD_CHAN_COUNTS ch ≠ CMD_CHAN_STATUS ch := by unfold CMD_CHAN_COUNTS CMD_CHAN_STATUS; omega
theorem CMD_CHAN_EVENTS_ne_STATUS : CMD_CHAN_EVENTS ch ≠ CMD_CHAN_STATUS ch := by unfold CMD_CHAN_EVENTS CMD_CHAN_STATUS; omega

end

/-- A field lowered reads as lowered. -/
theorem State.rd_dec {s : State} (canon : s.Canon) (f : RF) (n : Nat) (fits : f.lo + f.width ≤ 64) : (s.dec f n).rd f = s.rd f - n := by
  have range : s.rd f < 2 ^ f.width := bits_lt _ _ _
  exact (State.rd_wr canon.2 f _ fits).trans (Nat.mod_eq_of_lt (by omega))

/-! ### What a channel holds -/

/-- A register written leaves the channels. -/
@[simp] theorem State.wr_chan (s : State) (f : RF) (x ch : Nat) : (s.wr f x).chan ch = s.chan ch := rfl
@[simp] theorem State.inc_chan (s : State) (f : RF) (n ch : Nat) : (s.inc f n).chan ch = s.chan ch := rfl
@[simp] theorem State.dec_chan (s : State) (f : RF) (n ch : Nat) : (s.dec f n).chan ch = s.chan ch := rfl

/-- A channel that has something on it reads as it was set. -/
theorem State.chan_setChan (s : State) (ch : Nat) {v : Chan} (used : v ≠ {}) : (s.setChan ch v).chan ch = v :=
  Sparse.get_put_listed used s.cmd.chans ch

/-- A channel set leaves every other as it was. -/
theorem State.chan_setChan_ne (s : State) {ch other : Nat} (v : Chan) (apart : other ≠ ch) : (s.setChan ch v).chan other = s.chan other :=
  Sparse.get_put_ne v apart

/-! ### Events (R362, R363) -/

/-- The places of a class in a channel's queue are not all taken (R363). -/
def Chan.HasRoom (c : Chan) (cls : Nat) : Prop := if 2 ≤ cls then reservedPlaces c.queue < 64 else ordinaryPlaces c.queue < 960

theorem Chan.hasRoom_iff (c : Chan) (cls : Nat) :
    c.HasRoom cls ↔ (2 ≤ cls ∧ reservedPlaces c.queue < 64) ∨ (cls < 2 ∧ ordinaryPlaces c.queue < 960) := by
  unfold Chan.HasRoom
  split <;> omega

theorem Chan.not_hasRoom_iff (c : Chan) (cls : Nat) :
    ¬c.HasRoom cls ↔ (2 ≤ cls ∧ 64 ≤ reservedPlaces c.queue) ∨ (cls < 2 ∧ 960 ≤ ordinaryPlaces c.queue) := by
  unfold Chan.HasRoom
  split <;> omega

/-- The event packet that takes the next place of a channel's queue. -/
def State.eventPacket (s : State) (ch code cls part ctx : Nat) (payload : Bytes) : Packet :=
  ⟨true, code, (s.chan ch).eventSeq, part, ctx, 0, (s.chan ch).owed, false, false, s.timeUnlocked, s.hall, cls, payload⟩

section
variable (s : State) {ch code cls part ctx : Nat} {payload : Bytes}

/-- With room, an event is counted, queued, and returns the credits owed. -/
theorem State.eventOn_of_room (room : (s.chan ch).HasRoom cls) :
    s.eventOn ch code cls part ctx payload = (((s.inc (CMD_CHAN_EVENTS.events_sent ch) 1).setChan ch { s.chan ch with
      eventSeq := ((s.chan ch).eventSeq + 1) % 2 ^ 32, owed := 0,
      queue := (s.chan ch).queue ++ [s.eventPacket ch code cls part ctx payload] }).dec
        (CMD_CHAN_STATUS.outstanding ch) (s.chan ch).owed) := by
  unfold Chan.HasRoom at room
  refine if_pos ?_
  split at room <;> simp [*]

/-- Without, it is counted as lost. -/
theorem State.eventOn_of_full (full : ¬(s.chan ch).HasRoom cls) :
    s.eventOn ch code cls part ctx payload =
      (s.inc (CMD_CHAN_EVENTS.events_lost ch) 1).setChan ch { s.chan ch with lost := (s.chan ch).lost + 1 } := by
  unfold Chan.HasRoom at full
  refine if_neg ?_
  split at full <;> simp [*]

theorem State.eventOn_chan_of_room (room : (s.chan ch).HasRoom cls) :
    (s.eventOn ch code cls part ctx payload).chan ch = { s.chan ch with
      eventSeq := ((s.chan ch).eventSeq + 1) % 2 ^ 32, owed := 0,
      queue := (s.chan ch).queue ++ [s.eventPacket ch code cls part ctx payload] } := by
  rw [s.eventOn_of_room room, State.dec_chan]
  exact State.chan_setChan _ _ fun e => List.append_ne_nil_of_right_ne_nil _ (List.cons_ne_nil _ _) (congrArg Chan.queue e)

theorem State.eventOn_chan_of_full (full : ¬(s.chan ch).HasRoom cls) :
    (s.eventOn ch code cls part ctx payload).chan ch = { s.chan ch with lost := (s.chan ch).lost + 1 } := by
  rw [s.eventOn_of_full full]
  exact State.chan_setChan _ _ fun e => Nat.succ_ne_zero _ (congrArg Chan.lost e)

/-- An event on one channel leaves every other as it was. -/
theorem State.eventOn_chan_ne {other : Nat} (apart : other ≠ ch) : (s.eventOn ch code cls part ctx payload).chan other = s.chan other := by
  by_cases room : (s.chan ch).HasRoom cls
  · rw [s.eventOn_of_room room, State.dec_chan, State.chan_setChan_ne _ _ apart, State.inc_chan]
  · rw [s.eventOn_of_full room, State.chan_setChan_ne _ _ apart, State.inc_chan]

/-- The credits that an event returns leave the outstanding count. -/
theorem State.eventOn_outstanding_of_room (canon : s.Canon) (room : (s.chan ch).HasRoom cls) :
    (s.eventOn ch code cls part ctx payload).rd (CMD_CHAN_STATUS.outstanding ch) =
      s.rd (CMD_CHAN_STATUS.outstanding ch) - (s.chan ch).owed := by
  rw [s.eventOn_of_room room]
  have counted : (s.inc (CMD_CHAN_EVENTS.events_sent ch) 1).Canon := State.inc_kept canon_kept _ _ _ canon
  refine (State.rd_dec (State.setChan_kept canon_kept _ _ _ counted) (CMD_CHAN_STATUS.outstanding ch) _ (show 7 ≤ 64 by decide)).trans ?_
  exact congrArg (· - (s.chan ch).owed) (s.rd_wr_ne (f := CMD_CHAN_EVENTS.events_sent ch) (g := CMD_CHAN_STATUS.outstanding ch) _
    (CMD_CHAN_EVENTS_ne_STATUS ch).symm)

end

/-! ### Replies (R341, R346; log 64) -/

section
variable (c : Chan) (p : Packet)

theorem Chan.push_of_room (none_waits : c.late = []) (room : ordinaryPlaces c.queue < 960) : c.push p = { c with queue := c.queue ++ [p] } :=
  if_pos (by rw [none_waits, decide_eq_true room]; rfl)

theorem Chan.push_of_full (full : c.late ≠ [] ∨ 960 ≤ ordinaryPlaces c.queue) : c.push p = { c with late := c.late ++ [p] } :=
  if_neg fun h => by
    obtain ⟨none_waits, room⟩ := Bool.and_eq_true_iff.1 h
    exact full.elim (absurd (List.isEmpty_iff.1 none_waits)) (Nat.not_le.2 (of_decide_eq_true room))

/-- A reply takes a place or waits for one, and the channel stands besides. -/
theorem Chan.push_eq : ∃ q late : List Packet, c.push p = { c with queue := q, late := late } ∧ q ++ late = c.queue ++ c.late ++ [p] := by
  by_cases room : c.late = [] ∧ ordinaryPlaces c.queue < 960
  · exact ⟨_, _, c.push_of_room p room.1 room.2, by simp [room.1]⟩
  · refine ⟨_, _, c.push_of_full p ?_, by simp⟩
    rwa [not_and_or, Nat.not_lt] at room

theorem Chan.push_ne_empty : c.push p ≠ {} := by
  obtain ⟨q, late, e, packets⟩ := c.push_eq p
  intro empty
  rw [e, Chan.mk.injEq] at empty
  obtain ⟨rfl, -, -, -, -, rfl⟩ := empty
  simp at packets

end

/-- The packet of a reply that returns `own` credits with those owed on the channel `c` (R346). -/
def State.replyPacket (s : State) (c : Chan) (h : Hdr) (op status own : Nat) (payload : Bytes) (dup : Bool) : Packet :=
  ⟨false, op, h.tag, h.partition, h.context, status, c.owed + own, status == 1, dup, s.timeUnlocked, s.hall, 0, payload⟩

section
variable (s : State) (c : Chan) (h : Hdr) (op status own : Nat) (payload : Bytes) (dup : Bool)

/-- The channel of a reply has its packet, and owes nothing. -/
theorem State.putReply_chan : (s.putReply c h op status own payload dup).chan h.channel =
    ({ c with owed := 0 } : Chan).push (s.replyPacket c h op status own payload dup) :=
  State.chan_setChan _ _ (Chan.push_ne_empty _ _)

theorem State.putReply_chan_ne {other : Nat} (apart : other ≠ h.channel) :
    (s.putReply c h op status own payload dup).chan other = s.chan other := State.chan_setChan_ne _ _ apart

/-- The credits that a reply returns leave the outstanding count, and the channel owes none then. -/
theorem State.putReply_credits (canon : s.Canon) :
    (s.putReply c h op status own payload dup).rd (CMD_CHAN_STATUS.outstanding h.channel) =
        s.rd (CMD_CHAN_STATUS.outstanding h.channel) - (c.owed + own) ∧
      ((s.putReply c h op status own payload dup).chan h.channel).owed = 0 := by
  refine ⟨State.rd_dec canon (CMD_CHAN_STATUS.outstanding h.channel) _ (show 7 ≤ 64 by decide), ?_⟩
  obtain ⟨q, late, e, -⟩ := Chan.push_eq { c with owed := 0 } (s.replyPacket c h op status own payload dup)
  rw [State.putReply_chan, e]

/-- A channel has one packet more to send once a reply is put on it. -/
theorem State.putReply_packets : (s.putReply c h op status own payload dup).packets h.channel =
    c.queue ++ c.late ++ [s.replyPacket c h op status own payload dup] := by
  obtain ⟨q, late, e, packets⟩ := Chan.push_eq { c with owed := 0 } (s.replyPacket c h op status own payload dup)
  unfold State.packets
  rw [State.putReply_chan, e]
  exact packets

end

/-! #### A refusal -/

section
variable (s : State) (h : Hdr) (op status : Nat)

/-- A refusal is counted before it is answered, which does not touch the channel's state. -/
theorem State.refuse_eq : s.refuse h op status =
    (s.inc (CMD_CHAN_COUNTS.refused h.channel) 1).putReply (s.chan h.channel) h op status 1 [] false := rfl

theorem State.refuse_refused (canon : s.Canon) : (s.refuse h op status).rd (CMD_CHAN_COUNTS.refused h.channel) =
    min (s.rd (CMD_CHAN_COUNTS.refused h.channel) + 1) 65535 :=
  (State.rd_wr_ne _ (f := CMD_CHAN_STATUS.outstanding h.channel) (g := CMD_CHAN_COUNTS.refused h.channel) _
    (CMD_CHAN_COUNTS_ne_STATUS h.channel)).trans (State.rd_inc canon (CMD_CHAN_COUNTS.refused h.channel) 1 (show 32 ≤ 64 by decide))

theorem State.refuse_outstanding (canon : s.Canon) : (s.refuse h op status).rd (CMD_CHAN_STATUS.outstanding h.channel) =
    s.rd (CMD_CHAN_STATUS.outstanding h.channel) - ((s.chan h.channel).owed + 1) := by
  have counted : (s.inc (CMD_CHAN_COUNTS.refused h.channel) 1).Canon := State.inc_kept canon_kept _ _ _ canon
  refine (State.putReply_credits _ (s.chan h.channel) h op status 1 [] false counted).1.trans ?_
  exact congrArg (· - ((s.chan h.channel).owed + 1)) (s.rd_wr_ne (f := CMD_CHAN_COUNTS.refused h.channel)
    (g := CMD_CHAN_STATUS.outstanding h.channel) _ (CMD_CHAN_COUNTS_ne_STATUS h.channel).symm)

end

end Sys2Proof.Machine

namespace Sys2Proof.Proofs.CommandInterface

open Sys2Proof.Machine

/-- Settles O1: it is what a step on a queue that is not empty does. -/
theorem stepRunsFrontCommand : Obligations.StepRunsFrontCommand := fun _ _ _ => rfl

/-- Settles O3, for a command and for a step on an empty queue (`step_pending`). -/
theorem queueIsFirstInFirstOut : Obligations.QueueIsFirstInFirstOut := fun _ _ e => step_pending e

/-- Settles O16: an event takes a place or is lost (`State.eventOn_chan_of_room`, `State.eventOn_chan_of_full`). -/
theorem eventQueueing : Obligations.EventQueueing := by
  intro s ch code cls part ctx payload
  refine ⟨fun room => ?_, fun full => ?_, fun masked => ⟨fun low => ?_, masked⟩, fun high => ?_⟩
  · rw [s.eventOn_chan_of_room ((Chan.hasRoom_iff _ _).2 room)]
    exact ⟨rfl, rfl⟩
  · rw [s.eventOn_chan_of_full ((Chan.not_hasRoom_iff _ _).2 full)]
    exact ⟨rfl, rfl⟩
  · have lowOrElse : (ch == 0 && decide (2 ≤ cls)) = false := by simpa [imp_iff_not_or] using low
    simp only [State.takesEvent, masked, lowOrElse, Bool.false_and, Bool.or_self]
  · simp [State.takesEvent, high]

/-- Settles O12: a refusal writes two registers of its channel and puts one packet on it. -/
theorem refusedCommandHasNoEffect : Obligations.RefusedCommandHasNoEffect := by
  intro s h op status t
  refine ⟨⟨_, State.putReply_packets _ _ _ _ _ _ _ _, rfl, rfl, rfl, rfl, rfl, rfl⟩, s.refuse_refused h op status,
    ⟨_, _, rfl⟩, fun ch apart => State.putReply_chan_ne _ _ _ _ _ _ _ _ apart, ?_, fun a counts status => ?_⟩
  · obtain ⟨q, late, e, -⟩ := Chan.push_eq { s.chan h.channel with owed := 0 }
      ((s.inc (CMD_CHAN_COUNTS.refused h.channel) 1).replyPacket (s.chan h.channel) h op status 1 [] false)
    exact ⟨q, late, (State.putReply_chan _ _ _ _ _ _ _ _).trans e⟩
  · exact (State.reg_wr_ne _ (f := CMD_CHAN_STATUS.outstanding h.channel) _ status).trans
      (s.reg_wr_ne (f := CMD_CHAN_COUNTS.refused h.channel) _ counts)

end Sys2Proof.Proofs.CommandInterface
end

section
namespace Sys2Proof.Machine

/-! #### The reply to a command that is outstanding -/

/-- The commands outstanding on a channel after a reply: the one answered has returned its credit, or is outstanding no more (R346). -/
def outstAfter (l : List Outst) (h : Hdr) (status : Nat) : List Outst :=
  if status = 1 then l.map fun q => if q.tag == h.tag then { q with credited := true } else q else l.filter fun q => q.tag != h.tag

section
variable (s : State) {h : Hdr} {op status : Nat} (payload : Bytes) (dup : Bool)

/-- A reply that finds its command is put on the channel, unless it is a pending one that is not the first. -/
theorem State.reply_of_outstanding {o : Outst} (found : (s.chan h.channel).outst.find? (fun o => o.tag == h.tag && o.op == op) = some o)
    (due : status ≠ 1 ∨ o.credited = false) : s.reply h op status payload dup =
      s.putReply { s.chan h.channel with outst := outstAfter (s.chan h.channel).outst h status } h op status (bit (!o.credited)) payload dup := by
  have sent : ¬(status = 1 ∧ o.credited = true) := by rcases due with final | first <;> simp [*]
  unfold State.reply
  simp only [found, if_neg sent]
  rfl

/-- One that finds none is discarded. -/
theorem State.reply_of_none (none : ((s.chan h.channel).outst.any fun o => o.tag == h.tag && o.op == op) = false) :
    s.reply h op status payload dup = s := by
  have absent : (s.chan h.channel).outst.find? (fun o => o.tag == h.tag && o.op == op) = .none := by simpa using none
  unfold State.reply
  simp only [absent]

end

/-! ### A command that intake judges (Table 16-2) -/

/-- The entry of a command just accepted among those outstanding. -/
def Outst.fresh (h : Hdr) (op : Nat) : Outst := ⟨op, h.tag, h.partition, h.context, false, if h.deadlineEn then some h.deadline else none⟩

/-- A channel whose command just accepted has its first reply: the command is outstanding where that reply is pending (R346). -/
def Chan.firstReply (c : Chan) (h : Hdr) (op status : Nat) : Chan :=
  { c with outst := c.outst ++ if status = 1 then [{ Outst.fresh h op with credited := true }] else [] }

section
variable (s : State) {h : Hdr} (op : Nat)

/-- An accepted command is outstanding. -/
theorem State.accept_chan (h : Hdr) : (s.accept h op).chan h.channel =
    { s.chan h.channel with outst := (s.chan h.channel).outst ++ [Outst.fresh h op] } :=
  State.chan_setChan _ _ fun e => List.append_ne_nil_of_right_ne_nil _ (List.cons_ne_nil _ _) (congrArg Chan.outst e)

/-- It leaves the clock as it was, and with it whether hall time is locked. -/
theorem State.accept_timeUnlocked (h : Hdr) : (s.accept h op).timeUnlocked = s.timeUnlocked := by
  have state : (s.accept h op).rd TIM_STATUS.state = s.rd TIM_STATUS.state :=
    s.rd_wr_ne (f := CMD_CHAN_COUNTS.accepted h.channel) (g := TIM_STATUS.state) _ (by
      simp only [TIM_STATUS.state, TIM_STATUS, CMD_CHAN_COUNTS.accepted, CMD_CHAN_COUNTS]; omega)
  unfold State.timeUnlocked
  rw [state]
  rfl

variable (new : ((s.chan h.channel).outst.any fun o => o.tag == h.tag) = false)
include new

/-- The reply to a command just accepted, whose tag no other command has, finds it. -/
theorem State.find_accepted : ((s.accept h op).chan h.channel).outst.find? (fun o => o.tag == h.tag && o.op == op) =
    some (Outst.fresh h op) := by
  have others : (s.chan h.channel).outst.find? (fun o => o.tag == h.tag && o.op == op) = none := by
    rw [List.find?_eq_none]
    intro o member tagged
    exact absurd (List.any_eq_false.1 new o member) (not_not_intro (Bool.and_eq_true_iff.1 tagged).1)
  rw [State.accept_chan, List.find?_append, others]
  simp [Outst.fresh]

/-- What is outstanding after the first reply to a command just accepted: the command itself where that reply was pending. -/
theorem State.outstAfter_accepted (status : Nat) : outstAfter ((s.accept h op).chan h.channel).outst h status =
    (s.chan h.channel).outst ++ if status = 1 then [{ Outst.fresh h op with credited := true }] else [] := by
  have others : ∀ o ∈ (s.chan h.channel).outst, (o.tag == h.tag) = false := fun o member => by
    simpa using List.any_eq_false.1 new o member
  have kept : (s.chan h.channel).outst.map (fun q => if q.tag == h.tag then { q with credited := true } else q) = (s.chan h.channel).outst :=
    (List.map_congr_left fun o member => by rw [others o member]; rfl).trans (List.map_id _)
  have left : (s.chan h.channel).outst.filter (fun q => q.tag != h.tag) = (s.chan h.channel).outst :=
    List.filter_eq_self.2 fun o member => by rw [bne, others o member]; rfl
  unfold outstAfter
  rw [State.accept_chan]
  split
  · simp only [List.map_append, kept, List.map_cons, List.map_nil, Outst.fresh, beq_self_eq_true, if_true]
  · simp [left, Outst.fresh]

/-- The first reply to a command just accepted returns the command's own credit. -/
theorem State.reply_accepted (status : Nat) (payload : Bytes) (dup : Bool) : (s.accept h op).reply h op status payload dup =
    (s.accept h op).putReply ((s.chan h.channel).firstReply h op status) h op status 1 payload dup := by
  rw [State.reply_of_outstanding _ payload dup (s.find_accepted op new) (.inr rfl), s.outstAfter_accepted op new, State.accept_chan]
  rfl

end

end Sys2Proof.Machine

namespace Sys2Proof.Proofs.CommandInterface

open Sys2Proof.Machine

/-- Settles O14: the reply finds the command just accepted (`State.reply_accepted`), and takes a place or waits for one. -/
theorem replyToAnAcceptedCommand : Obligations.ReplyToAnAcceptedCommand := by
  intro s h op status payload new c d p
  have packet : (s.accept h op).replyPacket (c.firstReply h op status) h op status 1 payload false = p := by
    unfold State.replyPacket
    rw [State.accept_timeUnlocked]
    rfl
  have channel : d = ({ c.firstReply h op status with owed := 0 } : Chan).push p := by
    unfold d
    rw [s.reply_accepted op new, State.putReply_chan, packet]
  refine ⟨fun none_waits room => ?_, fun full => ?_, ?_, fun final => ?_, fun pending => ?_⟩
  · rw [channel, Chan.push_of_room { c.firstReply h op status with owed := 0 } p none_waits room]
    exact ⟨rfl, none_waits⟩
  · rw [channel, Chan.push_of_full { c.firstReply h op status with owed := 0 } p full]
    exact ⟨rfl, rfl⟩
  all_goals
    obtain ⟨q, late, e, -⟩ := Chan.push_eq { c.firstReply h op status with owed := 0 } p
    rw [channel, e]
  · simp [Chan.firstReply, final]
  · simp [Chan.firstReply, pending, Outst.fresh, c]

/-- Settles O15: each packet lowers the outstanding count by the credits it returns. -/
theorem replyReturnsCredits : Obligations.ReplyReturnsCredits := by
  intro s h op status payload dup canon c left
  refine ⟨⟨s.refuse_outstanding h op status canon, ?_⟩, s.refuse_refused h op status canon, fun o found due => ?_,
    fun code cls part ctx room => ⟨s.eventOn_outstanding_of_room canon room, ?_⟩⟩
  · have counted : (s.inc (CMD_CHAN_COUNTS.refused h.channel) 1).Canon := State.inc_kept canon_kept _ _ _ canon
    exact (State.putReply_credits _ c h op status 1 [] false counted).2
  · rw [s.reply_of_outstanding payload dup found due]
    have own : bit (!o.credited) = if o.credited then 0 else 1 := by cases o.credited <;> rfl
    rw [← own]
    exact s.putReply_credits _ h op status _ payload dup canon
  · rw [s.eventOn_chan_of_room room]

end Sys2Proof.Proofs.CommandInterface
end

section
namespace Sys2Proof.Machine

/-! ### The checks of intake (Table 16-2, R447) -/

/-- The commands that a faulted module does not refuse: the four of R447, and the firmware's of one without a runtime image (R420, log 71). -/
theorem State.refusesFaulted_iff (s : State) (op : Nat) : s.refusesFaulted op = true ↔ s.on FLT_STATE.module_faulted = true ∧
    ¬(op ∈ [0x0001, 0x0101, 0x0703, 0x0803] ∨ (s.rd SEC_STATUS.boot_state = 4 ∧ op ∈ fwOps)) := by
  simp [State.refusesFaulted, faultedOk, and_assoc, not_or, imp_iff_not_or]

/-- A packet reaches the checks of intake: it comes through, the link is awake, and it finds a credit (R338, R340, R341). -/
structure State.Heard (s : State) (h : Hdr) : Prop where
  linkUp : s.linkUp = true
  relayed : s.unrelayed h = false
  awake : s.linkHolds = false
  credit : (s.arrive h).overrun h = false

section
variable {s : State} {h : Hdr}

/-- A command of the command engine is judged by intake, then by its own check. -/
theorem State.Heard.command (heard : s.Heard h) (cmd : Instr) (op : Nat) (lenOk : Bool) (sc : Scope) (param : State → Nat)
    (effect : State → State) : s.command cmd h op lenOk sc param effect =
      if (s.taken h).intake h op lenOk sc ≠ 0 then (s.taken h).refuse h op ((s.taken h).intake h op lenOk sc)
      else if param (s.taken h) ≠ 0 then (s.taken h).refuse h op (param (s.taken h)) else effect (s.accepted h op) := by
  obtain ⟨linkUp, relayed, awake, credit⟩ := heard
  unfold State.command
  simp only [linkUp, relayed, awake, credit, Bool.not_true, Bool.or_self, Bool.false_eq_true, if_false]
  rfl

/-- What becomes of a firmware command that intake has passed while the firmware runs: an update in progress refuses it, then its own
check; one that the firmware reaches and answers promptly is carried out, any other is held with the pending reply (R346, R348). -/
def State.firmware (s : State) (h : Hdr) (f : Fw) (cmd : Instr) : State :=
  if s.installing f.op cmd then s.refuse h f.op 0x0290
  else if f.check s ≠ 0 then (f.onRefusal (f.check s) s).refuse h f.op (f.check s)
  else if h.prompt && s.reaches f.op && !s.waitsBehind f.op then f.act ((s.wakeFor f.op true).accept h f.op)
  else
    let s := ((s.wakeFor f.op false).accept h f.op).reply h f.op 1
    { s with cmd := { s.cmd with runtime := s.cmd.runtime ++ [(⟨s.hall, s.time.nextTick + s.guardWait, f.op, h, cmd⟩ : RtCmd)] } }

/-- A command of the runtime firmware is judged by intake, and completes with 0x0301 while the firmware does not run (R348). -/
theorem State.Heard.fwCommand (heard : s.Heard h) (f : Fw) (cmd : Instr) : s.fwCommand h f cmd =
    if (s.taken h).intake h f.op f.lenOk f.scope ≠ 0 then (s.taken h).refuse h f.op ((s.taken h).intake h f.op f.lenOk f.scope)
    else if !(s.taken h).on CMD_STATUS.runtime_up then (s.accepted h f.op).reply h f.op 0x0301 else (s.taken h).firmware h f cmd := by
  obtain ⟨linkUp, relayed, awake, credit⟩ := heard
  unfold State.fwCommand
  simp only [linkUp, relayed, awake, credit, Bool.not_true, Bool.or_self, Bool.false_eq_true, if_false]
  rfl

end

end Sys2Proof.Machine

namespace Sys2Proof.Proofs.CommandInterface

open Sys2Proof.Machine

/-- Settles O11: each check is judged once those before it have passed. -/
theorem intakeStatuses : Obligations.IntakeStatuses := by
  intro s h op ok sc
  refine ⟨fun bad => if_pos ?_, fun len multiple size => ?_⟩
  · rcases bad with len | multiple | size
    · exact .inr (.inr (by rw [len]; rfl))
    · exact .inl multiple
    · exact .inr (.inl size)
  intro passes
  have length : ¬(h.length % 8 ≠ 0 ∨ 4096 < h.length ∨ (!ok) = true) := by simp [len, multiple, size]
  refine ⟨fun faulted other => (if_neg length).trans (if_pos ((s.refusesFaulted_iff op).2 ⟨faulted, other⟩)), fun admitted => ?_⟩
  have sound : ¬s.refusesFaulted op = true := by
    rw [State.refusesFaulted_iff, not_and_not_right]
    exact fun faulted => admitted.resolve_left (by simp [faulted])
  unfold State.intake
  rw [if_neg length, if_neg sound]
  refine ⟨fun barred => if_pos (by rw [barred]; rfl), fun group => ?_⟩
  rw [if_neg (by simp [group])]
  refine ⟨fun acts barred => if_pos ⟨acts, by rw [barred]; rfl⟩, fun part => ?_⟩
  rw [if_neg (by rintro ⟨acts, barred⟩; rcases part with none | mask; exacts [acts none, by simp [mask] at barred])]
  refine ⟨fun acts gone => if_pos ⟨acts, gone⟩, fun ctx => ?_⟩
  rw [if_neg (by rintro ⟨acts, gone⟩; rcases ctx with other | ⟨held, sound, own⟩; exacts [other acts, gone.elim held (Or.rec sound (· own))])]
  refine ⟨fun used => if_pos used, fun new => ?_⟩
  rw [if_neg (by simp [new])]
  refine ⟨fun limited past => if_pos (by simp [limited, past]), fun inTime => if_neg ?_⟩
  rcases inTime with unlimited | early
  · simp [unlimited]
  · simp [early]

/-- Settles O13: the courses of a command that intake judges (`State.Heard.command`, `State.Heard.fwCommand`). -/
theorem intakeRefuses : Obligations.IntakeRefuses := by
  intro s h op ok sc param effect f cmd linkUp relayed awake credit u
  have heard : s.Heard h := ⟨linkUp, relayed, awake, credit⟩
  rw [heard.command, heard.fwCommand]
  refine ⟨fun fails => if_pos fails, fun passes fails => ?_, fun fails => if_pos fails, fun passes running => ?_⟩
  · rw [if_neg (not_not_intro passes), if_pos fails]
  · rw [if_neg (not_not_intro passes), if_neg (by simp [u, running])]
    refine ⟨fun busy => if_pos busy, fun idle fails => ?_⟩
    unfold State.firmware
    rw [if_neg (by simp [u, idle]), if_pos fails]

end Sys2Proof.Proofs.CommandInterface
end

section
namespace Sys2Proof.Machine

/-! ### A command that the runtime firmware holds (R348) -/

/-- What a packet of the firmware's leaves is what the firmware does with it, and beside it the body of a quote that it holds (R422). -/
theorem exec_of_fw {c : Instr} {f : Fw} {h : Hdr} (fw : fwAs id c = some f) (packet : c.hdr? = some h) :
    (∀ s : State, exec c s = .next (s.fwCommand h f c)) ∨
    ∃ (nonce : Bytes) (ctx session : Nat), f = fwAttestationQuote h nonce ctx session (some h) ∧ ∀ s : State,
      exec c s = .next ((s.fwCommand h (fwAttestationQuote h nonce ctx session) c).keepBody s h nonce ctx session) := by
  cases c with
  | attestationQuote g nonce ctx session =>
    cases fw
    cases packet
    exact .inr ⟨nonce, ctx, session, rfl, fun _ => rfl⟩
  | partitionBuild | partitionDissolve | partitionRelocate | contextCreate | contextDestroy | programOpen | programCommit | weightSetOpen
  | storageRead | weightSetRelease | weightSetDigest | adapterLoad | adapterDrop | storageConnect | storageDisconnect | servingConfigure
  | ringConfigure | rosterTree | jobStartStatus | inputLogRead | inputLogConfigure | inputLogLoad | jobStartArm | jobStartBroadcast
  | streamOpen | mirrorConfigure | mirrorAccept | sensorRead | measurementRead | measurementExtend | certificateRead | quoteRead
  | sessionEstablishKey | sessionEstablishCiphertext | streamKeySet | debugUnlockChallenge | debugUnlockResponse | firmwareUpdateInstall
  | firmwareUpdateStage | firmwareUpdateFloor | keyEnrolment | traceEnable | powerCapSet | thermalStatus | calibrationRead
  | calibrationWrite | calibrationCommit | calibrationRestore =>
    cases fw
    cases packet
    exact .inl fun _ => rfl
  | _ => cases fw

/-- A tag that a command outstanding on the channel has fails check 8. -/
theorem State.tag_new_of_intake {s : State} {h : Hdr} {op : Nat} {ok : Bool} {sc : Scope} (passes : s.intake h op ok sc = 0) :
    ((s.chan h.channel).outst.any fun o => o.tag == h.tag) = false := by
  by_contra used
  rw [Bool.not_eq_false] at used
  unfold State.intake at passes
  rw [if_pos used] at passes
  split_ifs at passes

section
variable (s : State) (h : Hdr) (op : Nat)

/-- A packet that arrives and takes its credit leaves the channels and the commands held. -/
@[simp] theorem State.taken_cmd : (s.taken h).cmd = s.cmd := s.arrive_cmd h

@[simp] theorem State.wakeFor_cmd (now : Bool) : (s.wakeFor op now).cmd = s.cmd := by
  have woken : (if now then s.inc CDC_WAKES.wakes 1 else s.raiseWake 10 0).cmd = s.cmd :=
    ite_kept (P := fun t => t.cmd = s.cmd) rfl (s.raiseWake_cmd 10 0)
  exact ite_kept (P := fun t => t.cmd = s.cmd) woken rfl

/-- A channel reads the same wherever the command interface is the same. -/
theorem State.chan_congr {s t : State} (same : t.cmd = s.cmd) (ch : Nat) : t.chan ch = s.chan ch := by
  unfold State.chan
  rw [same]

/-- A reply leaves the commands that the firmware holds. -/
@[simp] theorem State.reply_runtime (status : Nat) (payload : Bytes) (dup : Bool) :
    (s.reply h op status payload dup).cmd.runtime = s.cmd.runtime := by
  unfold State.reply
  extract_lets c
  split
  · rfl
  · exact ite_kept (P := fun t => t.cmd.runtime = s.cmd.runtime) rfl rfl

@[simp] theorem State.accept_runtime : (s.accept h op).cmd.runtime = s.cmd.runtime := rfl

/-- The body of a quote is kept where the firmware holds one command more; else nothing is. -/
theorem State.keepBody_of_same {s t : State} (same : t.cmd.runtime = s.cmd.runtime) (h : Hdr) (nonce : Bytes) (ctx session : Nat) :
    t.keepBody s h nonce ctx session = t := if_neg (by simp [same])

/-- It is kept apart from the memory and the command interface. -/
theorem State.keepBody_eq (s t : State) (h : Hdr) (nonce : Bytes) (ctx session : Nat) :
    ∃ sec, t.keepBody s h nonce ctx session = { t with sec := sec } :=
  ite_kept (P := fun u => ∃ sec, u = { t with sec := sec }) ⟨_, rfl⟩ ⟨_, rfl⟩

end

/-- The state of a command that the firmware holds: it is accepted, its pending reply is sent, and it waits with the boundary that its
acceptance gives it (R43, R346). -/
def State.holdCommand (s : State) (h : Hdr) (op : Nat) (cmd : Instr) : State :=
  let t := ((s.wakeFor op false).accept h op).reply h op 1
  { t with cmd := { t.cmd with runtime := t.cmd.runtime ++ [(⟨t.hall, t.time.nextTick + t.guardWait, op, h, cmd⟩ : RtCmd)] } }

section
variable {s : State} {h : Hdr}

/-- A command that the firmware does not answer promptly is held once it has passed its checks. -/
theorem State.firmware_of_late (s : State) {h : Hdr} {f : Fw} {cmd : Instr} (idle : s.installing f.op cmd = false) (check : f.check s = 0)
    (late : h.prompt = false) : s.firmware h f cmd = s.holdCommand h f.op cmd := by
  unfold State.firmware
  simp only [idle, check, late, Bool.false_and, Bool.false_eq_true, ne_eq, not_true_eq_false, if_false]
  rfl

/-- What acceptance and a reply touch lies beside the link: the registers, the command interface and the crossings. -/
theorem State.SameBesideLink.taken {t : State} (same : s.SameBesideLink t) (h : Hdr) : s.SameBesideLink (t.taken h) :=
  ite_kept (P := fun u => s.SameBesideLink (u.takeCredit h))
    (foldl_kept (P := s.SameBesideLink) same fun _ _ e => ite_kept (P := s.SameBesideLink) e e) same

theorem State.SameBesideLink.wakeFor {t : State} (same : s.SameBesideLink t) (op : Nat) (now : Bool) : s.SameBesideLink (t.wakeFor op now) :=
  ite_kept (P := s.SameBesideLink) (ite_kept (P := s.SameBesideLink) same (same.raiseWake 10 0)) same

theorem State.SameBesideLink.reply {t : State} (same : s.SameBesideLink t) (h : Hdr) (op status : Nat) (payload : Bytes) (dup : Bool) :
    s.SameBesideLink (t.reply h op status payload dup) := by
  unfold State.reply
  extract_lets c
  split
  · exact same
  · exact ite_kept (P := s.SameBesideLink) same same

theorem State.SameBesideLink.mem {t : State} (same : s.SameBesideLink t) : t.mem = s.mem := have e := congrArg State.mem same; e

/-- A command held leaves the memory, stands last among those held, and its pending reply is on its channel. -/
theorem State.holdCommand_taken (new : (((s.taken h).chan h.channel).outst.any fun o => o.tag == h.tag) = false) (op : Nat) (cmd : Instr) :
    let t := (s.taken h).holdCommand h op cmd
    t.mem = s.mem ∧ (∃ due : Nat, t.cmd.runtime = s.cmd.runtime ++ [⟨s.hall, due, op, h, cmd⟩]) ∧ s.Replied t h op 1 [] := by
  let woken := (s.taken h).wakeFor op false
  have cmdWoken : woken.cmd = s.cmd := (State.wakeFor_cmd _ _ _).trans (s.taken_cmd h)
  have chan : woken.chan h.channel = s.chan h.channel := State.chan_congr cmdWoken _
  have beside : s.SameBesideLink ((woken.accept h op).reply h op 1) :=
    State.SameBesideLink.reply (t := woken.accept h op) ((State.SameBesideLink.taken rfl h).wakeFor op false) h op 1 [] false
  have runtime : ((woken.accept h op).reply h op 1).cmd.runtime = s.cmd.runtime :=
    ((State.reply_runtime _ _ _ _ _ _).trans (State.accept_runtime _ _ _)).trans (congrArg CmdS.runtime cmdWoken)
  refine ⟨beside.mem, ⟨_, by unfold State.holdCommand; dsimp only; rw [runtime, beside.hall]⟩, ?_⟩
  have first := State.reply_accepted woken op (h := h) (by rw [chan, ← State.chan_congr (s.taken_cmd h)]; exact new) 1 [] false
  have packets := State.putReply_packets (woken.accept h op) ((woken.chan h.channel).firstReply h op 1) h op 1 1 [] false
  rw [← first, chan] at packets
  exact ⟨_, packets, rfl, rfl, rfl, rfl, rfl⟩

/-! #### Its reply, its time-out and its deadline -/

/-- The firmware's reply to a command that has come through its crossing carries the command out, unless its deadline has passed (R344). -/
theorem State.runtimeReply_of_held {u : State} {r : RtCmd} {f : Fw} (up : u.up = true) (running : u.on CMD_STATUS.runtime_up = true)
    (held : u.held? h.channel h.tag = some r) (hdr : r.hdr = h) (op : r.op = f.op) (through : u.comesThrough r = true)
    (fw : fwAs id r.cmd = some f) :
    let v := u.dropHeld h.channel h.tag
    u.runtimeReply h.channel h.tag = if h.deadlineEn = true ∧ h.deadline < u.hall then v.reply h f.op 0x0502
      else if f.check v = 0 then (f.act v).keepDue r h else (f.onRefusal (f.check v) v).reply h f.op (f.check v) := by
  subst hdr
  unfold State.runtimeReply State.carryOut
  simp only [up, running, held, through, fw, op, id_eq, ite_not, ne_eq, Bool.not_true, Bool.or_self, Bool.false_eq_true, if_false]
  rfl

/-- A command that the firmware has not answered in time completes with 0x0503, and whether it is still carried out is open. -/
theorem State.fwTimeout_of_held {ch tag : Nat} {r : RtCmd} (up : s.up = true) (held : s.held? ch tag = some r) :
    let t := (({ s with hall := max s.hall (r.since + s.rd CMD_CFG.fw_timeout * 1000000) }).dropHeld ch tag).reply r.hdr r.op 0x0503
    s.fwTimeout ch tag =
      if (t.free 1).1 = 1 ∧ s.comesThrough r = true then (t.free 1).2.carryOut r unanswerable else (t.free 1).2 := by
  unfold State.fwTimeout
  simp only [up, held, Bool.not_true, Bool.false_eq_true, if_false]

/-- A command held whose deadline passes ends with 0x0502. -/
theorem State.deadlineExpiry_of_held {u : State} {ch tag : Nat} {r : RtCmd}
    (held : (u.cmd.runtime.find? fun r => r.hdr.channel == ch && r.hdr.tag == tag && r.hdr.deadlineEn) = some r) :
    u.deadlineExpiry ch tag = ({ u with hall := max u.hall (r.hdr.deadline + 1), cmd := { u.cmd with
      runtime := u.cmd.runtime.filter fun q => q != r } } : State).reply r.hdr r.op 0x0502 := by
  unfold State.deadlineExpiry State.waitingFor
  simp only [held]
  rfl

end

end Sys2Proof.Machine

namespace Sys2Proof.Proofs.CommandInterface

open Sys2Proof.Machine

/-- Settles O30: intake passes the command on to a firmware that does not run (`State.Heard.fwCommand`), which keeps no quote's body either. -/
theorem runtimeFirmwareSilent : Obligations.RuntimeFirmwareSilent := by
  refine ⟨fun s h f c fw packet linkUp relayed awake credit passes down => ?_, fun s ch tag r up held =>
    ⟨_, rfl, congrArg Host.Outcome.next (State.fwTimeout_of_held up held)⟩, fun s h op status payload dup none => s.reply_of_none payload dup none⟩
  have silent (g : Fw) (op : g.op = f.op) (len : g.lenOk = f.lenOk) (scope : g.scope = f.scope) :
      s.fwCommand h g c = (s.accepted h f.op).reply h f.op 0x0301 := by
    rw [State.Heard.fwCommand ⟨linkUp, relayed, awake, credit⟩, op, len, scope, passes, down]
    rfl
  rcases exec_of_fw fw packet with course | ⟨nonce, ctx, session, quote, course⟩
  · rw [course, silent f rfl rfl rfl]
  · have completed := silent (fwAttestationQuote h nonce ctx session) (quote ▸ rfl) (quote ▸ rfl) (quote ▸ rfl)
    have same : ((s.accepted h f.op).reply h f.op 0x0301).cmd.runtime = s.cmd.runtime :=
      ((State.reply_runtime _ _ _ _ _ _).trans (State.accept_runtime _ _ _)).trans (congrArg CmdS.runtime (s.taken_cmd h))
    rw [course, completed, State.keepBody_of_same same]

/-- Settles O31: the command is held (`State.holdCommand_taken`), and its reply or its deadline finds it. -/
theorem heldCommands : Obligations.HeldCommands := by
  rintro s h f c fw packet ⟨linkUp, relayed, awake, credit, passes, check⟩ running idle late
  refine ⟨?_, fun u r up running held cmd hdr op through => ?_, fun u r held limited first =>
    congrArg Host.Outcome.next (State.deadlineExpiry_of_held first)⟩
  · have waits (g : Fw) (op : g.op = f.op) (len : g.lenOk = f.lenOk) (scope : g.scope = f.scope) (own : g.check = f.check) :
        s.fwCommand h g c = (s.taken h).holdCommand h f.op c := by
      rw [State.Heard.fwCommand ⟨linkUp, relayed, awake, credit⟩, op, len, scope, passes, running,
        State.firmware_of_late _ (op ▸ idle) (own ▸ check) late, op]
      rfl
    obtain ⟨mem, runtime, replied⟩ := s.holdCommand_taken (State.tag_new_of_intake passes) f.op c
    rcases exec_of_fw fw packet with course | ⟨nonce, ctx, session, quote, course⟩
    · exact ⟨_, (course s).trans (congrArg _ (waits f rfl rfl rfl rfl)), mem, runtime, replied⟩
    · have held := waits (fwAttestationQuote h nonce ctx session) (quote ▸ rfl) (quote ▸ rfl) (quote ▸ rfl) (quote ▸ rfl)
      obtain ⟨sec, kept⟩ := s.keepBody_eq ((s.taken h).holdCommand h f.op c) h nonce ctx session
      exact ⟨_, (course s).trans (congrArg _ ((congrArg (State.keepBody · s h nonce ctx session) held).trans kept)), mem, runtime, replied⟩
  · intro v
    have reply := State.runtimeReply_of_held up running held hdr op through (cmd ▸ fw)
    refine ⟨fun limited past => congrArg Host.Outcome.next (reply.trans (if_pos ⟨limited, past⟩)), fun inTime =>
      congrArg Host.Outcome.next (reply.trans (if_neg ?_))⟩
    rintro ⟨limited, past⟩
    rcases inTime with unlimited | early
    · simp [unlimited] at limited
    · exact absurd past (Nat.not_lt.2 early)

end Sys2Proof.Proofs.CommandInterface
end

section
namespace Sys2Proof.Machine

/-! ### Byte strings (R6) -/

@[simp] theorem leB_length (k n : Nat) : (leB k n).length = k := by simp [leB]

@[simp] theorem padTo_length (n : Nat) (b : Bytes) : (padTo n b).length = n := by
  simp only [padTo, List.length_take, List.length_append, List.length_replicate]
  omega

/-- A byte string of the length asked for stands as it is. -/
theorem padTo_of_length {n : Nat} {b : Bytes} (length : b.length = n) : padTo n b = b := by
  simp [padTo, length]

/-- The bytes of a number spell it, as far as they go. -/
theorem ofLe_leB (k n : Nat) : ofLe (leB k n) = n % 256 ^ k := by
  induction k generalizing n with
  | zero => simp [leB, ofLe, Nat.mod_one]
  | succ k ih =>
    have bytes : leB (k + 1) n = BitVec.ofNat 8 n :: leB k (n / 256) := by
      simp only [leB, List.range_succ_eq_map, List.map_cons, List.map_map, pow_zero, Nat.div_one, Function.comp_def, Nat.succ_eq_add_one,
        Nat.pow_succ', Nat.div_div_eq_div_mul]
    have tail := ih (n / 256)
    unfold ofLe at tail ⊢
    rw [bytes, List.foldr_cons, tail, BitVec.toNat_ofNat]
    exact (pow_succ' 256 k ▸ Nat.mod_mul).symm

section
variable {a b : Bytes} {i n : Nat}

/-- A field that stands before the last piece of a byte string. -/
theorem slice_append_left (before : i + n ≤ a.length) : slice (a ++ b) i n = slice a i n := by
  unfold slice
  rw [List.drop_append_of_le_length (by omega), List.take_append_of_le_length (by rw [List.length_drop]; omega)]

/-- The last piece of a byte string. -/
theorem slice_append_last (start : a.length = i) (length : b.length = n) : slice (a ++ b) i n = b := by
  unfold slice
  rw [← start, List.drop_left, ← length, List.take_length]

/-- The first piece of a byte string. -/
theorem slice_all (length : a.length = n) : slice a 0 n = a := by
  unfold slice
  rw [List.drop_zero, ← length, List.take_length]

/-- So for the number that it spells. -/
theorem leAt_append_left (before : i + n ≤ a.length) : leAt (a ++ b) i n = leAt a i n := congrArg ofLe (slice_append_left before)

/-- A number that fits its bytes, written last, reads as it was written. -/
theorem leAt_append_leB {v : Nat} (fits : v < 256 ^ n) (start : a.length = i) : leAt (a ++ leB n v) i n = v := by
  unfold leAt
  rw [slice_append_last start (leB_length n v), ofLe_leB, Nat.mod_eq_of_lt fits]

/-- And one written first. -/
theorem leAt_leB {v : Nat} (fits : v < 256 ^ n) : leAt (leB n v) 0 n = v := leAt_append_leB (a := []) fits rfl

end

/-! ### What a packet's acceptance leaves beside the link -/

theorem State.SameBesideLink.accept {s t : State} (same : s.SameBesideLink t) (h : Hdr) (op : Nat) : s.SameBesideLink (t.accept h op) := same

theorem State.SameBesideLink.accepted (s : State) (h : Hdr) (op : Nat) : s.SameBesideLink (s.accepted h op) :=
  (State.SameBesideLink.taken rfl h).accept h op

/-! ### The read commands (R8, R12, R352, R450) -/

/-- Addresses that can all be reached have no failing status. -/
theorem firstStatus_of_all_pass {l : List Nat} (pass : ∀ st ∈ l, st = 0) : firstStatus l = 0 := by
  induction l with
  | nil => rfl
  | cons st l ih =>
    obtain ⟨first, rest⟩ := List.forall_mem_cons.1 pass
    unfold firstStatus
    rw [if_neg (not_not_intro first), ih rest]

/-- The registers of TIME_STATUS read as they are held, but for the hall time. -/
theorem State.timeStatus_bytes (s : State) : ([TIM_STATUS, TIM_OFFSET, TIM_HALL_NOW, TIM_TICK_NOW].flatMap fun a => leB 8 (s.readReg a)) =
    leB 8 (s.readReg TIM_STATUS) ++ leB 8 (s.readReg TIM_OFFSET) ++ leB 8 s.hall ++ leB 8 (s.readReg TIM_TICK_NOW) := by
  have hall : s.readReg TIM_HALL_NOW = s.hall := rfl
  simp only [List.flatMap_cons, List.flatMap_nil, List.append_nil, hall, List.append_assoc]

section
variable {s : State} {h : Hdr} {op : Nat} {sc : Scope} {param : State → Nat}

/-- What a command of the command engine leaves once it is admitted. -/
theorem next_command_of_admits {lenOk : Bool} (len : lenOk = true) (admits : s.admits h op true sc param) (cmd : Instr)
    (effect : State → State) : (.next (s.command cmd h op lenOk sc param effect) : Result) = .next (effect (s.accepted h op)) :=
  congrArg Host.Outcome.next (State.command_of_admits len admits cmd effect)

/-- A fault-log read whose count is in range is answered with what it finds (R450). -/
theorem exec_faultLogRead_of_admits {first count : Nat} (len : h.length = 16) (some_ : 1 ≤ count) (most : count ≤ 127)
    (admits : s.admits h 0x0803 true .none noCheck) : exec (.faultLogRead h first count) s = .next ((s.accepted h 0x0803).reply h 0x0803
      ((s.accepted h 0x0803).readLog first count 127).1 ((s.accepted h 0x0803).readLog first count 127).2) :=
  next_command_of_admits (beq_iff_eq.2 len) (State.admits_of_check admits (if_neg (by omega))) _ _

end

/-! ### The outcomes of a fault-log read (R450) -/

section
variable (s : State) {first count most : Nat} (some_ : 1 ≤ count) (range : count ≤ most)
include some_ range

theorem State.readLog_of_overwritten (gone : first < s.rd FLT_LOG_INDEX.next_index - s.faultLog.length) :
    s.readLog first count most = (0x0211, []) := by
  unfold State.readLog
  simp only [if_neg (show ¬(count = 0 ∨ most < count) by omega), if_pos gone]

theorem State.readLog_of_future (held : s.rd FLT_LOG_INDEX.next_index - s.faultLog.length ≤ first)
    (future : s.rd FLT_LOG_INDEX.next_index ≤ first) : s.readLog first count most = (0x0210, []) := by
  unfold State.readLog
  simp only [if_neg (show ¬(count = 0 ∨ most < count) by omega), if_neg (Nat.not_lt.2 held), if_pos future]

theorem State.readLog_of_held (held : s.rd FLT_LOG_INDEX.next_index - s.faultLog.length ≤ first)
    (past : first < s.rd FLT_LOG_INDEX.next_index) :
    let l := (s.faultLog.drop (first - (s.rd FLT_LOG_INDEX.next_index - s.faultLog.length))).take count
    s.readLog first count most = (0, leB 8 first ++ leB 4 l.length ++ leB 4 0 ++ l.flatten) := by
  unfold State.readLog
  simp only [if_neg (show ¬(count = 0 ∨ most < count) by omega), if_neg (Nat.not_lt.2 held), if_neg (Nat.not_le.2 past)]

end

/-- A request of the service connector is answered where no reply waits on its interface (R485). -/
theorem State.service_of_free {s : State} {i : Nat} (standby : s.pins.standby = true) (free : (s.pins.replies.any fun r => r.1 == i) = false)
    (op tag : Nat) (act : State → Nat × Bytes × State) : s.service i op tag act =
      { (act s).2.2 with pins := { (act s).2.2.pins with
        replies := (act s).2.2.pins.replies ++ [(i, svcFrame op tag (act s).1 (act s).2.1)] } } := by
  unfold State.service
  simp only [standby, free, Bool.not_true, Bool.or_self, Bool.false_eq_true, if_false]

/-! ### The configuration write and the rows of one write (R344, R353) -/

section
variable {s : State} {h : Hdr}

/-- The length of a write of 1 to 255 entries is in range. -/
theorem writeLen_of_length {n : Nat} (len : h.length = 8 + 16 * n) (some_ : 1 ≤ n) (most : n ≤ 255) : writeLen h n = true := by
  simp [writeLen, len, some_, most]

/-- A row of one write, admitted, writes its register. -/
theorem next_writeOne_of_admits {a v : Nat} (len : h.length = 24) (admits : s.admits h 0x0102 true .none (·.writeStatus h.channel a v)) :
    (.next (s.writeOne h a v) : Result) = .next (((s.accepted h 0x0102).applyEntry a v).reply h 0x0102 0) := by
  obtain ⟨linkUp, relayed, awake, credit, intake, check⟩ := admits
  have own : checkConfigurationWrite h.channel 0 [(a, v)] (s.taken h) = 0 :=
    (if_neg (by decide)).trans (firstStatus_of_all_pass (by simpa using check))
  exact next_command_of_admits (writeLen_of_length (n := 1) len (by decide) (by decide)) ⟨linkUp, relayed, awake, credit, intake, own⟩ _ _

end

/-! ### The device identity (Table 16-4) -/

/-- The count of some positions fits 12 bits. -/
theorem positions_lt (p : Nat → Bool) : ((List.range 3528).filter p).length < 2 ^ 12 := by
  have most := List.length_filter_le p (List.range 3528)
  rw [List.length_range] at most
  omega

end Sys2Proof.Machine

namespace Sys2Proof.Proofs.CommandInterface

open Sys2Proof.Machine

/-- Settles O17: each command replies once it is accepted, its addresses and its count within its checks. -/
theorem readCommandsComplete : Obligations.ReadCommandsComplete := by
  intro s h
  refine ⟨fun len admits => next_command_of_admits (beq_iff_eq.2 len) admits _ _, fun data len admits =>
    next_command_of_admits (beq_iff_eq.2 len) admits _ _, fun addrs len some_ most admits reached => ?_, fun len admits => ?_,
    fun space first count offset len admits => next_command_of_admits (beq_iff_eq.2 len) admits _ _,
    fun first count len some_ most admits => exec_faultLogRead_of_admits len some_ most admits⟩
  · have check : firstStatus (addrs.map (s.taken h).addrStatus) = 0 := firstStatus_of_all_pass (by simpa using reached)
    exact next_command_of_admits (by simp [len, some_, most]) (State.admits_of_check admits check) _ _
  · refine (next_command_of_admits (beq_iff_eq.2 len) admits _ _).trans ?_
    rw [State.timeStatus_bytes, (State.SameBesideLink.accepted s h 0x0703).hall]

/-- Settles O18: the head of a write says whether it is applied at once; a staged one is checked again. -/
theorem configurationWriteCompletes : Obligations.ConfigurationWriteCompletes := by
  intro s h entries len some_ most admits
  have length := writeLen_of_length len some_ most
  exact ⟨next_command_of_admits length admits _ _, next_command_of_admits length admits _ _,
    fun pass => if_neg (not_not_intro pass), fun fails => if_pos fails⟩

/-- Settles O19: each row is one write of its register (`next_writeOne_of_admits`). -/
theorem registerWritesComplete : Obligations.RegisterWritesComplete := by
  intro s h i v len writes
  have one {c : Instr} {a w : Nat} (row : exec c s = .next (s.writeOne h a w)) : writes c a w :=
    fun admits => row.trans (next_writeOne_of_admits len admits)
  exact ⟨one rfl, one rfl, one rfl, fun _ => one rfl, one rfl, one rfl, fun _ _ _ => one rfl, one rfl, one rfl, one rfl, one rfl, one rfl, one rfl⟩

/-- Settles O58: where the first index lies decides (`State.readLog_of_overwritten`, `State.readLog_of_future`, `State.readLog_of_held`), for the
command and for the service connector alike. -/
theorem faultLogReadOutcomes : Obligations.FaultLogReadOutcomes := by
  intro s first count some_ next oldest answer
  refine ⟨fun h len most admits => ?_, fun i tag most standby free => ?_⟩
  · intro u
    have course := exec_faultLogRead_of_admits (first := first) len some_ most admits
    refine ⟨(State.SameBesideLink.accepted s h 0x0803).faultLog, fun gone => ?_, fun held future => ?_, fun held past => ?_⟩
    · rw [course, State.readLog_of_overwritten _ some_ most gone]
    · rw [course, State.readLog_of_future _ some_ most held future]
    · rw [course, State.readLog_of_held _ some_ most held past]
  · intro replied
    have course : exec (.serviceFaultLogRead i tag first count) s = .next (replied
        (s.readLog first count (if i = .uart then 127 else 7)).1 (s.readLog first count (if i = .uart then 127 else 7)).2) :=
      congrArg Host.Outcome.next (State.service_of_free standby free _ _ _)
    refine ⟨fun gone => ?_, fun held future => ?_, fun held past => ?_⟩
    · rw [course, State.readLog_of_overwritten _ some_ most gone]
    · rw [course, State.readLog_of_future _ some_ most held future]
    · rw [course, State.readLog_of_held _ some_ most held past]

/-- Settles O56: the payload's pieces follow one another as Table 16-4 has them. -/
theorem deviceIdentity : Obligations.DeviceIdentity := by
  intro s h len admits
  refine ⟨(s.accepted h 0x0001).identity, next_command_of_admits (beq_iff_eq.2 len) admits _ _, by simp [State.identity], ?_⟩
  intro u
  have version (f : RF) (fits : f.width ≤ 16) : u.rd f < 2 ^ 16 := Nat.lt_of_lt_of_le (bits_lt _ _ _) (Nat.pow_le_pow_right (by decide) fits)
  have tfw : u.rd SEC_VERSION.tfw_version < 256 ^ 4 := (version _ (by decide)).trans (by decide)
  have rfw : (if u.on CMD_STATUS.runtime_up then u.rd SEC_VERSION.rfw_version else 0) < 256 ^ 4 := by
    split
    · exact (version _ (by decide)).trans (by decide)
    · decide
  have serial : Config.serialNumber.toNat < 256 ^ 16 := Config.serialNumber.isLt
  have served : ((List.range 3528).filter fun t => !u.unserved t).length < 256 ^ 2 := (positions_lt _).trans (by decide)
  have present : u.rd STK_PRESENT.present < 256 ^ 2 := version _ (by decide)
  unfold State.identity
  refine ⟨?_, ?_, ?_, ?_, ?_, ?_, ?_, ?_, ?_, ?_⟩
  all_goals simp only [slice_append_left, slice_append_last, slice_all, leAt_append_left, List.length_append, List.length_cons, List.length_nil,
    leB_length, padTo_length, Nat.reduceAdd, Nat.reduceLeDiff]
  · exact congrArg (padTo 16) (by decide)
  · exact leAt_append_leB (by decide) (padTo_length _ _)
  · decide
  · exact leAt_append_leB (by decide) rfl
  · exact leAt_append_leB tfw rfl
  · exact leAt_append_leB rfw rfl
  · exact leAt_append_leB serial rfl
  · exact leAt_append_leB served rfl
  · exact leAt_append_leB present rfl
  · exact leAt_append_leB (by decide) rfl

end Sys2Proof.Proofs.CommandInterface
end

section
namespace Sys2Proof.Proofs.CommandInterface

open Sys2Proof.Machine Sys2Proof.Laws

/-- Settles O5: the meaning of every command is a next state. -/
theorem everyCommandRuns : Obligations.EveryCommandRuns := by
  intro i s
  cases i <;> exact ⟨_, rfl⟩

/-- Settles O9: of each command that a packet carries it is a law, and no other command has a header. -/
theorem wellFormedHeaderFits : Obligations.WellFormedHeaderFits := by
  intro i
  cases i with
  | deviceIdentity => exact HeaderFits.deviceIdentity _
  | echo => exact HeaderFits.echo _ _
  | configurationRead => exact HeaderFits.configurationRead _ _
  | configurationWrite => exact HeaderFits.configurationWrite _ _ _
  | tilNumStatusClearCount => exact HeaderFits.tilNumStatusClearCount _ _ _
  | tilSramEccClearCount => exact HeaderFits.tilSramEccClearCount _ _ _
  | tilCounterCtrlClearAll => exact HeaderFits.tilCounterCtrlClearAll _ _ _
  | aryQueueSelWrite => exact HeaderFits.aryQueueSelWrite _ _ _ _
  | bwdCtrlClearTags => exact HeaderFits.bwdCtrlClearTags _ _
  | stkEccClearCount => exact HeaderFits.stkEccClearCount _ _
  | tilRowMapWrite => exact HeaderFits.tilRowMapWrite _ _ _ _ _
  | calBistCtrlStart => exact HeaderFits.calBistCtrlStart _ _
  | portEnable => exact HeaderFits.portEnable _ _ _
  | portDisable => exact HeaderFits.portDisable _ _ _
  | mgmtAddressWrite => exact HeaderFits.mgmtAddressWrite _ _ _ _
  | partitionBuild => exact HeaderFits.partitionBuild _ _ _ _ _ _ _ _ _ _
  | partitionDissolve => exact HeaderFits.partitionDissolve _
  | partitionRelocate => exact HeaderFits.partitionRelocate _ _ _
  | contextCreate => exact HeaderFits.contextCreate _ _ _ _ _ _ _ _ _ _ _
  | contextDestroy => exact HeaderFits.contextDestroy _
  | sliceTableSet => exact HeaderFits.sliceTableSet _ _ _
  | contextPreEmpt => exact HeaderFits.contextPreEmpt _ _ _
  | freeAreaQuery => exact HeaderFits.freeAreaQuery _
  | slowdownRead => exact HeaderFits.slowdownRead _ _
  | programOpen => exact HeaderFits.programOpen _ _ _
  | programData => exact HeaderFits.programData _ _ _
  | programFetch => exact HeaderFits.programFetch _ _ _
  | programCommit => exact HeaderFits.programCommit _
  | weightSetOpen => exact HeaderFits.weightSetOpen _ _
  | storageRead => exact HeaderFits.storageRead _ _
  | weightSetCommit => exact HeaderFits.weightSetCommit _ _
  | weightSetSwitch => exact HeaderFits.weightSetSwitch _ _
  | weightSetRelease => exact HeaderFits.weightSetRelease _ _ _
  | weightSetDigest => exact HeaderFits.weightSetDigest _ _ _
  | adapterLoad => exact HeaderFits.adapterLoad _ _ _ _ _ _ _
  | adapterDrop => exact HeaderFits.adapterDrop _ _
  | storageConnect => exact HeaderFits.storageConnect _ _
  | storageDisconnect => exact HeaderFits.storageDisconnect _ _
  | sequenceAdmit => exact HeaderFits.sequenceAdmit _ _
  | sequenceCancel => exact HeaderFits.sequenceCancel _ _
  | sequenceQuery => exact HeaderFits.sequenceQuery _ _
  | servingConfigure => exact HeaderFits.servingConfigure _ _
  | ringConfigure => exact HeaderFits.ringConfigure _ _ _ _
  | trainingStep => exact HeaderFits.trainingStep _ _
  | rosterTree => exact HeaderFits.rosterTree _ _
  | jobStartStatus => exact HeaderFits.jobStartStatus _ _
  | inputLogRead => exact HeaderFits.inputLogRead _ _ _ _
  | inputLogConfigure => exact HeaderFits.inputLogConfigure _ _ _ _ _ _ _
  | inputLogLoad => exact HeaderFits.inputLogLoad _ _ _ _
  | jobStartArm => exact HeaderFits.jobStartArm _ _ _ _ _
  | jobStartBroadcast => exact HeaderFits.jobStartBroadcast _ _ _ _ _
  | streamOpen => exact HeaderFits.streamOpen _ _
  | streamClose => exact HeaderFits.streamClose _ _
  | mirrorConfigure => exact HeaderFits.mirrorConfigure _ _
  | mirrorAccept => exact HeaderFits.mirrorAccept _ _ _ _ _
  | tickSetDirect => exact HeaderFits.tickSetDirect _ _ _ _
  | tickSetEffective => exact HeaderFits.tickSetEffective _ _ _
  | timeStep => exact HeaderFits.timeStep _ _
  | timeStatus => exact HeaderFits.timeStatus _
  | counterSnapshot => exact HeaderFits.counterSnapshot _ _ _ _ _
  | sensorRead => exact HeaderFits.sensorRead _
  | faultLogRead => exact HeaderFits.faultLogRead _ _ _
  | measurementRead => exact HeaderFits.measurementRead _
  | measurementExtend => exact HeaderFits.measurementExtend _ _ _
  | certificateRead => exact HeaderFits.certificateRead _ _ _
  | attestationQuote => exact HeaderFits.attestationQuote _ _ _ _
  | quoteRead => exact HeaderFits.quoteRead _ _ _
  | sessionEstablishKey => exact HeaderFits.sessionEstablishKey _
  | sessionEstablishCiphertext => exact HeaderFits.sessionEstablishCiphertext _ _ _ _
  | streamKeySet => exact HeaderFits.streamKeySet _ _ _ _ _
  | debugUnlockChallenge => exact HeaderFits.debugUnlockChallenge _ _
  | debugUnlockResponse => exact HeaderFits.debugUnlockResponse _ _ _ _
  | firmwareUpdateInstall => exact HeaderFits.firmwareUpdateInstall _ _ _ _
  | firmwareUpdateStage => exact HeaderFits.firmwareUpdateStage _ _ _ _ _
  | firmwareUpdateFloor => exact HeaderFits.firmwareUpdateFloor _ _ _
  | keyEnrolment => exact HeaderFits.keyEnrolment _ _ _ _ _
  | traceEnable => exact HeaderFits.traceEnable _ _ _
  | traceDisable => exact HeaderFits.traceDisable _
  | powerCapSet => exact HeaderFits.powerCapSet _ _
  | thermalStatus => exact HeaderFits.thermalStatus _
  | calibrationRead => exact HeaderFits.calibrationRead _ _
  | calibrationWrite => exact HeaderFits.calibrationWrite _ _
  | calibrationCommit => exact HeaderFits.calibrationCommit _
  | calibrationRestore => exact HeaderFits.calibrationRestore _ _ _ _
  | resultRead => exact HeaderFits.resultRead _ _ _ _ _
  | resultRelease => exact HeaderFits.resultRelease _ _ _ _
  | retentionSet => exact HeaderFits.retentionSet _ _
  | _ => exact fun _ _ packet => nomatch packet

end Sys2Proof.Proofs.CommandInterface
end

section
/-! SUPPORT. Partitions and contexts (spec/15_partitions_contexts.md): the free-area map, the teardown of a context, and the registers of a
context created. -/

namespace Sys2Proof.Machine

/-! ### The free-area map (R335) -/

/-- One byte of a string that is made byte by byte. -/
theorem leAt_map_range {n j : Nat} (f : Nat → Byte) (inside : j < n) : leAt ((List.range n).map f) j 1 = (f j).toNat := by
  have byte : slice ((List.range n).map f) j 1 = [f j] := by
    rw [slice, List.drop_eq_getElem_cons (by simpa using inside)]
    simp
  rw [leAt, byte]
  simp [ofLe]

/-- The code of a position in two bits. -/
theorem State.areaCode_lt (s : State) (t : Nat) : s.areaCode t < 4 := by
  unfold State.areaCode
  repeat' split
  all_goals omega

/-- The byte of four positions' codes. -/
def State.areaByte (s : State) (i : Nat) : Nat := (List.range 4).foldl (fun v m => v + s.areaCode (4 * i + m) * 4 ^ m) 0

/-- It spells them from bit 0 upward. -/
theorem State.areaByte_eq (s : State) (i : Nat) : s.areaByte i =
    s.areaCode (4 * i) + s.areaCode (4 * i + 1) * 4 + s.areaCode (4 * i + 2) * 16 + s.areaCode (4 * i + 3) * 64 := by
  simp [State.areaByte, List.range_succ]

theorem State.areaByte_lt (s : State) (i : Nat) : s.areaByte i < 256 := by
  rw [State.areaByte_eq]
  have a := s.areaCode_lt (4 * i)
  have b := s.areaCode_lt (4 * i + 1)
  have c := s.areaCode_lt (4 * i + 2)
  have d := s.areaCode_lt (4 * i + 3)
  omega

/-- The code of one of the four. -/
theorem State.areaByte_code (s : State) (i : Nat) {m : Nat} (four : m < 4) : s.areaByte i / 4 ^ m % 4 = s.areaCode (4 * i + m) := by
  rw [State.areaByte_eq]
  have a := s.areaCode_lt (4 * i)
  have b := s.areaCode_lt (4 * i + 1)
  have c := s.areaCode_lt (4 * i + 2)
  have d := s.areaCode_lt (4 * i + 3)
  match m, four with
  | 0, _ => simp; omega
  | 1, _ => simp; omega
  | 2, _ => simp; omega
  | 3, _ => simp; omega

/-- The map without the six zero bytes behind it. -/
def State.areaCodes (s : State) : Bytes := (List.range 882).map fun i => BitVec.ofNat 8 (s.areaByte i)

theorem State.areaCodes_length (s : State) : s.areaCodes.length = 882 := by simp [State.areaCodes]

/-- The map holds the code of each position. -/
theorem State.areaCodes_code (s : State) {t : Nat} (inside : t < 3528) : leAt s.areaCodes (t / 4) 1 / 4 ^ (t % 4) % 4 = s.areaCode t := by
  rw [State.areaCodes, leAt_map_range _ (by omega), BitVec.toNat_ofNat, Nat.mod_eq_of_lt (s.areaByte_lt _),
    s.areaByte_code _ (Nat.mod_lt _ (by omega)), Nat.div_add_mod]

/-- How many positions have a code. -/
def State.areaCount (s : State) (k : Nat) : Nat := ((List.range 3528).filter fun t => s.areaCode t == k).length

theorem State.areaCount_le (s : State) (k : Nat) : s.areaCount k ≤ 3528 := by
  simpa [State.areaCount] using List.length_filter_le (fun t => s.areaCode t == k) (List.range 3528)

theorem State.readReg_parFree (s : State) : s.readReg PAR_FREE = s.freeAreas := rfl

/-- A position's code says what it is. -/
theorem State.areaCount_unserved (s : State) : s.areaCount 2 = ((List.range 3528).filter s.unserved).length := by
  unfold State.areaCount State.areaCode
  congr 2
  funext t
  cases s.unserved t <;> cases (s.partOf t).isSome <;> cases s.gated (tileField t) (tileRow t) <;> rfl

theorem State.areaCount_gated (s : State) : s.areaCount 3 = ((List.range 3528).filter fun t =>
    !s.unserved t && (s.partOf t).isNone && s.gated (tileField t) (tileRow t)).length := by
  unfold State.areaCount State.areaCode
  congr 2
  funext t
  cases s.unserved t <;> cases s.partOf t <;> cases s.gated (tileField t) (tileRow t) <;> rfl

/-- The free positions are those of code 0 and, gated, those of code 3. -/
theorem State.areaCount_free (s : State) : s.areaCount 0 + s.areaCount 3 =
    ((List.range 3528).filter fun t => !s.unserved t && (s.partOf t).isNone).length := by
  rw [List.length_eq_length_filter_add (l := (List.range 3528).filter _) fun t => s.areaCode t == 0, List.filter_filter, List.filter_filter]
  unfold State.areaCount State.areaCode
  congr 3 <;> funext t <;> cases s.unserved t <;> cases s.partOf t <;> cases s.gated (tileField t) (tileRow t) <;> rfl

/-- A position has at most one code. -/
theorem State.areaCount_total (s : State) : s.areaCount 0 + s.areaCount 3 ≤ 3528 := by
  rw [State.areaCount_free]
  simpa using List.length_filter_le (fun t => !s.unserved t && (s.partOf t).isNone) (List.range 3528)

/-- How many partitions there are. -/
def State.partCount (s : State) : Nat := ((List.range 32).filter fun p => s.rd (PAR_PART_CFG.state p) != 0).length

theorem State.partCount_le (s : State) : s.partCount ≤ 32 := by
  simpa [State.partCount] using List.length_filter_le (fun p => s.rd (PAR_PART_CFG.state p) != 0) (List.range 32)

theorem State.freeAreas_eq (s : State) :
    s.freeAreas = s.areaCount 3 * 2 ^ 32 + (s.areaCount 0 + s.areaCount 3) * 2 ^ 20 + s.partCount * 2 ^ 12 + s.areaCount 2 := by
  simp only [State.freeAreas, State.areaCount, List.filter_map, List.length_map]
  rfl

/-- PAR_FREE shows the totals (Table 15-8). -/
theorem State.parFree_totals (s : State) : bits (s.readReg PAR_FREE) 0 12 = s.areaCount 2 ∧
    bits (s.readReg PAR_FREE) 20 12 = s.areaCount 0 + s.areaCount 3 ∧ bits (s.readReg PAR_FREE) 32 12 = s.areaCount 3 := by
  rw [s.readReg_parFree, s.freeAreas_eq]
  have a := s.areaCount_le 2
  have b := s.areaCount_total
  have c := s.partCount_le
  unfold bits
  omega

end Sys2Proof.Machine

namespace Sys2Proof.Proofs.Partitions

open Sys2Proof.Machine

/-- Settles O55: each code from its byte, and the totals by counting the codes. -/
theorem freeAreaMap : Obligations.FreeAreaMap := by
  intro s h length admits
  refine ⟨(s.accepted h 0x0208).areaCodes, next_command_of_admits (by simp [length]) admits _ _, State.areaCodes_length _, ?_, ?_⟩
  · intro t inside
    exact State.areaCodes_code _ inside
  · obtain ⟨unserved, free, gated⟩ := (s.accepted h 0x0208).parFree_totals
    exact ⟨unserved.trans (State.areaCount_unserved _), free.trans (State.areaCount_free _), gated.trans (State.areaCount_gated _)⟩

end Sys2Proof.Proofs.Partitions
end

section
/-! SUPPORT. Faults (spec/21_faults_recovery.md, spec/16_command_interface.md): the record that a fault event carries (R364), and the channels that
take it (R363). -/

namespace Sys2Proof.Machine

/-! ### The record of a fault (R364) -/

/-- The first sixteen bytes of a fault's record. -/
def State.faultHead (s : State) (code cls space index : Nat) : Bytes := leB 2 code ++ leB 1 cls ++ leB 1 space ++ leB 4 index ++ leB 8 s.tick

theorem State.faultHead_length (s : State) (code cls space index : Nat) : (s.faultHead code cls space index).length = 16 := by
  simp [State.faultHead]

/-- The record is its head and sixteen bytes of detail. -/
theorem State.faultRecord_fst (s : State) (code cls space index : Nat) (detail : Bytes) : ∃ tail : Bytes, tail.length = 16 ∧
    (s.faultRecord code cls space index detail).1 = s.faultHead code cls space index ++ tail ∧
    ((detailStated code || !detail.isEmpty) = true → tail = padTo 16 detail) := by
  by_cases stated : (detailStated code || !detail.isEmpty) = true
  · refine ⟨padTo 16 detail, padTo_length _ _, ?_, fun _ => rfl⟩
    simp only [State.faultRecord, if_pos stated, State.faultHead]
  · refine ⟨leB 16 (s.free 128).1, leB_length _ _, ?_, fun h => absurd h stated⟩
    simp only [State.faultRecord, if_neg stated, State.faultHead]

/-- A record moves the free values alone. -/
theorem State.faultRecord_same {P : State → Prop} {s : State} (here : P s) (free : P (s.free 128).2) (code cls space index : Nat)
    (detail : Bytes) : P (s.faultRecord code cls space index detail).2 := by
  unfold State.faultRecord
  dsimp only
  split
  · exact here
  · exact free

theorem State.tick_lt (s : State) : s.tick < 256 ^ 8 := (bits_lt _ _ _).trans_le (by decide)

/-- The fields of a record's head. -/
theorem State.faultHead_fields (s : State) {code cls space index : Nat} (hcode : code < 2 ^ 16) (hcls : cls < 2 ^ 8) (hspace : space < 2 ^ 8)
    (hindex : index < 2 ^ 32) (tail : Bytes) :
    let b := s.faultHead code cls space index ++ tail
    leAt b 0 2 = code ∧ leAt b 2 1 = cls ∧ leAt b 3 1 = space ∧ leAt b 4 4 = index ∧ leAt b 8 8 = s.tick := by
  unfold State.faultHead
  refine ⟨?_, ?_, ?_, ?_, ?_⟩
  all_goals simp only [leAt_append_left, List.length_append, leB_length, Nat.reduceAdd, Nat.reduceLeDiff]
  · exact leAt_leB hcode
  · exact leAt_append_leB hcls rfl
  · exact leAt_append_leB hspace rfl
  · exact leAt_append_leB hindex rfl
  · exact leAt_append_leB s.tick_lt rfl

theorem breachPayload_length (tick lost cause resource part amount : Nat) : (breachPayload tick lost cause resource part amount).length = 16 := by
  simp [breachPayload]

/-! ### A fault event on the channels that take it (R363) -/

/-- A channel, and what it admits, are the same in two states. -/
structure State.SameChannel (s : State) (ch : Nat) (t : State) : Prop where
  chan : t.chan ch = s.chan ch
  cfg : t.reg (CMD_CHAN_CFG ch) = s.reg (CMD_CHAN_CFG ch)

section
variable {s t : State} {ch : Nat}

theorem State.SameChannel.wr (same : s.SameChannel ch t) {f : RF} (x : Nat) (apart : CMD_CHAN_CFG ch ≠ f.addr) : s.SameChannel ch (t.wr f x) :=
  ⟨(t.wr_chan f x ch).trans same.chan, (t.reg_wr_ne x apart).trans same.cfg⟩

theorem State.SameChannel.eventOn (same : s.SameChannel ch t) {other : Nat} (apart : ch ≠ other) (code cls part ctx : Nat) (payload : Bytes) :
    s.SameChannel ch (t.eventOn other code cls part ctx payload) := by
  refine ⟨(t.eventOn_chan_ne apart).trans same.chan, (t.eventOn_reg _ _ _ _ _ ?_).trans same.cfg⟩
  unfold offChannel CMD_CHAN_CFG CMD_CHAN_EVENTS CMD_CHAN_STATUS
  omega

/-- It takes the same events. -/
theorem State.SameChannel.takesEvent (same : s.SameChannel ch t) (code : Nat) (cls : Option Nat) :
    t.takesEvent ch code cls = s.takesEvent ch code cls := by
  have mask : t.rd (CMD_CHAN_CFG.event_mask ch) = s.rd (CMD_CHAN_CFG.event_mask ch) := State.rd_congr same.cfg
  have least : t.rd (CMD_CHAN_CFG.min_class ch) = s.rd (CMD_CHAN_CFG.min_class ch) := State.rd_congr same.cfg
  simp only [State.takesEvent, State.rdBit, mask, least]

/-- Registers of the fault unit are none of a channel. -/
theorem CMD_CHAN_CFG_lt_FLT (hch : ch < 8) : CMD_CHAN_CFG ch < FLT_CFG := by
  unfold CMD_CHAN_CFG FLT_CFG
  omega

/-- A channel that takes an event, with room, has it as its last packet. -/
theorem State.SameChannel.eventAs (same : s.SameChannel ch t) (hch : ch < 8) {code pcls : Nat} {cls : Option Nat}
    (takes : s.takesEvent ch code cls = true) (room : (s.chan ch).HasRoom pcls) (part ctx : Nat) (payload : Bytes) :
    ∃ k : Packet, ((t.eventAs code cls pcls part ctx payload).chan ch).queue = (s.chan ch).queue ++ [k] ∧ k.event = true ∧ k.opcode = code ∧
      k.payload = payload := by
  obtain ⟨before, after, split⟩ := List.append_of_mem (List.mem_range.2 hch)
  have distinct : (before ++ ch :: after).Nodup := split ▸ List.nodup_range
  obtain ⟨-, tail, apart⟩ := List.nodup_append.1 distinct
  obtain ⟨notAfter, -⟩ := List.nodup_cons.1 tail
  unfold State.eventAs
  rw [split, List.foldl_append, List.foldl_cons]
  have reached : s.SameChannel ch (before.foldl
      (fun s ch => if s.takesEvent ch code cls then s.eventOn ch code pcls part ctx payload else s) t) :=
    List.foldlRecOn before _ same fun u e other mem => ite_kept (P := s.SameChannel ch)
      (e.eventOn (apart other mem ch (List.mem_cons_self ..)).symm _ _ _ _ _) e
  revert reached
  generalize before.foldl _ t = u
  intro reached
  rw [if_pos ((reached.takesEvent _ _).trans takes)]
  have sent := u.eventOn_chan_of_room (code := code) (part := part) (ctx := ctx) (payload := payload) (reached.chan ▸ room)
  have kept : (u.eventOn ch code pcls part ctx payload).SameChannel ch (after.foldl
      (fun s ch => if s.takesEvent ch code cls then s.eventOn ch code pcls part ctx payload else s)
      (u.eventOn ch code pcls part ctx payload)) :=
    List.foldlRecOn after _ ⟨rfl, rfl⟩ fun v e other mem => ite_kept (P := State.SameChannel _ ch)
      (e.eventOn (fun same => notAfter (same ▸ mem)) _ _ _ _ _) e
  refine ⟨u.eventPacket ch code pcls part ctx payload, ?_, rfl, rfl, rfl⟩
  rw [kept.chan, sent, reached.chan]

/-- The teardown of a context moves no channel. -/
theorem State.tearDown_cmd (s : State) (c code cls : Nat) : (s.tearDown c code cls).cmd = s.cmd := by
  have dropped (u : State) (l : List Nat) : (l.foldl (fun v t => if v.hasWork c t then v.stopTile t else v) u).cmd = u.cmd :=
    foldl_kept (P := fun v => v.cmd = u.cmd) rfl fun v t e => ite_kept (P := fun v => v.cmd = u.cmd) e e
  unfold State.tearDown
  extract_lets p shown halted settled
  have hhalted : halted.cmd = s.cmd := ite_kept (P := fun t => t.cmd = s.cmd) (dropped _ _) rfl
  have hsettled : settled.cmd = s.cmd := ite_kept (P := fun t => t.cmd = s.cmd) hhalted hhalted
  exact ite_kept (P := fun t => t.cmd = s.cmd) rfl hsettled

theorem State.SameChannel.logged (same : s.SameChannel ch t) (l : List Bytes) : s.SameChannel ch { t with faultLog := l } :=
  ⟨same.chan, same.cfg⟩

/-- A fault's record is logged, and counted, in registers of the fault unit. -/
theorem State.SameChannel.logClass (same : s.SameChannel ch t) (hch : ch < 8) (cls : Nat) (rcd : Bytes) :
    s.SameChannel ch (t.logClass cls rcd) := by
  have low := CMD_CHAN_CFG_lt_FLT hch
  have counted (u : State) (h : s.SameChannel ch u) {f : RF} (x : Nat) (high : FLT_CFG ≤ f.addr) : s.SameChannel ch (u.wr f x) :=
    h.wr x (Nat.ne_of_lt (low.trans_le high))
  unfold State.logClass State.logFault
  refine ite_kept (P := s.SameChannel ch) ?_ same
  have index := counted t same (f := FLT_LOG_INDEX.next_index) (t.rd FLT_LOG_INDEX.next_index + 1) (by decide)
  refine ite_kept (P := s.SameChannel ch) ?_ ?_
  · exact (counted _ index (f := FLT_LOG_STATUS.held) _ (by decide)).logged _
  · exact (counted _ index (f := FLT_LOG_STATUS.overwritten) _ (by decide)).logged _

/-- A fault event reaches the channels that take it. -/
theorem State.SameChannel.reportFault (same : s.SameChannel ch t) (hch : ch < 8) {code cls : Nat} (takes : s.takesEvent ch 3 (some cls) = true)
    (room : (s.chan ch).HasRoom cls) (ctx part : Option Nat) (rcd : Bytes) :
    ∃ k : Packet, ((t.reportFault code cls ctx part rcd).chan ch).queue = (s.chan ch).queue ++ [k] ∧ k.event = true ∧ k.opcode = 3 ∧
      k.payload = rcd := by
  have low := CMD_CHAN_CFG_lt_FLT hch
  have counted {u : State} (h : s.SameChannel ch u) {f : RF} (x : Nat) (high : FLT_CFG ≤ f.addr) : s.SameChannel ch (u.wr f x) :=
    h.wr x (Nat.ne_of_lt (low.trans_le high))
  unfold State.reportFault
  extract_lets p shown classCounted ctxCounted reported
  have hshown : s.SameChannel ch shown :=
    ⟨same.chan, (t.reg_setReg_ne _ (Nat.ne_of_lt (low.trans_le (by decide)))).trans same.cfg⟩
  have hclass : s.SameChannel ch classCounted :=
    ite_kept (P := s.SameChannel ch) (counted hshown _ (by simp only [FLT_COUNTS.even_class, FLT_COUNTS, FLT_CFG]; omega))
      (counted hshown _ (by simp only [FLT_COUNTS.odd_class, FLT_COUNTS, FLT_CFG]; omega))
  have hctx : s.SameChannel ch ctxCounted := by
    unfold ctxCounted
    cases ctx with
    | none => exact hclass
    | some c => exact counted hclass _ (by simp only [FLT_CTX_STATUS.faults, FLT_CTX_STATUS, FLT_CFG]; omega)
  obtain ⟨k, sent, rest⟩ : ∃ k : Packet, (reported.chan ch).queue = (s.chan ch).queue ++ [k] ∧ k.event = true ∧ k.opcode = 3 ∧ k.payload = rcd :=
    hctx.eventAs hch takes room p _ rcd
  refine ⟨k, (congrArg Chan.queue ?_).trans sent, rest⟩
  have torn (u : State) (c : Nat) : (u.tearDown c code cls).chan ch = u.chan ch := by
    unfold State.chan
    rw [u.tearDown_cmd]
  split
  · cases ctx with
    | none => rfl
    | some c => exact torn _ c
  · refine ite_kept (P := fun t => t.chan ch = reported.chan ch) ?_ rfl
    cases part with
    | none => rfl
    | some q => exact foldl_kept (P := fun t => t.chan ch = reported.chan ch) rfl fun u c e => (torn u c).trans e

end

end Sys2Proof.Machine

namespace Sys2Proof.Proofs.CommandInterface

open Sys2Proof.Machine

/-- Settles O57: the record from its head and its tail, and the event's way through the channels. -/
theorem faultRecords : Obligations.FaultRecords := by
  intro s code cls space index detail hcode hcls hspace hindex b
  obtain ⟨tail, length, record, stated⟩ := s.faultRecord_fst code cls space index detail
  obtain ⟨fcode, fcls, fspace, findex, ftick⟩ := s.faultHead_fields hcode hcls hspace hindex tail
  have hb : b = s.faultHead code cls space index ++ tail := record
  have headLength := s.faultHead_length code cls space index
  rw [← hb] at fcode fcls fspace findex ftick
  refine ⟨?_, fcode, fcls, fspace, findex, ftick, fun named => ?_, fun ctx part ch hch takes room => ?_, fun tick lost cause resource q amount => ?_⟩
  · rw [hb, List.length_append, headLength, length]
  · rw [hb, slice_append_last headLength length]
    exact stated (by rw [named, Bool.true_or])
  · have recorded : s.SameChannel ch (s.faultRecord code cls space index detail).2 := State.faultRecord_same ⟨rfl, rfl⟩ ⟨rfl, rfl⟩ _ _ _ _ _
    exact (recorded.logClass hch cls b).reportFault hch takes room ctx part b
  · have breach := breachPayload_length tick lost cause resource q amount
    obtain ⟨detail, held, shown, named⟩ := s.faultRecord_fst 0x2F01 1 0 0 (breachPayload tick lost cause resource q amount)
    refine ⟨breach, ?_⟩
    rw [shown, slice_append_last (s.faultHead_length ..) held, named rfl, padTo_of_length breach]

end Sys2Proof.Proofs.CommandInterface
end

section
/-! SUPPORT. A fault against a context (R334, R451): which registers of the contexts it moves. -/

namespace Sys2Proof.Machine

/-! ### What a teardown touches of the registers -/

section
variable (s : State) {a : Nat}

theorem State.cpart_lt (c : Nat) : s.cpart c < 32 := bits_lt _ _ _

/-- The tile registers lie beyond those of the control die. -/
theorem State.stopTile_reg (tile : Nat) (low : a < 2 ^ 40) : (s.stopTile tile).reg a = s.reg a := by
  have tiles {f : RF} (high : 2 ^ 40 ≤ f.addr) : a ≠ f.addr := by omega
  refine List.foldlRecOn (motive := fun t => State.reg t a = s.reg a) _ _ (s.reg_wr_ne _ (tiles ?_)) fun v e f mem =>
    (v.reg_wr_ne 0 (tiles ?_)).trans e
  · simp only [INS_STATUS.stream, INS_STATUS]
    omega
  · simp only [List.mem_cons, List.not_mem_nil, or_false] at mem
    rcases mem with rfl | rfl | rfl | rfl | rfl | rfl | rfl | rfl | rfl | rfl | rfl
    all_goals
      simp only [ARY_STATUS.rate, ARY_STATUS.ew_mode, ARY_STATUS.drain_busy, MVP_STATUS.active, MVP_STATUS.queued, MVP_STATUS.phase,
        MVP_STATUS.set_loading, SPR_STATUS.prune_active, BWD_STATUS.row_bwd_active, BWD_STATUS.freeze_active, INS_RA.outstanding,
        ARY_STATUS, MVP_STATUS, SPR_STATUS, BWD_STATUS, INS_RA]
      omega

/-- A field lowered leaves every other register. -/
theorem State.reg_dec_ne {f : RF} (n : Nat) (apart : a ≠ f.addr) : (s.dec f n).reg a = s.reg a := s.reg_wr_ne _ apart

/-- The contexts, the partitions and the mesh lines lie apart from the registers. -/
@[simp] theorem State.modCtx_reg (c : Nat) (f : CtxS → CtxS) (a : Nat) : (s.modCtx c f).reg a = s.reg a := rfl

theorem State.dropLines_reg (p a : Nat) : (s.dropLines p).reg a = s.reg a := rfl

@[simp] theorem State.modPart_reg (p : Nat) (f : PartS → PartS) (a : Nat) : (s.modPart p f).reg a = s.reg a := rfl

/-- The fabric ports and the engines lie apart from the registers. -/
theorem State.withFab_reg (fab : FabS) (eng : List (Nat × Eng)) (a : Nat) : ({ s with fab := fab, eng := eng } : State).reg a = s.reg a := rfl

/-- What a context that ends gives back is counted in its own credits, its partition's and the streams open. -/
theorem State.abandon_reg (c : Nat) (credits : ∀ p < 32, a ≠ PAR_PART_CREDITS p) (own : a ≠ PAR_CTX_CREDIT c) (streams : a ≠ PRT_STREAMS) :
    (s.abandon c).reg a = s.reg a := by
  have pool := credits (s.cpart c) (s.cpart_lt c)
  unfold State.abandon
  extract_lets p held drain returned zeroed mine closed fab rest
  have hreturned : returned.reg a = s.reg a :=
    (State.reg_dec_ne _ (f := PAR_PART_CREDITS.draining p) _ pool).trans (s.reg_dec_ne (f := PAR_PART_CREDITS.in_use p) _ pool)
  have hzeroed : zeroed.reg a = returned.reg a :=
    (State.reg_wr_ne _ (f := PAR_CTX_CREDIT.draining c) 0 own).trans (returned.reg_wr_ne (f := PAR_CTX_CREDIT.held c) 0 own)
  have hclosed : closed.reg a = zeroed.reg a := zeroed.reg_dec_ne (f := PRT_STREAMS.opened) mine.length streams
  exact (rest.modCtx_reg c _ a).trans ((closed.withFab_reg _ _ a).trans (hclosed.trans (hzeroed.trans hreturned)))

end

/-- A context's state and the cause of its teardown are the same in two states. -/
structure State.SameCause (s : State) (d : Nat) (t : State) : Prop where
  cst : t.cst d = s.cst d
  code : t.rd (FLT_CTX_STATUS.cause_code d) = s.rd (FLT_CTX_STATUS.cause_code d)
  cls : t.rd (FLT_CTX_STATUS.cause_class d) = s.rd (FLT_CTX_STATUS.cause_class d)

/-- An address of no register that shows the context's state or its cause. -/
def offCause (d a : Nat) : Prop := PAR_CTX_CFG d ≠ a ∧ FLT_CTX_STATUS d ≠ a

section
variable {s t u : State} {c d : Nat}

theorem State.SameCause.refl (s : State) (d : Nat) : s.SameCause d s := ⟨rfl, rfl, rfl⟩

theorem State.SameCause.trans (first : s.SameCause d t) (second : t.SameCause d u) : s.SameCause d u :=
  ⟨second.cst.trans first.cst, second.code.trans first.code, second.cls.trans first.cls⟩

/-- The two registers decide it. -/
theorem State.SameCause.of_reg (cfg : t.reg (PAR_CTX_CFG d) = s.reg (PAR_CTX_CFG d))
    (status : t.reg (FLT_CTX_STATUS d) = s.reg (FLT_CTX_STATUS d)) : s.SameCause d t :=
  ⟨State.rd_congr cfg, State.rd_congr status, State.rd_congr status⟩

/-- What moves no register keeps it. -/
theorem State.SameCause.of_regs (same : s.SameCause d t) (regs : u.regs = t.regs) : s.SameCause d u := by
  have reg (a : Nat) : u.reg a = t.reg a := by unfold State.reg; rw [regs]
  exact same.trans (.of_reg (reg _) (reg _))

theorem State.SameCause.setReg (same : s.SameCause d t) {a : Nat} (v : Nat) (off : offCause d a) : s.SameCause d (t.setReg a v) :=
  same.trans (.of_reg (t.reg_setReg_ne v off.1) (t.reg_setReg_ne v off.2))

theorem State.SameCause.wr (same : s.SameCause d t) {f : RF} (x : Nat) (off : offCause d f.addr) : s.SameCause d (t.wr f x) :=
  State.SameCause.setReg same _ off

theorem State.SameCause.eventOn (same : s.SameCause d t) (ch code cls part ctx : Nat) (payload : Bytes) : s.SameCause d (t.eventOn ch code cls part ctx payload) := by
  refine same.trans (.of_reg (t.eventOn_reg _ _ _ _ _ ?_) (t.eventOn_reg _ _ _ _ _ ?_))
  all_goals
    unfold offChannel CMD_CHAN_EVENTS CMD_CHAN_STATUS
    simp only [PAR_CTX_CFG, FLT_CTX_STATUS]
    omega

theorem State.SameCause.eventAs (same : s.SameCause d t) (code : Nat) (cls : Option Nat) (pcls part ctx : Nat)
    (payload : Bytes) : s.SameCause d (t.eventAs code cls pcls part ctx payload) :=
  foldl_kept (P := s.SameCause d) same fun _ _ e => ite_kept (P := s.SameCause d) (e.eventOn _ _ _ _ _ _) e

theorem State.SameCause.stopTile (same : s.SameCause d t) (hd : d < 128) (tile : Nat) : s.SameCause d (t.stopTile tile) := by
  refine same.trans (.of_reg (t.stopTile_reg tile ?_) (t.stopTile_reg tile ?_))
  all_goals
    simp only [PAR_CTX_CFG, FLT_CTX_STATUS]
    omega

theorem State.SameCause.abandon (same : s.SameCause d t) (hd : d < 128) : s.SameCause d (t.abandon c) := by
  refine same.trans (.of_reg (t.abandon_reg c (fun p hp => ?_) ?_ ?_) (t.abandon_reg c (fun p hp => ?_) ?_ ?_))
  all_goals
    simp only [PAR_CTX_CFG, FLT_CTX_STATUS, PAR_PART_CREDITS, PAR_CTX_CREDIT, PRT_STREAMS]
    omega

/-- A context marked as in TEARDOWN, with the cause. -/
def State.markDown (s : State) (c code cls : Nat) : State :=
  ((s.wr (PAR_CTX_CFG.state c) stTeardown).wr (FLT_CTX_STATUS.cause_code c) code).wr (FLT_CTX_STATUS.cause_class c) cls

/-- It shows the mark. -/
theorem State.markDown_shows (canon : s.Canon) (hc : c < 128) {code cls : Nat} (hcode : code < 2 ^ 16) (hcls : cls < 2 ^ 3) :
    (s.markDown c code cls).cst c = stTeardown ∧ (s.markDown c code cls).rd (FLT_CTX_STATUS.cause_code c) = code ∧
      (s.markDown c code cls).rd (FLT_CTX_STATUS.cause_class c) = cls := by
  have apart : PAR_CTX_CFG c ≠ FLT_CTX_STATUS c := by
    unfold PAR_CTX_CFG FLT_CTX_STATUS
    omega
  have down := State.wr_kept canon_kept _ (PAR_CTX_CFG.state c) stTeardown canon
  have caused := State.wr_kept canon_kept _ (FLT_CTX_STATUS.cause_code c) code down
  refine ⟨?_, ?_, ?_⟩
  · refine (State.rd_wr_ne _ (f := FLT_CTX_STATUS.cause_class c) (g := PAR_CTX_CFG.state c) _ apart).trans ?_
    refine (State.rd_wr_ne _ (f := FLT_CTX_STATUS.cause_code c) (g := PAR_CTX_CFG.state c) _ apart).trans ?_
    exact State.rd_wr canon.2 (PAR_CTX_CFG.state c) _ (show 61 + 3 ≤ 64 by decide)
  · refine (State.rd_wr_field caused.2 (f := FLT_CTX_STATUS.cause_class c) (g := FLT_CTX_STATUS.cause_code c) _ (show 45 + 3 ≤ 64 by decide) rfl
      (.inr (show 45 + 3 ≤ 48 by decide))).trans ?_
    exact (State.rd_wr down.2 (FLT_CTX_STATUS.cause_code c) code (show 48 + 16 ≤ 64 by decide)).trans (Nat.mod_eq_of_lt hcode)
  · exact (State.rd_wr caused.2 (FLT_CTX_STATUS.cause_class c) cls (show 45 + 3 ≤ 64 by decide)).trans (Nat.mod_eq_of_lt hcls)

/-- It moves no other context. -/
theorem State.SameCause.markDown (same : s.SameCause d t) (apart : d ≠ c) (hc : c < 128) (hd : d < 128) (code cls : Nat) :
    s.SameCause d (t.markDown c code cls) := by
  have state : offCause d (PAR_CTX_CFG c) := by
    unfold offCause PAR_CTX_CFG FLT_CTX_STATUS
    omega
  have cause : offCause d (FLT_CTX_STATUS c) := by
    unfold offCause PAR_CTX_CFG FLT_CTX_STATUS
    omega
  exact ((same.wr (f := PAR_CTX_CFG.state c) _ state).wr (f := FLT_CTX_STATUS.cause_code c) _ cause).wr (f := FLT_CTX_STATUS.cause_class c) _ cause

/-- A context FREE or in TEARDOWN is left alone (R452). -/
theorem State.tearDown_of_gone {code cls : Nat} (gone : s.cst c = stFree ∨ s.cst c = stTeardown) : s.tearDown c code cls = s := if_pos gone

/-- After the mark, a teardown moves no context's state and no cause. -/
theorem State.markDown_sameCause (hd : d < 128) {code cls : Nat} (live : ¬(s.cst c = stFree ∨ s.cst c = stTeardown)) :
    (s.markDown c code cls).SameCause d (s.tearDown c code cls) := by
  have inPart := s.cpart_lt c
  have status : offCause d (PAR_PART_STATUS (s.cpart c)) := by
    unfold offCause PAR_CTX_CFG FLT_CTX_STATUS PAR_PART_STATUS
    omega
  unfold State.tearDown
  rw [if_neg live]
  extract_lets p shown halted settled
  have hshown : (s.markDown c code cls).SameCause d shown := State.SameCause.refl _ _
  have hhalted : (s.markDown c code cls).SameCause d halted := by
    refine ite_kept (P := State.SameCause _ d) ?_ hshown
    refine foldl_kept (P := State.SameCause _ d) ?_ fun u t e => ite_kept (P := State.SameCause _ d) (e.stopTile hd t) e
    exact (hshown.wr (f := PAR_PART_STATUS.running_valid p) 0 status).of_regs rfl
  have hsettled : (s.markDown c code cls).SameCause d settled :=
    ite_kept (P := State.SameCause _ d) ((hhalted.wr (f := PAR_PART_STATUS.evicting p) 0 status).of_regs rfl) hhalted
  exact hsettled.abandon hd

theorem State.SameCause.logClass (same : s.SameCause d t) (hd : d < 128) (cls : Nat) (rcd : Bytes) : s.SameCause d (t.logClass cls rcd) := by
  have index : offCause d FLT_LOG_INDEX := by
    unfold offCause PAR_CTX_CFG FLT_CTX_STATUS FLT_LOG_INDEX
    omega
  have status : offCause d FLT_LOG_STATUS := by
    unfold offCause PAR_CTX_CFG FLT_CTX_STATUS FLT_LOG_STATUS
    omega
  have next := same.wr (f := FLT_LOG_INDEX.next_index) (t.rd FLT_LOG_INDEX.next_index + 1) index
  refine ite_kept (P := s.SameCause d) (ite_kept (P := s.SameCause d) ?_ ?_) same
  · exact (next.wr (f := FLT_LOG_STATUS.held) _ status).of_regs rfl
  · exact (next.wr (f := FLT_LOG_STATUS.overwritten) _ status).of_regs rfl

/-- The count of a context's faults stands in another field than the cause of its teardown. -/
theorem State.SameCause.countFault (same : s.SameCause d t) (canon : t.Canon) (hc : c < 128) (hd : d < 128) :
    s.SameCause d (t.inc (FLT_CTX_STATUS.faults c) 1) := by
  by_cases own : d = c
  · subst own
    have apart : PAR_CTX_CFG d ≠ FLT_CTX_STATUS d := by
      unfold PAR_CTX_CFG FLT_CTX_STATUS
      omega
    refine same.trans ⟨t.rd_wr_ne (f := FLT_CTX_STATUS.faults d) (g := PAR_CTX_CFG.state d) _ apart, ?_, ?_⟩
    · exact State.rd_wr_field canon.2 (f := FLT_CTX_STATUS.faults d) (g := FLT_CTX_STATUS.cause_code d) _ (show 16 + 16 ≤ 64 by decide) rfl
        (.inr (show 16 + 16 ≤ 48 by decide))
    · exact State.rd_wr_field canon.2 (f := FLT_CTX_STATUS.faults d) (g := FLT_CTX_STATUS.cause_class d) _ (show 16 + 16 ≤ 64 by decide) rfl
        (.inr (show 16 + 16 ≤ 45 by decide))
  · refine State.SameCause.wr same (f := FLT_CTX_STATUS.faults c) _ ?_
    unfold offCause PAR_CTX_CFG
    simp only [FLT_CTX_STATUS.faults, FLT_CTX_STATUS]
    omega

/-- A class 2 fault is counted and reported, and then tears its context down. -/
theorem State.reportFault_tearsDown (canon : s.Canon) (hc : c < 128) (code : Nat) (part : Option Nat) (rcd : Bytes) :
    ∃ u : State, u.Canon ∧ (∀ d < 128, s.SameCause d u) ∧ s.reportFault code 2 (some c) part rcd = u.tearDown c code 2 := by
  have off {a : Nat} (d : Nat) (hd : d < 128) (low : FLT_CFG ≤ a) (high : a < 0x1d000) : offCause d a := by
    unfold FLT_CFG at low
    unfold offCause PAR_CTX_CFG FLT_CTX_STATUS
    omega
  unfold State.reportFault
  extract_lets p shown classCounted ctxCounted reported
  have cshown : shown.Canon := canon_kept.setReg _ _ _ canon
  have cclass : classCounted.Canon := State.inc_kept canon_kept _ _ _ cshown
  have cctx : ctxCounted.Canon := State.inc_kept canon_kept _ _ _ cclass
  refine ⟨reported, State.event_kept canon_kept _ _ _ _ _ _ cctx, fun d hd => ?_, rfl⟩
  have hshown : s.SameCause d shown := (State.SameCause.refl s d).setReg _ (off d hd (by decide) (by decide))
  have hclass : s.SameCause d classCounted := hshown.wr (f := FLT_COUNTS.even_class (2 / 2)) _ (off d hd (by decide) (by decide))
  exact (hclass.countFault cclass hc hd).eventAs _ _ _ _ _ _

end

end Sys2Proof.Machine

namespace Sys2Proof.Proofs.Partitions

open Sys2Proof.Machine

/-- Settles O59: up to its teardown a fault moves no context's state and no cause, and the teardown marks its own context alone. -/
theorem contextFaultTearsDownOne : Obligations.ContextFaultTearsDownOne := by
  intro s c code space index part detail canon hc hcode t
  have recorded := State.faultRecord_kept canon_kept s code 2 space index detail canon
  have logged := State.logClass_kept canon_kept _ 2 (s.faultRecord code 2 space index detail).1 recorded
  obtain ⟨u, ucanon, same, torn⟩ := State.reportFault_tearsDown logged hc code part (s.faultRecord code 2 space index detail).1
  have before (d : Nat) (hd : d < 128) : s.SameCause d u :=
    ((State.faultRecord_same (P := s.SameCause d) (.refl s d) ((State.SameCause.refl s d).of_regs rfl) _ _ _ _ _).logClass hd _ _).trans
      (same d hd)
  have ht : t = u.tearDown c code 2 := torn
  rw [ht]
  refine ⟨fun notFree notDown => ?_, fun down => ?_, fun d hd apart => ?_⟩
  · have live : ¬(u.cst c = stFree ∨ u.cst c = stTeardown) := by
      rw [(before c hc).cst]
      exact not_or.2 ⟨notFree, notDown⟩
    have kept := State.markDown_sameCause (code := code) (cls := 2) hc live
    obtain ⟨state, cause, cls⟩ := State.markDown_shows ucanon hc hcode (show 2 < 2 ^ 3 by decide)
    exact ⟨kept.cst.trans state, kept.code.trans cause, kept.cls.trans cls⟩
  · rw [State.tearDown_of_gone (.inr ((before c hc).cst.trans down))]
    exact ⟨(before c hc).cst.trans down, (before c hc).code⟩
  · by_cases gone : u.cst c = stFree ∨ u.cst c = stTeardown
    · rw [State.tearDown_of_gone gone]
      exact (before d hd).cst
    · exact (((before d hd).markDown apart hc hd code 2).trans (State.markDown_sameCause hd gone)).cst

end Sys2Proof.Proofs.Partitions
end

section
/-! SUPPORT. A context created (R317 to R320): the registers that its creation writes, and what leaves them. -/

namespace Sys2Proof.Machine

/-! ### A run of register writes -/

/-- Registers written in turn. -/
def State.setRegs (s : State) (l : List (Nat × Nat)) : State := l.foldl (fun u e => u.setReg e.1 e.2) s

section
variable {s : State} {a v : Nat} {before after : List (Nat × Nat)}

theorem State.setRegs_canon (canon : s.Canon) (l : List (Nat × Nat)) : (s.setRegs l).Canon :=
  foldl_kept canon fun u e h => canon_kept.setReg u e.1 e.2 h

/-- A register reads as it was last written. -/
theorem State.reg_setRegs (canon : s.Canon) (last : ∀ e ∈ after, a ≠ e.1) : (s.setRegs (before ++ (a, v) :: after)).reg a = v % 2 ^ 64 := by
  unfold State.setRegs
  rw [List.foldl_append, List.foldl_cons]
  have written : ((before.foldl (fun u e => u.setReg e.1 e.2) s).setReg a v).reg a = v % 2 ^ 64 :=
    State.reg_setReg (State.setRegs_canon canon before).2 a v
  exact List.foldlRecOn (motive := fun u : State => u.reg a = v % 2 ^ 64) after _ written fun u e w mem =>
    (u.reg_setReg_ne w.2 (last w mem)).trans e

end

/-! ### A reply moves its channel's outstanding count alone -/

section
variable (s : State) (h : Hdr) (op status : Nat) (payload : Bytes) (dup : Bool)

theorem State.reply_reg {a : Nat} (apart : a ≠ CMD_CHAN_STATUS h.channel) : (s.reply h op status payload dup).reg a = s.reg a := by
  unfold State.reply
  dsimp only
  split
  · rfl
  · exact ite_kept (P := fun t => t.reg a = s.reg a) rfl (s.reg_wr_ne (f := CMD_CHAN_STATUS.outstanding h.channel) _ apart)

/-- A register that a field lowered leaves at zero. -/
theorem State.dec_reg_zero {s : State} (canon : s.Canon) (f : RF) (n : Nat) {a : Nat} (zero : s.reg a = 0) : (s.dec f n).reg a = 0 := by
  by_cases own : a = f.addr
  · subst own
    have none : s.rd f = 0 := by simp [State.rd, zero, bits]
    unfold State.dec State.wr
    rw [State.reg_setReg canon.2, none, zero]
    simp [setBits, bits]
  · exact (s.reg_wr_ne (f := f) _ own).trans zero

theorem State.reply_reg_zero {s : State} (canon : s.Canon) {a : Nat} (zero : s.reg a = 0) : (s.reply h op status payload dup).reg a = 0 := by
  unfold State.reply
  dsimp only
  split
  · exact zero
  · exact ite_kept (P := fun t => t.reg a = 0) zero (State.dec_reg_zero canon (CMD_CHAN_STATUS.outstanding h.channel) _ zero)

end

/-! ### Shares cleared, and stack bytes zeroed -/

section
variable (s : State)

/-- Bytes of a partition's stacks zeroed count in registers of the stacks and the field nodes alone. -/
theorem State.zeroPart_reg (p a n : Nat) {r : Nat} (low : r < 2 ^ 40) : (s.zeroPart p a n).reg r = s.reg r := by
  have counted : ((s.clearPart p a n).countLines p a n true).reg r = s.reg r := by
    refine foldl_kept (P := fun u => u.reg r = s.reg r) rfl fun u k e => (u.stackCount_reg k.1 k.2 true (some p) r).trans ?_
    refine (u.reg_wr_ne (f := STK_WR_LINES.write_lines k.1) _ ?_).trans e
    simp only [STK_WR_LINES.write_lines, STK_WR_LINES]
    omega
  have carried (u : State) (x y : Nat × Nat) (k : Nat) : (u.underlay x y k).reg r = u.reg r := by
    unfold State.underlay
    extract_lets path forwarded waited
    have atNodes : forwarded.reg r = u.reg r := foldl_kept (P := fun v => v.reg r = u.reg r) rfl fun v q e =>
      (v.reg_wr_ne (f := NET_UL_LINES.ul_lines (nodeField q)) _ (by simp only [NET_UL_LINES.ul_lines, NET_UL_LINES]; omega)).trans e
    exact foldl_kept (P := fun v => v.reg r = u.reg r) atNodes fun _ _ e => e
  exact foldl_kept (P := fun u => u.reg r = s.reg r) counted fun u k e => (carried u _ _ _).trans e

/-- Words cancelled return their credits, and move no other register. -/
theorem State.cancelWords_reg (c : Nat) (tiles : List Nat) {r : Nat} (own : r ≠ PAR_CTX_CREDIT c) (pool : ∀ p < 32, r ≠ PAR_PART_CREDITS p) :
    (s.cancelWords c tiles).reg r = s.reg r := by
  have emptied (g : Eng → Eng) : (tiles.foldl (fun u t => u.modEng c t g) s).reg r = s.reg r :=
    foldl_kept (P := fun u => u.reg r = s.reg r) rfl fun _ _ e => e
  have given (u : State) (n : Nat) : (u.giveCredits c n).reg r = u.reg r :=
    (State.reg_wr_ne _ (f := PAR_PART_CREDITS.in_use _) _ (pool _ (State.cpart_lt _ c))).trans
      (u.reg_wr_ne (f := PAR_CTX_CREDIT.held c) _ own)
  have shown (u : State) : (u.showDraining c).reg r = u.reg r :=
    (State.reg_wr_ne _ (f := PAR_PART_CREDITS.draining _) _ (pool _ (u.cpart_lt c))).trans (u.reg_wr_ne (f := PAR_CTX_CREDIT.draining c) _ own)
  exact ite_kept (P := fun u => u.reg r = s.reg r) (emptied _) ((shown _).trans ((given _ _).trans (emptied _)))

/-- Nor does it move the context's floor. -/
theorem State.cancelWords_floor {s : State} (canon : s.Canon) (c : Nat) (tiles : List Nat) :
    (s.cancelWords c tiles).rd (PAR_CTX_CREDIT.floor c) = s.rd (PAR_CTX_CREDIT.floor c) := by
  have apart {p : Nat} (hp : p < 32) : PAR_CTX_CREDIT c ≠ PAR_PART_CREDITS p := by
    unfold PAR_CTX_CREDIT PAR_PART_CREDITS
    omega
  have pool (u : State) {f : RF} {p : Nat} (x : Nat) (at_pool : f.addr = PAR_PART_CREDITS p) (hp : p < 32) :
      (u.wr f x).rd (PAR_CTX_CREDIT.floor c) = u.rd (PAR_CTX_CREDIT.floor c) :=
    u.rd_wr_ne (g := PAR_CTX_CREDIT.floor c) x (at_pool ▸ apart hp)
  have emptied (g : Eng → Eng) : (tiles.foldl (fun u t => u.modEng c t g) s).Canon ∧
      (tiles.foldl (fun u t => u.modEng c t g) s).rd (PAR_CTX_CREDIT.floor c) = s.rd (PAR_CTX_CREDIT.floor c) :=
    foldl_kept (P := fun u => u.Canon ∧ u.rd (PAR_CTX_CREDIT.floor c) = s.rd (PAR_CTX_CREDIT.floor c)) ⟨canon, rfl⟩ fun _ _ e => e
  have given {u : State} (uc : u.Canon) (n : Nat) : (u.giveCredits c n).rd (PAR_CTX_CREDIT.floor c) = u.rd (PAR_CTX_CREDIT.floor c) :=
    (pool _ _ rfl (State.cpart_lt _ c)).trans (State.rd_wr_field uc.2 (f := PAR_CTX_CREDIT.held c) (g := PAR_CTX_CREDIT.floor c) _
      (show 32 + 16 ≤ 64 by decide) rfl (.inr (show 32 + 16 ≤ 48 by decide)))
  have shown {u : State} (uc : u.Canon) : (u.showDraining c).rd (PAR_CTX_CREDIT.floor c) = u.rd (PAR_CTX_CREDIT.floor c) :=
    (pool _ _ rfl (u.cpart_lt c)).trans (State.rd_wr_field uc.2 (f := PAR_CTX_CREDIT.draining c) (g := PAR_CTX_CREDIT.floor c) _
      (show 16 + 16 ≤ 64 by decide) rfl (.inr (show 16 + 16 ≤ 48 by decide)))
  refine ite_kept (P := fun u => u.rd (PAR_CTX_CREDIT.floor c) = s.rd (PAR_CTX_CREDIT.floor c)) (emptied _).2 ?_
  exact (shown (State.giveCredits_kept canon_kept _ _ _ (emptied _).1)).trans ((given (emptied _).1 _).trans (emptied _).2)

/-- A share cleared moves what its words' cancellation moves. -/
theorem State.clearShare_reg (c : Nat) {r : Nat} (own : r ≠ PAR_CTX_CREDIT c) (pool : ∀ p < 32, r ≠ PAR_PART_CREDITS p) :
    (s.clearShare c).reg r = s.reg r :=
  State.cancelWords_reg _ c _ own pool

theorem State.clearShare_floor {s : State} (canon : s.Canon) (c : Nat) :
    (s.clearShare c).rd (PAR_CTX_CREDIT.floor c) = s.rd (PAR_CTX_CREDIT.floor c) :=
  State.cancelWords_floor (canon_kept.upd (canon_kept.dropMem trivial _ _ canon)) c _

end

/-! ### The registers of a context created (R317, R320, R366) -/

/-- What creation writes in a context's configuration register. -/
def ctxWord (st part slot role ex report base lines target : Nat) : Nat :=
  st * 2 ^ 61 + part * 2 ^ 56 + slot * 2 ^ 53 + role * 2 ^ 51 + ex * 2 ^ 50 + report * 2 ^ 49 + base * 2 ^ 31 + lines * 2 ^ 14 + target * 2 ^ 8

/-- Its fields (Table 15-3). -/
theorem bits_ctxWord {st part slot role ex report base lines target : Nat} (hst : st < 8) (hpart : part < 32) (hslot : slot ≤ 7)
    (hrole : role ≤ 2) (hex : ex ≤ 1) (hreport : report ≤ 1) (hbase : base ≤ 81920) (hlines : lines ≤ 81920) (htarget : target ≤ 63) :
    let v := ctxWord st part slot role ex report base lines target % 2 ^ 64
    bits v 61 3 = st ∧ bits v 56 5 = part ∧ bits v 53 3 = slot ∧ bits v 51 2 = role ∧ bits v 50 1 = ex ∧ bits v 49 1 = report ∧
      bits v 31 17 = base ∧ bits v 14 17 = lines ∧ bits v 8 6 = target := by
  unfold ctxWord bits
  refine ⟨?_, ?_, ?_, ?_, ?_, ?_, ?_, ?_, ?_⟩ <;> omega

/-- The parameters that creation's first check passes (R317, R318). -/
theorem checkContextCreate_ranges {p c slot role base lines ex floor evict target report : Nat} {s : State}
    (pass : checkContextCreate p c slot role base lines ex floor evict target report s = 0) :
    slot ≤ 7 ∧ role ≤ 2 ∧ ex ≤ 1 ∧ base ≤ 81920 ∧ lines ≤ 81920 ∧ target ≤ 63 ∧ report ≤ 1 ∧ floor ≤ 65535 := by
  unfold checkContextCreate at pass
  split at pass
  · cases pass
  · rename_i good
    simp only [not_or, Nat.not_lt, Bool.not_eq_true] at good
    obtain ⟨hslot, hrole, hex, share, htarget, hreport, hfloor, -⟩ := good
    have range : base ≤ 81920 ∧ lines ≤ 81920 := by
      unfold badShare at share
      split at share
      · simp only [Bool.not_eq_false', Bool.and_eq_true, beq_iff_eq] at share
        omega
      · simp only [Bool.or_eq_false_iff, decide_eq_false_iff_not] at share
        omega
    exact ⟨hslot, hrole, hex, range.1, range.2, htarget, hreport, hfloor⟩

/-- The registers that creation writes, in turn, with values `x` to `z'` that depend on the state. -/
def contextWrites (h : Hdr) (word seed floor evict x y r z z' : Nat) : List (Nat × Nat) :=
  let c := h.context
  [(PAR_CTX_CFG c, word), (PAR_CTX_CREDIT c, floor * 2 ^ 48), (PAR_CTX_SEED c, seed), (PAR_CTX_EVICT c, evict),
    (PAR_PART_CREDITS h.partition, x), (PAR_PART_CFG h.partition, y), (CMD_RESULT_CFG c, setBits r 0 32 60000), (CMD_RESULT_STATUS c, 0),
    (FLT_CTX_STATUS c, z), (FLT_CTX_STATUS c, z'), (FLT_CTX_ILOG_BASE c, 0), (FLT_CTX_ILOG_CFG c, 0), (FLT_CTX_ILOG_WIN c, 0),
    (FLT_CTX_ILOG_STEP c, 0), (FLT_CTX_FINISH c, 0), (FLT_CTX_FINISH_MAX c, 0)]

/-- A context created: its registers, its share, and the reply. -/
theorem doContextCreate_eq (h : Hdr) (slot role base lines ex seed floor evict target report : Nat) (s : State) :
    let clash := (s.partCtxs h.partition).any fun d => s.inTiles d &&
      overlap base lines (s.rd (PAR_CTX_CFG.share_base d)) (s.rd (PAR_CTX_CFG.share_lines d))
    ∃ x y r z z' : Nat,
      let w := (s.setRegs (contextWrites h (ctxWord (if clash then stEvicted else stResident) h.partition slot role ex report base lines target)
        seed floor evict x y r z z')).setCtx h.context {}
      doContextCreate h slot role base lines ex seed floor evict target report s =
        (if clash then w.zeroPart h.partition (w.evictBase h.context) (w.evictBytes h.context) else w.clearShare h.context).reply h 0x0204 0 := by
  intro clash
  unfold doContextCreate contextWrites State.setRegs
  exact ⟨_, _, _, _, _, rfl⟩

/-- The registers of a context as its creation leaves them, before its share and the reply. -/
theorem State.setRegs_contextWrites {s : State} (canon : s.Canon) (h : Hdr) (hc : h.context < 128) (hp : h.partition < 32)
    (word seed floor evict x y r z z' : Nat) :
    let w := s.setRegs (contextWrites h word seed floor evict x y r z z')
    let c := h.context
    w.reg (PAR_CTX_CFG c) = word % 2 ^ 64 ∧ w.reg (PAR_CTX_CREDIT c) = floor * 2 ^ 48 % 2 ^ 64 ∧ w.reg (PAR_CTX_SEED c) = seed % 2 ^ 64 ∧
      w.reg (PAR_CTX_EVICT c) = evict % 2 ^ 64 ∧ w.reg (CMD_RESULT_CFG c) = setBits r 0 32 60000 % 2 ^ 64 ∧ w.reg (CMD_RESULT_STATUS c) = 0 := by
  refine ⟨State.reg_setRegs (before := []) canon ?_, State.reg_setRegs (before := [_]) canon ?_, State.reg_setRegs (before := [_, _]) canon ?_,
    State.reg_setRegs (before := [_, _, _]) canon ?_, State.reg_setRegs (before := [_, _, _, _, _, _]) canon ?_,
    State.reg_setRegs (before := [_, _, _, _, _, _, _]) canon ?_⟩
  all_goals
    simp only [List.forall_mem_cons, PAR_CTX_CFG, PAR_CTX_CREDIT, PAR_CTX_SEED, PAR_CTX_EVICT, PAR_PART_CREDITS, PAR_PART_CFG, CMD_RESULT_CFG,
      CMD_RESULT_STATUS, FLT_CTX_STATUS, FLT_CTX_ILOG_BASE, FLT_CTX_ILOG_CFG, FLT_CTX_ILOG_WIN, FLT_CTX_ILOG_STEP, FLT_CTX_FINISH,
      FLT_CTX_FINISH_MAX, List.not_mem_nil, false_imp_iff, implies_true, and_true]
    omega

/-- Its share and the reply leave them, the floor of its credits too. -/
theorem State.created_keeps {w : State} (canon : w.Canon) {h : Hdr} (hc : h.context < 128) (clash : Bool) (p a n : Nat) :
    let t := (if clash then w.zeroPart p a n else w.clearShare h.context).reply h 0x0204 0
    let c := h.context
    (∀ q ∈ [PAR_CTX_CFG c, PAR_CTX_SEED c, PAR_CTX_EVICT c, CMD_RESULT_CFG c], t.reg q = w.reg q) ∧
      t.rd (PAR_CTX_CREDIT.floor c) = w.rd (PAR_CTX_CREDIT.floor c) ∧
      (w.reg (CMD_RESULT_STATUS c) = 0 → t.reg (CMD_RESULT_STATUS c) = 0) := by
  intro t c
  have canonShare : (if clash then w.zeroPart p a n else w.clearShare c).Canon :=
    ite_kept (P := State.Canon) (State.zeroPart_kept canon_kept _ _ _ _ canon) (State.clearShare_kept canon_kept _ _ canon)
  have share {q : Nat} (low : q < 2 ^ 40) (own : q ≠ PAR_CTX_CREDIT c) (pool : ∀ p < 32, q ≠ PAR_PART_CREDITS p) :
      (if clash then w.zeroPart p a n else w.clearShare c).reg q = w.reg q :=
    ite_kept (P := fun u => u.reg q = w.reg q) (w.zeroPart_reg p a n low) (w.clearShare_reg c own pool)
  refine ⟨fun q listed => ?_, ?_, fun zero => State.reply_reg_zero h _ _ _ _ canonShare ?_⟩
  · have places : q < 2 ^ 40 ∧ q ≠ PAR_CTX_CREDIT c ∧ (∀ p < 32, q ≠ PAR_PART_CREDITS p) ∧ q ≠ CMD_CHAN_STATUS h.channel := by
      simp only [List.mem_cons, List.not_mem_nil, or_false, PAR_CTX_CFG, PAR_CTX_SEED, PAR_CTX_EVICT, CMD_RESULT_CFG] at listed
      unfold PAR_CTX_CREDIT PAR_PART_CREDITS CMD_CHAN_STATUS
      refine ⟨?_, ?_, fun p hp => ?_, ?_⟩ <;> omega
    obtain ⟨low, own, pool, channel⟩ := places
    exact (State.reply_reg _ h _ _ _ _ channel).trans (share low own pool)
  · have channel : PAR_CTX_CREDIT c ≠ CMD_CHAN_STATUS h.channel := by
      unfold PAR_CTX_CREDIT CMD_CHAN_STATUS
      omega
    refine (State.rd_congr (f := PAR_CTX_CREDIT.floor c) (State.reply_reg _ h _ _ _ _ channel)).trans ?_
    refine ite_kept (P := fun u => u.rd (PAR_CTX_CREDIT.floor c) = w.rd (PAR_CTX_CREDIT.floor c)) ?_ (State.clearShare_floor canon c)
    refine State.rd_congr (f := PAR_CTX_CREDIT.floor c) (w.zeroPart_reg p a n ?_)
    simp only [PAR_CTX_CREDIT.floor, PAR_CTX_CREDIT]
    omega
  · refine (share ?_ ?_ fun p hp => ?_).trans zero
    all_goals
      simp only [CMD_RESULT_STATUS, PAR_CTX_CREDIT, PAR_PART_CREDITS]
      omega

/-- A firmware command that runs passes its own check as it arrives. -/
theorem State.runs.passes {s : State} {h : Hdr} {f : Fw} {cmd : Instr} (runs : s.runs h f cmd) : f.check (s.taken h) = 0 := by
  obtain ⟨⟨-, -, -, -, -, check⟩, -⟩ := runs
  exact check

theorem State.fwAccepted_canon {s : State} (canon : s.Canon) (h : Hdr) (op : Nat) : (s.fwAccepted h op).Canon :=
  State.accept_kept canon_kept _ _ _ (State.wakeFor_kept canon_kept _ _ _ (State.takeCredit_kept canon_kept _ _ (State.arrive_kept canon_kept _ _ canon)))

end Sys2Proof.Machine

namespace Sys2Proof.Proofs.Partitions

open Sys2Proof.Machine

/-- Settles O60: the fields of the registers that creation writes, which the share and the reply leave. -/
theorem contextCreateShows : Obligations.ContextCreateShows := by
  intro s h slot role base lines ex seed floor evict target report canon hc hp hseed hevict runs c u clash
  obtain ⟨hslot, hrole, hex, hbase, hlines, htarget, hreport, hfloor⟩ := checkContextCreate_ranges runs.passes
  have uc : u.Canon := State.fwAccepted_canon canon h 0x0204
  obtain ⟨x, y, r, z, z', created⟩ := doContextCreate_eq h slot role base lines ex seed floor evict target report u
  refine ⟨_, congrArg Host.Outcome.next ((State.fwCommand_of_runs runs).trans created), ?_⟩
  have hst : (if clash then stEvicted else stResident) < 8 := by cases clash <;> decide
  obtain ⟨fst, fpart, fslot, frole, fex, freport, fbase, flines, ftarget⟩ := bits_ctxWord hst hp hslot hrole hex hreport hbase hlines htarget
  have wc := State.setRegs_canon uc (contextWrites h (ctxWord (if clash then stEvicted else stResident) h.partition slot role ex report base
    lines target) seed floor evict x y r z z')
  obtain ⟨cfg, credit, wseed, wevict, retention, counts⟩ := State.setRegs_contextWrites uc h hc hp
    (ctxWord (if clash then stEvicted else stResident) h.partition slot role ex report base lines target) seed floor evict x y r z z'
  revert wc cfg credit wseed wevict retention counts
  generalize u.setRegs _ = w
  intro wc cfg credit wseed wevict retention counts
  obtain ⟨kept, floorKept, zero⟩ := State.created_keeps (w := w.setCtx h.context {}) wc hc clash h.partition
    ((w.setCtx h.context {}).evictBase h.context) ((w.setCtx h.context {}).evictBytes h.context)
  simp only [List.forall_mem_cons] at kept
  obtain ⟨kcfg, kseed, kevict, kretention, -⟩ := kept
  have word := kcfg.trans cfg
  have floors : bits (floor * 2 ^ 48 % 2 ^ 64) 48 16 = floor := by
    unfold bits
    omega
  have time : bits (setBits r 0 32 60000 % 2 ^ 64) 0 32 = 60000 := by
    have written := bits_setBits r 0 32 60000
    unfold bits at written ⊢
    omega
  have address : bits (evict % 2 ^ 64) 0 40 = evict := by
    unfold bits
    omega
  have field {lo width v : Nat} (shows : bits _ lo width = v) := (congrArg (bits · lo width) word).trans shows
  exact ⟨field fst, field fpart, field fslot, field frole, field fex, field freport, field fbase, field flines, field ftarget,
    kseed.trans (wseed.trans (Nat.mod_eq_of_lt hseed)), (congrArg (bits · 0 40) (kevict.trans wevict)).trans address,
    (floorKept.trans (congrArg (bits · 48 16) credit)).trans floors,
    (congrArg (bits · 0 32) (kretention.trans retention)).trans time, zero counts⟩

end Sys2Proof.Proofs.Partitions
end

section
/-! SUPPORT. Fabric ports (spec/17_fabric_ports.md): what a stream does with a packet, and what the events of a port, a stream and a job do. -/

namespace Sys2Proof.Machine

/-! ### A packet in hand (R377, R378, R380) -/

section
variable {s : State} {x : Stream} {k : MladubPkt}

/-- A packet that its tag or counter refuses is counted, and a sixteenth in a row is reported. -/
theorem State.takePacket_of_badAuth (bad : badAuth x k = true) : s.takePacket x k =
    let t := (s.inc (PRT_MLADUB.auth_fail x.port) 1).setStream { x with rejects := x.rejects + 1 }
    if 15 ≤ x.rejects then t.fault 0x3104 2 5 x.port (some x.ctx) (some (t.cpart x.ctx)) [] else t := by
  unfold State.takePacket
  simp only [bad, if_true, show (16 ≤ x.rejects + 1) = (15 ≤ x.rejects) from propext (by omega)]

/-- No packet of a stream without protection is refused. -/
theorem badAuth_of_plain (plain : x.prot = false) : badAuth x k = false := by simp [badAuth, plain]

theorem State.takePacket_of_repeat (plain : x.prot = false) (unmarked : k.ce = false)
    (again : (psnBefore k.psn x.expected || x.held.any (fun q => q.psn == k.psn)) = true) :
    s.takePacket x k = (s.inc (PRT_MLADUB.dup_rx x.port) 1).sendAck x := by
  unfold State.takePacket
  simp only [badAuth_of_plain plain, plain, unmarked, again, Bool.false_eq_true, if_false, if_true]

theorem State.takePacket_of_noBuffer (plain : x.prot = false) (unmarked : k.ce = false)
    (new : (psnBefore k.psn x.expected || x.held.any (fun q => q.psn == k.psn)) = false)
    (full : 16 * 2 ^ 20 < s.bufferUsed x.port + k.payload.length) :
    s.takePacket x k = (s.inc (PRT_MLADUB.rx_no_buffer x.port) 1).setStream x := by
  unfold State.takePacket
  simp only [badAuth_of_plain plain, plain, unmarked, new, full, Bool.false_eq_true, if_false, if_true]

/-- What counts as fresh goes by the stream's context. -/
theorem State.freshFor_congr {y : Stream} (same : y.ctx = x.ctx) : s.freshFor y = s.freshFor x := by
  funext contribution
  unfold State.freshFor
  rw [same]

/-- The one packet held that is next in order passes on, where it is fresh. -/
theorem advance_one (fresh : Option (Nat × Nat) → Bool) {y : Stream} {q : HeldPkt} (held : y.held = [q]) (next : q.psn = y.expected) :
    advance fresh 1 y = { if fresh q.of_ then y.pass q.payload q.eom else y with expected := (y.expected + 1) % 2 ^ 32, held := [] } := by
  simp [advance, held, next]

/-- A packet in order that finds nothing held passes its bytes on (R378, R261). -/
theorem State.takePacket_of_next (plain : x.prot = false) (unmarked : k.ce = false)
    (new : (psnBefore k.psn x.expected || x.held.any (fun q => q.psn == k.psn)) = false)
    (room : s.bufferUsed x.port + k.payload.length ≤ 16 * 2 ^ 20) (none_held : x.held = []) (next : k.psn = x.expected) (data : x.kind = 0)
    (acked : x.sinceAck = 0) : s.takePacket x k = s.setStream { x with
      held := [], expected := (x.expected + 1) % 2 ^ 32, ready := if s.freshFor x k.of_ then x.ready ++ k.payload else x.ready,
      arrived := s.hall, sinceAck := 1, oldest := s.hall, progress := s.hall } := by
  unfold State.takePacket
  rw [if_neg (ne_true_of_eq_false (badAuth_of_plain plain))]
  extract_lets opened marked inOrder held passed timed
  have hopened : opened = x := if_neg (ne_true_of_eq_false plain)
  have hmarked : marked = x := (if_neg (ne_true_of_eq_false unmarked)).trans hopened
  have hheld : held = { x with held := [⟨k.psn, k.payload, k.eom, k.of_⟩], arrived := s.hall, sinceAck := 1, oldest := s.hall } := by
    simp only [held, hmarked, none_held, insertHeld, State.opened, plain, acked, Bool.not_false, if_true, Nat.zero_add]
  have hpassed : passed = { x with
      held := [], expected := (x.expected + 1) % 2 ^ 32, ready := if s.freshFor x k.of_ then x.ready ++ k.payload else x.ready,
      arrived := s.hall, sinceAck := 1, oldest := s.hall } := by
    have same : s.freshFor held = s.freshFor x := State.freshFor_congr (by rw [hheld])
    rw [show passed = Machine.advance (s.freshFor x) held.held.length held from same ▸ rfl, hheld]
    refine (advance_one _ rfl next).trans ?_
    by_cases fresh : s.freshFor x k.of_ = true
    · simp only [if_pos fresh, Stream.pass, if_pos data]
    · simp only [if_neg fresh]
  have hinOrder : inOrder = true := beq_iff_eq.2 (hmarked ▸ next)
  have htimed : timed = { passed with progress := s.hall } := if_pos hinOrder
  rw [hmarked, if_neg (ne_true_of_eq_false new), if_neg (Nat.not_lt.2 room), if_neg, htimed, hpassed]
  simp [hinOrder, htimed, hpassed]

end

end Sys2Proof.Machine

namespace Sys2Proof.Proofs.FabricPorts

open Sys2Proof.Machine

/-- Settles O36: the outcomes of a packet in hand, one lemma each. -/
theorem streamTakesPackets : Obligations.StreamTakesPackets := by
  intro s x k
  refine ⟨fun bad few => ?_, fun bad many => ?_, fun plain unmarked => ⟨fun before => ?_, fun notBefore notHeld => ⟨fun full => ?_, ?_⟩⟩⟩
  · exact (State.takePacket_of_badAuth bad).trans (if_neg (Nat.not_le.2 few))
  · exact (State.takePacket_of_badAuth bad).trans (if_pos many)
  · exact State.takePacket_of_repeat plain unmarked (by rw [before, Bool.true_or])
  · exact State.takePacket_of_noBuffer plain unmarked (by rw [notBefore, notHeld, Bool.or_false]) full
  · exact State.takePacket_of_next plain unmarked (by rw [notBefore, notHeld, Bool.or_false])

end Sys2Proof.Proofs.FabricPorts
end

section
/-! SUPPORT. The packets of a port and the events of a stream (spec/17_fabric_ports.md). -/

namespace Sys2Proof.Machine

/-- An event that a module not up leaves unheard does what it does while the module is up. -/
theorem next_of_not_down {s t u : State} (up : s.up = true) (course : t = u) : (.next (if !s.up then s else t) : Result) = .next u :=
  congrArg Host.Outcome.next ((if_neg (by simp [up])).trans course)

/-! ### A Mladub packet at a port (R371, R372) -/

section
variable {s : State} {p : Nat} {k : MladubPkt}

/-- A port whose address is not its own yet takes nothing of what comes in. -/
theorem State.arriveFor_of_deaf (up : s.up = true) (link : s.rd (PRT_STATUS.link_state p) = 3) (passes : s.passes 2 (p / 4) = true)
    (deaf : s.hears p = false) (i : Instr) (act : State → State) : s.arriveFor p i act = s := by
  unfold State.arriveFor State.arriveAt
  simp only [up, link, passes, deaf, bne_self_eq_false, Bool.not_true, Bool.false_and, Bool.or_self, Bool.false_eq_true, if_false]

/-- A packet of a stream of the port is in its hands (R375). -/
theorem State.takeMladub_of_stream {x : Stream} (plain : k.extHeader = false) (udp : k.udpOk = true) (type : k.ptype = 0x01 ∨ k.ptype = 0x30)
    (found : s.stream k.dstStream = some x) (receives : x.direction = 1) (here : x.port = p) (peer : x.peerHandle = k.srcStream)
    (open_ : x.prot = true ∨ k.isProtected = false) :
    s.takeMladub p k = (if k.ce then s.inc (PRT_ECN.ce_rx p) 1 else s).takePacket x k := by
  have known : knownType k.ptype = true := by rcases type with e | e <;> rw [e] <;> rfl
  have carries : ¬(k.ptype ≠ 0x01 ∧ k.ptype ≠ 0x30) := by omega
  have accepts : (x.prot || !k.isProtected) = true := by rcases open_ with e | e <;> simp [e]
  have same : (if k.ce then s.inc (PRT_ECN.ce_rx p) 1 else s).stream k.dstStream = some x :=
    ite_kept (P := fun t => t.stream k.dstStream = some x) found found
  unfold State.takeMladub
  simp only [plain, udp, known, carries, same, receives, here, peer, accepts, Bool.false_eq_true, Bool.not_true, if_false, and_self, if_true]

end

/-! ### Acknowledgements and time-outs (R378, R379) -/

section
variable {s : State} {x : Stream} {h psn : Nat} {p : TxPkt}

/-- A lowered rate leaves a stream in its context. -/
theorem State.congested_ctx (s : State) (x : Stream) : (s.congested x).ctx = x.ctx := by
  unfold State.congested
  extract_lets a marked due
  by_cases cut : due = true
  · rw [if_pos cut]
  · rw [if_neg cut]

/-- An unanswered packet breaks its stream after eight times (R378). -/
theorem State.resend_of_spent (found : (x.unacked.find? fun q => q.psn == psn) = some p) (often : 8 ≤ p.resends) (fast : Bool) :
    s.resend x psn fast = s.breakStream x := by
  unfold State.resend
  simp only [found, if_pos often]

/-- And is sent again before. -/
theorem State.resend_of_left (found : (x.unacked.find? fun q => q.psn == psn) = some p) (few : p.resends < 8) (fast : Bool) :
    s.resend x psn fast =
      let q := { p with resends := p.resends + 1, sentAt := s.hall, fast := fast }
      let r := s.sendData x q true
      let z := { r.2 with unacked := r.2.unacked.map fun u => if u.psn == psn then q else u }
      let t := (r.1.inc (PRT_MLADUB.retransmits x.port) 1).setStream z
      if z.spent then t.breakStream z else t := by
  unfold State.resend
  simp only [found, if_neg (Nat.not_le.2 few)]

/-- The time-out of a packet sent and not acknowledged halves the rate and sends it again. -/
theorem State.retransmission_of_sent (stream : s.stream h = some x) (found : (x.unacked.find? fun q => q.psn == psn) = some p)
    (sent : p.unpaid = false) (port : s.portUp x.port = true) :
    s.retransmission h psn =
      let t := { s with hall := max s.hall (p.sentAt + s.rto x p) }
      let y := { x with rate := s.clampRate (x.rate / 2) }
      (t.setStream y).resend y psn false := by
  unfold State.retransmission
  simp only [stream, found, sent, port, Bool.not_true, Bool.or_self, Bool.false_eq_true, if_false]
  rfl

/-- A part found by its number has it. -/
theorem psn_of_found {l : List HopPkt} {k : HopPkt} (found : (l.find? fun e => e.psn == psn) = some k) : k.psn = psn := by
  simpa using List.find?_some found

/-- The time-out of a hop's part sends it again, or drops it after eight times (R382; log 32). -/
theorem State.resendHop_of_sent {peer : Nat} {k : HopPkt} (found : ((s.hop peer).unacked.find? fun e => e.psn == psn) = some k)
    (port : s.portUp (s.ctrlPort peer) = true) : s.resendHop peer psn =
      { s with hall := max s.hall (k.sentAt + s.rtoOf (s.hop peer).srtt (s.hop peer).rttvar k.resends) }.repeatHop peer k false := by
  unfold State.resendHop
  simp only [found, port, Bool.not_true, Bool.false_eq_true, if_false]

/-- An acknowledgement of a stream that its port hears (R378, R379). -/
theorem State.ackReceived_of_stream {a : AckBody} (own : a.peer = none) (stream : s.stream a.stream = some x) (sends : x.direction = 0)
    (comes : comesIn s x.port) : s.ackReceived a = s.ackStream a := by
  unfold State.ackReceived
  simp only [own, stream, sends, ne_eq, not_true_eq_false, if_false]
  exact State.arriveFor_of_comesIn comes _ _

end

end Sys2Proof.Machine

namespace Sys2Proof.Proofs.FabricPorts

open Sys2Proof.Machine

/-- Settles O35: what comes in at a port that hears is taken, and at one that does not nothing is. -/
theorem dataPackets : Obligations.DataPackets := by
  intro s p k up link passes
  have taken (hears : s.hears p = true) : exec (.dataReceived p k) s = .next (s.takeMladub p k) :=
    congrArg Host.Outcome.next (State.arriveFor_of_comesIn ⟨up, link, passes, hears⟩ _ _)
  refine ⟨fun deaf => congrArg Host.Outcome.next (State.arriveFor_of_deaf up link passes deaf _ _), fun hears ext => ?_,
    fun hears plain => ⟨fun udp => ?_, fun udp unknown => ?_, fun x udp type found receives here peer accepts => ?_⟩⟩
  · exact (taken hears).trans (congrArg Host.Outcome.next (if_pos ext))
  · refine (taken hears).trans (congrArg Host.Outcome.next ?_)
    simp only [State.takeMladub, plain, udp, Bool.false_eq_true, Bool.not_false, if_false, if_true]
  · refine (taken hears).trans (congrArg Host.Outcome.next ?_)
    simp only [State.takeMladub, plain, udp, unknown, Bool.false_eq_true, Bool.not_true, Bool.not_false, if_false, if_true]
  · exact (taken hears).trans (congrArg Host.Outcome.next (State.takeMladub_of_stream plain udp type found receives here peer accepts))

/-- Settles O37: the course of each event, of a stream and of a hop. -/
theorem streamEventsComplete : Obligations.StreamEventsComplete := by
  intro s up
  refine ⟨fun h x found => ⟨?ack, ?delay, ?resent, ?stalled, ?moving, ?cleared, ?raised⟩, ?hopAck, ?hopResent⟩
  case ack =>
    rintro a own rfl sends link passes hears
    refine congrArg Host.Outcome.next ((State.ackReceived_of_stream own found sends ⟨up, link, passes, hears⟩).trans ?_)
    unfold State.ackStream
    simp only [found]
    have ctx (t : State) (y : Stream) (same : y.ctx = x.ctx) : (if a.ceCount ≠ 0 then t.congested y else y).ctx = x.ctx := by
      split
      · exact (t.congested_ctx y).trans same
      · exact same
    exact congrArg (State.payWaiting _) (congrArg (State.cpart _) (ctx _ _ rfl))
  case delay =>
    intro receives waits port
    refine next_of_up up ?_
    unfold State.ackDelay
    simp only [found, receives, waits, port, ne_eq, not_false_eq_true, and_self, if_true]
  case resent =>
    intro psn p inFlight sent port
    have course := State.retransmission_of_sent found inFlight sent port
    have slowed : (({ x with rate := s.clampRate (x.rate / 2) } : Stream).unacked.find? fun q => q.psn == psn) = some p := inFlight
    exact ⟨fun often => next_of_not_down up (course.trans (State.resend_of_spent slowed often false)),
      fun few => next_of_not_down up (course.trans (State.resend_of_left slowed few false))⟩
  case stalled =>
    intro waits
    refine next_of_up up ?_
    unfold State.streamTimeout
    simp only [found, waits, if_true]
  case moving =>
    intro idle
    refine next_of_up up ?_
    unfold State.streamTimeout
    simp only [found, idle, Bool.false_eq_true, if_false]
  case cleared =>
    intro marked
    refine next_of_up up ?_
    unfold State.congestionPeriod
    simp only [found, marked, if_true]
  case raised =>
    intro clear
    refine next_of_up up ?_
    unfold State.congestionPeriod
    simp only [found, clear, Bool.false_eq_true, if_false]
  case hopAck =>
    intro a peer hop link passes hears
    refine congrArg Host.Outcome.next ?_
    unfold State.ackReceived
    simp only [hop]
    exact State.arriveFor_of_comesIn ⟨up, link, passes, hears⟩ _ _
  case hopResent =>
    intro h peer psn k inFlight port
    obtain rfl := psn_of_found inFlight
    have course := State.resendHop_of_sent inFlight port
    exact ⟨fun few => next_of_not_down up (course.trans (if_neg (Nat.not_le.2 few))), fun often => next_of_not_down up (course.trans (if_pos often))⟩

end Sys2Proof.Proofs.FabricPorts
end

section
/-! SUPPORT. The link of a fabric port and its neighbours (spec/17_fabric_ports.md). -/

namespace Sys2Proof.Machine

section
variable {s : State} {p : Nat}

/-- What arrives at a port that is UP, with its crossing open, takes effect. -/
theorem State.arriveAt_of_up (up : s.up = true) (link : s.rd (PRT_STATUS.link_state p) = 3) (passes : s.passes 2 (p / 4) = true) (i : Instr)
    (act : State → State) : s.arriveAt p i act = act s := by
  unfold State.arriveAt
  simp only [up, link, passes, bne_self_eq_false, Bool.not_true, Bool.false_and, Bool.or_self, Bool.false_eq_true, if_false]

/-- A port that is up has its link up. -/
theorem State.link_of_portUp (port : s.portUp p = true) : s.rd (PRT_STATUS.link_state p) = 3 := by
  simp only [State.portUp, Bool.and_eq_true, beq_iff_eq] at port
  exact port.1

/-! ### The link (R368, R369) -/

/-- A cable measured while its port waits for it moves the port to TRAINING; an end above 16 W is held, and reported (R481). -/
theorem State.cableMeasured_of_measuring (up : s.up = true) (measuring : s.rd (PRT_STATUS.link_state p) = 1) (len : Option Nat) (optical : Bool)
    (w : Nat) : s.cableMeasured p len optical w =
      let t := (s.wr (PRT_STATUS.link_state p) 2).wr (PRT_STATUS.medium p) (if optical then 2 else 1)
      if 16 < w then
        ({ t.wr (PRT_CABLE.measured p) 0 with fab := { s.fab with lowPower := s.fab.lowPower ++ [p] } }).fault 0x3603 1 5 p none none []
      else match len with
        | none => t.wr (PRT_CABLE.measured p) 0
        | some n =>
          let u := (t.wr (PRT_CABLE.measured p) 1).wr (PRT_CABLE.length_dm p) n
          if !optical ∧ 22 < n then (u.wr (PRT_STATUS.long_cable p) 1).fault 0x3101 1 5 p none none [] else u := by
  unfold State.cableMeasured
  simp only [up, measuring, bne_self_eq_false, Bool.not_true, Bool.or_self, Bool.false_eq_true, if_false]
  rfl

/-- A port in TRAINING comes up, once its crossing lets the event through (R231). -/
theorem State.linkTrained_of_training (up : s.up = true) (training : s.rd (PRT_STATUS.link_state p) = 2)
    (free : s.fab.lowPower.contains p = false) : s.linkTrained p =
      if s.passes 2 (p / 4) then (((s.wr (PRT_STATUS.link_state p) 3).showFabric.ndProbeAll p).portReturns p).linkCounts p
      else s.keep 2 (p / 4) (.linkTrained p) := by
  unfold State.linkTrained
  simp only [up, training, free, bne_self_eq_false, Bool.or_self, Bool.not_true, Bool.false_eq_true, if_false]
  cases s.passes 2 (p / 4) <;> rfl

/-- One held in low-power mode never does (R481). -/
theorem State.linkTrained_of_held (up : s.up = true) (passes : s.passes 2 (p / 4) = true) (held : s.fab.lowPower.contains p = true) :
    s.linkTrained p = s := by
  unfold State.linkTrained
  simp only [up, passes, held, Bool.or_true, Bool.not_true, Bool.false_eq_true, if_false, if_true]

/-- A link that loses its alignment trains again, and the loss is reported (R369). -/
theorem State.alignmentLoss_of_linked (up : s.up = true) (link : s.rd (PRT_STATUS.link_state p) = 3) : s.alignmentLoss p =
      if s.passes 2 (p / 4) then
        ((((s.wr (PRT_STATUS.link_state p) 2).wr (PRT_STATUS.link_lost p) 1).dropWaiting p).showFabric).fault 0x3102 1 5 p none none []
      else s.keep 2 (p / 4) (.alignmentLoss p) := by
  unfold State.alignmentLoss
  simp only [up, link, bne_self_eq_false, Bool.not_true, Bool.false_eq_true, if_false]
  cases s.passes 2 (p / 4) <;> rfl

/-! ### Neighbour discovery (R371) -/

/-- Neighbour traffic of a port that is up. -/
theorem State.neighbour_of_up {n : Nat} (up : s.up = true) (port : s.ndUp n = true) (passes : n < 64 → s.passes 2 (n / 4) = true) (k : NdKind) :
    s.neighbour n k = s.neighbourAt n k := by
  unfold State.neighbour
  by_cases fabric : n < 64
  · rw [if_pos fabric]
    have here : s.portUp n = true := (if_pos fabric).symm.trans port
    exact State.arriveAt_of_up up (State.link_of_portUp here) (passes fabric) _ _
  · rw [if_neg fabric, if_pos (by rw [up, port]; rfl)]

/-- An echo request within the second's hundred, at a port that answers, is answered (R33). -/
theorem State.echo_of_counted {n k : Nat} (counted : s.fab.echoes.find? (fun e => e.1 == n) = some (n, s.hall / 1000000000, k)) (id : Nat)
    (data : Bytes) : s.echo n id data = if k < 100 ∧ !(64 ≤ n ∧ n < 66) ∧ s.hears n = true then
      ({ s with fab := { s.fab with echoes := (n, s.hall / 1000000000, k + 1) :: s.fab.echoes.filter fun e => e.1 != n } }).queueFab n
        (.echoReply id data)
    else s := by
  unfold State.echo
  simp only [counted, if_true]

/-- The addresses under probe, the job-start deliveries, and the time are the same in two states. -/
def State.SameJobs (s t : State) : Prop :=
  t.fab.probes = s.fab.probes ∧ t.fab.leads = s.fab.leads ∧ t.fab.members = s.fab.members ∧ t.hall = s.hall

section
variable {t : State} (same : s.SameJobs t)
include same

theorem State.SameJobs.ndSolicit (n a source : Nat) : s.SameJobs (t.ndSolicit n a source) := ite_kept (P := s.SameJobs) same same

theorem State.SameJobs.ndResolve (n dest : Nat) : s.SameJobs (t.ndResolve n dest) := by
  unfold State.ndResolve
  split
  · exact same
  · split
    · refine ite_kept (P := s.SameJobs) same (State.SameJobs.ndSolicit ?_ _ _ _)
      exact same
    · exact same

theorem State.SameJobs.putFab (p : Nat) (m : FabMsg) : s.SameJobs (t.putFab p m) := by
  unfold State.putFab
  split
  · exact ite_kept (P := s.SameJobs) (same.ndResolve _ _) (same.ndResolve _ _)
  · exact ite_kept (P := s.SameJobs) same same
  · exact ite_kept (P := s.SameJobs) same same

theorem State.SameJobs.flushFab (p : Nat) : s.SameJobs (t.flushFab p) :=
  ite_kept (P := s.SameJobs) same (foldl_kept (P := s.SameJobs) (s := { t with fab := _ }) same fun _ e h => h.putFab p e.2)

theorem State.SameJobs.sendFab (p : Nat) (m : FabMsg) : s.SameJobs (t.sendFab p m) :=
  ite_kept (P := s.SameJobs) ((same.flushFab p).putFab p m) same

end

/-- An address seen elsewhere while it is probed is a duplicate. -/
theorem State.ndSeen_taken {e : Probe} (probing : e ∈ s.fab.probes) (within : s.hall < e.since + 1000000000) :
    { e with taken := true } ∈ (s.ndSeen e.port e.addr).fab.probes := by
  unfold State.ndSeen
  generalize seen : ({ s with fab := _ } : State) = u
  obtain ⟨probes, -⟩ : u.SameJobs (u.flushFab e.port) := State.SameJobs.flushFab ⟨rfl, rfl, rfl, rfl⟩ e.port
  rw [probes, ← seen]
  exact List.mem_map.2 ⟨e, probing, if_pos ⟨rfl, rfl, within⟩⟩

end

end Sys2Proof.Machine

namespace Sys2Proof.Proofs.FabricPorts

open Sys2Proof.Machine

/-- Settles O33: the course of each event of a link, by the state that the port is in. -/
theorem portLinkStates : Obligations.PortLinkStates := by
  intro s p up
  refine ⟨fun n w optical measuring low => ⟨fun short => ?_, fun copper long => ?_⟩, fun len w optical measuring high => ?_,
    fun w optical measuring low => ?_, fun training free => ?_, fun held passes => ?_, fun link => ?_⟩
  · refine congrArg Host.Outcome.next ((State.cableMeasured_of_measuring up measuring (some n) optical w).trans ?_)
    refine (if_neg (Nat.not_lt.2 low)).trans (if_neg ?_)
    rintro ⟨copper, long⟩
    rcases short with fibre | short
    · simp [fibre] at copper
    · omega
  · refine congrArg Host.Outcome.next ((State.cableMeasured_of_measuring up measuring (some n) optical w).trans ?_)
    exact (if_neg (Nat.not_lt.2 low)).trans (if_pos ⟨by rw [copper]; rfl, long⟩)
  · exact congrArg Host.Outcome.next ((State.cableMeasured_of_measuring up measuring len optical w).trans (if_pos high))
  · exact congrArg Host.Outcome.next ((State.cableMeasured_of_measuring up measuring none optical w).trans (if_neg (Nat.not_lt.2 low)))
  · exact congrArg Host.Outcome.next (State.linkTrained_of_training up training free)
  · exact congrArg Host.Outcome.next (State.linkTrained_of_held up passes held)
  · exact congrArg Host.Outcome.next (State.alignmentLoss_of_linked up link)

/-- Settles O34: LLDP of a port that is up, and each kind of neighbour traffic. -/
theorem portNeighbours : Obligations.PortNeighbours := by
  refine ⟨fun s p up port => ⟨fun enabled => ?_, fun chassis portId ttl v enabled passes => ?_, fun valid => ?_⟩, fun s n up port passes => ?_⟩
  · refine ⟨⟨1, false, (s.free 9).1 / 256 == 1, (s.free 9).1 % 256⟩, rfl, congrArg Host.Outcome.next (if_pos ?_)⟩
    rw [up, port, enabled]
    rfl
  · refine congrArg Host.Outcome.next ((State.arriveAt_of_up up (State.link_of_portUp port) passes _ _).trans ?_)
    exact if_pos enabled
  · refine congrArg Host.Outcome.next (if_pos ?_)
    rw [up, valid]
    rfl
  · have course (k : NdKind) : exec (.neighbourDiscovery n k) s = .next (s.neighbourAt n k) :=
      congrArg Host.Outcome.next (State.neighbour_of_up up port passes k)
    refine ⟨fun a probe own fixed => ?_, fun a probing => ?_, fun r => course _, fun id data k counted => ⟨fun few answers hears => ?_, fun silent => ?_⟩,
      course _, ?_⟩
    · refine (course _).trans (congrArg Host.Outcome.next ?_)
      exact (if_neg (ne_true_of_eq_false fixed)).trans (if_pos own)
    · refine (course _).trans (congrArg Host.Outcome.next ?_)
      exact (if_pos probing).trans (if_neg (by decide))
    · refine (course _).trans (congrArg Host.Outcome.next ((State.echo_of_counted counted id data).trans (if_pos ?_)))
      refine ⟨few, ?_, hears⟩
      simp
      omega
    · refine (course _).trans (congrArg Host.Outcome.next ((State.echo_of_counted counted id data).trans (if_neg ?_)))
      rintro ⟨few, answers, hears⟩
      rcases silent with many | time | deaf
      · omega
      · simp [time] at answers
      · rw [deaf] at hears
        cases hears
    · rintro a e probing rfl rfl within
      exact ⟨_, course _, State.ndSeen_taken probing within⟩

end Sys2Proof.Proofs.FabricPorts
end

section
namespace Sys2Proof.Machine

/-! ### The partition and context commands -/

section
variable (s : State) (h : Hdr)

/-- The acceptance of a command leaves the contexts alone. -/
theorem State.taken_ctxs : (s.taken h).ctxs = s.ctxs := s.arrive_ctxs h
theorem State.accepted_ctxs (op : Nat) : (s.accepted h op).ctxs = s.ctxs := s.arrive_ctxs h

theorem State.taken_ctx (c : Nat) : (s.taken h).ctx c = s.ctx c := by
  unfold State.ctx
  rw [s.taken_ctxs]

theorem State.accepted_ctx (op c : Nat) : (s.accepted h op).ctx c = s.ctx c := by
  unfold State.ctx
  rw [s.accepted_ctxs]

end

/-- Bytes within an open image pass the check of PROGRAM_DATA (R203). -/
theorem checkProgramData_of_open {s : State} {c offset n : Nat} {m : OpenImage} (image : (s.ctx c).image = some m) (inside : offset + n ≤ m.len) :
    checkProgramData c offset n s = 0 := by
  unfold checkProgramData
  simp only [image, if_neg (Nat.not_lt.2 inside)]

/-- A command that the firmware answers promptly is carried out once it is accepted. -/
theorem next_fwCommand_of_runs {s : State} {h : Hdr} {f : Fw} {cmd : Instr} {op : Nat} (code : f.op = op) (runs : s.runs h f cmd) :
    (.next (s.fwCommand h f cmd) : Result) = .next (f.act (s.fwAccepted h op)) :=
  code ▸ congrArg Host.Outcome.next (State.fwCommand_of_runs runs)

end Sys2Proof.Machine

namespace Sys2Proof.Proofs.Partitions

open Sys2Proof.Machine

/-- Settles O21: each command takes effect once it is accepted; the contexts are those that stood before. -/
theorem partitionAndContextCommandsComplete : Obligations.PartitionAndContextCommandsComplete := by
  intro s h
  have carried {n op : Nat} {sc : Scope} {param : State → Nat} (len : h.length = n) (admits : s.admits h op true sc param) (cmd : Instr)
      (effect : State → State) : (.next (s.command cmd h op (h.length == n) sc param effect) : Result) = .next (effect (s.accepted h op)) :=
    next_command_of_admits (beq_iff_eq.2 len) admits cmd effect
  refine ⟨fun _ _ len admits => carried len admits _ _, fun _ _ len admits => carried len admits _ _, fun len admits => carried len admits _ _,
    fun count len least most admits => ?_, fun offset data m len least most admits image inside => ?_, fun addr len length admits clean => ?_,
    fun _ len admits => carried len admits _ _, fun _ len admits => carried len admits _ _⟩
  · have check : (if count = 0 ∨ 16 < count then 0x0120 else 0) = 0 := if_neg (by omega)
    refine (carried len (State.admits_of_check admits check) _ _).trans ?_
    rw [s.accepted_ctx h 0x0209 h.context]
  · have check := checkProgramData_of_open ((congrArg CtxS.image (s.taken_ctx h h.context)).trans image) inside
    exact next_command_of_admits (by simp [len, least, most]) (State.admits_of_check admits check) _ _
  · exact (carried length admits _ _).trans (congrArg Host.Outcome.next (if_neg (ne_true_of_eq_false clean)))

/-- Settles O23: each command that the firmware answers promptly is carried out. -/
theorem partitionFirmwareCommandsComplete : Obligations.PartitionFirmwareCommandsComplete := by
  intro s h
  exact ⟨fun _ _ _ _ _ _ _ _ _ runs => next_fwCommand_of_runs rfl runs, fun runs => next_fwCommand_of_runs rfl runs,
    fun _ _ runs => next_fwCommand_of_runs rfl runs, fun _ _ _ _ _ _ _ _ _ _ runs => next_fwCommand_of_runs rfl runs,
    fun runs => next_fwCommand_of_runs rfl runs⟩

end Sys2Proof.Proofs.Partitions
end

section
/-! SUPPORT. The job-start broadcast and the control messages (R374, R382 to R384). -/

namespace Sys2Proof.Machine

section
variable {s : State} {peer id : Nat}

/-- A control message answered and noted leaves the job-start deliveries and the time. -/
theorem ctrlFirst_sameJobs (s : State) (peer id : Nat) : s.SameJobs (ctrlFirst s peer id) :=
  State.SameJobs.sendFab (s := s) ⟨rfl, rfl, rfl, rfl⟩ (s.ctrlPort peer) (.ctrlAck peer id)

/-! ### Repeats (R374) -/

/-- A message unanswered is sent again up to eight times, and then dropped. -/
theorem State.ctrlRetry_of_out {m : CtrlOut} (out : (s.fab.ctrlOut.find? fun m => m.id == id) = some m) : s.ctrlRetry id =
      let t := { s with hall := max s.hall (m.sentAt + s.rd PRT_JOB.ctrl_retry_us * 1000) }
      if m.repeats < 8 then
        let n := { m with repeats := m.repeats + 1, sentAt := t.hall }
        let v := { t with fab := { t.fab with ctrlOut := t.fab.ctrlOut.map fun (x : CtrlOut) => if x.id == id then n else x } }
        if m.acked then v else v.sendFab (v.ctrlPort m.peer) (.ctrl m.peer id m.ctype m.body)
      else
        let v := { t with fab := { t.fab with ctrlOut := t.fab.ctrlOut.filter fun (x : CtrlOut) => x.id != id } }
        if m.ctype = 0x12 then v.commitUnanswered (leAt m.body 0 8) else v := by
  unfold State.ctrlRetry
  simp only [out]

/-! ### The hop of a delivery (R382) -/

/-- A hop is the hop with its peer. -/
theorem State.hop_peer (s : State) (peer : Nat) : (s.hop peer).peer = peer := by
  unfold State.hop
  cases found : s.fab.hops.find? fun x => x.peer == peer with
  | none => rfl
  | some x => simpa using List.find?_some found

/-- One replaced is the one found. -/
theorem State.hop_setHop {x : Hop} (own : x.peer = peer) : (s.setHop x).hop peer = x := by
  unfold State.hop State.setHop
  simp [own]

/-- The last replacement counts. -/
theorem State.setHop_setHop {x y : Hop} (same : x.peer = y.peer) : (s.setHop x).setHop y = s.setHop y := by
  unfold State.setHop
  simp [same, List.filter_filter]

theorem State.inc_hop (s : State) (f : RF) (n peer : Nat) : (s.inc f n).hop peer = s.hop peer := rfl

/-- No number comes before itself. -/
theorem psnBefore_self (n : Nat) : psnBefore n n = false := by
  simp [psnBefore]

/-- The part next in order, with none held, takes effect and is acknowledged. -/
theorem State.hopReceive_of_next (none_held : (s.hop peer).held = []) (p : DeliverPart) : s.hopReceive peer (s.hop peer).expected p =
      let x := s.hop peer
      let v := (s.setHop { x with expected := (x.expected + 1) % 2 ^ 32, held := [] }).jobDeliver p
      v.sendFab (v.ctrlPort peer) (.deliverAck peer (v.hop peer).expected (heldRanges ((v.hop peer).held.map (·.1)))) := by
  have own := s.hop_peer peer
  have passed (x : Hop) (hx : x.peer = peer) (held : x.held = [(x.expected, p)]) : State.passHop 1 (s.setHop x) peer =
      (s.setHop { x with expected := (x.expected + 1) % 2 ^ 32, held := [] }).jobDeliver p := by
    unfold State.passHop
    simp [State.hop_setHop hx, held, State.passHop, State.setHop_setHop]
  unfold State.hopReceive
  simp only [none_held, psnBefore_self, List.any_nil, Bool.or_self, Bool.false_eq_true, if_false, insertHeld, List.length_nil, Nat.zero_add]
  rw [passed { s.hop peer with held := [((s.hop peer).expected, p)] } own rfl]

/-- A repeat is counted and acknowledged. -/
theorem State.hopReceive_of_repeat (none_held : (s.hop peer).held = []) {psn : Nat} (again : psnBefore psn (s.hop peer).expected = true)
    (p : DeliverPart) : s.hopReceive peer psn p =
      let v := s.inc (PRT_MLADUB.dup_rx (s.ctrlPort peer)) 1
      v.sendFab (v.ctrlPort peer) (.deliverAck peer (s.hop peer).expected []) := by
  have same := s.inc_hop (PRT_MLADUB.dup_rx (s.ctrlPort peer)) 1 peer
  unfold State.hopReceive
  simp only [again, Bool.true_or, if_true, none_held, List.length_nil, Nat.zero_add]
  revert same
  generalize s.inc (PRT_MLADUB.dup_rx (s.ctrlPort peer)) 1 = v
  intro same
  have passed : State.passHop 1 v peer = v := by simp [State.passHop, same, none_held]
  rw [passed, same, none_held]
  rfl

/-- The first part of a delivery that does not end it starts the delivery, and is forwarded. -/
theorem State.jobDeliver_of_first {p : DeliverPart} {m : JobMember} (armed : (s.fab.members.find? fun m => m.bellwether == p.sender) = some m)
    (open_ : m.committed = false) (idle : m.broadcast = none) (first : p.offset = 0) (more : p.data.length < p.total) : s.jobDeliver p =
      let held : JobMember := { m with
        broadcast := some p.broadcastId, generation := p.generation, order := p.treeOrder, rosterLen := p.rosterLen, data := p.data,
        total := p.total, ackedAt := none, discarded := false }
      (s.setMember held).forwardPart [] held p := by
  have other : (m.broadcast == some p.broadcastId) = false := by rw [idle]; rfl
  have fits : ¬(p.total < 0 + p.data.length) := by omega
  unfold State.jobDeliver
  simp only [armed, open_, other, Bool.false_and, Bool.or_self, Bool.false_eq_true, if_false, first, List.length_nil, ne_eq, not_true_eq_false,
    false_or, fits, List.nil_append, more, true_or, if_true]

/-! ### The bellwether (R383, R384) -/

section
variable {l : JobLead} (lead : (s.fab.leads.find? fun x => x.broadcast == l.broadcast) = some l)
include lead

/-- A member's first acknowledgement counts where its digest is right; a wrong one has the delivery sent again, once. -/
theorem State.jobAck_of_open {m : Nat} (sent : l.state = 1) (real : m ≠ 0) (inside : m < l.members) (new : l.acked.contains m = false)
    (digest : Bytes) : s.jobAck l.broadcast m digest =
      if digest = l.digest then s.commitIfAcked { l with
        acked := l.acked ++ [m], due := l.due.filter fun e => e.1 != m, suspects := l.suspects.filter fun e => e.1 != m }
      else if l.mismatch.contains m then s.failMembers l [m]
      else (s.setLead { l with mismatch := l.mismatch ++ [m] }).deliverTo l (l.orders.length - 1) [0, m] m := by
  unfold State.jobAck
  simp only [lead, sent, real, Nat.not_le.2 inside, new, ne_eq, not_true_eq_false, Bool.false_eq_true, or_self, if_false]

/-- A suspect due by a level's deadline fails, and the broadcast with it. -/
theorem State.ackLevel_of_dead {t : Nat} (next : earliest (l.due ++ l.suspects) = some t)
    (dead : (l.suspects.filter fun e : Nat × Nat => decide (e.2 ≤ max s.hall t)).map (fun e : Nat × Nat => e.1) ≠ []) : s.ackLevel l.broadcast =
      ({ s with hall := max s.hall t }).failMembers l ((l.suspects.filter fun e : Nat × Nat => decide (e.2 ≤ max s.hall t)).map (fun e : Nat × Nat => e.1)) := by
  unfold State.ackLevel
  simp only [lead, next, dead, ne_eq, not_false_eq_true, if_true]

/-- In the last generation a member due, with none below it, becomes suspect, and is sent the delivery directly. -/
theorem State.ackLevel_of_last {t m : Nat} (due : l.due = [(m, t)]) (clear : l.suspects = []) (leaf : membersBelow l.orders m = [])
    (last : l.orders.length = 8) : s.ackLevel l.broadcast =
      let u := { s with hall := max s.hall t }
      let x := { l with due := [], suspects := [(m, u.hall + u.rd PRT_JOB.ack_level_ms * 1000000)] }
      (u.deliverTo x 8 [0, m] m).setLead x := by
  unfold State.ackLevel
  simp only [lead, due, clear, List.append_nil, earliest]
  simp [leaf, last]

/-- A member's first answer to a commit is taken off those that are repeated; the last completes the command. -/
theorem State.jobCommitAck_of_open {m : Nat} (sent : l.state = 2) (real : m ≠ 0) (inside : m < l.members) (new : l.committed.contains m = false) :
    s.jobCommitAck l.broadcast m =
      let v := { s with fab := { s.fab with ctrlOut := s.fab.ctrlOut.filter fun x =>
        !(x.ctype == 0x12 && leAt x.body 0 8 == l.broadcast && x.peer == rosterAddr l.roster m) } }
      if l.committed.length + 2 < l.members then (v.setLead { l with committed := l.committed ++ [m] }).commitUnanswered l.broadcast
      else (v.setLead { l with committed := l.committed ++ [m], state := 3, answered := true }).reply l.hdr 0x0606 0 := by
  unfold State.jobCommitAck
  simp only [lead, sent, real, Nat.not_le.2 inside, new, ne_eq, not_true_eq_false, Bool.false_eq_true, or_self, if_false, List.length_append,
    List.length_singleton]

end

/-! ### The member (R384) -/

/-- A commit of a delivery acknowledged, in time, is recorded and answered. -/
theorem State.jobCommit_of_acked {sender k t : Nat} {m : JobMember}
    (armed : (s.fab.members.find? fun m => m.bellwether == sender && m.broadcast == some k) = some m) (acked : m.ackedAt = some t)
    (kept : m.discarded = false) (inTime : s.hall ≤ m.deadline t) : s.jobCommit sender k (sha256 (m.data.take m.rosterLen)) =
      let o := (s.setMember { m with committed := true }).ownMember (m.data.take m.rosterLen)
      (o.2.modCtx m.ctx fun k => { k with rosterDigest := some (sha256 (m.data.take m.rosterLen)) }).tell sender 0x13
        (leB 8 k ++ leB 4 o.1 ++ leB 4 0) := by
  unfold State.jobCommit
  simp only [armed, acked, kept, ne_eq, not_true_eq_false, decide_false, Nat.not_lt.2 inTime, Bool.and_false, Bool.or_self, Bool.false_eq_true,
    if_false]

/-- A commit that never comes discards the delivery (0x3107). -/
theorem State.commitTimeout_of_acked {c t : Nat} {m : JobMember} (armed : (s.fab.members.find? fun m => m.ctx == c) = some m)
    (acked : m.ackedAt = some t) (open_ : m.committed = false) (kept : m.discarded = false) : s.commitTimeout c =
      let u := { s with hall := max s.hall (m.deadline t + 1) }
      (u.setMember { m with discarded := true, data := [] }).fault 0x3107 1 0 0 (some c) (some (u.cpart c)) [] := by
  unfold State.commitTimeout
  simp only [armed, acked, open_, kept, Bool.or_self, Bool.false_eq_true, if_false]

end

end Sys2Proof.Machine

namespace Sys2Proof.Proofs.FabricPorts

open Sys2Proof.Machine

/-- Settles O52: a message heard for the first time finds the deliveries as they were before it, and each event has its course. -/
theorem jobEventsComplete : Obligations.JobEventsComplete := by
  intro s up heard once new
  refine ⟨?control, ?retry, ?hop, ?first, fun l lead => ⟨?ack, ?dead, ?last, ?commitAck⟩, ?commit, ?timeout⟩
  case control =>
    intro peer id b comes
    refine ⟨fun seen => ⟨?_, fun _ _ _ _ => ?_, fun _ _ => ?_, fun _ _ => ?_⟩, fun fresh => ?_, ?_⟩
    · exact congrArg Host.Outcome.next (State.ctrlOnce_of_seen comes seen _ _)
    · exact congrArg Host.Outcome.next (State.ctrlOnce_of_seen comes seen _ _)
    · exact congrArg Host.Outcome.next (State.ctrlOnce_of_seen comes seen _ _)
    · exact congrArg Host.Outcome.next (State.ctrlOnce_of_seen comes seen _ _)
    · exact congrArg Host.Outcome.next (State.ctrlOnce_of_new comes fresh.2 _ _)
    · exact congrArg Host.Outcome.next (State.arriveFor_of_comesIn comes _ _)
  case retry =>
    intro id m out
    have course := State.ctrlRetry_of_out out
    exact ⟨fun few => next_of_up up (course.trans (if_pos few)),
      fun many other => next_of_up up (course.trans ((if_neg (Nat.not_lt.2 many)).trans (if_neg other))),
      fun many commit => next_of_up up (course.trans ((if_neg (Nat.not_lt.2 many)).trans (if_pos commit)))⟩
  case hop =>
    intro peer p x comes none_held _
    have course (psn : Nat) : exec (.jobDeliver peer psn p) s = .next (s.hopReceive peer psn p) :=
      congrArg Host.Outcome.next (State.arriveFor_of_comesIn comes _ _)
    exact ⟨(course _).trans (congrArg Host.Outcome.next (State.hopReceive_of_next none_held p)),
      fun psn again => (course _).trans (congrArg Host.Outcome.next (State.hopReceive_of_repeat none_held again p))⟩
  case first =>
    intro p m armed open_ idle start more
    exact State.jobDeliver_of_first armed open_ idle start more
  case ack =>
    intro peer id g m digest fresh sent real inside unheard
    obtain ⟨-, leads, -, -⟩ := ctrlFirst_sameJobs s peer id
    have course : exec (.jobAck peer id l.broadcast g m digest) s = .next ((once peer id).jobAck l.broadcast m digest) :=
      congrArg Host.Outcome.next (State.ctrlOnce_of_new fresh.1 fresh.2 _ _)
    have here : (once peer id).fab.leads.find? (fun x => x.broadcast == l.broadcast) = some l := (congrArg _ leads).trans lead
    have taken := State.jobAck_of_open here sent real inside unheard digest
    exact ⟨fun right => course.trans (congrArg Host.Outcome.next (taken.trans (if_pos right))),
      fun wrong again => course.trans (congrArg Host.Outcome.next (taken.trans ((if_neg wrong).trans (if_pos again)))),
      fun wrong once => course.trans (congrArg Host.Outcome.next (taken.trans ((if_neg wrong).trans (if_neg (ne_true_of_eq_false once)))))⟩
  case dead =>
    intro t next u dead some_dead
    exact next_of_up up (State.ackLevel_of_dead lead next some_dead)
  case last =>
    intro t m due clear leaf final
    exact next_of_up up (State.ackLevel_of_last lead due clear leaf final)
  case commitAck =>
    intro peer id m fresh sent real inside unheard
    obtain ⟨-, leads, -, -⟩ := ctrlFirst_sameJobs s peer id
    have course : exec (.jobCommitAck peer id l.broadcast m) s = .next ((once peer id).jobCommitAck l.broadcast m) :=
      congrArg Host.Outcome.next (State.ctrlOnce_of_new fresh.1 fresh.2 _ _)
    have here : (once peer id).fab.leads.find? (fun x => x.broadcast == l.broadcast) = some l := (congrArg _ leads).trans lead
    have taken := State.jobCommitAck_of_open here sent real inside unheard
    exact ⟨fun more => course.trans (congrArg Host.Outcome.next (taken.trans (if_pos more))),
      fun all => course.trans (congrArg Host.Outcome.next (taken.trans (if_neg (Nat.not_lt.2 all))))⟩
  case commit =>
    intro sender id k t m fresh armed acked kept inTime
    obtain ⟨-, -, members, hall⟩ := ctrlFirst_sameJobs s sender id
    have here : ((once sender id).fab.members.find? fun m => m.bellwether == sender && m.broadcast == some k) = some m :=
      (congrArg _ members).trans armed
    refine congrArg Host.Outcome.next ((State.ctrlOnce_of_new fresh.1 fresh.2 _ _).trans ?_)
    exact State.jobCommit_of_acked here acked kept (hall ▸ inTime)
  case timeout =>
    intro c t m armed acked open_ kept
    exact next_of_up up (State.commitTimeout_of_acked armed acked open_ kept)

end Sys2Proof.Proofs.FabricPorts
end

section
/-! SUPPORT. The commands of the runtime firmware for rosters, jobs, power, calibration and security (spec/17 to spec/20). -/

namespace Sys2Proof.Machine

section
variable {s t : State} {h : Hdr} {op off total : Nat} {data obj : Bytes} {lenOk : Bool} {sc : Scope} {judge : State → Bytes → Nat}
  {act : State → Bytes → State} {count : Nat → State → State}

/-- The last part of an inbound object has the object judged and taken (R419). -/
theorem partFw_act_of_whole (whole : s.takePart h op off total data = (.whole obj, t)) :
    (partFw h op lenOk sc off total data judge act count).act s =
      if judge t obj = 0 then act t obj else (count (judge t obj) t).reply h op (judge t obj) := by
  simp only [partFw, whole, ne_eq, ite_not]

/-- A part that is not the last is answered (R419). -/
theorem partFw_act_of_more (more : s.takePart h op off total data = (.more, t)) :
    (partFw h op lenOk sc off total data judge act count).act s = t.reply h op 0 := by
  simp only [partFw, more]

/-- The acceptance of a firmware command leaves what the firmware holds. -/
theorem State.fwAccepted_runtime (s : State) (h : Hdr) (op : Nat) : (s.fwAccepted h op).cmd.runtime = s.cmd.runtime := by
  unfold State.fwAccepted
  rw [State.accept_runtime, State.wakeFor_cmd, State.taken_cmd]

/-- A quote that the firmware does not hold is of the body at hand (R422). -/
theorem State.acceptedBody_none (s : State) (nonce : Bytes) (ctx session : Nat) :
    s.acceptedBody none nonce ctx session = s.quoteBody nonce ctx session := by
  have absent : (s.sec.early.find? fun q => some q.hdr == none) = none := List.find?_eq_none.2 (by simp)
  rw [State.acceptedBody, absent]
  rfl

end

end Sys2Proof.Machine

namespace Sys2Proof.Proofs.FabricPorts

open Sys2Proof.Machine

/-- Settles O26: each command is carried out as it is accepted. -/
theorem rosterAndJobCommandsComplete : Obligations.RosterAndJobCommandsComplete := by
  intro s h
  refine ⟨fun _ runs => next_fwCommand_of_runs rfl runs, fun _ _ _ _ _ _ runs => next_fwCommand_of_runs rfl runs,
    fun step source offset b runs found clean open_ => ?read, fun _ _ _ _ _ runs whole => ?whole, fun _ _ _ _ runs more => ?more,
    fun _ runs => next_fwCommand_of_runs rfl runs, fun _ _ _ _ runs => next_fwCommand_of_runs rfl runs,
    fun _ _ _ _ runs => next_fwCommand_of_runs rfl runs, fun _ _ _ _ runs => next_fwCommand_of_runs rfl runs,
    fun _ runs => next_fwCommand_of_runs rfl runs, fun _ runs => next_fwCommand_of_runs rfl runs⟩
  case read =>
    refine (next_fwCommand_of_runs rfl runs).trans (congrArg Host.Outcome.next ?_)
    simp only [fwInputLogRead, found, clean, open_, State.seal, Bool.false_eq_true, if_false, Bool.not_false, if_true]
    rfl
  case whole =>
    refine (next_fwCommand_of_runs rfl runs).trans (congrArg Host.Outcome.next ((partFw_act_of_whole whole).trans ?_))
    split <;> simp [*]
  case more => exact (next_fwCommand_of_runs rfl runs).trans (congrArg Host.Outcome.next (partFw_act_of_more more))

end Sys2Proof.Proofs.FabricPorts

namespace Sys2Proof.Proofs.PowerThermal

open Sys2Proof.Machine

/-- Settles O27: each command is carried out, or staged for its boundary, as it is accepted. -/
theorem powerAndCalibrationCommandsComplete : Obligations.PowerAndCalibrationCommandsComplete := by
  intro s h
  refine ⟨fun _ runs => next_fwCommand_of_runs rfl runs, fun runs => next_fwCommand_of_runs rfl runs,
    fun runs => next_fwCommand_of_runs rfl runs, fun kind r runs found => ?_, fun _ runs => next_fwCommand_of_runs rfl runs,
    fun runs => next_fwCommand_of_runs rfl runs, fun _ _ _ _ _ runs whole => ?_⟩
  · refine (next_fwCommand_of_runs rfl runs).trans (congrArg Host.Outcome.next ?_)
    simp only [fwCalibrationRead, found, Option.getD_some]
  · exact (next_fwCommand_of_runs rfl runs).trans (congrArg Host.Outcome.next (partFw_act_of_whole whole))

end Sys2Proof.Proofs.PowerThermal

namespace Sys2Proof.Proofs.Security

open Sys2Proof.Machine

/-- Settles O28: each command is carried out as it is accepted; a quote is of the body at its acceptance. -/
theorem securityCommandsComplete : Obligations.SecurityCommandsComplete := by
  intro s h
  refine ⟨fun runs => next_fwCommand_of_runs rfl runs, fun _ _ runs _ _ => next_fwCommand_of_runs rfl runs,
    fun _ _ runs _ _ => next_fwCommand_of_runs rfl runs, fun nonce c session runs _ => ?quote, fun id offset quote runs _ found => ?read,
    fun runs => next_fwCommand_of_runs rfl runs, fun _ _ _ runs _ => next_fwCommand_of_runs rfl runs,
    fun _ _ _ _ runs _ => next_fwCommand_of_runs rfl runs⟩
  case quote =>
    have course : s.fwCommand h (fwAttestationQuote h nonce c session) (.attestationQuote h nonce c session) =
        (fwAttestationQuote h nonce c session).act (s.fwAccepted h 0x0902) := State.fwCommand_of_runs runs
    have held : ((fwAttestationQuote h nonce c session).act (s.fwAccepted h 0x0902)).cmd.runtime = s.cmd.runtime :=
      (State.reply_runtime ..).trans (s.fwAccepted_runtime h 0x0902)
    have kept := State.keepBody_of_same held h nonce c session
    rw [← course] at kept
    refine congrArg Host.Outcome.next (kept.trans (course.trans ?_))
    simp only [fwAttestationQuote, secFw, State.acceptedBody_none]
  case read =>
    refine (next_fwCommand_of_runs rfl runs).trans (congrArg Host.Outcome.next ?_)
    simp only [fwQuoteRead, secFw, found, Option.map_some, Option.getD_some]

end Sys2Proof.Proofs.Security
end

section
/-! SUPPORT. The power and thermal events, and those of the trusted firmware (spec/18_power_thermal.md, spec/19_security.md). -/

namespace Sys2Proof.Machine

section
variable {s : State}

/-! ### Sensors and supplies (R388, R389, R403) -/

/-- A first sample in a sensor's range is kept, and the sensor is not faulted by it. -/
theorem Sensor.take_first {k : SensorKind} {v : Int} (low : (kindRange k).1 ≤ v) (high : v ≤ (kindRange k).2) :
    ({} : Sensor).take k v = { samples := [some v] } := by
  simp [Sensor.take, low, high]

/-- It is shown in its register (R388). -/
theorem State.sensorSample_of_first (standby : s.pins.standby = true) {k : SensorKind} {i : Nat} {v : Int} (exists_ : i < kindCount k)
    (fresh : s.sensor k i = {}) (low : (kindRange k).1 ≤ v) (high : v ≤ (kindRange k).2) :
    s.sensorSample k i v = (s.setSensor k i { samples := [some v] }).showSensor k i := by
  unfold State.sensorSample
  simp only [standby, Nat.not_le.2 exists_, fresh, Sensor.take_first low high, Bool.not_true, Bool.false_eq_true, or_self, if_false, Bool.false_and]

/-- The input filter of a module in standby that is not up: the values of the ending period stand, and an excursion that begins is warned
of (R389, R403). -/
theorem State.inputFilter_of_standby (standby : s.pins.standby = true) (down : s.up = false) (calm : s.pwr.excursion = false) :
    s.inputFilter =
      let t := s.debounce
      let t := { t with pwr := { t.pwr with
        volts := (t.inputMv :: t.pwr.volts).take 10, micros := (t.inputUw :: t.pwr.micros).take 10, filterAt := 0 } }
      let t := t.wr PWR_STATUS.input_w (min t.filteredW.floor.toNat 65535)
      if t.filteredMv < 40000 ∨ 60000 < t.filteredMv then
        (({ t with pwr := { t.pwr with excursion := true, within := 0 } }).wr PWR_STATUS.input_warn 1).svcFault 0x3201 1 0 0 []
      else t := by
  have still : s.debounce.up = false := down
  have quiet : s.debounce.pwr.excursion = false := calm
  unfold State.inputFilter
  simp only [standby, still, Bool.not_true, Bool.false_eq_true, if_false]
  generalize updated : State.wr _ PWR_STATUS.input_w _ = t
  have calmStill : t.pwr.excursion = false := by
    rw [← updated]
    exact quiet
  simp only [calmStill, Bool.false_eq_true, if_false]

/-- An entry unbalanced is warned of once (R390). -/
theorem State.entryImbalance_of_unbalanced (standby : s.pins.standby = true) {e : Nat} (entry : e < 4) (unbalanced : s.unbalanced e = true) :
    s.entryImbalance e = if s.pwr.imbalanced.contains e = true then s else
      (({ s with pwr := { s.pwr with imbalanced := e :: s.pwr.imbalanced } }).wr PWR_STATUS.imbalance 1).svcFault 0x3201 1 0 0 [] := by
  unfold State.entryImbalance
  simp only [entry, standby, unbalanced, true_and, ite_not]

/-! ### The limiter (R399) -/

/-- A limiter that rises is read anew by every tile, and counts as above 0 in the tick. -/
theorem State.limiterWords_of_risen (t : State) :
    ({ t.limiterMoves with pwr := { t.limiterMoves.pwr with limited := true } }).limiterWords true =
      ({ t with pwr := { t.pwr with limitSeen := some [], limited := true } }).limiterWords true := rfl

/-! ### The trusted firmware's events -/

/-- The runtime firmware that stops shows as stopped. -/
theorem State.runtimeStopped (up : s.up = true) (canon : s.Canon) : (s.runtimeRestart false).on CMD_STATUS.runtime_up = false := by
  have stopped : (s.wr CMD_STATUS.runtime_up 0).rd CMD_STATUS.runtime_up = 0 := State.rd_wr canon.2 CMD_STATUS.runtime_up 0 (by decide)
  have booting : ((s.wr CMD_STATUS.runtime_up 0).wr SEC_STATUS.boot_state 1).rd CMD_STATUS.runtime_up = 0 :=
    (State.rd_wr_ne _ (f := SEC_STATUS.boot_state) (g := CMD_STATUS.runtime_up) 1 (by decide)).trans stopped
  unfold State.runtimeRestart
  simp only [up, Bool.not_true, Bool.false_and, Bool.false_eq_true, if_false]
  have shown : ((List.range 2).foldl (fun u m => u.wr (CMD_MGMT_STATUS.held m) 0)
      ((s.wr CMD_STATUS.runtime_up 0).wr SEC_STATUS.boot_state 1)).rd CMD_STATUS.runtime_up = 0 :=
    foldl_kept (P := fun u => u.rd CMD_STATUS.runtime_up = 0) booting fun u m e =>
      (u.rd_wr_ne (f := CMD_MGMT_STATUS.held m) (g := CMD_STATUS.runtime_up) 0 (by
        simp only [CMD_STATUS.runtime_up, CMD_STATUS, CMD_MGMT_STATUS.held, CMD_MGMT_STATUS]; omega)).trans e
  rw [State.on, shown]
  rfl

/-! ### A region's emergency (R405, R408) -/

/-- A region above 103 °C is gated, whatever it was before. -/
theorem State.regionEmergency_of_hot {r : Nat} {v : Int} (powered : s.powered = true) (region : r < 294) (value : s.regionValue r = some v)
    (hot : 103000 ≤ v) : s.regionEmergency r =
      let t := ((s.wr (THM_REGION.gate_state (r / 6) (r % 6)) 2).wr (THM_REGION.emergency (r / 6) (r % 6)) 1).inc
        (THM_REGION_COUNTS.emergencies (r / 6) (r % 6)) 1
      let u := (if s.gateState r = 0 then t.inc (THM_REGION_COUNTS.gate_events (r / 6) (r % 6)) 1 else t).wr THM_STATUS.emergency 1
      let w := ({ u with pwr := { u.pwr with readings := u.pwr.readings.filter fun e => e.1 != r } }).fault 0x3204 1 3 (r / 6) none none []
      (if s.gateState r ≠ 0 then w
       else ((List.range 32).foldl (fun (v : State) p => match v.running p with
          | some c => if v.built p && v.workIn c (r / 6) (r % 6) then v.fault 0x3205 2 3 (r / 6) (some c) (some p) [] else v
          | none => v) w).holdRegion r).showGated := by
  unfold State.regionEmergency
  simp only [powered, region, value, hot, decide_true, Bool.and_self, Bool.not_true, Bool.false_eq_true, if_false]
  rfl

end

end Sys2Proof.Machine

namespace Sys2Proof.Proofs.PowerThermal

open Sys2Proof.Machine

/-- Settles O53: the course of each event in the state that its condition describes. -/
theorem powerEventsComplete : Obligations.PowerEventsComplete := by
  intro s
  refine ⟨fun standby => ⟨?sample, ?filter, ?imbalance, ?off, ?supply, ?thermal⟩,
    fun up => ⟨?rise, ?fall, ?droop, ?ungate, ?quote, ?session, ?stop, ?start⟩, ?converter, ?region⟩
  case sample =>
    intro i v entry low high fresh
    exact congrArg Host.Outcome.next (State.sensorSample_of_first standby entry fresh low high)
  case filter =>
    intro down calm
    have course := State.inputFilter_of_standby standby down calm
    exact ⟨fun low high => congrArg Host.Outcome.next (course.trans (if_neg (not_or.2 ⟨not_lt.2 low, not_lt.2 high⟩))),
      fun outside => congrArg Host.Outcome.next (course.trans (if_pos outside))⟩
  case imbalance =>
    intro e i entry sensed above
    have unbalanced : s.unbalanced e = true := by
      unfold State.unbalanced
      simp only [sensed, above, decide_true]
    have course := State.entryImbalance_of_unbalanced standby entry unbalanced
    exact ⟨fun first => congrArg Host.Outcome.next (course.trans (if_neg (ne_true_of_eq_false first))),
      fun again => congrArg Host.Outcome.next (course.trans (if_pos again))⟩
  case off => exact congrArg Host.Outcome.next (if_pos standby)
  case supply =>
    intro cause entry holds
    exact congrArg Host.Outcome.next (if_pos (by rw [standby, holds]; rfl))
  case thermal =>
    intro cond i v value rails holds
    have guard : (cond != 6 || s.railsOn) = true := by
      rcases rails with other | on
      · simp [other]
      · simp [on]
    refine congrArg Host.Outcome.next ?_
    unfold State.moduleTrip
    simp only [value, standby, guard, holds, Bool.and_self, if_true]
  case rise =>
    intro above level
    refine congrArg Host.Outcome.next ((if_pos ?_).trans (State.limiterWords_of_risen _))
    simp [up, above, level]
  case fall =>
    intro below level
    refine congrArg Host.Outcome.next (if_pos ?_)
    rw [up, decide_eq_true below, decide_eq_true level]
    rfl
  case droop =>
    intro t n tile powered u
    have course : s.droop t n = match u.ctxOn t with
        | some c => if (u.ctx c).step.isSome && u.hasWork c t then u.slipBy c t n else u
        | none => u := if_pos (by simp [up, tile, powered])
    refine ⟨fun c on working => congrArg Host.Outcome.next (course.trans ?_), fun free => congrArg Host.Outcome.next (course.trans ?_)⟩
    · simp only [on, working, if_true]
    · simp only [free]
  case ungate =>
    intro r due idle
    exact congrArg Host.Outcome.next (if_pos (by rw [up, due, idle]; rfl))
  case quote =>
    intro q rest waiting
    refine next_of_up up ?_
    unfold State.quoteSigned
    simp only [waiting]
    rfl
  case session =>
    intro id x found pending
    refine next_of_up up ?_
    unfold State.sessionTimeout
    simp only [found, pending, Option.isSome_none, Bool.false_eq_true, if_false]
  case stop => exact ⟨_, rfl, State.runtimeStopped up⟩
  case start =>
    refine congrArg Host.Outcome.next ?_
    unfold State.runtimeRestart
    simp only [up, Bool.not_true, Bool.false_and, Bool.false_eq_true, if_false, if_true]
    rfl
  case converter =>
    intro f field stage here
    refine congrArg Host.Outcome.next (if_pos ?_)
    simp [State.fieldPowered, field, stage, here]
  case region =>
    intro r v powered region value hot t fault
    have course := State.regionEmergency_of_hot powered region value hot
    refine ⟨fun gated => congrArg Host.Outcome.next (course.trans ?_), fun open_ => congrArg Host.Outcome.next (course.trans ?_)⟩
    · simp only [gated, if_false, ne_eq, not_false_eq_true, if_true]
      rfl
    · simp only [open_, if_true, ne_eq, not_true_eq_false, if_false]
      rfl

end Sys2Proof.Proofs.PowerThermal
end

section
/-! SUPPORT. Bring-up and the service connector (spec/20_bringup_calib.md, R485 to R488). -/

namespace Sys2Proof.Machine

section
variable {s : State}

/-! ### Standby power and the sequence (R430 to R433) -/

/-- The pins, the memories and the fault log are the same in two states. -/
def State.SamePins (s t : State) : Prop := t.pins = s.pins ∧ t.mem = s.mem ∧ t.faultLog = s.faultLog

theorem State.SamePins.setReg {t : State} (same : s.SamePins t) (a v : Nat) : s.SamePins (t.setReg a v) := same

theorem State.SamePins.loadAsym {t : State} (same : s.SamePins t) : s.SamePins t.loadAsym := by
  unfold State.loadAsym
  split
  · exact ite_kept (P := s.SamePins) same same
  · exact same

theorem State.SamePins.showCal {t : State} (same : s.SamePins t) : s.SamePins t.showCal := by
  unfold State.showCal
  extract_lets counted learning shown
  cases shown.cal.learn with
  | none => exact same
  | some x => exact same

/-- The registers that a loss of power keeps lie apart from the pins. -/
theorem State.samePins_restored (l : List (Nat × W64)) (s : State) :
    s.SamePins (l.foldl (fun t e => t.setReg e.1 (keptValue e.1 e.2.toNat)) s).loadAsym.showCal :=
  (foldl_kept (P := s.SamePins) ⟨rfl, rfl, rfl⟩ fun _ _ e => e.setReg _ _).loadAsym.showCal

/-- What no rail powers any more has lost its memories and its good power. -/
theorem State.unpowered_lost (s : State) : s.unpowered.pins.powerGood = false ∧ s.unpowered.mem = [] := by
  unfold State.unpowered
  obtain ⟨pins, mem, -⟩ := State.samePins_restored s.regs _
  exact ⟨congrArg (·.powerGood) pins, mem⟩

/-- Registers that read as after a reset lie apart from the pins. -/
theorem State.samePins_reset (l : List Nat) (s : State) : s.SamePins (l.foldl (fun s a => s.setReg a (regReset a)) s.resetMeasured) :=
  foldl_kept (P := s.SamePins) (foldl_kept (P := s.SamePins) ⟨rfl, rfl, rfl⟩ fun _ _ e => e.setReg _ _) fun _ _ e => e.setReg _ _

/-- The loss of standby power ends everything that is not kept in fuses or flash. -/
theorem State.standbyLoss_of_standby (standby : s.pins.standby = true) : s.standbyLoss.pins.standby = false ∧ s.standbyLoss.faultLog = [] ∧
    s.standbyLoss.pins.powerGood = false ∧ s.standbyLoss.mem = [] := by
  obtain ⟨powerGood, mem⟩ := s.unpowered_lost
  unfold State.standbyLoss
  rw [if_neg (by simp [standby])]
  obtain ⟨hpins, hmem, hlog⟩ := State.samePins_reset [FLT_LOG_INDEX, FLT_LOG_STATUS, CAL_BRINGUP] _
  rw [hpins, hmem, hlog]
  exact ⟨rfl, rfl, powerGood, mem⟩

/-- A power-on starts the sequence of a module at rest (R431). -/
theorem State.powerOn_of_off (standby : s.pins.standby = true) (reset : s.pins.resetLow = false) (off : s.rd CAL_BRINGUP.stage = 0) :
    s.powerOn = { s.wr CAL_BRINGUP.stage 1 with pins := { s.pins with requested := s.hall } } :=
  if_pos (by rw [standby, reset, off]; rfl)

/-- And is without effect else (log 38). -/
theorem State.powerOn_of_busy (busy : s.rd CAL_BRINGUP.stage ≠ 0 ∨ s.pins.resetLow = true) : s.powerOn = s := by
  refine if_neg fun h => ?_
  simp only [Bool.and_eq_true, Bool.not_eq_true', beq_iff_eq] at h
  obtain ⟨⟨-, high⟩, off⟩ := h
  rcases busy with stage | low
  · exact stage off
  · rw [low] at high
    cases high

/-- A register written lies apart from the pins. -/
theorem State.wr_withPins (s : State) (f : RF) (x : Nat) (p q : PinS) :
    ({ ({ s with pins := p } : State).wr f x with pins := q } : State) = { s.wr f x with pins := q } := rfl

/-- A stage over its time is aborted (R433). -/
theorem State.stageTimeout_of_slow (slow : (s.rd CAL_BRINGUP.stage = 2 ∧ s.rd SEC_STATUS.boot_state ≠ 3) ∨ s.rd CAL_BRINGUP.stage = 3 ∨
    s.rd CAL_BRINGUP.stage = 4 ∨ s.rd CAL_BRINGUP.stage = 5) : s.stageTimeout false = s.abortStage (s.rd CAL_BRINGUP.stage) := by
  unfold State.stageTimeout
  simp only [Bool.false_eq_true, if_false]
  exact if_pos slow

theorem State.stageTimeout_of_p7 (runs : s.p7Runs = true) : s.stageTimeout true = s.abortStage 7 := by
  unfold State.stageTimeout
  simp only [runs, if_true]

/-- P7 runs beside P3 to P6. -/
theorem State.p7Runs_of_stage (from3 : 3 ≤ s.rd CAL_BRINGUP.stage) (to7 : s.rd CAL_BRINGUP.stage ≤ 7) (open_ : s.pins.p7 = false) :
    s.p7Runs = true := by
  unfold State.p7Runs
  rw [decide_eq_true from3, decide_eq_true to7, open_]
  rfl

/-- P4 ends without a field that failed (R432). -/
theorem State.endP4_of_sound {r : StageResult} (sound : r.fieldsFailed = []) :
    s.endP4 r = (s.wr CAL_BRINGUP.fields_off 0).wr CAL_BRINGUP.stage 5 := by
  unfold State.endP4
  rw [sound]
  rfl

/-- P6 ends without a failure of its own (R434). -/
theorem State.endP6_of_sound {r : StageResult} (tiles : r.tileFails = []) (routers : r.routerFails = []) (rates : r.stackRates = []) :
    s.endP6 r = (s.wr CAL_BRINGUP.bist_failed 0).wr CAL_BRINGUP.stage 7 := by
  unfold State.endP6
  rw [tiles, routers, rates]
  rfl

end

/-! ### A stage that ends (R430) -/

/-- The state in which a stage's findings are taken: EMERGENCY_OFF_N is as it stands at the stage's end (log 38). -/
def State.atStageEnd (s : State) (r : StageResult) : State := { s with pins := { s.pins with emergencyLow := r.emergencyLow } }

/-- The same once the stage's time has passed. -/
def State.afterStage (s : State) (r : StageResult) : State :=
  { s.atStageEnd r with hall := (s.atStageEnd r).hall + r.durationMs * 1000000 }

section
variable {s : State} {r : StageResult}

/-- What the end of the current stage does, by the stage. -/
theorem State.stageComplete_of_current (current : r.p7 = false) : s.stageComplete r =
      match s.rd CAL_BRINGUP.stage with
      | 1 => if (s.atStageEnd r).preconditions then (s.afterStage r).wr CAL_BRINGUP.stage 2 else s.atStageEnd r
      | 2 => if s.rd SEC_STATUS.boot_state = 3 ∨ !(s.atStageEnd r).railsAllowed then s.atStageEnd r else (s.afterStage r).endP2
      | 3 => if (s.atStageEnd r).railsAllowed then (s.afterStage r).wr CAL_BRINGUP.stage 4 else s.atStageEnd r
      | 4 => if (s.atStageEnd r).railsAllowed then (s.afterStage r).endP4 r else s.atStageEnd r
      | 5 => (s.afterStage r).endP5
      | 6 => (s.afterStage r).endP6 r
      | _ => s.atStageEnd r := by
  unfold State.stageComplete
  simp only [current, Bool.false_eq_true, if_false]
  rfl

/-- What the end of P7 does while it runs. -/
theorem State.stageComplete_of_p7 (p7 : r.p7 = true) (runs : s.p7Runs = true) : s.stageComplete r = (s.afterStage r).endP7 r := by
  have there : (s.atStageEnd r).p7Runs = true := runs
  unfold State.stageComplete
  simp only [p7, if_true]
  exact if_pos there

end

/-! ### The service connector and the test access port (R487, R236) -/

section
variable {s : State}

/-- A frame of an op not assigned is answered as such. -/
theorem State.badFrame_of_unassigned {i : SvcIface} {f : Bytes} (ok : frameOk i f = true) (unassigned : frameOpAssigned i (leAt f 1 1) = false) :
    s.badFrame i f = s.service (ifaceCode i) (leAt f 1 1) (leAt f 2 1) fun s => (0x0103, [], s) :=
  if_pos (by rw [ok, unassigned]; rfl)

/-- The packet in hand of a frame relayed. -/
def relayHdr (ptag : Nat) : Hdr := ⟨0, ptag, 0, 0, 0, false, 0, true, true⟩

section
variable (standby : s.pins.standby = true) (free : (s.pins.replies.any fun r => r.1 == 0) = false) (stopped : s.on CMD_STATUS.runtime_up = false)
  (boot : s.rd SEC_STATUS.boot_state = 1) (tag ptag target addr off total : Nat) (data : Bytes)
include standby free stopped boot

/-- A relay of a mode that there is not is refused. -/
theorem State.trustedRelay_of_noMode : s.trustedRelay tag ptag 2 target addr off total data =
    { s with pins := { s.pins with replies := s.pins.replies ++ [(0, svcFrame 5 tag 0x0290 [])] } } := by
  unfold State.trustedRelay
  rw [State.service_of_free standby free]
  simp [stopped, boot]

/-- A part of an image waits for no command that the runtime firmware has left. -/
theorem State.trustedRelay_of_pending (pending : (s.cmd.runtime.any fun r => r.op == 0x0906) = true) :
    s.trustedRelay tag ptag 1 target addr off total data =
      { s with pins := { s.pins with replies := s.pins.replies ++ [(0, svcFrame 5 tag 0 (s.relayReply ptag 0x0290))] } } := by
  unfold State.trustedRelay
  rw [State.service_of_free standby free]
  simp [stopped, boot, pending]

/-- A part of an image is staged, or refused. -/
theorem State.trustedRelay_of_part (idle : (s.cmd.runtime.any fun r => r.op == 0x0906) = false) :
    s.trustedRelay tag ptag 1 target addr off total data =
      let q := s.takePart (relayHdr ptag) 0x0906 off total data
      let t := if q.1 = .refused then q.2 else q.2.stageBytes (addr + off) data
      { t with pins := { t.pins with
        replies := t.pins.replies ++ [(0, svcFrame 5 tag 0 (t.relayReply ptag (if q.1 = .refused then 0x0190 else 0)))] } } := by
  unfold State.trustedRelay
  rw [State.service_of_free standby free]
  simp only [stopped, boot, idle, relayHdr, Bool.false_eq_true, if_false, show ¬(1 = 0) by decide, show ¬(1 < 1 ∨ (1 = 3 ∧ target ≠ 0)) by omega]
  by_cases refused : (s.takePart (relayHdr ptag) 0x0906 off total data).1 = .refused
  · simp only [relayHdr] at refused
    simp [refused]
  · simp only [relayHdr] at refused
    simp [refused]

end

/-- The wake of the debug logic, as the access asks for it. -/
theorem State.wakes_iff (s : State) : (s.clockStopped 11 && !s.cdc.through && !(s.crossing 11 0).stopped) = true ↔
    s.clockStopped 11 = true ∧ s.cdc.through = false ∧ (s.crossing 11 0).stopped = false := by
  simp [and_assoc]

/-- An instruction that is not the debug logic's is selected at once; one that is goes through its crossing. -/
theorem State.jtag_of_standby (standby : s.pins.standby = true) (x : TapInstr) : s.jtag x =
      match tapSelect (s.rd SEC_STATUS.debug_level) x with
      | .other n =>
        if s.clockStopped 11 && !s.cdc.through && !(s.crossing 11 0).stopped then (s.raiseWake 11 0).keep 11 0 (.jtagInstruction x)
        else if s.passes 11 0 then { s with pins := { s.pins with tap := .other n } } else s.keep 11 0 (.jtagInstruction x)
      | sel => { s with pins := { s.pins with tap := sel } } := by
  unfold State.jtag
  simp only [standby, Bool.not_true, Bool.false_eq_true, if_false]
  cases tapSelect (s.rd SEC_STATUS.debug_level) x <;> rfl

end

end Sys2Proof.Machine

namespace Sys2Proof.Proofs.BringUp

open Sys2Proof.Machine

/-- Settles O54: the course of each event in the state that its conditions describe. -/
theorem bringUpAndServiceComplete : Obligations.BringUpAndServiceComplete := by
  intro s
  refine ⟨?arrival, ?loss, rfl, fun _ => rfl, ?request, ?conditions, ?timeout, ?timeoutP7, ?stage, ?good, ?assert_, ?release, ?service,
    fun _ => rfl, ?tap⟩
  case arrival =>
    intro off
    exact congrArg Host.Outcome.next (if_neg (ne_true_of_eq_false off))
  case loss => exact fun standby => ⟨_, rfl, State.standbyLoss_of_standby standby⟩
  case request =>
    intro i tag standby free reply
    refine ⟨fun reset off => congrArg Host.Outcome.next ?_, fun busy => congrArg Host.Outcome.next ?_, congrArg Host.Outcome.next ?_⟩
    · have ready : ¬(s.rd CAL_BRINGUP.stage ≠ 0 ∨ s.pins.resetLow = true) := by simp [off, reset]
      rw [State.service_of_free standby free]
      simp only [if_neg ready, State.powerOn_of_off standby reset off]
      rfl
    · rw [State.service_of_free standby free]
      simp only [if_pos busy, State.powerOn_of_busy busy]
      rfl
    · exact State.service_of_free standby free _ _ _
  case conditions =>
    intro first
    exact congrArg Host.Outcome.next (if_pos first)
  case timeout =>
    rintro k rfl slow
    exact congrArg Host.Outcome.next (State.stageTimeout_of_slow slow)
  case timeoutP7 =>
    intro from3 to7 open_
    exact congrArg Host.Outcome.next (State.stageTimeout_of_p7 (State.p7Runs_of_stage from3 to7 open_))
  case stage =>
    intro r u t done
    refine ⟨fun current => ?_, fun p7 from3 to7 open_ => ?_⟩
    · have course := State.stageComplete_of_current (s := s) current
      refine ⟨fun stage holds => ?_, fun stage fails => ?_, fun stage boot rails => ?_, fun stage rails => ?_, fun stage rails => ?_,
        fun stage rails sound => ?_, fun stage tiles routers rates => ?_⟩
      all_goals refine congrArg Host.Outcome.next (course.trans ?_)
      · rw [stage]; exact if_pos holds
      · rw [stage]; exact if_neg (ne_true_of_eq_false fails)
      · have allowed : (s.atStageEnd r).railsAllowed = true := rails
        rw [stage]
        refine if_neg ?_
        rintro (recovery | denied)
        · exact boot recovery
        · rw [allowed] at denied
          cases denied
      · rw [stage]; exact if_pos rails
      · have denied : ¬(s.atStageEnd r).railsAllowed = true := ne_true_of_eq_false rails
        rcases stage with stage | stage | stage
        · rw [stage]; exact if_pos (.inr (by simpa using denied))
        · rw [stage]; exact if_neg denied
        · rw [stage]; exact if_neg denied
      · rw [stage]; exact (if_pos rails).trans (State.endP4_of_sound sound)
      · rw [stage]; exact State.endP6_of_sound tiles routers rates
    · exact congrArg Host.Outcome.next (State.stageComplete_of_p7 p7 (State.p7Runs_of_stage from3 to7 open_))
  case good =>
    intro stage p7 runtime sound
    exact congrArg Host.Outcome.next (if_pos ⟨stage, p7, runtime, by rw [sound]; rfl⟩)
  case assert_ =>
    intro standby high
    exact ⟨_, rfl, congrArg Host.Outcome.next (if_pos (by rw [standby, high]; rfl))⟩
  case release =>
    intro standby low off
    refine congrArg Host.Outcome.next ((if_pos low).trans ?_)
    exact (State.powerOn_of_off (s := { s with pins := { s.pins with resetLow := false } }) standby rfl off).trans (s.wr_withPins _ _ _ _)
  case service =>
    intro i tag standby free
    refine ⟨congrArg Host.Outcome.next (State.service_of_free standby free _ _ _),
      fun first count => congrArg Host.Outcome.next (State.service_of_free standby free _ _ _), ?_, fun f ok unassigned => ?_⟩
    · rintro ptag target addr off total data rfl stopped boot answer h q
      refine ⟨congrArg Host.Outcome.next (State.trustedRelay_of_noMode standby free stopped boot _ _ _ _ _ _ _), fun pending =>
        congrArg Host.Outcome.next (State.trustedRelay_of_pending standby free stopped boot _ _ _ _ _ _ _ pending), fun idle => ?_⟩
      have course := State.trustedRelay_of_part standby free stopped boot tag ptag target addr off total data idle
      have part : s.takePart (relayHdr ptag) 0x0906 off total data = q := rfl
      simp only [part] at course
      exact ⟨fun taken => congrArg Host.Outcome.next (course.trans (by simp only [if_neg taken]; rfl)),
        fun refused => congrArg Host.Outcome.next (course.trans (by simp only [if_pos refused]; rfl))⟩
    · exact congrArg Host.Outcome.next ((State.badFrame_of_unassigned ok unassigned).trans (State.service_of_free standby free _ _ _))
  case tap =>
    intro x standby sel wakes
    have course := State.jtag_of_standby standby x
    refine ⟨fun free => ?_, fun n selected waking => ?_, fun n selected awake closed => ?_⟩
    · refine congrArg Host.Outcome.next (course.trans ?_)
      show _ = { s with pins := { s.pins with tap := tapSelect (s.rd SEC_STATUS.debug_level) x } }
      cases chosen : tapSelect (s.rd SEC_STATUS.debug_level) x with
      | other n =>
        rcases free with never | ⟨awake, opens⟩
        · exact absurd chosen (never n)
        · exact (if_neg (mt s.wakes_iff.1 awake)).trans (if_pos opens)
      | _ => rfl
    · have chosen : tapSelect (s.rd SEC_STATUS.debug_level) x = .other n := selected
      rw [chosen] at course
      exact congrArg Host.Outcome.next (course.trans (if_pos (s.wakes_iff.2 waking)))
    · have chosen : tapSelect (s.rd SEC_STATUS.debug_level) x = .other n := selected
      rw [chosen] at course
      exact congrArg Host.Outcome.next (course.trans ((if_neg (mt s.wakes_iff.1 awake)).trans (if_neg (ne_true_of_eq_false closed))))

end Sys2Proof.Proofs.BringUp
end

section
/-! SUPPORT. The debug-unlock, enrolment and update commands (spec/19_security.md): an object in parts whose last part is judged as it
arrives. -/

namespace Sys2Proof.Machine

/-! ### A command whose own check stands before its refusal -/

section
variable {s t : State} {h : Hdr} {f : Fw} {cmd : Instr}

/-- A command that passes all but its own check runs where it passes that one. -/
theorem State.runsBefore.runs (before : s.runsBefore h f cmd) (passes : f.check (s.taken h) = 0) : s.runs h f cmd := by
  obtain ⟨⟨link, relayed, awake, credit, intake, -⟩, rest⟩ := before
  exact ⟨⟨link, relayed, awake, credit, intake, passes⟩, rest⟩

/-- Where it fails it, it is refused with the check's status, and what the refusal leaves beside. -/
theorem State.fwCommand_of_refused (before : s.runsBefore h f cmd) (fails : f.check (s.taken h) ≠ 0) :
    s.fwCommand h f cmd = (f.onRefusal (f.check (s.taken h)) (s.taken h)).refuse h f.op (f.check (s.taken h)) := by
  obtain ⟨⟨linkUp, relayed, awake, credit, intake, -⟩, firmware, update, -⟩ := before
  unfold State.taken at intake fails firmware update
  unfold State.fwCommand State.taken
  simp only [linkUp, relayed, awake, credit, intake, fails, firmware, update, Bool.not_true, Bool.or_self, Bool.false_eq_true, ne_eq,
    not_true_eq_false, not_false_eq_true, if_false, if_true]

/-- A command that runs waits behind no other. -/
theorem State.runsBefore.alone (before : s.runsBefore h f cmd) : (s.taken h).waitsBehind f.op = false := by
  obtain ⟨-, -, -, -, -, alone⟩ := before
  exact alone

theorem State.SameBesideLink.sec (same : s.SameBesideLink t) : t.sec = s.sec := have e := congrArg State.sec same; e

/-- The acceptance of a firmware command lies beside the parts of an object and the hall counter. -/
theorem State.SameBesideLink.fwAccepted (s : State) (h : Hdr) (op : Nat) : (s.taken h).SameBesideLink (s.fwAccepted h op) :=
  State.SameBesideLink.wakeFor (t := s.taken h) rfl op true

end

/-! ### An object in parts (R419) -/

section
variable {s t u : State} {h : Hdr} {op off total : Nat} {data obj : Bytes}

/-- What a part comes to goes by the parts before it and the hall counter. -/
theorem State.takePart_outcome_congr (sec : t.sec = s.sec) (hall : t.hall = s.hall) :
    (t.takePart h op off total data).1 = (s.takePart h op off total data).1 := by
  have parts : t.assembly h op = s.assembly h op := by
    unfold State.assembly
    rw [sec]
  unfold State.takePart
  simp only [parts, hall]
  split
  · rfl
  · split_ifs <;> rfl

/-- The part that ends an object as it arrives ends it as its command is accepted. -/
theorem State.fwAccepted_takePart (whole : (s.taken h).takePart h op off total data = (.whole obj, t)) :
    (s.fwAccepted h op).takePart h op off total data = (.whole obj, ((s.fwAccepted h op).takePart h op off total data).2) := by
  have beside := State.SameBesideLink.fwAccepted s h op
  have outcome : ((s.fwAccepted h op).takePart h op off total data).1 = ((s.taken h).takePart h op off total data).1 :=
    State.takePart_outcome_congr beside.sec beside.hall
  refine Prod.ext (outcome.trans ?_) rfl
  rw [whole]

/-- A command for the trusted firmware that waits behind none finds none of its own opcode held. -/
theorem State.idle_of_alone (group : op / 256 = 9) (alone : s.waitsBehind op = false) :
    (s.cmd.runtime.any fun r => r.hdr.channel == h.channel && r.op == op && r.hdr.context == h.context) = false := by
  unfold State.waitsBehind at alone
  simp only [fwCrossing, group, if_true] at alone
  rw [List.any_eq_false] at alone ⊢
  intro r mem same
  simp only [Bool.and_eq_true, beq_iff_eq] at same
  obtain ⟨⟨-, own⟩, -⟩ := same
  exact alone r mem (by simp [own, group])

/-- The last part is judged as it arrives, and the object once more as the command is carried out. -/
theorem fwCommand_of_wholePart {judge : State → Bytes → Nat} {act : State → Bytes → State} {count : Nat → State → State} {lenOk : Bool}
    {sc : Scope} {cmd : Instr} (group : op / 256 = 9) (before : s.runsBefore h (partFw h op lenOk sc off total data judge act count) cmd)
    (whole : (s.taken h).takePart h op off total data = (.whole obj, t)) (hu : ((s.fwAccepted h op).takePart h op off total data).2 = u) :
    s.fwCommand h (partFw h op lenOk sc off total data judge act count) cmd =
      if judge t obj ≠ 0 then (count (judge t obj) t).refuse h op (judge t obj)
      else if judge u obj ≠ 0 then (count (judge u obj) u).reply h op (judge u obj) else act u obj := by
  have alone := before.alone
  have check : (partFw h op lenOk sc off total data judge act count).check (s.taken h) = judge t obj := by
    simp only [partFw, State.partCheck, State.idle_of_alone group alone, whole, Bool.false_eq_true, if_false]
  split
  case isTrue fails =>
    refine (State.fwCommand_of_refused before (check ▸ fails)).trans ?_
    rw [check]
    simp only [partFw, whole]
  case isFalse passes =>
    refine (State.fwCommand_of_runs (before.runs (check.trans (not_not.1 passes)))).trans ?_
    refine (partFw_act_of_whole (State.fwAccepted_takePart whole)).trans ?_
    rw [hu, ite_not]

end

/-! ### What an unlock and an enrolment come to (R418, R427) -/

section
variable {s : State} {h : Hdr} {obj : Bytes}

/-- A response to the challenge in hand, with a debug key, is judged by its signature. -/
theorem State.unlockCheck_of_signed {level at_ : Nat} {ch : Bytes} {k : KeyEntry} (challenge : s.sec.challenge = some (level, ch, at_))
    (key : s.debugKey obj = some k) (length : obj.length = 16232) (entry : leAt obj 16224 8 ≤ 31) (allowed : s.unlockRefusal level = 0)
    (inTime : s.hall ≤ at_ + sessionLimit) :
    s.unlockCheck obj = if Config.verifySignature k.key ch (obj.take 16224) then 0 else 0x0640 := by
  unfold State.unlockCheck
  simp only [challenge, key, length, allowed, ne_eq, not_true_eq_false, false_or, Nat.not_lt.2 entry, Nat.not_lt.2 inTime, if_false]

/-- A response that is right unlocks the level of its challenge. -/
theorem State.unlock_of_challenge {level at_ : Nat} {ch : Bytes} (challenge : s.sec.challenge = some (level, ch, at_)) :
    s.unlock h obj =
      (((({ s.wr SEC_STATUS.debug_level (max level (s.rd SEC_STATUS.debug_level)) with
        sec := { s.sec with challenge := none } }).inc SEC_COUNTS.unlocks 1).extendFree 4).fault 0x3305 0 15 0 none none
          (leB 1 level ++ leB 1 (leAt obj 16224 8))).secReply h 0x0905 0 := by
  unfold State.unlock
  simp only [challenge]

/-- The first enrolment of an owner is judged by its record and the root signature (R418). -/
theorem State.enrolCheck_of_first (length : obj.length = 16304) (first : leAt obj 0 1 = 0) (unowned : s.on SEC_STATUS.owner_set = false)
    (sound : s.sec.fuseBad = false) (fresh : s.sec.counter < leAt obj 8 8) :
    s.enrolCheck obj = if !recordOk obj then 0x0190
      else if !Config.kyorisSigned s.rootHash (sha256 (obj.take 80)) (slice obj 80 16224) then 0x0640 else 0 := by
  have record : enrolRecordOf obj = obj := if_pos length
  unfold State.enrolCheck
  simp only [record, length, first, unowned, sound, Nat.not_le.2 fresh]
  simp

/-- An enrolment whose fuses read back as written takes its record. -/
theorem State.enrol_of_written (length : obj.length = 16304) : s.enrol h true obj = (s.enrolRecord obj).secReply h 0x0907 0 := by
  have record : enrolRecordOf obj = obj := if_pos length
  unfold State.enrol
  simp [record]

end

end Sys2Proof.Machine
end

section
/-! SUPPORT. A fuse that does not read back (spec/19_security.md, R416 and R447): what it faults, and what no command moves after it. -/

namespace Sys2Proof.Machine

/-! ### A fuse that does not read back (R416, R447) -/

section
variable {s t : State}

/-- The pins lie apart from the registers. -/
theorem State.withPins_reg (s : State) (pins : PinS) (a : Nat) : ({ s with pins := pins } : State).reg a = s.reg a := rfl

/-- A context's teardown leaves the fault state (R451). -/
theorem State.tearDown_faultState (s : State) {c : Nat} (hc : c < 128) (code cls : Nat) (ha : a = FLT_STATE) :
    (s.tearDown c code cls).reg a = s.reg a := by
  have inPart := s.cpart_lt c
  have off {b : Nat} (apart : FLT_STATE ≠ b) : a ≠ b := ha ▸ apart
  have low : a < 2 ^ 40 := by rw [ha]; decide
  have state : a ≠ PAR_CTX_CFG c := off (by unfold FLT_STATE PAR_CTX_CFG; omega)
  have cause : a ≠ FLT_CTX_STATUS c := off (by unfold FLT_STATE FLT_CTX_STATUS; omega)
  have status : a ≠ PAR_PART_STATUS (s.cpart c) := off (by unfold FLT_STATE PAR_PART_STATUS; omega)
  have own : a ≠ PAR_CTX_CREDIT c := off (by unfold FLT_STATE PAR_CTX_CREDIT; omega)
  have streams : a ≠ PRT_STREAMS := off (by decide)
  have credits (p : Nat) (hp : p < 32) : a ≠ PAR_PART_CREDITS p := off (by unfold FLT_STATE PAR_PART_CREDITS; omega)
  unfold State.tearDown
  extract_lets p shown halted settled
  have hshown : shown.reg a = s.reg a :=
    (State.reg_wr_ne _ (f := FLT_CTX_STATUS.cause_class c) _ cause).trans
      ((State.reg_wr_ne _ (f := FLT_CTX_STATUS.cause_code c) _ cause).trans (s.reg_wr_ne (f := PAR_CTX_CFG.state c) _ state))
  have hhalted : halted.reg a = s.reg a := by
    refine (ite_kept (P := fun u => u.reg a = shown.reg a) ?_ rfl).trans hshown
    refine foldl_kept (P := fun u => u.reg a = shown.reg a) ?_ fun u k e =>
      ite_kept (P := fun u => u.reg a = shown.reg a) ((u.stopTile_reg k low).trans e) e
    exact (State.dropLines_reg _ p a).trans (shown.reg_wr_ne (f := PAR_PART_STATUS.running_valid p) 0 status)
  have hsettled : settled.reg a = s.reg a := by
    refine (ite_kept (P := fun u => u.reg a = halted.reg a) ?_ rfl).trans hhalted
    exact (State.modPart_reg _ p _ a).trans (halted.reg_wr_ne (f := PAR_PART_STATUS.evicting p) 0 status)
  exact ite_kept (P := fun u => u.reg a = s.reg a) rfl ((settled.abandon_reg c credits own streams).trans hsettled)

/-- It leaves the state of security. -/
theorem State.tearDown_sec (s : State) (c code cls : Nat) : (s.tearDown c code cls).sec = s.sec := by
  have dropped (u : State) (l : List Nat) : (l.foldl (fun v t => if v.hasWork c t then v.stopTile t else v) u).sec = u.sec :=
    foldl_kept (P := fun v => v.sec = u.sec) rfl fun v t e => ite_kept (P := fun v => v.sec = u.sec) e e
  unfold State.tearDown
  extract_lets p shown halted settled
  have hhalted : halted.sec = s.sec := ite_kept (P := fun t => t.sec = s.sec) (dropped _ _) rfl
  have hsettled : settled.sec = s.sec := ite_kept (P := fun t => t.sec = s.sec) hhalted hhalted
  exact ite_kept (P := fun t => t.sec = s.sec) rfl hsettled

@[simp] theorem State.reply_sec (s : State) (h : Hdr) (op status : Nat) (payload : Bytes) (dup : Bool) :
    (s.reply h op status payload dup).sec = s.sec := (State.SameBesideLink.reply (s := s) (t := s) rfl h op status payload dup).sec

/-- A class 5 fault against no context leaves the state of security (R447). -/
theorem State.fault_sec (s : State) (code space index : Nat) (detail : Bytes) : (s.fault code 5 space index none none detail).sec = s.sec := by
  have recorded : (s.faultRecord code 5 space index detail).2.sec = s.sec := by
    unfold State.faultRecord
    dsimp only
    split <;> rfl
  have reported (u : State) (rcd : Bytes) : (u.reportFault code 5 none none rcd).sec = u.sec :=
    foldl_kept (P := fun v => v.sec = u.sec) rfl fun v _ e =>
      ite_kept (P := fun w => w.sec = u.sec) ((State.SameBesideLink.eventOn (s := v) (t := v) rfl _ _ _ _ _ _).sec.trans e) e
  have logged (u : State) (rcd : Bytes) : (u.logClass 5 rcd).sec = u.sec :=
    ite_kept (P := fun v => v.sec = u.sec) (ite_kept (P := fun v => v.sec = u.sec) rfl rfl) rfl
  exact (reported _ _).trans ((logged _ _).trans recorded)

/-- A module fault shows in the fault state, and leaves the fuse mismatch. -/
theorem State.moduleFault_faults (canon : s.Canon) (code : Nat) :
    (s.moduleFault code).rd FLT_STATE.module_faulted = 1 ∧ (s.moduleFault code).sec.fuseBad = s.sec.fuseBad := by
  unfold State.moduleFault
  extract_lets marked
  have written : marked.rd FLT_STATE.module_faulted = 1 := State.rd_wr canon.2 FLT_STATE.module_faulted 1 (by decide)
  have kept : ((List.range 128).foldl (fun (s : State) c => s.tearDown c code 5)
      { marked with pins := { marked.pins with powerGood := false } }).reg FLT_STATE = marked.reg FLT_STATE :=
    List.foldlRecOn (motive := fun u => State.reg u FLT_STATE = marked.reg FLT_STATE) _ _ (marked.withPins_reg _ FLT_STATE) fun w e c mem =>
      (w.tearDown_faultState (List.mem_range.1 mem) code 5 rfl).trans e
  exact ⟨(State.rd_congr (f := FLT_STATE.module_faulted) kept).trans written,
    congrArg SecS.fuseBad (foldl_kept (P := fun u => u.sec = s.sec) rfl fun w c e => (w.tearDown_sec c code 5).trans e)⟩

/-- A fuse that does not read back as written is remembered, and faults the module. -/
theorem State.fuseMismatch_faults (canon : s.Canon) (h : Hdr) (op : Nat) :
    (s.fuseMismatch h op).sec.fuseBad = true ∧ (s.fuseMismatch h op).on FLT_STATE.module_faulted = true := by
  let marked : State := { s with sec := { s.sec with fuseBad := true } }
  have bad : (marked.fault 0x3304 5 15 0 none none []).sec.fuseBad = true := congrArg SecS.fuseBad (marked.fault_sec 0x3304 15 0 [])
  have faulted := State.moduleFault_faults (State.fault_kept canon_kept marked 0x3304 5 15 0 none none [] canon) 0x3304
  have apart : FLT_STATE ≠ CMD_CHAN_STATUS h.channel := by
    unfold FLT_STATE CMD_CHAN_STATUS
    omega
  have answered : s.fuseMismatch h op = ((marked.fault 0x3304 5 15 0 none none []).moduleFault 0x3304).reply h op 0x0703 [] := rfl
  rw [answered]
  generalize (marked.fault 0x3304 5 15 0 none none []).moduleFault 0x3304 = u at faulted ⊢
  obtain ⟨state, fuse⟩ := faulted
  refine ⟨(congrArg SecS.fuseBad (u.reply_sec h op 0x0703 [] false)).trans (fuse.trans bad), ?_⟩
  have shown := (State.rd_congr (f := FLT_STATE.module_faulted) (u.reply_reg h op 0x0703 [] false apart)).trans state
  exact bne_iff_ne.2 (shown ▸ Nat.one_ne_zero)

end

/-! ### What the commands leave of the fuses after a mismatch (R447) -/

/-- An address of no register that shows a fuse. -/
def offFuses (a : Nat) : Prop := a < 0xf0000000000 ∨ 0xf0000000050 ≤ a

/-- The registers that show the fuses, and whether one has failed, are the same in two states. -/
structure State.SameFuses (s t : State) : Prop where
  reg : ∀ a, 0xf0000000000 ≤ a → a < 0xf0000000050 → t.reg a = s.reg a
  bad : t.sec.fuseBad = s.sec.fuseBad

section
variable {s t u : State} {h : Hdr} {op : Nat}

theorem State.SameFuses.refl (s : State) : s.SameFuses s := ⟨fun _ _ _ => rfl, rfl⟩

theorem State.SameFuses.trans (first : s.SameFuses t) (second : t.SameFuses u) : s.SameFuses u :=
  ⟨fun a lo hi => (second.reg a lo hi).trans (first.reg a lo hi), second.bad.trans first.bad⟩

/-- What moves no register and no fuse keeps them. -/
theorem State.SameFuses.of_regs (regs : t.regs = s.regs) (bad : t.sec.fuseBad = s.sec.fuseBad) : s.SameFuses t :=
  ⟨fun a _ _ => by unfold State.reg; rw [regs], bad⟩

theorem State.SameFuses.wr (s : State) (f : RF) (x : Nat) (off : offFuses f.addr) : s.SameFuses (s.wr f x) := by
  refine ⟨fun a lo hi => s.reg_wr_ne x ?_, rfl⟩
  unfold offFuses at off
  omega

theorem State.SameFuses.inc (s : State) (f : RF) (n : Nat) (off : offFuses f.addr) : s.SameFuses (s.inc f n) := .wr s f _ off
theorem State.SameFuses.wrBit (s : State) (f : RF) (i : Nat) (v : Bool) (off : offFuses f.addr) : s.SameFuses (s.wrBit f i v) := .wr s f _ off

/-- The registers below those of security show no fuse. -/
theorem offFuses_of_low {a : Nat} (low : a < 2 ^ 40) : offFuses a := .inl (by omega)

theorem CMD_CHAN_STATUS_lt {ch : Nat} (hch : ch < 8) : CMD_CHAN_STATUS ch < 2 ^ 40 := by
  unfold CMD_CHAN_STATUS
  omega

theorem CMD_CHAN_COUNTS_lt {ch : Nat} (hch : ch < 8) : CMD_CHAN_COUNTS ch < 2 ^ 40 := by
  unfold CMD_CHAN_COUNTS
  omega

theorem State.SameFuses.arrive (s : State) (h : Hdr) : s.SameFuses (s.arrive h) := by
  refine ite_kept (P := s.SameFuses) ?_ (.refl s)
  refine List.foldlRecOn (motive := s.SameFuses) _ _ (.refl s) fun u e m mem => ite_kept (P := s.SameFuses) (e.trans (.inc u _ 1 ?_)) e
  have two := List.mem_range.1 mem
  refine offFuses_of_low ?_
  simp only [CMD_MGMT_COUNTS.relayed, CMD_MGMT_COUNTS]
  omega

theorem State.SameFuses.taken (s : State) (hch : h.channel < 8) : s.SameFuses (s.taken h) :=
  (State.SameFuses.arrive s h).trans (.wr _ (CMD_CHAN_STATUS.outstanding h.channel) _ (offFuses_of_low (CMD_CHAN_STATUS_lt hch)))

/-- Neither do those of the clock crossings. -/
theorem State.SameFuses.showCrossing (s : State) (c : Nat) : s.SameFuses (s.showCrossing c) := by
  have off : offFuses CDC_STOPPED := offFuses_of_low (by decide)
  exact (State.SameFuses.wrBit s CDC_STOPPED.stopped c _ off).trans (.wrBit _ CDC_STOPPED.waking c _ off)

theorem State.SameFuses.setCrossing (s : State) (x : Crossing) : s.SameFuses (s.setCrossing x) := by
  obtain ⟨cdc, shown⟩ : ∃ cdc : CdcS, s.setCrossing x = ({ s with cdc := cdc } : State).showCrossing x.id := ⟨_, rfl⟩
  rw [shown]
  have kept : s.SameFuses { s with cdc := cdc } := .of_regs rfl rfl
  exact kept.trans (.showCrossing _ x.id)

theorem State.SameFuses.raiseWake (s : State) (c n : Nat) : s.SameFuses (s.raiseWake c n) :=
  ite_kept (P := s.SameFuses) (.refl s) ((State.SameFuses.setCrossing s _).trans (.inc _ CDC_WAKES.wakes 1 (offFuses_of_low (by decide))))

theorem State.SameFuses.holdPacket (s : State) (i : Instr) : s.SameFuses (s.holdPacket i) := by
  have woken : s.SameFuses s.wakeLink :=
    ite_kept (P := s.SameFuses) ((State.SameFuses.raiseWake s 3 0).trans (.raiseWake _ 4 0)) (.refl s)
  exact woken.trans (ite_kept (P := State.SameFuses s.wakeLink) (.refl _) (.setCrossing _ _))

theorem State.SameFuses.wakeFor (s : State) (op : Nat) (now : Bool) : s.SameFuses (s.wakeFor op now) :=
  ite_kept (P := s.SameFuses)
    (ite_kept (P := s.SameFuses) (.inc s CDC_WAKES.wakes 1 (offFuses_of_low (by decide))) (.raiseWake s 10 0)) (.refl s)

theorem State.SameFuses.setChan (s : State) (ch : Nat) (c : Chan) : s.SameFuses (s.setChan ch c) := .of_regs rfl rfl

theorem State.SameFuses.accept (s : State) (hch : h.channel < 8) (op : Nat) : s.SameFuses (s.accept h op) :=
  (State.SameFuses.inc s (CMD_CHAN_COUNTS.accepted h.channel) 1 (offFuses_of_low (CMD_CHAN_COUNTS_lt hch))).trans (.setChan _ _ _)

theorem State.SameFuses.reply (s : State) (hch : h.channel < 8) (op status : Nat) (payload : Bytes) (dup : Bool) :
    s.SameFuses (s.reply h op status payload dup) := by
  have low := CMD_CHAN_STATUS_lt hch
  exact ⟨fun a lo _ => s.reply_reg h op status payload dup (by omega), congrArg SecS.fuseBad (s.reply_sec h op status payload dup)⟩

theorem State.SameFuses.refuse (s : State) (hch : h.channel < 8) (op status : Nat) : s.SameFuses (s.refuse h op status) := by
  rw [s.refuse_eq h op status]
  refine (State.SameFuses.inc s (CMD_CHAN_COUNTS.refused h.channel) 1 (offFuses_of_low (CMD_CHAN_COUNTS_lt hch))).trans ?_
  exact (State.SameFuses.wr _ (CMD_CHAN_STATUS.outstanding h.channel) _ (offFuses_of_low (CMD_CHAN_STATUS_lt hch))).trans (.setChan _ _ _)

theorem State.SameFuses.secCount (s : State) (status : Nat) : s.SameFuses (secCount status s) := by
  have off : offFuses SEC_COUNTS := .inr (by decide)
  exact ite_kept (P := s.SameFuses) (.inc s SEC_COUNTS.sig_failures 1 off)
    (ite_kept (P := s.SameFuses) (.inc s SEC_COUNTS.refusals 1 off) (.refl s))

/-- A part moves the assembly of its object alone. -/
theorem State.takePart_eq (s : State) (h : Hdr) (op off total : Nat) (data : Bytes) :
    ∃ a, (s.takePart h op off total data).2 = s.setAssembly h op a := by
  unfold State.takePart
  extract_lets old fits
  cases fits with
  | none => exact ⟨none, rfl⟩
  | some before =>
    dsimp only
    split_ifs
    · exact ⟨none, rfl⟩
    · exact ⟨none, rfl⟩
    · exact ⟨_, rfl⟩

theorem State.SameFuses.takePart (s : State) (h : Hdr) (op off total : Nat) (data : Bytes) : s.SameFuses (s.takePart h op off total data).2 := by
  obtain ⟨a, ha⟩ := s.takePart_eq h op off total data
  rw [ha]
  exact .of_regs rfl rfl

/-- A command of the runtime firmware leaves the fuses where its refusal does, and its effect where it passes its check. -/
theorem State.SameFuses.fwCommand {f : Fw} {cmd : Instr} (hch : h.channel < 8)
    (act : f.check (s.taken h) = 0 → s.SameFuses (f.act (s.fwAccepted h f.op)))
    (refusal : ∀ status, s.SameFuses (f.onRefusal status (s.taken h))) : s.SameFuses (s.fwCommand h f cmd) := by
  have taken := State.SameFuses.taken s hch
  have accepted (now : Bool) : s.SameFuses (((s.taken h).wakeFor f.op now).accept h f.op) :=
    taken.trans ((State.SameFuses.wakeFor _ f.op now).trans (.accept _ hch f.op))
  have held := (accepted false).trans (.reply _ hch f.op 1 [] false)
  have overrun := (State.SameFuses.arrive s h).trans (.wr _ CMD_STATUS.overrun 1 (offFuses_of_low (by decide)))
  have silent := taken.trans ((State.SameFuses.accept _ hch f.op).trans (.reply _ hch f.op 0x0301 [] false))
  unfold State.fwCommand
  refine ite_kept (P := s.SameFuses) (.refl s) (ite_kept (P := s.SameFuses) (.holdPacket s cmd) (ite_kept (P := s.SameFuses) overrun
    (ite_kept (P := s.SameFuses) (taken.trans (.refuse _ hch f.op _)) (ite_kept (P := s.SameFuses) silent
      (ite_kept (P := s.SameFuses) (taken.trans (.refuse _ hch f.op _)) ?_)))))
  split
  case isTrue => exact (refusal _).trans (.refuse _ hch f.op _)
  case isFalse passes => exact ite_kept (P := s.SameFuses) (act (not_not.1 passes)) (held.trans (.of_regs rfl rfl))

/-! #### Enrolment and a raised floor -/

theorem State.freeBytes_eq (n : Nat) (s : State) : ∃ fresh, (State.freeBytes n s).2 = { s with fresh := fresh } := by
  induction n generalizing s with
  | zero => exact ⟨s.fresh, rfl⟩
  | succ n ih =>
    obtain ⟨fresh, last⟩ := ih (s.free 8).2
    exact ⟨fresh, last⟩

/-- A measurement extended is shown beyond the fuses. -/
theorem State.SameFuses.extendFree (s : State) (k : Nat) (hk : k < 16) : s.SameFuses (s.extendFree k) := by
  obtain ⟨fresh, drawn⟩ := State.freeBytes_eq 32 s
  have kept : s.SameFuses (State.freeBytes 32 s).2 := drawn ▸ .of_regs rfl rfl
  refine kept.trans (List.foldlRecOn (motive := State.SameFuses (State.freeBytes 32 s).2) _ _ (.refl _) fun u e w _ => e.trans (.wr u _ _ (.inr ?_)))
  simp only [SEC_MEAS.meas, SEC_MEAS]
  omega

theorem State.SameFuses.showKeys (s : State) : s.SameFuses s.showKeys := by
  have off : offFuses SEC_ENROL := .inr (by decide)
  exact (State.SameFuses.wr s SEC_ENROL.enrolled _ off).trans (.wr _ SEC_ENROL.counter_low _ off)

/-- A key added or revoked writes no fuse (R418). -/
theorem State.SameFuses.enrolRecord (s : State) {r : Bytes} (kind : leAt r 0 1 = 1 ∨ leAt r 0 1 = 2) : s.SameFuses (s.enrolRecord r) := by
  have carried (sec : SecS) (bad : sec.fuseBad = s.sec.fuseBad) : s.SameFuses (({ s with sec := sec } : State).extendFree 5).showKeys := by
    have kept : s.SameFuses { s with sec := sec } := .of_regs rfl bad
    exact kept.trans ((State.SameFuses.extendFree _ 5 (by decide)).trans (.showKeys _))
  unfold State.enrolRecord
  rcases kind with add | revoke
  · simp only [add, one_ne_zero, if_false, if_true]
    exact carried _ rfl
  · simp only [revoke, OfNat.ofNat_ne_zero, OfNat.ofNat_ne_one, if_false, if_true]
    exact carried _ rfl

/-- A record that stands is of one of four kinds (Table 19-4). -/
theorem recordOk_kind {r : Bytes} (ok : recordOk r = true) : leAt r 0 1 ≤ 3 := by
  simp only [recordOk, Bool.and_eq_true, decide_eq_true_eq] at ok
  obtain ⟨⟨⟨⟨kind, -⟩, -⟩, -⟩, -⟩ := ok
  exact kind

/-- After a mismatch, only a record that adds or revokes a key passes (R447). -/
theorem State.enrolCheck_kind {obj : Bytes} (bad : s.sec.fuseBad = true) (passes : s.enrolCheck obj = 0) :
    leAt (enrolRecordOf obj) 0 1 = 1 ∨ leAt (enrolRecordOf obj) 0 1 = 2 := by
  unfold State.enrolCheck at passes
  dsimp only at passes
  split at passes
  · cases passes
  · next sound =>
    split at passes
    · cases passes
    · next fuses =>
      simp only [Bool.or_eq_true, not_or, Bool.not_eq_true', Bool.not_eq_false] at sound
      obtain ⟨⟨-, ok⟩, -⟩ := sound
      have kinds := recordOk_kind ok
      have writesNone : leAt (enrolRecordOf obj) 0 1 % 3 ≠ 0 := fun fuse => fuses (.inr ⟨fuse, bad⟩)
      omega

/-- Such an enrolment leaves the fuses. -/
theorem State.SameFuses.enrol (bad : s.sec.fuseBad = true) (hch : h.channel < 8) {obj : Bytes} (passes : s.enrolCheck obj = 0) (ok : Bool) :
    s.SameFuses (s.enrol h ok obj) := by
  have kind := State.enrolCheck_kind bad passes
  have writesNone : ¬(leAt (enrolRecordOf obj) 0 1 % 3 = 0 ∧ !ok) := by omega
  unfold State.enrol
  rw [if_neg writesNone]
  exact (State.SameFuses.enrolRecord s kind).trans ((State.SameFuses.secCount _ 0).trans (.reply _ hch 0x0907 0 [] false))

theorem State.SameFuses.keyEnrolment (bad : s.sec.fuseBad = true) (hch : h.channel < 8) (offset total : Nat) (data : Bytes) (ok : Bool) (cmd : Instr) :
    s.SameFuses (s.fwCommand h (fwKeyEnrolment h offset total data ok) cmd) := by
  refine State.SameFuses.fwCommand hch (fun _ => ?act) fun status => ?refusal
  case refusal => exact (State.SameFuses.taken s hch).trans ((State.SameFuses.takePart _ h 0x0907 offset total data).trans (.secCount _ status))
  case act =>
    have accepted : s.SameFuses (s.fwAccepted h 0x0907) :=
      (State.SameFuses.taken s hch).trans ((State.SameFuses.wakeFor _ 0x0907 true).trans (.accept _ hch 0x0907))
    have kept := accepted.trans (.takePart _ h 0x0907 offset total data)
    show s.SameFuses ((fwKeyEnrolment h offset total data ok).act (s.fwAccepted h 0x0907))
    unfold fwKeyEnrolment partFw
    dsimp only
    split
    · exact kept.trans (.reply _ hch 0x0907 0x0190 [] false)
    · exact kept.trans (.reply _ hch 0x0907 0 [] false)
    · next obj _ =>
      split
      case isTrue => exact kept.trans ((State.SameFuses.secCount _ _).trans (.reply _ hch 0x0907 _ [] false))
      case isFalse passes => exact kept.trans (.enrol (kept.bad.trans bad) hch (not_not.1 passes) ok)

/-- A floor is raised no more: the command never passes its check. -/
theorem State.SameFuses.firmwareUpdateFloor (bad : s.sec.fuseBad = true) (hch : h.channel < 8) (target : Nat) (ok : Bool) (cmd : Instr) :
    s.SameFuses (s.fwCommand h (fwFirmwareUpdateFloor h target ok) cmd) := by
  have taken := State.SameFuses.taken s hch
  refine State.SameFuses.fwCommand hch (fun passes => ?_) fun status => taken.trans (.secCount _ status)
  simp only [fwFirmwareUpdateFloor, secFw, taken.bad.trans bad, if_true] at passes
  split at passes <;> cases passes

end
end Sys2Proof.Machine

namespace Sys2Proof.Proofs.Security

open Sys2Proof.Machine

/-- Settles O29: an object is judged at its last part; a mismatch faults the module, and after one no command moves a fuse. -/
theorem unlockAndUpdateCommandsComplete : Obligations.UnlockAndUpdateCommandsComplete := by
  intro s h
  refine ⟨fun _ runs _ _ _ => next_fwCommand_of_runs rfl runs,
    fun _ _ _ _ _ before whole => congrArg Host.Outcome.next (fwCommand_of_wholePart rfl before whole rfl),
    fun t obj level at_ ch k challenge key length entry allowed inTime =>
      ⟨State.unlockCheck_of_signed challenge key length entry allowed inTime, State.unlock_of_challenge challenge⟩,
    fun _ _ _ _ _ _ before whole => congrArg Host.Outcome.next (fwCommand_of_wholePart rfl before whole rfl),
    fun t obj length first unowned sound fresh =>
      ⟨State.enrolCheck_of_first length first unowned sound fresh, State.enrol_of_written length⟩,
    fun _ _ _ runs => next_fwCommand_of_runs rfl runs, fun addr offset total data o t runs part taken => ?stage,
    fun _ runs _ _ => next_fwCommand_of_runs rfl runs, fun target runs _ _ canon => ?floor, fun bad hch target offset total data ok t course => ?kept⟩
  case stage =>
    refine (next_fwCommand_of_runs rfl runs).trans (congrArg Host.Outcome.next ?_)
    simp only [fwFirmwareUpdateStage, Fw.discarding, secFw, part]
  case floor =>
    have written := State.wr_kept canon_kept _ (fwFloor target) (Min.min ((s.fwAccepted h 0x0906).free 7).1 64)
      (canon_kept.other _ ((s.fwAccepted h 0x0906).free 7).2 rfl rfl rfl (State.fwAccepted_canon canon h 0x0906))
    exact ⟨_, next_fwCommand_of_runs rfl runs, State.fuseMismatch_faults written h 0x0906⟩
  case kept =>
    have same : s.SameFuses t := by
      rcases course with enrolment | floor
      · cases enrolment
        exact .keyEnrolment bad hch offset total data ok _
      · cases floor
        exact .firmwareUpdateFloor bad hch target ok _
    have status := same.reg SEC_STATUS (by decide) (by decide)
    have version := same.reg SEC_VERSION (by decide) (by decide)
    refine ⟨fun w hw => State.rd_congr (f := SEC_FUSE_HASH.hash w) (same.reg _ ?_ ?_), State.rd_congr status, State.rd_congr status,
      State.rd_congr version, State.rd_congr version⟩
    all_goals
      simp only [SEC_FUSE_HASH.hash, SEC_FUSE_HASH]
      omega

end Sys2Proof.Proofs.Security
end
